-- ==== Sys2Proof/Word.lean ====
section
/-! DEFINITION. The word types of the OX-12 (R8, R10, R21, R90, R206): registers hold 32-bit words, pairs
and addresses are 64 bits wide, memory is bytes. -/

namespace Sys2Proof

/-- A register word (R90). -/
abbrev Word := BitVec 32

/-- A 64-bit operand, an address or a 64-bit register (R90, R266). -/
abbrev Dword := BitVec 64

/-- A byte of memory (R8). -/
abbrev Byte := BitVec 8

/-- One bit per lane of a wave: bit `L` is lane `L` (R21). -/
abbrev LaneMask := BitVec 32

/-- One value per lane; entry `L` is lane `L`'s (R21). A well-formed one has 32 entries. -/
abbrev Lanes := List Word

/-- The 128 data bits of a token (R297). -/
abbrev TokenData := BitVec 128

end Sys2Proof
end

