-- ==== Sys2Proof/Syntax.lean ====
section
/-! DEFINITION. The syntax of the OX-12: the fields of an instruction word (R85, R87), the operands of the events
of the opcode table, and `Instr`, one constructor per row of spec/opcode_table.json. The first 158 rows are SIMT
instructions, each carrying the fields of its word; the other rows are the events that units other than a wave's
issue logic perform, each carrying what the rule of the row leaves to the moment (which wave, which queue, the
value written). No event has an encoding. -/

namespace Sys2Proof

/-- The fields of a base word below its opcode (R85), and its extension word when X is 1 (R87). The opcode itself is
the constructor of `Instr`. Selectors are kept as the manual's numbers: `Machine.Sel` and `Machine.Dst` read them. -/
structure Enc where
  /-- MOD, bits [55:44]. -/
  mod : BitVec 12
  /-- GMASK, bits [42:40]. -/
  gmask : BitVec 3
  /-- GINV, bit [39]. -/
  ginv : Bool
  /-- DST, bits [38:30]. -/
  dst : BitVec 9
  /-- A, bits [29:20]. -/
  a : BitVec 10
  /-- B, bits [19:10]. -/
  b : BitVec 10
  /-- C, bits [9:0]. -/
  c : BitVec 10
  /-- The extension word; X, bit [43], is 1 exactly when it is there. -/
  ext : Option (BitVec 64)
  deriving DecidableEq, Repr

/-- A bank of a stack's memory: stack 0-11, pseudo-channel 0-63, bank 0-31 (R374). -/
structure HbmBank where
  stack : Nat
  pch : Nat
  bank : Nat
  deriving DecidableEq, Repr

/-- A data column of a bank: row 0-32,767, column 0-14 (R374). -/
structure HbmCoord where
  bank : HbmBank
  row : Nat
  col : Nat
  deriving DecidableEq, Repr

/-- The AtomicOps that a host issues and the OX-12 completes (R386). -/
inductive HostAtomic where
  | fetchAdd
  | swap
  | cas
  deriving DecidableEq, Repr

/-- A request of a peer module (R392, R393); `atom` carries the operation's name as R188 numbers its opcode. -/
inductive PeerReq where
  | read (len : Nat)
  | write (data : List Byte)
  | atom (op : BitVec 8) (wide signed float : Bool) (x y : Dword)
  deriving DecidableEq, Repr

/-- Who writes a register or sends a mailbox command (R386, R411): PF 0, the VF of a partition, or the
security processor itself acting for the secure world. -/
inductive Origin where
  | pf0
  | vf (part : Nat)
  | secure
  deriving DecidableEq, Repr

/-- A received Ethernet frame (R394-R400): the fields that classification reads, its length on the wire without the
FCS, the landed bytes when no key is used, and the IV, ciphertext and tag of its payload. -/
structure Frame where
  port : Nat
  ipv6 : Bool
  ipLo : Dword
  ipHi : Dword
  udpPort : BitVec 16
  vlan : Option (BitVec 12)
  wireLen : Nat
  head : List Byte
  payload : List Byte
  /-- %clk at the frame's first byte (R401). -/
  began : Dword
  deriving DecidableEq, Repr

/-- The ports that link recovery acts on (R413). -/
inductive LinkUnit where
  | host
  | cxl (port : Nat)
  | eth (port : Nat)
  deriving DecidableEq, Repr

/-- The live service actions (R413). -/
inductive SvcKind where
  | coreSwap (core : Nat)
  | rowSpare (b : HbmBank) (row : Nat)
  | pchRetire (stack pch : Nat)
  | hbmRecal (stack pch : Nat)
  | padRecal (stack pf : Nat)
  | plyRetrain (port : Nat)
  | d2dRetrain
  | linkRecovery (u : LinkUnit)
  | firmware (target : BitVec 16)
  deriving DecidableEq, Repr

/-- One hop of a token inside an array (R296, R305): a switch of a pad moves the token at one of its inputs, a
channel's token enters the fabric at an attachment, or a forwarding channel's token reaches its target channel. -/
inductive TokenMove where
  | sw (pad index input : Nat)
  | attach (pad chan : Nat)
  | forward (pad chan : Nat)
  deriving DecidableEq, Repr

/-- The registers whose writes have no row of their own in the opcode table (R9), by the rule that lays each down. -/
inductive RegName where
  /-- LQ_BASE (R387). -/
  | lqBase (part : Nat)
  /-- HWIN_VA (R387). -/
  | hwinVa (part : Nat)
  /-- HOST_ERR (R387), W1C. -/
  | hostErr (part : Nat)
  /-- SYS_TMO (R387). -/
  | sysTmo (part : Nat)
  /-- IR_BASE (R387). -/
  | irBase (part : Nat)
  /-- UET_RT (R387). -/
  | uetRt (part : Nat)
  /-- FQ_BASE (R276). -/
  | fqBase (part : Nat)
  /-- FQ_SIZE (R276). -/
  | fqSize (part : Nat)
  /-- FQ_WRITE (R276), written by the device. -/
  | fqWrite (part : Nat)
  /-- FQ_READ (R276). -/
  | fqRead (part : Nat)
  /-- DIST_CTL (R52). -/
  | distCtl (part : Nat)
  /-- SLICE_IVL (R57). -/
  | sliceIvl (part : Nat)
  /-- AGE_LIMIT (R58). -/
  | ageLimit (part : Nat)
  /-- SRND_KEY (R223). -/
  | srndKey (part : Nat)
  /-- CTX_DESC (R256), written from PF 0. -/
  | ctxDesc (part : Nat)
  /-- PRE_DL (R266). -/
  | preDl (part : Nat)
  /-- WDOG (R266). -/
  | wdog (part : Nat)
  /-- SHADOW (R266), secure world only. -/
  | shadow (part : Nat)
  /-- TLB_INV (R266). -/
  | tlbInv (part : Nat)
  /-- DBG_CTL (R266); a write that sets HALT is the event DBG_HALT. -/
  | dbgCtl (part : Nat)
  /-- PROF_CTL (R280). -/
  | profCtl (part : Nat)
  /-- PROF_BASE (R280). -/
  | profBase (part : Nat)
  /-- TAD_IVL (R280). -/
  | tadIvl (part : Nat)
  /-- TAD_BASE (R280), PF 0. -/
  | tadBase (part : Nat)
  /-- TAD_SIZE (R280), PF 0. -/
  | tadSize (part : Nat)
  /-- TAD_LOG (R280), PF 0. -/
  | tadLog (part : Nat)
  /-- TAD_LOG_SIZE (R280), PF 0. -/
  | tadLogSize (part : Nat)
  /-- TAD_LOG_READ (R280). -/
  | tadLogRead (part : Nat)
  /-- TAD_STOP (R280). -/
  | tadStop (part : Nat)
  /-- ARR_SAVE_BASE (R338). -/
  | arrSaveBase (part : Nat)
  /-- ARR_SAVE_SIZE (R338). -/
  | arrSaveSize (part : Nat)
  /-- SPM_ARG0 of a mailbox (R411): none is PF 0's. -/
  | spmArg0 (part : Option Nat)
  /-- SPM_ARG1 of a mailbox (R411). -/
  | spmArg1 (part : Option Nat)
  /-- TASK_LOST (R51), W1C. -/
  | taskLost (die : Nat)
  /-- SE_OVF_BASE (R193), secure. -/
  | seOvfBase (die : Nat)
  /-- SE_OVF_SIZE (R193), secure. -/
  | seOvfSize (die : Nat)
  /-- SE_STAT (R193), W1C. -/
  | seStat (die : Nat)
  /-- CHAM_CTL (R322), secure. -/
  | chamCtl (stack : Nat)
  /-- ARR_STAT (R322), W1C. -/
  | arrStat (stack : Nat)
  /-- GW_REJ (R335), W1C. -/
  | gwRej (stack : Nat)
  /-- ACLK_CTL (R340), secure. -/
  | aclkCtl (stack : Nat)
  /-- GK_SPILL_BASE(g) (R352), secure. -/
  | gkSpillBase (stack g : Nat)
  /-- GK_SPILL_SIZE(g) (R352), secure. -/
  | gkSpillSize (stack g : Nat)
  /-- HBM_CTL (R376), secure. -/
  | hbmCtl (stack : Nat)
  /-- MGMT_ALERT (R376), W1C. -/
  | mgmtAlert (stack : Nat)
  /-- BANK_BO(p, b) (R376), W1C. -/
  | bankBo (stack pch bank : Nat)
  /-- ECC_STAT (R376), W1C. -/
  | eccStat (stack : Nat)
  /-- QOS_SLOT(ch, j) (R381), secure. -/
  | qosSlot (stack ch j : Nat)
  /-- SEC_LIM(i) (R404), secure. -/
  | secLim (i : Nat)
  /-- PLY_ID (R391), secure. -/
  | plyId
  /-- PLY_EXP(m) (R392), secure. -/
  | plyExp (m : Nat)
  /-- NET_STAT (R395), W1C. -/
  | netStat
  /-- NET_DATA(i) (R395), secure. -/
  | netData (i : Nat)
  /-- PWR_CAP (R416). -/
  | pwrCap
  deriving DecidableEq, Repr

/-- The operations and events of the OX-12, one constructor per row of spec/opcode_table.json: the instructions in the
table's order, the events that the module brings about itself, then those that only the outside brings about. -/
inductive Instr where
  /-- `add` (R111): Integer add of A and B at the instruction's type, wrapped or saturated. -/
  | intAdd (e : Enc)
  /-- `sub` (R111): Integer subtract of B from A, wrapped or saturated. -/
  | intSub (e : Enc)
  /-- `mul` (R111): Integer multiply, wrapped or saturated. -/
  | intMul (e : Enc)
  /-- `mulhi` (R111): Upper half of the double-width integer product. -/
  | mulhi (e : Enc)
  /-- `mad` (R111): Integer multiply-add a x b + c, wrapped or saturated. -/
  | mad (e : Enc)
  /-- `min` (R111): Smaller of two integers, signed or unsigned by type. -/
  | intMin (e : Enc)
  /-- `max` (R111): Larger of two integers, signed or unsigned by type. -/
  | intMax (e : Enc)
  /-- `abs` (R111): Integer absolute value with wrap. -/
  | intAbs (e : Enc)
  /-- `neg` (R111): Integer negation with wrap. -/
  | intNeg (e : Enc)
  /-- `and` (R111): Bitwise and. -/
  | andOp (e : Enc)
  /-- `or` (R111): Bitwise or. -/
  | orOp (e : Enc)
  /-- `xor` (R111): Bitwise exclusive or. -/
  | xorOp (e : Enc)
  /-- `not` (R111): Bitwise complement. -/
  | notOp (e : Enc)
  /-- `shl` (R111): Shift left by an unmasked count. -/
  | shl (e : Enc)
  /-- `shr` (R111): Logical or arithmetic shift right by an unmasked count. -/
  | shr (e : Enc)
  /-- `rot` (R111): Rotate right by count mod width. -/
  | rot (e : Enc)
  /-- `popc` (R111): Count of one bits. -/
  | popc (e : Enc)
  /-- `clz` (R111): Count of leading zero bits. -/
  | clz (e : Enc)
  /-- `ctz` (R111): Count of trailing zero bits. -/
  | ctz (e : Enc)
  /-- `brev` (R111): Bit reversal. -/
  | brev (e : Enc)
  /-- `bfe` (R112): Bit-field extract at a position and width. -/
  | bfe (e : Enc)
  /-- `bfi` (R112): Bit-field insert at a position and width. -/
  | bfi (e : Enc)
  /-- `sel` (R113): Select A or B by a k register per lane or uniformly. -/
  | sel (e : Enc)
  /-- `mov` (R114): Copy a source to a v, s or k destination. -/
  | mov (e : Enc)
  /-- `cmp` (R115): Integer or raw compare writing a k mask. -/
  | intCmp (e : Enc)
  /-- `lea` (R113): Address arithmetic a + b x 2^c. -/
  | lea (e : Enc)
  /-- `perm` (R113): Byte permutation from a pool of two words. -/
  | perm (e : Enc)
  /-- `shf` (R113): Funnel shift right of a register pair. -/
  | shf (e : Enc)
  /-- `add` (R117): Floating add with the selected rounding. -/
  | fpAdd (e : Enc)
  /-- `sub` (R117): Floating subtract with the selected rounding. -/
  | fpSub (e : Enc)
  /-- `mul` (R117): Floating multiply with the selected rounding. -/
  | fpMul (e : Enc)
  /-- `fma` (R117): Fused multiply-add with one rounding. -/
  | fma (e : Enc)
  /-- `min` (R118): Floating minimum with NaN and signed-zero rules. -/
  | fpMin (e : Enc)
  /-- `max` (R118): Floating maximum with NaN and signed-zero rules. -/
  | fpMax (e : Enc)
  /-- `abs` (R118): Clear the sign bit. -/
  | fpAbs (e : Enc)
  /-- `neg` (R118): Invert the sign bit. -/
  | fpNeg (e : Enc)
  /-- `cmp` (R121): Floating compare writing a k mask. -/
  | fpCmp (e : Enc)
  /-- `class` (R119): Test floating class membership into a k mask. -/
  | classOp (e : Enc)
  /-- `rcp` (R120): Correctly rounded reciprocal. -/
  | rcp (e : Enc)
  /-- `rsq` (R120): Correctly rounded reciprocal square root. -/
  | rsq (e : Enc)
  /-- `sqe` (R120): Correctly rounded square root. -/
  | sqe (e : Enc)
  /-- `exp2` (R120): Correctly rounded base-2 exponential. -/
  | exp2 (e : Enc)
  /-- `log2` (R120): Correctly rounded base-2 logarithm. -/
  | log2 (e : Enc)
  /-- `rnd` (R122): Round to an integral value in the same format. -/
  | rnd (e : Enc)
  /-- `cvt` (R123): Convert between numeric types. -/
  | cvt (e : Enc)
  /-- `cvt2` (R124): Convert two f32 values and pack them. -/
  | cvt2 (e : Enc)
  /-- `pack` (R125): Convert a value and replace one element of a packed word. -/
  | pack (e : Enc)
  /-- `unpk` (R125): Exact f32 value of one element of a packed word. -/
  | unpk (e : Enc)
  /-- `dcd` (R125): Decode one NF4B element with block and band scale. -/
  | dcd (e : Enc)
  /-- `enc` (R125): Encode an f32 value to an NF4B element code. -/
  | enc (e : Enc)
  /-- `sbx` (R125): Expand one burst-scaled stream element to f32. -/
  | sbx (e : Enc)
  /-- `scl` (R125): Scale an f32 value by a power of two. -/
  | scl (e : Enc)
  /-- `quad.xor` (R128): Read a lane of the quad by xor of the quad index. -/
  | quadXor (e : Enc)
  /-- `quad.bc` (R128): Broadcast a lane within each quad. -/
  | quadBc (e : Enc)
  /-- `shfl.idx` (R128): Shuffle from an indexed lane. -/
  | shflIdx (e : Enc)
  /-- `shfl.up` (R128): Shuffle from a lower lane by distance. -/
  | shflUp (e : Enc)
  /-- `shfl.dn` (R128): Shuffle from a higher lane by distance. -/
  | shflDn (e : Enc)
  /-- `shfl.xor` (R128): Shuffle from the lane given by xor. -/
  | shflXor (e : Enc)
  /-- `wred` (R129): Wave reduction over a fixed tree into a scalar. -/
  | wred (e : Enc)
  /-- `wscan` (R130): Inclusive scan in ascending lane order. -/
  | wscan (e : Enc)
  /-- `ballot` (R131): Mask of lanes whose operand is non-zero. -/
  | ballot (e : Enc)
  /-- `kop` (R131): Logical operation on two k registers. -/
  | kop (e : Enc)
  /-- `kpopc` (R131): Count of bits of a k register within k0. -/
  | kpopc (e : Enc)
  /-- `kffs` (R131): Index of the lowest set bit within k0. -/
  | kffs (e : Enc)
  /-- `match` (R131): Mask of lanes equal to the first qualifying lane. -/
  | matchOp (e : Enc)
  /-- `br` (R132): Uniform conditional or unconditional branch. -/
  | br (e : Enc)
  /-- `split` (R133): Push a reconvergence entry and narrow the execution mask. -/
  | split (e : Enc)
  /-- `join` (R133): Pop a reconvergence entry and restore the mask. -/
  | join (e : Enc)
  /-- `loop` (R134): Decrement a scalar counter and branch while non-zero. -/
  | loop (e : Enc)
  /-- `call` (R135): Write the link pair and branch. -/
  | call (e : Enc)
  /-- `ret` (R135): Jump to the address in a scalar pair. -/
  | ret (e : Enc)
  /-- `jmp` (R135): Plain indirect jump through a scalar pair. -/
  | jmp (e : Enc)
  /-- `nop` (R135): Occupies an ALU port and does nothing. -/
  | nop (e : Enc)
  /-- `ld.g` (R142): Global load through the buffer lookup, optionally with acquire. -/
  | ldG (e : Enc)
  /-- `st.g` (R142): Global store into the wave buffer, optionally with release commit. -/
  | stG (e : Enc)
  /-- `ld.s` (R142): Scratchpad load. -/
  | ldS (e : Enc)
  /-- `st.s` (R142): Scratchpad store into the wave buffer. -/
  | stS (e : Enc)
  /-- `ld.c` (R142): Load from a constant window. -/
  | ldC (e : Enc)
  /-- `tld` (R146): Load one tensor element by index through the tensor table. -/
  | tld (e : Enc)
  /-- `gat.g` (R144): Global gather by element index. -/
  | gatG (e : Enc)
  /-- `sct.g` (R144): Global scatter by element index. -/
  | sctG (e : Enc)
  /-- `gat.s` (R144): Scratchpad gather by element index. -/
  | gatS (e : Enc)
  /-- `sct.s` (R144): Scratchpad scatter by element index. -/
  | sctS (e : Enc)
  /-- `pf` (R147): Prefetch lines as clean copies without trapping. -/
  | pf (e : Enc)
  /-- `commit` (R148): Move every line on the commit path to the named level in one step. -/
  | commit (e : Enc)
  /-- `commit.wave.x` (R150): Conditional wave commit that discards the buffer on a sibling conflict. -/
  | commitX (e : Enc)
  /-- `abort` (R151): Discard the pending lines of the wave, block or cluster level. -/
  | abortOp (e : Enc)
  /-- `acq` (R152): Acquire at a level, discarding older clean copies. -/
  | acq (e : Enc)
  /-- `bar.blk` (R153): Commit, arrive at a block barrier and wait for the phase. -/
  | barBlk (e : Enc)
  /-- `bar.arv` (R153): Commit and arrive at a block barrier without waiting. -/
  | barArv (e : Enc)
  /-- `bar.wt` (R153): Wait for the phase of the wave's latest arrival, then acquire. -/
  | barWt (e : Enc)
  /-- `own.give` (R154): Commit buffer lines into tiles and hand the tiles to the engines. -/
  | ownGive (e : Enc)
  /-- `own.tst` (R155): Test whether a tile range is thread-owned. -/
  | ownTst (e : Enc)
  /-- `trap` (R158): Raise a software trap. -/
  | trapOp (e : Enc)
  /-- `rte` (R264): Return from the handler after acknowledgements drain. -/
  | rte (e : Enc)
  /-- `yield` (R158): Start the pre-emption save when a request is pending. -/
  | yieldOp (e : Enc)
  /-- `mode` (R157): Update bits of the wave's mode register. -/
  | modeOp (e : Enc)
  /-- `getm` (R157): Read the mode register into a scalar. -/
  | getm (e : Enc)
  /-- `rdpr` (R265): Read a privileged register in the handler. -/
  | rdpr (e : Enc)
  /-- `wrpr` (R265): Write a privileged register in the handler. -/
  | wrpr (e : Enc)
  /-- `bkpt` (R158): Raise a breakpoint or a debug halt. -/
  | bkpt (e : Enc)
  /-- `sleep` (R158): Make the wave ineligible for a count of clocks. -/
  | sleep (e : Enc)
  /-- `atom.add` (R189): Atomic add at the named level. -/
  | atomAdd (e : Enc)
  /-- `atom.min` (R189): Atomic minimum at the named level. -/
  | atomMin (e : Enc)
  /-- `atom.max` (R189): Atomic maximum at the named level. -/
  | atomMax (e : Enc)
  /-- `atom.and` (R189): Atomic bitwise and. -/
  | atomAnd (e : Enc)
  /-- `atom.or` (R189): Atomic bitwise or. -/
  | atomOr (e : Enc)
  /-- `atom.xor` (R189): Atomic bitwise exclusive or. -/
  | atomXor (e : Enc)
  /-- `atom.exch` (R189): Atomic exchange. -/
  | atomExch (e : Enc)
  /-- `atom.cas` (R189): Atomic compare and swap. -/
  | atomCas (e : Enc)
  /-- `atom.inc` (R189): Atomic increment with wrap at a limit. -/
  | atomInc (e : Enc)
  /-- `bar.clus` (R194): Commit to cluster level, arrive at a cluster barrier and wait. -/
  | barClus (e : Enc)
  /-- `bar.grid` (R194): Commit to device level, arrive at a grid barrier and wait. -/
  | barGrid (e : Enc)
  /-- `mbar.init` (R198): Initialise a memory-resident barrier object. -/
  | mbarInit (e : Enc)
  /-- `mbar.arv` (R198): Commit and arrive at a memory-resident barrier with a count. -/
  | mbarArv (e : Enc)
  /-- `mbar.wait` (R198): Wait until a memory-resident barrier passes a phase, then acquire. -/
  | mbarWait (e : Enc)
  /-- `blk.grow` (R33): Attach up to n further waves to the block. -/
  | blkGrow (e : Enc)
  /-- `blk.leave` (R35): Drain batches, commit and detach the wave, retiring the block if last. -/
  | blkLeave (e : Enc)
  /-- `role` (R39): Switch named waves of the block to another role, all or nothing. -/
  | role (e : Enc)
  /-- `ctrg` (R201): Counter-based generator word from counter and key. -/
  | ctrg (e : Enc)
  /-- `isect` (R202): One merge step of two sorted lists across lanes. -/
  | isect (e : Enc)
  /-- `task.spawn` (R204): Commit and submit a child launch counted in a join object. -/
  | taskSpawn (e : Enc)
  /-- `task.join` (R204): Attach a task decrement to a join object or decrement at once. -/
  | taskJoin (e : Enc)
  /-- `task.wait` (R204): Wait until a join object's count is zero, then acquire. -/
  | taskWait (e : Enc)
  /-- `tset` (R235): Write a tensor table entry word and invalidate the caches. -/
  | tset (e : Enc)
  /-- `tget` (R235): Read a tensor table entry word. -/
  | tget (e : Enc)
  /-- `cp.push` (R244): Append a copy packet to a copy queue and the open batch. -/
  | cpPush (e : Enc)
  /-- `cp.close` (R246): Close the open batch and return its number. -/
  | cpClose (e : Enc)
  /-- `cp.wait` (R246): Wait for closed batches up to a number, then acquire. -/
  | cpWait (e : Enc)
  /-- `ring.set` (R239): Set a ring's geometry and bound tensor. -/
  | ringSet (e : Enc)
  /-- `ring.adv` (R239): Hand thread-filled ring entries to the engines. -/
  | ringAdv (e : Enc)
  /-- `ring.rd` (R239): Read a ring's head and tail counts. -/
  | ringRd (e : Enc)
  /-- `mx.row` (R247): Check and queue a matrix command over accumulator rows. -/
  | mxRow (e : Enc)
  /-- `mx.ldb` (R249): Fetch B k-tiles into the stationary buffer. -/
  | mxLdb (e : Enc)
  /-- `mx.resume` (R249): Resume or abandon the wave's stopped matrix commands. -/
  | mxResume (e : Enc)
  /-- `mx.prog` (R249): Read progress and state of a matrix command. -/
  | mxProg (e : Enc)
  /-- `acc.rd` (R251): Read accumulator columns, with band scales for f32. -/
  | accRd (e : Enc)
  /-- `acc.wr` (R251): Write raw accumulator columns. -/
  | accWr (e : Enc)
  /-- `acc.clr` (R251): Clear accumulator rows and their band records. -/
  | accClr (e : Enc)
  /-- `acc.out` (R251): Queue conversion of accumulator rows into an output tensor. -/
  | accOut (e : Enc)
  /-- `sda.run` (R254): Hand a configuration sequence to a stack's base die and return a handle. -/
  | sdaRun (e : Enc)
  /-- `sda.stop` (R254): Drain and discard a region. -/
  | sdaStop (e : Enc)
  /-- `sda.stat` (R254): Read a region's state word. -/
  | sdaStat (e : Enc)
  /-- `sda.ld` (R254): Load a sequence's images into a configuration cache. -/
  | sdaLd (e : Enc)
  /-- `gk.hf` (R355): Initialise a Gecko hash family. -/
  | gkHf (e : Enc)
  /-- `gk.tbl` (R356): Initialise a Gecko table over a family. -/
  | gkTbl (e : Enc)
  /-- `gk.ins` (R358): Insert a row id into its bucket as a numbered update. -/
  | gkIns (e : Enc)
  /-- `gk.del` (R358): Delete a row id from its bucket as a numbered update. -/
  | gkDel (e : Enc)
  /-- `gk.probe` (R361): Return the row ids of an input's bucket after a minimum sequence. -/
  | gkProbe (e : Enc)
  /-- `gk.rehash` (R359): Move n old buckets to a new family as a numbered update. -/
  | gkRehash (e : Enc)
  /-- `gk.eval` (R362): Evaluate the retrieved rows against an input, optionally into the top-k list. -/
  | gkEval (e : Enc)
  /-- `gk.seq` (R364): Read a table's performed sequence and rehash state. -/
  | gkSeq (e : Enc)
  /-- `gk.stat` (R364): Read a table's overflow counters. -/
  | gkStat (e : Enc)
  /-- `topk.ins` (R370): Insert lane pairs into the top-k list. -/
  | topkIns (e : Enc)
  /-- `topk.mrg` (R371): Merge a list image into the top-k list. -/
  | topkMrg (e : Enc)
  /-- `topk.rd` (R372): Read values or indices of top-k entries. -/
  | topkRd (e : Enc)
  /-- `topk.clr` (R372): Set k and empty the top-k list. -/
  | topkClr (e : Enc)
  /-- `topk.sum` (R372): Read SEL and EXC of the top-k list. -/
  | topkSum (e : Enc)
  /-- Event (R258): A pending async cause is taken at an instruction boundary or interrupts a wait. -/
  | asyncCauseTaken (w : Nat)
  /-- Event (R138): Load data returns, releasing the scoreboard or marking poison for trap 20. -/
  | loadDataReturn (w line : Nat) (clean : Bool)
  /-- Event (R148): A line's acknowledgement arrives and lowers the wave's %acks. -/
  | ackArrival (w k : Nat)
  /-- Event (R163): At publication time T both homes make a cross-die commit's lines device-level. -/
  | crossDiePublish (w : Nat)
  /-- Event (R46): The scheduler consumes a launch packet, checks it and its record, and admits or holds it. -/
  | launchPacket (part q : Nat)
  /-- Event (R50): A decrement reaches a named task, releasing its launch at zero or counting TASK_LOST. -/
  | taskDecrement (k : Nat)
  /-- Event (R42): The slice interval expires without a retirement and a slice pre-emption is made. -/
  | sliceExpiry (grid : Nat)
  /-- Event (R58): A head block's wait reaches its AGE limit and it is treated as class 0. -/
  | ageingExpiry (grid : Nat)
  /-- Event (R267): The deadline reaches DL and remaining waves are forced with cause 48. -/
  | preemptDeadlineExpiry (blk : Nat)
  /-- Event (R268): After all members stop, the save engine writes the block record and frees the allocation. -/
  | blockSave (blk : Nat)
  /-- Event (R270): A saved block is reloaded on a core and its waves enter the handler to restore. -/
  | blockRestore (blk : Nat)
  /-- Event (R271): Every resident block of a partition is halted and copied to shadow storage. -/
  | partitionSwap (part : Nat)
  /-- Event (R271): Shadow storage is copied back onto the same cores and waves resume. -/
  | partitionSwapIn (part : Nat)
  /-- Event (R158): A sleeping wave's count ends and it becomes eligible. -/
  | sleepExpiry (w : Nat)
  /-- Event (R277): A wave issues nothing for the limit and takes cause 50. -/
  | watchdogExpiry (w : Nat)
  /-- Event (R277): At each interval each core writes one sample. -/
  | profilerSample (part core : Nat)
  /-- Event (R278): Tadpole takes a checkpoint at its interval. -/
  | tadpoleCheckpoint (part : Nat)
  /-- Event (R279): Restore a checkpoint, undo the log and re-execute in logged order. -/
  | tadpoleReplay (part : Nat)
  /-- Event (R275): Every cached translation in range is dropped and BUSY returns to 0. -/
  | tlbInvComplete (part : Nat)
  /-- Event (R243): The copy engine takes a packet from a copy queue and starts it. -/
  | copyPacket (part cq : Nat)
  /-- Event (R245): The translation becomes present and the copy continues at the faulting line. -/
  | copyFaultResume (cmd : Nat)
  /-- Event (R243): All writes are acknowledged; tiles return, entries fill, batch, barrier and task update. -/
  | copyPacketComplete (cmd : Nat)
  /-- Event (R248): The matrix engine performs one k-step of a queued command. -/
  | mxKstep (cmd : Nat)
  /-- Event (R251): The matrix engine converts and writes accumulator rows to the tensor. -/
  | accOutPerform (cmd : Nat)
  /-- Event (R319): Chameleon loads a waiting region's images and places it on free pad frames. -/
  | regionPlacement (stack slot : Nat)
  /-- Event (R309): A ready PE consumes its inputs, computes and emits. -/
  | peFiring (stack slot pad pe : Nat)
  /-- Event (R328): An input stream reads elements for a reserved slot and writes a token. -/
  | streamInputToken (stack slot stream : Nat)
  /-- Event (R332): An output stream writes a token's elements to memory in order. -/
  | streamOutputWrite (stack slot stream : Nat)
  /-- Event (R298): An update token is applied at the read-modify-write element. -/
  | updateApply (stack slot stream : Nat)
  /-- Event (R317): A configuration completes; the region advances or ends and arrives at its barrier. -/
  | configComplete (stack slot : Nat)
  /-- Event (R337): A drain stops streams and PE firing for a move, swap, stop or failure. -/
  | drainRequest (stack slot : Nat)
  /-- Event (R337): The detector reports quiescence; the save record is written and frames freed. -/
  | regionQuiescence (stack slot : Nat)
  /-- Event (R339): A drained region is placed again and its saved state reloaded. -/
  | regionRestore (stack slot : Nat)
  /-- Event (R321): Chameleon moves a split region into one clock region. -/
  | compactionMove (stack slot : Nat)
  /-- Event (R360): The Gecko unit performs a table's next numbered update. -/
  | gkStepPerform (stack table : Nat)
  /-- Event (R361): A waiting probe or evaluation reads its table snapshot once its minimum is reached. -/
  | gkReadPerform (stack k : Nat)
  /-- Event (R375): A bank's idle timer reaches IDLE and the bank is precharged. -/
  | idlePrecharge (b : HbmBank)
  /-- Event (R380): When the aggressor row closes, its neighbours are refreshed. -/
  | refreshManagement (b : HbmBank)
  /-- Event (R384): A capacity-tier command ends and CT_STAT reports its result. -/
  | ctCmdDone
  /-- Event (R385): The whole-memory copy ends or stops on a fabric error. -/
  | ckptComplete (fabricError : Bool)
  /-- Event (R389): A system access is not answered within SYS_TMO and raises cause 25. -/
  | sysTimeout (w k : Nat)
  /-- Event (R390): A write of END stops every grid of the partition. -/
  | partEnd (part : Nat)
  /-- Event (R398): A frame held by back-pressure lands once its ring has a free slot. -/
  | heldFrameLanding (port prio : Nat)
  /-- Event (R401): A flow or key command ends and BUSY returns to 0. -/
  | netCmdDone
  /-- Event (R409): Produce a signed attestation report. -/
  | spmAttest (o : Origin)
  /-- Event (R413): Save a core's blocks and restore them on a spare that takes its number. -/
  | spareCoreSwap (core : Nat)
  /-- Event (R413): Copy and remap a row to a spare row. -/
  | rowSparing (b : HbmBank) (row : Nat)
  /-- Event (R413): Retire a pseudo-channel to a spare, copying row by row. -/
  | pchRetirement (stack pch : Nat)
  /-- Event (R413): Recalibrate one pseudo-channel. -/
  | hbmRecalibration (stack pch : Nat)
  /-- Event (R413): Recalibrate or replace a pad frame, moving its regions. -/
  | padFrameRecalibration (stack pf : Nat)
  /-- Event (R413): Retrain a Plynoley Link port's lanes. -/
  | plyLaneRetraining (port : Nat)
  /-- Event (R413): Retrain die-to-die link lanes at reduced width. -/
  | d2dLaneRetraining
  /-- Event (R413): Recover a host, CXL or Ethernet port link. -/
  | portLinkRecovery (unit : LinkUnit)
  /-- Event (R413): Activate accepted firmware on a target. -/
  | firmwareActivation (target : BitVec 16)
  /-- Event (R406): The security processor starts first and verifies firmware before any controller runs. -/
  | securityBoot
  /-- Event (R416): A D3hot request is accepted only with no resident or saved work. -/
  | d3hotRequest
  /-- Event (R305): A switch or mesh router moves a token one hop, and tokens in flight reach their channels, edge queues or forwarding targets. -/
  | switchTokenMove (stack slot : Nat) (mv : TokenMove)
  /-- Event (R251): An acc.out waiting at a faulting line continues once the translation is present. -/
  | accOutTranslationResume (cmd : Nat)
  /-- Event (R412): A live service action ends; the work it blocked proceeds and vector 0 of PF 0 is signalled. -/
  | serviceActionComplete (k : Nat)
  /-- Event (R410): The module loses power, losing any attestation key index that was advanced but whose signature was not yet released. -/
  | powerLoss
  /-- Event (R280): A write of CKPT takes a checkpoint now. -/
  | tadCmdCkpt (part : Nat) (v : Dword)
  /-- Event (R277): A write of HALT requests debug halt of every wave. -/
  | dbgHalt (part : Nat) (v : Dword)
  /-- Event (R275): A write of TLB_INV_N starts an invalidation of a range or everything. -/
  | tlbInvalidate (part : Nat) (v : Dword)
  /-- Event (R49): Clearing a QERR bit restarts the stopped launch queue. -/
  | qerrWrite (part : Nat) (v : Dword)
  /-- Event (R241): Clearing a CQERR bit restarts the stopped copy queue. -/
  | cqerrWrite (part : Nat) (v : Dword)
  /-- Event (R335): A token with a mismatched owner is dropped and counted. -/
  | gatewayReject (stack slot pf : Nat) (owner : BitVec 6)
  /-- Event (R340): At each window end a clock region's frequency rises, falls or holds. -/
  | aclkWindow (stack q up down total : Nat)
  /-- Event (R322): A change of pad frame assignment moves regions left on foreign frames. -/
  | arrAssignWrite (stack half : Nat) (v : Dword)
  /-- Event (R322): Drop the configuration cache entries of one image. -/
  | cfgcInvAddr (stack : Nat) (v : Dword)
  /-- Event (R322): Drop every unpinned configuration cache entry. -/
  | cfgcInvAll (stack : Nat) (v : Dword)
  /-- Event (R352): Changing a group's assignment uninitialises its families and tables. -/
  | gkAssignWrite (stack : Nat) (v : Dword)
  /-- Event (R378): A data column read is checked, corrected or poisoned. -/
  | hbmRead (c : HbmCoord) (part line errs : Nat)
  /-- Event (R378): A data column write updates its check and poison bit. -/
  | hbmWrite (c : HbmCoord) (part line : Nat) (full : Bool)
  /-- Event (R384): Add a capacity-tier extent. -/
  | ctAdd (v : Dword) (granted : Bool)
  /-- Event (R384): Release a capacity-tier extent after its requests drain. -/
  | ctRelease (v : Dword)
  /-- Event (R384): Mark an extent retained for checkpoints. -/
  | ctSetRetain (v : Dword)
  /-- Event (R384): Clear an extent's retain mark. -/
  | ctClearRetain (v : Dword)
  /-- Event (R385): Start a whole-memory checkpoint to retained extents. -/
  | ckptStart (v : Dword)
  /-- Event (R385): Start copying retained extents back to HBM. -/
  | ckptRestore (v : Dword)
  /-- Event (R388): A host read through a partition window returns device-level state. -/
  | hostBar2Read (part : Nat) (off : Dword) (len : Nat)
  /-- Event (R388): A host write through a partition window becomes a device-level step. -/
  | hostBar2Write (part : Nat) (off : Dword) (data : List Byte)
  /-- Event (R388): A host AtomicOp is performed at the sync engine. -/
  | hostAtomicop (part : Nat) (off : Dword) (op : HostAtomic) (wide : Bool) (x y : Dword)
  /-- Event (R389): A system access is answered with an error and raises cause 25. -/
  | sysErrorResponse (w k : Nat)
  /-- Event (R392): A peer access is checked against the export table and performed. -/
  | peerRequest (m : Nat) (o : Dword) (req : PeerReq)
  /-- Event (R394): An inbound UET write lands in a registered region. -/
  | uetWrite (part region : Nat) (off : Dword) (data : List Byte)
  /-- Event (R397): A received frame is classified, decrypted and landed or lost. -/
  | ethFrame (f : Frame)
  /-- Event (R395): Write a flow table entry. -/
  | netWriteFlow (v : Dword)
  /-- Event (R395): Clear a flow table entry. -/
  | netClearFlow (v : Dword)
  /-- Event (R400): Write a per-customer key entry. -/
  | netWriteKey (v : Dword)
  /-- Event (R400): Invalidate a key entry. -/
  | netClearKey (v : Dword)
  /-- Event (R408): Verify and accept a firmware image for a target. -/
  | spmLoadImage (o : Origin)
  /-- Event (R412): Request a live service action. -/
  | spmServiceRequest (o : Origin) (kind : SvcKind)
  /-- Event (R408): Raise a target's minimum SVN. -/
  | spmSvnCommit (o : Origin)
  /-- Event (R411): Write a secure-world register from a secure partition. -/
  | spmWriteSecureReg (o : Origin)
  /-- Event (R414): A failed core with no spare leaves every mask and grids may be ended. -/
  | coreFence (core : Nat)
  /-- Event (R405): Changing a core group's world empties the group before the change takes effect. -/
  | cgWorldWrite (die : Nat) (v : Dword)
  /-- Event (R405): Setting or clearing a secure range's VALID, zeroing it before clearing. -/
  | secRangeWrite (n : Nat) (v : Dword)
  /-- Event (R416): Power over a 1 ms window above PWR_CAP lowers the clocks. -/
  | powerWindow (watts : Nat)
  /-- Event (R416): A junction at or above 105 degrees throttles its die. -/
  | thermalThrottle (die temp : Nat)
  /-- Event (R416): A junction at 115 degrees trips the module. -/
  | thermalTrip (die temp : Nat)
  /-- Event (R9): A write to a register with no row of its own. -/
  | registerWrite (o : Origin) (r : RegName) (v : Dword)
  /-- Event (R261): An uncorrectable hardware error in a wave's registers, buffers or tiles makes cause 63 pending. -/
  | uncorrectableError (w src : Nat)
  /-- Event (R381): The controller's periodic refresh occupies a bank, taking its time from the QoS slots without changing ACT. -/
  | periodicRefresh (b : HbmBank)
  deriving DecidableEq, Repr

end Sys2Proof
end

