-- ==== Sys2Proof/Decode.lean ====
section
/-! DEFINITION. Instruction words (R85-R101): the opcode map, the decoder, which is total on any bytes and refuses by
name, and the encoder. Which fields an allocated opcode accepts is judged at issue (R103, Machine/Legal.lean), so the
decoder reads every word of an allocated opcode and drops no bit of it. -/

namespace Sys2Proof

/-! ## The opcode map (R101) -/

/-- The opcode of a SIMT instruction and the fields of its word; an event has neither. -/
def Instr.code : Instr → Option (BitVec 8 × Enc)
  | .intAdd e => some (0x00#8, e)
  | .intSub e => some (0x01#8, e)
  | .intMul e => some (0x02#8, e)
  | .mulhi e => some (0x03#8, e)
  | .mad e => some (0x04#8, e)
  | .intMin e => some (0x05#8, e)
  | .intMax e => some (0x06#8, e)
  | .intAbs e => some (0x07#8, e)
  | .intNeg e => some (0x08#8, e)
  | .andOp e => some (0x09#8, e)
  | .orOp e => some (0x0A#8, e)
  | .xorOp e => some (0x0B#8, e)
  | .notOp e => some (0x0C#8, e)
  | .shl e => some (0x0D#8, e)
  | .shr e => some (0x0E#8, e)
  | .rot e => some (0x0F#8, e)
  | .popc e => some (0x10#8, e)
  | .clz e => some (0x11#8, e)
  | .ctz e => some (0x12#8, e)
  | .brev e => some (0x13#8, e)
  | .bfe e => some (0x14#8, e)
  | .bfi e => some (0x15#8, e)
  | .sel e => some (0x16#8, e)
  | .mov e => some (0x17#8, e)
  | .intCmp e => some (0x18#8, e)
  | .lea e => some (0x19#8, e)
  | .perm e => some (0x1A#8, e)
  | .shf e => some (0x1B#8, e)
  | .fpAdd e => some (0x20#8, e)
  | .fpSub e => some (0x21#8, e)
  | .fpMul e => some (0x22#8, e)
  | .fma e => some (0x23#8, e)
  | .fpMin e => some (0x24#8, e)
  | .fpMax e => some (0x25#8, e)
  | .fpAbs e => some (0x26#8, e)
  | .fpNeg e => some (0x27#8, e)
  | .fpCmp e => some (0x28#8, e)
  | .classOp e => some (0x29#8, e)
  | .rcp e => some (0x2A#8, e)
  | .rsq e => some (0x2B#8, e)
  | .sqe e => some (0x2C#8, e)
  | .exp2 e => some (0x2D#8, e)
  | .log2 e => some (0x2E#8, e)
  | .rnd e => some (0x2F#8, e)
  | .cvt e => some (0x30#8, e)
  | .cvt2 e => some (0x31#8, e)
  | .pack e => some (0x32#8, e)
  | .unpk e => some (0x33#8, e)
  | .dcd e => some (0x34#8, e)
  | .enc e => some (0x35#8, e)
  | .sbx e => some (0x36#8, e)
  | .scl e => some (0x37#8, e)
  | .quadXor e => some (0x40#8, e)
  | .quadBc e => some (0x41#8, e)
  | .shflIdx e => some (0x42#8, e)
  | .shflUp e => some (0x43#8, e)
  | .shflDn e => some (0x44#8, e)
  | .shflXor e => some (0x45#8, e)
  | .wred e => some (0x46#8, e)
  | .wscan e => some (0x47#8, e)
  | .ballot e => some (0x48#8, e)
  | .kop e => some (0x49#8, e)
  | .kpopc e => some (0x4A#8, e)
  | .kffs e => some (0x4B#8, e)
  | .matchOp e => some (0x4C#8, e)
  | .br e => some (0x50#8, e)
  | .split e => some (0x51#8, e)
  | .join e => some (0x52#8, e)
  | .loop e => some (0x53#8, e)
  | .call e => some (0x54#8, e)
  | .ret e => some (0x55#8, e)
  | .jmp e => some (0x56#8, e)
  | .nop e => some (0x57#8, e)
  | .ldG e => some (0x60#8, e)
  | .stG e => some (0x61#8, e)
  | .ldS e => some (0x62#8, e)
  | .stS e => some (0x63#8, e)
  | .ldC e => some (0x64#8, e)
  | .tld e => some (0x65#8, e)
  | .gatG e => some (0x66#8, e)
  | .sctG e => some (0x67#8, e)
  | .gatS e => some (0x68#8, e)
  | .sctS e => some (0x69#8, e)
  | .pf e => some (0x6A#8, e)
  | .commit e => some (0x70#8, e)
  | .commitX e => some (0x71#8, e)
  | .abortOp e => some (0x72#8, e)
  | .acq e => some (0x73#8, e)
  | .barBlk e => some (0x74#8, e)
  | .barArv e => some (0x75#8, e)
  | .barWt e => some (0x76#8, e)
  | .ownGive e => some (0x77#8, e)
  | .ownTst e => some (0x78#8, e)
  | .trapOp e => some (0x80#8, e)
  | .rte e => some (0x81#8, e)
  | .yieldOp e => some (0x82#8, e)
  | .modeOp e => some (0x83#8, e)
  | .getm e => some (0x84#8, e)
  | .rdpr e => some (0x85#8, e)
  | .wrpr e => some (0x86#8, e)
  | .bkpt e => some (0x87#8, e)
  | .sleep e => some (0x88#8, e)
  | .atomAdd e => some (0x90#8, e)
  | .atomMin e => some (0x91#8, e)
  | .atomMax e => some (0x92#8, e)
  | .atomAnd e => some (0x93#8, e)
  | .atomOr e => some (0x94#8, e)
  | .atomXor e => some (0x95#8, e)
  | .atomExch e => some (0x96#8, e)
  | .atomCas e => some (0x97#8, e)
  | .atomInc e => some (0x98#8, e)
  | .barClus e => some (0x99#8, e)
  | .barGrid e => some (0x9A#8, e)
  | .mbarInit e => some (0x9B#8, e)
  | .mbarArv e => some (0x9C#8, e)
  | .mbarWait e => some (0x9D#8, e)
  | .blkGrow e => some (0xA0#8, e)
  | .blkLeave e => some (0xA1#8, e)
  | .role e => some (0xA2#8, e)
  | .ctrg e => some (0xA3#8, e)
  | .isect e => some (0xA4#8, e)
  | .taskSpawn e => some (0xA5#8, e)
  | .taskJoin e => some (0xA6#8, e)
  | .taskWait e => some (0xA7#8, e)
  | .tset e => some (0xB0#8, e)
  | .tget e => some (0xB1#8, e)
  | .cpPush e => some (0xB2#8, e)
  | .cpClose e => some (0xB3#8, e)
  | .cpWait e => some (0xB4#8, e)
  | .ringSet e => some (0xB5#8, e)
  | .ringAdv e => some (0xB6#8, e)
  | .ringRd e => some (0xB7#8, e)
  | .mxRow e => some (0xB8#8, e)
  | .mxLdb e => some (0xB9#8, e)
  | .mxResume e => some (0xBA#8, e)
  | .mxProg e => some (0xBB#8, e)
  | .accRd e => some (0xBC#8, e)
  | .accWr e => some (0xBD#8, e)
  | .accClr e => some (0xBE#8, e)
  | .accOut e => some (0xBF#8, e)
  | .sdaRun e => some (0xC0#8, e)
  | .sdaStop e => some (0xC1#8, e)
  | .sdaStat e => some (0xC2#8, e)
  | .sdaLd e => some (0xC3#8, e)
  | .gkHf e => some (0xD0#8, e)
  | .gkTbl e => some (0xD1#8, e)
  | .gkIns e => some (0xD2#8, e)
  | .gkDel e => some (0xD3#8, e)
  | .gkProbe e => some (0xD4#8, e)
  | .gkRehash e => some (0xD5#8, e)
  | .gkEval e => some (0xD6#8, e)
  | .gkSeq e => some (0xD7#8, e)
  | .gkStat e => some (0xD8#8, e)
  | .topkIns e => some (0xD9#8, e)
  | .topkMrg e => some (0xDA#8, e)
  | .topkRd e => some (0xDB#8, e)
  | .topkClr e => some (0xDC#8, e)
  | .topkSum e => some (0xDD#8, e)
  | _ => none

/-- The instruction of an opcode and the fields of a word (R101); none for an unallocated opcode. -/
def Instr.ofCode (op : BitVec 8) (e : Enc) : Option Instr :=
  match op.toNat with
  | 0x00 => some (.intAdd e)
  | 0x01 => some (.intSub e)
  | 0x02 => some (.intMul e)
  | 0x03 => some (.mulhi e)
  | 0x04 => some (.mad e)
  | 0x05 => some (.intMin e)
  | 0x06 => some (.intMax e)
  | 0x07 => some (.intAbs e)
  | 0x08 => some (.intNeg e)
  | 0x09 => some (.andOp e)
  | 0x0A => some (.orOp e)
  | 0x0B => some (.xorOp e)
  | 0x0C => some (.notOp e)
  | 0x0D => some (.shl e)
  | 0x0E => some (.shr e)
  | 0x0F => some (.rot e)
  | 0x10 => some (.popc e)
  | 0x11 => some (.clz e)
  | 0x12 => some (.ctz e)
  | 0x13 => some (.brev e)
  | 0x14 => some (.bfe e)
  | 0x15 => some (.bfi e)
  | 0x16 => some (.sel e)
  | 0x17 => some (.mov e)
  | 0x18 => some (.intCmp e)
  | 0x19 => some (.lea e)
  | 0x1A => some (.perm e)
  | 0x1B => some (.shf e)
  | 0x20 => some (.fpAdd e)
  | 0x21 => some (.fpSub e)
  | 0x22 => some (.fpMul e)
  | 0x23 => some (.fma e)
  | 0x24 => some (.fpMin e)
  | 0x25 => some (.fpMax e)
  | 0x26 => some (.fpAbs e)
  | 0x27 => some (.fpNeg e)
  | 0x28 => some (.fpCmp e)
  | 0x29 => some (.classOp e)
  | 0x2A => some (.rcp e)
  | 0x2B => some (.rsq e)
  | 0x2C => some (.sqe e)
  | 0x2D => some (.exp2 e)
  | 0x2E => some (.log2 e)
  | 0x2F => some (.rnd e)
  | 0x30 => some (.cvt e)
  | 0x31 => some (.cvt2 e)
  | 0x32 => some (.pack e)
  | 0x33 => some (.unpk e)
  | 0x34 => some (.dcd e)
  | 0x35 => some (.enc e)
  | 0x36 => some (.sbx e)
  | 0x37 => some (.scl e)
  | 0x40 => some (.quadXor e)
  | 0x41 => some (.quadBc e)
  | 0x42 => some (.shflIdx e)
  | 0x43 => some (.shflUp e)
  | 0x44 => some (.shflDn e)
  | 0x45 => some (.shflXor e)
  | 0x46 => some (.wred e)
  | 0x47 => some (.wscan e)
  | 0x48 => some (.ballot e)
  | 0x49 => some (.kop e)
  | 0x4A => some (.kpopc e)
  | 0x4B => some (.kffs e)
  | 0x4C => some (.matchOp e)
  | 0x50 => some (.br e)
  | 0x51 => some (.split e)
  | 0x52 => some (.join e)
  | 0x53 => some (.loop e)
  | 0x54 => some (.call e)
  | 0x55 => some (.ret e)
  | 0x56 => some (.jmp e)
  | 0x57 => some (.nop e)
  | 0x60 => some (.ldG e)
  | 0x61 => some (.stG e)
  | 0x62 => some (.ldS e)
  | 0x63 => some (.stS e)
  | 0x64 => some (.ldC e)
  | 0x65 => some (.tld e)
  | 0x66 => some (.gatG e)
  | 0x67 => some (.sctG e)
  | 0x68 => some (.gatS e)
  | 0x69 => some (.sctS e)
  | 0x6A => some (.pf e)
  | 0x70 => some (.commit e)
  | 0x71 => some (.commitX e)
  | 0x72 => some (.abortOp e)
  | 0x73 => some (.acq e)
  | 0x74 => some (.barBlk e)
  | 0x75 => some (.barArv e)
  | 0x76 => some (.barWt e)
  | 0x77 => some (.ownGive e)
  | 0x78 => some (.ownTst e)
  | 0x80 => some (.trapOp e)
  | 0x81 => some (.rte e)
  | 0x82 => some (.yieldOp e)
  | 0x83 => some (.modeOp e)
  | 0x84 => some (.getm e)
  | 0x85 => some (.rdpr e)
  | 0x86 => some (.wrpr e)
  | 0x87 => some (.bkpt e)
  | 0x88 => some (.sleep e)
  | 0x90 => some (.atomAdd e)
  | 0x91 => some (.atomMin e)
  | 0x92 => some (.atomMax e)
  | 0x93 => some (.atomAnd e)
  | 0x94 => some (.atomOr e)
  | 0x95 => some (.atomXor e)
  | 0x96 => some (.atomExch e)
  | 0x97 => some (.atomCas e)
  | 0x98 => some (.atomInc e)
  | 0x99 => some (.barClus e)
  | 0x9A => some (.barGrid e)
  | 0x9B => some (.mbarInit e)
  | 0x9C => some (.mbarArv e)
  | 0x9D => some (.mbarWait e)
  | 0xA0 => some (.blkGrow e)
  | 0xA1 => some (.blkLeave e)
  | 0xA2 => some (.role e)
  | 0xA3 => some (.ctrg e)
  | 0xA4 => some (.isect e)
  | 0xA5 => some (.taskSpawn e)
  | 0xA6 => some (.taskJoin e)
  | 0xA7 => some (.taskWait e)
  | 0xB0 => some (.tset e)
  | 0xB1 => some (.tget e)
  | 0xB2 => some (.cpPush e)
  | 0xB3 => some (.cpClose e)
  | 0xB4 => some (.cpWait e)
  | 0xB5 => some (.ringSet e)
  | 0xB6 => some (.ringAdv e)
  | 0xB7 => some (.ringRd e)
  | 0xB8 => some (.mxRow e)
  | 0xB9 => some (.mxLdb e)
  | 0xBA => some (.mxResume e)
  | 0xBB => some (.mxProg e)
  | 0xBC => some (.accRd e)
  | 0xBD => some (.accWr e)
  | 0xBE => some (.accClr e)
  | 0xBF => some (.accOut e)
  | 0xC0 => some (.sdaRun e)
  | 0xC1 => some (.sdaStop e)
  | 0xC2 => some (.sdaStat e)
  | 0xC3 => some (.sdaLd e)
  | 0xD0 => some (.gkHf e)
  | 0xD1 => some (.gkTbl e)
  | 0xD2 => some (.gkIns e)
  | 0xD3 => some (.gkDel e)
  | 0xD4 => some (.gkProbe e)
  | 0xD5 => some (.gkRehash e)
  | 0xD6 => some (.gkEval e)
  | 0xD7 => some (.gkSeq e)
  | 0xD8 => some (.gkStat e)
  | 0xD9 => some (.topkIns e)
  | 0xDA => some (.topkMrg e)
  | 0xDB => some (.topkRd e)
  | 0xDC => some (.topkClr e)
  | 0xDD => some (.topkSum e)
  | _ => none

/-! ## Words (R85, R87) -/

/-- X of a base word. -/
def wordX (w : Dword) : Bool := w.getLsbD 43

/-- The fields of a base word, with the extension word that X asks for. -/
def fieldsOf (w ext : Dword) : Enc :=
  { mod := w.extractLsb' 44 12, gmask := w.extractLsb' 40 3, ginv := w.getLsbD 39, dst := w.extractLsb' 30 9,
    a := w.extractLsb' 20 10, b := w.extractLsb' 10 10, c := w.extractLsb' 0 10,
    ext := if wordX w then some ext else none }

/-- The base word of an opcode and its fields (R85). -/
def baseWord (op : BitVec 8) (e : Enc) : Dword :=
  op ++ e.mod ++ BitVec.ofBool e.ext.isSome ++ e.gmask ++ BitVec.ofBool e.ginv ++ e.dst ++ e.a ++ e.b ++ e.c

/-- Why the decoder refuses. -/
inductive DecodeError where
  /-- The bytes end before the instruction does. -/
  | short
  /-- The opcode is unallocated (R101): trap 1 at issue (R103). -/
  | unallocated (op : BitVec 8)
  deriving DecidableEq, Repr

/-- The instruction of a base word and the word that follows it. -/
def decodeWords (w ext : Dword) : Except DecodeError Instr :=
  match Instr.ofCode (w.extractLsb' 56 8) (fieldsOf w ext) with
  | some i => .ok i
  | none => .error (.unallocated (w.extractLsb' 56 8))

/-- Little-endian: the number whose lowest byte stands first (R8). -/
def leNat : List Byte → Nat
  | [] => 0
  | b :: bs => b.toNat + 256 * leNat bs

/-- The `n` bytes of a number, lowest first (R8). -/
def leBytes : (n : Nat) → Nat → List Byte
  | 0, _ => []
  | n + 1, x => BitVec.ofNat 8 x :: leBytes n (x / 256)

/-- The decoder on bytes: the instruction at their start and the bytes after it (R86). -/
def decode (bs : List Byte) : Except DecodeError (Instr × List Byte) :=
  if bs.length < 8 then .error .short
  else
    let w := BitVec.ofNat 64 (leNat (bs.take 8))
    if wordX w then
      if bs.length < 16 then .error .short
      else (decodeWords w (BitVec.ofNat 64 (leNat ((bs.drop 8).take 8)))).map (fun i => (i, bs.drop 16))
    else (decodeWords w 0#64).map (fun i => (i, bs.drop 8))

/-- The words of an instruction: the base word, then the extension word where there is one. An event has none. -/
def encodeWords (i : Instr) : List Dword :=
  match i.code with
  | none => []
  | some (op, e) => baseWord op e :: e.ext.toList

/-- The bytes of an instruction as memory holds them (R8, R86). -/
def encode (i : Instr) : List Byte := (encodeWords i).flatMap (fun w => leBytes 8 w.toNat)

/-- The bytes of an instruction: 8, or 16 with an extension word (R86); an event has none. -/
def Instr.length (i : Instr) : Nat :=
  match i.code with
  | none => 0
  | some (_, e) => if e.ext.isSome then 16 else 8

/-- The instruction that the decoder reads from an instruction whose bits are `w`, the first word lowest; bits at and
above `nbits` are 0. -/
def decodeTableWord (nbits w : Nat) : Option Instr :=
  match decode (leBytes 16 (w % 2 ^ nbits)) with
  | .ok (i, _) => some i
  | .error _ => none

/-! ## Each constructor's decoding

One word per constructor, its fields written out from R85: the opcode of R101 in bits [63:56], DST 511, A 1, B 2 and
C 3, MOD 0x101, GMASK 2 and GINV 1. -/

/-- The fields of the words below. -/
def sampleEnc : Enc := ⟨0x101#12, 2#3, true, 511#9, 1#10, 2#10, 3#10, none⟩

theorem decode_intAdd : decodeWords 0x001012FFC0100803#64 0#64 = .ok (.intAdd sampleEnc) := by decide
theorem decode_intSub : decodeWords 0x011012FFC0100803#64 0#64 = .ok (.intSub sampleEnc) := by decide
theorem decode_intMul : decodeWords 0x021012FFC0100803#64 0#64 = .ok (.intMul sampleEnc) := by decide
theorem decode_mulhi : decodeWords 0x031012FFC0100803#64 0#64 = .ok (.mulhi sampleEnc) := by decide
theorem decode_mad : decodeWords 0x041012FFC0100803#64 0#64 = .ok (.mad sampleEnc) := by decide
theorem decode_intMin : decodeWords 0x051012FFC0100803#64 0#64 = .ok (.intMin sampleEnc) := by decide
theorem decode_intMax : decodeWords 0x061012FFC0100803#64 0#64 = .ok (.intMax sampleEnc) := by decide
theorem decode_intAbs : decodeWords 0x071012FFC0100803#64 0#64 = .ok (.intAbs sampleEnc) := by decide
theorem decode_intNeg : decodeWords 0x081012FFC0100803#64 0#64 = .ok (.intNeg sampleEnc) := by decide
theorem decode_andOp : decodeWords 0x091012FFC0100803#64 0#64 = .ok (.andOp sampleEnc) := by decide
theorem decode_orOp : decodeWords 0x0A1012FFC0100803#64 0#64 = .ok (.orOp sampleEnc) := by decide
theorem decode_xorOp : decodeWords 0x0B1012FFC0100803#64 0#64 = .ok (.xorOp sampleEnc) := by decide
theorem decode_notOp : decodeWords 0x0C1012FFC0100803#64 0#64 = .ok (.notOp sampleEnc) := by decide
theorem decode_shl : decodeWords 0x0D1012FFC0100803#64 0#64 = .ok (.shl sampleEnc) := by decide
theorem decode_shr : decodeWords 0x0E1012FFC0100803#64 0#64 = .ok (.shr sampleEnc) := by decide
theorem decode_rot : decodeWords 0x0F1012FFC0100803#64 0#64 = .ok (.rot sampleEnc) := by decide
theorem decode_popc : decodeWords 0x101012FFC0100803#64 0#64 = .ok (.popc sampleEnc) := by decide
theorem decode_clz : decodeWords 0x111012FFC0100803#64 0#64 = .ok (.clz sampleEnc) := by decide
theorem decode_ctz : decodeWords 0x121012FFC0100803#64 0#64 = .ok (.ctz sampleEnc) := by decide
theorem decode_brev : decodeWords 0x131012FFC0100803#64 0#64 = .ok (.brev sampleEnc) := by decide
theorem decode_bfe : decodeWords 0x141012FFC0100803#64 0#64 = .ok (.bfe sampleEnc) := by decide
theorem decode_bfi : decodeWords 0x151012FFC0100803#64 0#64 = .ok (.bfi sampleEnc) := by decide
theorem decode_sel : decodeWords 0x161012FFC0100803#64 0#64 = .ok (.sel sampleEnc) := by decide
theorem decode_mov : decodeWords 0x171012FFC0100803#64 0#64 = .ok (.mov sampleEnc) := by decide
theorem decode_intCmp : decodeWords 0x181012FFC0100803#64 0#64 = .ok (.intCmp sampleEnc) := by decide
theorem decode_lea : decodeWords 0x191012FFC0100803#64 0#64 = .ok (.lea sampleEnc) := by decide
theorem decode_perm : decodeWords 0x1A1012FFC0100803#64 0#64 = .ok (.perm sampleEnc) := by decide
theorem decode_shf : decodeWords 0x1B1012FFC0100803#64 0#64 = .ok (.shf sampleEnc) := by decide
theorem decode_fpAdd : decodeWords 0x201012FFC0100803#64 0#64 = .ok (.fpAdd sampleEnc) := by decide
theorem decode_fpSub : decodeWords 0x211012FFC0100803#64 0#64 = .ok (.fpSub sampleEnc) := by decide
theorem decode_fpMul : decodeWords 0x221012FFC0100803#64 0#64 = .ok (.fpMul sampleEnc) := by decide
theorem decode_fma : decodeWords 0x231012FFC0100803#64 0#64 = .ok (.fma sampleEnc) := by decide
theorem decode_fpMin : decodeWords 0x241012FFC0100803#64 0#64 = .ok (.fpMin sampleEnc) := by decide
theorem decode_fpMax : decodeWords 0x251012FFC0100803#64 0#64 = .ok (.fpMax sampleEnc) := by decide
theorem decode_fpAbs : decodeWords 0x261012FFC0100803#64 0#64 = .ok (.fpAbs sampleEnc) := by decide
theorem decode_fpNeg : decodeWords 0x271012FFC0100803#64 0#64 = .ok (.fpNeg sampleEnc) := by decide
theorem decode_fpCmp : decodeWords 0x281012FFC0100803#64 0#64 = .ok (.fpCmp sampleEnc) := by decide
theorem decode_classOp : decodeWords 0x291012FFC0100803#64 0#64 = .ok (.classOp sampleEnc) := by decide
theorem decode_rcp : decodeWords 0x2A1012FFC0100803#64 0#64 = .ok (.rcp sampleEnc) := by decide
theorem decode_rsq : decodeWords 0x2B1012FFC0100803#64 0#64 = .ok (.rsq sampleEnc) := by decide
theorem decode_sqe : decodeWords 0x2C1012FFC0100803#64 0#64 = .ok (.sqe sampleEnc) := by decide
theorem decode_exp2 : decodeWords 0x2D1012FFC0100803#64 0#64 = .ok (.exp2 sampleEnc) := by decide
theorem decode_log2 : decodeWords 0x2E1012FFC0100803#64 0#64 = .ok (.log2 sampleEnc) := by decide
theorem decode_rnd : decodeWords 0x2F1012FFC0100803#64 0#64 = .ok (.rnd sampleEnc) := by decide
theorem decode_cvt : decodeWords 0x301012FFC0100803#64 0#64 = .ok (.cvt sampleEnc) := by decide
theorem decode_cvt2 : decodeWords 0x311012FFC0100803#64 0#64 = .ok (.cvt2 sampleEnc) := by decide
theorem decode_pack : decodeWords 0x321012FFC0100803#64 0#64 = .ok (.pack sampleEnc) := by decide
theorem decode_unpk : decodeWords 0x331012FFC0100803#64 0#64 = .ok (.unpk sampleEnc) := by decide
theorem decode_dcd : decodeWords 0x341012FFC0100803#64 0#64 = .ok (.dcd sampleEnc) := by decide
theorem decode_enc : decodeWords 0x351012FFC0100803#64 0#64 = .ok (.enc sampleEnc) := by decide
theorem decode_sbx : decodeWords 0x361012FFC0100803#64 0#64 = .ok (.sbx sampleEnc) := by decide
theorem decode_scl : decodeWords 0x371012FFC0100803#64 0#64 = .ok (.scl sampleEnc) := by decide
theorem decode_quadXor : decodeWords 0x401012FFC0100803#64 0#64 = .ok (.quadXor sampleEnc) := by decide
theorem decode_quadBc : decodeWords 0x411012FFC0100803#64 0#64 = .ok (.quadBc sampleEnc) := by decide
theorem decode_shflIdx : decodeWords 0x421012FFC0100803#64 0#64 = .ok (.shflIdx sampleEnc) := by decide
theorem decode_shflUp : decodeWords 0x431012FFC0100803#64 0#64 = .ok (.shflUp sampleEnc) := by decide
theorem decode_shflDn : decodeWords 0x441012FFC0100803#64 0#64 = .ok (.shflDn sampleEnc) := by decide
theorem decode_shflXor : decodeWords 0x451012FFC0100803#64 0#64 = .ok (.shflXor sampleEnc) := by decide
theorem decode_wred : decodeWords 0x461012FFC0100803#64 0#64 = .ok (.wred sampleEnc) := by decide
theorem decode_wscan : decodeWords 0x471012FFC0100803#64 0#64 = .ok (.wscan sampleEnc) := by decide
theorem decode_ballot : decodeWords 0x481012FFC0100803#64 0#64 = .ok (.ballot sampleEnc) := by decide
theorem decode_kop : decodeWords 0x491012FFC0100803#64 0#64 = .ok (.kop sampleEnc) := by decide
theorem decode_kpopc : decodeWords 0x4A1012FFC0100803#64 0#64 = .ok (.kpopc sampleEnc) := by decide
theorem decode_kffs : decodeWords 0x4B1012FFC0100803#64 0#64 = .ok (.kffs sampleEnc) := by decide
theorem decode_matchOp : decodeWords 0x4C1012FFC0100803#64 0#64 = .ok (.matchOp sampleEnc) := by decide
theorem decode_br : decodeWords 0x501012FFC0100803#64 0#64 = .ok (.br sampleEnc) := by decide
theorem decode_split : decodeWords 0x511012FFC0100803#64 0#64 = .ok (.split sampleEnc) := by decide
theorem decode_join : decodeWords 0x521012FFC0100803#64 0#64 = .ok (.join sampleEnc) := by decide
theorem decode_loop : decodeWords 0x531012FFC0100803#64 0#64 = .ok (.loop sampleEnc) := by decide
theorem decode_call : decodeWords 0x541012FFC0100803#64 0#64 = .ok (.call sampleEnc) := by decide
theorem decode_ret : decodeWords 0x551012FFC0100803#64 0#64 = .ok (.ret sampleEnc) := by decide
theorem decode_jmp : decodeWords 0x561012FFC0100803#64 0#64 = .ok (.jmp sampleEnc) := by decide
theorem decode_nop : decodeWords 0x571012FFC0100803#64 0#64 = .ok (.nop sampleEnc) := by decide
theorem decode_ldG : decodeWords 0x601012FFC0100803#64 0#64 = .ok (.ldG sampleEnc) := by decide
theorem decode_stG : decodeWords 0x611012FFC0100803#64 0#64 = .ok (.stG sampleEnc) := by decide
theorem decode_ldS : decodeWords 0x621012FFC0100803#64 0#64 = .ok (.ldS sampleEnc) := by decide
theorem decode_stS : decodeWords 0x631012FFC0100803#64 0#64 = .ok (.stS sampleEnc) := by decide
theorem decode_ldC : decodeWords 0x641012FFC0100803#64 0#64 = .ok (.ldC sampleEnc) := by decide
theorem decode_tld : decodeWords 0x651012FFC0100803#64 0#64 = .ok (.tld sampleEnc) := by decide
theorem decode_gatG : decodeWords 0x661012FFC0100803#64 0#64 = .ok (.gatG sampleEnc) := by decide
theorem decode_sctG : decodeWords 0x671012FFC0100803#64 0#64 = .ok (.sctG sampleEnc) := by decide
theorem decode_gatS : decodeWords 0x681012FFC0100803#64 0#64 = .ok (.gatS sampleEnc) := by decide
theorem decode_sctS : decodeWords 0x691012FFC0100803#64 0#64 = .ok (.sctS sampleEnc) := by decide
theorem decode_pf : decodeWords 0x6A1012FFC0100803#64 0#64 = .ok (.pf sampleEnc) := by decide
theorem decode_commit : decodeWords 0x701012FFC0100803#64 0#64 = .ok (.commit sampleEnc) := by decide
theorem decode_commitX : decodeWords 0x711012FFC0100803#64 0#64 = .ok (.commitX sampleEnc) := by decide
theorem decode_abortOp : decodeWords 0x721012FFC0100803#64 0#64 = .ok (.abortOp sampleEnc) := by decide
theorem decode_acq : decodeWords 0x731012FFC0100803#64 0#64 = .ok (.acq sampleEnc) := by decide
theorem decode_barBlk : decodeWords 0x741012FFC0100803#64 0#64 = .ok (.barBlk sampleEnc) := by decide
theorem decode_barArv : decodeWords 0x751012FFC0100803#64 0#64 = .ok (.barArv sampleEnc) := by decide
theorem decode_barWt : decodeWords 0x761012FFC0100803#64 0#64 = .ok (.barWt sampleEnc) := by decide
theorem decode_ownGive : decodeWords 0x771012FFC0100803#64 0#64 = .ok (.ownGive sampleEnc) := by decide
theorem decode_ownTst : decodeWords 0x781012FFC0100803#64 0#64 = .ok (.ownTst sampleEnc) := by decide
theorem decode_trapOp : decodeWords 0x801012FFC0100803#64 0#64 = .ok (.trapOp sampleEnc) := by decide
theorem decode_rte : decodeWords 0x811012FFC0100803#64 0#64 = .ok (.rte sampleEnc) := by decide
theorem decode_yieldOp : decodeWords 0x821012FFC0100803#64 0#64 = .ok (.yieldOp sampleEnc) := by decide
theorem decode_modeOp : decodeWords 0x831012FFC0100803#64 0#64 = .ok (.modeOp sampleEnc) := by decide
theorem decode_getm : decodeWords 0x841012FFC0100803#64 0#64 = .ok (.getm sampleEnc) := by decide
theorem decode_rdpr : decodeWords 0x851012FFC0100803#64 0#64 = .ok (.rdpr sampleEnc) := by decide
theorem decode_wrpr : decodeWords 0x861012FFC0100803#64 0#64 = .ok (.wrpr sampleEnc) := by decide
theorem decode_bkpt : decodeWords 0x871012FFC0100803#64 0#64 = .ok (.bkpt sampleEnc) := by decide
theorem decode_sleep : decodeWords 0x881012FFC0100803#64 0#64 = .ok (.sleep sampleEnc) := by decide
theorem decode_atomAdd : decodeWords 0x901012FFC0100803#64 0#64 = .ok (.atomAdd sampleEnc) := by decide
theorem decode_atomMin : decodeWords 0x911012FFC0100803#64 0#64 = .ok (.atomMin sampleEnc) := by decide
theorem decode_atomMax : decodeWords 0x921012FFC0100803#64 0#64 = .ok (.atomMax sampleEnc) := by decide
theorem decode_atomAnd : decodeWords 0x931012FFC0100803#64 0#64 = .ok (.atomAnd sampleEnc) := by decide
theorem decode_atomOr : decodeWords 0x941012FFC0100803#64 0#64 = .ok (.atomOr sampleEnc) := by decide
theorem decode_atomXor : decodeWords 0x951012FFC0100803#64 0#64 = .ok (.atomXor sampleEnc) := by decide
theorem decode_atomExch : decodeWords 0x961012FFC0100803#64 0#64 = .ok (.atomExch sampleEnc) := by decide
theorem decode_atomCas : decodeWords 0x971012FFC0100803#64 0#64 = .ok (.atomCas sampleEnc) := by decide
theorem decode_atomInc : decodeWords 0x981012FFC0100803#64 0#64 = .ok (.atomInc sampleEnc) := by decide
theorem decode_barClus : decodeWords 0x991012FFC0100803#64 0#64 = .ok (.barClus sampleEnc) := by decide
theorem decode_barGrid : decodeWords 0x9A1012FFC0100803#64 0#64 = .ok (.barGrid sampleEnc) := by decide
theorem decode_mbarInit : decodeWords 0x9B1012FFC0100803#64 0#64 = .ok (.mbarInit sampleEnc) := by decide
theorem decode_mbarArv : decodeWords 0x9C1012FFC0100803#64 0#64 = .ok (.mbarArv sampleEnc) := by decide
theorem decode_mbarWait : decodeWords 0x9D1012FFC0100803#64 0#64 = .ok (.mbarWait sampleEnc) := by decide
theorem decode_blkGrow : decodeWords 0xA01012FFC0100803#64 0#64 = .ok (.blkGrow sampleEnc) := by decide
theorem decode_blkLeave : decodeWords 0xA11012FFC0100803#64 0#64 = .ok (.blkLeave sampleEnc) := by decide
theorem decode_role : decodeWords 0xA21012FFC0100803#64 0#64 = .ok (.role sampleEnc) := by decide
theorem decode_ctrg : decodeWords 0xA31012FFC0100803#64 0#64 = .ok (.ctrg sampleEnc) := by decide
theorem decode_isect : decodeWords 0xA41012FFC0100803#64 0#64 = .ok (.isect sampleEnc) := by decide
theorem decode_taskSpawn : decodeWords 0xA51012FFC0100803#64 0#64 = .ok (.taskSpawn sampleEnc) := by decide
theorem decode_taskJoin : decodeWords 0xA61012FFC0100803#64 0#64 = .ok (.taskJoin sampleEnc) := by decide
theorem decode_taskWait : decodeWords 0xA71012FFC0100803#64 0#64 = .ok (.taskWait sampleEnc) := by decide
theorem decode_tset : decodeWords 0xB01012FFC0100803#64 0#64 = .ok (.tset sampleEnc) := by decide
theorem decode_tget : decodeWords 0xB11012FFC0100803#64 0#64 = .ok (.tget sampleEnc) := by decide
theorem decode_cpPush : decodeWords 0xB21012FFC0100803#64 0#64 = .ok (.cpPush sampleEnc) := by decide
theorem decode_cpClose : decodeWords 0xB31012FFC0100803#64 0#64 = .ok (.cpClose sampleEnc) := by decide
theorem decode_cpWait : decodeWords 0xB41012FFC0100803#64 0#64 = .ok (.cpWait sampleEnc) := by decide
theorem decode_ringSet : decodeWords 0xB51012FFC0100803#64 0#64 = .ok (.ringSet sampleEnc) := by decide
theorem decode_ringAdv : decodeWords 0xB61012FFC0100803#64 0#64 = .ok (.ringAdv sampleEnc) := by decide
theorem decode_ringRd : decodeWords 0xB71012FFC0100803#64 0#64 = .ok (.ringRd sampleEnc) := by decide
theorem decode_mxRow : decodeWords 0xB81012FFC0100803#64 0#64 = .ok (.mxRow sampleEnc) := by decide
theorem decode_mxLdb : decodeWords 0xB91012FFC0100803#64 0#64 = .ok (.mxLdb sampleEnc) := by decide
theorem decode_mxResume : decodeWords 0xBA1012FFC0100803#64 0#64 = .ok (.mxResume sampleEnc) := by decide
theorem decode_mxProg : decodeWords 0xBB1012FFC0100803#64 0#64 = .ok (.mxProg sampleEnc) := by decide
theorem decode_accRd : decodeWords 0xBC1012FFC0100803#64 0#64 = .ok (.accRd sampleEnc) := by decide
theorem decode_accWr : decodeWords 0xBD1012FFC0100803#64 0#64 = .ok (.accWr sampleEnc) := by decide
theorem decode_accClr : decodeWords 0xBE1012FFC0100803#64 0#64 = .ok (.accClr sampleEnc) := by decide
theorem decode_accOut : decodeWords 0xBF1012FFC0100803#64 0#64 = .ok (.accOut sampleEnc) := by decide
theorem decode_sdaRun : decodeWords 0xC01012FFC0100803#64 0#64 = .ok (.sdaRun sampleEnc) := by decide
theorem decode_sdaStop : decodeWords 0xC11012FFC0100803#64 0#64 = .ok (.sdaStop sampleEnc) := by decide
theorem decode_sdaStat : decodeWords 0xC21012FFC0100803#64 0#64 = .ok (.sdaStat sampleEnc) := by decide
theorem decode_sdaLd : decodeWords 0xC31012FFC0100803#64 0#64 = .ok (.sdaLd sampleEnc) := by decide
theorem decode_gkHf : decodeWords 0xD01012FFC0100803#64 0#64 = .ok (.gkHf sampleEnc) := by decide
theorem decode_gkTbl : decodeWords 0xD11012FFC0100803#64 0#64 = .ok (.gkTbl sampleEnc) := by decide
theorem decode_gkIns : decodeWords 0xD21012FFC0100803#64 0#64 = .ok (.gkIns sampleEnc) := by decide
theorem decode_gkDel : decodeWords 0xD31012FFC0100803#64 0#64 = .ok (.gkDel sampleEnc) := by decide
theorem decode_gkProbe : decodeWords 0xD41012FFC0100803#64 0#64 = .ok (.gkProbe sampleEnc) := by decide
theorem decode_gkRehash : decodeWords 0xD51012FFC0100803#64 0#64 = .ok (.gkRehash sampleEnc) := by decide
theorem decode_gkEval : decodeWords 0xD61012FFC0100803#64 0#64 = .ok (.gkEval sampleEnc) := by decide
theorem decode_gkSeq : decodeWords 0xD71012FFC0100803#64 0#64 = .ok (.gkSeq sampleEnc) := by decide
theorem decode_gkStat : decodeWords 0xD81012FFC0100803#64 0#64 = .ok (.gkStat sampleEnc) := by decide
theorem decode_topkIns : decodeWords 0xD91012FFC0100803#64 0#64 = .ok (.topkIns sampleEnc) := by decide
theorem decode_topkMrg : decodeWords 0xDA1012FFC0100803#64 0#64 = .ok (.topkMrg sampleEnc) := by decide
theorem decode_topkRd : decodeWords 0xDB1012FFC0100803#64 0#64 = .ok (.topkRd sampleEnc) := by decide
theorem decode_topkClr : decodeWords 0xDC1012FFC0100803#64 0#64 = .ok (.topkClr sampleEnc) := by decide
theorem decode_topkSum : decodeWords 0xDD1012FFC0100803#64 0#64 = .ok (.topkSum sampleEnc) := by decide

end Sys2Proof
end

