-- ==== Sys2Proof/Config.lean ====
section
/-! DEFINITION. What the spec leaves open as a value, and the standards outside the spec that it names. Each constant
here is opaque: no proof can see what it is, so a claim holds whatever it is. -/

namespace Sys2Proof.Config

/-- A fresh value that the spec leaves undefined, the `n`-th that the run has needed (log entry 6): the bytes of ring
entries that a failed copy left undefined (R245), the order in which one atomic performs its lines (R189), and what
a home whose lines are unknown answers with (R389). -/
opaque freeByte : Nat → Byte

/-- How far a wave's reads of a window word have come by a value of %clk, as a moment of the run: which of R94's allowed
values a read returns is otherwise not fixed (log entry 13). Arguments: wave, address of the word, %clk. -/
opaque windowMoment : Nat → Nat → Nat → Nat

/-- Whether the fetch of a wave's next instruction is still under way at a value of %clk (R64 code 10; log entry 119).
Arguments: wave, %clk. -/
opaque fetchLate : Nat → Nat → Bool

/-- The junction temperature of a core in °C at a value of %clk, and whether its droop sensor counts a supply-droop event in
that clock (R52): readings of the outside world (log entry 4). -/
opaque coreTemp : Nat → Nat → Nat
opaque coreDroop : Nat → Nat → Bool

/-- Where the 64 KiB pages of the usable 720 GiB lie among the pages of the twelve stacks, 983,040 of each (R1, R3), as a
one-to-one map: the spec does not lay the stacks out in the physical address space (log entry 5). -/
opaque pagePlace : Fin 11796480 ≃ Fin 11796480

/-- The 256-bit SHAKE256 digest of some bytes (R406-R409): a standard outside the spec (log entry 7). -/
opaque shake256 : List Byte → BitVec 256

/-- The SHAKE256 digest of Shaorn's firmware public key, fused in the boot ROM (R406). -/
opaque romKey : BitVec 256

/-- Whether a signature of 2,820 bytes verifies over some bytes against the public key of a digest, in parameter set
XMSS-SHAKE256_20_256 (R407, R408; log entry 7). -/
opaque xmssVerify : BitVec 256 → List Byte → List Byte → Bool

/-- The signature, 2,820 bytes, that the `g`-th device attestation key makes with an index over some bytes (R409, R410; log
entry 7). Arguments: g, index, bytes. -/
opaque xmssSign : Nat → Nat → List Byte → BitVec 22560

/-- Shaorn's signature of 2,820 bytes that certifies the `g`-th attestation key (R409, R410). -/
opaque keyCert : Nat → BitVec 22560

/-- Where the 64-byte lines of a stack lie among its data columns, 15 of each of its 67,108,864 rows (R374): the interleave is
fixed by the base die and not architectural (log entry 5). -/
opaque columnPlace : Fin 1006632960 ≃ Fin 1006632960

/-- The four Reed-Solomon check symbols over the 64 bytes of a data column (R377), those of a column that is not all zero: the code
is linear, so the symbols of zeros are 0 (log entry 7). -/
opaque reedSolomon : List Byte → Word
/-- CHECK of a column's data (R377). -/
def checkSymbols (d : List Byte) : Word := if d.all (fun b => b = 0#8) then 0#32 else reedSolomon d

/-- The set of its memory-side cache, one of 16,384 of 16 ways, in which a line stands (R382; log entry 150). -/
opaque mscSet : Nat → Fin 16384

/-- Whether a capacity-tier device reports a line as poisoned at a value of %clk (R383): a reading of the outside world (log
entry 4). Arguments: line, %clk. -/
opaque tierPoison : Nat → Nat → Bool

/-- Controller clocks for which a periodic refresh occupies a bank (R381): the spec gives no number. -/
opaque refreshClocks : Nat

/-- The row that the retirement of a pseudo-channel copies at a value of %clk (R413), numbered by bank and row (log entry 136). Arguments:
stack, pseudo-channel, %clk. -/
opaque retireRow : Nat → Nat → Nat → Nat

/-- The CXL port through which an extent of the capacity tier is reached (R383; log entry 137). -/
opaque extentPort : Nat → Fin 4

/-- The device identity of R409's report. -/
opaque deviceId : BitVec 128

/-- The image, header and body, and the signature of a target's firmware that stand before the security processor at the start at
a moment (R406): the spec gives none (log entry 133). -/
opaque bootImage : BitVec 16 → Nat → List Byte
opaque bootSignature : BitVec 16 → Nat → List Byte

/-- The action whose unit's own error counters reach their threshold at a value of %clk (R412): the spec gives neither the counters
nor the thresholds (log entry 4). -/
opaque actionDue : Nat → Option SvcKind

/-- An accepted image, given by its header and body, installs a new certified attestation key (R410). -/
opaque installsKey : List Byte → Bool

/-- The register write that OP 5 of the mailbox names with a register id and a value (R411): the spec gives no ids. -/
opaque secureWrite : Dword → Dword → Option Instr

end Sys2Proof.Config
end

