-- ==== Sys2Proof/Machine/Num.lean ====
section
/-! DEFINITION. Number formats and exact arithmetic (R97, R108, R109, R213-R231): the type codes, the value of a code,
the five rounding modes on exact rationals, the arithmetic of R117 to R122, the matrix k-step of R227 and the readout
of R228. Every operation computes exactly and rounds once where the spec says. -/

namespace Sys2Proof.Machine

/-! ## Types -/

/-- The types of R97, in the order of their codes. -/
inductive Ty where
  | i8 | i16 | i32 | i64 | n8 | n16 | n32 | n64 | b8 | b16 | b32 | b64
  | f32 | f16 | bf16 | e4m3 | e5m2 | e2m1 | nf4b | sb8 | sb4 | e3m5 | e8m0
  deriving DecidableEq, Repr

/-- The type of a code of R97; codes 23-31 are reserved. -/
def Ty.ofCode (c : BitVec 5) : Option Ty :=
  [Ty.i8, .i16, .i32, .i64, .n8, .n16, .n32, .n64, .b8, .b16, .b32, .b64,
   .f32, .f16, .bf16, .e4m3, .e5m2, .e2m1, .nf4b, .sb8, .sb4, .e3m5, .e8m0][c.toNat]?

/-- The code of a type (R97). -/
def Ty.code : Ty → BitVec 5
  | .i8 => 0#5 | .i16 => 1#5 | .i32 => 2#5 | .i64 => 3#5 | .n8 => 4#5 | .n16 => 5#5 | .n32 => 6#5 | .n64 => 7#5
  | .b8 => 8#5 | .b16 => 9#5 | .b32 => 10#5 | .b64 => 11#5 | .f32 => 12#5 | .f16 => 13#5 | .bf16 => 14#5
  | .e4m3 => 15#5 | .e5m2 => 16#5 | .e2m1 => 17#5 | .nf4b => 18#5 | .sb8 => 19#5 | .sb4 => 20#5 | .e3m5 => 21#5
  | .e8m0 => 22#5

/-- The width of a type in bits (R97, R213). An sb8 or sb4 element has the width of its payload (R297). -/
def Ty.width : Ty → Nat
  | .i8 | .n8 | .b8 | .e4m3 | .e5m2 | .e3m5 | .e8m0 | .sb8 => 8
  | .i16 | .n16 | .b16 | .f16 | .bf16 => 16
  | .i32 | .n32 | .b32 | .f32 => 32
  | .i64 | .n64 | .b64 => 64
  | .e2m1 | .nf4b | .sb4 => 4

/-- Signed integer types. -/
def Ty.isSigned : Ty → Bool
  | .i8 | .i16 | .i32 | .i64 => true
  | _ => false

/-- Integer types, signed or not. -/
def Ty.isInt : Ty → Bool
  | .i8 | .i16 | .i32 | .i64 | .n8 | .n16 | .n32 | .n64 => true
  | _ => false

/-- Raw types. -/
def Ty.isRaw : Ty → Bool
  | .b8 | .b16 | .b32 | .b64 => true
  | _ => false

/-! ## Integers -/

/-- The value of the low `w` bits of `x` read in a type's range (R108). -/
def Ty.toInt (t : Ty) (x : Nat) : Int :=
  let m := 2 ^ t.width
  let y := x % m
  if t.isSigned && m ≤ 2 * y then (y : Int) - m else y

/-- `wrap` (R108): the bits of an integer modulo 2^width. -/
def wrapBits (t : Ty) (x : Int) : Nat := (x % (2 ^ t.width : Nat)).toNat

/-- The least and the largest value of an integer type. -/
def Ty.minInt (t : Ty) : Int := if t.isSigned then -(2 ^ (t.width - 1) : Nat) else 0
def Ty.maxInt (t : Ty) : Int := if t.isSigned then (2 ^ (t.width - 1) : Nat) - 1 else (2 ^ t.width : Nat) - 1

/-- `sat` for an integer type (R108). -/
def satInt (t : Ty) (x : Int) : Int := max t.minInt (min t.maxInt x)

/-- A result narrower than 32 bits placed in a register (R110): signed types are sign-extended, the others
zero-extended. Wider results keep their bits. -/
def extendBits (t : Ty) (x : Nat) : Nat :=
  if t.isSigned && t.width < 32 then ((t.toInt x) % (2 ^ 32 : Nat)).toNat else x % 2 ^ t.width

/-! ## Floating formats -/

/-- The floating formats of R213. -/
inductive Fmt where
  | f32 | f16 | bf16 | e4m3 | e5m2 | e2m1 | e3m5 | e8m0
  deriving DecidableEq, Repr

/-- The format of a type, if it is floating. -/
def Ty.fmt : Ty → Option Fmt
  | .f32 => some .f32 | .f16 => some .f16 | .bf16 => some .bf16 | .e4m3 => some .e4m3 | .e5m2 => some .e5m2
  | .e2m1 => some .e2m1 | .e3m5 => some .e3m5 | .e8m0 => some .e8m0
  | _ => none

/-- Mantissa bits (R213). -/
def Fmt.mbits : Fmt → Nat
  | .f32 => 23 | .f16 => 10 | .bf16 => 7 | .e4m3 => 3 | .e5m2 => 2 | .e2m1 => 1 | .e3m5 => 5 | .e8m0 => 0

/-- Exponent bits (R213). -/
def Fmt.ebits : Fmt → Nat
  | .f32 => 8 | .f16 => 5 | .bf16 => 8 | .e4m3 => 4 | .e5m2 => 5 | .e2m1 => 2 | .e3m5 => 3 | .e8m0 => 8

/-- The exponent bias (R213). -/
def Fmt.bias : Fmt → Nat
  | .f32 => 127 | .f16 => 15 | .bf16 => 127 | .e4m3 => 7 | .e5m2 => 15 | .e2m1 => 1 | .e3m5 => 3 | .e8m0 => 127

/-- Whether the format has a sign bit, infinities, a NaN (R213). -/
def Fmt.signed : Fmt → Bool
  | .e3m5 | .e8m0 => false
  | _ => true
def Fmt.hasInf : Fmt → Bool
  | .f32 | .f16 | .bf16 | .e5m2 => true
  | _ => false
def Fmt.hasNan : Fmt → Bool
  | .e2m1 | .e3m5 => false
  | _ => true

/-- The code of the largest finite magnitude (R214). -/
def Fmt.maxCode : Fmt → Nat
  | .f32 => 0x7F7FFFFF | .f16 => 0x7BFF | .bf16 => 0x7F7F | .e4m3 => 0x7E | .e5m2 => 0x7B | .e2m1 => 0x7
  | .e3m5 => 0xFF | .e8m0 => 0xFE

/-- `canon_nan` (R108); a format without a NaN gives 0. -/
def Fmt.canonNan : Fmt → Nat
  | .f32 => 0x7FC00000 | .f16 => 0x7E00 | .bf16 => 0x7FC0 | .e4m3 => 0x7F | .e5m2 => 0x7E | .e8m0 => 0xFF
  | .e2m1 | .e3m5 => 0

/-- The sign bit's place: the format's width less one. -/
def Fmt.signBit (F : Fmt) : Nat := F.ebits + F.mbits

/-- The code of an infinity of a format that has one. -/
def Fmt.infCode (F : Fmt) : Nat := (2 ^ F.ebits - 1) * 2 ^ F.mbits

/-- A code's magnitude with a sign. -/
def Fmt.withSign (F : Fmt) (neg : Bool) (mag : Nat) : Nat :=
  if neg && F.signed then mag + 2 ^ F.signBit else mag

/-- The exact value of a code: NaN, an infinity, or `(-1)^neg * m * 2^e`. -/
inductive Fp where
  | nan
  | inf (neg : Bool)
  | fin (neg : Bool) (m : Nat) (e : Int)
  deriving DecidableEq, Repr

/-- `value(F, b)` (R108, R213). -/
def Fmt.value (F : Fmt) (code : Nat) : Fp :=
  if F = .e8m0 then
    if code % 256 = 255 then .nan else .fin false 1 ((code % 256 : Nat) - 127 : Int)
  else
    let neg := F.signed && code / 2 ^ F.signBit % 2 = 1
    let e := code / 2 ^ F.mbits % 2 ^ F.ebits
    let m := code % 2 ^ F.mbits
    if F.hasInf && e = 2 ^ F.ebits - 1 then (if m = 0 then .inf neg else .nan)
    else if F = .e4m3 && e = 15 && m = 7 then .nan
    else if e = 0 then .fin neg m (1 - F.bias - F.mbits : Int)
    else .fin neg (m + 2 ^ F.mbits) ((e : Int) - F.bias - F.mbits)

/-- Whether a code is a subnormal of its format (R213). -/
def Fmt.isSubnormal (F : Fmt) (code : Nat) : Bool :=
  F ≠ .e8m0 && code / 2 ^ F.mbits % 2 ^ F.ebits = 0 && code % 2 ^ F.mbits ≠ 0

/-- Flush (R116): a subnormal code becomes zero of its sign. -/
def Fmt.flushCode (F : Fmt) (flush : Bool) (code : Nat) : Nat :=
  if flush && F.isSubnormal code then code / 2 ^ F.signBit * 2 ^ F.signBit else code

/-- The value is zero. -/
def Fp.isZero : Fp → Bool
  | .fin _ 0 _ => true
  | _ => false

/-- The sign of a value; a NaN has none. -/
def Fp.neg? : Fp → Bool
  | .nan => false
  | .inf n => n
  | .fin n _ _ => n

/-- The value with its sign inverted. -/
def Fp.negate : Fp → Fp
  | .nan => .nan
  | .inf n => .inf (!n)
  | .fin n m e => .fin (!n) m e

/-- A NaN that an operation passes on is written as canon_nan of its format (R217). -/
def Fmt.canon (F : Fmt) (code : Nat) : Nat := if F.value code = .nan then F.canonNan else code

/-! ## Rounding -/

/-- The rounding modes (R98, R222). -/
inductive Rnd where
  | rn | rz | rp | rm | rs
  deriving DecidableEq, Repr

/-- The mode of a RND code (R98); 5-7 are reserved. -/
def Rnd.ofCode (c : BitVec 3) : Option Rnd := [Rnd.rn, .rz, .rp, .rm, .rs][c.toNat]?

/-- floor(log2 (n / d)) for n, d > 0. -/
def floorLog2 (n d : Nat) : Int :=
  let k : Int := (Nat.log2 n : Int) - Nat.log2 d
  let ge := if 0 ≤ k then decide (d * 2 ^ k.toNat ≤ n) else decide (d ≤ n * 2 ^ (-k).toNat)
  if ge then k else k - 1

/-- Whether a magnitude between two neighbours goes to the upper one (R109). `num / den` is how far it lies above the
lower, in units of their distance, strictly between 0 and 1; `odd` says that the lower has the odd code. -/
def roundsUp (m : Rnd) (neg odd : Bool) (num den draw : Nat) : Bool :=
  match m with
  | .rn => decide (den < 2 * num) || (decide (2 * num = den) && odd)
  | .rz => false
  | .rp => !neg
  | .rm => neg
  | .rs => decide (65536 ≤ num * 65536 / den + draw)

/-- A rounded code, and whether the exact value was inexact (a `.rs` rounding then draws, R224). -/
structure Rounded where
  code : Nat
  inexact : Bool
  deriving DecidableEq, Repr

/-- The two neighbours of `n / d * 2^e` among the codes of a format whose exponent range is unbounded above (R109):
the lower code, and the distance above it as a fraction. A magnitude below the lowest of E8M0 counts as exact, code 0, and draws
nothing. Log entry 129 (DESIGN CHOICE). -/
def Fmt.neighbour (F : Fmt) (n d : Nat) (e : Int) : Nat × Nat × Nat :=
  let k := floorLog2 n d + e
  if F = .e8m0 then
    -- the grid of powers of two; below 2^-127 the code is 0 (R123)
    if k < -127 then (0, 0, 1)
    else
      let s := e - k
      let (num, den) := if 0 ≤ s then (n * 2 ^ s.toNat, d) else (n, d * 2 ^ (-s).toNat)
      ((k + 127).toNat, num - den, den)
  else
    let umin : Int := 1 - F.bias - F.mbits
    let u := max (k - F.mbits) umin
    let s := e - u
    let (num, den) := if 0 ≤ s then (n * 2 ^ s.toNat, d) else (n, d * 2 ^ (-s).toNat)
    (num / den + (u - umin).toNat * 2 ^ F.mbits, num % den, den)

/-- `round(x, F, m)` (R109) for x = (-1)^neg * n / d * 2^e with n, d > 0. `draw` is stoch(L, 16). A value of the grid beyond the
format's largest is no value between two neighbours, and draws nothing. Log entry 129 (DESIGN CHOICE). -/
def Fmt.roundMag (F : Fmt) (m : Rnd) (draw : Nat) (neg : Bool) (n d : Nat) (e : Int) : Rounded :=
  let (lo, num, den) := F.neighbour n d e
  let y := if num = 0 then lo else if roundsUp m neg (lo % 2 = 1) num den draw then lo + 1 else lo
  let inexact := decide (num ≠ 0)
  if F.maxCode < y then
    let toInf := F.hasInf && (m = .rn || m = .rs || (m = .rp && !neg) || (m = .rm && neg))
    ⟨F.withSign neg (if toInf then F.infCode else F.maxCode), inexact⟩
  else ⟨F.withSign neg y, inexact⟩

/-- An exact result before its one rounding. -/
inductive Exact where
  | nan
  | inf (neg : Bool)
  | zero (neg : Bool)
  /-- (-1)^neg * n / d * 2^e, n and d not 0. -/
  | real (neg : Bool) (n d : Nat) (e : Int)
  deriving DecidableEq, Repr

/-- An exact result rounded into a format (R109, R117): NaN is canonical, an infinity stays where the format has one and
is the largest finite value where it has none, a zero keeps its sign. -/
def Fmt.roundExact (F : Fmt) (m : Rnd) (draw : Nat) : Exact → Rounded
  | .nan => ⟨F.canonNan, false⟩
  | .inf neg => ⟨F.withSign neg (if F.hasInf then F.infCode else F.maxCode), false⟩
  | .zero neg => ⟨F.withSign neg 0, false⟩
  | .real neg n d e => F.roundMag m draw neg n d e

/-- The value as an exact result. -/
def Fp.exact : Fp → Exact
  | .nan => .nan
  | .inf n => .inf n
  | .fin n 0 _ => .zero n
  | .fin n m e => .real n m 1 e

/-! ## Sums and products (R117) -/

/-- A dyadic number m * 2^e. -/
structure Dy where
  m : Int
  e : Int
  deriving DecidableEq, Repr

/-- The signed mantissa of a finite value. -/
def Fp.dy : Fp → Dy
  | .fin neg m e => ⟨if neg then -(m : Int) else m, e⟩
  | _ => ⟨0, 0⟩

/-- Exact sum. -/
def Dy.add (x y : Dy) : Dy :=
  if x.m = 0 then y
  else if y.m = 0 then x
  else if x.e ≤ y.e then ⟨x.m + y.m * 2 ^ (y.e - x.e).toNat, x.e⟩
  else ⟨x.m * 2 ^ (x.e - y.e).toNat + y.m, y.e⟩

/-- Exact product. -/
def Dy.mul (x y : Dy) : Dy := ⟨x.m * y.m, x.e + y.e⟩

/-- A dyadic number as an exact result; zero takes the sign given. -/
def Dy.exact (x : Dy) (zeroNeg : Bool) : Exact :=
  if x.m = 0 then .zero zeroNeg else .real (decide (x.m < 0)) x.m.natAbs 1 x.e

/-- x < y. -/
def Dy.lt (x y : Dy) : Bool := decide ((x.add ⟨-y.m, y.e⟩).m < 0)

/-- The exact product of two values (R117). -/
def Fp.mul (a b : Fp) : Fp :=
  match a, b with
  | .nan, _ | _, .nan => .nan
  | .inf n, .inf k => .inf (n != k)
  | .inf n, .fin k m _ => if m = 0 then .nan else .inf (n != k)
  | .fin n m _, .inf k => if m = 0 then .nan else .inf (n != k)
  | .fin n m e, .fin k p f => .fin (n != k) (m * p) (e + f)

/-- The exact sum of two terms with the zero rule of R117: two zeros of one sign keep it, any other exact zero sum is
+0, or -0 under .rm. -/
def Fp.add (m : Rnd) (a b : Fp) : Exact :=
  match a, b with
  | .nan, _ | _, .nan => .nan
  | .inf n, .inf k => if n = k then .inf n else .nan
  | .inf n, _ => .inf n
  | _, .inf k => .inf k
  | .fin n p e, .fin k q f =>
    if p = 0 && q = 0 then .zero (if n = k then n else decide (m = .rm))
    else (Dy.add (Fp.dy (.fin n p e)) (Fp.dy (.fin k q f))).exact (decide (m = .rm))

/-- The floating operations of R117. -/
def fpAdd (m : Rnd) (a b : Fp) : Exact := Fp.add m a b
def fpSub (m : Rnd) (a b : Fp) : Exact := Fp.add m a b.negate
def fpMul (a b : Fp) : Exact := (Fp.mul a b).exact
def fpFma (m : Rnd) (a b c : Fp) : Exact :=
  match a, b, c with
  | .nan, _, _ | _, .nan, _ | _, _, .nan => .nan
  | _, _, _ => Fp.add m (Fp.mul a b) c

/-! ## Order (R118, R121) -/

/-- a < b for values that are no NaN, zeros equal. -/
def Fp.lt (a b : Fp) : Bool :=
  match a, b with
  | .nan, _ | _, .nan => false
  | .inf n, .inf k => n && !k
  | .inf n, _ => n
  | _, .inf k => !k
  | .fin n p e, .fin k q f => Dy.lt (Fp.dy (.fin n p e)) (Fp.dy (.fin k q f))

/-- a = b for values that are no NaN, zeros equal. -/
def Fp.eq (a b : Fp) : Bool :=
  match a, b with
  | .nan, _ | _, .nan => false
  | _, _ => !Fp.lt a b && !Fp.lt b a

/-- R118: a ranks below b, with -0 below +0. -/
def Fp.below (a b : Fp) : Bool :=
  Fp.lt a b || (Fp.eq a b && a.isZero && b.isZero && a.neg? && !b.neg?)

/-- min and max of R118 on codes; `pickMax` chooses max. -/
def Fmt.minMax (F : Fmt) (pickMax : Bool) (a b : Nat) : Nat :=
  match F.value a, F.value b with
  | .nan, .nan => F.canonNan
  | .nan, _ => b
  | _, .nan => a
  | x, y => if pickMax then (if Fp.below x y then b else a) else (if Fp.below y x then b else a)

/-! ## Roots, exponentials, logarithms (R120) -/

/-- floor(sqrt n), bit by bit. -/
def isqrt (n : Nat) : Nat :=
  ((List.range (Nat.log2 n / 2 + 1)).reverse).foldl
    (fun r i => if (r + 2 ^ i) * (r + 2 ^ i) ≤ n then r + 2 ^ i else r) 0

/-- An irrational or exact value q * 2^e <= x < (q + 1) * 2^e as a stand-in that rounds as x does: q itself when exact,
else halfway to q + 1. q carries more bits than any format keeps. -/
def sticky (neg : Bool) (q : Nat) (exact : Bool) (e : Int) : Exact :=
  .real neg (2 * q + if exact then 0 else 1) 1 (e - 1)

/-- 1/a (R120). -/
def fpRcp : Fp → Exact
  | .nan => .nan
  | .inf n => .zero n
  | .fin n 0 _ => .inf n
  | .fin n m e => .real n 1 m (-e)

/-- The square root of m * 2^e, m > 0. -/
def sqrtMag (m : Nat) (e : Int) : Exact :=
  let p : Nat := if e % 2 = 0 then 128 else 129
  let y := m * 2 ^ p
  let q := isqrt y
  sticky false q (decide (q * q = y)) ((e - p) / 2)

/-- sqrt a (R120). -/
def fpSqrt : Fp → Exact
  | .nan => .nan
  | .inf n => if n then .nan else .inf false
  | .fin n 0 _ => .zero n
  | .fin n m e => if n then .nan else sqrtMag m e

/-- 1/sqrt a (R120). -/
def fpRsqrt : Fp → Exact
  | .nan => .nan
  | .inf n => if n then .nan else .zero false
  | .fin n 0 _ => .inf n
  | .fin n m e =>
    if n then .nan
    else
      let p : Nat := if e % 2 = 0 then 160 else 161
      let y := 2 ^ p / m
      let q := isqrt y
      sticky false q (decide (q * q * m = 2 ^ p)) (-(p + e) / 2)

/-- The first `bits` bits of log2 x for x = num / 2^prec in [1, 2), by repeated squaring (log entry 8: the precision
kept decides every bit that a rounding can depend on). -/
def log2Bits (prec : Nat) : (bits : Nat) → (num acc : Nat) → Nat
  | 0, _, acc => acc
  | bits + 1, num, acc =>
    let sq := num * num / 2 ^ prec
    if 2 ^ (prec + 1) ≤ sq then log2Bits prec bits (sq / 2) (2 * acc + 1) else log2Bits prec bits sq (2 * acc)

/-- floor(2^bits * log2 m) for m > 0. Log entry 8 (DEDUCED). -/
def log2Fixed (prec bits m : Nat) : Nat :=
  let k := Nat.log2 m
  k * 2 ^ bits + log2Bits prec bits (m * 2 ^ (prec - k)) 0

/-- log2 a (R120). log2(1) is +0. Log entry 8 (DEDUCED). -/
def fpLog2 : Fp → Exact
  | .nan => .nan
  | .inf n => if n then .nan else .inf false
  | .fin _ 0 _ => .inf true
  | .fin n m e =>
    if n then .nan
    else if m = 2 ^ Nat.log2 m then
      (Dy.mk ((Nat.log2 m : Int) + e) 0).exact false
    else
      -- t <= 2^96 log2 a < t + 1, never equal
      let t : Int := (log2Fixed 512 96 m : Int) + e * 2 ^ 96
      (Dy.mk (2 * t + 1) (-97)).exact false

/-- The greatest q < 2^(i+1) with log2 q <= t / 2^256, found bit by bit from bit i down, starting from `acc`.
Log entry 8 (DEDUCED). -/
def exp2Search (t : Nat) : (i : Nat) → (acc : Nat) → Nat
  | 0, acc => acc
  | i + 1, acc =>
    let c := acc + 2 ^ i
    exp2Search t i (if log2Fixed 1024 256 c ≤ t then c else acc)

/-- 2^a (R120). Log entry 8 (DEDUCED). -/
def fpExp2 : Fp → Exact
  | .nan => .nan
  | .inf n => if n then .zero false else .inf false
  | .fin _ 0 _ => .real false 1 1 0
  | .fin n m e =>
    let x := Fp.dy (.fin n m e)
    -- the integer part of a and 2^160 times its fraction; a value beyond f32's range keeps only its sign and size
    if decide (12 ≤ Nat.log2 m + e) then .real false 1 1 (if n then -100000 else 100000)
    else
      let s : Nat := 160
      let v : Int := if 0 ≤ x.e + s then x.m * 2 ^ (x.e + s).toNat else x.m
      let s' : Int := if 0 ≤ x.e + s then s else -x.e
      let i := v / 2 ^ s'.toNat
      let f := (v % 2 ^ s'.toNat).toNat
      if f = 0 then .real false 1 1 i
      else
        let t := 40 * 2 ^ 256 + (if s' ≤ 256 then f * 2 ^ (256 - s').toNat else f / 2 ^ (s' - 256).toNat)
        sticky false (exp2Search t 40 (2 ^ 40)) false (i - 40)

/-! ## Rounding to an integer (R122, R123) -/

/-- A finite value rounded to an integer by a mode: the integer, whether the fraction was not 0, with `.rs` as R122
states it (away from zero on the drawn bits). -/
def roundToInt (m : Rnd) (draw : Nat) (neg : Bool) (mag : Nat) (e : Int) : Int × Bool :=
  let (num, den) := if 0 ≤ e then (mag * 2 ^ e.toNat, 1) else (mag, 2 ^ (-e).toNat)
  let q := num / den
  let r := num % den
  let up := r ≠ 0 && roundsUp m neg (q % 2 = 1) r den draw
  let y : Nat := if up then q + 1 else q
  (if neg then -(y : Int) else y, decide (r ≠ 0))

/-- rnd (R122) of a code in its own format. -/
def Fmt.rnd (F : Fmt) (m : Rnd) (draw : Nat) (code : Nat) : Rounded :=
  match F.value code with
  | .nan => ⟨F.canonNan, false⟩
  | .inf n => ⟨F.withSign n F.infCode, false⟩
  | .fin n 0 _ => ⟨F.withSign n 0, false⟩
  | .fin n mag e =>
    let (y, ix) := roundToInt m draw n mag e
    ⟨if y = 0 then F.withSign n 0 else (F.roundMag .rn 0 n y.natAbs 1 0).code, ix⟩

/-! ## Conversion (R123) -/

/-- FP to FP (R123): NaN is the canonical NaN or 0, infinities become the largest finite where the format has none, E3M5
takes 0 for a negative value, and E8M0 its NaN for zero, negative values and NaN. -/
def Fmt.convert (F : Fmt) (m : Rnd) (draw : Nat) (sat : Bool) (x : Exact) : Rounded :=
  let r : Rounded :=
    match F, x with
    | .e3m5, .nan => ⟨0, false⟩
    | .e3m5, .inf true | .e3m5, .zero _ => ⟨0, false⟩
    | .e3m5, .real true .. => ⟨0, false⟩
    | .e8m0, .nan | .e8m0, .zero _ | .e8m0, .inf true => ⟨0xFF, false⟩
    | .e8m0, .real true .. => ⟨0xFF, false⟩
    | F, x => F.roundExact m draw x
  if sat then
    match F.value r.code with
    | .inf n => ⟨F.withSign n F.maxCode, r.inexact⟩
    | _ => r
  else r

/-- FP to integer (R123): NaN gives 0, and anything out of range is clamped whether or not SAT is set. -/
def fpToInt (t : Ty) (m : Rnd) (draw : Nat) : Fp → Int × Bool
  | .nan => (0, false)
  | .inf n => (if n then t.minInt else t.maxInt, false)
  | .fin n mag e => let (y, ix) := roundToInt m draw n mag e; (satInt t y, ix)

/-- An integer as an exact value. -/
def intExact (x : Int) : Exact := if x = 0 then .zero false else .real (decide (x < 0)) x.natAbs 1 0

/-! ## NF4B and the burst formats (R125, R126, R218) -/

/-- decode_nf4b on its three codes: element, block scale, band scale (R108, R125): the element times the block scale, then times
the band scale, so that a zero product under an infinite band scale is a NaN (R126). Log entry 130 (DESIGN CHOICE). -/
def nf4bValue (elem block band : Nat) : Fp :=
  Fp.mul (Fp.mul (Fmt.e2m1.value elem) (Fmt.e3m5.value block)) (Fmt.bf16.value band)

/-- The exact value of an SB8 or SB4 element under a header exponent (R125, R221). -/
def sbValue (F : Fmt) (elem bexp : Nat) : Fp :=
  if bexp % 256 = 255 then .nan
  else
    match F.value elem with
    | .fin n m e => .fin n m (e + ((bexp % 256 : Nat) : Int) - 127)
    | x => x

/-- scl (R125, R126): a * 2^n. Beyond 2^1000 and below 2^-1000 every format rounds alike. -/
def fpScale (a : Fp) (n : Int) : Exact :=
  match a with
  | .fin k 0 _ => .zero k
  | .fin k m e => .real k m 1 (max (-1000) (min 1000 (e + n)))
  | x => x.exact

/-- enc (R125, R126): the E2M1 code of a / s, s the scale. -/
def encodeNf4b (m : Rnd) (draw : Nat) (a s : Fp) : Rounded :=
  match a, s with
  | .nan, _ | _, .nan => ⟨0, false⟩
  | .inf _, .inf _ => ⟨0, false⟩
  | .inf n, .fin k p _ => if p = 0 then ⟨0, false⟩ else ⟨Fmt.e2m1.withSign (n != k) 7, false⟩
  | .fin n _ _, .inf k => ⟨Fmt.e2m1.withSign (n != k) 0, false⟩
  | .fin n p e, .fin k q f =>
    if q = 0 then ⟨0, false⟩
    else if p = 0 then ⟨Fmt.e2m1.withSign (n != k) 0, false⟩
    else Fmt.e2m1.roundMag m draw (n != k) p q (e - f)

/-! ## The matrix k-step (R227) and the accumulator readout (R228) -/

/-- One block of a k-step: its products, and the scales of A and B for the block. -/
structure KBlock where
  pairs : List (Fp × Fp)
  scaleA : Fp
  scaleB : Fp
  deriving DecidableEq, Repr

/-- The products of a block. -/
def KBlock.products (b : KBlock) : List Fp := b.pairs.map (fun p => Fp.mul p.1 p.2)

/-- The exact block term t(i) = d(i) * scale of A * scale of B, for finite products. -/
def KBlock.term (b : KBlock) : Dy :=
  let d := b.products.foldl (fun acc p => acc.add p.dy) (Dy.mk 0 0)
  (d.mul b.scaleA.dy).mul b.scaleB.dy

/-- floor(log2 |x|) of a dyadic number that is not 0. -/
def Dy.floorLog2 (x : Dy) : Int := (Nat.log2 x.m.natAbs : Int) + x.e

/-- The magnitude truncated to multiples of 2^low (R227). -/
def Dy.truncate (low : Int) (x : Dy) : Dy :=
  if low ≤ x.e then x
  else
    let q := x.m.natAbs / 2 ^ (low - x.e).toNat
    ⟨if x.m < 0 then -(q : Int) else q, low⟩

/-- A k-step's result for one column (R227). -/
def kstepColumn (flush : Bool) (acc : Nat) (blocks : List KBlock) : Nat :=
  let a := Fmt.f32.value acc
  let prods := blocks.flatMap KBlock.products
  let anyNan := decide (a = .nan) || prods.any (fun p => decide (p = .nan))
  let infs := (a :: prods).filterMap (fun p => match p with | .inf n => some n | _ => none)
  if anyNan || (infs.any (· = true) && infs.any (· = false)) then Fmt.f32.canonNan
  else
    match infs with
    | n :: _ => Fmt.f32.withSign n Fmt.f32.infCode
    | [] =>
      let terms := (a.dy :: blocks.map KBlock.term).filter (fun t => t.m ≠ 0)
      match terms with
      | [] => 0
      | t :: ts =>
        let top := ts.foldl (fun e x => max e x.floorLog2) t.floorLog2
        let cut := terms.map (Dy.truncate (top - 71))
        let lost := (terms.zip cut).any (fun p => (p.1.add ⟨-p.2.m, p.2.e⟩).m ≠ 0)
        let sum := cut.foldl Dy.add (Dy.mk 0 0)
        if sum.m = 0 then 0
        else
          let neg := decide (sum.m < 0)
          let (lo, num, den) := Fmt.f32.neighbour sum.m.natAbs 1 sum.e
          let tie := lost && decide (2 * num = den)
          let res := if tie then (if Fmt.f32.maxCode < lo + 1 then Fmt.f32.infCode else lo + 1)
            else (Fmt.f32.roundMag .rn 0 false sum.m.natAbs 1 sum.e).code
          Fmt.f32.flushCode flush (Fmt.f32.withSign neg res)

/-- The readout of an accumulator value with its two band scales (R228). -/
def readout (flush : Bool) (acc bandA bandB : Nat) : Nat :=
  let x := Fp.mul (Fp.mul (Fmt.f32.value acc) (Fmt.bf16.value bandA)) (Fmt.bf16.value bandB)
  -- 0 * infinity in any grouping is a NaN: the three factors are looked at together
  let vs := [Fmt.f32.value acc, Fmt.bf16.value bandA, Fmt.bf16.value bandB]
  let anyInf := vs.any (fun v => match v with | .inf _ => true | _ => false)
  if vs.any (fun v => decide (v = .nan)) || (anyInf && vs.any Fp.isZero) then Fmt.f32.canonNan
  else Fmt.f32.flushCode flush (Fmt.f32.roundExact .rn 0 x.exact).code

/-! ## The counter-based generator (R201) and the stochastic streams (R224) -/

/-- SBOX of R201. -/
def sbox : List Nat :=
  [22, 3, 9, 16, 28, 11, 25, 21, 5, 29, 14, 23, 0, 8, 19, 26, 12, 17, 2, 6, 31, 10, 4, 1, 20, 13, 27, 24, 7, 18, 30, 15]

/-- The 32-bit word of ctrg(c, K) (R201). -/
def ctrgWord (c k : Word) : Word :=
  let g := c >>> 5
  let j := c.toNat % 32
  let h := k ^^^ (g * 0x9E3779B9#32)
  let top := (sbox.getD ((j + h.toNat % 32) % 32) 0) ^^^ (h.toNat / 32 % 32)
  let z0 := (c ^^^ k.rotateRight 11) * 0x6C8E9CF5#32
  let z1 := (z0 ^^^ (z0 >>> 15)) * 0xB55A4F09#32
  let z2 := z1 ^^^ (z1 >>> 13)
  BitVec.ofNat 32 (top * 2 ^ 27 + z2.toNat % 2 ^ 27)

/-- ctrg.f32 (R201): floor(word / 2^8) * 2^-24, exact. -/
def ctrgFloat (c k : Word) : Nat :=
  let w := (ctrgWord c k).toNat / 256
  if w = 0 then 0 else (Fmt.f32.roundMag .rn 0 false w 1 (-24)).code

/-- lkey(L) of R224. -/
def laneKey (key : Word) (blin : Nat) (w lane : Nat) : Word :=
  ctrgWord (BitVec.ofNat 32 blin ^^^ BitVec.ofNat 32 (blin / 2 ^ 32)) key
    ^^^ ctrgWord (BitVec.ofNat 32 (32 * w + lane)) (key.rotateRight 16)

/-- The 16 bits of the n-th draw of a stream (R224). -/
def stochBits (lkey n : Word) : Nat := (ctrgWord n lkey).toNat % 65536

end Sys2Proof.Machine
end

