-- ==== Sys2Proof/Machine/Legal.lean ====
section
/-! DEFINITION. What each allocated opcode accepts (R85-R102 and the entries of the instruction chapters) and the two
traps of R103. `opShape` gives, per opcode, the kind of every field, the types and the MOD bits; `legalCode` judges one
instruction against it and against the wave's allotment. -/

namespace Sys2Proof.Machine

/-! ## Selectors (R89, R90) -/

/-- What a source selector names (R90, R91, R92). -/
inductive Sel where
  | v (n : Nat)
  | s (n : Nat)
  | k (n : Nat)
  | special (n : Nat)
  /-- Inline integers, by value; inline floating constants, by selector. -/
  | int (x : Int)
  | fp (n : Nat)
  | bad
  | ext
  deriving DecidableEq, Repr

/-- R90's table of A, B and C. -/
def Sel.of (x : BitVec 10) : Sel :=
  let n := x.toNat
  if n < 256 then .v n
  else if n < 384 then .s (n - 256)
  else if n < 392 then .k (n - 384)
  else if n < 413 then .special n
  else if n < 448 then .bad
  else if n < 480 then .int ((n : Int) - 448)
  else if n < 496 then .int ((n : Int) - 496)
  else if n < 512 then .fp n
  else if n < 1023 then .bad
  else .ext

/-- What a destination selector names (R89). -/
inductive Dst where
  | v (n : Nat)
  | s (n : Nat)
  | k (n : Nat)
  | bad
  | discard
  deriving DecidableEq, Repr

/-- R89's table of DST. -/
def Dst.of (x : BitVec 9) : Dst :=
  let n := x.toNat
  if n < 256 then .v n
  else if n < 384 then .s (n - 256)
  else if n = 384 then .bad
  else if n < 392 then .k (n - 384)
  else if n < 511 then .bad
  else .discard

/-- A selector that makes an ALU instruction vector: a v register, %lane or %quad (R90). -/
def Sel.isVec : Sel → Bool
  | .v _ => true
  | .special n => n = 392 || n = 393
  | _ => false

/-! ## MOD fields (R96-R98) -/

/-- TYPE, MOD bits [55:51]. -/
def typeCode (e : Enc) : BitVec 5 := e.mod.extractLsb' 7 5
def typeOf (e : Enc) : Option Ty := Ty.ofCode (typeCode e)
/-- RND or SCOPE, bits [50:48]. -/
def rndCode (e : Enc) : Nat := (e.mod.extractLsb' 4 3).toNat
/-- SAT, bit [47]. -/
def satBit (e : Enc) : Bool := e.mod.getLsbD 3
/-- SUB or COND, bits [46:44]. -/
def subCode (e : Enc) : Nat := (e.mod.extractLsb' 0 3).toNat
def scopeCode (e : Enc) : Nat := rndCode e
/-- ORD, bits [47:46]; HINT, bits [45:44]. -/
def ordCode (e : Enc) : Nat := (e.mod.extractLsb' 2 2).toNat
def hintCode (e : Enc) : Nat := (e.mod.extractLsb' 0 2).toNat
/-- The rounding mode; a reserved code is never performed. -/
def rndOf (e : Enc) : Rnd := (Rnd.ofCode (e.mod.extractLsb' 4 3)).getD .rn
/-- The source type of a conversion, C[4:0]. -/
def srcTypeOf (e : Enc) : Option Ty := Ty.ofCode (e.c.extractLsb' 0 5)
/-- The type, where the opcode's check has passed. -/
def tyOf (e : Enc) : Ty := (typeOf e).getD .b32
/-- The type is 64 bits wide. -/
def wideType (e : Enc) : Bool := (tyOf e).width = 64

/-! ## Field kinds -/

/-- What a source field accepts. `w` says that the operand is 64 bits wide. -/
inductive Src where
  /-- Unused: must hold 0 (R99). -/
  | unused
  /-- Any source (R90). -/
  | any (w : Bool)
  /-- Any source that is the same for every lane. -/
  | uniAny (w : Bool)
  /-- An s register, an inline constant or KIND 00. -/
  | uni
  /-- An s register, an inline constant, KIND 00 or KIND 01 (R354). -/
  | uni01
  | k
  | s
  | sPair
  | v (w : Bool)
  /-- A base: a v pair, an even s pair or KIND 10 (R102, R137). -/
  | base
  /-- An address: an even s pair or KIND 10. -/
  | uniBase
  /-- An address that may also be the inline 0 (R204). -/
  | uniBaseOr0
  /-- A scratchpad base: v, s or KIND 00 (R137). -/
  | scrBase
  /-- An offset: v, s, inline or KIND 00 (R102). -/
  | off
  /-- A uniform offset (R354). -/
  | uniOff
  /-- A window: selectors 448-455 (R137). -/
  | window
  /-- A 64-bit value of tset: even s pair, KIND 01 pair or KIND 10 (R235). -/
  | pair64
  /-- The first of `n` s registers, even (R244, R354). -/
  | block (n : Nat)
  /-- A source type code: C[9:5] is 0 (R96). -/
  | srcType
  /-- A source that the instruction names and does not read: 0, or a uniform source (R132). -/
  | unread (w : Bool)
  deriving DecidableEq, Repr

/-- What the DST field accepts. -/
inductive DstKind where
  /-- Unused: must hold 511 (R99). -/
  | unused
  /-- A v or an s register, or discard. -/
  | vs (w : Bool)
  /-- A v, s or k1-k7 register, or discard. -/
  | vsk (w : Bool)
  | v
  | k
  | kOrS
  | s
  /-- Without discard. -/
  | vOnly
  /-- Two v registers, vD and vD + 1 (R354). -/
  | v2
  | kOnly
  | sOnly
  | sPair
  | sPairOrNone
  deriving DecidableEq, Repr

/-- How an opcode reads its word. -/
structure Shape where
  dst : DstKind := .unused
  a : Src := .unused
  b : Src := .unused
  c : Src := .unused
  /-- Types allowed in both forms, and in scalar form only (R102); with both empty the opcode names no type. -/
  types : List Ty := []
  scalar : List Ty := []
  /-- Every other MOD bit is as R98 and the entry allow. -/
  modOk : Bool := true
  /-- A further condition of the entry that is trap 1. -/
  encOk : Bool := true
  /-- The branch class, whose DST and C are an offset (R100); `offset` says it uses one. -/
  branch : Bool := false
  offset : Bool := false
  /-- A vector source with an s destination is defined (R90). -/
  reduces : Bool := false
  /-- Must be unguarded (R95). -/
  unguarded : Bool := false
  /-- A load, store, gather, scatter, prefetch or atomic: in vector form only with a v register (R137). -/
  access : Bool := false
  deriving DecidableEq, Repr

/-! ## The shape of each opcode (R102 and the entries) -/

/-- RND, SAT and SUB are 0. -/
def plainMod (e : Enc) : Bool := rndCode e = 0 && !satBit e && subCode e = 0
/-- SCOPE, ORD and HINT are 0. -/
def plainMem (e : Enc) : Bool := scopeCode e = 0 && ordCode e = 0 && hintCode e = 0
/-- The whole MOD field is 0. -/
def zeroMod (e : Enc) : Bool := e.mod = 0#12

/-- Integer and logic opcodes. -/
def intShape (e : Enc) (a b c : Src) (types scalar : List Ty) (sat : Bool) : Shape :=
  { dst := .vs (wideType e), a := a, b := b, c := c, types := types, scalar := scalar,
    modOk := rndCode e = 0 && subCode e = 0 && (sat || !satBit e) }

/-- Floating opcodes; `top` is the largest RND code allowed. -/
def fpShape (e : Enc) (b c : Src) (types : List Ty) (top : Nat) : Shape :=
  { dst := .vs false, a := .any false, b := b, c := c, types := types,
    modOk := decide (rndCode e ≤ top) && !satBit e && subCode e = 0 }

/-- The element opcodes 0x32-0x37 (R125), whose DST is taken as that of the vector opcodes beside them. Log entry 31 (DEDUCED). -/
def elemShape (e : Enc) (b c : Src) (types : List Ty) (top : Nat) (sat : Bool) : Shape :=
  { dst := .v, a := .any false, b := b, c := c, types := types,
    modOk := decide (rndCode e ≤ top) && (sat || !satBit e) && subCode e = 0 }

def loadTypes : List Ty := [.i8, .i16, .n8, .n16, .b32, .b64]
def storeTypes : List Ty := [.b8, .b16, .b32, .b64]
def fpTypes : List Ty := [.f32, .f16, .bf16]

/-- ORD and SCOPE of ld.g and st.g (R143): plain, or the one order `o` with SCOPE 1-4. -/
def orderOk (e : Enc) (o : Nat) : Bool :=
  (ordCode e = 0 && scopeCode e = 0) || (ordCode e = o && decide (1 ≤ scopeCode e) && decide (scopeCode e ≤ 4))

/-- Atomics (R188). -/
def atomShape (e : Enc) (types : List Ty) : Shape :=
  { dst := .vs (wideType e), a := .base, b := .off, c := .any (wideType e), types := types,
    modOk := hintCode e = 0 && decide (scopeCode e ≤ 4) && (scopeCode e ≠ 0 || ordCode e = 0) }

/-- The pairs of R123, apart from the forms. -/
def cvtSources : List Ty := [.i32, .n32, .i64, .n64, .f32, .f16, .bf16, .e4m3, .e5m2, .e2m1, .e3m5, .e8m0]
def cvtTargets : List Ty :=
  [.i8, .i16, .i32, .n8, .n16, .n32, .i64, .n64, .f32, .f16, .bf16, .e4m3, .e5m2, .e2m1, .e3m5, .e8m0]

/-- A source type of 64 bits makes A a pair. -/
def wideSource (e : Enc) : Bool := decide ((srcTypeOf e).map Ty.width = some 64)

/-- Arithmetic rows 0x0_ and 0x1_. Position and width of bfe and bfi are 32-bit operands at every type.
Log entry 139 (DEDUCED). -/
def alu1Shape (op : Nat) (e : Enc) : Shape :=
  let w := wideType e
  let x := Src.any w
  let n := Src.any false
  match op with
  | 0x00 | 0x01 | 0x02 => intShape e x x .unused [.i32, .n32] [.i64, .n64] true
  | 0x03 | 0x05 | 0x06 => intShape e x x .unused [.i32, .n32] [.i64, .n64] false
  | 0x04 => intShape e x x x [.i32, .n32] [.i64, .n64] true
  | 0x07 | 0x08 => intShape e x .unused .unused [.i32] [.i64] false
  | 0x09 | 0x0A | 0x0B => intShape e x x .unused [.b32] [.b64] false
  | 0x0C | 0x10 | 0x11 | 0x12 | 0x13 => intShape e x .unused .unused [.b32] [.b64] false
  | 0x0D | 0x0F => intShape e x n .unused [.b32] [.b64] false
  | 0x0E => intShape e x n .unused [.b32, .n32, .i32] [.b64, .n64, .i64] false
  | 0x14 => intShape e x n n [.b32, .i32] [.b64, .i64] false
  | 0x15 => intShape e x x n [.b32] [.b64] false
  | 0x16 => intShape e x x .k [.b32, .b64] [] false
  | 0x17 =>
    let toK := match Dst.of e.dst with | .k _ => true | _ => false
    { intShape e x .unused .unused [.b32, .b64] [] false with
      dst := .vsk w, encOk := !toK || (!w && !(Sel.of e.a).isVec) }
  | 0x18 =>
    { dst := .k, a := x, b := x, types := [.i32, .n32, .b32], scalar := [.i64, .n64, .b64],
      modOk := rndCode e = 0 && !satBit e && decide (subCode e < (if (tyOf e).isRaw then 2 else 6)) }
  | 0x19 => intShape e x x n [.n32] [.n64] false
  | _ => intShape e n n n [.b32] [] false

/-- Floating row 0x2_. -/
def fpOpShape (op : Nat) (e : Enc) : Shape :=
  let n := Src.any false
  match op with
  | 0x20 | 0x21 | 0x22 => fpShape e n .unused fpTypes 4
  | 0x23 => fpShape e n n fpTypes 4
  | 0x24 | 0x25 => fpShape e n .unused fpTypes 0
  | 0x26 | 0x27 => fpShape e .unused .unused fpTypes 0
  | 0x28 => { dst := .k, a := n, b := n, types := fpTypes, modOk := rndCode e = 0 && !satBit e }
  | 0x29 => { dst := .k, a := n, b := n, types := fpTypes, modOk := plainMod e }
  | 0x2F => fpShape e .unused .unused fpTypes 4
  | _ => fpShape e .unused .unused [.f32] 3

/-- Conversions and element opcodes 0x3_. -/
def cvtShape (op : Nat) (e : Enc) : Shape :=
  let n := Src.any false
  match op with
  | 0x30 =>
    let wide := wideType e || wideSource e
    let vec := (match Dst.of e.dst with | .v _ => true | _ => false) || (Sel.of e.a).isVec
    { dst := .vs (wideType e), a := .any (wideSource e), c := .srcType, types := cvtTargets,
      modOk := decide (rndCode e ≤ 4) && subCode e = 0 && !(vec && wide)
        && (match srcTypeOf e with | some t => cvtSources.contains t | none => false) }
  | 0x31 =>
    { dst := .v, a := n, b := n, c := .srcType, types := [.f16, .bf16, .e4m3, .e5m2, .e2m1],
      modOk := decide (rndCode e ≤ 4) && subCode e = 0 && srcTypeOf e = some .f32 }
  | 0x32 => elemShape e n n [.e4m3, .e5m2, .e2m1, .f16, .bf16] 4 true
  | 0x33 => elemShape e n .unused [.e4m3, .e5m2, .e2m1, .e3m5, .e8m0, .f16, .bf16] 0 false
  | 0x34 => elemShape e n n [.nf4b] 0 false
  | 0x35 => elemShape e n .unused [.nf4b] 4 true
  | 0x36 => elemShape e n n [.sb8, .sb4] 4 false
  | _ => elemShape e n .unused [.f32] 4 true

/-- SUB of wred and wscan at the type (R129). -/
def redOk (e : Enc) : Bool :=
  let sub := subCode e
  let t := tyOf e
  !satBit e && decide (sub ≤ 5) && (if t = .f32 then decide (rndCode e ≤ 4) && decide (sub ≤ 2) else rndCode e = 0)
    && (t ≠ .b32 || decide (3 ≤ sub))

/-- Exchange and mask opcodes 0x4_. -/
def exchangeShape (op : Nat) (e : Enc) : Shape :=
  let n := Src.any false
  let red : List Ty := [.i32, .n32, .b32, .f32]
  match op with
  | 0x46 => { dst := .s, a := n, types := red, modOk := redOk e, reduces := true }
  | 0x47 => { dst := .v, a := n, types := red, modOk := redOk e }
  | 0x48 => { dst := .kOrS, a := n, types := [.b32], modOk := plainMod e, reduces := true }
  | 0x49 => { dst := .k, a := .k, b := .k, modOk := typeCode e = 0#5 && rndCode e = 0 && !satBit e &&
                decide (subCode e ≤ 3) }
  | 0x4A | 0x4B => { dst := .s, a := .k, modOk := zeroMod e }
  | 0x4C => { dst := .k, a := n, types := [.b32], modOk := plainMod e }
  | _ => { dst := .v, a := n, b := n, types := [.b32], modOk := plainMod e }

/-- Branch class 0x5_ (R132-R135). Log entry 32 (DEDUCED). -/
def branchShape (op : Nat) (e : Enc) : Shape :=
  match op with
  | 0x50 =>
    let cond := subCode e
    let w := wideType e
    let reserved := e.mod.extractLsb' 3 4 = 0#4
    if cond = 6 then
      let src : Src := if typeCode e = 0#5 then .unused else .unread w
      { branch := true, offset := true, a := src, b := src,
        modOk := reserved && (typeCode e = 0#5 || [Ty.i32, .n32, .f32, .i64, .n64].contains (tyOf e)) && (typeOf e).isSome }
    else
      { branch := true, offset := true, a := .uniAny w, b := .uniAny w,
        types := [.i32, .n32, .b32, .f32, .i64, .n64, .b64],
        modOk := reserved && decide (cond < (if (tyOf e).isRaw then 2 else 6)) }
  | 0x51 => { branch := true, offset := true, a := .k, modOk := zeroMod e }
  | 0x53 => { branch := true, offset := true, a := .s, modOk := zeroMod e }
  | 0x54 => { branch := true, offset := true, a := .sPair, modOk := zeroMod e }
  | 0x55 | 0x56 => { branch := true, a := .sPair, modOk := zeroMod e }
  | 0x52 => { branch := true, modOk := zeroMod e, unguarded := true }
  | _ => { branch := true, modOk := zeroMod e }

/-- Memory row 0x6_ (R142, R144, R146, R147); tld takes discard as the vector opcodes do. Log entry 31 (DEDUCED). -/
def memShape (op : Nat) (e : Enc) : Shape :=
  let w := wideType e
  match op with
  | 0x60 => { dst := .vs w, a := .base, b := .off, types := loadTypes, modOk := orderOk e 1 }
  | 0x61 => { a := .base, b := .off, c := .any w, types := storeTypes, modOk := orderOk e 2 }
  | 0x62 => { dst := .vs w, a := .scrBase, b := .off, types := loadTypes, modOk := plainMem e }
  | 0x63 => { a := .scrBase, b := .off, c := .any w, types := storeTypes, modOk := plainMem e }
  | 0x64 => { dst := .vs w, a := .window, b := .off, types := loadTypes, modOk := plainMem e }
  | 0x65 => { dst := .v, a := .uni, b := .v false, types := [.f32, .b32], modOk := plainMem e }
  | 0x66 => { dst := .vs w, a := .base, b := .v false, types := loadTypes,
              modOk := scopeCode e = 0 && ordCode e = 0 }
  | 0x67 => { a := .base, b := .v false, c := .any w, types := storeTypes,
              modOk := scopeCode e = 0 && ordCode e = 0 }
  | 0x68 => { dst := .vs w, a := .scrBase, b := .v false, types := loadTypes, modOk := plainMem e }
  | 0x69 => { a := .scrBase, b := .v false, c := .any w, types := storeTypes, modOk := plainMem e }
  | _ => { a := .base, b := .off, modOk := typeCode e = 0#5 && scopeCode e = 0 && ordCode e = 0 }

/-- Commit, barrier, owner and system opcodes 0x7_ and 0x8_. Log entry 34 (DEDUCED). -/
def commitShape (op : Nat) (e : Enc) : Shape :=
  let level := typeCode e = 0#5 && ordCode e = 0 && hintCode e = 0
  match op with
  | 0x70 => { modOk := level && decide (scopeCode e ≤ 4) }
  | 0x71 => { dst := .kOnly, modOk := level && scopeCode e = 0 }
  | 0x72 => { modOk := level && decide (scopeCode e ≤ 2) }
  | 0x73 => { modOk := level && decide (1 ≤ scopeCode e) && decide (scopeCode e ≤ 4) }
  | 0x74 | 0x75 | 0x76 => { modOk := e.mod.extractLsb' 4 8 = 0#8 }
  | 0x77 => { a := .uni, b := .uni, modOk := e.mod.extractLsb' 3 9 = 0#9 }
  | 0x78 => { dst := .kOnly, a := .uni, b := .uni, modOk := zeroMod e }
  | 0x80 | 0x87 | 0x88 => { a := .uniAny false, modOk := zeroMod e }
  | 0x81 => { modOk := zeroMod e, unguarded := true }
  | 0x82 => { modOk := zeroMod e }
  | 0x83 => { a := .uniAny false, b := .uniAny false, modOk := zeroMod e }
  | 0x84 => { dst := .sOnly, modOk := zeroMod e }
  | 0x85 => { dst := .sPair, a := .uniAny false, modOk := zeroMod e }
  | _ => { a := .uniAny false, b := .sPair, modOk := zeroMod e }

/-- Atomics, barriers, attach and task opcodes 0x9_ and 0xA_. Log entry 34 (DEDUCED). -/
def syncShape (op : Nat) (e : Enc) : Shape :=
  match op with
  | 0x90 => atomShape e [.i32, .n32, .f32, .i64, .n64]
  | 0x91 | 0x92 => atomShape e [.i32, .n32, .i64, .n64]
  | 0x93 | 0x94 | 0x95 | 0x96 => atomShape e [.b32, .b64]
  | 0x97 => { atomShape e [.b32, .b64] with b := .any (wideType e) }
  | 0x98 => atomShape e [.n32, .n64]
  | 0x99 | 0x9A => { modOk := e.mod.extractLsb' 2 10 = 0#10 }
  | 0x9B => { a := .uniBase, b := .uniAny false, c := .uniAny false, modOk := zeroMod e }
  | 0x9C => { dst := .sPairOrNone, a := .uniBase, b := .uniAny false, modOk := zeroMod e }
  | 0x9D => { a := .uniBase, b := .uniAny true, modOk := zeroMod e }
  | 0xA0 => { dst := .s, a := .uniAny false, modOk := zeroMod e }
  | 0xA1 => { modOk := zeroMod e }
  | 0xA2 => { dst := .k, a := .uniAny false, b := .uniAny false, modOk := zeroMod e }
  | 0xA3 => { dst := .vs false, a := .any false, b := .any false, types := [.b32, .f32], modOk := plainMod e }
  | 0xA4 => { dst := .vOnly, a := .v false, b := .v false, c := .s, types := [.n32], modOk := plainMod e,
              reduces := true }
  | 0xA5 => { a := .uniBase, b := .uniBaseOr0, modOk := zeroMod e }
  | 0xA6 => { a := .uniBase, b := .uniAny false, modOk := zeroMod e }
  | _ => { a := .uniBase, modOk := zeroMod e }

/-- Engine opcodes 0xB_ and 0xC_. -/
def engineShape (op : Nat) (e : Enc) : Shape :=
  match op with
  | 0xB0 => { a := .uni, b := .uni, c := .pair64, modOk := zeroMod e }
  | 0xB1 => { dst := .sPair, a := .uni, b := .uni, modOk := zeroMod e }
  | 0xB2 => { a := .uni, b := .block 16, modOk := zeroMod e }
  | 0xB3 => { dst := .s, modOk := zeroMod e }
  | 0xB4 => { a := .uni, modOk := zeroMod e }
  | 0xB5 => { a := .uni, b := .uni, modOk := zeroMod e }
  | 0xB6 => { a := .uni, b := .uni, c := .uni, modOk := zeroMod e }
  | 0xB7 => { dst := .sPair, a := .uni, modOk := zeroMod e }
  | 0xB8 => { a := .uni, b := .uni, c := .uni, modOk := hintCode e = 0 }
  | 0xB9 => { a := .uni, b := .uni, c := .uni, modOk := zeroMod e }
  | 0xBA => { modOk := e.mod.extractLsb' 1 11 = 0#11 }
  | 0xBB => { dst := .sPair, modOk := zeroMod e }
  | 0xBC => { dst := .vOnly, a := .uni, b := .uni, types := [.f32, .b32], modOk := plainMod e }
  | 0xBD => { a := .uni, b := .uni, c := .v false, types := [.b32], modOk := plainMod e }
  | 0xBE => { a := .uni, b := .uni, modOk := zeroMod e }
  | 0xBF => { a := .uni, b := .uni, c := .uni, types := [.f32, .f16, .bf16, .e4m3, .e5m2],
              modOk := decide (rndCode e ≤ 4) && subCode e = 0 }
  | 0xC0 => { dst := .s, a := .uniBase, modOk := zeroMod e }
  | 0xC1 => { a := .uni, modOk := zeroMod e }
  | 0xC2 => { dst := .sOnly, a := .uni, modOk := zeroMod e }
  | _ => { a := .uniBase, b := .uni, modOk := zeroMod e }

/-- Gecko and top-k opcodes 0xD_ (R354). -/
def gkShape (op : Nat) (e : Enc) : Shape :=
  match op with
  | 0xD0 | 0xD1 => { a := .uni01, b := .uni01, c := .uni01, modOk := zeroMod e }
  | 0xD2 | 0xD3 => { dst := .s, a := .uni01, b := .uni01, modOk := zeroMod e }
  | 0xD4 => { dst := .vOnly, a := .uni01, b := .uni01, c := .uni01, modOk := zeroMod e }
  | 0xD5 => { dst := .s, a := .uni01, b := .uni01, c := .uni01, modOk := zeroMod e }
  | 0xD6 => { dst := .v2, a := .block 1, modOk := zeroMod e }
  | 0xD7 | 0xD8 => { dst := .sPair, a := .uni01, modOk := zeroMod e }
  | 0xD9 => { a := .v false, b := .v false, modOk := zeroMod e }
  | 0xDA => { a := .uniBase, b := .uniOff, modOk := zeroMod e }
  | 0xDB => { dst := .vOnly, a := .uni01, types := [.f32, .b32], modOk := plainMod e }
  | 0xDC => { a := .uni01, modOk := zeroMod e }
  | _ => { dst := .sPair, modOk := zeroMod e }

/-- The shape of an allocated opcode. Log entry 31 (DEDUCED). -/
def opShape (op : Nat) (e : Enc) : Shape :=
  match op / 16 with
  | 0x0 | 0x1 => alu1Shape op e
  | 0x2 => fpOpShape op e
  | 0x3 => cvtShape op e
  | 0x4 => exchangeShape op e
  | 0x5 => branchShape op e
  | 0x6 => { memShape op e with access := true }
  | 0x7 | 0x8 => commitShape op e
  | 0x9 | 0xA => { syncShape op e with access := decide (op ≤ 0x98) }
  | 0xB | 0xC => engineShape op e
  | _ => gkShape op e

/-! ## The checks of R103 -/

/-- A register range lies in its allotment, and a pair starts at an even register. -/
def regOk (limit n : Nat) (wide : Bool) : Bool :=
  if wide then n % 2 = 0 && decide (n + 1 < limit) else decide (n < limit)

/-- KIND of the extension word, 3 where there is none. -/
def extKind (e : Enc) : Nat :=
  match e.ext with
  | some x => (x.extractLsb' 62 2).toNat
  | none => 3

/-- The extension word suits an operand: `k0`, `k1`, `k2` say which kinds it accepts (R88). -/
def extOk (e : Enc) (k0 k1 k2 wide : Bool) : Bool :=
  match e.ext with
  | none => false
  | some x =>
    match extKind e with
    | 0 => k0
    | 1 => k1 && (!wide || !x.getLsbD 0)
    | 2 => k2 && wide
    | _ => false

/-- A source field holds something its kind accepts (R102, R103). `nv` and `ns` are the wave's allotments.
Log entry 34 (DEDUCED). -/
def srcOk (nv ns : Nat) (e : Enc) (kind : Src) (x : BitVec 10) : Bool :=
  match kind, Sel.of x with
  | .unused, _ => x = 0#10
  | .srcType, _ => x.extractLsb' 5 5 = 0#5
  | _, .bad => false
  | .any w, .v n | .v w, .v n => regOk nv n w
  | .any w, .s n | .uniAny w, .s n => regOk ns n w
  | .any _, .k _ | .uniAny _, .k _ => true
  | .any _, .special _ => true
  | .uniAny _, .special n => !(Sel.special n).isVec
  | .any _, .int _ | .any _, .fp _ | .uniAny _, .int _ | .uniAny _, .fp _ => true
  | .any w, .ext | .uniAny w, .ext | .unread w, .ext => extOk e true true true w
  | .unread _, .v n => n = 0 && x = 0#10
  | .unread w, .s n => regOk ns n w
  | .unread _, .special n => !(Sel.special n).isVec
  | .unread _, .k _ | .unread _, .int _ | .unread _, .fp _ => true
  | .uni, .s n | .uni01, .s n | .s, .s n | .off, .s n | .uniOff, .s n | .scrBase, .s n => regOk ns n false
  | .uni, .int _ | .uni, .fp _ | .uni01, .int _ | .uni01, .fp _ | .off, .int _ | .off, .fp _
  | .uniOff, .int _ | .uniOff, .fp _ => true
  | .uni, .ext | .off, .ext | .uniOff, .ext | .scrBase, .ext => extOk e true false false false
  | .uni01, .ext => extOk e true true false false
  | .k, .k _ => true
  | .sPair, .s n | .base, .s n | .uniBase, .s n | .uniBaseOr0, .s n | .pair64, .s n => regOk ns n true
  | .base, .v n => regOk nv n true
  | .base, .ext | .uniBase, .ext | .uniBaseOr0, .ext => extOk e false false true true
  | .uniBaseOr0, .int 0 => true
  | .off, .v n | .scrBase, .v n => regOk nv n false
  | .window, .int n => decide (0 ≤ n) && decide (n ≤ 7)
  | .pair64, .ext => extOk e false true true true
  | .block m, .s n => n % 2 = 0 && decide (n + m ≤ ns)
  | _, _ => false

/-- The DST field holds something its kind accepts. Log entry 31 (DEDUCED). -/
def dstOk (nv ns : Nat) (kind : DstKind) (x : BitVec 9) : Bool :=
  match kind, Dst.of x with
  | .unused, d => d = .discard
  | .vs w, .v n | .vsk w, .v n => regOk nv n w
  | .vs w, .s n | .vsk w, .s n => regOk ns n w
  | .vsk _, .k _ | .k, .k _ | .kOrS, .k _ | .kOnly, .k _ => true
  | .v, .v n | .vOnly, .v n => regOk nv n false
  | .v2, .v n => decide (n + 1 < nv)
  | .s, .s n | .sOnly, .s n | .kOrS, .s n => regOk ns n false
  | .sPair, .s n | .sPairOrNone, .s n => regOk ns n true
  | .vs _, .discard | .vsk _, .discard | .v, .discard | .k, .discard | .kOrS, .discard | .s, .discard
  | .sPairOrNone, .discard => true
  | _, _ => false

/-- A used source field that makes the instruction vector: for an access only a v register does (R90, R137). -/
def srcVec (access : Bool) (kind : Src) (x : BitVec 10) : Bool :=
  match kind with
  | .unused | .srcType | .k | .unread _ => false
  | _ => if access then (match Sel.of x with | .v _ => true | _ => false) else (Sel.of x).isVec

/-- The instruction is in vector form (R90, R137). -/
def isVector (sh : Shape) (e : Enc) : Bool :=
  (!sh.branch && (match Dst.of e.dst with | .v _ => true | _ => false))
    || srcVec sh.access sh.a e.a || srcVec sh.access sh.b e.b || (!sh.branch && srcVec sh.access sh.c e.c)

/-- The reserved bits of the extension word are 0 (R87). -/
def extReservedOk (x : Dword) : Bool :=
  match (x.extractLsb' 62 2).toNat with
  | 0 => x.extractLsb' 32 30 = 0#30
  | 1 => x.extractLsb' 20 42 = 0#42
  | 2 => x.extractLsb' 48 14 = 0#14
  | _ => false

/-- The fields that are selectors hold 1023 exactly when there is an extension word (R88). -/
def extAgrees (sh : Shape) (e : Enc) : Bool :=
  let sel (kind : Src) (x : BitVec 10) := kind ≠ .srcType && x = 1023#10
  let any := sel sh.a e.a || sel sh.b e.b || (!sh.branch && sel sh.c e.c)
  any == e.ext.isSome

/-- The conditions of trap 1 (R103). -/
def encodingOk (nv ns : Nat) (sh : Shape) (e : Enc) : Bool :=
  !(e.gmask = 0#3 && e.ginv)
    && !(sh.unguarded && e.gmask ≠ 0#3)
    && extAgrees sh e
    && (match e.ext with | none => true | some x => extReservedOk x)
    && (if sh.branch then sh.offset || (e.dst = 0#9 && e.c = 0#10) else dstOk nv ns sh.dst e.dst)
    && srcOk nv ns e sh.a e.a && srcOk nv ns e sh.b e.b
    && (sh.branch || srcOk nv ns e sh.c e.c)
    && (sh.reduces || !((match Dst.of e.dst with | .s _ => true | _ => false) && !sh.branch && isVector sh e))
    && sh.encOk

/-- The conditions of trap 2 (R103): a MOD bit that the opcode does not use and that is not 0 is a reserved MOD bit.
Log entry 114 (DEDUCED). -/
def modifierOk (sh : Shape) (e : Enc) : Bool :=
  sh.modOk &&
    ((sh.types.isEmpty && sh.scalar.isEmpty) ||
      (match typeOf e with
       | none => false
       | some t => sh.types.contains t || (sh.scalar.contains t && !isVector sh e)))

/-- The trap of R103 that an instruction raises at issue in a wave with `nv` vector and `ns` scalar registers, if any.
An event has no word and raises none. -/
def legalCode (nv ns : Nat) (i : Instr) : Option (BitVec 6) :=
  match i.code with
  | none => none
  | some (op, e) =>
    let sh := opShape op.toNat e
    if !encodingOk nv ns sh e then some 1#6
    else if !modifierOk sh e then some 2#6
    else none

end Sys2Proof.Machine
end

