-- ==== Sys2Proof/Machine/State.lean ====
section
/-! DEFINITION. The state of the OX-12 as plain data: everything the spec gives the module (waves, blocks, clusters,
grids, cores, dies, stacks, partitions and the hub), the reasons a step can stop, and the state right after reset.
Every record's docstring names the rules that lay its fields down. Fields marked MODEL'S OWN are no state of the
spec: they carry what the spec leaves to the moment (which agent moves next, a count that numbers moments). -/

namespace Sys2Proof.Machine

/-! ## Memory -/

/-- Memory as (address, byte) pairs: addresses strictly rising, and no entry equal to what an unlisted address
reads as (`Memory.unlisted`). -/
abbrev Memory := List Host.Cell

/-- What a byte that nothing has written reads as: the spec gives memory no contents at power-on (log entry 3,
DESIGN CHOICE, unsafe). -/
def Memory.unlisted : Byte := 0#8

/-- The canonical form of a memory. -/
abbrev Memory.wf (m : Memory) : Prop :=
  m.Pairwise (fun x y => x.1 < y.1) ∧ ∀ x ∈ m, x.2 ≠ Memory.unlisted

/-- The homes a page-table leaf can name (R273 HOME). -/
inductive Space where
  /-- HOME 0: device HBM. -/
  | hbm
  /-- HOME 1: host memory. -/
  | host
  /-- HOME 2: the capacity tier. -/
  | tier
  /-- HOME 3: a peer window. -/
  | peer
  deriving DecidableEq, Repr

/-- A line held pending in a wave buffer or at block or cluster level: 64 bytes with a byte mask (R140, R148). A
line is named by its address divided by 64: a virtual address, or a scratchpad address when `scr` is set. -/
structure PLine where
  scr : Bool
  line : Nat
  data : List Byte
  mask : BitVec 64
  deriving DecidableEq, Repr

/-- A clean copy of a device-level or system-level line (R152), held in a core's L1 (`l1`) or a die's L2. `fill` and
`gone` are moments of `State.now`: when the copy was read, and when device level first stopped holding it. -/
structure Copy where
  l1 : Bool
  unit : Nat
  space : Space
  ss : Bool
  line : Nat
  data : List Byte
  fill : Nat
  gone : Option Nat
  deriving DecidableEq, Repr

/-- What a line read as at device level until the moment `upTo`, kept while a grid that binds a constant window runs: a
window word may read as it was at the grid's start or at any moment since (R94). -/
structure Past where
  space : Space
  line : Nat
  data : List Byte
  upTo : Nat
  deriving DecidableEq, Repr

/-- Where one line of a load is read (R141): a line of the block's scratchpad, or a line of global memory with the
home that translation gave it at issue. -/
structure LineRef where
  scr : Bool
  line : Nat
  space : Space
  pline : Nat
  ss : Bool
  deriving DecidableEq, Repr

/-! ## Waves -/

/-- The trap record (R259), field by field. -/
structure TrapRec where
  detail : BitVec 16 := 0#16
  orig : BitVec 6 := 0#6
  save : Bool := false
  restore : Bool := false
  inhnd : Bool := false
  async : Bool := false
  ovf : Bool := false
  cause : BitVec 6 := 0#6
  pc : Dword := 0#64
  addr : Dword := 0#64
  info1 : Word := 0#32
  info0 : Word := 0#32
  laneCause : List (BitVec 6) := []
  guard : LaneMask := 0#32
  exec : LaneMask := 0#32
  clk : Dword := 0#64
  aux : Dword := 0#64
  deriving DecidableEq, Repr

/-- How a load's destination is written when its last line has returned (R139, R146). -/
inductive LoadKind where
  /-- ld and gat: the bytes at the type code, extended by R139. -/
  | plain (ty : BitVec 5)
  /-- topk.mrg: the 576 bytes of a list image from `base` (R371). -/
  | image (base : Nat)
  /-- tld: the element of a tensor of that format, its exact f32 value or its code (R146); `nib` gives the lanes
  whose 4-bit element is the high nibble, and the two lists the addresses of the block and band scales (0: none). -/
  | tensor (format : BitVec 5) (asF32 : Bool) (nib : LaneMask) (scale band : List Nat) (flush : Bool)
  deriving DecidableEq, Repr

/-- A load of the wave that has issued and not yet written its destination (R65, R138, R145). `addrs` holds each
lane's address (none: the lane makes no access), `zeros` the lanes that receive 0, `got` the bytes found so far and
`remain` the lines still to be read. -/
structure OutLoad where
  kind : LoadKind
  dst : BitVec 9
  vec : Bool
  lanes : LaneMask
  zeros : LaneMask
  size : Nat
  addrs : List (Option Nat)
  got : List (Nat × Byte)
  remain : List LineRef
  direct : Bool
  /-- HINT .hn: the lines are not allocated in the L1 (R98). -/
  noCopy : Bool
  /-- The helper lanes that it acts in: one whose access fails receives 0 (R23). -/
  helpers : LaneMask := 0#32
  /-- ld.c: the words are those of a constant window (R94). -/
  window : Bool := false
  addr : Dword
  poison : Bool
  /-- When the load issued (R389). -/
  issued : Dword
  deriving DecidableEq, Repr

/-- A pending asynchronous cause and its record (R258). -/
structure Pending where
  code : BitVec 6
  trec : TrapRec
  deriving DecidableEq, Repr

/-- The first failure of a batch (R246, R255): the address and the cause the record of trap 38 names. -/
structure BatchFail where
  addr : Dword
  isOut : Bool
  cause : BitVec 6
  deriving DecidableEq, Repr

/-- A closed batch of a wave and the commands of it that are not complete (R246). -/
structure Batch where
  num : Word
  cmds : List Nat
  failed : Option BatchFail
  deriving DecidableEq, Repr

/-- A wave's top-k list (R367). -/
structure TopK where
  k : Nat := 0
  entries : List (Word × Word) := []
  sel : Word := 0#32
  exc : Word := 0#32
  deriving DecidableEq, Repr

/-- What a stalled wave waits in (R64, R196, R258). -/
inductive Wait where
  | no
  | barrier
  | gbar
  | barWt
  | mbar
  | batch
  | task
  | sleep
  | ringEmpty
  | ringFull
  | owner
  | commit
  | scoreboard
  | slot
  | list
  | sysAtom
  /-- An instruction that has not issued, for room in a queue, a log or a unit (R64 code 9, R66, R281). -/
  | queue
  /-- The fetch of the next instruction (R64 code 10). -/
  | fetch
  /-- An atomic between the lines of its lanes (R189). -/
  | atom
  deriving DecidableEq, Repr

/-- Whether a handler-mode wave was entered for a trap, a save or a restore (R259 SAVE and RESTORE). -/
inductive Phase where
  | plain
  | save
  | restore
  deriving DecidableEq, Repr

/-- A line that a commit of the wave has sent away and that is not acknowledged yet (R148, R163, R164). `sysWrite`
marks a line that reaches a system home when the acknowledgement arrives. -/
structure Sent where
  space : Space
  pline : Nat
  data : List Byte
  mask : BitVec 64
  sysWrite : Bool
  /-- When the line was sent (R389), and at which moment: lines sent to one home for the same bytes arrive in that order. -/
  issued : Dword
  moment : Nat := 0
  /-- A commit sent it, and waits for its acknowledgement (R71): not so a store of handler mode. -/
  ofCommit : Bool := true
  deriving DecidableEq, Repr

/-- Bytes of a virtual line, as a commit in progress has sent them and not published them, with the home that translation
gave the line (R148, R163). -/
structure Staged where
  line : Nat
  data : List Byte
  mask : BitVec 64
  /-- The bytes that still stand at block and at cluster level as they were sent. -/
  live : BitVec 64
  liveC : BitVec 64
  scr : Bool
  space : Space
  pline : Nat
  ss : Bool
  deriving DecidableEq, Repr

/-- What an instruction that goes on after its issue keeps of it (R92, R94): the words of its constant-window operand, the
special registers that change without the wave, and the tensor entry that it has read and checked (R234). -/
structure AtIssue where
  win : Dword
  clk : Dword
  preq : Bool
  bconf : Word
  acks : Nat
  nwaves : Nat
  tens : List Dword := []
  deriving DecidableEq, Repr

/-- A wave: its lanes, registers, buffer, handler state, engines' results and waits. Laid down by R21, R22, R32, R35,
R40, R61, R64, R65, R92, R133, R140, R156, R224, R246, R258, R262, R265 and R367. -/
structure Wave where
  /-- Names the wave for the life of the model's run. MODEL'S OWN. -/
  wid : Nat
  blk : Nat
  core : Nat
  /-- The wave slot, 0-47 (R4). -/
  slot : Nat
  /-- The wave index, 0-31 (R24). -/
  windex : Nat
  role : BitVec 2
  prio : BitVec 2
  age : Nat
  pc : Dword
  exec : LaneMask
  /-- The real lanes (R22). -/
  real : LaneMask
  /-- The live lanes: real lanes and helper lanes (R22). -/
  live : LaneMask
  vregs : List Lanes
  sregs : List Word
  /-- k1-k7; entry 0 is unused, since k0 is computed (R22). -/
  kregs : List Word
  /-- The reconvergence stack, top first (R133). -/
  stack : List (Dword × LaneMask)
  /-- The 64 entries of the commit buffer (R140). -/
  buf : List (Option PLine)
  /-- Data words and masks written for buffer entries that have no tag yet (R265). -/
  wbPre : List (Nat × PLine)
  acks : Nat
  /-- Lines sent and not acknowledged (R148). -/
  sent : List Sent
  /-- The bytes that the commit in progress publishes at T (R163). -/
  staged : List Staged
  mode : Word
  epc : Dword
  emode : Word
  eexec : LaneMask
  /-- The stack set aside, entry 0 the oldest, and its depth (R262, R265; log entry 18). -/
  estack : List (Dword × LaneMask)
  edepth : Nat
  /-- HS0-HS3 (R265). -/
  hs : List Dword
  trec : List Dword
  phase : Phase
  /-- The 64 KiB unit of the save area that the wave's save uses (R265 SAVE_SLOT, R268; log entry 21). -/
  saveUnit : Option Nat
  saveDone : Bool
  /-- The wave has stopped for its save, or for a machine check (R261, R268). -/
  stopped : Bool
  mcheck : Bool
  preq : Bool
  pend : List Pending
  loads : List OutLoad
  /-- Destinations an engine will write (R65): scoreboarded until then. -/
  claims : List (BitVec 9)
  /-- Gecko reads with TOPK not yet performed: the list is claimed (R367). -/
  topkClaims : Nat
  batchNo : Word
  openBatch : List Nat
  /-- A command has joined the open batch (R35, R246). -/
  opened : Bool
  openFail : Option BatchFail
  closed : List Batch
  lkey : List Word
  scnt : List Word
  topk : TopK
  /-- The list image that a topk.mrg in progress has read (R371). MODEL'S OWN. -/
  image : List Byte
  rolePend : Option (BitVec 2)
  wait : Wait
  /-- How many stages of the instruction at pc have been performed, and a number that stage keeps. MODEL'S OWN: the
  place of a wave inside an instruction that waits. -/
  stage : Nat
  aux : Nat
  /-- What the instruction in progress keeps of its issue. MODEL'S OWN. -/
  issued : Option AtIssue
  /-- The four fields of the user instruction that a trap interrupted (R258), and its address. MODEL'S OWN. -/
  uwait : Wait
  ustage : Nat
  uaux : Nat
  uissued : Option AtIssue
  upc : Dword
  /-- The compute-die clock at which a `sleep` ends (R158). -/
  sleepEnd : Dword
  /-- The stall reason of the wave's latest clock (R64). -/
  stall : BitVec 4
  /-- Eligible and not picked since the last issue (R61). -/
  starved : Nat
  lastIssue : Dword
  /-- The watchdog has expired since the wave's latest issue (R277). -/
  barked : Bool
  /-- Clean copies filled before these moments are not used by later loads (R152, R166). -/
  acqDev : Nat
  acqSys : Nat
  /-- The newest device state a load of the wave has seen (R72). -/
  seen : Nat
  /-- The moments as of which loads of the wave have read window words that had changed, by address (R94). -/
  winRead : List (Nat × Nat)
  /-- The wave's latest mx.row, with its state and progress (R249 mx.prog). -/
  mxLast : Nat × Nat × Nat
  /-- The level position that the wave's latest load of each level observed (R278), indexed by scope code. -/
  lpos : List Nat
  deriving DecidableEq, Repr

/-! ## Blocks, clusters and grids -/

/-- A barrier's open phase as a block counts it (R36). Waves are named by `wid`. -/
structure BarCount where
  phase : Nat := 1
  expect : Nat := 0
  arrived : List Nat := []
  held : List Nat := []
  attached : List Nat := []
  deriving DecidableEq, Repr

/-- A barrier's open phase as a cluster or a grid counts blocks (R195). Blocks are named by `uid`. -/
structure BlockBar where
  phase : Nat := 1
  expect : Nat := 0
  arrived : List Nat := []
  held : List Nat := []
  deriving DecidableEq, Repr

/-- A block's ring registers (R238). LINE and FAIL are kept per sequence number. -/
structure Ring where
  base : Nat := 0
  count : Nat := 0
  size : Nat := 0
  tensor : Nat := 0
  head : Word := 0#32
  tail : Word := 0#32
  ihead : Word := 0#32
  itail : Word := 0#32
  line : List (Nat × Word) := []
  fail : List Nat := []
  /-- Fills completed above TAIL (R240). -/
  filled : List Nat := []
  /-- Entries an abandoned command will pop when filled (R249). -/
  drop : List Nat := []
  deriving DecidableEq, Repr

/-- Why a block's pre-emption was requested (R267), which decides where the block goes when it is saved. -/
inductive PreWhy where
  | slice
  | priority
  | swap
  | tadpole
  | spare
  | fence
  | world
  deriving DecidableEq, Repr

/-- A pre-emption request on a block and the moment its deadline counter started (R267). -/
structure PreReq where
  why : PreWhy
  since : Dword
  expired : Bool
  deriving DecidableEq, Repr

/-- Where a block is (R38, R268, R270). -/
inductive BlkStatus where
  | resident
  | saved
  | restoring
  deriving DecidableEq, Repr

/-- A row of an accumulator store that a block owns: 256 columns, the A band and four B bands (R251). -/
structure AccRow where
  row : Nat
  owner : Nat
  cols : List Word
  bandA : BitVec 16
  bandB : List (BitVec 16)
  deriving DecidableEq, Repr

/-- A block of a grid that has been admitted and has not retired (R21, R24, R36, R68, R70, R93, R149, R154, R237,
R238). -/
structure Block where
  uid : Nat
  grid : Nat
  lin : Nat
  core : Nat
  blkSlot : Nat
  status : BlkStatus
  /-- Admission order (R34, R42, R56). -/
  admitted : Nat
  members : List Nat
  bars : List BarCount
  cbars : List BarCount
  gbars : List BarCount
  /-- Block-level lines (R70). -/
  lines : List PLine
  /-- For each byte made block-level in the current interval, the wave that committed it (R149). -/
  owners : List (Nat × Nat)
  /-- Steps of the block level so far (R278 SEQ). -/
  seq : Nat
  bconf : Word
  /-- The latest compute-die clock in which a wave was detached from the block, and how many were (R37). -/
  leftAt : Nat := 0
  leftN : Nat := 0
  /-- The scratchpad bytes of the block's tiles (R68). -/
  scr : Memory
  ntiles : Nat
  engineOwned : List Bool
  tags : List (BitVec 2)
  rings : List Ring
  pre : Option PreReq
  /-- Accumulator rows that a save carries (R251). -/
  savedRows : List AccRow
  /-- 64 KiB units of the save area that hold the block's record (R268; log entry 21). -/
  recUnits : List Nat
  deriving DecidableEq, Repr

/-- A cluster with at least one admitted block (R25, R70, R176, R195). -/
structure Cluster where
  grid : Nat
  num : Nat
  group : Nat
  lines : List PLine
  /-- Steps of the cluster level so far (R278 SEQ). -/
  seq : Nat
  bars : List BlockBar
  retired : List Nat
  deriving DecidableEq, Repr

/-- A launch record's fields (R28). -/
structure LaunchRec where
  entry : Dword
  attach : Dword
  gx : Nat
  gy : Nat
  gz : Nat
  scratch : Nat
  sregs : Nat
  vregs : Nat
  prio : BitVec 2
  cluster : Nat
  grow : Bool
  lastLanes : Nat
  ceil : Nat
  init : Nat
  mask : BitVec 192
  winBase : List Dword
  winSize : List Nat
  /-- Roles 1-3: entry, priority class, vector registers. -/
  roles : List (Dword × BitVec 2 × Nat)
  deriving DecidableEq, Repr

/-- What a launch carries besides its record: where its completion is reported and what it signals (R46, R204). -/
structure Launch where
  part : Nat
  die : Nat
  /-- Launch queue number, none for a spawned child. -/
  queue : Option Nat
  record : LaunchRec
  cls : BitVec 2
  status : Dword
  sigEn : Bool
  sigDie : Nat
  sigTask : Nat
  /-- A spawned child's join object (R204). -/
  join : Option Dword
  deriving DecidableEq, Repr

/-- A launched grid (R27, R42, R47, R53, R58, R195). Its waiting queue is `qHead`, the blocks never admitted in
ascending number, then `qTail`. -/
structure Grid where
  uid : Nat
  launch : Launch
  order : Nat
  started : Bool
  qHead : List Nat
  nextFresh : Nat
  qTail : List Nat
  retired : Nat
  ptr : Nat
  skips : List (Nat × Nat)
  gbars : List BlockBar
  key : Word
  /-- The latest of R42's three moments. -/
  sliceFrom : Dword
  /-- When the head block reached the head, and whether it is treated as class 0 (R58). -/
  headSince : Dword
  aged : Bool
  /-- The moment of the grid's start (R94). -/
  startedAt : Nat := 0
  deriving DecidableEq, Repr

/-! ## Engines -/

/-- A range that a command reads or writes (R66, R252). -/
inductive Range where
  | tile (blk n : Nat)
  | glob (part lo hi : Nat)
  | row (n : Nat)
  | ring (blk ring seq : Nat) (fill : Bool)
  deriving DecidableEq, Repr

/-- A tensor table entry, words 0-7 (R233). -/
abbrev TEntry := List Dword

/-- A queued mx.row (R247-R249). -/
structure MxCmd where
  first : Nat
  rows : Nat
  z : Bool
  flush : Bool
  bring : Bool
  rlx : Bool
  aring : Nat
  bsel : Nat
  at_ : TEntry
  bt : TEntry
  ha : Nat
  hb : Nat
  ksteps : Nat
  state : Nat
  progress : Nat
  /-- Entries popped, of A and of B. -/
  popA : Nat
  popB : Nat
  deriving DecidableEq, Repr

/-- A copy packet, words 0-7 (R242), with the tensor entry and first sequence of a KIND 2 packet. -/
structure CopyCmd where
  part : Nat
  cq : Nat
  slot : Nat
  packet : List Dword
  tens : TEntry
  seq : Nat
  /-- The engine has taken the packet; bytes or slices moved so far. -/
  started : Bool
  pos : Nat
  waitAt : Option Dword
  failed : Option (BitVec 6)
  /-- Its tiles, entries and batch are done with, and it waits to arrive at its barrier object (R243). -/
  landed : Bool := false
  deriving DecidableEq, Repr

/-- A queued acc.out (R251). -/
structure AccOutCmd where
  tens : TEntry
  id : Nat
  first : Nat
  rows : Nat
  ty : BitVec 5
  rnd : BitVec 3
  sat : Bool
  flush : Bool
  key : Word
  n0 : Word
  pos : Nat
  waitAt : Option Dword
  deriving DecidableEq, Repr

/-- A queued mx.ldb (R249): the tensor, its first k-tile and how many. -/
structure LdbCmd where
  id : Nat
  tens : TEntry
  first : Nat
  count : Nat
  deriving DecidableEq, Repr

/-- A k-tile in a matrix engine's stationary buffer (R249): the entry that it was fetched under, and the bytes of the tensor
that the fetch read, by virtual address. -/
structure StatTile where
  part : Nat
  id : Nat
  ktile : Nat
  entry : TEntry
  bytes : Memory
  deriving DecidableEq, Repr

/-- What a command of a core's command queue does (R66). -/
inductive CmdKind where
  | ldb (c : LdbCmd)
  | copy (c : CopyCmd)
  | mx (c : MxCmd)
  | accOut (c : AccOutCmd)
  deriving DecidableEq, Repr

/-- A command of a core's command queue (R66), in issue order of `id`. `wid` is the issuing wave, none for a packet
that another producer wrote (R243). -/
structure Cmd where
  id : Nat
  wid : Option Nat
  blk : Nat
  core : Nat
  reads : List Range
  writes : List Range
  kind : CmdKind
  /-- Its engine has started it (R66). -/
  began : Bool := false
  deriving DecidableEq, Repr

/-- A core (R2, R4, R52, R62, R64, R145, R249, R251, R277, R415). -/
structure Core where
  acc : List AccRow
  /-- The matrix engine's two-tile stationary buffer. -/
  stat : List StatTile
  /-- The core's sensors (R52): the junction temperature, and the clocks of the supply-droop events of the last 10 µs. -/
  tempC : Nat
  droops : List Dword
  fenced : Bool
  phys : Nat
  profPtr : Nat
  /-- Banks that supply no read in this clock (R62). -/
  heldBanks : List Nat
  /-- Compute-die clocks for which a memory-class instruction still holds the memory port (R145). -/
  memHeld : Nat
  /-- Samples of each stall reason that the profiler has taken on the core (R64). -/
  sampled : List Nat
  deriving DecidableEq, Repr

/-! ## Dies -/

/-- A held task name: its counter and its launch (R50). -/
structure Task where
  name : Nat
  count : Nat
  launch : Launch
  deriving DecidableEq, Repr

/-- What a slot of a sync engine holds (R193). -/
inductive SeKind where
  | line
  | object
  | grid
  | waiter
  deriving DecidableEq, Repr

/-- A used slot of a sync engine, most recently used first; `addr` is a physical line, or a grid or wave. -/
structure SeSlot where
  kind : SeKind
  addr : Nat
  deriving DecidableEq, Repr

/-- A die's registers and shared units (R51, R193, R204, R232, R404, R415, R416). -/
structure Die where
  taskLost : Word
  tasks : List Task
  seOvfBase : Dword
  seOvfSize : Dword
  /-- Written values of SE_OVF_BASE and SE_OVF_SIZE that wait for an empty overflow area. -/
  seOvfNext : Option (Dword × Dword)
  seWaits : BitVec 16
  seBadArv : Word
  seSlots : List SeSlot
  seOvf : List SeSlot
  /-- MODEL'S OWN: the operations of engines, regions, hosts and peers that wait for a slot, each of which WAITS has counted. -/
  seWaiting : List (Nat × Nat)
  /-- MODEL'S OWN: ended children whose join object waits for a slot: partition, object address, refused (R193, R204). -/
  joins : List (Nat × Dword × Bool)
  cgWorld : BitVec 12
  /-- Groups being emptied for a change of world (R405). -/
  cgEmptying : BitVec 12
  /-- Spawned children that the scheduler has not taken yet, with the addresses of their records (R204). -/
  spawns : List (Launch × Dword)
  /-- The round-robin position of the scheduler over (partition, queue) (R47). -/
  rrPart : Nat
  rrQueue : Nat
  /-- The tensor descriptor cache: (partition, id) and entry (R232). -/
  tcache : List (Nat × Nat × TEntry)
  spareCores : Nat
  /-- The die's clock in 50 MHz units (R416). -/
  freq : Nat
  /-- MODEL'S OWN: the moments of the timebase at which the die's clock fell, each with the clock until then, oldest first, so
  that a count of compute-die clocks can be told from the timebase (R10, R416). -/
  slowed : List (Dword × Nat)
  d2dTraining : Bool
  /-- Scheduler microcode is being activated (R413). -/
  fwBusy : Bool
  /-- PCH of SVC_SPARES (R415): the spare pseudo-channels left, as the latest retirement on the die's stacks left them. -/
  svcPch : Nat := 0
  deriving DecidableEq, Repr

/-! ## Arrays -/

/-- A token: 128 data bits and the sideband (R297). -/
structure Token where
  data : TokenData
  owner : BitVec 6
  kind : BitVec 2
  last : Bool
  fill : BitVec 6
  deriving DecidableEq, Repr

/-- A channel of a pad (R303, R304). -/
structure Chan where
  chan : Nat
  mb : Nat
  src : Nat
  dst : Nat
  tpad : Nat
  tchan : Nat
  tfwd : Bool
  depth : Nat
  q : List Token
  /-- Slots an input stream has reserved and not filled (R328). -/
  reserved : Nat
  deriving DecidableEq, Repr

/-- A PE: its frame's 256 bits (R302) and its running state (R309-R313, R338). -/
structure Pe where
  frame : BitVec 256
  imm : Word
  /-- Tokens at corners c0-c3. -/
  corner : List (List Token)
  acc : List Word
  count : Nat
  wcount : Nat
  /-- Latched burst headers of in0-in2 (R221). -/
  latch : List (Option Word)
  /-- Element count of each burst input's current block, and stream elements consumed (R221). -/
  blockPos : List Nat
  elemPos : List Nat
  /-- Emissions not yet delivered: corner mask and token. -/
  out : List (BitVec 4 × Token)
  done : Bool
  /-- merge: sides that have carried LAST, and the side next (R310). -/
  ended : List Bool
  side : Nat
  /-- filter and pksb: elements waiting for a full token or block. -/
  held : List Word
  emitted : Nat
  deriving DecidableEq, Repr

/-- A switch: its output selects and its eight input buffers (R305). -/
structure Switch where
  sel : Word
  inbuf : List (List Token)
  deriving DecidableEq, Repr

/-- A placed pad of the current configuration (R295). -/
structure Pad where
  pes : List Pe
  switches : List Switch
  chans : List Chan
  deriving DecidableEq, Repr

/-- A stream: its record and its running state (R325, R328, R331, R338). `asm` and `left` serve an input stream as its
assembly buffer and the payload units left of a burst block, and an output stream as the elements of the token that it
is writing and whether that token carries LAST. -/
structure Stream where
  record : BitVec 256
  tens : TEntry
  pos : Nat
  /-- The assembly buffer: elements read before their token is complete. -/
  asm : List Nat
  hdr : Option Word
  /-- Payload units left of the current burst block. -/
  left : Nat
  mark : Option Dword
  done : Bool
  ag : Nat
  /-- The translation entry: virtual page, page size and leaf (R331). -/
  tlb : Option (Nat × Nat × Dword)
  /-- Cause 32 or 33 has been raised for the mark. -/
  raised : Bool
  /-- log2 of the page of the marked element: 64 KiB where no leaf maps it (R286). -/
  markLog : Nat := 16
  /-- The stream has stopped: at a stream error, or at a faulting element as its boundary in a drain (R285, R334). -/
  stopped : Bool := false
  /-- An output stream of bursts: the elements that it has taken, and its place in its current block (R221). -/
  elems : Nat := 0
  blockAt : Nat := 0
  deriving DecidableEq, Repr

/-- Why a region drains (R337). -/
inductive DrainWhy where
  | move
  | swap
  | stop
  | fail
  deriving DecidableEq, Repr

/-- A region on a stack's array (R41, R253, R315-R321, R337). -/
structure Region where
  slot : Nat
  gen : Nat
  part : Nat
  world : Bool
  /-- The wave that issued sda.run, none when it has left. -/
  wid : Option Nat
  seqAddr : Dword
  images : List Dword
  npads : List Nat
  /-- Streams of each image, as loaded (R330). -/
  nstrs : List Nat := []
  mbar : Dword
  param : Dword
  sigEn : Bool
  sigDie : Nat
  sigTask : Nat
  step : Bool
  /-- The state that sda.stat reads (R254). -/
  state : Nat
  cfg : Nat
  failCause : BitVec 6
  reserve : Nat
  frames : List Nat
  pads : List Pad
  streams : List Stream
  drain : Option DrainWhy
  order : Nat
  /-- The 64 KiB units of the partition's array save area that hold the region's save record (R338). -/
  saveAt : List Nat := []
  deriving DecidableEq, Repr

/-- A pad image held in a configuration cache (R322): image address, pad, and the 46 frames it holds; the entry of pad
0 holds the image header and the AG frames behind them. `stale` says that the entry goes once its region has left its
pad frames. -/
structure CfgEntry where
  image : Nat
  pad : Nat
  part : Nat
  frames : List (BitVec 256)
  stale : Bool
  deriving DecidableEq, Repr

/-! ## Gecko units -/

/-- An initialised hash family (R355). -/
structure Family where
  bits : Nat
  dim : Nat
  seed : Word
  deriving DecidableEq, Repr

/-- A bucket: the ids of its slots in order, and the first block of its spill chain, 0 for none (R357). -/
structure Bucket where
  ids : List Word := []
  chain : Nat := 0
  deriving DecidableEq, Repr

/-- An initialised table (R356, R359, R364). Buckets not listed are empty. -/
structure Table where
  family : Nat
  policy : BitVec 2
  cap : Nat
  tens : TEntry
  part : Nat
  buckets : List (Nat × Bucket)
  newFamily : Option Nat
  cursor : Nat
  newBuckets : List (Nat × Bucket)
  /-- Performed and accepted sequence numbers. -/
  seq : Word
  accepted : Word
  evicts : BitVec 16
  drops : BitVec 16
  trunc : BitVec 16
  spills : BitVec 16
  deriving DecidableEq, Repr

/-- An accepted update of a table that is not performed yet (R353, R360). -/
inductive GkOp where
  | ins (row : Word)
  | del (row : Word)
  | rehash (family n : Nat)
  | tbl (family : Nat) (word : Word) (tens : TEntry)
  deriving DecidableEq, Repr

/-- An accepted update, with the wave and the destination it reports to (R358). -/
structure GkUpd where
  table : Nat
  num : Word
  wid : Nat
  part : Nat
  dst : BitVec 9
  op : GkOp
  deriving DecidableEq, Repr

/-- A probe or evaluation waiting to be performed (R361, R362): its tables by handle with the minimum sequence of each.
`empty` marks one completed empty, and `withdrawn` one taken back by its wave's save until the wave is restored (R366). -/
structure GkRead where
  wid : Nat
  part : Nat
  dst : BitVec 9
  isEval : Bool
  topk : Bool
  tables : List (Nat × Word)
  line : Nat
  tens : TEntry
  empty : Bool
  withdrawn : Bool
  deriving DecidableEq, Repr

/-! ## Stacks -/

/-- A bank's open row and the hits served in it while a conflicting request waited, the controller clocks of its last access and
its last activation, the rows whose refresh-management command is due, the clock until which a command holds it, and the clock
until which periodic refresh occupies it (R375, R380, R381). -/
structure BankSt where
  bank : HbmBank
  openRow : Option Nat
  lastUse : Nat
  hits : Nat
  lastAct : Option Nat
  due : List Nat
  busy : Nat
  occupied : Nat
  deriving DecidableEq, Repr

/-- ACT of a row (R377). POISON and CHECK of its data columns are held by line, in `Mem`, since a line of HBM is exactly one data
column (R374). -/
structure HbmRow where
  bank : HbmBank
  row : Nat
  act : BitVec 16
  deriving DecidableEq, Repr

/-- A request queued at its bank (R375): the column, the partition and the line; for a write, whether it has all 64 bytes; for a
read, how many bytes of the column will be found in error. -/
structure HbmReq where
  coord : HbmCoord
  part : Nat
  line : Nat
  write : Option Bool
  errs : Nat
  deriving DecidableEq, Repr

/-- A stack and its base die: array, Gecko unit and memory controller (R294, R318, R322, R335, R340, R351, R352,
R376, R381). -/
structure Stack where
  arrAssign0 : Dword
  arrAssign1 : Dword
  chamCtl : Dword
  leftover : Word
  moved : BitVec 16
  loads : BitVec 16
  gwCount : Word
  gwLastPf : BitVec 16
  aclkCtl : Dword
  aclkF : List Nat
  /-- Slot generations 0-15 (R318). -/
  gens : List Nat
  regions : List Region
  cfgCache : List CfgEntry
  /-- Frames taken out of use by a service action (R413). -/
  busyFrames : List Nat
  compactions : Nat
  gkAssign : Dword
  spillBase : List Dword
  spillSize : List Dword
  spillNext : List (Option (Dword × Dword))
  /-- Spill blocks in use, per group. -/
  spillUsed : List (List Nat)
  families : List (Option Family)
  tables : List (Option Table)
  updates : List GkUpd
  reads : List GkRead
  hbmCtl : Dword
  mgmtAlert : Dword
  corr : Word
  uncorr : Word
  bankBo : List (HbmBank × Word)
  qos : List (Nat × Nat × Dword)
  qosNext : List (Nat × Nat × Dword)
  banks : List BankSt
  /-- Requests queued at the controller, oldest first (R375). -/
  queue : List HbmReq
  /-- When each pseudo-channel last had a request: its number and %clk (R412). -/
  lastReq : List (Nat × Dword)
  /-- The slot in which each channel last issued a request (R381). -/
  slotUsed : List (Nat × Nat)
  rows : List HbmRow
  /-- Check columns held in the ECC caches, most recent first (R379). -/
  eccCache : List (HbmBank × Nat)
  sparePch : Nat
  retiredPch : List Nat
  /-- Spare rows used, by bank (R413). -/
  sparedRows : List (HbmBank × Nat)
  fwBusy : Bool
  deriving DecidableEq, Repr

/-! ## Partitions -/

/-- The context descriptor's fields as the device last read them (R256). -/
structure Ctx where
  ptRoot : Nat
  world : Bool
  ttBase : Dword
  cqBase : Dword
  handler : Dword
  saveBase : Dword
  saveSize : Nat
  deriving DecidableEq, Repr

/-- A cached translation (R275): which cache holds it (a core's, or a die's), its partition, the virtual page
number, log2 of the page's size and the leaf. -/
structure TlbEntry where
  l1 : Bool
  unit : Nat
  part : Nat
  vpage : Nat
  size : Nat
  leaf : Dword
  deriving DecidableEq, Repr

/-- An entry of the order log (R278, R281). -/
structure LogEntry where
  kind : BitVec 8
  level : BitVec 8
  count : BitVec 16
  agent : Word
  inst : Word
  seq : Word
  words : List Dword
  deriving DecidableEq, Repr

/-- What a checkpoint holds of a partition (R271, R278). -/
structure PartImage where
  waves : List Wave
  blocks : List Block
  clusters : List Cluster
  grids : List Grid
  cmds : List Cmd
  acc : List (Nat × AccRow)
  regions : List (Nat × Region)
  /-- Gecko reads withdrawn by the halt (R366), by stack. -/
  reads : List (Nat × GkRead)
  /-- The position of device level (R278 SEQ). -/
  devSeq : Nat
  deriving DecidableEq, Repr

/-- A partition's mailbox (R411). -/
structure Mailbox where
  arg0 : Dword := 0#64
  arg1 : Dword := 0#64
  result : BitVec 8 := 0#8
  busy : Bool := false
  deriving DecidableEq, Repr

/-- How far a replay is (R279): not started, running, or stopped or at the end of its log. -/
inductive ReplayPhase where
  | off
  | running
  | done
  deriving DecidableEq, Repr

/-- A fault record that waits for room in the queue, and the unit that posted it and is held (R276): its SOURCE, and which one
of them (the die of a copy engine or scheduler, the stack of a region or Gecko unit, the core of a wave or matrix engine). -/
structure HeldFault where
  source : Nat
  unit : Nat
  words : List Dword
  deriving DecidableEq, Repr

/-- What a line held before its first device-level write since the checkpoint (R278): the 64 bytes at its home, and for a line of
a system home the bytes that an L2 held for it. -/
structure UndoLine where
  space : Space
  line : Nat
  data : List Byte
  l2 : Option PLine
  deriving DecidableEq, Repr

/-- A partition: its registers (R52, R57, R58, R223, R256, R266, R276, R280, R338, R387, R411) and its context. -/
structure Partition where
  lqBase : Dword
  qerr : Dword
  cqerr : BitVec 16
  hwinVa : Dword
  hostErr : Word
  sysTmo : BitVec 16
  ending : Bool
  irBase : Dword
  uetRt : Dword
  fqBase : Dword
  fqSize : Dword
  fqWrite : Dword
  fqRead : Dword
  distCtl : Dword
  sliceIvl : Dword
  ageLimit : Dword
  srndKey : Word
  ctxDesc : Dword
  preDl : Word
  wdog : Word
  shadow : BitVec 7
  tlbInv : Dword
  tlbBusy : Bool
  /-- Page counts of the invalidations that are running and waiting (R275). -/
  tlbQueue : List (Dword × Nat)
  dbgCtl : BitVec 4
  profCtl : Dword
  profBase : Dword
  profWrite : Dword
  tadIvl : Word
  tadBase : Dword
  tadSize : Word
  tadLog : Dword
  tadLogSize : Word
  tadLogWrite : Dword
  tadLogRead : Dword
  tadPos : Dword
  tadStop : Dword
  arrSaveBase : Dword
  arrSaveSize : Word
  /-- 64 KiB units of the array save area in use. -/
  arrSaveUsed : Nat
  mbox : Mailbox
  ctx : Option Ctx
  /-- Interrupts signalled on vectors 0 and 1 (R386). -/
  irq0 : Nat
  irq1 : Nat
  /-- Fault records that wait for room in the queue (R276). -/
  fqHeld : List HeldFault
  /-- A swap or a checkpoint has been asked for and the partition has not resumed (R271). -/
  swapping : Bool
  /-- It is asked for by Tadpole (R278). -/
  ckptReq : Bool
  /-- Units of the save area that hold what of the halted partition's image does not fit in shadow storage (R272). -/
  swapUnits : List Nat
  /-- The partition is halted, these blocks of it being in shadow storage (R271). -/
  halted : Bool
  swapped : List Nat
  /-- When the latest checkpoint was taken (R278). -/
  ckptAt : Dword
  ckpt : Option PartImage
  /-- Old contents of lines written since the checkpoint (R278). -/
  undo : List UndoLine
  log : List LogEntry
  replay : List LogEntry
  replayPh : ReplayPhase
  logStalled : Bool
  /-- Steps of device level so far (R278 SEQ). -/
  devSeq : Nat
  deriving DecidableEq, Repr

/-! ## The hub -/

/-- A dynamic-capacity extent that is present (R384). -/
structure Extent where
  num : Nat
  tag : BitVec 24
  retain : Bool
  deriving DecidableEq, Repr

/-- A capacity-tier command in progress and how it will end (R384). -/
structure CtPending where
  op : Nat
  ext : Nat
  tag : BitVec 24
  result : BitVec 8
  deriving DecidableEq, Repr

/-- A flow entry's three words (R395), and a key entry (R400). -/
structure Flow where
  port : Nat
  index : Nat
  w0 : Dword
  w1 : Dword
  w2 : Dword
  deriving DecidableEq, Repr

structure KeyEntry where
  port : Nat
  index : Nat
  key : List Dword
  salt : Word
  replay : Bool
  /-- The last IV accepted, as a big-endian count (R400). -/
  lastIv : Option Nat
  deriving DecidableEq, Repr

/-- A frame that waits in its port's queue of a priority: its flow's index, partition and ring, and the bytes to land (R398); or one
that is lost and waits for the order log to be counted (R281, R397). -/
structure HeldFrame where
  port : Nat
  prio : Nat
  flow : Nat
  part : Nat
  ring : Nat
  wireLen : Nat
  bytes : List Byte
  /-- %clk at the frame's last byte. -/
  clk : Dword
  lost : Bool := false
  deriving DecidableEq, Repr

/-- A port sends pause frames for a priority until a ring has a free slot (R398). -/
structure Pause where
  port : Nat
  prio : Nat
  part : Nat
  ring : Nat
  deriving DecidableEq, Repr

/-- The flow and key tables that stood until a command took effect, at that %clk: a frame whose first byte came before keeps them
(R401). -/
structure NetPast where
  upTo : Dword
  flows : List Flow
  keys : List KeyEntry
  deriving DecidableEq, Repr

/-- A firmware target's measurement, version, SVN and minimum SVN (R406, R408). -/
structure Firmware where
  target : BitVec 16
  version : Word
  svn : BitVec 16
  minSvn : BitVec 16
  digest : BitVec 256
  deriving DecidableEq, Repr

/-- A service action asked for or running (R412). -/
structure Service where
  id : Nat
  kind : SvcKind
  running : Bool
  /-- Blocks of a core swap, to come back on the spare. -/
  blks : List Nat
  deriving DecidableEq, Repr

/-- A secure range: SEC_BASE(i) and SEC_LIM(i) (R404). -/
structure SecRange where
  valid : Bool
  base : BitVec 31
  lim : BitVec 31
  deriving DecidableEq, Repr

/-- The hub die: capacity tier, network, Plynoley Link, security processor, service and power registers. -/
structure Hub where
  extents : List Extent
  ctResult : BitVec 8
  ctBusy : Option CtPending
  ckptResult : BitVec 8
  ckptRestore : Bool
  ckptRun : Bool
  /-- The copy that runs is a restore. -/
  ckptBack : Bool
  netUnmatched : Word
  /-- The command in progress, with the staging words it was given. -/
  netBusy : Option (Dword × List Dword)
  netData : List Dword
  flows : List Flow
  keys : List KeyEntry
  held : List HeldFrame
  /-- The older tables, oldest first. -/
  netPast : List NetPast
  paused : List Pause
  plyId : BitVec 8
  plyExp : List (Nat × Dword)
  secRanges : List SecRange
  /-- Writes of SEC_BASE(i) with VALID that wait for the accesses past their check (R405). -/
  secWait : List (Nat × BitVec 31)
  mbox : Mailbox
  firmware : List Firmware
  booted : Bool
  /-- Targets whose controllers run no code, their image not having been accepted at the start (R406). -/
  unverified : List (BitVec 16)
  /-- The SHAKE256 digest of Shaorn's firmware public key, in the boot ROM (R406). -/
  romKey : BitVec 256
  /-- Reports signed: the key's next index in the nonvolatile store, and one advanced but not released (R410). -/
  keyIndex : Nat
  /-- Certified keys installed so far (R410). -/
  keyGen : Nat
  /-- Shaorn's signature that certifies the attestation key, in the nonvolatile store (R409). -/
  keyCert : BitVec 22560
  /-- Reports that wait for their signature's release: its origin, the index, and the report. -/
  reports : List (Origin × Nat × List Byte)
  services : List Service
  nextService : Nat
  pwrCap : BitVec 12
  pwrWatts : BitVec 12
  tmax : BitVec 8
  mgmtIrq : Nat
  hostUp : Bool
  tripped : Bool
  d3hot : Bool
  deriving DecidableEq, Repr

/-! ## The whole module -/

/-- What moves next: a wave's next instruction, or an event. MODEL'S OWN: the spec leaves it to the moment. -/
inductive Turn where
  | issue (w : Nat)
  /-- A wave that was not eligible in this clock: its turn records the stall and issues nothing (R61, R64). -/
  | retry (w : Nat)
  | event (i : Instr)
  deriving DecidableEq, Repr

/-- A data column whose bytes and CHECK are no codeword: the bytes that stand in it, and its CHECK (R377, R378). -/
structure BadColumn where
  line : Nat
  data : List Byte
  check : Word
  deriving DecidableEq, Repr

/-- A line of a memory-side cache (R382): whether it is to be written back, and the partition that last wrote it. -/
structure MscLine where
  line : Nat
  dirty : Bool
  part : Nat
  deriving DecidableEq, Repr

/-- The memories behind the four homes, and what is known of their lines: `hbm` holds the lines as a reader finds them, in the
memory-side caches or in their columns, corrected (R378, R382). -/
structure Mem where
  hbm : Memory
  host : Memory
  tier : Memory
  peer : Memory
  /-- Lines of system-homed pages that a commit.dev has made device-level in a die's L2 (R141, R161). -/
  sysL2 : List (Space × PLine)
  /-- HBM lines whose data is poisoned: POISON of each row's columns (R377, R378), carried with the line (R382). -/
  poison : List Nat
  /-- The HBM columns whose bytes are not a codeword of the check (R377, R378); CHECK of every other column is its data's. -/
  columns : List BadColumn
  /-- The lines of the memory-side caches, of each stack and set the latest used first (R382). -/
  msc : List MscLine
  /-- Lines that left a memory-side cache dirty, and are to be written to their columns: line and partition. -/
  wback : List (Nat × Nat)
  /-- The place of each listed 64 KiB page among the pages of the twelve stacks; the others are placed by `Config.pagePlace`.
  The spec does not lay the stacks out in the physical address space (log entry 5). MODEL'S OWN. -/
  homeMap : List (Nat × Nat)
  copies : List Copy
  tlb : List TlbEntry
  /-- Older contents of lines, oldest first (R94). -/
  past : List Past := []
  deriving DecidableEq, Repr

/-- The state of the module. -/
structure State where
  /-- Which agents move next, first first. MODEL'S OWN. -/
  agenda : List Turn
  /-- The wave whose instruction is being performed. MODEL'S OWN. -/
  cur : Option Nat
  /-- Numbers the moments of the run. MODEL'S OWN. -/
  now : Nat
  /-- Names given out: waves, blocks, grids, commands, admission and launch order. MODEL'S OWN. -/
  fresh : Nat
  /-- Free values drawn so far (log entry 6). MODEL'S OWN. -/
  draws : Nat
  clk : Dword
  mem : Mem
  waves : List Wave
  blocks : List Block
  clusters : List Cluster
  grids : List Grid
  cmds : List Cmd
  /-- Decrements on their way to a die's scheduler (R50, R51): die and task. -/
  decrements : List (Nat × Nat)
  cores : List Core
  dies : List Die
  /-- The twelve stacks with their base dies (R1). -/
  stks : List Stack
  parts : List Partition
  hub : Hub
  deriving DecidableEq, Repr

/-- The reasons a step stops with a fault. -/
inductive Fault where
  /-- Raised by the meaning of a SIMT instruction that is performed while no wave is current: no such moment of the
  hardware exists, since only a wave performs an instruction. Safe: no claim about the hardware rests on it. -/
  | noWave
  deriving DecidableEq, Repr

/-- The reasons a step is refused. -/
inductive Refusal where
  /-- Raised by an arm of `exec` whose instruction has no meaning yet, and by nothing else. Safe. -/
  | notModelled (mnemonic : String)
  deriving DecidableEq, Repr

/-! ## Reset -/

/-- A core after reset: nothing resident, no row owned, PHYS as R415 resets it. Its sensors read 0 (log entry 4).
Log entries 2 (DESIGN CHOICE), 105 (DEDUCED). -/
def Core.reset (n : Nat) : Core :=
  { acc := [], stat := [], tempC := 0, droops := [], fenced := false, phys := n % 96, profPtr := 0, heldBanks := []
    memHeld := 0, sampled := List.replicate 12 0 }

/-- A die after reset (R51, R193, R404, R415, R416). Log entry 2 (DESIGN CHOICE). -/
def Die.reset : Die :=
  { taskLost := 0#32, tasks := [], seOvfBase := 0#64, seOvfSize := 0#64, seOvfNext := none, seWaits := 0#16,
    seBadArv := 0#32, seSlots := [], seOvf := [], seWaiting := [], joins := [], cgWorld := 0#12, cgEmptying := 0#12, spawns := [], rrPart := 0,
    rrQueue := 0, tcache := [], spareCores := 8, freq := 28, slowed := [], d2dTraining := false, fwBusy := false }

/-- A stack after reset (R318, R322, R335, R340, R352, R376, R381). Log entry 2 (DESIGN CHOICE). -/
def Stack.reset : Stack :=
  { arrAssign0 := 0#64, arrAssign1 := 0#64, chamCtl := 0x400#64, leftover := 0#32, moved := 0#16, loads := 0#16,
    gwCount := 0#32, gwLastPf := 0#16, aclkCtl := 0x0E1207400004#64, aclkF := [14, 14, 14, 14],
    gens := List.replicate 16 0, regions := [], cfgCache := [], busyFrames := [], compactions := 0,
    gkAssign := 0#64, spillBase := List.replicate 4 0#64, spillSize := List.replicate 4 0#64,
    spillNext := List.replicate 4 none, spillUsed := List.replicate 4 [],
    families := List.replicate 16 none, tables := List.replicate 64 none, updates := [], reads := [],
    hbmCtl := 0x100010000040#64, mgmtAlert := 0#64, corr := 0#32, uncorr := 0#32, bankBo := [], qos := [],
    qosNext := [], banks := [], queue := [], lastReq := [], slotUsed := [], rows := [], eccCache := [], sparePch := 2, retiredPch := [], sparedRows := [],
    fwBusy := false }

/-- A partition after reset (R52, R57, R58, R223, R266, R280, R338, R387, R411). Log entry 2 (DESIGN CHOICE). -/
def Partition.reset : Partition :=
  { lqBase := 0#64, qerr := 0#64, cqerr := 0#16, hwinVa := 0#64, hostErr := 0#32, sysTmo := 1000#16,
    ending := false, irBase := 0#64, uetRt := 0#64, fqBase := 0#64, fqSize := 0#64, fqWrite := 0#64,
    fqRead := 0#64, distCtl := 0x085F020000#64, sliceIvl := 100#64, ageLimit := 0x01F400640014#64,
    srndKey := 0#32, ctxDesc := 0#64, preDl := 20000#32, wdog := 0#32, shadow := 0#7, tlbInv := 0#64,
    tlbBusy := false, tlbQueue := [], dbgCtl := 0#4, profCtl := 0x0800000000#64, profBase := 0#64,
    profWrite := 0#64, tadIvl := 0#32, tadBase := 0#64, tadSize := 0#32, tadLog := 0#64, tadLogSize := 0#32,
    tadLogWrite := 0#64, tadLogRead := 0#64, tadPos := 0#64, tadStop := 0xFFFFFFFFFFFFFFFF#64,
    arrSaveBase := 0#64, arrSaveSize := 0#32, arrSaveUsed := 0, mbox := {}, ctx := none, irq0 := 0, irq1 := 0,
    fqHeld := [], swapping := false, ckptReq := false, halted := false, swapped := [], swapUnits := [], ckptAt := 0#64, ckpt := none, undo := [], log := [], replay := [], replayPh := .off,
    logStalled := false, devSeq := 0 }

/-- The hub after reset (R384, R385, R391, R392, R395, R404, R411, R416).
Log entries 2 (DESIGN CHOICE), 4 (DESIGN CHOICE). -/
def Hub.reset : Hub :=
  { extents := [], ctResult := 0#8, ctBusy := none, ckptResult := 0#8, ckptRestore := false, ckptRun := false, ckptBack := false,
    netUnmatched := 0#32, netBusy := none, netData := List.replicate 5 0#64, flows := [], keys := [], held := [], netPast := [],
    paused := [], plyId := 0#8, plyExp := [], secRanges := List.replicate 16 ⟨false, 0#31, 0#31⟩, secWait := [],
    mbox := {}, firmware := [], booted := false, unverified := [], romKey := Config.romKey, keyIndex := 0, keyGen := 0,
    keyCert := Config.keyCert 0, reports := [], services := [], nextService := 0, pwrCap := 2900#12,
    pwrWatts := 0#12, tmax := 0#8, mgmtIrq := 0, hostUp := true, tripped := false, d3hot := false }

/-- The memories after reset: nothing listed, nothing cached. -/
def Mem.reset : Mem :=
  { hbm := [], host := [], tier := [], peer := [], sysL2 := [], poison := [], columns := [], msc := [], wback := [], homeMap := [], copies := [],
    tlb := [] }

/-- The module right after reset: no grid, nothing queued, every register at its reset value, %clk at 0 (R92). -/
def State.reset : State :=
  { agenda := [], cur := none, now := 0, fresh := 0, draws := 0, clk := 0#64, mem := Mem.reset, waves := [],
    blocks := [], clusters := [], grids := [], cmds := [], decrements := [],
    cores := (List.range 192).map Core.reset, dies := [Die.reset, Die.reset],
    stks := List.replicate 12 Stack.reset, parts := List.replicate 16 Partition.reset, hub := Hub.reset }

end Sys2Proof.Machine
end

