-- ==== Sys2Proof/Machine/Ops.lean ====
section
/-! DEFINITION. The named operations over the state that the meanings share: the records and how they are found and
updated, the memories and their device level (R161, R162), translation (R273-R275), the fault queue (R276), the levels
as a load reads them (R141, R152), taking an exception and returning from one (R258-R264). -/

namespace Sys2Proof.Machine

/-! ## Finding and updating records -/

def State.wave? (s : State) (w : Nat) : Option Wave := s.waves.find? (fun x => x.wid = w)
def State.block? (s : State) (b : Nat) : Option Block := s.blocks.find? (fun x => x.uid = b)
def State.grid? (s : State) (g : Nat) : Option Grid := s.grids.find? (fun x => x.uid = g)
def State.cmd? (s : State) (c : Nat) : Option Cmd := s.cmds.find? (fun x => x.id = c)

/-- Apply `f` to the wave named `w`. -/
def State.updWave (s : State) (w : Nat) (f : Wave → Wave) : State :=
  { s with waves := s.waves.map (fun x => if x.wid = w then f x else x) }
def State.updBlock (s : State) (b : Nat) (f : Block → Block) : State :=
  { s with blocks := s.blocks.map (fun x => if x.uid = b then f x else x) }
def State.updGrid (s : State) (g : Nat) (f : Grid → Grid) : State :=
  { s with grids := s.grids.map (fun x => if x.uid = g then f x else x) }
def State.updCmd (s : State) (c : Nat) (f : Cmd → Cmd) : State :=
  { s with cmds := s.cmds.map (fun x => if x.id = c then f x else x) }
def State.updCore (s : State) (c : Nat) (f : Core → Core) : State := { s with cores := s.cores.modify c f }
def State.updDie (s : State) (d : Nat) (f : Die → Die) : State := { s with dies := s.dies.modify d f }
def State.updStack (s : State) (k : Nat) (f : Stack → Stack) : State := { s with stks := s.stks.modify k f }
def State.updPart (s : State) (p : Nat) (f : Partition → Partition) : State := { s with parts := s.parts.modify p f }
def State.updMem (s : State) (f : Mem → Mem) : State := { s with mem := f s.mem }
def State.updHub (s : State) (f : Hub → Hub) : State := { s with hub := f s.hub }
def State.part (s : State) (p : Nat) : Partition := s.parts.getD p Partition.reset
def State.core (s : State) (c : Nat) : Core := s.cores.getD c (Core.reset c)
def State.die (s : State) (d : Nat) : Die := s.dies.getD d Die.reset
def State.stack (s : State) (k : Nat) : Stack := s.stks.getD k Stack.reset

/-- Drop entries from the tensor descriptor caches of both dies (R232) and from the stationary buffers (R249): those of a
partition with an id that `f` selects. Log entry 24 (DEDUCED). -/
def State.dropTensors (s : State) (p : Nat) (f : Nat → Bool) : State :=
  { s with
    dies := s.dies.map (fun (d : Die) => { d with tcache := d.tcache.filter (fun x => !(x.1 = p && f x.2.1)) })
    cores := s.cores.map (fun (c : Core) => { c with stat := c.stat.filter (fun x => !(x.part = p && f x.id)) }) }

/-- A fresh name. -/
def State.newName (s : State) : Nat × State := (s.fresh, { s with fresh := s.fresh + 1 })
/-- The next moment: every step that changes what a reader can see takes one. -/
def State.tickNow (s : State) : State := { s with now := s.now + 1 }

/-- The die, the group and the group of all dies of a linear core number (R6). -/
def dieOf (core : Nat) : Nat := core / 96
/-- Clocks of a die that runs at `f` in the moments of the timebase after `a`, up to `b` (R92, R416). -/
def clocksIn (f a b : Nat) : Nat := (b + 1) * f / 28 - (a + 1) * f / 28

/-- Clocks after moment `a`, up to moment `t`, of a die whose clock fell at the moments listed and is `f` since the last of them. -/
def countClocks (f t : Nat) : Nat → List (Dword × Nat) → Nat
  | a, [] => clocksIn f a t
  | a, (m, g) :: rest => if t ≤ m.toNat then clocksIn g a t else clocksIn g a m.toNat + countClocks f t m.toNat rest

/-- Compute-die clocks of a die up to a moment of the timebase (R10, R416). Log entry 107 (DEDUCED). -/
def Die.clocksTo (d : Die) (t : Dword) : Nat := countClocks d.freq t.toNat 0 d.slowed

/-- The compute-die clock of a core's die now (R10, R416). -/
def State.dieClk (s : State) (core : Nat) : Nat := (s.die (dieOf core)).clocksTo s.clk

/-- Compute-die clocks of a core's die since a moment: what deadlines, watchdog and `sleep` count (R158, R266, R277, R416). -/
def State.dieSince (s : State) (core : Nat) (t : Dword) : Nat := s.dieClk core - (s.die (dieOf core)).clocksTo t

def groupOf (core : Nat) : Nat := core / 8
/-- %group: 0-11 within the die (R92). -/
def groupInDie (core : Nat) : Nat := core % 96 / 8

/-- The partition of a wave, a block or a grid. -/
def State.partOfBlock (s : State) (b : Nat) : Nat :=
  match s.block? b with
  | none => 0
  | some x => match s.grid? x.grid with | none => 0 | some g => g.launch.part
def State.partOfWave (s : State) (w : Nat) : Nat :=
  match s.wave? w with | none => 0 | some x => s.partOfBlock x.blk

/-! ## Bits and bytes -/

/-- Bit `i` of a number of any size. -/
def bit (x i : Nat) : Bool := x / 2 ^ i % 2 = 1
/-- Bits [hi:lo] of a number (R108). -/
def bitsOf (x hi lo : Nat) : Nat := x / 2 ^ lo % 2 ^ (hi + 1 - lo)
/-- The lane set as a mask, and back. -/
def laneMask (p : Nat → Bool) : LaneMask :=
  BitVec.ofNat 32 ((List.range 32).foldl (fun acc i => if p i then acc + 2 ^ i else acc) 0)
def lanesOf (m : LaneMask) : List Nat := (List.range 32).filter (fun i => m.getLsbD i)
/-- The lowest lane of a set. -/
def lowestLane (m : LaneMask) : Option Nat := (lanesOf m).head?
/-- Ceiling division. -/
def ceilDiv (a b : Nat) : Nat := (a + b - 1) / b
def byteOf (x : Nat) : Byte := BitVec.ofNat 8 x
def dword (x : Nat) : Dword := BitVec.ofNat 64 x
def word (x : Nat) : Word := BitVec.ofNat 32 x

/-! ## Memory (R8) -/

/-- The byte at an address. Log entry 3 (DESIGN CHOICE). -/
def Memory.read : Memory → Nat → Byte
  | [], _ => Memory.unlisted
  | (x, b) :: t, a => if x = a then b else if a < x then Memory.unlisted else Memory.read t a

/-- Write one byte, keeping the canonical form. Log entry 3 (DESIGN CHOICE). -/
def Memory.write : Memory → Nat → Byte → Memory
  | [], a, b => if b = Memory.unlisted then [] else [(a, b)]
  | (x, c) :: t, a, b =>
    if a < x then (if b = Memory.unlisted then (x, c) :: t else (a, b) :: (x, c) :: t)
    else if a = x then (if b = Memory.unlisted then t else (a, b) :: t)
    else (x, c) :: Memory.write t a b

/-- `n` bytes from an address up. -/
def Memory.readN (m : Memory) (a n : Nat) : List Byte :=
  let t : Memory := m.dropWhile (fun x => decide (x.1 < a))
  (List.range n).map (fun i => t.read (a + i))
/-- The entries that some bytes from an address up are listed as. -/
def Memory.ofBytes (a : Nat) : List Byte → Memory
  | [] => []
  | b :: bs => if b = Memory.unlisted then Memory.ofBytes (a + 1) bs else (a, b) :: Memory.ofBytes (a + 1) bs
/-- Write bytes from an address up, keeping the canonical form. -/
def Memory.writeN (m : Memory) (a : Nat) (bs : List Byte) : Memory :=
  m.takeWhile (fun x => decide (x.1 < a)) ++ Memory.ofBytes a bs ++ m.dropWhile (fun x => decide (x.1 < a + bs.length))
/-- Write the bytes of a line that its mask selects. -/
def Memory.writeLine (m : Memory) (line : Nat) (data : List Byte) (mask : BitVec 64) : Memory :=
  m.writeN (64 * line) ((m.readN (64 * line) 64).zipIdx.map (fun p =>
    if mask.getLsbD p.2 then (match data[p.2]? with | some x => x | none => p.1) else p.1))

/-- The memory behind a home (R273 HOME). -/
def Mem.get (m : Mem) : Space → Memory
  | .hbm => m.hbm
  | .host => m.host
  | .tier => m.tier
  | .peer => m.peer
def Mem.set (m : Mem) (sp : Space) (x : Memory) : Mem :=
  match sp with
  | .hbm => { m with hbm := x }
  | .host => { m with host := x }
  | .tier => { m with tier := x }
  | .peer => { m with peer := x }

/-! ## Homes (R3) -/

/-- Usable HBM: 12 stacks of 60 GiB (R1, R4). -/
def hbmBytes : Nat := 12 * 64 * 32 * 32768 * 15 * 64
/-- 64 KiB pages of one stack. -/
def stackPages : Nat := 983040

/-- The place that the spec leaves open of a page. Log entry 5 (DESIGN CHOICE). -/
def openPlace (page : Nat) : Nat := if h : page < 11796480 then (Config.pagePlace ⟨page, h⟩).val else page
/-- A place that a listed page holds passes to that page's own open place, so that no two pages share one. -/
def passPlace (pins : List (Nat × Nat)) : (fuel : Nat) → Nat → Nat
  | 0, x => x
  | n + 1, x => match pins.find? (fun p => p.2 = x) with | some p => passPlace pins n (openPlace p.1) | none => x
/-- The place of a 64 KiB page of HBM among the pages of the twelve stacks, in stack order. Log entry 5 (DESIGN CHOICE). -/
def Mem.pagePlace (m : Mem) (page : Nat) : Nat :=
  match m.homeMap.find? (fun p => p.1 = page) with
  | some p => p.2
  | none => passPlace m.homeMap m.homeMap.length (openPlace page)
/-- The page at a place among the pages of the twelve stacks: what `Mem.pagePlace` undoes. Log entry 5 (DESIGN CHOICE). -/
def openPage (x : Nat) : Nat := if h : x < 11796480 then (Config.pagePlace.symm ⟨x, h⟩).val else x
def backPlace (pins : List (Nat × Nat)) : (fuel : Nat) → Nat → Nat
  | 0, q => q
  | n + 1, q => match pins.find? (fun p => p.1 = q) with | some p => backPlace pins n (openPage p.2) | none => q
def Mem.pageAt (m : Mem) (x : Nat) : Nat :=
  match m.homeMap.find? (fun p => p.2 = x) with
  | some p => p.1
  | none => backPlace m.homeMap m.homeMap.length (openPage x)
/-- The stack that holds an HBM physical address. -/
def State.stackOfPa (s : State) (pa : Nat) : Nat := s.mem.pagePlace (pa / 65536) / stackPages % 12
/-- The die on which a physical line is homed (R3); a line of another home is taken as die 0's, where the hub's ports
are reached (log entry 9). Log entry 5 (DESIGN CHOICE). -/
def State.homeDie (s : State) (sp : Space) (pline : Nat) : Nat :=
  match sp with
  | .hbm => s.stackOfPa (64 * pline) / 6
  | _ => 0

/-! ## Pending lines (R140, R148) -/

def PLine.empty (scr : Bool) (line : Nat) : PLine :=
  { scr := scr, line := line, data := List.replicate 64 0#8, mask := 0#64 }
/-- Put one byte into a line. -/
def PLine.put (p : PLine) (off : Nat) (b : Byte) : PLine :=
  { p with data := p.data.set off b, mask := p.mask ||| (1#64 <<< off) }
/-- The line holds a byte. -/
def PLine.has (p : PLine) (off : Nat) : Bool := p.mask.getLsbD off
/-- The newer line's bytes over the older line's. -/
def PLine.merge (old new : PLine) : PLine :=
  { old with
    data := (List.range 64).map (fun i => if new.has i then new.data.getD i 0#8 else old.data.getD i 0#8)
    mask := old.mask ||| new.mask }
/-- Keep only the bytes of a mask. -/
def PLine.restrict (p : PLine) (m : BitVec 64) : PLine := { p with mask := p.mask &&& m }

/-- The entry of a line in a list of pending lines. -/
def findLine (ls : List PLine) (scr : Bool) (line : Nat) : Option PLine :=
  ls.find? (fun p => p.scr = scr && p.line = line)
/-- Merge a newer line into a list of pending lines. -/
def mergeLine (ls : List PLine) (p : PLine) : List PLine :=
  if ls.any (fun q => q.scr = p.scr && q.line = p.line) then
    ls.map (fun q => if q.scr = p.scr && q.line = p.line then q.merge p else q)
  else ls ++ [p]
def mergeLines (ls new : List PLine) : List PLine := new.foldl mergeLine ls

/-! ## The wave buffer (R140) -/

def bufLines (b : List (Option PLine)) : List PLine := b.filterMap id
def bufFree (b : List (Option PLine)) : Nat := b.countP Option.isNone
/-- Merge a line into its entry, or into the lowest free one; which free entry a store takes is the model's choice (log
entry 10). -/
def bufMerge (b : List (Option PLine)) (p : PLine) : List (Option PLine) :=
  if (bufLines b).any (fun q => q.scr = p.scr && q.line = p.line) then
    b.map (fun x => match x with
      | some q => if q.scr = p.scr && q.line = p.line then some (q.merge p) else some q
      | none => none)
  else
    match b.findIdx? Option.isNone with
    | some i => b.set i (some p)
    | none => b
/-- Lines of a store that need a new entry. -/
def bufNeed (b : List (Option PLine)) (ls : List PLine) : Nat :=
  ls.countP (fun p => !(bufLines b).any (fun q => q.scr = p.scr && q.line = p.line))

/-! ## Device level (R161, R162, R163) -/

/-- What a list of bytes may have been with at most `n` of them wrong. -/
def nearLists : Nat → List Byte → List (List Byte)
  | 0, d => [d]
  | n + 1, d => nearLists n d ++ (List.range d.length).flatMap (fun i => (List.range 256).flatMap (fun v => nearLists n (d.set i (BitVec.ofNat 8 v))))
def byteDiff (a b : List Byte) : Nat := (a.zip b).countP (fun x => x.1 ≠ x.2)
/-- The data that a column is corrected to when an error is confined to `n` bytes of its data and its CHECK (R378).
Log entry 7 (PRESUMED). -/
def columnFix (n : Nat) (d : List Byte) (check : Word) : Option (List Byte) :=
  (nearLists n d).find? (fun x => decide (byteDiff d x + byteDiff (leBytes 4 check.toNat) (leBytes 4 (Config.checkSymbols x).toNat) ≤ n))
/-- The column's bytes as a read delivers them, none where more than two are wrong (R378). -/
def BadColumn.fix (x : BadColumn) : Option (List Byte) := columnFix 2 x.data x.check
def Mem.column? (m : Mem) (line : Nat) : Option BadColumn := m.columns.find? (fun x => x.line = line)

/-- The memory-side cache and the set of an HBM line: the cache of its own stack (R382). Log entry 150 (DESIGN CHOICE). -/
def Mem.mscPlace (m : Mem) (line : Nat) : Nat × Nat := (m.pagePlace (line / 1024) / stackPages, (Config.mscSet line).val)
/-- The line that leaves a full set for another one: the least recently used of its 16. Log entry 150 (DESIGN CHOICE). -/
def Mem.mscVictim (m : Mem) (line : Nat) : Option MscLine :=
  if m.msc.any (fun x => x.line = line) then none else (m.msc.filter (fun x => m.mscPlace x.line = m.mscPlace line))[15]?
/-- A line is used in its memory-side cache: it enters it, and a dirty line that leaves its set for it is to be written back (R382).
Log entry 150 (DESIGN CHOICE). -/
def Mem.mscUse (m : Mem) (line part : Nat) (write : Bool) : Mem :=
  let old : MscLine := (m.msc.find? (fun x => x.line = line)).getD { line := line, dirty := false, part := part }
  let gone (x : MscLine) : Bool := x.line = line || m.mscVictim line = some x
  { m with
    msc := (if write then { old with dirty := true, part := part } else old) :: m.msc.filter (fun x => !gone x)
    wback := m.wback.filter (fun x => x.1 ≠ line) ++ (match m.mscVictim line with | some x => if x.dirty then [(x.line, x.part)] else [] | none => []) }
/-- A line has been written to its column. -/
def Mem.mscClean (m : Mem) (line : Nat) : Mem :=
  { m with msc := m.msc.map (fun x => if x.line = line then { x with dirty := false } else x), wback := m.wback.filter (fun x => x.1 ≠ line) }

/-- A line is delivered as poisoned: an HBM line with its POISON bit set or whose column cannot be corrected, or a line that a
capacity-tier device reports as poisoned (R378, R382, R383). Log entry 4 (DESIGN CHOICE). -/
def State.poisonedAt (s : State) (sp : Space) (pline : Nat) : Bool :=
  match sp with
  | .hbm => s.mem.poison.contains pline || (match s.mem.column? pline with | some x => x.fix.isNone | none => false)
  | .tier => Config.tierPoison pline s.clk.toNat
  | _ => false

/-- One byte of a line at device level: an L2's device-level bytes of a system-homed line, else the line's home.
Log entry 100 (DESIGN CHOICE). -/
def State.devByte (s : State) (sp : Space) (a : Nat) : Byte :=
  match sp with
  | .hbm => s.mem.hbm.read a
  | _ =>
    match s.mem.sysL2.find? (fun x => x.1 = sp && x.2.line = a / 64) with
    | some x => if x.2.has (a % 64) then x.2.data.getD (a % 64) 0#8 else (s.mem.get sp).read a
    | none => (s.mem.get sp).read a
def State.devBytes (s : State) (sp : Space) (a n : Nat) : List Byte :=
  match sp with
  | .hbm => s.mem.hbm.readN a n
  | _ => (List.range n).map (fun i => s.devByte sp (a + i))
/-- A 64-bit little-endian word of HBM by physical address: beyond the usable 720 GiB nothing stands (R1).
Log entry 116 (DESIGN CHOICE). -/
def State.hbmDword (s : State) (pa : Nat) : Dword := if hbmBytes ≤ pa then 0#64 else dword (leNat (s.mem.hbm.readN pa 8))

/-- The older contents that are kept when a line's contents are about to be replaced: none while no grid that binds a
constant window runs, else those that were still current at such a grid's start (R94). -/
def State.pastAfter (s : State) (sp : Space) (pline : Nat) : List Past :=
  match (s.grids.filter (fun g => g.started && g.launch.record.winSize.any (fun n => n ≠ 0))).map Grid.startedAt with
  | [] => []
  | a :: as =>
    s.mem.past.filter (fun x => decide (as.foldl min a < x.upTo))
      ++ [{ space := sp, line := pline, data := s.devBytes sp (64 * pline) 64, upTo := s.now }]
/-- Keep a line's contents, which are about to be replaced at this moment. Log entry 13 (DESIGN CHOICE). -/
def State.keepPast (s : State) (sp : Space) (pline : Nat) : State := { s with mem := { s.mem with past := s.pastAfter sp pline } }

/-- A device-level byte as it stood at a moment. Log entry 13 (DESIGN CHOICE). -/
def State.byteAt (s : State) (sp : Space) (a moment : Nat) : Byte :=
  match s.mem.past.find? (fun x => x.space = sp && x.line = a / 64 && decide (moment < x.upTo)) with
  | some x => x.data.getD (a % 64) 0#8
  | none => s.devByte sp a

/-- Every clean copy of the line stops holding device state at this moment. -/
def Mem.copiesGone (m : Mem) (sp : Space) (pline now : Nat) : Mem :=
  { m with copies := m.copies.map (fun c =>
      if c.space = sp && c.line = pline && c.gone.isNone then { c with gone := some now } else c) }

/-- The bytes of a line that an L2 holds for a system home. -/
def Mem.sysLine (m : Mem) (sp : Space) (pline : Nat) : Option PLine :=
  (m.sysL2.find? (fun x => x.1 = sp && x.2.line = pline)).map (fun x => x.2)

/-- Save a line's contents in a partition's undo log before its first write since the checkpoint (R278). -/
def State.saveUndo (s : State) (p : Nat) (sp : Space) (pline : Nat) : State :=
  let x := s.part p
  if x.dbgCtl.getLsbD 3 && x.ckpt.isSome && !x.undo.any (fun u => u.space = sp && u.line = pline) then
    s.updPart p (fun y => { y with undo := y.undo ++
      [{ space := sp, line := pline, data := (s.mem.get sp).readN (64 * pline) 64, l2 := s.mem.sysLine sp pline }] })
  else s

/-- A device-level write of bytes of one physical line by a partition's work: one step of the line's level order. -/
def State.devWrite (s : State) (p : Nat) (sp : Space) (pline : Nat) (data : List Byte) (mask : BitVec 64) : State :=
  let s := ((s.saveUndo p sp pline).tickNow).keepPast sp pline
  let m := s.mem.copiesGone sp pline s.now
  match sp with
  | .hbm =>
    { s with mem := { m.mscUse pline p true with
        hbm := m.hbm.writeLine pline data mask
        poison := if mask = BitVec.allOnes 64 then m.poison.filter (· ≠ pline) else m.poison
        columns := if mask = BitVec.allOnes 64 then m.columns.filter (fun x => x.line ≠ pline) else m.columns } }
  | _ =>
    let new : PLine := { scr := false, line := pline, data := data, mask := mask }
    let kept := m.sysL2.filter (fun x => !(x.1 = sp && x.2.line = pline))
    let old := match m.sysL2.find? (fun x => x.1 = sp && x.2.line = pline) with | some x => x.2 | none => PLine.empty false pline
    { s with mem := { m with sysL2 := kept ++ [(sp, old.merge new)] } }

/-- Bytes that were sent to a system home before others that have now arrived there do not arrive after them (R162, R164). -/
def State.overtake (s : State) (sp : Space) (pline : Nat) (mask : BitVec 64) (moment : Nat) : State :=
  { s with waves := s.waves.map (fun w =>
      if w.sent.isEmpty then w
      else { w with sent := w.sent.map (fun t =>
        if t.sysWrite && t.space = sp && t.pline = pline && decide (t.moment < moment) then { t with mask := t.mask &&& ~~~mask } else t) }) }

/-- A write of a partition's work at the home of a system-homed line (R164, R190): the home's bytes change, and bytes sent to it
before are overtaken; bytes that an L2 holds for it stay, and reach it later. Log entry 55 (DEDUCED). -/
def State.homeWrite (s : State) (p : Nat) (sp : Space) (pline : Nat) (data : List Byte) (mask : BitVec 64) : State :=
  let s := (s.saveUndo p sp pline).tickNow.keepPast sp pline
  let s := s.overtake sp pline mask s.now
  let m := s.mem.copiesGone sp pline s.now
  { s with mem := m.set sp ((m.get sp).writeLine pline data mask) }

/-- A device-level write of bytes at a physical address that may cross lines: line by line, ascending. -/
def State.devWriteBytes (s : State) (p : Nat) (sp : Space) (a : Nat) (bs : List Byte) : State :=
  let lines := (List.range ((a % 64 + bs.length + 63) / 64)).map (fun i => a / 64 + i)
  lines.foldl (fun s l =>
    let data := (List.range 64).map (fun i =>
      if a ≤ 64 * l + i then bs.getD (64 * l + i - a) 0#8 else 0#8)
    let mask := (List.range 64).foldl (fun (m : BitVec 64) i =>
      if decide (a ≤ 64 * l + i) && decide (64 * l + i < a + bs.length) then m ||| (1#64 <<< i) else m) 0#64
    s.devWrite p sp l data mask) s

/-- Lines get contents that the spec leaves open: those of a record whose layout is not architectural (R268, R338).
Log entry 6 (DESIGN CHOICE). -/
def State.scrawl (s : State) (p : Nat) (places : List (Space × Nat)) : State :=
  places.foldl (fun s x =>
    { (s.devWrite p x.1 x.2 ((List.range 64).map (fun i => Config.freeByte (s.draws + i))) (BitVec.allOnes 64)) with draws := s.draws + 64 }) s

/-! ## Translation (R273, R274, R275) -/

/-- The home of a leaf. -/
def leafSpace (leaf : Dword) : Space :=
  match (leaf.extractLsb' 8 2).toNat with
  | 0 => .hbm
  | 1 => .host
  | 2 => .tier
  | _ => .peer
def leafSS (leaf : Dword) : Bool := leaf.getLsbD 5
/-- PA of an entry, bits [51:12]. -/
def leafPa (leaf : Dword) : Nat := (leaf.extractLsb' 12 40).toNat * 4096

/-- log2 of the page size of a leaf at a level. -/
def pageLog : Nat → Nat
  | 0 => 16
  | 1 => 21
  | _ => 30
/-- The index of a level's table (R273). -/
def levelIndex (lvl va : Nat) : Nat :=
  match lvl with
  | 0 => bitsOf va 20 16
  | 1 => bitsOf va 29 21
  | 2 => bitsOf va 38 30
  | 3 => bitsOf va 47 39
  | _ => bitsOf va 56 48

/-- A physical address lies within a valid secure range (R404). -/
def State.secured (s : State) (pa : Nat) : Bool :=
  s.hub.secRanges.any (fun r => r.valid && decide (r.base.toNat ≤ pa / 2 ^ 21) && decide (pa / 2 ^ 21 ≤ r.lim.toNat))

/-- The walk of R273 from a level down: the leaf and the log2 of its page, or cause 16 or 24 (R274), or 19 for a
non-secure walk that meets a secure range (R403). -/
def State.walk (s : State) (world : Bool) : (lvl : Nat) → (table va : Nat) → Except (BitVec 6) (Dword × Nat)
  | lvl, table, va =>
    let at_ := table + 8 * levelIndex lvl va
    let e := s.hbmDword at_
    let reserved := e.extractLsb' 52 12 ≠ 0#12 || e.extractLsb' 10 2 ≠ 0#2 || e.getLsbD 7
    if !world && s.secured at_ then .error 19#6
    else if !e.getLsbD 0 then .error 16#6
    else if reserved || (leafSS e && leafSpace e ≠ .hbm) then .error 24#6
    else if e.getLsbD 1 then
      if 3 ≤ lvl || leafPa e % 2 ^ pageLog lvl ≠ 0 then .error 24#6
      else .ok (e, pageLog lvl)
    else
      match lvl with
      | 0 => .error 24#6
      | lvl + 1 => State.walk s world lvl (leafPa e) va

/-- A cached translation of a core or of a die (R275). -/
def State.tlbFind (s : State) (l1 : Bool) (unit p va : Nat) : Option (Dword × Nat) :=
  (s.mem.tlb.find? (fun t => t.l1 = l1 && t.unit = unit && t.part = p && t.vpage = va / 2 ^ t.size)).map
    (fun t => (t.leaf, t.size))

/-- The page-table root of a partition's context. -/
def State.root (s : State) (p : Nat) : Nat := match (s.part p).ctx with | some c => c.ptRoot | none => 0
/-- The world of a partition's context. -/
def State.world (s : State) (p : Nat) : Bool := match (s.part p).ctx with | some c => c.world | none => false

/-- The translation that an access by a core finds: its L1 TLB, its die's L2 TLB, then the walk. -/
def State.lookupLeaf (s : State) (core p va : Nat) : Except (BitVec 6) (Dword × Nat) :=
  if 2 ^ 57 ≤ va then .error 16#6
  else
    match s.tlbFind true core p va with
    | some x => .ok x
    | none =>
      match s.tlbFind false (dieOf core) p va with
      | some x => .ok x
      | none => s.walk (s.world p) 4 (s.root p) va

/-- The translation that a die's shared units find (copy engine, scheduler, matrix engine): the L2 TLB, then the walk. -/
def State.lookupDie (s : State) (die p va : Nat) : Except (BitVec 6) (Dword × Nat) :=
  if 2 ^ 57 ≤ va then .error 16#6
  else
    match s.tlbFind false die p va with
    | some x => .ok x
    | none => s.walk (s.world p) 4 (s.root p) va

/-- What an access asks of its page (R273, R192). -/
inductive Access where
  | load
  | store
  | fetch
  | atomic
  deriving DecidableEq, Repr

/-- The check of R273 on a leaf: the smallest cause that applies. -/
def leafCheck (acc : Access) (world : Bool) (leaf : Dword) : Option (BitVec 6) :=
  let rd := leaf.getLsbD 2
  let wr := leaf.getLsbD 3
  let x := leaf.getLsbD 4
  let perm : Option (BitVec 6) :=
    match acc with
    | .load => if rd then none else some 18#6
    | .fetch => if x then none else some 18#6
    | .store => if wr then none else some 17#6
    | .atomic => if !wr then some 17#6 else if !rd then some 18#6 else none
  match perm with
  | some c => some c
  | none => if leaf.getLsbD 6 = world then none else some 19#6

/-- A translated place. -/
structure Place where
  space : Space
  pa : Nat
  ss : Bool
  deriving DecidableEq, Repr

/-- The place of a virtual address under a leaf. -/
def leafPlace (va : Nat) (x : Dword × Nat) : Place :=
  { space := leafSpace x.1, pa := leafPa x.1 + va % 2 ^ x.2, ss := leafSS x.1 }

/-- A peer window with the module's own id names its own memory (R391). An address outside the windows of R4 stays as it is, and names
nothing (Place.nowhere). Log entry 116 (DESIGN CHOICE). -/
def State.localPeer (s : State) (pl : Place) : Place :=
  if pl.space = .peer && decide (12 * 2 ^ 48 ≤ pl.pa) && (pl.pa - 12 * 2 ^ 48) / 2 ^ 40 = s.hub.plyId.toNat then
    { space := .hbm, pa := pl.pa % 2 ^ 40, ss := false }
  else pl

/-- A place names no memory: a HOME 0 address beyond the usable 720 GiB (R1), or a HOME 3 address outside the windows of the 256
modules (R4, R391). Log entry 116 (DESIGN CHOICE). -/
def Place.nowhere (pl : Place) : Bool :=
  match pl.space with
  | .hbm => decide (hbmBytes ≤ pl.pa)
  | .peer => decide (pl.pa < 12 * 2 ^ 48) || decide (13 * 2 ^ 48 ≤ pl.pa)
  | _ => false

/-- A place lies within a valid secure range: an address of host memory is no device physical address (R404).
Log entry 138 (DESIGN CHOICE). -/
def State.securePlace (s : State) (pl : Place) : Bool := pl.space ≠ .host && s.secured pl.pa

/-- The place of an access under the leaf that was found, checked by R273 and, for a non-secure partition, against the
secure ranges (R403). A place that names no memory is answered as a page that is not present. Log entry 116 (DESIGN CHOICE). -/
def State.checkLeaf (s : State) (p : Nat) (acc : Access) (va : Nat) (x : Dword × Nat) : Except (BitVec 6) Place :=
  match leafCheck acc (s.world p) x.1 with
  | some c => .error c
  | none =>
    let pl := s.localPeer (leafPlace va x)
    if pl.nowhere then .error 16#6
    else if !s.world p && s.securePlace pl then .error 19#6 else .ok pl

/-- Translate and check an access of a core (R138, R273). -/
def State.translate (s : State) (core p : Nat) (acc : Access) (va : Nat) : Except (BitVec 6) Place :=
  match s.lookupLeaf core p va with
  | .error c => .error c
  | .ok x => s.checkLeaf p acc va x
/-- Translate and check an access of a die's shared unit, of a world. -/
def State.translateDie (s : State) (die p : Nat) (acc : Access) (va : Nat) : Except (BitVec 6) Place :=
  match s.lookupDie die p va with
  | .error c => .error c
  | .ok x => s.checkLeaf p acc va x

/-- Keep at most `n` entries of one cache, dropping the oldest. -/
def capTlb (n : Nat) (l1 : Bool) (unit : Nat) (tlb : List TlbEntry) : List TlbEntry :=
  let mine := tlb.filter (fun t => t.l1 = l1 && t.unit = unit)
  if mine.length ≤ n then tlb
  else match mine.head? with | some d => tlb.erase d | none => tlb

/-- Fill the caches of a core and its die with the translations of some addresses (R275). -/
def State.fillTlb (s : State) (core p : Nat) (vas : List Nat) : State :=
  vas.foldl (fun s va =>
    match s.lookupLeaf core p va with
    | .error _ => s
    | .ok (leaf, sz) =>
      let add (l1 : Bool) (unit cap : Nat) (t : List TlbEntry) : List TlbEntry :=
        if t.any (fun x => x.l1 = l1 && x.unit = unit && x.part = p && x.vpage = va / 2 ^ x.size) then t
        else capTlb cap l1 unit (t ++ [{ l1 := l1, unit := unit, part := p, vpage := va / 2 ^ sz, size := sz, leaf := leaf }])
      s.updMem (fun m => { m with tlb := add true core 64 (add false (dieOf core) 16384 m.tlb) })) s

/-! ## Device-level access by virtual address -/

/-- The capacity-tier extent of a physical line of the tier, whose extents stand from 0x8_0000_0000_0000 up (R383). -/
def extentOf (pline : Nat) : Nat := (64 * pline - 2 ^ 51) / 2 ^ 30
/-- The firmware target of the ports to a home (R406). -/
def portTarget : Space → Option (BitVec 16)
  | .hbm => none
  | .host => some 0x40#16
  | .tier => some 0x41#16
  | .peer => some 0x42#16
/-- A line's home answers: its ports run verified firmware (R406), and a capacity-tier line lies in an extent that is present (R383,
R384). Log entries 116 (DESIGN CHOICE), 133 (DESIGN CHOICE). -/
def State.extentHere (s : State) (sp : Space) (pline : Nat) : Bool :=
  !s.hub.unverified.any (fun t => portTarget sp = some t)
    && (sp ≠ .tier || (decide (2 ^ 51 ≤ 64 * pline) && s.hub.extents.any (fun e => e.num = extentOf pline)))

/-- The firmware target of a link (R406). -/
def linkTarget : LinkUnit → BitVec 16
  | .host => 0x40#16
  | .cxl _ => 0x41#16
  | .eth _ => 0x43#16
/-- A link carries nothing: it is being recovered, or its firmware activated (R413). -/
def Hub.linkDown (h : Hub) (u : LinkUnit) : Bool :=
  h.services.any (fun x => x.running && (x.kind = .linkRecovery u || x.kind = .firmware (linkTarget u)))
/-- The scheduler, distributor, sync engine and copy engine of a die run code that has been verified (R406). -/
def State.dieRuns (s : State) (die : Nat) : Bool := !s.hub.unverified.contains (BitVec.ofNat 16 (0x10 + die))
/-- Requests to the stack that holds a line wait: its base die activates firmware (R413), or runs none that is verified (R406). -/
def State.stackHeld (s : State) (sp : Space) (pline : Nat) : Bool := sp = .hbm && (s.stack (s.stackOfPa (64 * pline))).fwBusy
/-- The link to a line's home carries nothing now, and its requests wait (R413). Log entry 137 (DESIGN CHOICE). -/
def State.linkWaits (s : State) (sp : Space) (pline : Nat) : Bool :=
  match sp with
  | .host => s.hub.linkDown .host
  | .tier => s.hub.linkDown (.cxl (Config.extentPort (extentOf pline)).val)
  | _ => false

/-- The accumulator rows that are owned on a core: those there, and those of a block that is being restored there (R251). -/
def State.coreRows (s : State) (core : Nat) : List AccRow :=
  (s.core core).acc ++ (s.blocks.filter (fun b => b.core = core && b.status = .restoring)).flatMap Block.savedRows
/-- Some rows are owned on a core. -/
def State.rowsOwned (s : State) (core : Nat) (rows : List AccRow) : Bool := (s.coreRows core).any (fun r => rows.any (fun q => q.row = r.row))

/-- An access that has passed its checks cannot reach the line's home now: a load or an atomic of it waits (R389, R413). -/
def State.homeHeld (s : State) (sp : Space) (pline : Nat) : Bool :=
  !s.extentHere sp pline || s.linkWaits sp pline || s.stackHeld sp pline
/-- Requests of a die's unit to a line that a virtual address lies in wait (R413). Log entry 148 (DESIGN CHOICE). -/
def State.unitHolds (s : State) (die p : Nat) (acc : Access) (va : Nat) : Bool :=
  (s.stks.any Stack.fwBusy || s.hub.services.any Service.running)
    && (match s.translateDie die p acc va with | .ok pl => s.stackHeld pl.space (pl.pa / 64) || s.linkWaits pl.space (pl.pa / 64) | .error _ => false)

/-- The device-level bytes of a virtual range as a die's unit reads them, or the first fault and its address. -/
def State.vread (s : State) (die p va : Nat) : (n : Nat) → Except (BitVec 6 × Nat) (List Byte)
  | 0 => .ok []
  | n + 1 =>
    match s.translateDie die p .load va with
    | .error c => .error (c, va)
    | .ok pl =>
      if !s.extentHere pl.space (pl.pa / 64) then .error (25#6, va)
      else if s.poisonedAt pl.space (pl.pa / 64) then .error (20#6, va)
      else
        match State.vread s die p (va + 1) n with
        | .error x => .error x
        | .ok bs => .ok (s.devByte pl.space pl.pa :: bs)

/-- Write device-level bytes at a virtual address, or the first fault and its address; nothing is written on a fault. -/
def State.vwrite (s : State) (die p va : Nat) (bs : List Byte) : Except (BitVec 6 × Nat) State :=
  let lines := (List.range ((va % 64 + bs.length + 63) / 64)).map (fun i => va / 64 + i)
  let places := lines.map (fun l => (l, s.translateDie die p .store (max va (64 * l))))
  match places.find? (fun x => match x.2 with | .error _ => true | .ok _ => false) with
  | some (l, .error c) => .error (c, max va (64 * l))
  | _ =>
    match places.find? (fun x => match x.2 with | .ok pl => !s.extentHere pl.space (pl.pa / 64) | .error _ => false) with
    | some (l, _) => .error (25#6, max va (64 * l))
    | none =>
    .ok (places.foldl (fun s x =>
      match x.2 with
      | .error _ => s
      | .ok pl =>
        let lo := max va (64 * x.1)
        let hi := min (va + bs.length) (64 * x.1 + 64)
        s.devWriteBytes p pl.space pl.pa ((bs.drop (lo - va)).take (hi - lo))) s)

/-- A little-endian 64-bit word at device level by virtual address. -/
def State.vdword (s : State) (die p va : Nat) : Except (BitVec 6 × Nat) Dword :=
  match s.vread die p va 8 with | .ok bs => .ok (dword (leNat bs)) | .error x => .error x

/-! ## The fault queue (R276) -/

/-- A partition's fault queue exists. -/
def fqExists (x : Partition) : Bool :=
  x.fqBase ≠ 0#64 && x.fqBase.toNat % 64 = 0 && decide (4 ≤ x.fqSize.toNat) && decide (x.fqSize.toNat ≤ 16)
/-- The 32 bytes of a record. -/
def faultRecord (source : Nat) (cause : BitVec 6) (addr : Dword) (agent : Nat) (clk : Dword) : List Dword :=
  [dword (source * 256 + cause.toNat), addr, dword (agent % 65536), clk]

/-- A unit is held until a record that it posted finds room (R276). -/
def State.unitHeld (s : State) (source unit : Nat) : Bool :=
  s.parts.any (fun x => x.fqHeld.any (fun r => r.source = source && r.unit = unit))

/-- Write held records into the ring while there is room and no whole-memory copy runs (R385), signalling vector 0 for each
(R276, R386); FQ_BASE is a virtual address of the partition, and a record whose write faults is lost (log entry 11). -/
def State.drainFq (s : State) (p : Nat) : (fuel : Nat) → State
  | 0 => s
  | fuel + 1 =>
    let x := s.part p
    match x.fqHeld with
    | [] => s
    | r :: rest =>
      if !fqExists x then State.drainFq (s.updPart p (fun y => { y with fqHeld := rest, irq0 := y.irq0 + 1 })) p fuel
      else if s.hub.ckptRun || decide (2 ^ x.fqSize.toNat ≤ (x.fqWrite - x.fqRead).toNat) then s
      else
        let va := x.fqBase.toNat + 32 * (x.fqWrite.toNat % 2 ^ x.fqSize.toNat)
        let s' := match s.vwrite 0 p va (r.words.flatMap (fun w => leBytes 8 w.toNat)) with | .ok t => t | .error _ => s
        State.drainFq (s'.updPart p (fun y => { y with fqHeld := rest, fqWrite := y.fqWrite + 1#64, irq0 := y.irq0 + 1 })) p fuel

/-- Post a record (R276). A record that finds the queue full waits in `fqHeld`, and with it the unit that posted it; vector 0 is
signalled when it is posted, or dropped for want of a queue. Log entry 11 (DEDUCED). -/
def State.postFault (s : State) (p source : Nat) (cause : BitVec 6) (addr : Dword) (agent : Nat) (unit : Nat := 0) : State :=
  let s := s.updPart p (fun x => { x with
    fqHeld := x.fqHeld ++ [{ source := source, unit := unit, words := faultRecord source cause addr agent s.clk }] })
  s.drainFq p ((s.part p).fqHeld.length + 1)

/-- AGENT of a wave: linear core x 64 + slot (R276). -/
def agentOf (w : Wave) : Nat := w.core * 64 + w.slot
/-- AGENT of an engine in the order log (R278): its SOURCE and AGENT of R276, so that no two engines are told as one.
Log entry 117 (DESIGN CHOICE). -/
def engineAgent (source agent : Nat) : Nat := source * 65536 + agent % 65536

/-! ## Tadpole's order log (R278, R281) -/

/-- The words of an entry: its two header words and what its KIND carries, padded to 16 bytes. -/
def LogEntry.words64 (e : LogEntry) : List Dword :=
  let h0 := (e.kind.zeroExtend 64 <<< 56) ||| (e.level.zeroExtend 64 <<< 48) ||| (e.count.zeroExtend 64 <<< 32)
    ||| e.agent.zeroExtend 64
  let h1 := (e.inst.zeroExtend 64 <<< 32) ||| e.seq.zeroExtend 64
  let ws := h0 :: h1 :: e.words
  if ws.length % 2 = 1 then ws ++ [0#64] else ws

/-- The bytes of a saved or checkpointed image (R272). Log entry 94 (DESIGN CHOICE). -/
def PartImage.bytes (i : PartImage) : Nat :=
  let lines (l : List PLine) : Nat := 72 * l.length
  i.waves.foldl (fun n w => n + 1024 * ((w.vregs.length + 7) / 8) + 4 * w.sregs.length + 80 * (w.buf.filterMap id).length + 512) 0
    + i.blocks.foldl (fun n b => n + 4097 * b.ntiles + lines b.lines + 512) 0
    + i.clusters.foldl (fun n c => n + lines c.lines) 0 + 1034 * i.acc.length

/-- Whether the log of a partition takes an entry of this size now: the ring has room, and the undo log has not reached the
end of the checkpoint area (R281). Log entry 94 (DESIGN CHOICE). -/
def logRoom (x : Partition) (bytes : Nat) : Bool :=
  decide ((x.tadLogWrite - x.tadLogRead).toNat + bytes ≤ x.tadLogSize.toNat * 65536)
    && (match x.ckpt with
        | none => true
        | some i => decide (i.bytes + x.undo.length * 64 < x.tadSize.toNat * 65536))

/-- A partition's steps are logged: DBG_CTL.TAD_EN, and REPLAY clear. -/
def logging (x : Partition) : Bool := x.dbgCtl.getLsbD 3 && !x.dbgCtl.getLsbD 2

/-- The next entry of a replay (R279), none when the partition is not replaying. -/
def replayHead (x : Partition) : Option LogEntry := if x.replayPh = .running then x.replay.head? else none

/-- A replay stands at its stop position or at the end of its log: no step is performed. -/
def replayStop (x : Partition) : Bool := x.replayPh = .running && (x.replay.isEmpty || x.tadPos = x.tadStop)

/-- A logged step of a partition may be performed: while replaying, when it is the next one logged and the stop position
has not been reached (R279); else when logging is off or the log has room (R281). -/
def stepAllowed (x : Partition) (kind agent bytes : Nat) : Bool :=
  !replayStop x &&
  match replayHead x with
  | some e => e.kind.toNat = kind && e.agent.toNat = agent
  | none => !logging x || logRoom x bytes
def State.mayStep (s : State) (p kind agent bytes : Nat) : Bool := stepAllowed (s.part p) kind agent bytes

/-- The first wait for room posts one record with SOURCE 3 and CAUSE 0 (R281). -/
def State.logFull (s : State) (p : Nat) : State :=
  if (s.part p).logStalled || (s.part p).replayPh = .running then s
  else (s.updPart p (fun x => { x with logStalled := true })).postFault p 3 0#6 0#64 0 p

/-- Append an entry to the order log, whose bytes that software has not consumed are never overwritten (R281); in a replay the
step's logged entry is used up instead. Of a ring that reaches beyond the usable HBM those bytes are lost (R1).
Log entry 116 (DESIGN CHOICE). -/
def State.logEntry (s : State) (p : Nat) (e : LogEntry) : State :=
  let x := s.part p
  match replayHead x with
  | some h =>
    if h.kind = e.kind && h.agent = e.agent then s.updPart p (fun y => { y with replay := y.replay.drop 1, tadPos := y.tadPos + 1#64 }) else s
  | none =>
  if !logging x || !logRoom x (8 * e.words64.length) then s
  else
    let ws := e.words64
    let ring := x.tadLogSize.toNat * 65536
    let base := x.tadLog.toNat
    let m := if ring = 0 then s.mem.hbm
      else (ws.flatMap (fun w => leBytes 8 w.toNat)).zipIdx.foldl
        (fun m b => let a := base + (x.tadLogWrite.toNat + b.2) % ring; if a < hbmBytes then m.write a b.1 else m) s.mem.hbm
    { s with mem := { s.mem with hbm := m } }.updPart p (fun y => { y with
      log := y.log ++ [e], tadPos := y.tadPos + 1#64, logStalled := false
      tadLogWrite := y.tadLogWrite + dword (8 * ws.length) })

/-- An entry of the order log without words. -/
def plainEntry (kind level count agent inst seq : Nat) : LogEntry :=
  { kind := BitVec.ofNat 8 kind, level := BitVec.ofNat 8 level, count := BitVec.ofNat 16 count, agent := word agent,
    inst := word inst, seq := word seq, words := [] }

/-- A step of device level takes its position and is logged: KIND, lines moved and the agent (R278). -/
def State.logDev (s : State) (p kind level count agent : Nat) : State :=
  let s := s.updPart p (fun x => { x with devSeq := x.devSeq + 1 })
  s.logEntry p (plainEntry kind level count agent 0 (s.part p).devSeq)

/-! ## Levels as a load reads them (R141, R152, R72) -/

/-- The cluster of a block. -/
def State.cluster? (s : State) (b : Block) : Option Cluster :=
  match s.grid? b.grid with
  | none => none
  | some g => s.clusters.find? (fun c => c.grid = b.grid && c.num = b.lin / (g.launch.record.cluster + 1))
def State.updCluster (s : State) (b : Block) (f : Cluster → Cluster) : State :=
  match s.cluster? b with
  | none => s
  | some c => { s with clusters := s.clusters.map (fun x => if x.grid = c.grid && x.num = c.num then f x else x) }

/-- The clean copy of a line that a wave may use: filled after its acquire mark, and not older than what it has seen
(R152, R72). -/
def State.cleanCopy (s : State) (w : Wave) (r : LineRef) : Option Copy :=
  let mark := if r.space = .hbm then w.acqDev else w.acqSys
  s.mem.copies.find? (fun c =>
    (if c.l1 then c.unit = w.core else c.unit = dieOf w.core) && c.space = r.space && c.line = r.pline
      && decide (mark ≤ c.fill) && (match c.gone with | none => true | some g => decide (w.seen < g)))

/-- Put a clean copy in place, replacing an older one of the unit. -/
def Mem.addCopy (m : Mem) (c : Copy) : Mem :=
  { m with copies := c :: m.copies.filter (fun x =>
      !(x.l1 = c.l1 && x.unit = c.unit && x.space = c.space && x.line = c.line)) }

/-- What a read of one line returns to a wave: the 64 bytes found below the wave's buffer, the offsets of those that come poisoned
from device level, the newest device state that the wave has then seen, and whether device level has been read. -/
structure LineRead where
  data : List Byte
  bad : List Nat
  seen : Nat
  fresh : Bool
  deriving DecidableEq, Repr

/-- Read one line for a wave below its buffer (R141). `clean` lets it use a clean copy; `direct` reads device level or
the tile only, as handler mode does (R263); `wants` says which of the line's bytes the load reads: device state is seen only
where it gives one of them (R72). Log entry 56 (DEDUCED). -/
def State.readLine (s : State) (w : Wave) (r : LineRef) (clean direct : Bool) (wants : Nat → Bool) : LineRead :=
  match s.block? w.blk with
  | none => ⟨[], [], w.seen, false⟩
  | some b =>
    if r.scr then ⟨b.scr.readN (64 * r.line) 64, [], w.seen, false⟩
    else
      let blk := if direct then none else findLine b.lines false r.line
      let clu := if direct then none else (s.cluster? b).bind (fun c => findLine c.lines false r.line)
      let copy := if clean && !direct then s.cleanCopy w r else none
      let below := match copy with | some c => c.data | none => s.devBytes r.space (64 * r.pline) 64
      let dev (i : Nat) : Byte := below.getD i 0#8
      let data := (List.range 64).map (fun i =>
        match blk with
        | some p => if p.has i then p.data.getD i 0#8 else
          (match clu with | some q => if q.has i then q.data.getD i 0#8 else dev i | none => dev i)
        | none => (match clu with | some q => if q.has i then q.data.getD i 0#8 else dev i | none => dev i))
      let held (l : Option PLine) (i : Nat) : Bool := match l with | some p => p.has i | none => false
      let below (i : Nat) : Bool := !held blk i && !held clu i
      let sees := (List.range 64).any (fun i => wants i && below i)
      match copy with
      | some c => ⟨data, [], if sees then max w.seen c.fill else w.seen, false⟩
      | none =>
        let bad := s.poisonedAt r.space r.pline
        ⟨data, if bad then (List.range 64).filter below else [], if sees then s.now else w.seen, sees && !bad⟩

/-- The clean copies that a plain load's device-level read leaves behind: an L1 copy of the core, and an L2 copy of a
stream-shared or system-homed line (R152, R173). A poisoned line leaves none. -/
def State.fillCopies (s : State) (w : Wave) (r : LineRef) : State :=
  let data := (List.range 64).map (fun i => s.devByte r.space (64 * r.pline + i))
  let c : Copy := { l1 := true, unit := w.core, space := r.space, ss := r.ss, line := r.pline, data := data,
                    fill := s.now, gone := none }
  s.updMem (fun m =>
    let m := m.addCopy c
    if r.ss || r.space ≠ .hbm then m.addCopy { c with l1 := false, unit := dieOf w.core } else m)

/-! ## Registers -/

/-- The k0 of a wave: executing lanes without helper lanes (R22). In handler mode no lane is a helper (R263). -/
def Wave.k0 (w : Wave) : LaneMask := if w.mode.getLsbD 8 then w.exec else w.exec &&& w.real
/-- HND and TMASK (R156). -/
def Wave.hnd (w : Wave) : Bool := w.mode.getLsbD 8
def Wave.tmask (w : Wave) : Bool := w.mode.getLsbD 9
def Wave.flush (w : Wave) : Bool := w.mode.getLsbD 0
def Wave.autoc (w : Wave) : Bool := w.mode.getLsbD 1

def Wave.sget (w : Wave) (n : Nat) : Word := w.sregs.getD n 0#32
def Wave.sset (w : Wave) (n : Nat) (x : Word) : Wave := { w with sregs := w.sregs.set n x }
/-- An s pair, low half first (R90). -/
def Wave.spair (w : Wave) (n : Nat) : Dword := w.sget (n + 1) ++ w.sget n
def Wave.setSpair (w : Wave) (n : Nat) (x : Dword) : Wave :=
  (w.sset n (x.extractLsb' 0 32)).sset (n + 1) (x.extractLsb' 32 32)
def Wave.vget (w : Wave) (n lane : Nat) : Word := (w.vregs.getD n []).getD lane 0#32
def Wave.vset (w : Wave) (n lane : Nat) (x : Word) : Wave :=
  { w with vregs := w.vregs.modify n (fun r => r.set lane x) }
/-- k0 is computed; k1-k7 are held (R22). -/
def Wave.kget (w : Wave) (n : Nat) : Word := if n = 0 then w.k0 else w.kregs.getD n 0#32
def Wave.kset (w : Wave) (n : Nat) (x : Word) : Wave := if n = 0 then w else { w with kregs := w.kregs.set n x }

/-- `wr` (R108): write a result of a width to a destination for a lane; discard writes nothing (R89). -/
def Wave.write (w : Wave) (d : BitVec 9) (wide : Bool) (lane x : Nat) : Wave :=
  match Dst.of d with
  | .v n =>
    let w := w.vset n lane (word x)
    if wide then w.vset (n + 1) lane (word (x / 2 ^ 32)) else w
  | .s n => if wide then w.setSpair n (dword x) else w.sset n (word x)
  | .k n => w.kset n (word x)
  | _ => w

/-! ## Finishing loads (R138, R139, R145, R146) -/

/-- The bytes a lane of a load received, little-endian. -/
def OutLoad.value (o : OutLoad) (a n : Nat) : Nat :=
  leNat ((List.range n).map (fun i =>
    match o.got.find? (fun p => p.1 = a + i) with | some p => p.2 | none => 0#8))

/-- A lane of the load reads the byte at `a`; a scalar form's access is that of lane 0. -/
def OutLoad.laneWants (o : OutLoad) (l a : Nat) : Bool :=
  let inside (n b : Nat) : Bool := decide (b ≤ a ∧ a < b + n)
  let elem : Bool := match o.addrs.getD l none with | some b => inside o.size b | none => false
  match o.kind with
  | .image base => l = 0 && inside 576 base
  | .tensor _ _ _ scale band _ => elem || inside 1 (scale.getD l 0) || inside 2 (band.getD l 0)
  | .plain _ => elem
/-- The load reads the byte at `a`. Log entry 56 (DEDUCED). -/
def OutLoad.wants (o : OutLoad) (a : Nat) : Bool := (List.range 32).any (fun l => o.laneWants l a)
/-- A lane that is no helper lane reads the byte at `a`: its failure is the load's, while a helper lane's gives that lane 0 (R23). -/
def OutLoad.mainWants (o : OutLoad) (a : Nat) : Bool := (List.range 32).any (fun l => !o.helpers.getLsbD l && o.laneWants l a)
/-- Accesses fail at some addresses: the helper lanes that make one receive 0 (R23). -/
def OutLoad.zeroHelpers (o : OutLoad) (as : List Nat) : OutLoad :=
  { o with zeros := o.zeros ||| (o.helpers &&& laneMask (fun l => as.any (o.laneWants l))) }

/-- The value that a lane of a load writes. Log entries 69 (DEDUCED), 131 (DESIGN CHOICE). -/
def OutLoad.laneValue (o : OutLoad) (lane : Nat) : Nat :=
  if o.zeros.getLsbD lane then 0
  else
    match o.addrs.getD lane none with
    | none => 0
    | some a =>
      let raw := o.value a o.size
      match o.kind with
      | .plain ty =>
        match Ty.ofCode ty with
        | some t => extendBits t raw
        | none => raw
      | .image _ => raw
      | .tensor fmt asF32 nib scale band flush =>
        let t := (Ty.ofCode fmt).getD .b32
        let code := if t.width = 4 then (if nib.getLsbD lane then raw / 16 % 16 else raw % 16) else raw
        if !asF32 then code
        else if t = .nf4b then
          let v := nf4bValue code (o.value (scale.getD lane 0) 1) (o.value (band.getD lane 0) 2)
          Fmt.f32.flushCode flush (Fmt.f32.roundExact .rn 0 v.exact).code
        else
          match t.fmt with
          | some f => Fmt.f32.flushCode flush (Fmt.f32.roundExact .rn 0 (f.value code).exact).code
          | none => (Fmt.f32.roundExact .rn 0 (intExact (t.toInt code))).code

/-- The load writes a register pair: a 64-bit ld or gat (R90); tld always writes one register (R146). -/
def OutLoad.wide (o : OutLoad) : Bool := match o.kind with | .plain _ => o.size = 8 | _ => false

/-- What a load writes to the wave when it ends: its destination's lanes, or for topk.mrg the list image. -/
def OutLoad.writeBack (o : OutLoad) (w : Wave) : Wave :=
  let wide := o.wide
  match o.kind with
  | .image base => { w with image := (List.range 576).map (fun i =>
      match o.got.find? (fun p => p.1 = base + i) with | some p => p.2 | none => 0#8) }
  | _ =>
  if o.vec then (lanesOf o.lanes).foldl (fun w l => w.write o.dst wide l (o.laneValue l)) w
  else w.write o.dst wide 0 (o.laneValue 0)

/-- The trap record of a cause, with what the wave holds at the trap (R259). Log entry 12 (DEDUCED). -/
def trapRec (s : State) (w : Wave) (code : BitVec 6) (lanes guard : LaneMask) (addr : Dword) : TrapRec :=
  { cause := code, pc := w.pc, addr := addr, guard := guard, exec := w.exec, clk := s.clk
    laneCause := (List.range 32).map (fun i => if lanes.getLsbD i then code else 0#6) }

/-- Causes that are held in the pending mask: the asynchronous ones, and the forced save (R257). -/
def asyncCodes : List Nat := [20, 23, 25, 32, 33, 34, 35, 37, 41, 48, 50, 51, 52, 63]

/-- Make an asynchronous cause pending (R258): a second occurrence sets OVF in the held record and is lost. -/
def Wave.pendCause (w : Wave) (code : BitVec 6) (r : TrapRec) : Wave :=
  if w.pend.any (fun p => p.code = code) then
    { w with pend := w.pend.map (fun p => if p.code = code then { p with trec := { p.trec with ovf := true } } else p) }
  else { w with pend := w.pend ++ [⟨code, { r with async := true }⟩] }
def State.pendCause (s : State) (w : Nat) (code : BitVec 6) (r : TrapRec) : State :=
  s.updWave w (fun x => x.pendCause code r)
/-- The record of an asynchronous cause of a wave: its lanes are those of %exec (log entry 12). -/
def asyncRec (s : State) (w : Wave) (code : BitVec 6) (addr : Dword) : TrapRec :=
  trapRec s w code w.exec w.exec addr

/-- The load's last line has been read: the registers are written, or cause 20 is made pending when a line was
poisoned (R138). -/
def State.finishLoad (s : State) (w : Nat) (o : OutLoad) : State :=
  match s.wave? w with
  | none => s
  | some x =>
    if o.poison then s.pendCause w 20#6 (asyncRec s x 20#6 o.addr)
    else s.updWave w (fun y => o.writeBack y)

/-- The positions of block, cluster and device level that a line read observes, with the scope code and instance of
each (R278 KIND 7); a scratchpad line observes block level only. -/
def State.positions (s : State) (x : Wave) (scr : Bool) : List (Nat × Nat × Nat) :=
  match s.block? x.blk with
  | none => []
  | some b =>
    let blk := [(1, b.lin, b.seq)]
    if scr then blk
    else blk ++ (match s.cluster? b with | some c => [(2, c.num, c.seq)] | none => [])
      ++ [(3, 0, (s.part (s.partOfWave x.wid)).devSeq)]

/-- The positions that differ from those of the wave's previous loads. -/
def State.newPositions (s : State) (x : Wave) (scr : Bool) : List (Nat × Nat × Nat) :=
  (s.positions x scr).filter (fun q => x.lpos.getD q.1 0 ≠ q.2.2)

/-- A line may be read now: the log has room for its positions, and in a replay the positions not seen before are the next
ones recorded (R279, R281). -/
def State.mayRead (s : State) (x : Wave) (scr : Bool) : Bool :=
  let p := s.partOfWave x.wid
  let ps := s.newPositions x scr
  ps.isEmpty || (!replayStop (s.part p) &&
    (if (replayHead (s.part p)).isSome then
      decide (ps.length ≤ (s.part p).replay.length) && ((s.part p).replay.zip ps).all (fun x' =>
        x'.1.kind.toNat = 7 && x'.1.agent.toNat = agentOf x && x'.1.level.toNat = x'.2.1 && x'.1.inst.toNat = x'.2.2.1 && x'.1.seq.toNat = x'.2.2.2)
    else !logging (s.part p) || logRoom (s.part p) (16 * ps.length)))

/-- Record the positions that a line read observes (R278). Log entry 50 (DEDUCED). -/
def State.observe (s : State) (x : Wave) (scr : Bool) : State :=
  let p := s.partOfWave x.wid
  if !logging (s.part p) && (replayHead (s.part p)).isNone then s
  else
    (s.newPositions x scr).foldl (fun s q =>
      (s.logEntry p (plainEntry 7 q.1 0 (agentOf x) q.2.1 q.2.2)).updWave x.wid (fun y =>
        { y with lpos := y.lpos.set q.1 q.2.2 })) s

/-! ## Constant windows (R94) -/

/-- The moment as of which a wave reads a window word: not before its grid's start, never earlier than for an earlier read
of the word, and otherwise not fixed (log entry 13). A load's word is not older than what the wave's earlier loads have
seen (R72): `lo`. -/
def State.windowMoment (s : State) (w : Wave) (g : Grid) (va lo : Nat) : Nat :=
  let earlier := match w.winRead.find? (fun x => x.1 = va) with | some x => x.2 | none => 0
  max g.startedAt (max lo (max earlier (min s.now ((List.range (s.clk.toNat + 1)).foldl (fun m c => max m (Config.windowMoment w.wid va c)) 0))))

/-- A line of a window's memory has changed since the grid's start. -/
def State.windowChanged (s : State) (g : Grid) (sp : Space) (pline : Nat) : Bool :=
  s.mem.past.any (fun x => x.space = sp && x.line = pline && decide (g.startedAt < x.upTo))

/-- The grid of a wave. -/
def State.gridOf (s : State) (w : Wave) : Option Grid := (s.block? w.blk).bind (fun b => s.grid? b.grid)

/-- The words of a line that an ld.c reads, each with the moment as of which it reads it; none for a line that has not changed,
whose words have one value. Log entry 13 (DESIGN CHOICE). -/
def State.windowReads (s : State) (w : Wave) (r : LineRef) (wants : Nat → Bool) : List (Nat × Nat) :=
  match s.gridOf w with
  | none => []
  | some g =>
    if s.windowChanged g r.space r.pline then
      ((List.range 16).filter (fun j => (List.range 4).any (fun i => wants (4 * j + i)))).map (fun j =>
        (64 * r.line + 4 * j, s.windowMoment w g (64 * r.line + 4 * j) w.seen))
    else []

/-- Read one line of a window for an ld.c (R94). Log entries 13 (DESIGN CHOICE), 56 (DEDUCED). -/
def State.readWindow (s : State) (w : Wave) (r : LineRef) (wants : Nat → Bool) : LineRead :=
  let ms := s.windowReads w r wants
  let at_ (i : Nat) : Byte :=
    match ms.find? (fun x => x.1 = 64 * r.line + i / 4 * 4) with
    | some x => s.byteAt r.space (64 * r.pline + i) x.2
    | none => s.devByte r.space (64 * r.pline + i)
  { data := (List.range 64).map at_, bad := if s.poisonedAt r.space r.pline then List.range 64 else []
    seen := ms.foldl (fun m x => max m x.2) w.seen, fresh := false }

/-- Read the `k`-th line that the oldest load of a wave still waits for (R71, R72): bytes not found in the wave's own
buffer come from below it. When none remains the load ends. -/
def State.returnLine (s : State) (w k : Nat) (clean : Bool) : State :=
  match s.wave? w with
  | none => s
  | some x =>
    match x.loads with
    | [] => s
    | o :: rest =>
      match o.remain[k]? with
      | none => if o.remain.isEmpty then (s.updWave w (fun y => { y with loads := rest })).finishLoad w o else s
      | some r =>
        let open_ (i : Nat) : Bool := o.wants (64 * r.line + i) && !o.got.any (fun p => p.1 = 64 * r.line + i)
        let rd := if o.window then s.readWindow x r open_ else s.readLine x r clean o.direct open_
        let news := (List.range 64).filterMap (fun i =>
          let a := 64 * r.line + i
          if o.got.any (fun p => p.1 = a) then none else some (a, rd.data.getD i 0#8))
        let bad := (rd.bad.filter open_).map (fun i => 64 * r.line + i)
        let o' := { o.zeroHelpers bad with
          got := o.got ++ news, remain := o.remain.eraseIdx k, poison := o.poison || bad.any o.mainWants }
        let s := s.observe x r.scr
        let s := if o.window then s.updWave w (fun y => { y with winRead := s.windowReads x r open_ ++ y.winRead }) else s
        let s := if rd.fresh && !o.direct && !r.scr && !o.noCopy then s.fillCopies x r else s
        let s := s.updWave w (fun y => { y with seen := rd.seen, loads := if o'.remain.isEmpty then rest else o' :: rest })
        if o'.remain.isEmpty then s.finishLoad w o' else s

/-! ## System accesses (R383, R384, R389) -/

/-- INFO0 of cause 25 (R260). -/
def sysInfo : Space → Word
  | .hbm => 0#32
  | .host => 1#32
  | .peer => 2#32
  | .tier => 3#32

/-- The record of cause 25 (R260). -/
def sysRec (s : State) (x : Wave) (sp : Space) (a : Nat) : TrapRec := { asyncRec s x 25#6 (dword a) with info0 := sysInfo sp }

/-- The asynchronous causes of an access that has passed its translation: poison, and a system access that fails (R257). -/
def accessAsync (code : BitVec 6) : Bool := code = 20#6 || code = 25#6
/-- Their record: a failed access names the home of its page (R260), a poisoned fetch has bit 0 of INFO0 set. -/
def accessRec (s : State) (x : Wave) (acc : Access) (code : BitVec 6) (a : Dword) : TrapRec :=
  let home : Word := match s.translate x.core (s.partOfWave x.wid) acc a.toNat with | .ok pl => sysInfo pl.space | .error _ => 0#32
  { asyncRec s x code a with info0 := if code = 25#6 then home else if acc = .fetch then 1#32 else 0#32 }

/-- The oldest load of a wave is answered with an error on its `k`-th line, or not in time: it writes no register, and cause
25 is pending (R389); where only helper lanes read the line, they receive 0 and the load goes on (R23). Log entry 99 (DEDUCED). -/
def State.failLoad (s : State) (w k : Nat) : State :=
  match s.wave? w with
  | none => s
  | some x =>
    match x.loads with
    | [] => s
    | o :: rest =>
      match o.remain[k]? with
      | none => s
      | some r =>
        let as := ((List.range 64).map (fun i => 64 * r.line + i)).filter (fun a => !o.got.any (fun p => p.1 = a))
        if as.any o.mainWants then
          let a := ((o.addrs.filterMap id).find? (fun a => a / 64 = r.line)).getD (64 * r.line)
          (s.updWave w (fun y => { y with loads := rest })).pendCause w 25#6 (sysRec s x r.space a)
        else
          let o' := { o.zeroHelpers as with remain := o.remain.eraseIdx k }
          let s := s.updWave w (fun y => { y with loads := if o'.remain.isEmpty then rest else o' :: rest })
          if o'.remain.isEmpty then s.finishLoad w o' else s

/-- A line of the oldest load, as it must end: one of an extent that is gone with an error. -/
def State.endLine (s : State) (w k : Nat) : State :=
  match (s.wave? w).bind (fun x => x.loads.head?.bind (fun o => o.remain[k]?)) with
  | some r => if s.extentHere r.space r.pline then s.returnLine w k false else s.failLoad w k
  | none => s.returnLine w k false

/-- Complete every outstanding load of a wave, oldest first, reading device level directly (R159, R262).
Log entry 50 (DEDUCED). -/
def State.drainLoads (s : State) (w : Nat) : State :=
  match s.wave? w with
  | none => s
  | some x =>
    let n := x.loads.foldl (fun acc o => acc + o.remain.length + 1) 0
    (List.range n).foldl (fun s _ => s.endLine w 0) s

/-- A line that an outstanding load of a wave waits for is behind a link or at a stack that answers nothing now (R413). -/
def State.drainHeld (s : State) (w : Nat) : Bool :=
  match s.wave? w with
  | none => false
  | some x => x.loads.any (fun o => o.remain.any (fun r => !r.scr && (s.linkWaits r.space r.pline || s.stackHeld r.space r.pline)))
/-- The lines that the outstanding loads of a wave still wait for may be read now (R279, R281, R413). -/
def State.mayDrain (s : State) (w : Nat) : Bool :=
  match s.wave? w with
  | none => true
  | some x => !s.drainHeld w && x.loads.all (fun o => o.remain.all (fun r => s.mayRead x r.scr))
/-- They may not: the first wait for room in the order log is reported (R281). -/
def State.drainWaits (s : State) (w : Nat) : State := if s.drainHeld w then s else s.logFull (s.partOfWave w)

/-! ## Taking an exception (R258-R262) -/

/-- What a cause reports (R257, R260). `lanes` are the lanes marked with the cause; `laneCause`, when not empty, gives
each lane its own. -/
structure Trap where
  code : BitVec 6
  lanes : LaneMask := 0#32
  laneCause : List (BitVec 6) := []
  addr : Dword := 0#64
  detail : BitVec 16 := 0#16
  orig : BitVec 6 := 0#6
  info0 : Word := 0#32
  info1 : Word := 0#32
  aux : Dword := 0#64
  deriving DecidableEq, Repr

/-- The record of an issue cause. -/
def Trap.record (t : Trap) (s : State) (w : Wave) (guard : LaneMask) : TrapRec :=
  let r := trapRec s w t.code t.lanes guard t.addr
  { r with
    laneCause := if t.laneCause.isEmpty then r.laneCause else t.laneCause
    detail := t.detail, orig := t.orig, info0 := t.info0, info1 := t.info1, aux := t.aux }

/-- PC and EPC are bits [56:0] (R259, R265). -/
def lowPc (pc : Dword) : Dword := pc &&& 0x1FFFFFFFFFFFFFF#64

/-- The bits of each word of a trap record that are not reserved (R259). -/
def trecMask (i : Nat) : Dword :=
  match i with
  | 0 => 0x0000FFFF003FF83F#64
  | 1 => 0x1FFFFFFFFFFFFFF#64
  | 11 | 12 | 13 | 14 | 15 => 0#64
  | _ => BitVec.allOnes 64

/-- The sixteen words of a trap record (R259). -/
def TrapRec.words (r : TrapRec) : List Dword :=
  let b (x : Bool) (i : Nat) : Nat := if x then 2 ^ i else 0
  let w0 := dword (r.detail.toNat * 2 ^ 32 + r.orig.toNat * 2 ^ 16 + b r.save 15 + b r.restore 14 + b r.inhnd 13
    + b r.async 12 + b r.ovf 11 + r.cause.toNat)
  let lane (k : Nat) : Dword := dword (leNat ((List.range 8).map (fun i =>
    BitVec.ofNat 8 (r.laneCause.getD (8 * k + i) 0#6).toNat)))
  [w0, lowPc r.pc, r.addr, r.info1 ++ r.info0, lane 0, lane 1, lane 2, lane 3, r.guard ++ r.exec, r.clk, r.aux,
   0#64, 0#64, 0#64, 0#64, 0#64]

/-- HANDLER of a wave's context. -/
def State.handler (s : State) (w : Nat) : Dword :=
  match (s.part (s.partOfWave w)).ctx with | some c => c.handler | none => 0#64

/-- The record of cause 63: of the cause-specific fields only ORIG and DETAIL (R260). -/
def TrapRec.checked (r : TrapRec) : TrapRec :=
  { r with cause := 63#6, addr := 0#64, info0 := 0#32, info1 := 0#32, aux := 0#64, save := false, restore := false }

/-- Cause 63 (R261): the wave stops issuing with stall reason 1 and its record goes to the fault queue. -/
def State.machineCheck (s : State) (w : Nat) (r : TrapRec) (addr : Dword) : State :=
  match s.wave? w with
  | none => s
  | some x =>
    (s.updWave w (fun y => { y with stopped := true, mcheck := true, stall := 1#4, trec := r.checked.words })).postFault
      (s.partOfWave w) 2 63#6 addr (agentOf x) x.core

/-- A wait that an asynchronous cause interrupts and that is waited again (R258): not a sleep, which has ended, nor a stall before an
instruction. -/
def Wait.kept (x : Wait) : Bool := x ≠ .no && x ≠ .scoreboard && x ≠ .fetch && x ≠ .queue && x ≠ .sleep

/-- The eight entries of a stack set aside, the oldest first; an entry above the depth is 0 (log entry 18). -/
def setAside (st : List (Dword × LaneMask)) : List (Dword × LaneMask) :=
  st.reverse ++ List.replicate (8 - st.length) (0#64, 0#32)

/-- Entry to the handler (R262): the outstanding loads complete, the record is written, the user's pc, mode, mask and
stack are set aside, HND and TMASK are set, every lane executes and the wave stands at HANDLER. `us` and `ua` are what
the model keeps of an interrupted wait; the wait itself goes on after `rte` (R39, R258). Log entry 18 (DEDUCED). -/
def State.enterHandler (s : State) (w : Nat) (r : TrapRec) (ph : Phase) (us ua : Nat) : State :=
  let s := s.drainLoads w
  let h := s.handler w
  s.updWave w (fun x => { x with
    trec := r.words, epc := lowPc r.pc, emode := x.mode, eexec := x.exec, estack := setAside x.stack, edepth := x.stack.length
    upc := lowPc r.pc, mode := x.mode ||| 0x300#32, exec := BitVec.allOnes 32, stack := [], pc := h, phase := ph
    stage := 0, aux := 0, issued := none, uwait := if r.async && x.wait.kept then x.wait else .no
    ustage := us, uaux := ua, uissued := if us = 0 then none else x.issued
    wait := .no, stall := 0#4 })

/-- A step that must first complete the wave's outstanding loads waits while they cannot be read, or their positions cannot be logged
or are not next in a replay (R279, R281, R413). -/
def State.waitDrain (s : State) (w : Nat) : State :=
  match s.wave? w with
  | none => s
  | some x => (s.drainWaits w).updWave w (fun y => { y with wait := if x.stage = 0 && x.wait = .no then .queue else x.wait, stall := 9#4 })

/-- A fault of a handler's access inside its wave's slot of the save area is cause 52 (R268). -/
def State.saveFault (s : State) (w : Wave) (t : Trap) : Bool :=
  match w.saveUnit, (s.part (s.partOfWave w.wid)).ctx with
  | some u, some c => w.phase = .save && (t.code = 4#6 || (decide (16 ≤ t.code.toNat) && decide (t.code.toNat ≤ 19)) || t.code = 24#6) &&
      decide (c.saveBase.toNat / 65536 + u = t.addr.toNat / 65536)
  | _, _ => false

/-- An issue cause (R158, R257, R262): with traps masked it is cause 63 with the cause in ORIG; otherwise the wave
enters its handler with EPC at the instruction. Log entry 53 (DEDUCED). -/
def State.raise (s : State) (w : Nat) (guard : LaneMask) (t : Trap) : State :=
  match s.wave? w with
  | none => s
  | some x =>
    let r := t.record s x guard
    if x.tmask then s.machineCheck w { r with orig := if s.saveFault x t then 52#6 else t.code, detail := 0#16 } t.addr
    else if !s.mayDrain w then s.waitDrain w
    else s.enterHandler w r .plain 0 0

/-! ## Gecko results and saves (R365, R366) -/

/-- Registers that a read's result goes to. -/
def GkRead.dests (r : GkRead) : List (BitVec 9) := if r.isEval then [r.dst, r.dst + 1#9] else [r.dst]
/-- The reads of a wave, on every stack. Log entry 92 (DEDUCED). -/
def State.gkReads (s : State) (w : Nat) : List GkRead := s.stks.flatMap (fun st => st.reads.filter (fun r => r.wid = w))
/-- An accepted update of the wave is not performed yet. -/
def State.gkPending (s : State) (w : Nat) : Bool := s.stks.any (fun st => st.updates.any (fun u => u.wid = w))
def State.gkMark (s : State) (w : Nat) (b : Bool) : State :=
  { s with stks := s.stks.map (fun (st : Stack) => { st with reads := st.reads.map (fun (r : GkRead) => if r.wid = w then { r with withdrawn := b } else r) }) }
/-- A save withdraws the wave's waiting reads and releases their destinations. Log entry 92 (DEDUCED). -/
def State.gkWithdraw (s : State) (w : Nat) : State :=
  let ds := (s.gkReads w).flatMap GkRead.dests
  if (s.gkReads w).isEmpty then s
  else (s.gkMark w true).updWave w (fun x => { x with claims := ds.foldl List.erase x.claims, topkClaims := 0 })
/-- The core sends the wave's withdrawn reads again. Log entry 92 (DEDUCED). -/
def State.gkResend (s : State) (w : Nat) : State :=
  let rs := (s.gkReads w).filter GkRead.withdrawn
  if rs.isEmpty then s
  else (s.gkMark w false).updWave w (fun x => { x with
    claims := x.claims ++ rs.flatMap GkRead.dests, topkClaims := x.topkClaims + rs.countP GkRead.topk })

/-- `rte` (R264), once %acks is 0: mode, %exec, the stack and the pc are the ones set aside; a wait that an
asynchronous cause interrupted is found again as it was. Log entry 18 (DEDUCED). -/
def State.returnFromHandler (s : State) (w : Nat) : State :=
  let s : State := match s.wave? w with | some x => if x.phase = Phase.restore then s.gkResend w else s | none => s
  s.updWave w (fun x => { x with
    mode := x.emode, exec := x.eexec, stack := (x.estack.take x.edepth).reverse, pc := x.epc, phase := .plain
    saveUnit := if x.phase = .restore then none else x.saveUnit
    stage := if x.epc = x.upc then x.ustage else 0, aux := if x.epc = x.upc then x.uaux else 0
    issued := if x.epc = x.upc then x.uissued else none, wait := if x.epc = x.upc then x.uwait else .no
    uwait := .no, ustage := 0, uaux := 0, uissued := none, stall := 0#4
    lastIssue := s.clk, starved := 0, barked := false })

end Sys2Proof.Machine
end

