-- ==== Sys2Proof/Machine/Operands.lean ====
section
/-! DEFINITION. Every operand form (R86-R95, R108, R137): what an instruction of a wave sees when it issues, the value of
each selector, effective addresses, guards, and the frame in which every meaning of a SIMT instruction runs (`simt`):
R103's check, R95's guard, the constant-window operand, and how an instruction ends. -/

namespace Sys2Proof.Machine

/-- What an instruction sees: the wave, its block and grid, its word, its guarded lanes, and what it took at its issue. -/
structure Cx where
  s : State
  w : Wave
  b : Block
  g : Grid
  op : Nat
  e : Enc
  sh : Shape
  vec : Bool
  /-- The lanes with lane_on(L) (R95). -/
  lanes : LaneMask
  /-- The words of its constant-window operand and the special registers, as at its issue (R92, R94). -/
  iv : AtIssue
  deriving DecidableEq, Repr

/-- How a meaning ends. -/
inductive Res where
  /-- Performed: the wave goes on at the next instruction. -/
  | done (s : State)
  /-- Performed: the wave goes on elsewhere. -/
  | jump (s : State) (pc : Dword)
  /-- An issue cause, with no effect. -/
  | trap (t : Trap)
  /-- An issue cause after effects that stand. -/
  | trapAt (s : State) (t : Trap)
  /-- The wave waits in the instruction, with a stall reason (R64) and its place in it. -/
  | wait (s : State) (why : Wait) (reason stage aux : Nat)
  /-- The wave has left, stopped or entered its handler. -/
  | gone (s : State)
  deriving DecidableEq, Repr

/-- The partition and the class of a context's wave. -/
def Cx.part (c : Cx) : Nat := c.g.launch.part
def Cx.wid (c : Cx) : Nat := c.w.wid
/-- The launch record of the wave's grid. -/
def Cx.lrec (c : Cx) : LaunchRec := c.g.launch.record
/-- Tiles of the block's allotment. -/
def Cx.ntiles (c : Cx) : Nat := c.b.ntiles
/-- The lanes of k0 with lane_on (R95, R129). -/
def Cx.active (c : Cx) : LaneMask := c.w.k0 &&& c.lanes
/-- A helper lane (R22, R23). -/
def Cx.helper (c : Cx) (l : Nat) : Bool := c.w.exec.getLsbD l && !c.w.k0.getLsbD l
/-- A cause that marks every lane of %exec. Log entry 38 (DEDUCED). -/
def Cx.all (c : Cx) (code : BitVec 6) : Trap := { code := code, lanes := c.w.exec }

/-! ## Guards (R95) -/

/-- lane_on. -/
def laneOn (w : Wave) (e : Enc) : LaneMask :=
  if e.gmask = 0#3 then (if e.ginv then 0#32 else w.exec)
  else
    let k := w.kget e.gmask.toNat
    w.exec &&& (if e.ginv then ~~~k else k)

/-! ## Special registers (R92) -/

/-- The value of a special register in a lane. -/
def Cx.special (c : Cx) (n lane : Nat) : Nat :=
  let r := c.lrec
  match n with
  | 392 => lane
  | 393 => lane / 4
  | 394 => c.w.windex
  | 395 => c.iv.nwaves
  | 396 => c.b.lin % r.gx
  | 397 => c.b.lin / r.gx % r.gy
  | 398 => c.b.lin / (r.gx * r.gy)
  | 399 => r.gx
  | 400 => r.gy
  | 401 => r.gz
  | 402 => c.w.core
  | 403 => dieOf c.w.core
  | 404 => c.iv.clk.toNat
  | 405 => if c.iv.preq then 1 else 0
  | 406 => c.iv.bconf.toNat
  | 407 => c.iv.acks
  | 408 => c.w.exec.toNat
  | 409 => c.b.lin % (r.cluster + 1)
  | 410 => groupInDie c.w.core
  | 411 => c.w.role.toNat
  | 412 => c.b.lin
  | _ => 0

/-! ## Inline constants (R91) -/

/-- The FP32 pattern of a floating constant. -/
def inlineF32 (n : Nat) : Nat :=
  [0x3F000000, 0xBF000000, 0x3F800000, 0xBF800000, 0x40000000, 0xC0000000, 0x40800000, 0xC0800000, 0x3E800000,
   0x41000000, 0x7F800000, 0xFF800000, 0x7FC00000, 0x40490FDB, 0x3F317218, 0x3FB8AA3B].getD (n - 496) 0

/-- The bits that an inline constant supplies to an operand of a type. -/
def inlineBits (t : Ty) (x : Sel) : Nat :=
  match x with
  | .int i =>
    match t.fmt with
    | none => (i % (2 ^ t.width : Nat)).toNat
    | some f =>
      if f = .f32 || f = .f16 || f = .bf16 then (f.roundExact .rn 0 (intExact i)).code
      else (f.convert .rn 0 false (intExact i)).code
  | .fp n =>
    let x := (Fmt.f32.value (inlineF32 n)).exact
    match t.fmt with
    | none => inlineF32 n % 2 ^ t.width
    | some .f32 => inlineF32 n
    | some .f16 => (Fmt.f16.roundExact .rn 0 x).code
    | some .bf16 => (Fmt.bf16.roundExact .rn 0 x).code
    | some f => (f.convert .rn 0 false x).code
  | _ => 0

/-! ## Operands (R88, R90, R108 `src`) -/

/-- The extension word's value for an operand of a type (R88). -/
def Cx.extBits (c : Cx) (t : Ty) : Nat :=
  match c.e.ext with
  | none => 0
  | some x =>
    match (x.extractLsb' 62 2).toNat with
    | 0 =>
      let imm := x.extractLsb' 0 32
      if t = .i64 then (imm.signExtend 64).toNat else imm.toNat % 2 ^ t.width
    | 1 => if t.width = 64 then c.iv.win.toNat else c.iv.win.toNat % 2 ^ 32 % 2 ^ t.width
    | _ => ((x.extractLsb' 0 48).signExtend 64).toNat % 2 ^ t.width

/-- `src(f, L, T)`: the bits of a source selector in a lane at a type. A k register, which is read as a uniform 32-bit value,
is zero-extended to a 64-bit operand. Log entry 115 (DESIGN CHOICE). -/
def Cx.src (c : Cx) (x : BitVec 10) (t : Ty) (lane : Nat) : Nat :=
  let wide := t.width = 64
  match Sel.of x with
  | .v n =>
    if wide then (c.w.vget (n + 1) lane).toNat * 2 ^ 32 + (c.w.vget n lane).toNat
    else (c.w.vget n lane).toNat % 2 ^ t.width
  | .s n => if wide then (c.w.spair n).toNat else (c.w.sget n).toNat % 2 ^ t.width
  | .k n => (c.w.kget n).toNat % 2 ^ t.width
  | .special n => c.special n lane % 2 ^ t.width
  | .ext => c.extBits t
  | i => inlineBits t i

/-- The lane that a scalar form reads a per-lane register in: the lowest lane of k0 with lane_on (R117).
Log entry 35 (DEDUCED). -/
def Cx.lane0 (c : Cx) : Nat := (lowestLane c.active).getD 0
/-- A uniform operand. Log entry 35 (DEDUCED). -/
def Cx.uni (c : Cx) (x : BitVec 10) (t : Ty) : Nat := c.src x t c.lane0
/-- A uniform 32-bit operand. -/
def Cx.n32 (c : Cx) (x : BitVec 10) : Nat := c.uni x .n32
/-- A uniform address: an even s pair, KIND 10 or the inline 0. -/
def Cx.addr (c : Cx) (x : BitVec 10) : Nat := c.uni x .b64

/-! ## Effective addresses (R108 `ea`, R137, R144) -/

/-- An offset: registers zero-extended, immediates sign-extended. -/
def Cx.offset (c : Cx) (x : BitVec 10) (lane : Nat) : Nat :=
  match Sel.of x with
  | .v n => (c.w.vget n lane).toNat
  | .s n => (c.w.sget n).toNat
  | _ => ((BitVec.ofNat 32 (c.src x .b32 lane)).signExtend 64).toNat

/-- The global address of a lane, modulo 2^64. -/
def Cx.ea (c : Cx) (lane : Nat) : Nat := (c.src c.e.a .b64 lane + c.offset c.e.b lane) % 2 ^ 64
/-- The scratchpad address of a lane, modulo 2^32. -/
def Cx.eaScr (c : Cx) (lane : Nat) : Nat := (c.src c.e.a .n32 lane + c.offset c.e.b lane) % 2 ^ 32

/-- The index of a gather or scatter, read at i32 (R144). -/
def Cx.index (c : Cx) (lane : Nat) : Int := Ty.i32.toInt (c.src c.e.b .i32 lane)
/-- The null index. -/
def nullIndex : Int := -(2 ^ 31 : Nat)
/-- base + sext(idx) x size, modulo 2^64 or 2^32. -/
def Cx.gatherAddr (c : Cx) (scr : Bool) (size lane : Nat) : Nat :=
  if scr then (((c.src c.e.a .n32 lane : Nat) + c.index lane * size) % (2 ^ 32 : Nat)).toNat
  else (((c.src c.e.a .b64 lane : Nat) + c.index lane * size) % (2 ^ 64 : Nat)).toNat

/-! ## Constant windows (R94) -/

/-- The extension word names a window operand, and how many words of it the instruction reads. -/
def windowWords (sh : Shape) (e : Enc) : Nat :=
  match e.ext with
  | none => 0
  | some x =>
    let read (kind : Src) (f : BitVec 10) : Bool := f = 1023#10 && (match kind with | .unread _ | .srcType => false | _ => true)
    if (x.extractLsb' 62 2).toNat ≠ 1 || !(read sh.a e.a || read sh.b e.b || (!sh.branch && read sh.c e.c)) then 0
    else
      let wide (kind : Src) (f : BitVec 10) : Bool :=
        f = 1023#10 && (kind = .any true || kind = .uniAny true || kind = .pair64)
      if wide sh.a e.a || wide sh.b e.b || (!sh.branch && wide sh.c e.c) then 2 else 1

/-- Word `n` of window `k` of a grid: 0 at or beyond WIN_SIZE, else the word at device level as it stood at the moment that
the wave's reads of it have come to, or the fault of an ordinary load of it. A word that nothing has been stored to since
the grid's start has the one value. Log entries 13 (DESIGN CHOICE), 56 (DEDUCED). -/
def State.windowWord (s : State) (w : Wave) (g : Grid) (k n : Nat) : Except (BitVec 6 × Nat) Word :=
  let r := g.launch.record
  if r.winSize.getD k 0 ≤ n then .ok 0#32
  else
    let va := ((r.winBase.getD k 0#64).toNat + 4 * n) % 2 ^ 64
    match s.translate w.core g.launch.part .load va with
    | .error c => .error (c, va)
    | .ok pl =>
      if !s.extentHere pl.space (pl.pa / 64) then .error (25#6, va)
      else if s.poisonedAt pl.space (pl.pa / 64) then .error (20#6, va)
      else if s.windowChanged g pl.space (pl.pa / 64) then
        .ok (word (leNat ((List.range 4).map (fun i => s.byteAt pl.space (pl.pa + i) (s.windowMoment w g va 0)))))
      else .ok (word (leNat (s.devBytes pl.space pl.pa 4)))

/-- The window operand of an instruction: one or two words, low first. Log entry 13 (DESIGN CHOICE). -/
def State.windowOperand (s : State) (w : Wave) (g : Grid) (e : Enc) : (words : Nat) → Except (BitVec 6 × Nat) Dword
  | 0 => .ok 0#64
  | n + 1 =>
    let x := e.ext.getD 0#64
    let k := (x.extractLsb' 17 3).toNat
    let off := (x.extractLsb' 0 17).toNat
    match s.windowWord w g k off with
    | .error f => .error f
    | .ok lo =>
      if n = 0 then .ok (lo.zeroExtend 64)
      else match s.windowWord w g k (off + 1) with | .error f => .error f | .ok hi => .ok (hi ++ lo)

/-! ## Ending an instruction -/

/-- The wave goes on at a pc; its place inside an instruction is cleared. -/
def State.advance (s : State) (w : Nat) (pc : Dword) : State :=
  s.updWave w (fun x => { x with
    pc := pc, stage := 0, aux := 0, issued := none, wait := .no, stall := 0#4, starved := 0, lastIssue := s.clk, barked := false })

/-- What an instruction took at its issue is kept while it waits (R92), unless it has kept it already. -/
def State.keepIssue (s : State) (w : Nat) (iv : AtIssue) : State :=
  s.updWave w (fun x => { x with issued := if x.issued.isSome then x.issued else some iv })

/-- A cause after effects that stand: while it waits to be taken, the instruction stands past those effects (stage 8). -/
def State.after8 (s : State) (w : Nat) (iv : AtIssue) : State :=
  if s.mayDrain w then s else (s.keepIssue w iv).updWave w (fun x => { x with stage := 8 })

/-- The wave waits in its instruction. -/
def State.stallWave (s : State) (w : Nat) (why : Wait) (reason stage aux : Nat) : State :=
  s.updWave w (fun x => { x with wait := why, stall := BitVec.ofNat 4 reason, stage := stage, aux := aux })

/-- The pc after an instruction of the wave (R86). -/
def nextPc (w : Wave) (e : Enc) : Dword := w.pc + (if e.ext.isSome then 16#64 else 8#64)

/-- What a meaning's end does to the machine. Log entry 51 (DEDUCED). -/
def Res.finish (r : Res) (c : Cx) : State :=
  match r with
  | .done s => s.advance c.wid (nextPc c.w c.e)
  | .jump s pc => s.advance c.wid pc
  | .trap t => c.s.raise c.wid c.lanes t
  | .trapAt s t => (s.after8 c.wid c.iv).raise c.wid c.lanes t
  | .wait s why reason stage aux => (if stage = 0 then s else s.keepIssue c.wid c.iv).stallWave c.wid why reason stage aux
  | .gone s => s

/-- A fault of an instruction's own reads of memory: poison and an extent that is gone are asynchronous causes, with which it
completes without effect (R138, R257, R384). Log entry 86 (DEDUCED). -/
def Cx.failsAt (c : Cx) (s : State) (t : Trap) : Res :=
  if accessAsync t.code then .done (s.pendCause c.wid t.code (accessRec s c.w .load t.code t.addr)) else .trapAt s t
def Cx.fails (c : Cx) (t : Trap) : Res :=
  if accessAsync t.code then .done (c.s.pendCause c.wid t.code (accessRec c.s c.w .load t.code t.addr)) else .trap t

/-- Opcodes that act lane by lane in vector form; every other opcode is performed whole (R95). -/
def laneForm (op : Nat) : Bool :=
  decide (op < 0x46) || op = 0x47 || (decide (0x60 ≤ op) && decide (op ≤ 0x6A)) ||
    (decide (0x90 ≤ op) && decide (op ≤ 0x98)) || op = 0xA3 || op = 0xD9 || op = 0xDB

/-- Opcodes that write their whole result even when no lane qualifies: ballot and match, which are not scalar in form whatever
their source (R131), and a wred of a vector source (R129). Log entry 33 (DEDUCED). -/
def wholeForm (op : Nat) (vec : Bool) : Bool := op = 0x48 || op = 0x4C || (op = 0x46 && vec)

/-- R95: the instruction is performed, or acts in some lane. Log entry 33 (DEDUCED). -/
def isPerformed (op : Nat) (vec : Bool) (lanes active : LaneMask) : Bool :=
  if op = 0x52 || op = 0x81 then true
  else if op = 0x51 then lanes ≠ 0#32
  else if wholeForm op vec then true
  else if laneForm op && vec then lanes ≠ 0#32
  else active ≠ 0#32

/-- The vector registers of a wave's allotment, and its scalar registers. -/
def Wave.nv (w : Wave) : Nat := w.vregs.length
def Wave.ns (w : Wave) : Nat := w.sregs.length

/-- The instruction reads %clk. -/
def readsClk (sh : Shape) (e : Enc) : Bool :=
  let r (kind : Src) (x : BitVec 10) : Bool := (match kind with | .unused | .srcType | .unread _ => false | _ => true) && x = 404#10
  r sh.a e.a || r sh.b e.b || (!sh.branch && r sh.c e.c)

/-- A read of %clk is logged, and in a replay it reads the logged value (R278, R279): the value and the state after. -/
def State.clockRead (s : State) (w : Wave) (p : Nat) : Dword × State :=
  let v := match replayHead (s.part p) with
    | some e => if e.kind = 6#8 && e.agent.toNat = agentOf w then e.words.getD 0 s.clk else s.clk
    | none => s.clk
  (v, s.logEntry p { plainEntry 6 0 1 (agentOf w) 0 0 with words := [v] })

/-- What an instruction takes at its issue (R92, R94): the words of its constant-window operand, or the fault of reading them,
and the special registers, with the state after; none when a read of %clk has to wait for the log or its place in a
replay. -/
def State.takeOperands (s : State) (w : Wave) (b : Block) (g : Grid) (sh : Shape) (e : Enc) :
    Except (BitVec 6 × Nat) (Option (AtIssue × State)) :=
  let p := g.launch.part
  match s.windowOperand w g e (windowWords sh e) with
  | .error f => .error f
  | .ok x =>
    if readsClk sh e && !s.mayStep p 6 (agentOf w) 32 then .ok none
    else
      let (v, s') := if readsClk sh e then s.clockRead w p else (s.clk, s)
      .ok (some ({ win := x, clk := v, preq := w.preq, bconf := b.bconf, acks := w.acks, nwaves := b.members.length }, s'))

/-- What an instruction took at its issue, or takes now. -/
def State.operandsNow (s : State) (w : Wave) (b : Block) (g : Grid) (sh : Shape) (e : Enc) :
    Except (BitVec 6 × Nat) (Option (AtIssue × State)) :=
  match w.issued with
  | some iv => .ok (some (iv, s))
  | none => s.takeOperands w b g sh e

/-- The last register of gk.eval's block, which holds as many tables as its first register says, lies within SREGS (R354). -/
def evalBlockOk (w : Wave) (op : Nat) (e : Enc) : Bool :=
  op ≠ 0xD6 || (match Sel.of e.a with | .s m => decide (m + 4 + 2 * (w.sget m).toNat ≤ w.ns) | _ => true)

/-- Neither the word nor what it says of the wave's registers is an encoding error (R103, R354). -/
def Wave.wordOk (w : Wave) (op : Nat) (sh : Shape) (e : Enc) : Bool := encodingOk w.nv w.ns sh e && evalBlockOk w op e

/-- The frame of every SIMT instruction: R103's check, then the guard of R95, then what it takes at its issue (R92, R94), then
the meaning. An instruction that is not performed takes its issue slot and its words; one that has issued and goes on
keeps what it took. -/
def simt (op : Nat) (e : Enc) (s : State) (body : Cx → Res) : Host.Outcome State Fault Refusal :=
  match s.cur with
  | none => .fault .noWave
  | some wid =>
    match s.wave? wid with
    | none => .fault .noWave
    | some w =>
      match s.block? w.blk with
      | none => .fault .noWave
      | some b =>
        match s.grid? b.grid with
        | none => .fault .noWave
        | some g =>
          let sh := opShape op e
          let lanes := laneOn w e
          let vec := isVector sh e
          let all (code : BitVec 6) : Trap := { code := code, lanes := w.exec }
          if !w.wordOk op sh e then .next (s.raise wid lanes (all 1#6))
          else if !modifierOk sh e then .next (s.raise wid lanes (all 2#6))
          else if !isPerformed op vec lanes (w.k0 &&& lanes) then .next (s.advance wid (nextPc w e))
          else
            match s.operandsNow w b g sh e with
            | .error (code, va) =>
              if accessAsync code then .next ((s.pendCause wid code (accessRec s w .load code (dword va))).advance wid (nextPc w e))
              else .next (s.raise wid lanes { all code with addr := dword va })
            | .ok none => .next ((s.logFull g.launch.part).stallWave wid .queue 9 0 0)
            | .ok (some (iv, s')) =>
              let c : Cx := { s := s', w := w, b := b, g := g, op := op, e := e, sh := sh, vec := vec, lanes := lanes, iv := iv }
              .next ((body c).finish c)

end Sys2Proof.Machine
end

