-- ==== Sys2Proof/Machine/Flags.lean ====
section
/-! DEFINITION. Every condition and mask computation: COND on integers and floating values (R115, R121, R132), class
membership (R119), how a k register takes the bits of some lanes, and the conflict state %bconf (R93, R149). -/

namespace Sys2Proof.Machine

/-- COND on integers, by its code: .eq, .ne, .lt, .le, .gt, .ge (R98, R115). -/
def condInt (cond : Nat) (a b : Int) : Bool :=
  match cond with
  | 0 => a = b
  | 1 => a ≠ b
  | 2 => a < b
  | 3 => a ≤ b
  | 4 => b < a
  | 5 => b ≤ a
  | _ => false

/-- COND on floating values (R121): with a NaN only .ne and .un hold; zeros of both signs are equal. -/
def condFp (cond : Nat) (a b : Fp) : Bool :=
  if a = .nan || b = .nan then cond = 1 || cond = 6
  else
    match cond with
    | 0 => Fp.eq a b
    | 1 => !Fp.eq a b
    | 2 => Fp.lt a b
    | 3 => !Fp.lt b a
    | 4 => Fp.lt b a
    | 5 => !Fp.lt a b
    | 7 => true
    | _ => false

/-- COND on the bits of two operands of a type; a floating operand is flushed first under FLUSH (R116, R121).
Log entry 127 (DEDUCED). -/
def condBits (t : Ty) (flush : Bool) (cond a b : Nat) : Bool :=
  match t.fmt with
  | some f => condFp cond (f.value (f.flushCode flush a)) (f.value (f.flushCode flush b))
  | none => condInt cond (t.toInt a) (t.toInt b)

/-- The class of a code (R119): the bit of the set that stands for it. -/
def classBit (f : Fmt) (code : Nat) : Nat :=
  let neg := bit code f.signBit
  match f.value code with
  | .nan => if bit code (f.mbits - 1) then 8 else 9
  | .inf _ => if neg then 0 else 7
  | .fin _ m _ => if m = 0 then (if neg then 3 else 4)
    else if f.isSubnormal code then (if neg then 2 else 5)
    else (if neg then 1 else 6)

/-- A k register takes the bits of some lanes and keeps the others (R115). -/
def maskInsert (old : Word) (lanes : LaneMask) (bits : LaneMask) : Word := (old &&& ~~~lanes) ||| (bits &&& lanes)

/-- A sibling conflict: CFLAG is set and CCOUNT rises by 1, saturating (R93, R149). -/
def bconfConflict (x : Word) : Word :=
  let n := x.toNat / 65536
  word ((if n = 65535 then n else n + 1) * 65536 + 1)
/-- A new block interval clears CFLAG (R93). -/
def bconfClear (x : Word) : Word := x &&& 0xFFFF0000#32

end Sys2Proof.Machine
end

