-- ==== Sys2Proof/Machine/Int.lean ====
section
/-! DEFINITION. Integer, logic and address arithmetic: opcodes 0x00-0x1B (R110-R115). -/

namespace Sys2Proof.Machine

open Sys2Proof

/-! ## Writing results (R110) -/

/-- In vector form each lane with lane_on takes its result, every operand having been read before; in scalar form the one
result is written. -/
def Cx.writeLanes (c : Cx) (wide : Bool) (f : Nat → Nat) : State :=
  if c.vec then c.s.updWave c.wid (fun w => (lanesOf c.lanes).foldl (fun w l => w.write c.e.dst wide l (f l)) w)
  else c.s.updWave c.wid (fun w => w.write c.e.dst wide 0 (f c.lane0))

/-- The exact last step of R111: wrapped, or clamped under SAT. -/
def lastStep (t : Ty) (sat : Bool) (x : Int) : Nat := wrapBits t (if sat then satInt t x else x)

/-- An integer operation of two or three operands read at the instruction's type. -/
def intResult (c : Cx) (f : Int → Int → Int → Int) (sat : Bool) : Res :=
  let t := tyOf c.e
  let v (x : BitVec 10) (l : Nat) : Int := t.toInt (c.src x t l)
  .done (c.writeLanes (t.width = 64) (fun l => lastStep t sat (f (v c.e.a l) (v c.e.b l) (v c.e.c l))))

/-- An operation on the bits of A and B, `w` bits wide. -/
def bitResult (c : Cx) (f : (w : Nat) → Nat → Nat → Nat) : Res :=
  let t := tyOf c.e
  .done (c.writeLanes (t.width = 64) (fun l => f t.width (c.src c.e.a t l) (c.src c.e.b t l) % 2 ^ t.width))

/-- Shifts: the count is B at n32 and is not masked (R111). -/
def shiftResult (c : Cx) (f : (t : Ty) → Int → Nat → Int) : Res :=
  let t := tyOf c.e
  .done (c.writeLanes (t.width = 64) (fun l => wrapBits t (f t (t.toInt (c.src c.e.a t l)) (c.src c.e.b .n32 l))))

/-! ## The functions of R111-R113 -/

def mulHigh (t : Ty) (a b : Int) : Int := a * b / (2 ^ t.width : Nat)
/-- a x 2^n; n at or above the width gives 0. -/
def shlInt (t : Ty) (a : Int) (n : Nat) : Int := if t.width ≤ n then 0 else a * (2 ^ n : Nat)
/-- floor(a / 2^n): arithmetic for signed types; n at or above the width gives 0, or 0 or -1 by sign. -/
def shrInt (t : Ty) (a : Int) (n : Nat) : Int :=
  if t.width ≤ n then (if a < 0 then -1 else 0) else a / (2 ^ n : Nat)
/-- Rotate right by n mod w. -/
def rotBits (w a n : Nat) : Nat :=
  let k := n % w
  a / 2 ^ k + a % 2 ^ k * 2 ^ (w - k)
def popCount (w a : Nat) : Nat := (List.range w).countP (fun i => bit a i)
def leadZeros (w a : Nat) : Nat := if a = 0 then w else w - 1 - Nat.log2 a
def trailZeros (w a : Nat) : Nat := ((List.range w).find? (fun i => bit a i)).getD w
def reverseBits (w a : Nat) : Nat := (List.range w).foldl (fun acc i => if bit a i then acc + 2 ^ (w - 1 - i) else acc) 0

/-- The clipped width of a bit field (R112). -/
def fieldWidth (w p n : Nat) : Nat := if w ≤ p then 0 else min n (w - p)
/-- bfe (R112): position and width in the low bytes of B and C, sign-extended from n bits for signed types. -/
def bfeBits (t : Ty) (a p n : Nat) : Nat :=
  let n := fieldWidth t.width p n
  if n = 0 then 0
  else
    let x := bitsOf a (p + n - 1) p
    if t.isSigned && bit x (n - 1) then x + (2 ^ t.width - 2 ^ n) else x
/-- bfi (R112): the low n bits of `b` replace bits [p + n - 1 : p] of `a`. -/
def bfiBits (w a b p n : Nat) : Nat :=
  let n := fieldWidth w p n
  if n = 0 then a
  else a % 2 ^ p + b % 2 ^ n * 2 ^ p + a / 2 ^ (p + n) * 2 ^ (p + n)

/-- perm (R113): byte j of the result, from the pool of a and b. -/
def permBits (a b c : Nat) : Nat :=
  (List.range 4).foldl (fun acc j =>
    let q := bitsOf c (4 * j + 3) (4 * j)
    let v := if bit q 3 then 0 else if q < 4 then bitsOf a (8 * q + 7) (8 * q) else bitsOf b (8 * (q - 4) + 7) (8 * (q - 4))
    acc + v * 2 ^ (8 * j)) 0
/-- shf (R113): the pair b:a shifted right by c mod 32. -/
def shfBits (a b c : Nat) : Nat := (b * 2 ^ 32 + a) / 2 ^ (c % 32) % 2 ^ 32

/-! ## The meanings -/

/-- `add` (R111). -/
def execIntAdd (e : Enc) (s : State) : Host.Outcome State Fault Refusal :=
  simt 0x00 e s (fun c => intResult c (fun a b _ => a + b) (satBit c.e))

/-- `sub` (R111). -/
def execIntSub (e : Enc) (s : State) : Host.Outcome State Fault Refusal :=
  simt 0x01 e s (fun c => intResult c (fun a b _ => a - b) (satBit c.e))

/-- `mul` (R111). -/
def execIntMul (e : Enc) (s : State) : Host.Outcome State Fault Refusal :=
  simt 0x02 e s (fun c => intResult c (fun a b _ => a * b) (satBit c.e))

/-- `mulhi` (R111). -/
def execMulhi (e : Enc) (s : State) : Host.Outcome State Fault Refusal :=
  simt 0x03 e s (fun c => intResult c (fun a b _ => mulHigh (tyOf c.e) a b) false)

/-- `mad` (R111). -/
def execMad (e : Enc) (s : State) : Host.Outcome State Fault Refusal :=
  simt 0x04 e s (fun c => intResult c (fun a b x => a * b + x) (satBit c.e))

/-- `min` (R111). -/
def execIntMin (e : Enc) (s : State) : Host.Outcome State Fault Refusal :=
  simt 0x05 e s (fun c => intResult c (fun a b _ => min a b) false)

/-- `max` (R111). -/
def execIntMax (e : Enc) (s : State) : Host.Outcome State Fault Refusal :=
  simt 0x06 e s (fun c => intResult c (fun a b _ => max a b) false)

/-- `abs` (R111): wraps at the least value. -/
def execIntAbs (e : Enc) (s : State) : Host.Outcome State Fault Refusal :=
  simt 0x07 e s (fun c => intResult c (fun a _ _ => a.natAbs) false)

/-- `neg` (R111). -/
def execIntNeg (e : Enc) (s : State) : Host.Outcome State Fault Refusal :=
  simt 0x08 e s (fun c => intResult c (fun a _ _ => -a) false)

/-- `and` (R111). -/
def execAndOp (e : Enc) (s : State) : Host.Outcome State Fault Refusal :=
  simt 0x09 e s (fun c => bitResult c (fun _ a b => a &&& b))

/-- `or` (R111). -/
def execOrOp (e : Enc) (s : State) : Host.Outcome State Fault Refusal :=
  simt 0x0A e s (fun c => bitResult c (fun _ a b => a ||| b))

/-- `xor` (R111). -/
def execXorOp (e : Enc) (s : State) : Host.Outcome State Fault Refusal :=
  simt 0x0B e s (fun c => bitResult c (fun _ a b => a ^^^ b))

/-- `not` (R111). -/
def execNotOp (e : Enc) (s : State) : Host.Outcome State Fault Refusal :=
  simt 0x0C e s (fun c => bitResult c (fun w a _ => 2 ^ w - 1 - a))

/-- `shl` (R111). -/
def execShl (e : Enc) (s : State) : Host.Outcome State Fault Refusal :=
  simt 0x0D e s (fun c => shiftResult c shlInt)

/-- `shr` (R111). -/
def execShr (e : Enc) (s : State) : Host.Outcome State Fault Refusal :=
  simt 0x0E e s (fun c => shiftResult c shrInt)

/-- `rot` (R111): the count is B at n32. -/
def execRot (e : Enc) (s : State) : Host.Outcome State Fault Refusal :=
  simt 0x0F e s (fun c => let t := tyOf c.e
    .done (c.writeLanes (t.width = 64) (fun l => rotBits t.width (c.src c.e.a t l) (c.src c.e.b .n32 l))))

/-- `popc` (R111). -/
def execPopc (e : Enc) (s : State) : Host.Outcome State Fault Refusal :=
  simt 0x10 e s (fun c => bitResult c (fun w a _ => popCount w a))

/-- `clz` (R111). -/
def execClz (e : Enc) (s : State) : Host.Outcome State Fault Refusal :=
  simt 0x11 e s (fun c => bitResult c (fun w a _ => leadZeros w a))

/-- `ctz` (R111). -/
def execCtz (e : Enc) (s : State) : Host.Outcome State Fault Refusal :=
  simt 0x12 e s (fun c => bitResult c (fun w a _ => trailZeros w a))

/-- `brev` (R111). -/
def execBrev (e : Enc) (s : State) : Host.Outcome State Fault Refusal :=
  simt 0x13 e s (fun c => bitResult c (fun w a _ => reverseBits w a))

/-- `bfe` (R112): positions and widths are 32-bit operands, of which the low byte counts. -/
def execBfe (e : Enc) (s : State) : Host.Outcome State Fault Refusal :=
  simt 0x14 e s (fun c => let t := tyOf c.e
    .done (c.writeLanes (t.width = 64) (fun l =>
      bfeBits t (c.src c.e.a t l) (c.src c.e.b .n32 l % 256) (c.src c.e.c .n32 l % 256))))

/-- `bfi` (R112): C holds position x 256 + width. -/
def execBfi (e : Enc) (s : State) : Host.Outcome State Fault Refusal :=
  simt 0x15 e s (fun c => let t := tyOf c.e
    .done (c.writeLanes (t.width = 64) (fun l =>
      let p := c.src c.e.c .n32 l
      bfiBits t.width (c.src c.e.a t l) (c.src c.e.b t l) (bitsOf p 15 8) (bitsOf p 7 0))))

/-- `sel` (R113): by bit L of the k register in vector form, by (k AND k0) not 0 in scalar form. -/
def execSel (e : Enc) (s : State) : Host.Outcome State Fault Refusal :=
  simt 0x16 e s (fun c => let t := tyOf c.e
    let k := match Sel.of c.e.c with | .k n => c.w.kget n | _ => 0#32
    .done (c.writeLanes (t.width = 64) (fun l =>
      let pick := if c.vec then k.getLsbD l else (k &&& c.w.k0) ≠ 0#32
      if pick then c.src c.e.a t l else c.src c.e.b t l)))

/-- `mov` (R114): a k destination takes all 32 bits of a uniform source. -/
def execMov (e : Enc) (s : State) : Host.Outcome State Fault Refusal :=
  simt 0x17 e s (fun c => let t := tyOf c.e
    .done (c.writeLanes (t.width = 64) (fun l => c.src c.e.a t l)))

/-- A compare into a k register (R115): each lane with lane_on sets its own bit in vector form; in scalar form the whole
register is written. -/
def cmpResult (c : Cx) (f : Nat → Bool) : Res :=
  match Dst.of c.e.dst with
  | .k n =>
    let x := if c.vec then maskInsert (c.w.kget n) c.lanes (laneMask f)
      else if f c.lane0 then 0xFFFFFFFF#32 else 0#32
    .done (c.s.updWave c.wid (fun w => w.kset n x))
  | _ => .done c.s

/-- `cmp` on integer and raw types (R115). -/
def execIntCmp (e : Enc) (s : State) : Host.Outcome State Fault Refusal :=
  simt 0x18 e s (fun c => let t := tyOf c.e
    cmpResult c (fun l => condBits t false (subCode c.e) (c.src c.e.a t l) (c.src c.e.b t l)))

/-- `lea` (R113): a + b x 2^(c mod 32). -/
def execLea (e : Enc) (s : State) : Host.Outcome State Fault Refusal :=
  simt 0x19 e s (fun c => let t := tyOf c.e
    .done (c.writeLanes (t.width = 64) (fun l =>
      (c.src c.e.a t l + c.src c.e.b t l * 2 ^ (c.src c.e.c .n32 l % 32)) % 2 ^ t.width)))

/-- `perm` (R113). -/
def execPerm (e : Enc) (s : State) : Host.Outcome State Fault Refusal :=
  simt 0x1A e s (fun c => .done (c.writeLanes false (fun l =>
      permBits (c.src c.e.a .b32 l) (c.src c.e.b .b32 l) (c.src c.e.c .b32 l))))

/-- `shf` (R113). -/
def execShf (e : Enc) (s : State) : Host.Outcome State Fault Refusal :=
  simt 0x1B e s (fun c => .done (c.writeLanes false (fun l =>
      shfBits (c.src c.e.a .b32 l) (c.src c.e.b .b32 l) (c.src c.e.c .b32 l))))

end Sys2Proof.Machine
end

