-- ==== Sys2Proof/Machine/Float.lean ====
section
/-! DEFINITION. Floating point, conversions and element packing: opcodes 0x20-0x37 (R116-R126, R213-R225). -/

namespace Sys2Proof.Machine

open Sys2Proof

/-! ## Stochastic draws (R224) -/

/-- The next 16 bits of a lane's stream. Log entry 37 (DEDUCED). -/
def Wave.draw (w : Wave) (l : Nat) : Nat := stochBits (w.lkey.getD l 0#32) (w.scnt.getD l 0#32)
/-- A lane has drawn. Log entry 37 (DEDUCED). -/
def Wave.drew (w : Wave) (l : Nat) (yes : Bool) : Wave :=
  if yes then { w with scnt := w.scnt.modify l (· + 1#32) } else w

/-- Write one rounded result a lane; only an inexact result under .rs draws. A scalar form draws from the stream of the
lowest lane of k0 with lane_on (R117, R224), and so does a discarded result of uniform sources. Log entry 140 (DESIGN CHOICE). -/
def Cx.writeRounded (c : Cx) (wide : Bool) (f : Nat → Nat → Rounded) : State :=
  let rs := rndOf c.e = .rs
  let one (w : Wave) (l at_ : Nat) : Wave :=
    let r := f l (w.draw l)
    (w.write c.e.dst wide at_ r.code).drew l (rs && r.inexact)
  if c.vec then c.s.updWave c.wid (fun w => (lanesOf c.lanes).foldl (fun w l => one w l l) w)
  else c.s.updWave c.wid (fun w => one w c.lane0 0)

/-- The floating format of an instruction's type. -/
def fmtOf (e : Enc) : Fmt := (tyOf e).fmt.getD .f32

/-- A floating operand after flush (R116). -/
def Cx.fp (c : Cx) (x : BitVec 10) (l : Nat) : Fp :=
  let f := fmtOf c.e
  f.value (f.flushCode c.w.flush (c.src x (tyOf c.e) l))

/-- A result after flush (R116). Log entry 36 (DEDUCED). -/
def Cx.flushed (c : Cx) (f : Fmt) (r : Rounded) : Rounded := { r with code := f.flushCode c.w.flush r.code }

/-- Operations that compute exactly and round once (R117, R120). Log entry 36 (DEDUCED). -/
def fpResult (c : Cx) (f : Rnd → Fp → Fp → Fp → Exact) : Res :=
  let fmt := fmtOf c.e
  let m := rndOf c.e
  .done (c.writeRounded false (fun l d =>
    c.flushed fmt (fmt.roundExact m d (f m (c.fp c.e.a l) (c.fp c.e.b l) (c.fp c.e.c l)))))

/-- min and max (R118) on operands after flush. -/
def fpPick (c : Cx) (pickMax : Bool) : Res :=
  let fmt := fmtOf c.e
  let v (x : BitVec 10) (l : Nat) := fmt.flushCode c.w.flush (c.src x (tyOf c.e) l)
  .done (c.writeLanes false (fun l => fmt.minMax pickMax (v c.e.a l) (v c.e.b l)))

/-- Sign operations (R118): every other bit is kept, and nothing is flushed. -/
def fpSign (c : Cx) (f : Nat → Nat → Nat) : Res :=
  .done (c.writeLanes false (fun l => f (fmtOf c.e).signBit (c.src c.e.a (tyOf c.e) l)))

/-! ## Conversion (R123) -/

/-- The code that cvt gives from a source code: integers wrap or saturate, floating values round once; the formats f32,
f16 and bf16 are flushed after rounding, the narrow ones never (R116). Log entry 36 (DEDUCED). -/
def convertTo (t : Ty) (m : Rnd) (draw : Nat) (sat flush : Bool) (src : Ty) (bits : Nat) : Rounded :=
  match src.fmt, t.fmt with
  | none, none => ⟨wrapBits t (if sat then satInt t (src.toInt bits) else src.toInt bits), false⟩
  | none, some f =>
    let r := f.convert m draw sat (intExact (src.toInt bits))
    ⟨if f = .f32 || f = .f16 || f = .bf16 then f.flushCode flush r.code else r.code, r.inexact⟩
  | some g, none => let (y, ix) := fpToInt t m draw (g.value bits); ⟨wrapBits t y, ix⟩
  | some g, some f =>
    let r := f.convert m draw sat (g.value bits).exact
    ⟨if f = .f32 || f = .f16 || f = .bf16 then f.flushCode flush r.code else r.code, r.inexact⟩

/-- A result narrower than 32 bits as R110 writes it. -/
def Rounded.extend (r : Rounded) (t : Ty) : Rounded := { r with code := extendBits t r.code }

/-- Element `i` of a word of elements `w` bits wide (R125). -/
def elementOf (x i w : Nat) : Nat := bitsOf x (w * (i % (32 / w)) + w - 1) (w * (i % (32 / w)))
/-- Replace element `i` of a word. -/
def setElement (x i w v : Nat) : Nat :=
  let lo := w * (i % (32 / w))
  x - bitsOf x (lo + w - 1) lo * 2 ^ lo + v % 2 ^ w * 2 ^ lo

/-- The element and header formats of sbx. -/
def burstFmt (t : Ty) : Fmt := if t = .sb8 then .e4m3 else .e2m1

/-- An exact value as FP32, flushed. -/
def Cx.asF32 (c : Cx) (x : Exact) : Nat := Fmt.f32.flushCode c.w.flush (Fmt.f32.roundExact .rn 0 x).code

/-- Block scale x band scale of a scale word (R125). -/
def scaleWord (x : Nat) : Fp := Fp.mul (Fmt.e3m5.value (bitsOf x 7 0)) (Fmt.bf16.value (bitsOf x 31 16))

/-! ## The meanings -/

/-- `add` (R117). -/
def execFpAdd (e : Enc) (s : State) : Host.Outcome State Fault Refusal :=
  simt 0x20 e s (fun c => fpResult c (fun m a b _ => fpAdd m a b))

/-- `sub` (R117). -/
def execFpSub (e : Enc) (s : State) : Host.Outcome State Fault Refusal :=
  simt 0x21 e s (fun c => fpResult c (fun m a b _ => fpSub m a b))

/-- `mul` (R117). -/
def execFpMul (e : Enc) (s : State) : Host.Outcome State Fault Refusal :=
  simt 0x22 e s (fun c => fpResult c (fun _ a b _ => fpMul a b))

/-- `fma` (R117): one rounding. -/
def execFma (e : Enc) (s : State) : Host.Outcome State Fault Refusal :=
  simt 0x23 e s (fun c => fpResult c (fun m a b x => fpFma m a b x))

/-- `min` (R118). -/
def execFpMin (e : Enc) (s : State) : Host.Outcome State Fault Refusal :=
  simt 0x24 e s (fun c => fpPick c false)

/-- `max` (R118). -/
def execFpMax (e : Enc) (s : State) : Host.Outcome State Fault Refusal :=
  simt 0x25 e s (fun c => fpPick c true)

/-- `abs` (R118): clears the sign bit. -/
def execFpAbs (e : Enc) (s : State) : Host.Outcome State Fault Refusal :=
  simt 0x26 e s (fun c => fpSign c (fun sb x => x % 2 ^ sb))

/-- `neg` (R118): inverts the sign bit. -/
def execFpNeg (e : Enc) (s : State) : Host.Outcome State Fault Refusal :=
  simt 0x27 e s (fun c => fpSign c (fun sb x => if bit x sb then x - 2 ^ sb else x + 2 ^ sb))

/-- `cmp` on floating types (R115, R121). -/
def execFpCmp (e : Enc) (s : State) : Host.Outcome State Fault Refusal :=
  simt 0x28 e s (fun c => let t := tyOf c.e
    cmpResult c (fun l => condBits t c.w.flush (subCode c.e) (c.src c.e.a t l) (c.src c.e.b t l)))

/-- `class` (R119): a set with a bit above 9 raises trap 2. Log entry 38 (DEDUCED). -/
def execClassOp (e : Enc) (s : State) : Host.Outcome State Fault Refusal :=
  simt 0x29 e s (fun c =>
    let set (l : Nat) := c.src c.e.b .b32 l
    let acting := if c.vec then lanesOf c.lanes else [c.lane0]
    if acting.any (fun l => decide (1024 ≤ set l)) then .trap (c.all 2#6)
    else cmpResult c (fun l => bit (set l) (classBit (fmtOf c.e) (c.src c.e.a (tyOf c.e) l))))

/-- `rcp` (R120). -/
def execRcp (e : Enc) (s : State) : Host.Outcome State Fault Refusal :=
  simt 0x2A e s (fun c => fpResult c (fun _ a _ _ => fpRcp a))

/-- `rsq` (R120). -/
def execRsq (e : Enc) (s : State) : Host.Outcome State Fault Refusal :=
  simt 0x2B e s (fun c => fpResult c (fun _ a _ _ => fpRsqrt a))

/-- `sqe` (R120). -/
def execSqe (e : Enc) (s : State) : Host.Outcome State Fault Refusal :=
  simt 0x2C e s (fun c => fpResult c (fun _ a _ _ => fpSqrt a))

/-- `exp2` (R120). -/
def execExp2 (e : Enc) (s : State) : Host.Outcome State Fault Refusal :=
  simt 0x2D e s (fun c => fpResult c (fun _ a _ _ => fpExp2 a))

/-- `log2` (R120). -/
def execLog2 (e : Enc) (s : State) : Host.Outcome State Fault Refusal :=
  simt 0x2E e s (fun c => fpResult c (fun _ a _ _ => fpLog2 a))

/-- `rnd` (R122). -/
def execRnd (e : Enc) (s : State) : Host.Outcome State Fault Refusal :=
  simt 0x2F e s (fun c => let f := fmtOf c.e
    .done (c.writeRounded false (fun l dr =>
      c.flushed f (f.rnd (rndOf c.e) dr (f.flushCode c.w.flush (c.src c.e.a (tyOf c.e) l))))))

/-- `cvt` (R123). -/
def execCvt (e : Enc) (s : State) : Host.Outcome State Fault Refusal :=
  simt 0x30 e s (fun c => let t := tyOf c.e
    let src := (srcTypeOf c.e).getD .i32
    .done (c.writeRounded (t.width = 64) (fun l dr =>
      (convertTo t (rndOf c.e) dr (satBit c.e) c.w.flush src (c.src c.e.a src l)).extend t)))

/-- `cvt2` (R124): a in the lower element, b in the upper; each conversion that is inexact under .rs draws, a first.
Log entry 37 (DEDUCED). -/
def execCvt2 (e : Enc) (s : State) : Host.Outcome State Fault Refusal :=
  simt 0x31 e s (fun c =>
    let t := tyOf c.e
    let rs := rndOf c.e = .rs
    let conv (x dr : Nat) := convertTo t (rndOf c.e) dr (satBit c.e) c.w.flush .f32 x
    .done (c.s.updWave c.wid (fun w => (lanesOf c.lanes).foldl (fun w l =>
      let lo := conv (c.src c.e.a .f32 l) (w.draw l)
      let w := w.drew l (rs && lo.inexact)
      let hi := conv (c.src c.e.b .f32 l) (w.draw l)
      (w.write c.e.dst false l (lo.code + hi.code * 2 ^ t.width)).drew l (rs && hi.inexact)) w)))

/-- `pack` (R125): a converted by R123 replaces one element of b. -/
def execPack (e : Enc) (s : State) : Host.Outcome State Fault Refusal :=
  simt 0x32 e s (fun c =>
    let t := tyOf c.e
    .done (c.writeRounded false (fun l dr =>
      let r := convertTo t (rndOf c.e) dr (satBit c.e) c.w.flush .f32 (c.src c.e.a .f32 l)
      ⟨setElement (c.src c.e.b .b32 l) (c.src c.e.c .n32 l) t.width r.code, r.inexact⟩)))

/-- `unpk` (R125). -/
def execUnpk (e : Enc) (s : State) : Host.Outcome State Fault Refusal :=
  simt 0x33 e s (fun c =>
    let t := tyOf c.e
    .done (c.writeLanes false (fun l =>
      c.asF32 ((fmtOf c.e).value (elementOf (c.src c.e.a .b32 l) (c.src c.e.b .n32 l) t.width)).exact)))

/-- `dcd` (R125, R126). -/
def execDcd (e : Enc) (s : State) : Host.Outcome State Fault Refusal :=
  simt 0x34 e s (fun c =>
    .done (c.writeLanes false (fun l =>
      let x := c.src c.e.b .b32 l
      c.asF32 (nf4bValue (elementOf (c.src c.e.a .b32 l) (c.src c.e.c .n32 l) 4) (bitsOf x 7 0) (bitsOf x 31 16)).exact)))

/-- `enc` (R125, R126): the code is never flushed. -/
def execEnc (e : Enc) (s : State) : Host.Outcome State Fault Refusal :=
  simt 0x35 e s (fun c =>
    .done (c.writeRounded false (fun l dr =>
      encodeNf4b (rndOf c.e) dr (Fmt.f32.value (c.src c.e.a .f32 l)) (scaleWord (c.src c.e.b .b32 l)))))

/-- `sbx` (R125, R126). -/
def execSbx (e : Enc) (s : State) : Host.Outcome State Fault Refusal :=
  simt 0x36 e s (fun c =>
    let t := tyOf c.e
    .done (c.writeRounded false (fun l dr =>
      let x := elementOf (c.src c.e.a .b32 l) (c.src c.e.c .n32 l) t.width
      c.flushed .f32 (Fmt.f32.roundExact (rndOf c.e) dr
        (sbValue (burstFmt t) x (bitsOf (c.src c.e.b .b32 l) 7 0)).exact))))

/-- `scl` (R125, R126): NaN, infinities and zeros are returned unchanged. Log entry 128 (DEDUCED). -/
def execScl (e : Enc) (s : State) : Host.Outcome State Fault Refusal :=
  simt 0x37 e s (fun c =>
    .done (c.writeRounded false (fun l dr =>
      let x := c.src c.e.a .f32 l
      match Fmt.f32.value x with
      | .fin n m k =>
        if m = 0 then ⟨x, false⟩
        else c.flushed .f32 (Fmt.f32.convert (rndOf c.e) dr (satBit c.e)
          (fpScale (.fin n m k) (Ty.i32.toInt (c.src c.e.b .i32 l))))
      | _ => ⟨x, false⟩)))

end Sys2Proof.Machine
end

