-- ==== Sys2Proof/Machine/Exchange.lean ====
section
/-! DEFINITION. Exchange across lanes, reductions, scans and masks: opcodes 0x40-0x4C, and the counter-based generator and
the merge step of two lists, 0xA3 and 0xA4 (R127-R131, R201, R202). -/

namespace Sys2Proof.Machine

open Sys2Proof

/-- A lane of %exec supplies its value of A; any other source leaves the destination lane its own (R127). Every read is
taken before any write. -/
def shuffle (c : Cx) (source : Nat → Nat → Int) : Res :=
  .done (c.writeLanes false (fun l =>
    let j := source l (c.src c.e.b .n32 l)
    if 0 ≤ j && j < 32 && c.w.exec.getLsbD j.toNat then c.src c.e.a .b32 j.toNat else c.src c.e.a .b32 l))

/-- `quad.xor` (R128). -/
def execQuadXor (e : Enc) (s : State) : Host.Outcome State Fault Refusal :=
  simt 0x40 e s (fun c => shuffle c (fun l d => (4 * (l / 4) + ((l % 4) ^^^ (d % 4)) : Nat)))

/-- `quad.bc` (R128). -/
def execQuadBc (e : Enc) (s : State) : Host.Outcome State Fault Refusal :=
  simt 0x41 e s (fun c => shuffle c (fun l d => (4 * (l / 4) + d % 4 : Nat)))

/-- `shfl.idx` (R128). -/
def execShflIdx (e : Enc) (s : State) : Host.Outcome State Fault Refusal :=
  simt 0x42 e s (fun c => shuffle c (fun _ d => (d % 32 : Nat)))

/-- `shfl.up` (R128). -/
def execShflUp (e : Enc) (s : State) : Host.Outcome State Fault Refusal :=
  simt 0x43 e s (fun c => shuffle c (fun l d => (l : Int) - d))

/-- `shfl.dn` (R128). -/
def execShflDn (e : Enc) (s : State) : Host.Outcome State Fault Refusal :=
  simt 0x44 e s (fun c => shuffle c (fun l d => (l + d : Nat)))

/-- `shfl.xor` (R128). -/
def execShflXor (e : Enc) (s : State) : Host.Outcome State Fault Refusal :=
  simt 0x45 e s (fun c => shuffle c (fun l d => (l ^^^ (d % 32) : Nat)))

/-! ## Reductions and scans (R129, R130) -/

/-- One combination: the code, and whether an f32 .add was inexact. f32 combinations follow R117 and R118 with flush.
Log entry 36 (DEDUCED). -/
def combine (t : Ty) (sub : Nat) (m : Rnd) (flush : Bool) (draw x y : Nat) : Rounded :=
  if t = .f32 then
    let fx := Fmt.f32.flushCode flush x
    let fy := Fmt.f32.flushCode flush y
    match sub with
    | 0 =>
      let r := Fmt.f32.roundExact m draw (fpAdd m (Fmt.f32.value fx) (Fmt.f32.value fy))
      ⟨Fmt.f32.flushCode flush r.code, r.inexact⟩
    | 1 => ⟨Fmt.f32.minMax false fx fy, false⟩
    | _ => ⟨Fmt.f32.minMax true fx fy, false⟩
  else
    match sub with
    | 0 => ⟨wrapBits t (t.toInt x + t.toInt y), false⟩
    | 1 => ⟨wrapBits t (min (t.toInt x) (t.toInt y)), false⟩
    | 2 => ⟨wrapBits t (max (t.toInt x) (t.toInt y)), false⟩
    | 3 => ⟨x &&& y, false⟩
    | 4 => ⟨x ||| y, false⟩
    | _ => ⟨x ^^^ y, false⟩

/-- The identity of a combination (R129). -/
def redIdentity (t : Ty) (sub : Nat) : Nat :=
  match sub with
  | 1 => if t = .f32 then 0x7F800000 else wrapBits t t.maxInt
  | 2 => if t = .f32 then 0xFF800000 else wrapBits t t.minInt
  | 3 => 0xFFFFFFFF
  | _ => 0

/-- A leaf of wred: a floating operand is flushed first under FLUSH (R116). -/
def redLeaf (t : Ty) (flush : Bool) (x : Nat) : Nat := match t.fmt with | some f => f.flushCode flush x | none => x
/-- The result of wred: a NaN that has met no other value is canonical too (R217). -/
def redResult (t : Ty) (x : Nat) : Nat := match t.fmt with | some f => f.canon x | none => x

/-- One level of the tree of wred: neighbours combine, an absent one gives way to the other; `n` counts the draws.
Log entry 36 (DEDUCED). -/
def redLevel (f : Nat → Nat → Nat → Rounded) (draw : Nat → Nat) :
    List (Option Nat) → Nat → List (Option Nat) × Nat
  | x :: y :: rest, n =>
    match x, y with
    | some a, some b =>
      let r := f (draw n) a b
      let (t, k) := redLevel f draw rest (if r.inexact then n + 1 else n)
      (some r.code :: t, k)
    | some a, none | none, some a => let (t, k) := redLevel f draw rest n; (some a :: t, k)
    | none, none => let (t, k) := redLevel f draw rest n; (none :: t, k)
  | xs, n => (xs, n)

/-- The `n`-th draw ahead in a lane's stream. Log entry 37 (DEDUCED). -/
def Wave.drawAt (w : Wave) (l n : Nat) : Nat := stochBits (w.lkey.getD l 0#32) (w.scnt.getD l 0#32 + word n)

/-- `wred` (R129): the fixed tree over the lanes of k0 with lane_on. -/
def execWred (e : Enc) (s : State) : Host.Outcome State Fault Refusal :=
  simt 0x46 e s (fun c =>
    let t := tyOf c.e
    let rs := rndOf c.e = .rs
    let f := combine t (subCode c.e) (rndOf c.e) c.w.flush
    let leaves := (List.range 32).map (fun l => if c.active.getLsbD l then some (redLeaf t c.w.flush (c.src c.e.a t l)) else none)
    let dr := c.w.drawAt c.lane0
    let (xs, n) := (List.range 5).foldl (fun p _ => redLevel f dr p.1 p.2) (leaves, 0)
    let r := redResult t ((xs.getD 0 none).getD (redIdentity t (subCode c.e)))
    .done (c.s.updWave c.wid (fun w =>
      let w := w.write c.e.dst false 0 r
      if rs then { w with scnt := w.scnt.modify c.lane0 (· + word n) } else w)))

/-- `wscan` (R130): an inclusive scan in ascending lane order. -/
def execWscan (e : Enc) (s : State) : Host.Outcome State Fault Refusal :=
  simt 0x47 e s (fun c =>
    let t := tyOf c.e
    let rs := rndOf c.e = .rs
    let f := combine t (subCode c.e) (rndOf c.e) c.w.flush
    .done (c.s.updWave c.wid (fun w =>
      let (w, _, n) := (List.range 32).foldl (fun (p : Wave × Nat × Nat) l =>
        let (w, acc, n) := p
        let r : Rounded := if c.active.getLsbD l then f (c.w.drawAt c.lane0 n) acc (c.src c.e.a t l) else ⟨acc, false⟩
        (if c.lanes.getLsbD l then w.write c.e.dst false l r.code else w, r.code, if r.inexact then n + 1 else n))
        (w, redIdentity t (subCode c.e), 0)
      if rs then { w with scnt := w.scnt.modify c.lane0 (· + word n) } else w)))

/-! ## Masks (R131) -/

/-- `ballot`. -/
def execBallot (e : Enc) (s : State) : Host.Outcome State Fault Refusal :=
  simt 0x48 e s (fun c =>
    let m := laneMask (fun l => c.active.getLsbD l && c.src c.e.a .b32 l ≠ 0)
    .done (c.s.updWave c.wid (fun w => w.write c.e.dst false 0 m.toNat)))

/-- The k register that a selector names. -/
def Cx.kreg (c : Cx) (x : BitVec 10) : Word := match Sel.of x with | .k n => c.w.kget n | _ => 0#32

/-- `kop`: .and, .or, .xor, .andn. -/
def execKop (e : Enc) (s : State) : Host.Outcome State Fault Refusal :=
  simt 0x49 e s (fun c =>
    let a := c.kreg c.e.a
    let b := c.kreg c.e.b
    let r := match subCode c.e with | 0 => a &&& b | 1 => a ||| b | 2 => a ^^^ b | _ => a &&& ~~~b
    .done (c.s.updWave c.wid (fun w => w.write c.e.dst false 0 r.toNat)))

/-- `kpopc`. -/
def execKpopc (e : Enc) (s : State) : Host.Outcome State Fault Refusal :=
  simt 0x4A e s (fun c =>
    let x := c.kreg c.e.a &&& c.w.k0
    .done (c.s.updWave c.wid (fun w => w.write c.e.dst false 0 (popCount 32 x.toNat))))

/-- `kffs`: 32 when no bit is set. -/
def execKffs (e : Enc) (s : State) : Host.Outcome State Fault Refusal :=
  simt 0x4B e s (fun c =>
    let x := c.kreg c.e.a &&& c.w.k0
    .done (c.s.updWave c.wid (fun w => w.write c.e.dst false 0 (trailZeros 32 x.toNat))))

/-- `match`: the lanes equal to the lowest qualifying lane; 0 when none qualifies. -/
def execMatchOp (e : Enc) (s : State) : Host.Outcome State Fault Refusal :=
  simt 0x4C e s (fun c =>
    let r := match lowestLane c.active with
      | none => 0#32
      | some f => laneMask (fun l => c.active.getLsbD l && c.src c.e.a .b32 l = c.src c.e.a .b32 f)
    .done (c.s.updWave c.wid (fun w => w.write c.e.dst false 0 r.toNat)))

/-! ## The generator (R201) and the merge step (R202) -/

/-- `ctrg`. -/
def execCtrg (e : Enc) (s : State) : Host.Outcome State Fault Refusal :=
  simt 0xA3 e s (fun c =>
    .done (c.writeLanes false (fun l =>
      let n := word (c.src c.e.a .n32 l)
      let k := word (c.src c.e.b .n32 l)
      if tyOf c.e = .f32 then ctrgFloat n k else (ctrgWord n k).toNat)))

/-- `isect`. -/
def execIsect (e : Enc) (s : State) : Host.Outcome State Fault Refusal :=
  simt 0xA4 e s (fun c =>
    let ls := lanesOf c.active
    let a (l : Nat) := c.src c.e.a .n32 l
    let b (l : Nat) := c.src c.e.b .n32 l
    match ls.getLast? with
    | none => .done c.s
    | some last =>
      let m := min (a last) (b last)
      let d (l : Nat) : Nat :=
        if a l = 0xFFFFFFFF then 0xFFFFFFFF else (ls.find? (fun j => b j = a l)).getD 0xFFFFFFFF
      let adv (f : Nat → Nat) := ls.countP (fun l => decide (f l ≤ m))
      .done (c.s.updWave c.wid (fun w =>
        let w := ls.foldl (fun w l => w.write c.e.dst false l (d l)) w
        match Sel.of c.e.c with
        | .s n => w.sset n (word (adv b * 65536 + adv a))
        | _ => w)))

end Sys2Proof.Machine
end

