-- ==== Sys2Proof/Machine/Commit.lean ====
section
/-! DEFINITION. Moving pending lines between levels (R68-R71, R148-R151, R161-R164): the path of a commit, its room, the
sibling-conflict records, publication at device level, lines on their way with their acknowledgements, and the stages in
which a commit that waits is performed (`Cx.commit`). -/

namespace Sys2Proof.Machine

/-- The instruction as it stands after part of its effect. -/
def Cx.on (c : Cx) (s : State) : Cx :=
  match s.wave? c.wid, s.block? c.b.uid with
  | some w, some b => { c with s := s, w := w, b := b }
  | _, _ => { c with s := s }

/-! ## The path (R108 `commit_path`) -/

def scrLines (w : Wave) : List PLine := (bufLines w.buf).filter (fun p => p.scr)
def globLines (w : Wave) : List PLine := (bufLines w.buf).filter (fun p => !p.scr)

/-- The cluster-level lines of a block's cluster. -/
def State.clusterLines (s : State) (b : Block) : List PLine :=
  match s.cluster? b with | some c => c.lines | none => []

/-- The global lines on the path of a commit to a level, lower levels' bytes newer: the wave buffer, then block level for
.clus and above, then cluster level for .dev and above. -/
def State.pathLines (s : State) (w : Wave) (b : Block) (lvl : Nat) : List PLine :=
  let low := if 3 ≤ lvl then s.clusterLines b else []
  let mid := if 2 ≤ lvl then b.lines else []
  mergeLines (mergeLines low mid) (globLines w)

/-- The tiles that a list of scratchpad lines reaches into. -/
def tilesOf (ls : List PLine) : List Nat := ls.map (fun p => p.line / 64)
def Block.engineOwns (b : Block) (t : Nat) : Bool := b.engineOwned.getD t false

/-! ## Conflict records (R149) -/

/-- A byte's name in the conflict records: twice its address, plus one for scratchpad space. -/
def byteName (p : PLine) (off : Nat) : Nat := 2 * (64 * p.line + off) + (if p.scr then 1 else 0)
/-- The byte names of a list of lines. -/
def byteNames (ls : List PLine) : List Nat :=
  ls.flatMap (fun p => ((List.range 64).filter (fun i => p.has i)).map (byteName p))

/-- Some byte of the lines is recorded as another wave's. -/
def Block.conflicts (b : Block) (wid : Nat) (ls : List PLine) : Bool :=
  (byteNames ls).any (fun n => b.owners.any (fun o => o.1 = n && o.2 ≠ wid))

/-- Record the wave as the committer of every byte of the lines. -/
def Block.record (b : Block) (wid : Nat) (ls : List PLine) : Block :=
  let ns := byteNames ls
  { b with owners := b.owners.filter (fun o => !ns.contains o.1) ++ ns.map (fun n => (n, wid)) }

/-- A new block interval clears every record and CFLAG (R93, R149). -/
def Block.newInterval (b : Block) : Block := { b with owners := [], bconf := bconfClear b.bconf }

/-! ## Moving lines -/

/-- Write scratchpad lines into the block's tiles (R68). -/
def Block.toTiles (b : Block) (ls : List PLine) : Block :=
  { b with scr := ls.foldl (fun m p => m.writeLine p.line p.data p.mask) b.scr }

/-- Empty the entries of a wave buffer that a test selects. -/
def Wave.dropLines (w : Wave) (f : PLine → Bool) : Wave :=
  { w with buf := w.buf.map (fun x => match x with | some p => if f p then none else some p | none => none) }

/-- Clean copies of a line are dropped in the units selected: `f true` a core's L1, `f false` a die's L2 (R165). -/
def Mem.dropCopies (m : Mem) (f : Bool → Nat → Bool) (sp : Space) (pline : Nat) : Mem :=
  { m with copies := m.copies.filter (fun c => !(f c.l1 c.unit && c.space = sp && c.line = pline)) }

/-- A commit leaves no clean copy of a line that it moves in its core's L1 (R165). Log entry 147 (DESIGN CHOICE). -/
def State.dropOwn (s : State) (w : Wave) (ls : List PLine) : State :=
  (ls.filter (fun p => !p.scr)).foldl (fun s p =>
    match s.translate w.core (s.partOfWave w.wid) .load (64 * p.line) with
    | .ok pl => s.updMem (fun m => m.dropCopies (fun l1 u => l1 && u = w.core) pl.space (pl.pa / 64))
    | .error _ => s) s

/-- The bytes of a global line that a list of lines holds. -/
def bytesAt (ls : List PLine) (line : Nat) : BitVec 64 := match findLine ls false line with | some p => p.mask | none => 0#64

/-- Bytes that a wave puts at block level stand there newer than what its siblings' open commits have sent (R163). -/
def State.unstage (s : State) (w : Wave) (ls : List PLine) : State :=
  { s with waves := s.waves.map (fun x =>
      if x.blk = w.blk && !x.staged.isEmpty then
        { x with staged := x.staged.map (fun t => { t with live := t.live &&& ~~~(bytesAt ls t.line) }) }
      else x) }

/-- A wave's block is of block `b`'s cluster, of `size` blocks. -/
def State.ofCluster (s : State) (b : Block) (size : Nat) (x : Wave) : Bool :=
  match s.block? x.blk with
  | some y => y.grid = b.grid && y.lin / size = b.lin / size
  | none => false

/-- Bytes that come to stand at the cluster level of block `b`, newer than what open commits there have sent (R163): an atomic's, or
those of a block that retires. -/
def State.unstageBytes (s : State) (b : Block) (size : Nat) (ls : List PLine) : State :=
  { s with waves := s.waves.map (fun x =>
      if x.staged.isEmpty || !s.ofCluster b size x then x
      else { x with staged := x.staged.map (fun t => { t with liveC := t.liveC &&& ~~~(bytesAt ls t.line) }) }) }

/-- Lines that a wave of block `b` moves to cluster level: what its siblings' open commits have sent from block level now stands
there, but for the bytes of the wave's own buffer, and bytes that other blocks' open commits have sent are overtaken (R163). -/
def State.unstageCluster (s : State) (b : Block) (size : Nat) (buf : List PLine) : State :=
  { s with waves := s.waves.map (fun x =>
      if x.staged.isEmpty || !s.ofCluster b size x then x
      else { x with staged := x.staged.map (fun t =>
        let mine := bytesAt buf t.line
        let up := bytesAt b.lines t.line
        if x.blk = b.uid then
          { t with liveC := (t.liveC &&& ~~~(up ||| mine)) ||| (t.live &&& up &&& ~~~mine), live := t.live &&& ~~~up }
        else { t with liveC := t.liveC &&& ~~~(up ||| mine) }) }) }

/-- Some lines of a wave's buffer reach block level as one step: scratchpad bytes enter their tiles, global lines merge
into the block's lines, and the records of R149 take the wave. Log entry 39 (DEDUCED). -/
def State.toBlockLevel (s : State) (w : Wave) (ls : List PLine) : State :=
  let s := ((s.tickNow).dropOwn w ls).unstage w ls
  let s := s.updBlock w.blk (fun b =>
    let clash := b.conflicts w.wid ls
    let b := b.toTiles (ls.filter (fun p => p.scr))
    let b := { b with lines := mergeLines b.lines (ls.filter (fun p => !p.scr)), seq := b.seq + 1 }
    let b := b.record w.wid ls
    if clash then { b with bconf := bconfConflict b.bconf } else b)
  s.updWave w.wid (fun x => x.dropLines (fun p => ls.any (fun q => q.scr = p.scr && q.line = p.line)))

/-- A step of a block's level is logged (R278). -/
def State.logBlock (s : State) (w : Wave) (kind count : Nat) : State :=
  match s.block? w.blk with
  | none => s
  | some b => s.logEntry (s.partOfWave w.wid) (plainEntry kind 1 count (agentOf w) b.lin b.seq)
/-- A step of a cluster's level is logged. -/
def State.logCluster (s : State) (w : Wave) (kind count : Nat) : State :=
  match s.block? w.blk with
  | none => s
  | some b =>
    match s.cluster? b with
    | none => s
    | some c => s.logEntry (s.partOfWave w.wid) (plainEntry kind 2 count (agentOf w) c.num c.seq)

/-- Lines reach device level as one step, each at its place; the writer's core keeps no older clean copy, nor does its
die's L2, nor do the cores of its group for a line that the cluster level held (R162, R165). -/
def State.publish (s : State) (p core : Nat) (clusterHeld : Nat → Bool) (ls : List (PLine × Place)) : State :=
  ls.foldl (fun s x =>
    let f (l1 : Bool) (u : Nat) : Bool :=
      if l1 then u = core || (clusterHeld x.1.line && groupOf u = groupOf core) else u = dieOf core
    (s.devWrite p x.2.space (x.2.pa / 64) x.1.data x.1.mask).updMem
      (fun m => m.dropCopies f x.2.space (x.2.pa / 64))) s

/-- Translate the lines of a path as stores of a core, or the first failure (log entry 17). -/
def State.placeLines (s : State) (core p : Nat) : List PLine → Except (BitVec 6 × Nat) (List (PLine × Place))
  | [] => .ok []
  | l :: ls =>
    match s.translate core p .store (64 * l.line) with
    | .error k => .error (k, 64 * l.line)
    | .ok pl =>
      match State.placeLines s core p ls with
      | .error e => .error e
      | .ok r => .ok ((l, pl) :: r)

/-- The bytes of the mask leave a list of pending lines. -/
def clearBytes (ls : List PLine) (line : Nat) (m : BitVec 64) : List PLine :=
  (ls.map (fun p => if !p.scr && p.line = line then p.restrict (~~~m) else p)).filter (fun p => p.mask ≠ 0#64)
def Wave.clearBuf (w : Wave) (line : Nat) (m : BitVec 64) : Wave :=
  { w with buf := w.buf.map (fun x => match x with
      | some p => if !p.scr && p.line = line then
          (let q := p.restrict (~~~m); if q.mask = 0#64 then none else some q) else some p
      | none => none) }

/-- Bytes of a line leave the levels on a wave's path: those of `m` its buffer, those of `mb` block and of `mc` cluster level. -/
def State.clearPath (s : State) (w : Wave) (line : Nat) (m mb mc : BitVec 64) : State :=
  match s.block? w.blk with
  | none => s
  | some b =>
    ((s.updWave w.wid (fun x => x.clearBuf line m)).updCluster b (fun c => { c with lines := clearBytes c.lines line mc })).updBlock
      w.blk (fun x => { x with lines := clearBytes x.lines line mb })

/-- A line that leaves for another die or for its home adds 1 to %acks until it is acknowledged (R148). -/
def Wave.send (w : Wave) (ls : List Sent) : Wave := { w with acks := w.acks + ls.length, sent := w.sent ++ ls }

/-- `commit.sys`: every line that the device level holds for a system home is sent to it (R108, R148).
Log entry 42 (DEDUCED). -/
def State.sendSystem (s : State) (wid : Nat) : State :=
  let s := s.tickNow
  s.updWave wid (fun w => w.send (s.mem.sysL2.map (fun x =>
    { space := x.1, pline := x.2.line, data := x.2.data, mask := x.2.mask, sysWrite := true, issued := s.clk, moment := s.now })))

/-- A sent line arrives at its system home (R164): the home takes its bytes, and the L2 lets go of those that it still
holds as sent. Log entry 42 (DEDUCED). -/
def State.homeDeliver (s : State) (sp : Space) (pline : Nat) (data : List Byte) (mask : BitVec 64) (moment : Nat) : State :=
  let s := (s.overtake sp pline mask moment).tickNow.keepPast sp pline
  let m := s.mem.copiesGone sp pline s.now
  let keep (p : PLine) : PLine := { p with mask := (List.range 64).foldl (fun (k : BitVec 64) i =>
    if mask.getLsbD i && p.data.getD i 0#8 = data.getD i 0#8 then k &&& ~~~(1#64 <<< i) else k) p.mask }
  let l2 := m.sysL2.map (fun x => if x.1 = sp && x.2.line = pline then (x.1, keep x.2) else x)
  { s with mem := { (m.set sp ((m.get sp).writeLine pline data mask)) with
      sysL2 := l2.filter (fun x => x.2.mask ≠ 0#64) } }

/-! ## Room (R148) -/

/-- A block of a cluster is resident: the cluster's lines are in its group's L1s, and otherwise in a block record (R176). -/
def State.clusterHere (s : State) (c : Cluster) : Bool :=
  s.blocks.any (fun b => b.grid = c.grid && b.status ≠ .saved && (match s.grid? b.grid with
    | some g => b.lin / (g.launch.record.cluster + 1) = c.num | none => false))

/-- Pending lines at block level of a core, and at cluster level of a core group. -/
def State.blockRoomUsed (s : State) (core : Nat) : Nat :=
  s.blocks.foldl (fun n b => if b.core = core && b.status ≠ .saved then n + b.lines.length else n) 0
def State.clusterRoomUsed (s : State) (group : Nat) : Nat :=
  s.clusters.foldl (fun n c => if c.group = group && s.clusterHere c then n + c.lines.length else n) 0
/-- Lines of a path that the destination does not hold yet. -/
def newLines (dest path : List PLine) : Nat := path.countP (fun p => (findLine dest p.scr p.line).isNone)
/-- The lines new to the destination would exceed its room: 1,024 a core at block level, 2,048 a group at cluster level. With none
new nothing is exceeded. -/
def Cx.noRoom (c : Cx) (lvl : Nat) (path : List PLine) : Bool :=
  let exceeds (room used new : Nat) : Bool := new ≠ 0 && decide (room < used + new)
  if lvl ≤ 1 then exceeds 1024 (c.s.blockRoomUsed c.w.core) (newLines c.b.lines path)
  else if lvl = 2 then exceeds 2048 (c.s.clusterRoomUsed (groupOf c.w.core)) (newLines (c.s.clusterLines c.b) path)
  else false

/-! ## A commit in stages (R148, R163) -/

/-- Waiting for engine-owned tiles (stall reason 7) and for room in the order log (reason 9), with nothing performed. -/
def Cx.waitOwner (c : Cx) : Res := .wait c.s .owner 7 c.w.stage c.w.aux
def Cx.waitLog (c : Cx) : Res := .wait (c.s.logFull c.part) .queue 9 c.w.stage c.w.aux
/-- Steps of a commit or an abort that must be logged may be performed. -/
def Cx.mayLog (c : Cx) (kind : Nat) : Bool := c.s.mayStep c.part kind (agentOf c.w) 16

/-- The lines of a commit to device level are homed on both dies. -/
def Cx.crossDie (c : Cx) (ls : List (PLine × Place)) : Bool :=
  let away (x : PLine × Place) : Bool := c.s.homeDie x.2.space (x.2.pa / 64) ≠ dieOf c.w.core
  ls.any away && ls.any (fun x => !away x)

/-- The part of a commit to device level that is performed at once: when one die homes all its global lines they are published
and scratchpad lines enter their tiles, in one step; otherwise the other die's lines are sent and all are staged until T.
Log entries 40 (DEDUCED), 41 (DEDUCED). -/
def Cx.commitDevice (c : Cx) (lvl : Nat) (ls : List (PLine × Place)) : State :=
  let w := c.w
  let s := c.s.tickNow
  let away (x : PLine × Place) : Bool := s.homeDie x.2.space (x.2.pa / 64) ≠ dieOf w.core
  let sent := (ls.filter away).map (fun x =>
    ({ space := x.2.space, pline := x.2.pa / 64, data := x.1.data, mask := x.1.mask, sysWrite := false, issued := s.clk } : Sent))
  let s := s.updWave w.wid (fun x => x.send sent)
  if c.crossDie ls then
    let glob : List Staged := ls.map (fun y => { line := y.1.line, data := y.1.data, mask := y.1.mask, live := y.1.mask,
                                                 liveC := y.1.mask, scr := false, space := y.2.space, pline := y.2.pa / 64, ss := y.2.ss })
    let scr : List Staged := (scrLines w).map (fun p => { line := p.line, data := p.data, mask := p.mask, live := 0#64,
                                                          liveC := 0#64, scr := true, space := .hbm, pline := 0, ss := false })
    s.updWave w.wid (fun x => { x with staged := glob ++ scr })
  else
    let s := s.updBlock w.blk (fun b => b.toTiles (scrLines w))
    let s := s.updWave w.wid (fun x => x.dropLines (fun p => p.scr))
    let held := s.clusterLines c.b
    let s := s.publish c.part w.core (fun l => (findLine held false l).isSome) ls
    let s := ls.foldl (fun s x => s.clearPath w x.1.line x.1.mask x.1.mask x.1.mask) s
    let s := s.updBlock w.blk Block.newInterval
    if ls.isEmpty && (scrLines w).isEmpty then s else s.logDev c.part 1 lvl (ls.length + (scrLines w).length) (agentOf w)

/-- The first stage of a commit: what it waits for, what it traps on, and its move. What a cross-die commit sends it reads as a load
reads its levels, and the positions are recorded so (R177, R278); its step is logged at T.
Log entries 17 (DEDUCED), 39 (DEDUCED), 40 (DEDUCED). -/
def Cx.commitStart (c : Cx) (lvl : Nat) : Except Res State :=
  let w := c.w
  let path := c.s.pathLines w c.b lvl
  let scr := scrLines w
  let n := path.length + scr.length
  if (tilesOf scr).any c.b.engineOwns then .error c.waitOwner
  else if c.noRoom lvl path then .error (.trap (c.all 9#6))
  else if lvl ≤ 2 && n ≠ 0 && !c.mayLog 1 then .error c.waitLog
  else if lvl = 0 then
    .ok (if n = 0 then c.s else (c.s.toBlockLevel w (bufLines w.buf)).logBlock w 1 n)
  else if lvl = 1 then
    let s := if n = 0 then c.s else (c.s.toBlockLevel w (bufLines w.buf)).logBlock w 1 n
    .ok (s.updBlock w.blk (fun b => { b.newInterval with bconf := bconfClear c.b.bconf }))
  else if lvl = 2 then
    let s := ((c.s.tickNow).dropOwn w path).unstageCluster c.b (c.lrec.cluster + 1) (globLines w)
    let s := s.updBlock w.blk (fun b => { (b.toTiles scr).newInterval with lines := [] })
    let s := s.updCluster c.b (fun x => { x with lines := mergeLines x.lines path, seq := x.seq + 1 })
    let s := s.updWave w.wid (fun x => { x with buf := List.replicate 64 none })
    .ok (if n = 0 then s else s.logCluster w 1 n)
  else
    match c.s.placeLines w.core c.part path with
    | .error (k, a) => .error (.trap { c.all k with addr := dword a })
    | .ok ls =>
      if ls.any (fun x => c.s.stackHeld x.2.space (x.2.pa / 64)) then .error (.wait c.s .commit 8 c.w.stage c.w.aux)
      else if n ≠ 0 && !(if c.crossDie ls then c.s.mayRead w false else c.mayLog 1) then .error c.waitLog
      else .ok (((if c.crossDie ls then c.s.observe w false else c.s).fillTlb w.core c.part (path.map (fun l => 64 * l.line)))
        |> fun s => ({ c with s := s }).commitDevice lvl ls)

/-- The stages of a commit once its move has begun: staged lines wait for their publication, lines on the other die for
their acknowledgements, and `commit.sys` then sends the system-homed lines and waits for %acks = 0. Lines that a store of handler
mode has sent are none of a `commit.dev`'s (R71). -/
def Cx.commitRest (c : Cx) (lvl : Nat) (s : State) (k : State → Res) : Res :=
  match s.wave? c.wid with
  | none => .gone s
  | some w =>
    if lvl < 3 then k s
    else if w.staged ≠ [] then .wait s .commit 8 1 c.w.aux
    else if c.w.stage ≠ 3 && w.sent.any Sent.ofCommit then .wait s .commit 8 2 c.w.aux
    else if lvl = 3 then k s
    else
      let s := if c.w.stage = 3 then s else s.sendSystem c.wid
      match s.wave? c.wid with
      | none => .gone s
      | some w => if w.acks ≠ 0 then .wait s .commit 8 3 c.w.aux else k s

/-- A commit to a level inside an instruction, then the rest of the instruction. The commit is stages 0-3 of the wave's
instruction; the rest uses stages from 8 up. -/
def Cx.commit (c : Cx) (lvl : Nat) (k : State → Res) : Res :=
  if 8 ≤ c.w.stage then k c.s
  else if c.w.stage = 0 then
    match c.commitStart lvl with
    | .error r => r
    | .ok s => c.commitRest lvl s k
  else c.commitRest lvl c.s k

/-- The publication of a cross-die commit at T (R163): every line becomes device-level, and every scratchpad line enters its
tile, as it was sent, in one step, and the block's interval ends. Log entry 40 (DEDUCED). -/
def State.publishStaged (s : State) (wid : Nat) : State :=
  match s.wave? wid with
  | none => s
  | some w =>
    match s.block? w.blk with
    | none => s
    | some b =>
      let held := s.clusterLines b
      let line (t : Staged) : PLine := { scr := t.scr, line := t.line, data := t.data, mask := t.mask }
      let glob := w.staged.filter (fun t => !t.scr)
      let scr := (w.staged.filter Staged.scr).map line
      let p := s.partOfWave wid
      let s := s.publish p w.core (fun l => (findLine held false l).isSome)
        (glob.map (fun t => (line t, { space := t.space, pa := 64 * t.pline, ss := t.ss })))
      let s := glob.foldl (fun s t => s.clearPath w t.line t.mask t.live t.liveC) s
      let s := s.updBlock w.blk (fun b => (b.toTiles scr).newInterval)
      let s := s.updWave wid (fun x => { x.dropLines (fun p => p.scr) with staged := [] })
      s.logDev p 1 3 w.staged.length (agentOf w)

/-! ## Abort (R151) and acquire (R152) -/

/-- Discard every block-level line of a block and open a new interval. -/
def State.abortBlock (s : State) (w : Wave) : State :=
  (s.tickNow).updBlock w.blk (fun b => { b.newInterval with lines := [], seq := b.seq + 1 })
/-- Discard every cluster-level line of a block's cluster. -/
def State.abortCluster (s : State) (b : Block) : State :=
  (s.tickNow).updCluster b (fun c => { c with lines := [], seq := c.seq + 1 })

/-- An acquire of a wave at a level (R152, R166): .dev and .sys leave no older clean copy to its later loads. -/
def State.acquire (s : State) (wid lvl : Nat) : State :=
  if lvl ≤ 2 then s
  else
    let s := s.tickNow
    s.updWave wid (fun w => { w with acqDev := s.now, acqSys := if lvl = 4 then s.now else w.acqSys })

end Sys2Proof.Machine
end

