-- ==== Sys2Proof/Machine/Access.lean ====
section
/-! DEFINITION. How an access of a wave issues (R137-R145, R263): the per-lane checks and the trap they give, engine-owned
tiles, a load's capture of buffered bytes and the lines left to read, and a store's merge into the wave buffer or, in
handler mode, into device level or a tile. -/

namespace Sys2Proof.Machine

/-! ## The checks of R138 -/

/-- One piece of an access: the lane that makes it, its address and its size in bytes. -/
structure Piece where
  lane : Nat
  addr : Nat
  size : Nat
  deriving DecidableEq, Repr

/-- The smallest cause of a piece (R138): alignment, then the page, or the block's allotment for scratchpad. -/
def Cx.cause (c : Cx) (scr : Bool) (acc : Access) (q : Piece) : Option (BitVec 6) :=
  if q.addr % q.size ≠ 0 then some 4#6
  else if scr then (if 4096 * c.ntiles < q.addr + q.size then some 21#6 else none)
  else
    match c.s.translate c.w.core c.part acc q.addr with
    | .error k => some k
    | .ok _ => none

/-- The trap of some faulting pieces (R137, R258, R260): the smallest code, ADDR that of the lowest lane with it, every
lane's own smallest code; a scalar form marks every lane of %exec. -/
def Cx.faultOf (c : Cx) (bad : List (Piece × BitVec 6)) : Option Trap :=
  match bad with
  | [] => none
  | b :: _ =>
    let low (xs : List (Piece × BitVec 6)) (d : BitVec 6) : BitVec 6 :=
      xs.foldl (fun m x => if x.2.toNat < m.toNat then x.2 else m) d
    let code := low bad b.2
    let addr := match bad.find? (fun x => x.2 = code) with | some x => dword x.1.addr | none => 0#64
    if c.vec then
      some { code := code, addr := addr
             laneCause := (List.range 32).map (fun l =>
               match bad.filter (fun x => x.1.lane = l) with | [] => 0#6 | x :: xs => low xs x.2) }
    else some { c.all code with addr := addr }

/-- The faulting pieces of an access. -/
def Cx.badPieces (c : Cx) (scr : Bool) (acc : Access) (ps : List Piece) : List (Piece × BitVec 6) :=
  ps.filterMap (fun q => (c.cause scr acc q).map (fun k => (q, k)))

/-- The access is held at a tile that an engine owns (R142); a handler that saves or restores is not (R263). -/
def Cx.tileHeld (c : Cx) (ps : List Piece) : Bool :=
  !(c.w.hnd && c.w.phase ≠ .plain) && ps.any (fun q => c.b.engineOwns (q.addr / 4096))

/-! ## Lanes and addresses -/

/-- The lanes that act: every lane with lane_on in vector form, one access numbered lane 0 in scalar form. -/
def Cx.accessLanes (c : Cx) : List Nat := if c.vec then lanesOf c.lanes else [0]
/-- The lane whose registers a scalar form reads. Log entry 35 (DEDUCED). -/
def Cx.readLane (c : Cx) (l : Nat) : Nat := if c.vec then l else c.lane0
/-- A helper lane of a vector form (R23). -/
def Cx.isHelper (c : Cx) (l : Nat) : Bool := c.vec && c.helper l

/-- The address of a lane by space, and whether it is indexed (R137, R144); a null lane has none. -/
def Cx.laneAddr (c : Cx) (scr indexed : Bool) (size l : Nat) : Option Nat :=
  let l := c.readLane l
  if indexed then (if c.index l = nullIndex then none else some (c.gatherAddr scr size l))
  else some (if scr then c.eaScr l else c.ea l)

/-- The size in bytes of an access at the instruction's type. -/
def Cx.size (c : Cx) : Nat := (tyOf c.e).width / 8

/-- The pieces of a plain access. -/
def Cx.pieces (c : Cx) (scr indexed : Bool) : List Piece :=
  c.accessLanes.filterMap (fun l => (c.laneAddr scr indexed c.size l).map (fun a => ⟨l, a, c.size⟩))

/-! ## Loads -/

/-- Distinct 64-byte lines of some pieces, in order. -/
def linesOf (ps : List Piece) : List Nat :=
  ps.foldl (fun ls q =>
    let a := q.addr / 64
    let b := (q.addr + q.size - 1) / 64
    let ls := if ls.contains a then ls else ls ++ [a]
    if ls.contains b then ls else ls ++ [b]) []

/-- The addresses of the bytes of some pieces. -/
def bytesOf (ps : List Piece) : List Nat := ps.flatMap (fun q => (List.range q.size).map (fun i => q.addr + i))

/-- A byte of the wave's own buffer. -/
def bufByte (b : List (Option PLine)) (scr : Bool) (a : Nat) : Option Byte :=
  match findLine (bufLines b) scr (a / 64) with
  | some p => if p.has (a % 64) then some (p.data.getD (a % 64) 0#8) else none
  | none => none

/-- Issue a load (R138, R141): its checks, then the bytes the wave's own buffer holds, then one read for each line that
still has a byte to give. A faulting helper lane receives 0 (R23). `o` carries what the destination takes, `known`
the faults already found, `pre` bytes that are read nowhere. The load's address, which a trap 20 gives, is that of its lowest
lane's first piece. Log entry 122 (DESIGN CHOICE). -/
def Cx.issueLoad (c : Cx) (scr : Bool) (known : List (Piece × BitVec 6)) (ps : List Piece) (pre : List (Nat × Byte))
    (o : OutLoad) (acqLvl : Nat) : Res :=
  let bad := known ++ c.badPieces scr .load ps
  match c.faultOf (bad.filter (fun x => !c.isHelper x.1.lane)) with
  | some t => .trap t
  | none =>
    let dropped (l : Nat) : Bool := bad.any (fun x => x.1.lane = l)
    let ps := ps.filter (fun q => !dropped q.lane)
    if scr && c.tileHeld ps then c.waitOwner
    else
      let need := bytesOf ps
      let own := if o.direct then [] else need.filterMap (fun a => (bufByte c.w.buf scr a).map (fun b => (a, b)))
      let got := pre ++ own
      let open_ := need.filter (fun a => !got.any (fun g => g.1 = a))
      let lines := (linesOf ps).filter (fun l => open_.any (fun a => a / 64 = l))
      let refs := lines.map (fun l =>
        if scr then ({ scr := true, line := l, space := .hbm, pline := l, ss := false } : LineRef)
        else match c.s.translate c.w.core c.part .load (64 * l) with
          | .ok pl => { scr := false, line := l, space := pl.space, pline := pl.pa / 64, ss := pl.ss }
          | .error _ => { scr := false, line := l, space := .hbm, pline := l, ss := false })
      let o := { o with
        got := got, remain := refs
        zeros := laneMask (fun l => o.zeros.getLsbD l || dropped l)
        addr := match ps with | q :: _ => dword q.addr | [] => 0#64 }
      let s := if scr then c.s else c.s.fillTlb c.w.core c.part (lines.map (fun l => 64 * l))
      let s := s.acquire c.wid acqLvl
      let s := s.updWave c.wid (fun w => { w with loads := w.loads ++ [o] })
      .done (if refs.isEmpty && c.w.loads.isEmpty then s.returnLine c.wid 0 false else s)

/-- What a plain load's destination takes. -/
def Cx.outLoad (c : Cx) (kind : LoadKind) (size : Nat) (addrs : Nat → Option Nat) (zeros : LaneMask) : OutLoad :=
  { kind := kind, dst := c.e.dst, vec := c.vec, lanes := c.lanes, zeros := zeros, size := size
    addrs := (List.range 32).map (fun l => if c.accessLanes.contains l then addrs l else none)
    got := [], remain := [], direct := c.w.hnd, noCopy := hintCode c.e = 3, helpers := laneMask c.isHelper, addr := 0#64, poison := false, issued := c.s.clk }

/-- ld and gat (R142, R144). -/
def Cx.plainLoad (c : Cx) (scr indexed : Bool) : Res :=
  let addr (l : Nat) := c.laneAddr scr indexed c.size l
  let zeros := laneMask (fun l => c.accessLanes.contains l && (addr l).isNone)
  c.issueLoad scr [] (c.pieces scr indexed) [] (c.outLoad (.plain (typeCode c.e)) c.size addr zeros)
    (if ordCode c.e = 1 then scopeCode c.e else 0)

/-! ## Stores -/

/-- The bytes that a store's lanes write, in ascending lane order, as masked lines (R139): the highest lane's byte stays.
`vals` gives each piece with its data. -/
def storeLines (scr : Bool) (vals : List (Piece × Nat)) : List PLine :=
  vals.foldl (fun ls x =>
    (List.range x.1.size).foldl (fun ls i =>
      let a := x.1.addr + i
      mergeLine ls ((PLine.empty scr (a / 64)).put (a % 64) (byteOf (x.2 / 2 ^ (8 * i))))) ls) []

/-- A store of handler mode (R263): each global line is a device-level write that counts in %acks until acknowledged; a
scratchpad line goes into its tile. Log entry 50 (DEDUCED). -/
def Cx.handlerStore (c : Cx) (scr : Bool) (ls : List PLine) : Res :=
  if scr then .done (c.s.updBlock c.w.blk (fun b => { b.toTiles ls with seq := b.seq + 1 }))
  else if !c.mayLog 1 then c.waitLog
  else
    match c.s.placeLines c.w.core c.part ls with
    | .error (k, a) => .trap { c.all k with addr := dword a }
    | .ok ps =>
      if ps.any (fun x => c.s.stackHeld x.2.space (x.2.pa / 64)) then .wait c.s .commit 8 c.w.stage c.w.aux
      else
      let s := c.s.publish c.part c.w.core (fun _ => false) ps
      let s := s.updWave c.wid (fun w => w.send (ps.map (fun x =>
        { space := x.2.space, pline := x.2.pa / 64, data := x.1.data, mask := x.1.mask, sysWrite := false, issued := c.s.clk, ofCommit := false })))
      .done (s.logDev c.part 1 3 ls.length (agentOf c.w))

/-- Merge lines into the wave buffer. -/
def State.intoBuffer (s : State) (wid : Nat) (ls : List PLine) : State :=
  s.updWave wid (fun w => { w with buf := ls.foldl bufMerge w.buf })

/-- Issue a store (R138-R140, R142-R144): its checks, the room of the wave buffer (trap 8, or with AUTOC an implicit
commit.wave first), the merge, and with ORD 2 the commit that follows. Log entries 38 (DEDUCED), 51 (DEDUCED). -/
def Cx.issueStore (c : Cx) (scr indexed : Bool) : Res :=
  let ps := (c.pieces scr indexed).filter (fun q => !c.isHelper q.lane)
  let rel (c : Cx) : Res :=
    if ordCode c.e = 2 then c.commit (scopeCode c.e) .done else .done c.s
  if c.w.stage ≠ 0 then rel c
  else
    match c.faultOf (c.badPieces scr .store ps) with
    | some t => .trap t
    | none =>
      if scr && c.tileHeld ps then c.waitOwner
      else
        let ls := storeLines scr (ps.map (fun q => (q, c.src c.e.c (tyOf c.e) (c.readLane q.lane))))
        let fill (s : State) : State :=
          if scr then s else s.fillTlb c.w.core c.part (ls.map (fun l => 64 * l.line))
        if c.w.hnd then
          match (if ordCode c.e = 2 then c.commitStart (scopeCode c.e) else .ok c.s), c.handlerStore scr ls with
          | .error r, _ => r
          | .ok _, .done s => rel (c.on (fill s))
          | .ok _, r => r
        else
          let put (c : Cx) : Res := rel (c.on (fill (c.s.intoBuffer c.wid ls)))
          if bufNeed c.w.buf ls ≤ bufFree c.w.buf then put c
          else if !c.w.autoc then .trap (c.all 8#6)
          else
            match c.commitStart 0 with
            | .error r => r
            | .ok s => put (c.on s)

end Sys2Proof.Machine
end

