-- ==== Sys2Proof/Machine/Issue.lean ====
section
/-! DEFINITION. What stands between a wave and its next instruction: pending causes (R258), the entry to a save (R196,
R267, R269, R271), a pending role switch (R39, R40), the fetch (R86, R273), decoding, and the scoreboard (R65). -/

namespace Sys2Proof.Machine

/-! ## Boundaries and pending causes (R258) -/

/-- The wave is at an instruction boundary: nothing of the instruction at pc has been performed, or the wave is stalled in
it at a wait other than for the lines of a commit in progress or between the lanes of an atomic, which is its stage 9 (R159,
R189, R258, R267). Log entry 57 (DEDUCED). -/
def Wave.atBoundary (w : Wave) : Bool :=
  w.stage = 0 || (w.wait ≠ .no && w.wait ≠ .commit && w.wait ≠ .atom && w.wait ≠ .sysAtom && !(w.wait = .slot && w.stage = 9))

/-- The pending cause that is taken first: 63, 48, 51, 50, then the others in ascending code (R258). -/
def firstPending (ps : List Pending) : Option Pending :=
  let pick (c : BitVec 6) := ps.find? (fun p => p.code = c)
  match pick 63#6 with
  | some p => some p
  | none => match pick 48#6 with
    | some p => some p
    | none => match pick 51#6 with
      | some p => some p
      | none => match pick 50#6 with
        | some p => some p
        | none => ps.foldl (fun best p =>
            match best with
            | none => some p
            | some b => if p.code.toNat < b.code.toNat then some p else some b) none

/-- What the model keeps of an interrupted wait (R258): the place inside the instruction, such as a barrier's arrival
that has been counted; that an interrupted sleep has ended. `mbar.wait` and `task.wait`, which wait in stage 11, start again, and an
interrupted topk.mrg reads its image again.
Log entries 45 (DEDUCED), 61 (DEDUCED). -/
def Wave.keptStage (w : Wave) : Nat × Nat :=
  if w.wait = .sleep then (2, 0) else if w.wait = .list || w.stage = 11 then (0, 0) else (w.stage, w.aux)

def Wave.dropPend (w : Wave) (c : BitVec 6) : Wave := { w with pend := w.pend.filter (fun p => p.code ≠ c) }

/-- Deadline clocks remaining of a block's pre-emption (R260, R267). -/
def State.deadlineLeft (s : State) (w : Wave) : Nat :=
  match (s.block? w.blk).bind Block.pre with
  | none => 0
  | some r =>
    let dl := (s.part (s.partOfWave w.wid)).preDl.toNat
    dl - s.dieSince w.core r.since

/-- The pre-emption of a wave's block is a swap or a checkpoint, in which no handler runs (R271, R278). -/
def State.swapping (s : State) (w : Wave) : Bool :=
  match (s.block? w.blk).bind Block.pre with
  | some r => r.why = .swap || r.why = .tadpole
  | none => false

/-- The commands of a block that its save waits for: its copies to and from tiles and rings (R250).
Log entry 49 (DEDUCED). -/
def State.blockCopies (s : State) (b : Nat) : Bool :=
  s.cmds.any (fun c => c.blk = b && (match c.kind with | .copy k => (k.packet.getD 0 0#64).toNat % 256 ≠ 1 && !k.landed | _ => false))

/-- Units of a partition's save area that are in use: waves' slots and block records. Log entry 21 (DESIGN CHOICE). -/
def State.saveUnits (s : State) (p : Nat) : List Nat :=
  (s.waves.filter (fun w => s.partOfWave w.wid = p)).filterMap Wave.saveUnit
    ++ (s.blocks.filter (fun b => s.partOfBlock b.uid = p)).flatMap Block.recUnits ++ (s.part p).swapUnits

/-- The lowest unit of a partition's save area that nothing uses; the spec gives the area's size but not its layout
(log entry 21). -/
def State.freeSaveUnit (s : State) (p size : Nat) : Option Nat :=
  (List.range size).find? (fun u => !(s.saveUnits p).contains u)

/-- A save waits for the wave's acknowledgements and accepted updates, with stall reason 1 (R64, R267). -/
def State.waitSave (s : State) (w : Nat) : State :=
  s.updWave w (fun y => { y with wait := if y.wait = .no then .queue else y.wait, stall := 1#4 })

/-- Enter a save with cause 48 or 49 (R267, R268): the outstanding loads complete, %acks is awaited, and the wave enters
its handler with SAVE set, `pc` being where it resumes; its accepted Gecko updates are awaited too, and its waiting
Gecko reads withdrawn (R366). In a swap it stops at once (R271). With no usable handler or save
area it takes cause 63 (R261). Log entry 21 (DESIGN CHOICE). -/
def State.enterSave (s : State) (w : Nat) (cause : BitVec 6) (pc : Dword) (keep : Nat × Nat) : State :=
  match s.wave? w with
  | none => s
  | some x =>
    if !s.mayDrain w then s.waitDrain w
    else
    let s := s.drainLoads w
    if x.acks ≠ 0 || s.gkPending w then s.waitSave w
    else
    let s := s.gkWithdraw w
    if s.swapping x then
      s.updWave w (fun y => { y with
        pc := pc, stage := keep.1, aux := keep.2, issued := if keep.1 = 0 then none else y.issued, stopped := true, stall := 1#4
        saveDone := true, pend := y.pend.filter (fun p => p.code ≠ 48#6) })
    else
      let p := s.partOfWave w
      let r := { trapRec s x cause 0#32 x.exec 0#64 with
        pc := pc, save := true, async := true, info0 := word (s.deadlineLeft x) }
      let unit := match (s.part p).ctx with
        | some c => if c.handler = 0#64 then none else s.freeSaveUnit p c.saveSize
        | none => none
      match unit with
      | none => (s.updWave w (fun y => y.dropPend 48#6)).machineCheck w { r with orig := cause } 0#64
      | some u => (s.updWave w (fun y => { y.dropPend 48#6 with saveUnit := some u, saveDone := false })).enterHandler w r .save
          keep.1 keep.2

/-- A hardware save inside the handler (R269): the wave stops whole, with its handler state, to resume at `pc`.
Log entries 46 (DEDUCED), 94 (DESIGN CHOICE). -/
def State.hardwareSave (s : State) (w : Nat) (pc : Dword) (keep : Nat × Nat) : State :=
  match s.wave? w with
  | none => s
  | some x =>
    if !s.mayDrain w then s.waitDrain w
    else
    let s := s.drainLoads w
    if x.acks ≠ 0 || s.gkPending w then s.waitSave w
    else (s.gkWithdraw w).updWave w (fun y => { y with
      pc := pc, stage := keep.1, aux := keep.2, issued := if keep.1 = 0 then none else y.issued, stopped := true, stall := 1#4
      saveDone := true
      trec := y.trec.set 0 ((y.trec.getD 0 0#64) ||| 0x2000#64)
      pend := y.pend.filter (fun p => p.code ≠ 48#6) })

/-- Take a pending asynchronous cause at a boundary (R258): 63 stops the wave (R261), 48 enters the save, every other one
enters the handler, with PC and EPC at the next or the waiting instruction. Log entry 45 (DEDUCED). -/
def State.takeAsync (s : State) (w : Nat) (p : Pending) : State :=
  match s.wave? w with
  | none => s
  | some x =>
    if p.code = 63#6 then
      (s.updWave w (fun y => y.dropPend 63#6)).machineCheck w { p.trec with pc := x.pc, exec := x.exec, clk := s.clk }
        p.trec.addr
    else if p.code = 48#6 then s.enterSave w 48#6 x.pc x.keptStage
    else if !s.mayDrain w then s.waitDrain w
    else
      let r := { p.trec with pc := x.pc, exec := x.exec, clk := s.clk, async := true }
      (s.updWave w (fun y => y.dropPend p.code)).enterHandler w r .plain x.keptStage.1 x.keptStage.2

/-! ## Role switch (R39, R40) -/

/-- Vector registers per lane of a role (R28). -/
def roleVregs (r : LaunchRec) (j : Nat) : Nat :=
  if j = 0 then r.vregs + 1 else match r.roles[j - 1]? with | some x => x.2.2 + 1 | none => 0
def roleEntry (r : LaunchRec) (j : Nat) : Dword :=
  if j = 0 then r.entry else match r.roles[j - 1]? with | some x => x.1 | none => 0#64
def rolePrio (r : LaunchRec) (j : Nat) : BitVec 2 :=
  if j = 0 then r.prio else match r.roles[j - 1]? with | some x => x.2.1 | none => 0#2

/-- A wave switches to a role (R40): registers below both counts keep their values and registers gained read 0; the
stack is emptied, k0 becomes all its real lanes, and it resumes at the role's entry. The spec says nothing of helper lanes
there: they stop executing. Log entries 43 (DEDUCED), 118 (DESIGN CHOICE). -/
def Wave.switchRole (w : Wave) (r : LaunchRec) (j : BitVec 2) : Wave :=
  let n := roleVregs r j.toNat
  { w with
    role := j, prio := rolePrio r j.toNat, pc := roleEntry r j.toNat, exec := w.real, stack := []
    vregs := (List.range n).map (fun i => w.vregs.getD i (List.replicate 32 0#32))
    rolePend := none, stage := 0, aux := 0, issued := none, wait := .no }

/-- The launch record of a wave. -/
def State.recOf (s : State) (w : Wave) : Option LaunchRec :=
  (s.block? w.blk).bind (fun b => (s.grid? b.grid).map (fun g => g.launch.record))

/-! ## The scoreboard (R65) -/

/-- Registers from a selector, numbered as DST numbers them. -/
def selRegs (n : Nat) (x : BitVec 10) : List Nat :=
  match Sel.of x with
  | .v r => (List.range n).map (fun i => r + i)
  | .s r => (List.range n).map (fun i => 256 + r + i)
  | .k r => [384 + r]
  | _ => []
/-- Registers that a source field names. -/
def srcRegs (kind : Src) (x : BitVec 10) : List Nat :=
  match kind with
  | .unused | .srcType | .unread _ => []
  | .any w | .uniAny w | .v w => selRegs (if w then 2 else 1) x
  | .sPair | .base | .uniBase | .uniBaseOr0 | .pair64 => selRegs 2 x
  | .block n => selRegs (if n = 1 then 4 else n) x
  | _ => selRegs 1 x
/-- Registers from a destination. -/
def dstRegs (n : Nat) (x : BitVec 9) : List Nat :=
  match Dst.of x with
  | .v r => (List.range n).map (fun i => r + i)
  | .s r => (List.range n).map (fun i => 256 + r + i)
  | .k r => [384 + r]
  | _ => []
def dstKindRegs (kind : DstKind) (x : BitVec 9) : List Nat :=
  match kind with
  | .unused => []
  | .vs w | .vsk w => dstRegs (if w then 2 else 1) x
  | .v2 | .sPair | .sPairOrNone => dstRegs 2 x
  | _ => dstRegs 1 x

/-- The tables that a gk.eval names: the count in the first register of its block, none where the count is refused (R362). -/
def Wave.evalCount (w : Wave) (a : BitVec 10) : Nat :=
  match Sel.of a with
  | .s n => let k := (w.sget n).toNat; if 1 ≤ k ∧ k ≤ 4 then k else 0
  | _ => 0

/-- The index registers that a tld reads: as many as the entry of its tensor has dimensions, none where the entry cannot be
read (R146). -/
def State.tldRegs (s : State) (w : Wave) (e : Enc) : Nat :=
  match s.block? w.blk, s.gridOf w with
  | some b, some g =>
    let iv : AtIssue := { win := 0#64, clk := s.clk, preq := w.preq, bconf := b.bconf, acks := w.acks, nwaves := b.members.length }
    let c : Cx := { s := s, w := w, b := b, g := g, op := 0x65, e := e, sh := opShape 0x65 e, vec := true, lanes := laneOn w e, iv := iv }
    let id := c.n32 e.a
    let p := g.launch.part
    let ndim (x : Dword) : Nat := bitsOf x.toNat 9 8 + 1
    match (s.die (dieOf w.core)).tcache.find? (fun x => x.1 = p && x.2.1 = id) with
    | some x => ndim (x.2.2.getD 3 0#64)
    | none =>
      match s.vdword (dieOf w.core) p ((match (s.part p).ctx with | some x => x.ttBase.toNat | none => 0) + 64 * id + 24) with
      | .ok x => ndim x
      | .error _ => 0
  | _, _ => 0

/-- Registers that an instruction reads: those its fields name, and those that its operands name in turn (R146, R362). -/
def State.readRegs (s : State) (w : Wave) (op : Nat) (e : Enc) : List Nat :=
  let sh := opShape op e
  srcRegs sh.a e.a ++ (if op = 0xD6 then selRegs (4 + 2 * w.evalCount e.a) e.a else [])
    ++ (if op = 0x65 then selRegs (s.tldRegs w e) e.b else srcRegs sh.b e.b) ++ (if sh.branch then [] else srcRegs sh.c e.c)

/-- The registers that an instruction reads or writes. -/
def State.instrRegs (s : State) (w : Wave) (op : Nat) (e : Enc) : List Nat :=
  let sh := opShape op e
  (if e.gmask = 0#3 then [] else [384 + e.gmask.toNat])
    ++ (if sh.branch then [] else dstKindRegs sh.dst e.dst) ++ s.readRegs w op e

/-- Registers with a write outstanding: the destinations of loads and of engine results (R65). -/
def Wave.outstanding (w : Wave) : List Nat :=
  w.loads.flatMap (fun o => dstRegs (if o.wide then 2 else 1) o.dst) ++ w.claims.flatMap (dstRegs 1)

/-- The instruction uses the top-k list (R367): the top-k instructions, and gk.eval with TOPK. -/
def usesTopk (w : Wave) (op : Nat) (e : Enc) : Bool :=
  (decide (0xD9 ≤ op) && decide (op ≤ 0xDD)) ||
    (op = 0xD6 && (match Sel.of e.a with | .s n => (w.sget (n + 2)).getLsbD 0 | _ => false))

/-- The scoreboard holds the instruction (R65, R367). -/
def State.held (s : State) (w : Wave) (op : Nat) (e : Enc) : Bool :=
  (s.instrRegs w op e).any (fun r => w.outstanding.contains r) || (usesTopk w op e && decide (w.topkClaims ≠ 0))

/-! ## Fetch (R86, R136, R273) -/

/-- The bytes of `n` at a virtual address as the fetch reads them, at device level (log entry 14), or the fault. -/
def State.fetchBytes (s : State) (w : Wave) (p va n : Nat) : Except (BitVec 6) (List Byte) :=
  match s.translate w.core p .fetch va with
  | .error c => .error c
  | .ok pl =>
    if !s.extentHere pl.space (pl.pa / 64) then .error 25#6
    else if s.poisonedAt pl.space (pl.pa / 64) then .error 20#6
    else .ok (s.devBytes pl.space pl.pa n)

/-- Fetch and decode the instruction at a wave's pc (R86): a fault on either word is the instruction's, at its address;
an unallocated opcode is trap 1 (R103). A pc that is no multiple of 8 is trap 4 (log entry 15). Log entry 14 (DEDUCED). -/
def State.fetch (s : State) (w : Wave) : Except Trap Instr :=
  let p := s.partOfWave w.wid
  let bad (c : BitVec 6) : Trap := { code := c, lanes := w.exec, addr := w.pc, info0 := 1#32 }
  if w.pc.toNat % 8 ≠ 0 then .error (bad 4#6)
  else
    match s.fetchBytes w p w.pc.toNat 8 with
    | .error c => .error (bad c)
    | .ok bs =>
      let base := BitVec.ofNat 64 (leNat bs)
      let more : Except (BitVec 6) (List Byte) :=
        if wordX base then s.fetchBytes w p (w.pc.toNat + 8) 8 else .ok []
      match more with
      | .error c => .error (bad c)
      | .ok bs' =>
        match decode (bs ++ bs') with
        | .ok (i, _) => .ok i
        | .error _ => .error { code := 1#6, lanes := w.exec }

/-! ## Whether a wave may move -/

/-- A wave may take a turn: it is there, its block is resident and it has not stopped. -/
def State.canRun (s : State) (w : Wave) : Bool :=
  !w.stopped && (match s.block? w.blk with | some b => b.status ≠ .saved | none => false)

/-- A pre-emption request that a wait of R196 answers at once: the wave waits in bar.clus, bar.grid, mbar.wait or
task.wait outside its handler. Log entry 44 (DEDUCED). -/
def Wave.yieldsAtWait (w : Wave) : Bool :=
  w.preq && !w.hnd && (w.wait = .gbar || w.wait = .mbar || w.wait = .task)

/-- The stack that holds the wave's next instruction takes no requests (R413). -/
def State.fetchHeld (s : State) (w : Wave) : Bool :=
  match s.translate w.core (s.partOfWave w.wid) .fetch w.pc.toNat with | .ok pl => s.stackHeld pl.space (pl.pa / 64) | .error _ => false

/-- The fetch of the wave's next instruction has not returned yet: when it returns is not fixed, but for a wave that has taken
its place or issued in this very clock. It has been under way in every clock since the wave's last issue, and a wave that has
come to wait for something else has its instruction. Log entry 119 (DESIGN CHOICE). -/
def State.fetchLate (s : State) (w : Wave) : Bool :=
  w.stage = 0 && (w.wait = .no || w.wait = .fetch) && w.lastIssue ≠ s.clk
    && (s.fetchHeld w || (List.range (s.clk - w.lastIssue).toNat).all (fun i => Config.fetchLate w.wid (w.lastIssue.toNat + 1 + i)))

end Sys2Proof.Machine
end

