-- ==== Sys2Proof/Machine/Blocks.lean ====
section
/-! DEFINITION. Waves, blocks and grids over their life: the state a new wave starts with (R22, R32, R156, R166, R224,
R246, R367), barrier counts (R36, R195), admission arithmetic and placement (R30, R31, R52-R55), attach (R32-R34),
retirement (R70), the kernel boundary (R168) and completion (R48, R204). -/

namespace Sys2Proof.Machine

/-! ## New waves -/

/-- The real lanes of a wave of `n` lanes, and its live lanes: helper lanes fill the last quad (R22). -/
def realLanes (n : Nat) : LaneMask := laneMask (fun i => decide (i < n))
def liveLanes (n : Nat) : LaneMask := laneMask (fun i => decide (i < ceilDiv n 4 * 4))

/-- A new wave in a slot: registers 0, nothing pending, its stochastic stream keyed by its block and index (R32, R224).
`mark` is its first acquire mark: the moment of launch (R166), or 0 for an attached wave (R32). -/
def Wave.new (wid blk core slot windex age n nv ns : Nat) (role prio : BitVec 2) (pc : Dword) (key : Word) (lin : Nat)
    (mark : Nat) (clk : Dword) : Wave :=
  { wid := wid, blk := blk, core := core, slot := slot, windex := windex, role := role, prio := prio, age := age
    pc := pc, exec := liveLanes n, real := realLanes n, live := liveLanes n
    vregs := List.replicate nv (List.replicate 32 0#32), sregs := List.replicate ns 0#32
    kregs := List.replicate 8 0#32, stack := [], buf := List.replicate 64 none, wbPre := [], acks := 0, sent := []
    staged := [], mode := 0#32, epc := 0#64, emode := 0#32, eexec := 0#32, estack := setAside [], edepth := 0
    hs := List.replicate 4 0#64, trec := List.replicate 16 0#64, phase := .plain, saveUnit := none, saveDone := false
    stopped := false, mcheck := false, preq := false, pend := [], loads := [], claims := [], topkClaims := 0
    batchNo := 0#32, openBatch := [], opened := false, openFail := none, closed := [], lkey := (List.range 32).map (laneKey key lin windex)
    scnt := List.replicate 32 0#32, topk := {}, image := [], rolePend := none, wait := .no, stage := 0, aux := 0, issued := none
    uwait := .no, ustage := 0, uaux := 0, uissued := none, upc := 0#64, sleepEnd := 0#64, stall := 0#4, starved := 0, lastIssue := clk, barked := false, acqDev := mark, acqSys := 0
    seen := 0, winRead := [], mxLast := (0, 0, 0), lpos := List.replicate 5 0 }

/-! ## Slots (R193) -/

/-- Slots of a sync engine, and of its overflow area: 64 bytes each. -/
def seSlots : Nat := 131072
def Die.overflowSlots (d : Die) : Nat := d.seOvfSize.toNat % 2 ^ 32 * 1024

/-- A waiter's record is live while its wave waits. -/
def State.waiterLive (s : State) (w : Nat) : Bool :=
  match s.wave? w with | some x => x.wait = .mbar || x.wait = .gbar || x.wait = .task | none => false
/-- Records of waves that wait no longer, and of grids that have ended, are gone. -/
def State.seLive (s : State) (x : SeSlot) : Bool :=
  match x.kind with
  | .waiter => s.waiterLive x.addr
  | .grid => (s.grid? x.addr).isSome
  | _ => true

/-- Free the least recently used slot that can be freed: an atomic line goes back to its L2, an object or a grid record to
the overflow area while that has room. -/
def Die.evict (d : Die) : Option Die :=
  let room := decide (d.seOvf.length < d.overflowSlots)
  let can (x : SeSlot) : Bool := match x.kind with | .line => true | .object | .grid => room | .waiter => false
  match d.seSlots.reverse.find? can with
  | none => none
  | some x =>
    some { d with seSlots := d.seSlots.erase x
                  seOvf := if x.kind = .line then d.seOvf else d.seOvf ++ [x] }

/-- A change of the overflow area takes effect when the area is empty (R193). -/
def Die.settleOvf (d : Die) : Die :=
  match d.seOvfNext with
  | some x => if d.seOvf.isEmpty then { d with seOvfBase := x.1, seOvfSize := x.2, seOvfNext := none } else d
  | none => d

/-- Use a slot of a die's sync engine: none when no slot can be freed, or while the engine runs no verified code (R406). -/
def State.seUse (s : State) (die : Nat) (x : SeSlot) : Option State :=
  let d := s.die die
  let d := { d with seSlots := d.seSlots.filter s.seLive, seOvf := d.seOvf.filter s.seLive }
  let put (d : Die) : State := s.updDie die (fun _ => ({ d with seSlots := x :: d.seSlots.filter (· ≠ x), seOvf := d.seOvf.filter (· ≠ x) }).settleOvf)
  if !s.dieRuns die then none
  else if d.seSlots.contains x || decide (d.seSlots.length < seSlots) then some (put d)
  else d.evict.map put

/-- WAITS counts a delayed operation. -/
def Die.countWait (d : Die) : Die := { d with seWaits := if d.seWaits = 0xFFFF#16 then d.seWaits else d.seWaits + 1#16 }
/-- Use a slot for an operation that no wave waits in, named by `who`; an error: the state in which it waits, counted once. -/
def State.seTry (s : State) (die : Nat) (x : SeSlot) (who : Nat × Nat) : Except State State :=
  match s.seUse die x with
  | some s => .ok (if (s.die die).seWaiting.contains who then s.updDie die (fun d => { d with seWaiting := d.seWaiting.erase who }) else s)
  | none => .error (if (s.die die).seWaiting.contains who then s
      else s.updDie die (fun d => { d.countWait with seWaiting := d.seWaiting ++ [who] }))

/-! ## Barrier counts (R36, R195) -/

/-- An arrival of a wave: held for a later phase when the wave attached in this one or has arrived in it. With it, the
phase that the arrival counts for. -/
def BarCount.arrive (b : BarCount) (w : Nat) : BarCount × Nat :=
  if b.attached.contains w || b.arrived.contains w then
    ({ b with held := b.held ++ [w] }, b.phase + 1 + b.held.countP (· = w))
  else ({ b with arrived := b.arrived ++ [w] }, b.phase)

/-- The phase of a wave's latest arrival, if it is outstanding (R153). -/
def BarCount.latest (b : BarCount) (w : Nat) : Option Nat :=
  let k := b.held.countP (· = w)
  if k ≠ 0 then some (b.phase + k) else if b.arrived.contains w then some b.phase else none

/-- A detach. -/
def BarCount.detach (b : BarCount) (w : Nat) : BarCount :=
  let b := { b with held := b.held.filter (· ≠ w) }
  if b.attached.contains w then { b with attached := b.attached.filter (· ≠ w) }
  else if b.arrived.contains w then b
  else { b with expect := b.expect - 1 }

/-- An attach: the wave attached while this phase was open. -/
def BarCount.attach (b : BarCount) (w : Nat) : BarCount := { b with attached := b.attached ++ [w] }

/-- The next phase opens and counts the arrivals held for it. -/
def BarCount.opens (b : BarCount) (members : Nat) : BarCount :=
  b.held.foldl (fun b w =>
    if b.arrived.contains w then { b with held := b.held ++ [w] } else { b with arrived := b.arrived ++ [w] })
    { phase := b.phase + 1, expect := members }

/-- Complete the phase while A = E: also one that every counted wave has left, when waves that attached in it remain (R36). -/
def BarCount.settle (members : Nat) : (fuel : Nat) → BarCount → BarCount
  | 0, b => b
  | n + 1, b => if b.arrived.length = b.expect && members ≠ 0 then BarCount.settle members n (b.opens members) else b
/-- A count once every phase that it completes has completed: no more than arrivals are held, and one. -/
def BarCount.settled (members : Nat) (b : BarCount) : BarCount := b.settle members (b.held.length + 2)

/-- A block arrives at a cluster or grid barrier; a second arrival in one phase is held for the next. -/
def BlockBar.arrive (b : BlockBar) (u : Nat) : BlockBar :=
  if b.arrived.contains u then { b with held := b.held ++ [u] } else { b with arrived := b.arrived ++ [u] }
/-- A block retires. -/
def BlockBar.retire (b : BlockBar) (u : Nat) : BlockBar :=
  let b := { b with held := b.held.filter (· ≠ u) }
  if b.arrived.contains u then b else { b with expect := b.expect - 1 }
def BlockBar.opens (b : BlockBar) (blocks : Nat) : BlockBar :=
  b.held.foldl BlockBar.arrive { phase := b.phase + 1, expect := blocks }
/-- Complete the phase while A = E. -/
def BlockBar.settle (blocks : Nat) : (fuel : Nat) → BlockBar → BlockBar
  | 0, b => b
  | n + 1, b => if b.arrived.length = b.expect && b.expect ≠ 0 then BlockBar.settle blocks n (b.opens blocks) else b
/-- A count once every phase that it completes has completed. -/
def BlockBar.settled (blocks : Nat) (b : BlockBar) : BlockBar := b.settle blocks (b.held.length + 2)

/-- The three kinds of barrier. -/
inductive BarKind where
  | blk
  | clus
  | grid
  deriving DecidableEq, Repr

def Block.bar (b : Block) (k : BarKind) (n : Nat) : BarCount :=
  match k with
  | .blk => b.bars.getD n {}
  | .clus => b.cbars.getD n {}
  | .grid => b.gbars.getD n {}
def Block.setBar (b : Block) (k : BarKind) (n : Nat) (x : BarCount) : Block :=
  match k with
  | .blk => { b with bars := b.bars.set n x }
  | .clus => { b with cbars := b.cbars.set n x }
  | .grid => { b with gbars := b.gbars.set n x }
/-- How many barriers of a kind there are (R153, R194). -/
def BarKind.count : BarKind → Nat
  | .blk => 16
  | _ => 4

/-- Blocks of a grid, and of one of its clusters, in all. -/
def LaunchRec.total (r : LaunchRec) : Nat := r.gx * r.gy * r.gz
def LaunchRec.clusterSize (r : LaunchRec) : Nat := r.cluster + 1
/-- Blocks not yet retired, waiting ones included (R195). -/
def Grid.left (g : Grid) : Nat := g.launch.record.total - g.retired
def Cluster.left (c : Cluster) (r : LaunchRec) : Nat := r.clusterSize - c.retired.length

/-- The barrier a block's completed phases arrive at: the same change at cluster or grid level (R195). -/
def State.upperBar (s : State) (b : Block) (k : BarKind) (n : Nat) (f : BlockBar → BlockBar) : State :=
  match s.grid? b.grid with
  | none => s
  | some g =>
    match k with
    | .blk => s
    | .clus => s.updCluster b (fun c => { c with bars := c.bars.modify n (fun q => (f q).settled (c.left g.launch.record)) })
    | .grid => s.updGrid b.grid (fun g => { g with gbars := g.gbars.modify n (fun q => (f q).settled g.left) })

/-- Change a block's count at a barrier and complete what it completes; each completion of the block's own phase is an
arrival of the block at the cluster's or the grid's barrier (R36, R195). -/
def State.barUpdate (s : State) (u : Nat) (k : BarKind) (n : Nat) (f : BarCount → BarCount) : State :=
  match s.block? u with
  | none => s
  | some b =>
    let old := b.bar k n
    let new := (f old).settled b.members.length
    let s := s.updBlock u (fun b => b.setBar k n new)
    (List.range (new.phase - old.phase)).foldl (fun s _ => s.upperBar b k n (fun q => q.arrive u)) s

/-- A wave arrives at a barrier of its block: the state after, and the phase that the arrival counts for. -/
def State.arrive (s : State) (u : Nat) (k : BarKind) (n wid : Nat) : State × Nat :=
  match s.block? u with
  | none => (s, 0)
  | some b => (s.barUpdate u k n (fun x => (x.arrive wid).1), ((b.bar k n).arrive wid).2)

/-- Every barrier of a block sees a change of membership. -/
def State.barAll (s : State) (u : Nat) (f : BarCount → BarCount) : State :=
  [BarKind.blk, .clus, .grid].foldl (fun s k => (List.range k.count).foldl (fun s n => s.barUpdate u k n f) s) s

/-- The phase of a barrier that its waiters wait for has completed. -/
def State.phaseDone (s : State) (u : Nat) (k : BarKind) (n p : Nat) : Bool :=
  match s.block? u with
  | none => true
  | some b =>
    match k with
    | .blk => decide (p < (b.bar .blk n).phase)
    | .clus => (match s.cluster? b with | some c => decide (p < (c.bars.getD n {}).phase) | none => true)
    | .grid => (match s.grid? b.grid with | some g => decide (p < (g.gbars.getD n {}).phase) | none => true)

/-! ## Admission arithmetic (R30, R31) -/

/-- An amount of each resource of a core. -/
structure Room where
  waves : Nat
  granules : Nat
  sregs : Nat
  tiles : Nat
  slots : Nat
  deriving DecidableEq, Repr

def Room.add (a b : Room) : Room :=
  ⟨a.waves + b.waves, a.granules + b.granules, a.sregs + b.sregs, a.tiles + b.tiles, a.slots + b.slots⟩
def Room.le (a b : Room) : Bool :=
  decide (a.waves ≤ b.waves) && decide (a.granules ≤ b.granules) && decide (a.sregs ≤ b.sregs)
    && decide (a.tiles ≤ b.tiles) && decide (a.slots ≤ b.slots)
/-- A core's capacity (R31). -/
def coreRoom : Room := ⟨48, 192, 4096, 64, 16⟩

/-- Granules of a role: 256 registers each, 8 a lane (R30). -/
def roleGranules (r : LaunchRec) (j : Nat) : Nat := ceilDiv (roleVregs r j) 8
def sregCharge (r : LaunchRec) : Nat := ceilDiv (r.sregs + 1) 16 * 16
def scratchTiles (r : LaunchRec) : Nat := ceilDiv r.scratch 4096
/-- What one wave of a role is charged. -/
def waveRoom (r : LaunchRec) (j : Nat) : Room := ⟨1, roleGranules r j, sregCharge r, 0, 0⟩
/-- What a wave holds: a pending role switch that needs more is charged already (R39). Log entry 43 (DEDUCED). -/
def Wave.room (w : Wave) (r : LaunchRec) : Room :=
  let j := match w.rolePend with | some j => if roleGranules r w.role.toNat < roleGranules r j.toNat then j else w.role | none => w.role
  waveRoom r j.toNat
/-- What a new block is charged. -/
def newBlockRoom (r : LaunchRec) : Room :=
  (List.range (r.init + 1)).foldl (fun a _ => a.add (waveRoom r 0)) ⟨0, 0, 0, scratchTiles r, 1⟩
/-- What a block holds, resident or saved. -/
def State.heldRoom (s : State) (b : Block) : Room :=
  match s.grid? b.grid with
  | none => ⟨0, 0, 0, b.ntiles, 1⟩
  | some g => b.members.foldl (fun a w =>
      match s.wave? w with | some w => a.add (w.room g.launch.record) | none => a) ⟨0, 0, 0, b.ntiles, 1⟩

/-- What the blocks of a core hold. -/
def State.usedRoom (s : State) (core : Nat) : Room :=
  (s.blocks.filter (fun b => b.core = core && b.status ≠ .saved)).foldl (fun a b => a.add (s.heldRoom b)) ⟨0, 0, 0, 0, 0⟩
/-- The core still has an amount free. -/
def State.hasRoom (s : State) (core : Nat) (need : Room) : Bool := ((s.usedRoom core).add need).le coreRoom

/-! ## Placement (R52-R54) -/

/-- The core's group has the partition's world, and is not being emptied for another (R403, R405). -/
def State.ofWorld (s : State) (p core : Nat) : Bool :=
  let d := s.die (dieOf core)
  (d.cgWorld.getLsbD (groupInDie core) == s.world p) && !d.cgEmptying.getLsbD (groupInDie core)
/-- Core groups of a die by world: a core takes blocks of its group's world only, and none while its group is being
emptied, or fenced or being swapped, or while the partition is halted (R271, R403, R405, R413, R414), nor while the distributor
of its die runs no verified code (R406) or the whole-memory copy runs (R385). -/
def State.coreOpen (s : State) (p core : Nat) : Bool :=
  !(s.core core).fenced && s.ofWorld p core && !(s.part p).swapping && s.dieRuns (dieOf core) && !s.hub.ckptRun && !s.hub.services.any (fun x => x.running && x.kind = .coreSwap core)
/-- The cores of a record's mask, ascending; a fenced core has left every mask (R414). -/
def State.maskCores (s : State) (r : LaunchRec) : List Nat :=
  (List.range 192).filter (fun c => r.mask.getLsbD c && !(s.core c).fenced)
/-- A list of cores starting at a pointer, wrapping. -/
def rotateFrom (cs : List Nat) (ptr : Nat) : List Nat := cs.filter (fun c => decide (ptr ≤ c)) ++ cs.filter (fun c => decide (c < ptr))
/-- The next core of a list after one, wrapping. -/
def nextAfter (cs : List Nat) (c : Nat) : Nat :=
  match cs.find? (fun x => decide (c < x)) with | some x => x | none => cs.headD 0

/-- A core is hot (R52). -/
def State.hot (s : State) (p core : Nat) : Bool :=
  let ctl := (s.part p).distCtl.toNat
  let ts := bitsOf ctl 31 24
  let ds := bitsOf ctl 39 32
  let c := s.core core
  (ts ≠ 0 && decide (ts ≤ c.tempC)) || (ds ≠ 0 && decide (ds ≤ c.droops.length))

def skipsOf (sk : List (Nat × Nat)) (c : Nat) : Nat := match sk.find? (fun x => x.1 = c) with | some x => x.2 | none => 0
def setSkips (sk : List (Nat × Nat)) (c n : Nat) : List (Nat × Nat) := (c, n) :: sk.filter (fun x => x.1 ≠ c)

/-- The choice of R53 among the cores that fit, in order: the core, and the skip counts after. -/
def State.pickCore (s : State) (p : Nat) (sk : List (Nat × Nat)) (cands : List Nat) : Option (Nat × List (Nat × Nat)) :=
  match cands with
  | [] => none
  | first :: _ =>
    let d := bitsOf (s.part p).distCtl.toNat 19 16
    let chosen := (cands.find? (fun c => !s.hot p c || decide (d ≤ skipsOf sk c))).getD first
    let sk := (cands.takeWhile (· ≠ chosen)).foldl (fun sk c => setSkips sk c (skipsOf sk c + 1)) sk
    some (chosen, setSkips sk chosen 0)

/-- The lowest number of a range that is not taken; which free slot is taken is the model's choice (log entry 19). -/
def lowestFree (n : Nat) (taken : Nat → Bool) : Nat := ((List.range n).find? (fun i => !taken i)).getD 0

/-- The wave slots and block slots of a core that are taken. -/
def State.slotTaken (s : State) (core i : Nat) : Bool :=
  s.waves.any (fun w => w.core = core && w.slot = i && (match s.block? w.blk with | some b => b.status ≠ .saved | none => false))
def State.blkSlotTaken (s : State) (core i : Nat) : Bool :=
  s.blocks.any (fun b => b.core = core && b.blkSlot = i && b.status ≠ .saved)

/-- Add a wave to a block: its index, role, entry and acquire mark given. Log entry 19 (DESIGN CHOICE). -/
def State.addWave (s : State) (b : Block) (g : Grid) (windex n : Nat) (role : BitVec 2) (pc : Dword) (mark : Nat) : State :=
  let r := g.launch.record
  let (wid, s) := s.newName
  let slot := lowestFree 48 (s.slotTaken b.core)
  let w := Wave.new wid b.uid b.core slot windex wid n (roleVregs r role.toNat) (r.sregs + 1) role (rolePrio r role.toNat) pc
    g.key b.lin mark s.clk
  let w := { w with preq := b.pre.isSome }
  { s with waves := s.waves ++ [w] }.updBlock b.uid (fun x => { x with members := x.members ++ [wid] })

/-- The lanes of an initial wave (R22). -/
def initLanes (r : LaunchRec) (i : Nat) : Nat := if i = r.init then r.lastLanes + 1 else 32

/-- Admit a block that has never run onto a core (R21, R68, R166): tiles 0, barriers in phase 1, its initial waves at
ENTRY. The first block of a cluster makes the cluster. Log entry 19 (DESIGN CHOICE). -/
def State.admitFresh (s : State) (g : Grid) (lin core : Nat) : State :=
  let r := g.launch.record
  let s := s.tickNow
  let (uid, s) := s.newName
  let bar : BarCount := { expect := r.init + 1 }
  let b : Block :=
    { uid := uid, grid := g.uid, lin := lin, core := core, blkSlot := lowestFree 16 (s.blkSlotTaken core), status := .resident
      admitted := uid, members := [], bars := List.replicate 16 bar, cbars := List.replicate 4 bar
      gbars := List.replicate 4 bar, lines := [], owners := [], seq := 0, bconf := 0#32, scr := [], ntiles := scratchTiles r
      engineOwned := List.replicate (scratchTiles r) false, tags := List.replicate (scratchTiles r) 0#2
      rings := List.replicate 8 {}, pre := none, savedRows := [], recUnits := [] }
  let num := lin / r.clusterSize
  let s := if s.clusters.any (fun c => c.grid = g.uid && c.num = num) then s
    else { s with clusters := s.clusters ++
      [{ grid := g.uid, num := num, group := groupOf core, lines := [], seq := 0
         bars := List.replicate 4 { expect := r.clusterSize }, retired := [] }] }
  let s := { s with blocks := s.blocks ++ [b] }
  (List.range (r.init + 1)).foldl (fun s i => s.addWave b g i (initLanes r i) 0#2 r.entry s.now) s

/-- A saved block takes its place on a core, to be restored there (R251, R270): slots, and a new age for each wave.
Log entry 19 (DESIGN CHOICE). -/
def State.placeSaved (s : State) (b : Block) (core : Nat) : State :=
  let s := s.updBlock b.uid (fun x => { x with status := .restoring, core := core, blkSlot := lowestFree 16 (s.blkSlotTaken core)
                                               admitted := s.fresh })
  let s := { s with fresh := s.fresh + 1 }
  let s := s.updCluster b (fun c => { c with group := groupOf core })
  b.members.foldl (fun s w =>
    let slot := lowestFree 48 (fun i => s.waves.any (fun x => x.wid ≠ w && x.core = core && x.slot = i &&
      (match s.block? x.blk with | some y => (y.status ≠ .saved && y.uid ≠ b.uid) || (y.uid = b.uid && decide (x.wid < w)) | none => false)))
    let (age, s) := s.newName
    s.updWave w (fun x => { x with core := core, slot := slot, age := age })) s

/-- The head of a grid's waiting queue (R42): blocks saved by priority first, then those never admitted, then those saved
by the slice rule. -/
inductive Head where
  | fresh (lin : Nat)
  | saved (b : Block)
  deriving DecidableEq, Repr

def State.blockAt (s : State) (g lin : Nat) : Option Block := s.blocks.find? (fun b => b.grid = g && b.lin = lin)
def State.head (s : State) (g : Grid) : Option Head :=
  match g.qHead with
  | l :: _ => (s.blockAt g.uid l).map Head.saved
  | [] =>
    if g.nextFresh < g.launch.record.total then some (.fresh g.nextFresh)
    else match g.qTail with
      | l :: _ => (s.blockAt g.uid l).map Head.saved
      | [] => none

/-- A core fits a grid's new block. -/
def State.fitsFresh (s : State) (g : Grid) (core : Nat) : Bool :=
  s.coreOpen g.launch.part core && s.hasRoom core (newBlockRoom g.launch.record)
/-- A core swap brings the block back on its own core's spare (R413, R414): no other core takes it. -/
def State.forSpare (s : State) (b : Block) (core : Nat) : Bool :=
  !s.hub.services.any (fun x => x.running && (match x.kind with | .coreSwap c => c ≠ core && x.blks.contains b.uid | _ => false))

/-- A core fits a saved block: room, none of its accumulator rows owned there (R251), and the group that holds its
cluster's other blocks (R176). Its pending lines may exceed the room left there. Log entry 141 (DESIGN CHOICE). -/
def State.fitsSaved (s : State) (g : Grid) (b : Block) (core : Nat) : Bool :=
  s.coreOpen g.launch.part core && s.hasRoom core (s.heldRoom b) && !s.rowsOwned core b.savedRows && s.forSpare b core
    && (match s.cluster? b with
        | none => true
        | some c => c.group = groupOf core ||
            !s.blocks.any (fun x => x.grid = b.grid && x.lin / g.launch.record.clusterSize = c.num && x.status ≠ .saved))
/-- How many new blocks of a grid a core takes at once. -/
def State.capacityFor (s : State) (g : Grid) (core : Nat) : Nat :=
  let need := newBlockRoom g.launch.record
  if s.coreOpen g.launch.part core then
    ((List.range 17).filter (fun n => ((List.range n).foldl (fun a _ => a.add need) (s.usedRoom core)).le coreRoom)).length - 1
  else 0
/-- A core group takes a whole cluster on its masked cores (R26). -/
def State.groupFits (s : State) (g : Grid) (cores : List Nat) (core : Nat) : Bool :=
  decide (g.launch.record.clusterSize ≤ (cores.filter (fun c => groupOf c = groupOf core)).foldl (fun n c => n + s.capacityFor g c) 0)

/-- Write back a grid's pointer and skip counts. -/
def State.setPtr (s : State) (g : Nat) (ptr : Nat) (sk : List (Nat × Nat)) : State :=
  s.updGrid g (fun x => { x with ptr := ptr, skips := sk })

/-- The head has been admitted: it leaves the queue, and the next head's wait starts (R58). -/
def State.popHead (s : State) (g : Nat) : State :=
  s.updGrid g (fun x =>
    let x := { x with headSince := s.clk, aged := false, started := true, startedAt := if x.started then x.startedAt else s.now }
    match x.qHead with
    | _ :: t => { x with qHead := t }
    | [] => if x.nextFresh < x.launch.record.total then { x with nextFresh := x.nextFresh + x.launch.record.clusterSize }
      else { x with qTail := x.qTail.drop 1 })

/-- Place the blocks of a new cluster in rank order on one group's masked cores (R54). Log entry 54 (DEDUCED). -/
def State.placeRanks (s : State) (gid : Nat) (cores : List Nat) : (left lin : Nat) → State
  | 0, _ => s
  | n + 1, lin =>
    match s.grid? gid with
    | none => s
    | some g =>
      match s.pickCore g.launch.part g.skips ((rotateFrom cores g.ptr).filter (s.fitsFresh g)) with
      | none => s
      | some (c, sk) =>
        State.placeRanks ((s.admitFresh g lin c).setPtr gid (nextAfter cores c) sk) gid cores n (lin + 1)

/-- Offer a grid's head (R53, R54): none when no masked core fits it. Log entry 54 (DEDUCED). -/
def State.tryHead (s : State) (g : Grid) : Option State :=
  let p := g.launch.part
  let r := g.launch.record
  let cores := s.maskCores r
  let order := rotateFrom cores g.ptr
  match s.head g with
  | none => none
  | some (.saved b) =>
    (s.pickCore p g.skips (order.filter (s.fitsSaved g b))).map (fun x =>
      ((s.placeSaved b x.1).setPtr g.uid (nextAfter cores x.1) x.2).popHead g.uid)
  | some (.fresh lin) =>
    if r.clusterSize = 1 then
      (s.pickCore p g.skips (order.filter (s.fitsFresh g))).map (fun x =>
        ((s.admitFresh g lin x.1).setPtr g.uid (nextAfter cores x.1) x.2).popHead g.uid)
    else
      (s.pickCore p g.skips (order.filter (s.groupFits g cores))).map (fun x =>
        let group := cores.filter (fun c => groupOf c = groupOf x.1)
        let s := (s.setPtr g.uid x.1 x.2).placeRanks g.uid group r.clusterSize lin
        let last := match s.blockAt g.uid (lin + r.clusterSize - 1) with | some b => b.core | none => x.1
        (s.updGrid g.uid (fun y => { y with ptr := nextAfter cores last })).popHead g.uid)

/-! ## The order of offers (R47, R55, R58) -/

/-- The class that a grid is served at. -/
def Grid.effClass (g : Grid) : Nat := if g.aged then 0 else g.launch.cls.toNat
/-- Insertion by class, then the grid favoured within its class, then launch order. -/
def servedBefore (fav : Option Nat) (a b : Grid) : Bool :=
  let f (g : Grid) : Nat := if fav = some g.uid then 0 else 1
  decide (a.effClass < b.effClass) || (a.effClass = b.effClass &&
    (decide (f a < f b) || (f a = f b && decide (a.order < b.order))))
def insertGrid (fav : Option Nat) (g : Grid) : List Grid → List Grid
  | [] => [g]
  | x :: xs => if servedBefore fav g x then g :: x :: xs else x :: insertGrid fav g xs
def State.servedOrder (s : State) (fav : Option Nat) : List Grid :=
  s.grids.foldl (fun l g => if (s.head g).isSome then insertGrid fav g l else l) []

/-- Admit heads, in order, while any fits. -/
def State.offerHeads (s : State) (fav : Option Nat) : (fuel : Nat) → State
  | 0 => s
  | n + 1 =>
    match (s.servedOrder fav).findSome? s.tryHead with
    | none => s
    | some s' => State.offerHeads s' fav n

/-! ## Requests for pre-emption (R56, R267) -/

/-- Force every member of a block that is not in its save with cause 48 (R267, R269). -/
def State.forceSave (s : State) (u : Nat) : State :=
  match s.block? u with
  | none => s
  | some b =>
    let s := s.updBlock u (fun b => { b with pre := b.pre.map (fun r => { r with expired := true }) })
    b.members.foldl (fun s w =>
      match s.wave? w with
      | none => s
      | some x => if x.stopped || x.phase = .save then s else s.pendCause w 48#6 (asyncRec s x 48#6 0#64)) s

/-- Request the pre-emption of a resident block (R267): %preq for every member and one deadline counter; a deadline of 0
forces at once. -/
def State.requestPre (s : State) (u : Nat) (why : PreWhy) : State :=
  match s.block? u with
  | none => s
  | some b =>
    if b.pre.isSome || b.status ≠ .resident then s
    else
      let s := s.updBlock u (fun b => { b with pre := some { why := why, since := s.clk, expired := false } })
      let s := b.members.foldl (fun s w => s.updWave w (fun x => { x with preq := true })) s
      if (s.part (s.partOfBlock u)).preDl = 0#32 then s.forceSave u else s

/-- The state as it would be with some blocks saved. -/
def State.without (s : State) (us : List Nat) : State :=
  { s with blocks := s.blocks.map (fun b => if us.contains b.uid then { b with status := .saved } else b)
           cores := s.cores.map (fun c => { c with acc := c.acc.filter (fun r => !us.contains r.owner) }) }

/-- The head would fit a core of its mask. -/
def State.headFits (s : State) (g : Grid) (core : Nat) : Bool :=
  match s.head g with
  | none => false
  | some (.saved b) => (s.maskCores g.launch.record).contains core && s.fitsSaved g b core
  | some (.fresh _) =>
    (s.maskCores g.launch.record).contains core &&
      (if g.launch.record.clusterSize = 1 then s.fitsFresh g core else s.groupFits g (s.maskCores g.launch.record) core)

/-- Blocks on the way out already count as gone. -/
def State.leaving (s : State) : List Nat := (s.blocks.filter (fun b => b.pre.isSome && b.status = .resident)).map Block.uid

/-- Save blocks of a list in order until the head fits a core: those saved, none when it never fits. The fewest blocks that the
order given allows are its shortest prefix that does, after the blocks already on their way out.
Log entry 121 (DESIGN CHOICE). -/
def State.victims (s : State) (g : Grid) (core : Nat) : List Nat → List Nat → Option (List Nat)
  | [], gone => if (s.without gone).headFits g core then some gone else none
  | v :: vs, gone =>
    if (s.without gone).headFits g core then some gone else State.victims s g core vs (gone ++ [v])

/-- Lowest class first, within a class the most recently admitted first (R56). -/
def insertVictim (b : Nat × Block) : List (Nat × Block) → List (Nat × Block)
  | [] => [b]
  | x :: xs =>
    if decide (x.1 < b.1) || (x.1 = b.1 && decide (x.2.admitted < b.2.admitted)) then b :: x :: xs else x :: insertVictim b xs
/-- The blocks of classes numerically above k on a core, or on its group for a cluster, in the order of R56. -/
def State.prioVictims (s : State) (g : Grid) (core : Nat) : List Nat :=
  let wide := g.launch.record.clusterSize ≠ 1
  (s.blocks.foldl (fun l b =>
    let here := b.core = core || (wide && groupOf b.core = groupOf core)
    match s.grid? b.grid with
    | some h => if here && b.status = .resident && b.pre.isNone && decide (g.effClass < h.effClass) then insertVictim (h.effClass, b) l else l
    | none => l) []).map (fun x => x.2.uid)

/-- Priority pre-emption for one grid's head (R56): nothing when the head fits, or will fit once the blocks already on
their way out are saved; otherwise the first core in pointer order on which saving lower classes makes room. -/
def State.prioPreempt (s : State) (g : Grid) : State :=
  let cores := rotateFrom (s.maskCores g.launch.record) g.ptr
  let out := s.leaving
  if cores.any ((s.without out).headFits g) then s
  else
    match cores.findSome? (fun c => s.victims g c (s.prioVictims g c) out) with
    | none => s
    | some us => (us.filter (fun u => !out.contains u)).foldl (fun s u => s.requestPre u .priority) s

/-! ## Attach (R32-R34) -/

/-- Waves that were detached from a block in this compute-die clock. -/
def State.leftNow (s : State) (b : Block) : Nat := if b.leftAt = s.dieClk b.core then b.leftN else 0

/-- The core has room for one more wave of role 0 of a block: room under the ceiling that a detach has made in the same clock
does not count (R33, R37). -/
def State.canAttach (s : State) (b : Block) (g : Grid) : Bool :=
  let r := g.launch.record
  decide (b.members.length + s.leftNow b < r.ceil + 1) && r.attach ≠ 0#64 && s.hasRoom b.core (waveRoom r 0)
/-- Attach one wave to a block: the lowest free index, role 0, at ATTACH, all 32 lanes (R32). -/
def State.attachWave (s : State) (u : Nat) : State :=
  match s.block? u with
  | none => s
  | some b =>
    match s.grid? b.grid with
    | none => s
    | some g =>
      let ix := lowestFree 32 (fun i => s.waves.any (fun w => w.blk = u && w.windex = i))
      let s' := s.addWave b g ix 32 0#2 g.launch.record.attach 0
      s'.barAll u (fun q => q.attach s.fresh)

/-- Attach up to `n` waves (R33): how many, and the state after. -/
def State.growBlock (s : State) (u : Nat) : (n : Nat) → Nat × State
  | 0 => (0, s)
  | n + 1 =>
    match s.block? u with
    | none => (0, s)
    | some b =>
      match s.grid? b.grid with
      | none => (0, s)
      | some g =>
        if s.canAttach b g then
          let (k, s') := State.growBlock (s.attachWave u) u n
          (k + 1, s')
        else (0, s)

/-- The block of a core that is offered the next wave (R34). -/
def State.offerBlock (s : State) (core : Nat) : Option Nat :=
  (s.blocks.foldl (fun (best : Option Block) b =>
    let ok := b.core = core && b.status = .resident && b.pre.isNone && (match s.grid? b.grid with
      | some g => g.launch.record.grow && s.canAttach b g | none => false)
    if ok then (match best with | some x => if b.admitted < x.admitted then some b else best | none => some b) else best) none).map
      Block.uid
def State.offerWaves (s : State) (core : Nat) : (fuel : Nat) → State
  | 0 => s
  | n + 1 =>
    match s.offerBlock core with
    | none => s
    | some u => State.offerWaves (s.attachWave u) core n

/-- A grid has a resident and a waiting block (R42). -/
def State.bothKinds (s : State) (g : Grid) : Bool :=
  (s.head g).isSome && s.blocks.any (fun b => b.grid = g.uid && b.status ≠ .saved)
/-- The slice interval of a grid that has come to have both starts now. -/
def State.markBoth (old s : State) : State :=
  { s with grids := s.grids.map (fun g =>
      let before := match old.grid? g.uid with | some x => old.bothKinds x | none => false
      if !before && s.bothKinds g then { g with sliceFrom := s.clk } else g) }

/-- The distributor offers free room to the heads in order (R55); a head that fits nowhere may request a priority pre-emption
(R56). The grid favoured within its class is that of the block that retired, and the model's choice after a detach, a switch
or a save. Log entry 120 (DESIGN CHOICE). -/
def State.distribute (s : State) (fav : Option Nat) : State :=
  let s1 := s.offerHeads fav 3072
  s.markBoth ((s1.servedOrder fav).foldl (fun s g => s.prioPreempt g) s1)

/-- Single waves are offered to the growing blocks of a core, no waiting head fitting there (R34): at the end of a clock, after
its arrivals and detaches (R37). -/
def State.offerAll (s : State) : State :=
  let cores := (s.blocks.filter (fun b => match s.grid? b.grid with | some g => g.launch.record.grow | none => false)).map Block.core
  cores.foldl (fun s c => if s.grids.any (fun g => s.headFits g c) then s else s.offerWaves c 48) s

/-! ## Completion (R27, R48, R50, R168, R204) -/

/-- A decrement leaves for the scheduler of a die (R51). -/
def State.decrement (s : State) (die task : Nat) : State := { s with decrements := s.decrements ++ [(die, task)] }

/-- The scheduler writes a launch's completion word at device level (R48, R49). -/
def State.writeStatus (s : State) (l : Launch) (code reason : Nat) : State :=
  if l.status = 0#64 || l.status.toNat % 8 ≠ 0 then s
  else
    match s.vwrite l.die l.part l.status.toNat (leBytes 8 (reason * 256 + code)) with
    | .ok s' => s'
    | .error (c, a) => s.postFault l.part 6 c (dword a) (l.queue.getD 0) l.die

/-- The step of an ended child on its join object (R204): COUNT falls by 1, and FAILED rises for a refusal; the decrement that
reaches 0 with SIG_EN decrements SIG_TASK and clears SIG_EN. It waits, in the list of its die, for its place in the order log
(R279, R281), and while the object's sync engine has no slot, which is counted once (R193). `first`: it has not waited yet. -/
def State.joinStep (s : State) (die p : Nat) (j : Dword) (refused first : Bool) : State :=
  match s.translateDie die p .store j.toNat with
  | .error _ => s
  | .ok pl =>
    let home := s.homeDie pl.space (pl.pa / 64)
    let stay (s : State) : State := s.updDie die (fun d => { d with joins := d.joins ++ [(p, j, refused)] })
    if !s.mayStep p 3 (engineAgent 6 die) 16 then stay (s.logFull p)
    else
    match s.seUse home ⟨.object, pl.pa / 64⟩ with
    | none => stay (if first then s.updDie home Die.countWait else s)
    | some s =>
      let w0 := dword (leNat (s.devBytes pl.space pl.pa 8))
      let w1 := dword (leNat (s.devBytes pl.space (pl.pa + 8) 8))
      let count := w0.extractLsb' 0 32 - 1#32
      let failed := w0.extractLsb' 32 32 + (if refused then 1#32 else 0#32)
      let fire := count = 0#32 && w1.getLsbD 16
      let w1' := if fire then w1 &&& ~~~(0x10000#64) else w1
      let s := s.devWriteBytes p pl.space pl.pa (leBytes 8 (failed ++ count).toNat ++ leBytes 8 w1'.toNat)
      let s := s.logDev p 3 3 1 (engineAgent 6 die)
      if fire then s.decrement home (w1.extractLsb' 0 16).toNat else s
/-- A spawned child has ended. -/
def State.childDone (s : State) (l : Launch) (refused : Bool) : State :=
  match l.join with
  | none => s
  | some j => s.joinStep l.die l.part j refused true
/-- Ended children whose join object waited for a slot try again, in order. -/
def State.settleJoins (s : State) : State :=
  [0, 1].foldl (fun s die =>
    let js := (s.die die).joins
    if js.isEmpty then s
    else js.foldl (fun s x => s.joinStep die x.1 x.2.1 x.2.2 false) (s.updDie die (fun d => { d with joins := [] }))) s

/-- A launch is refused (R29, R48): no block is admitted, and the completion word says why. -/
def State.refuse (s : State) (l : Launch) (reason : Nat) : State := (s.writeStatus l 2 reason).childDone l true

/-- A grid ends (R27, R168, R48): the kernel boundary drops every clean copy and the context's cached tensor entries
(R232), then the completion word, then SIG_TASK and
the join object. -/
def State.completeGrid (s : State) (g : Grid) (code : Nat) (signal : Bool) : State :=
  let s := s.tickNow.updMem (fun m => { m with copies := [] })
  let s := s.dropTensors g.launch.part (fun _ => true)
  let s := { s with grids := s.grids.filter (fun x => x.uid ≠ g.uid), clusters := s.clusters.filter (fun c => c.grid ≠ g.uid) }
  let s := s.writeStatus g.launch code 0
  let s := if signal && g.launch.sigEn then s.decrement g.launch.sigDie g.launch.sigTask else s
  s.childDone g.launch false

/-- Grids end without completing: their waves, blocks, rows and pending lines are discarded, and each completion word is
written with a code (R390, R414). Log entry 101 (DEDUCED). -/
def State.endGrids (s : State) (gs : List Grid) (code : Nat) : State :=
  let us := gs.map Grid.uid
  let bs := (s.blocks.filter (fun b => us.contains b.grid)).map Block.uid
  let s := { s with
    waves := s.waves.filter (fun w => !bs.contains w.blk)
    blocks := s.blocks.filter (fun b => !bs.contains b.uid)
    cmds := s.cmds.filter (fun c => !bs.contains c.blk || c.wid.isNone)
    cores := s.cores.map (fun (c : Core) => { c with acc := c.acc.filter (fun r => !bs.contains r.owner) }) }
  (gs.foldl (fun s g => s.completeGrid g code false) s).distribute none

/-- A grid whose mask has lost its last core is settled once none of its blocks is resident: refused when none has been
admitted, else ended with CODE 5 (R414). -/
def State.settleMasks (s : State) : State :=
  let bare := s.grids.filter (fun g => (s.maskCores g.launch.record).isEmpty && !s.blocks.any (fun b => b.grid = g.uid && b.status ≠ .saved))
  let s := (bare.filter Grid.started).foldl (fun s g => s.endGrids [g] 5) s
  (bare.filter (fun g => !g.started && !s.blocks.any (fun b => b.grid = g.uid))).foldl (fun s g => { s with grids := s.grids.filter (fun x => x.uid ≠ g.uid) }.refuse g.launch 6) s

/-- A core group that is being emptied for a change of world takes its new world once it holds no block: every L1 of the
group is invalidated (R405). -/
def State.settleWorlds (s : State) : State :=
  let ready := (List.range 24).filter (fun n => (s.die (n / 12)).cgEmptying.getLsbD (n % 12)
    && !s.blocks.any (fun b => groupOf b.core = n && b.status ≠ .saved))
  ready.foldl (fun s n =>
    (s.updDie (n / 12) (fun d => { d with cgWorld := d.cgWorld ^^^ (1#12 <<< (n % 12)), cgEmptying := d.cgEmptying &&& ~~~(1#12 <<< (n % 12)) })).updMem
      (fun m => { m with copies := m.copies.filter (fun c => !(c.l1 && groupOf c.unit = n)) })) s

/-- A launch enters the waiting grids (R47): its key is latched, and its head is offered. That a launch held by its task counter
enters, and latches its key, at its release is the model's choice. Log entry 144 (DESIGN CHOICE). -/
def State.enterGrid (s : State) (l : Launch) : State :=
  let (uid, s) := s.newName
  let total := l.record.total
  let g : Grid :=
    { uid := uid, launch := l, order := uid, started := false, qHead := [], nextFresh := 0, qTail := [], retired := 0
      ptr := (s.maskCores l.record).headD 0, skips := [], gbars := List.replicate 4 { expect := total }
      key := (s.part l.part).srndKey, sliceFrom := s.clk, headSince := s.clk, aged := false }
  ({ s with grids := s.grids ++ [g] }).distribute none

/-! ## Retirement (R35, R70, R195, R251) -/

/-- Lines of a level that have lost their waves reach device level; a line whose translation fails is lost (log entry
20). -/
def State.publishLines (s : State) (core p : Nat) (ls : List PLine) (agent : Nat) : State :=
  let ok := ls.filterMap (fun l => match s.translate core p .store (64 * l.line) with | .ok pl => some (l, pl) | .error _ => none)
  let s := s.publish p core (fun _ => true) ok
  if ok.isEmpty then s else s.logDev p 1 3 ok.length agent

/-- The lines that the retirement of a block moves, with their places at device level where its cluster ends with it (R70). -/
def State.retireLines (s : State) (b : Block) (g : Grid) : List PLine × List Place :=
  match s.cluster? b with
  | none => (b.lines, [])
  | some c =>
    if c.left g.launch.record ≤ 1 then
      let ls := mergeLines c.lines b.lines
      let ok := ls.filterMap (fun l => match s.translate b.core g.launch.part .store (64 * l.line) with | .ok pl => some (l, pl) | .error _ => none)
      (ok.map (fun x => x.1), ok.map (fun x => x.2))
    else (b.lines, [])

/-- A block retires: its lines pass to cluster level, and with the last block of the cluster to device level, as a step of the wave
that has left (`agent`); barriers above see the retirement, its accumulator rows are cleared, and the grid counts it. The last
retirement ends the grid. -/
def State.retireBlock (s : State) (u agent : Nat) : State :=
  match s.block? u with
  | none => s
  | some b =>
    match s.grid? b.grid with
    | none => s
    | some g =>
      let p := g.launch.part
      let s := s.tickNow.unstageBytes b g.launch.record.clusterSize b.lines
      let s := s.updCluster b (fun c => { c with
        lines := mergeLines c.lines b.lines, retired := c.retired ++ [b.lin], seq := if b.lines.isEmpty then c.seq else c.seq + 1 })
      let s := match s.cluster? b with
        | none => s
        | some c =>
          if c.left g.launch.record = 0 then
            (s.publishLines b.core p c.lines agent).updCluster b (fun c => { c with lines := [] })
          else if b.lines.isEmpty then s
          else s.logEntry p (plainEntry 1 2 b.lines.length agent c.num c.seq)
      let s := s.updGrid g.uid (fun g => { g with retired := g.retired + 1, sliceFrom := s.clk })
      let s := (List.range 4).foldl (fun s n =>
        (s.upperBar b .clus n (fun q => q.retire u)).upperBar b .grid n (fun q => q.retire u)) s
      let s := s.updCore b.core (fun c => { c with acc := c.acc.filter (fun r => r.owner ≠ u) })
      let s := { s with blocks := s.blocks.filter (fun x => x.uid ≠ u), waves := s.waves.filter (fun w => w.blk ≠ u)
                        cmds := s.cmds.filter (fun c => c.blk ≠ u || (match c.kind with | .mx _ => false | _ => true)) }
      let s := { s with clusters := s.clusters.filter (fun c =>
        !(c.grid = g.uid && c.left g.launch.record = 0)) }
      match s.grid? g.uid with
      | none => s
      | some g' =>
        let s := if g'.left = 0 && !s.blocks.any (fun x => x.grid = g.uid) then s.completeGrid g' 1 true else s
        s.distribute (some g.uid)

/-- A wave leaves its block (R35): every barrier sees the detach, its slot and registers are free, and with the last
member the block retires. -/
def State.detachWave (s : State) (wid : Nat) : State :=
  match s.wave? wid with
  | none => s
  | some w =>
    let s := { s with waves := s.waves.filter (fun x => x.wid ≠ wid) }
    let now := s.dieClk w.core
    let s := s.updBlock w.blk (fun b => { b with
      members := b.members.filter (· ≠ wid), leftN := if b.leftAt = now then b.leftN + 1 else 1, leftAt := now })
    match s.block? w.blk with
    | none => s
    | some b =>
      if b.members.isEmpty then s.retireBlock w.blk (agentOf w)
      else (s.barAll w.blk (fun q => q.detach wid)).distribute (some b.grid)

end Sys2Proof.Machine
end

