-- ==== Sys2Proof/Machine/Sync.lean ====
section
/-! DEFINITION. The sync engines (R193) and the objects that they hold: slots and the overflow area, memory-resident
barriers (R197-R199), join objects (R203), and the launch path that a spawn shares with the scheduler: the context
descriptor (R256), the launch record and its refusals (R28, R29, R48). -/

namespace Sys2Proof.Machine

/-! ## Slots (R193) -/

/-- WAITS counts an operation that is delayed for lack of a slot, once (R193). -/
def Cx.waitSlot (c : Cx) (s : State) (die stage aux : Nat) : Res :=
  .wait (if c.w.wait = .slot then s else s.updDie die Die.countWait) .slot 9 stage aux

/-! ## Objects -/

/-- The address checks of an object operand (R138, R191, R198, R204): alignment to 64 bytes, the page as a store, and trap
22 on a system-homed page. -/
def Cx.object (c : Cx) (a : Nat) : Except Trap Place :=
  let bad (k : BitVec 6) : Trap := { c.all k with addr := dword a }
  if a % 64 ≠ 0 then .error (bad 4#6)
  else
    match c.s.translate c.w.core c.part .store a with
    | .error k => .error (bad k)
    | .ok pl => if pl.space = .hbm then .ok pl else .error (bad 22#6)

/-- The 64-bit word `i` of an object at device level. -/
def State.objWord (s : State) (pl : Place) (i : Nat) : Dword := dword (leNat (s.devBytes pl.space (pl.pa + 8 * i) 8))
/-- Write words of an object from word `i` up, as one step of its line's order. -/
def State.setObj (s : State) (p : Nat) (pl : Place) (i : Nat) (ws : List Dword) : State :=
  s.devWriteBytes p pl.space (pl.pa + 8 * i) (ws.flatMap (fun w => leBytes 8 w.toNat))
/-- The die whose sync engine holds an object. -/
def State.objDie (s : State) (pl : Place) : Nat := s.homeDie pl.space (pl.pa / 64)

/-- Trap 23 with its sub-condition and the object's address (R260). Log entry 23 (DEDUCED). -/
def Cx.syncTrap (c : Cx) (a detail : Nat) : Trap := { c.all 23#6 with addr := dword a, detail := BitVec.ofNat 16 detail }

/-- `complete` of R198: PHASE rises, PENDING is EXPECT again, and with SIG_EN the task named is decremented. The words of
the object are given and written back. -/
def State.mbarArrive (s : State) (p : Nat) (pl : Place) (n : Word) : State :=
  let w0 := s.objWord pl 0
  let w2 := s.objWord pl 2
  let pending := w0.extractLsb' 32 32 - n
  let expect := w0.extractLsb' 0 32
  if pending = 0#32 then
    let s := s.setObj p pl 0 [expect ++ expect, s.objWord pl 1 + 1#64]
    if w2.getLsbD 16 then s.decrement (s.objDie pl) (w2.extractLsb' 0 16).toNat else s
  else s.setObj p pl 0 [pending ++ expect]

/-- VALID of a barrier object. -/
def State.mbarValid (s : State) (pl : Place) : Bool := (s.objWord pl 2).getLsbD 17
def State.mbarPending (s : State) (pl : Place) : Word := (s.objWord pl 0).extractLsb' 32 32

/-- The arrival of an engine or a region at an object, count 1 (R199): one that finds VALID 0 or PENDING 0 is dropped,
counted in BADARV, and gives its wave trap 23 at the next boundary. The address is the partition's. An error: the state in
which the arrival `who` waits for its place in the order log (R279, R281) or for a slot of the object's sync engine (R193). It is
made at the address that was named, whatever its alignment and its page's home.
Log entries 65 (DEDUCED), 142 (DESIGN CHOICE). -/
def State.engineArrive (s : State) (die p : Nat) (wid : Option Nat) (a : Nat) (agent : Nat) (who : Nat × Nat) : Except State State :=
  match s.translateDie die p .store a with
  | .error _ => .ok s
  | .ok pl =>
    if s.mbarValid pl && s.mbarPending pl ≠ 0#32 && !s.mayStep p 3 agent 16 then .error (s.logFull p)
    else
    match s.seTry (s.objDie pl) ⟨.object, pl.pa / 64⟩ who with
    | .error s => .error s
    | .ok s =>
      if s.mbarValid pl && s.mbarPending pl ≠ 0#32 then .ok ((s.mbarArrive p pl 1#32).logDev p 3 3 1 agent)
      else
        let s := s.updDie (s.objDie pl) (fun d => { d with seBadArv := if d.seBadArv = 0xFFFFFFFF#32 then d.seBadArv else d.seBadArv + 1#32 })
        match wid.bind (fun w => s.wave? w) with
        | none => .ok s
        | some x => .ok (s.pendCause x.wid 23#6 { asyncRec s x 23#6 (dword a) with detail := 4#16 })

/-! ## The context descriptor (R256) -/

/-- A partition's context descriptor as it stands in memory: its fields, whether it may be used at all (R256: WORLD 1 only
within a valid secure range), and the REASON of a refusal under R29, 0 for none. Log entry 112 (DEDUCED). -/
def State.readCtx (s : State) (p : Nat) : Ctx × Bool × Nat :=
  let base := (s.part p).ctxDesc.toNat
  let w (i : Nat) : Dword := s.hbmDword (base + 8 * i)
  let f (i hi lo : Nat) : Nat := bitsOf (w i).toNat hi lo
  let world := f 0 0 0 = 1
  let reserved := f 0 63 52 ≠ 0 || f 0 11 1 ≠ 0 || f 1 63 57 ≠ 0 || f 2 63 57 ≠ 0 || f 3 63 57 ≠ 0 || f 4 63 57 ≠ 0 ||
    f 5 63 32 ≠ 0 || w 6 ≠ 0#64 || w 7 ≠ 0#64
  let within := s.hub.secRanges.any (fun r => r.valid && decide (r.base.toNat ≤ base / 2 ^ 21) && decide ((base + 63) / 2 ^ 21 ≤ r.lim.toNat))
  let misaligned := f 1 15 0 ≠ 0 || f 2 5 0 ≠ 0 || f 3 2 0 ≠ 0 || f 3 56 0 = 0 || f 4 15 0 ≠ 0
  ({ ptRoot := f 0 51 12 * 4096, world := world, ttBase := dword (f 1 56 0), cqBase := dword (f 2 56 0), handler := dword (f 3 56 0)
     saveBase := dword (f 4 56 0), saveSize := f 5 31 0 },
   !world || within, if reserved || (world && !within) then 1 else if misaligned then 2 else 0)

/-- The context is read at every launch and restore; one that may not be used leaves the context as it was.
Log entry 112 (DEDUCED). -/
def State.loadCtx (s : State) (p : Nat) : State :=
  let (c, usable, _) := s.readCtx p
  if usable then s.updPart p (fun x => { x with ctx := some c }) else s

/-! ## The launch record (R28, R29) -/

/-- The fields of a record's 32 words. -/
def parseRecord (ws : List Dword) : LaunchRec :=
  let f (i hi lo : Nat) : Nat := bitsOf (ws.getD i 0#64).toNat hi lo
  { entry := dword (f 0 56 0), attach := dword (f 1 56 0), gx := f 2 31 0, gy := f 2 47 32, gz := f 2 63 48
    scratch := f 3 58 40, sregs := f 3 38 32, vregs := f 3 31 24, prio := BitVec.ofNat 2 (f 3 20 19), cluster := f 3 18 16
    grow := f 3 15 15 = 1, lastLanes := f 3 14 10, ceil := f 3 9 5, init := f 3 4 0
    mask := BitVec.ofNat 192 (f 4 63 0 + f 5 63 0 * 2 ^ 64 + f 6 63 0 * 2 ^ 128)
    winBase := (List.range 8).map (fun i => dword (f (8 + i) 56 0))
    winSize := (List.range 8).map (fun i => f (16 + i / 2) (32 * (i % 2) + 17) (32 * (i % 2)))
    roles := (List.range 3).map (fun j => (dword (f (20 + 2 * j) 56 0), BitVec.ofNat 2 (f (21 + 2 * j) 9 8), f (21 + 2 * j) 7 0)) }

/-- A reserved field of the record is not 0. -/
def recordReserved (ws : List Dword) : Bool :=
  let f (i hi lo : Nat) : Nat := bitsOf (ws.getD i 0#64).toNat hi lo
  f 0 63 57 ≠ 0 || f 1 63 57 ≠ 0 || f 3 63 59 ≠ 0 || f 3 39 39 ≠ 0 || f 3 23 21 ≠ 0 || f 7 63 0 ≠ 0
    || (List.range 8).any (fun i => f (8 + i) 63 57 ≠ 0 || f (16 + i / 2) (32 * (i % 2) + 31) (32 * (i % 2) + 18) ≠ 0)
    || (List.range 3).any (fun j => f (20 + 2 * j) 63 57 ≠ 0 || f (21 + 2 * j) 63 10 ≠ 0)
    || (List.range 6).any (fun i => f (26 + i) 63 0 ≠ 0)

/-- A field lies outside the range of R28. -/
def LaunchRec.rangeBad (r : LaunchRec) : Bool :=
  r.entry = 0#64 || r.entry.toNat % 8 ≠ 0 || r.attach.toNat % 8 ≠ 0 || r.gx = 0 || r.gy = 0 || r.gz = 0
    || decide (262144 < r.scratch) || r.winSize.any (fun n => decide (131072 < n)) || r.roles.any (fun x => x.1.toNat % 8 ≠ 0)

/-- The first condition of R29 that holds, by its REASON (R48). -/
def State.refusal (s : State) (p : Nat) (ws : List Dword) : Option Nat :=
  let r := parseRecord ws
  let ctx := (s.readCtx p).2.2
  let cores := s.maskCores r
  let ofWorld := cores.filter (fun c => (s.die (dieOf c)).cgWorld.getLsbD (groupInDie c) == s.world p)
  let perCore := ((List.range 17).filter (fun n =>
    ((List.range n).foldl (fun (a : Room) _ => a.add (newBlockRoom r)) ⟨0, 0, 0, 0, 0⟩).le coreRoom)).length - 1
  let groupHolds := cores.any (fun c => decide (r.clusterSize ≤ perCore * (cores.filter (fun x => groupOf x = groupOf c)).length))
  if recordReserved ws || ctx = 1 then some 1
  else if r.rangeBad || ctx = 2 then some 2
  else if r.ceil < r.init then some 3
  else if r.grow && r.attach = 0#64 then some 4
  else if r.total % r.clusterSize ≠ 0 then some 5
  else if ofWorld.isEmpty then some 6
  else if (r.winBase.zip r.winSize).any (fun x => x.2 ≠ 0 && x.1.toNat % 64 ≠ 0) then some 7
  else if !groupHolds then some 8
  else none

/-- Read the 32 words of a launch record (R49): an unreadable one is refused with REASON 9 and its fault posted. -/
def State.readRecord (s : State) (die p a agent : Nat) : Except State (List Dword) :=
  match s.vread die p a 256 with
  | .error (c, va) => .error (s.postFault p 6 c (dword va) agent die)
  | .ok bs => .ok ((List.range 32).map (fun i => dword (leNat ((bs.drop (8 * i)).take 8))))

/-- What a launch does with its record (R46-R49): refused, or handed on with its admission class. `l` carries everything
but the record and the class, `floor` the class floor. The context is read first (R256). Log entry 23 (DEDUCED). -/
def State.takeRecord (s : State) (l : Launch) (addr floor : Nat) : State × Option Launch :=
  let s := s.loadCtx l.part
  match s.readRecord l.die l.part addr (l.queue.getD 0) with
  | .error s => (s.refuse l 9, none)
  | .ok ws =>
    match s.refusal l.part ws with
    | some reason => (s.refuse l reason, none)
    | none =>
      let r := parseRecord ws
      (s, some { l with record := r, cls := BitVec.ofNat 2 (max r.prio.toNat floor) })

/-- A record with nothing in it, for a launch whose record has not been read. -/
def emptyRecord : LaunchRec := parseRecord []

end Sys2Proof.Machine
end

