-- ==== Sys2Proof/Machine/Barrier.lean ====
section
/-! DEFINITION. Commit, abort and acquire (0x70-0x73, R148-R152), block barriers (0x74-0x76, R153), owner bits (0x77,
0x78, R154, R155), cluster and grid barriers (0x99, 0x9A, R194-R196), memory-resident barriers (0x9B-0x9D, R198). -/

namespace Sys2Proof.Machine

open Sys2Proof

/-- Write a k register named by DST. -/
def Cx.setK (c : Cx) (s : State) (x : Word) : State := s.updWave c.wid (fun w => w.write c.e.dst false 0 x.toNat)

/-- `commit.L` (R148). -/
def execCommit (e : Enc) (s : State) : Host.Outcome State Fault Refusal :=
  simt 0x70 e s (fun c => c.commit (scopeCode e) .done)

/-- `commit.wave.x` (R150): a sibling conflict discards the whole buffer, writes 0 to kN and changes nothing else;
otherwise a commit.wave, and k0 to kN. -/
def execCommitX (e : Enc) (s : State) : Host.Outcome State Fault Refusal :=
  simt 0x71 e s (fun c =>
    if c.b.conflicts c.wid (bufLines c.w.buf) then
      .done (c.setK (c.s.updWave c.wid (fun w => { w with buf := List.replicate 64 none })) 0#32)
    else c.commit 0 (fun s => .done (c.setK s c.w.k0)))

/-- `abort.L` (R151). -/
def execAbortOp (e : Enc) (s : State) : Host.Outcome State Fault Refusal :=
  simt 0x72 e s (fun c =>
    match scopeCode e with
    | 0 => .done (c.s.updWave c.wid (fun w => { w with buf := List.replicate 64 none }))
    | 1 => if c.mayLog 2 then .done ((c.s.abortBlock c.w).logBlock c.w 2 c.b.lines.length) else c.waitLog
    | _ => if c.mayLog 2 then .done ((c.s.abortCluster c.b).logCluster c.w 2 (c.s.clusterLines c.b).length) else c.waitLog)

/-- `acq.L` (R152). -/
def execAcq (e : Enc) (s : State) : Host.Outcome State Fault Refusal :=
  simt 0x73 e s (fun c => .done (c.s.acquire c.wid (scopeCode e)))

/-! ## Barriers -/

/-- The barrier number of a block barrier, MOD [47:44], and of a cluster or grid barrier, MOD [45:44]. -/
def barNumber (k : BarKind) (e : Enc) : Nat :=
  match k with
  | .blk => (e.mod.extractLsb' 0 4).toNat
  | _ => (e.mod.extractLsb' 0 2).toNat

/-- The wait of a barrier: released with its acquire once phase `p` has completed, else waiting with stall reason 2. The
arrival is stage 9 and keeps its phase. -/
def Cx.awaitPhase (c : Cx) (s : State) (k : BarKind) (acqLvl p : Nat) : Res :=
  if s.phaseDone c.b.uid k (barNumber k c.e) p then .done (s.acquire c.wid acqLvl)
  else .wait s (if k = .blk then .barrier else .gbar) 2 9 p

/-- A barrier that commits, arrives and waits (R153, R194): the commit's stages, then the arrival, then the wait. -/
def Cx.barrier (c : Cx) (k : BarKind) (commitLvl acqLvl : Nat) : Res :=
  c.commit commitLvl (fun s =>
    if c.w.stage = 9 then c.awaitPhase c.s k acqLvl c.w.aux
    else
      let (s, p) := s.arrive c.b.uid k (barNumber k c.e) c.wid
      c.awaitPhase s k acqLvl p)

/-- `bar.blk` (R69, R153). -/
def execBarBlk (e : Enc) (s : State) : Host.Outcome State Fault Refusal := simt 0x74 e s (fun c => c.barrier .blk 0 1)

/-- `bar.arv` (R153): commits and arrives, and the wave goes on. -/
def execBarArv (e : Enc) (s : State) : Host.Outcome State Fault Refusal :=
  simt 0x75 e s (fun c => c.commit 0 (fun s => .done (s.arrive c.b.uid .blk (barNumber .blk e) c.wid).1))

/-- `bar.wt` (R153): waits for the phase of the wave's latest arrival at the barrier; without one it is acq.blk. -/
def execBarWt (e : Enc) (s : State) : Host.Outcome State Fault Refusal :=
  simt 0x76 e s (fun c =>
    match (c.b.bar .blk (barNumber .blk e)).latest c.wid with
    | none => .done (c.s.acquire c.wid 1)
    | some _ => .wait c.s .barWt 2 0 0)

/-- `bar.clus` (R194): commit.clus, arrival, wait, acq.clus. -/
def execBarClus (e : Enc) (s : State) : Host.Outcome State Fault Refusal := simt 0x99 e s (fun c => c.barrier .clus 2 2)

/-- `bar.grid` (R194): commit.dev, arrival, wait, acq.dev. The grid's barrier record and the waiting wave take slots of the
sync engine of the die whose scheduler launched the grid (R193): a wave that comes back to its wait takes one again, and waits for
it in stage 10. -/
def execBarGrid (e : Enc) (s : State) : Host.Outcome State Fault Refusal :=
  simt 0x9A e s (fun c =>
    c.commit 3 (fun s =>
      let die := c.g.launch.die
      if 9 ≤ c.w.stage then
        if c.s.phaseDone c.b.uid .grid (barNumber .grid e) c.w.aux then c.awaitPhase c.s .grid 3 c.w.aux
        else match c.s.seUse die ⟨.waiter, c.wid⟩ with
          | none => c.waitSlot c.s die 10 c.w.aux
          | some s => c.awaitPhase s .grid 3 c.w.aux
      else
        match (s.seUse die ⟨.grid, c.g.uid⟩).bind (fun s => s.seUse die ⟨.waiter, c.wid⟩) with
        | none => c.waitSlot s die 8 0
        | some s =>
          let (s, p) := s.arrive c.b.uid .grid (barNumber .grid e) c.wid
          c.awaitPhase s .grid 3 p))

/-! ## Owner bits -/

/-- The tiles `first .. first + count - 1` of an instruction. -/
def Cx.tileRange (c : Cx) : Nat × Nat := (c.n32 c.e.a, c.n32 c.e.b)
def Block.threadOwned (b : Block) (first count : Nat) : Bool := (List.range count).all (fun i => !b.engineOwns (first + i))

/-- `own.give` (R154). Log entry 34 (DEDUCED). -/
def execOwnGive (e : Enc) (s : State) : Host.Outcome State Fault Refusal :=
  simt 0x77 e s (fun c =>
    let (first, count) := c.tileRange
    let inside (t : Nat) : Bool := decide (first ≤ t) && decide (t < first + count)
    if count = 0 then .done c.s
    else if c.ntiles < first + count then .trap (c.all 21#6)
    else if !c.b.threadOwned first count then c.waitOwner
    else
      let ls := (scrLines c.w).filter (fun p => inside (p.line / 64))
      if !ls.isEmpty && !c.mayLog 1 then c.waitLog
      else
        let s := if ls.isEmpty then c.s else (c.s.toBlockLevel c.w ls).logBlock c.w 1 ls.length
        let setTag := e.mod.getLsbD 2
        let tag := e.mod.extractLsb' 0 2
        .done (s.updBlock c.b.uid (fun b => { b with
          engineOwned := b.engineOwned.zipIdx.map (fun x => x.1 || inside x.2)
          tags := if setTag then b.tags.zipIdx.map (fun x => if inside x.2 then tag else x.1) else b.tags })))

/-- `own.tst` (R155). -/
def execOwnTst (e : Enc) (s : State) : Host.Outcome State Fault Refusal :=
  simt 0x78 e s (fun c =>
    let (first, count) := c.tileRange
    if count = 0 then .done (c.setK c.s 0xFFFFFFFF#32)
    else if c.ntiles < first + count then .trap (c.all 21#6)
    else .done (c.setK c.s (if c.b.threadOwned first count then 0xFFFFFFFF#32 else 0#32)))

/-! ## Memory-resident barriers (R198) -/

/-- `mbar.init`. -/
def execMbarInit (e : Enc) (s : State) : Host.Outcome State Fault Refusal :=
  simt 0x9B e s (fun c =>
    let a := c.addr e.a
    let expect := word (c.n32 e.b)
    let sig := c.n32 e.c
    if 2 ^ 17 ≤ sig then .trap (c.all 2#6)
    else
      match c.object a with
      | .error t => .trap t
      | .ok pl =>
        let die := c.s.objDie pl
        if expect = 0#32 then .trap (c.syncTrap a 3)
        else if !c.mayLog 3 then c.waitLog
        else
          match c.s.seUse die ⟨.object, pl.pa / 64⟩ with
          | none => c.waitSlot c.s die 0 0
          | some s =>
            let s := s.setObj c.part pl 0 [expect ++ expect, 0#64, dword (sig + 2 ^ 17), 0#64, 0#64, 0#64, 0#64, 0#64]
            .done (s.logDev c.part 3 3 1 (agentOf c.w)))

/-- `mbar.arv`: the commit stands even when the arrival traps. -/
def execMbarArv (e : Enc) (s : State) : Host.Outcome State Fault Refusal :=
  simt 0x9C e s (fun c =>
    let a := c.addr e.a
    let n := word (c.n32 e.b)
    match c.object a with
    | .error t => .trap t
    | .ok pl =>
      let die := c.s.objDie pl
      c.commit 3 (fun s =>
        if !s.mbarValid pl then .trapAt s (c.syncTrap a 1)
        else if s.mbarPending pl < n then .trapAt s (c.syncTrap a 2)
        else if !s.mayStep c.part 3 (agentOf c.w) 16 then .wait (s.logFull c.part) .queue 9 8 0
        else
          match s.seUse die ⟨.object, pl.pa / 64⟩ with
          | none => c.waitSlot s die 8 0
          | some s =>
            let phase := s.objWord pl 1
            let s := if n = 0#32 && s.mbarPending pl ≠ 0#32 then s else (s.mbarArrive c.part pl n).logDev c.part 3 3 1 (agentOf c.w)
            .done (s.updWave c.wid (fun w => w.write e.dst true 0 phase.toNat))))

/-- The condition of `mbar.wait`: the object's PHASE is 1 to 2^63 - 1 past the phase waited for. -/
def phasePassed (now ph : Dword) : Bool := now - ph ≠ 0#64 && decide ((now - ph).toNat < 2 ^ 63)

/-- The wait of `mbar.wait` and `task.wait`: its place is known, and its conditions have been checked once. It takes a slot for the
waiting wave (R193), and ends with acq.dev once its condition holds. It is stage 11, which keeps the place. -/
def Cx.awaitObject (c : Cx) (s : State) (pl : Place) (why : Wait) (passed : State → Bool) : Res :=
  let die := s.objDie pl
  if passed s then .done (s.acquire c.wid 3)
  else
    match s.seUse die ⟨.waiter, c.wid⟩ with
    | none => c.waitSlot s die 11 pl.pa
    | some s => .wait s why 3 11 pl.pa
/-- The place that stage 11 keeps. -/
def Cx.keptPlace (c : Cx) : Place := { space := .hbm, pa := c.w.aux, ss := false }

/-- `mbar.wait`: VALID is read once, and the wait then goes on under whatever the object holds (R198). -/
def execMbarWait (e : Enc) (s : State) : Host.Outcome State Fault Refusal :=
  simt 0x9D e s (fun c =>
    let a := c.addr e.a
    let ph := dword (c.uni e.b .n64)
    let wait (s : State) (pl : Place) : Res := c.awaitObject s pl .mbar (fun s => phasePassed (s.objWord pl 1) ph)
    if c.w.stage = 11 then wait c.s c.keptPlace
    else
      match c.object a with
      | .error t => .trap t
      | .ok pl =>
        match c.s.seUse (c.s.objDie pl) ⟨.object, pl.pa / 64⟩ with
        | none => c.waitSlot c.s (c.s.objDie pl) 0 0
        | some s => if s.mbarValid pl then wait s pl else .trap (c.syncTrap a 1))

end Sys2Proof.Machine
end

