-- ==== Sys2Proof/Machine/System.lean ====
section
/-! DEFINITION. Mode, traps, the handler's instructions and the privileged registers: opcodes 0x80-0x88 (R156-R159,
R264, R265, R268, R269). -/

namespace Sys2Proof.Machine

open Sys2Proof

/-- `trap` (R158): cause 12, with bits [15:0] of the operand in DETAIL. -/
def execTrapOp (e : Enc) (s : State) : Host.Outcome State Fault Refusal :=
  simt 0x80 e s (fun c => .trap { c.all 12#6 with detail := BitVec.ofNat 16 (c.n32 e.a) })

/-- `rte` (R264): trap 5 outside the handler; waits for %acks = 0, with stall reason 8. -/
def execRte (e : Enc) (s : State) : Host.Outcome State Fault Refusal :=
  simt 0x81 e s (fun c =>
    if !c.w.hnd then .trap (c.all 5#6)
    else if c.w.acks ≠ 0 then .wait c.s .commit 8 0 0
    else .gone (c.s.returnFromHandler c.wid))

/-- The wave's handler ends its save (R268): it stops once %acks is 0, waiting with stall reason 1 (R64). -/
def Cx.endSave (c : Cx) : Res :=
  if c.w.acks ≠ 0 then .wait c.s .commit 1 0 0
  else .gone (c.s.updWave c.wid (fun w => { w with stopped := true, stall := 1#4 }))

/-- `yield` (R158, R268, R269): with HND and SAVE it ends the wave's part of the save; in another handler with a request
pending it is a hardware save; outside the handler with %preq set it starts the save. Otherwise nothing. -/
def execYieldOp (e : Enc) (s : State) : Host.Outcome State Fault Refusal :=
  simt 0x82 e s (fun c =>
    if c.w.hnd && c.w.phase = .save then c.endSave
    else if !c.w.preq then .done c.s
    else if c.w.hnd then .gone (c.s.hardwareSave c.wid (nextPc c.w e) (0, 0))
    else .gone (c.s.enterSave c.wid 49#6 (nextPc c.w e) (0, 0)))

/-- `mode` (R157). -/
def execModeOp (e : Enc) (s : State) : Host.Outcome State Fault Refusal :=
  simt 0x83 e s (fun c =>
    let m := word (c.n32 e.a)
    let v := word (c.n32 e.b)
    if m &&& ~~~3#32 ≠ 0#32 then .trap (c.all 2#6)
    else .done (c.s.updWave c.wid (fun w => { w with mode := (w.mode &&& ~~~m) ||| (v &&& m) })))

/-- `getm` (R157). -/
def execGetm (e : Enc) (s : State) : Host.Outcome State Fault Refusal :=
  simt 0x84 e s (fun c => .done (c.s.updWave c.wid (fun w => w.write e.dst false 0 w.mode.toNat)))

/-! ## Privileged registers (R265) -/

/-- The pending-cause mask of a wave (R258). -/
def Wave.pendMask (w : Wave) : Dword := w.pend.foldl (fun m p => m ||| (1#64 <<< p.code.toNat)) 0#64

/-- The lane that SKEY and SCNT name: HS3 [4:0]. -/
def Wave.hsLane (w : Wave) : Nat := (w.hs.getD 3 0#64).toNat % 32

/-- The buffer entry `n` as WB shows it: its line, or the data and mask written before a tag. -/
def Wave.wbEntry (w : Wave) (n : Nat) : PLine :=
  match w.buf.getD n none with
  | some p => p
  | none => match w.wbPre.find? (fun x => x.1 = n) with | some x => x.2 | none => PLine.empty false 0

/-- Word `j` of buffer entry `n`: data, tag or byte mask. -/
def Wave.wbRead (w : Wave) (n j : Nat) : Dword :=
  let p := w.wbEntry n
  if j < 8 then dword (leNat ((p.data.drop (8 * j)).take 8))
  else if j = 8 then
    match w.buf.getD n none with
    | some p => dword (2 ^ 63 + (if p.scr then 2 ^ 62 else 0) + 64 * p.line)
    | none => 0#64
  else p.mask

/-- SAVE_SLOT: the address of the wave's slot in the save area. Log entry 21 (DESIGN CHOICE). -/
def State.saveSlotAddr (s : State) (w : Wave) : Dword :=
  match w.saveUnit, (s.part (s.partOfWave w.wid)).ctx with
  | some u, some c => c.saveBase + dword (65536 * u)
  | _, _ => 0#64

/-- The value that rdpr reads, none for an id that is not defined or not readable. Log entry 18 (DEDUCED). -/
def State.readPriv (s : State) (w : Wave) (id : Nat) : Option Dword :=
  if id < 16 then some (w.trec.getD id 0#64)
  else if id = 16 then some w.epc
  else if id = 17 then some (w.emode.zeroExtend 64)
  else if id = 18 then some (w.eexec.zeroExtend 64)
  else if id = 19 then some (dword w.edepth)
  else if id < 24 then some (w.hs.getD (id - 20) 0#64)
  else if id = 24 then some (s.saveSlotAddr w)
  else if id = 26 then some (w.batchNo.zeroExtend 64)
  else if id = 27 then some ((w.lkey.getD w.hsLane 0#32).zeroExtend 64)
  else if id = 28 then some ((w.scnt.getD w.hsLane 0#32).zeroExtend 64)
  else if id = 30 then some (dword w.acks)
  else if id = 31 then some w.pendMask
  else if 32 ≤ id ∧ id < 48 then
    let x := w.estack.getD ((id - 32) / 2) (0#64, 0#32)
    some (if id % 2 = 0 then x.1 else x.2.zeroExtend 64)
  else if 0x1000 ≤ id ∧ id < 0x1000 + 1024 ∧ id % 16 < 10 then some (w.wbRead ((id - 0x1000) / 16) (id % 16))
  else none

/-- The writes that need no RESTORE: EPC, EMODE, EEXEC, HS0-HS3 and SAVE_DONE. A reserved bit is not written (R9, R156).
Log entry 52 (DEDUCED). -/
def Wave.writePriv (w : Wave) (id : Nat) (x : Dword) : Option Wave :=
  if id = 16 then some { w with epc := x &&& 0x1FFFFFFFFFFFFFF#64 }
  else if id = 17 then some { w with emode := x.extractLsb' 0 32 &&& 3#32 }
  else if id = 18 then some { w with eexec := x.extractLsb' 0 32 }
  else if 20 ≤ id ∧ id < 24 then some { w with hs := w.hs.set (id - 20) x }
  else if id = 25 then some { w with saveDone := true }
  else none

/-- Word `j` of buffer entry `n` as a restore writes it (R265): a tag with bit 63 makes the entry pending with the data and
mask written before it, a tag without it removes the entry. -/
def Wave.wbWrite (w : Wave) (n j : Nat) (x : Dword) : Wave :=
  let p := w.wbEntry n
  let put (q : PLine) : Wave :=
    match w.buf.getD n none with
    | some _ => { w with buf := w.buf.set n (some q) }
    | none => { w with wbPre := (n, q) :: w.wbPre.filter (fun y => y.1 ≠ n) }
  if j < 8 then put { p with data := p.data.take (8 * j) ++ leBytes 8 x.toNat ++ p.data.drop (8 * j + 8) }
  else if j = 9 then put { p with mask := x }
  else
    let w := { w with wbPre := w.wbPre.filter (fun y => y.1 ≠ n) }
    if x.getLsbD 63 then
      { w with buf := w.buf.set n (some { p with scr := x.getLsbD 62, line := (x.extractLsb' 6 51).toNat }) }
    else { w with buf := w.buf.set n none }

/-- The writes that RESTORE allows. A reserved bit of a trap record is not written, nor a code that is never pending (R9, R257,
R259). -/
def Wave.writeRestore (w : Wave) (id : Nat) (x : Dword) : Option Wave :=
  if id < 16 then some { w with trec := w.trec.set id (x &&& trecMask id) }
  else if id = 19 then some { w with edepth := min 8 x.toNat }
  else if id = 26 then some { w with batchNo := x.extractLsb' 0 32 }
  else if id = 27 then some { w with lkey := w.lkey.set w.hsLane (x.extractLsb' 0 32) }
  else if id = 28 then some { w with scnt := w.scnt.set w.hsLane (x.extractLsb' 0 32) }
  else if id = 31 then
    some { w with pend := ((List.range 64).filter (fun i => x.getLsbD i && asyncCodes.contains i)).map (fun i =>
      (w.pend.find? (fun p => p.code = BitVec.ofNat 6 i)).getD ⟨BitVec.ofNat 6 i, { cause := BitVec.ofNat 6 i, async := true }⟩) }
  else if 32 ≤ id ∧ id < 48 then
    let i := (id - 32) / 2
    let y := w.estack.getD i (0#64, 0#32)
    some { w with estack := w.estack.set i (if id % 2 = 0 then (x, y.2) else (y.1, x.extractLsb' 0 32)) }
  else if 0x1000 ≤ id ∧ id < 0x1000 + 1024 ∧ id % 16 < 10 then some (w.wbWrite ((id - 0x1000) / 16) (id % 16) x)
  else none

/-- `rdpr` (R158, R265): trap 5 outside the handler, trap 2 for an id that cannot be read. -/
def execRdpr (e : Enc) (s : State) : Host.Outcome State Fault Refusal :=
  simt 0x85 e s (fun c =>
    if !c.w.hnd then .trap (c.all 5#6)
    else
      match c.s.readPriv c.w (c.n32 e.a) with
      | none => .trap (c.all 2#6)
      | some x => .done (c.s.updWave c.wid (fun w => w.write e.dst true 0 x.toNat)))

/-- `wrpr` (R158, R265): trap 5 outside the handler, trap 2 for an id that cannot be written now. -/
def execWrpr (e : Enc) (s : State) : Host.Outcome State Fault Refusal :=
  simt 0x86 e s (fun c =>
    if !c.w.hnd then .trap (c.all 5#6)
    else
      let id := c.n32 e.a
      let x := dword (c.uni e.b .b64)
      match (match c.w.writePriv id x with
        | some w => some w
        | none => if c.w.phase = .restore then c.w.writeRestore id x else none) with
      | none => .trap (c.all 2#6)
      | some w => .done (c.s.updWave c.wid (fun _ => w)))

/-- `bkpt` (R158, R277): cause 13 with the tag; with BKPT_EN the wave halts with cause 51 at the next boundary, INFO0 2.
With traps masked both are cause 63. Log entry 53 (DEDUCED). -/
def execBkpt (e : Enc) (s : State) : Host.Outcome State Fault Refusal :=
  simt 0x87 e s (fun c =>
    if (c.s.part c.part).dbgCtl.getLsbD 0 && !c.w.tmask then
      .done (c.s.pendCause c.wid 51#6 { asyncRec c.s c.w 51#6 0#64 with info0 := 2#32 })
    else .trap { c.all 13#6 with detail := BitVec.ofNat 16 (c.n32 e.a) })

/-- `sleep` (R158): ineligible for n clocks, or until %preq is 1. Stage 2 is a sleep that has ended.
Log entry 45 (DEDUCED). -/
def execSleep (e : Enc) (s : State) : Host.Outcome State Fault Refusal :=
  simt 0x88 e s (fun c =>
    let n := c.n32 e.a
    let stay (s : State) : Res := .wait s .sleep 2 9 0
    if c.w.preq || c.w.stage = 2 then .done c.s
    else if c.w.stage = 9 then (if c.w.sleepEnd.toNat ≤ c.s.dieClk c.w.core then .done c.s else stay c.s)
    else if n = 0 then .done c.s
    else stay (c.s.updWave c.wid (fun w => { w with sleepEnd := dword (c.s.dieClk c.w.core + n) })))

end Sys2Proof.Machine
end

