-- ==== Sys2Proof/Machine/Atomics.lean ====
section
/-! DEFINITION. Atomics: opcodes 0x90-0x98 (R169, R170, R188-R193). An atomic is performed line by line: after its commit and
its checks (stages up to 8), each turn of the wave performs one line, and `aux` holds the mask of the lanes performed. -/

namespace Sys2Proof.Machine

open Sys2Proof

/-- The new value of a row of R188 from the old value and the operands. -/
def atomValue (op : Nat) (t : Ty) (old b x : Nat) : Nat :=
  let i (n : Nat) : Int := t.toInt n
  match op with
  | 0x90 =>
    if t = .f32 then (Fmt.f32.roundExact .rn 0 (fpAdd .rn (Fmt.f32.value old) (Fmt.f32.value x))).code
    else wrapBits t (i old + i x)
  | 0x91 => if i x < i old then x else old
  | 0x92 => if i old < i x then x else old
  | 0x93 => old &&& x
  | 0x94 => old ||| x
  | 0x95 => old ^^^ x
  | 0x96 => x
  | 0x97 => if old = b then x else old
  | _ => if x ≤ old then 0 else old + 1

/-- The address of a lane: atom.cas has no offset. -/
def Cx.atomAddr (c : Cx) (l : Nat) : Nat :=
  let l := c.readLane l
  if c.op = 0x97 then c.src c.e.a .b64 l else c.ea l

/-- The pieces of an atomic: every lane that acts and is no helper lane (R23). -/
def Cx.atomPieces (c : Cx) : List Piece :=
  (c.accessLanes.filter (fun l => !c.isHelper l)).map (fun l => ⟨l, c.atomAddr l, c.size⟩)

/-- Trap 22 of an atomic on a system-homed page (R191, R383): on the capacity tier at every scope, on host memory where the line's
home performs it. Log entry 149 (DEDUCED). -/
def Cx.homeBad (c : Cx) (sp : Space) : Bool :=
  let t := tyOf c.e
  match sp with
  | .hbm | .peer => false
  | .host => decide (3 ≤ scopeCode c.e) && !((c.op = 0x90 && t ≠ .f32) || c.op = 0x96 || c.op = 0x97)
  | .tier => true

/-- The cause of a lane (R138, R191, R192). -/
def Cx.atomCause (c : Cx) (q : Piece) : Option (BitVec 6) :=
  match c.cause false .atomic q with
  | some k => some k
  | none =>
    match c.s.translate c.w.core c.part .atomic q.addr with
    | .ok pl => if c.homeBad pl.space then some 22#6 else none
    | .error k => some k

/-- The byte at `a` as a level below device holds it for the instruction's scope (R190): at `.wave` it is found by R141
without clean copies, at `.blk` from block level upwards, at `.clus` from cluster level upwards; none: device level has it. -/
def Cx.atomHeld (c : Cx) (s : State) (a : Nat) : Option Byte :=
  let own := match s.wave? c.wid with | some w => w.buf | none => []
  let blk := match s.block? c.b.uid with | some b => b.lines | none => []
  let clu := match s.block? c.b.uid with | some b => s.clusterLines b | none => []
  let levels : List (List PLine) := match scopeCode c.e with | 0 => [bufLines own, blk, clu] | 1 => [blk, clu] | 2 => [clu] | _ => []
  levels.findSome? (fun ls => match findLine ls false (a / 64) with
    | some p => if p.has (a % 64) then some (p.data.getD (a % 64) 0#8) else none
    | none => none)

/-- A byte as the atomic finds it above its level: at `.dev` and `.sys` a system-homed line's at its home, else device level. -/
def Cx.atomBelow (c : Cx) (s : State) (pl : Place) (i : Nat) : Byte :=
  if 3 ≤ scopeCode c.e && pl.space ≠ .hbm then (s.mem.get pl.space).read (pl.pa + i) else s.devByte pl.space (pl.pa + i)
/-- The value at a piece as the instruction's scope reads it (R190). Log entry 55 (DEDUCED). -/
def Cx.atomRead (c : Cx) (s : State) (q : Piece) (pl : Place) : Nat :=
  leNat ((List.range q.size).map (fun i => (c.atomHeld s (q.addr + i)).getD (c.atomBelow s pl i)))

/-- The piece reads a device-level byte of a poisoned line (R192, R378). -/
def Cx.atomPoison (c : Cx) (s : State) (q : Piece) (pl : Place) : Bool :=
  s.poisonedAt pl.space (pl.pa / 64) && (List.range q.size).any (fun i => (c.atomHeld s (q.addr + i)).isNone)

/-- Write the new bytes at the instruction's scope, and log the step (R190, R278). Log entry 55 (DEDUCED). -/
def Cx.atomWrite (c : Cx) (s : State) (q : Piece) (pl : Place) (v : Nat) : State :=
  let ls := storeLines false [(q, v)]
  match scopeCode c.e with
  | 0 => s.intoBuffer c.wid ls
  | 1 => ((s.tickNow.unstage c.w ls).updBlock c.b.uid (fun b => { b with lines := mergeLines b.lines ls, seq := b.seq + 1 })).logBlock c.w 3 1
  | 2 => ((s.tickNow.unstageBytes c.b (c.lrec.cluster + 1) ls).updCluster c.b (fun x => { x with lines := mergeLines x.lines ls, seq := x.seq + 1 })).logCluster c.w 3 1
  | lvl =>
    let bs := leBytes q.size v
    let s :=
      if pl.space = .hbm then s.devWriteBytes c.part .hbm pl.pa bs
      else ls.foldl (fun s l => s.homeWrite c.part pl.space (pl.pa / 64) l.data l.mask) s
    s.logDev c.part 3 lvl 1 (agentOf c.w)

/-- Perform the lanes of one line, ascending (R189); the line is translated once. With the state, each lane's old value.
Log entry 111 (DEDUCED). -/
def Cx.atomLine (c : Cx) (s : State) (qs : List Piece) : State × List (Nat × Nat) :=
  match qs.head?.map (fun q => s.translate c.w.core c.part .atomic q.addr) with
  | some (.ok p0) =>
    qs.foldl (fun (x : State × List (Nat × Nat)) q =>
      let pl : Place := { p0 with pa := 64 * (p0.pa / 64) + q.addr % 64 }
      let l := c.readLane q.lane
      let t := tyOf c.e
      let old := c.atomRead x.1 q pl
      (c.atomWrite x.1 q pl (atomValue c.op t old (c.src c.e.b t l) (c.src c.e.c t l)), x.2 ++ [(q.lane, old)])) (s, [])
  | _ => (s, [])

/-- The old values of the lanes performed in earlier turns, which the instruction keeps until its end, and how it keeps them. -/
def Cx.atomOlds (c : Cx) : List (Nat × Nat) :=
  (List.range (c.iv.tens.length / 2)).map (fun i => ((c.iv.tens.getD (2 * i) 0#64).toNat, (c.iv.tens.getD (2 * i + 1) 0#64).toNat))
def Cx.keepOlds (c : Cx) (s : State) (olds : List (Nat × Nat)) : State :=
  s.updWave c.wid (fun w => { w with issued := some { c.iv with tens := olds.flatMap (fun x => [dword x.1, dword x.2]) } })

/-- The level of the commit and the acquire of an atomic (R189): on a system-homed line .dev acts as .sys (R191). -/
def Cx.atomLevel (c : Cx) : Nat :=
  let away (q : Piece) : Bool := match c.s.translate c.w.core c.part .atomic q.addr with | .ok pl => pl.space ≠ .hbm | .error _ => false
  if scopeCode c.e = 3 && c.atomPieces.any away then 4 else scopeCode c.e

/-- The end of an atomic: the old values are written, a helper lane's 0 (R23), and the acquire follows. -/
def Cx.atomEnd (c : Cx) (s : State) (olds : List (Nat × Nat)) : Res :=
  let wide := (tyOf c.e).width = 64
  let s := s.updWave c.wid (fun w =>
    olds.foldl (fun w x => w.write c.e.dst wide x.1 x.2) ((c.accessLanes.filter c.isHelper).foldl (fun w l => w.write c.e.dst wide l 0) w))
  .done (if ordCode c.e = 1 || ordCode c.e = 3 then s.acquire c.wid c.atomLevel else s)

/-- The device-level slots that a line needs (R193): its home die's sync engine, for an HBM page without the stream-shared
attribute. -/
def Cx.atomSlot (c : Cx) (s : State) (q : Piece) : Option State :=
  if scopeCode c.e < 3 then some s
  else
    match s.translate c.w.core c.part .atomic q.addr with
    | .ok pl => if pl.space = .hbm && !pl.ss then s.seUse (s.objDie pl) ⟨.line, pl.pa / 64⟩ else some s
    | .error _ => some s

/-- What the atomic needs of its level beyond the line's own place (R189, R190): trap 8 or, under AUTOC, an implicit commit
at .wave; trap 9 at .blk and .clus, where the commit of .rel stands. -/
def Cx.atomRoom (c : Cx) (s : State) (qs : List Piece) : Except Res State :=
  let ls := storeLines false (qs.map (fun q => (q, 0)))
  let c' := c.on s
  match scopeCode c.e with
  | 0 =>
    if bufNeed c'.w.buf ls ≤ bufFree c'.w.buf then .ok s
    else if !c.w.autoc then .error (.trap (c.all 8#6))
    else c'.commitStart 0
  | lvl => if c'.noRoom lvl ls then .error (.trapAt s (c.all 9#6)) else .ok s

/-- The order in which the lines of one instruction are performed is open (R189): a free value picks the next one when
several are left (log entry 6). -/
def State.pickLine (s : State) (lines : List Nat) : Nat × State :=
  match lines with
  | [l] => (l, s)
  | _ => (lines.getD ((Config.freeByte s.draws).toNat % lines.length) 0, { s with draws := s.draws + 1 })

/-- The pieces of the lanes that are still to be performed. Stage 9 keeps the mask of those performed. -/
def Cx.atomLeft (c : Cx) : List Piece :=
  c.atomPieces.filter (fun q => !(c.w.stage = 9 && c.w.aux / 2 ^ q.lane % 2 = 1))

/-- A piece reaches its line's home: at device and system scope, and below them for a byte that no lower level holds (R190). -/
def Cx.atomReaches (c : Cx) (s : State) (q : Piece) : Bool :=
  decide (3 ≤ scopeCode c.e) || (List.range q.size).any (fun i => (c.atomHeld s (q.addr + i)).isNone)

/-- A piece that reaches a line with a system home. -/
def Cx.atomSys (c : Cx) (s : State) (q : Piece) : Bool :=
  c.atomReaches s q && (match s.translate c.w.core c.part .atomic q.addr with | .ok pl => pl.space ≠ .hbm | .error _ => false)

/-- A piece that reaches a home which answers nothing now (R389, R413). -/
def Cx.atomWaits (c : Cx) (s : State) (q : Piece) : Bool :=
  c.atomReaches s q && (match s.translate c.w.core c.part .atomic q.addr with
    | .ok pl => s.homeHeld pl.space (pl.pa / 64)
    | .error _ => false)

/-- One turn of an atomic once its commit is done: the next line, and after the last one the end. With a system-homed
line that it reaches the wave first waits for the answer (R191, R389). Log entry 111 (DEDUCED). -/
def Cx.atomStep (c : Cx) (s : State) : Res :=
  let qs := c.atomLeft
  match linesOf qs with
  | [] => c.atomEnd s c.atomOlds
  | lines =>
    if c.w.stage ≠ 9 && qs.any (c.atomSys s) then .wait s .sysAtom 9 9 0
    else if qs.any (c.atomWaits s) then
      (if qs.any (c.atomSys s) then .wait s .sysAtom 9 9 (if c.w.stage = 9 then c.w.aux else 0)
       else .wait s (if c.w.stage = 9 then .atom else .queue) 9 (if c.w.stage = 9 then 9 else 8) c.w.aux)
    else
    let (line, s) := s.pickLine lines
    let now := qs.filter (fun q => q.addr / 64 = line)
    if scopeCode c.e ≠ 0 && !s.mayStep c.part 3 (agentOf c.w) (16 * now.length) then
      .wait (s.logFull c.part) (if c.w.stage = 9 then .atom else .queue) 9 (if c.w.stage = 9 then 9 else 8) c.w.aux
    else
      match now with
      | [] => c.atomEnd s c.atomOlds
      | q :: _ =>
        match c.atomSlot s q with
        | none => c.waitSlot s (match s.translate c.w.core c.part .atomic q.addr with | .ok pl => s.objDie pl | .error _ => 0)
            (if c.w.stage = 9 then 9 else 8) c.w.aux
        | some s =>
          let (s, olds) := c.atomLine s now
          let olds := c.atomOlds ++ olds
          if now.length = qs.length then c.atomEnd s olds
          else
            let before := if c.w.stage = 9 then c.w.aux else 0
            let left := qs.filter (fun q => q.addr / 64 ≠ line)
            .wait (c.keepOlds s olds) (if left.any (c.atomSys s) then .sysAtom else .atom) 9 9 (now.foldl (fun m q => m + 2 ^ q.lane) before)

/-- A system atomic was answered with an error, or not in time (R389): it writes no register, and cause 25 is pending with the
address of the access that failed, the lowest lane's of those not performed. Stage 10 keeps the mask of those performed. -/
def Cx.atomFailed (c : Cx) : Res :=
  match (c.atomPieces.filter (fun q => c.w.aux / 2 ^ q.lane % 2 = 0)).findSome? (fun q =>
      match c.s.translate c.w.core c.part .atomic q.addr with | .ok pl => if c.atomSys c.s q then some (q, pl) else none | .error _ => none) with
  | some (q, pl) => .done (c.s.pendCause c.wid 25#6 (sysRec c.s c.w pl.space q.addr))
  | none => .done c.s

/-- After its checks and the commit of .rel: the room of its level (R189), then poison, which makes cause 20 pending and
lets nothing be written (R192), then its lines. -/
def Cx.atomGo (c : Cx) (s : State) : Res :=
  let qs := c.atomPieces
  match c.atomRoom s qs with
  | .error r => r
  | .ok s =>
    let places := qs.filterMap (fun q => match s.translate c.w.core c.part .atomic q.addr with | .ok pl => some (q, pl) | .error _ => none)
    match places.find? (fun x => c.atomPoison s x.1 x.2) with
    | some x => .done (s.pendCause c.wid 20#6 (asyncRec s c.w 20#6 (dword x.1.addr)))
    | none => (c.on s).atomStep s

/-- An atomic (R189): checks in every lane, the commit of .rel, then `atomGo`. -/
def atomic (op : Nat) (e : Enc) (s : State) : Host.Outcome State Fault Refusal :=
  simt op e s (fun c =>
    if c.w.stage = 9 then c.atomStep c.s
    else if c.w.stage = 10 then c.atomFailed
    else
      match (if c.w.stage = 0 then c.faultOf (c.atomPieces.filterMap (fun q => (c.atomCause q).map (fun k => (q, k)))) else none) with
      | some t => .trap t
      | none =>
        if (ordCode e = 2 || ordCode e = 3) && scopeCode e ≠ 0 then c.commit c.atomLevel c.atomGo else c.atomGo c.s)

/-- `atom.add` (R188, R189). -/
def execAtomAdd (e : Enc) (s : State) : Host.Outcome State Fault Refusal := atomic 0x90 e s
/-- `atom.min`. -/
def execAtomMin (e : Enc) (s : State) : Host.Outcome State Fault Refusal := atomic 0x91 e s
/-- `atom.max`. -/
def execAtomMax (e : Enc) (s : State) : Host.Outcome State Fault Refusal := atomic 0x92 e s
/-- `atom.and`. -/
def execAtomAnd (e : Enc) (s : State) : Host.Outcome State Fault Refusal := atomic 0x93 e s
/-- `atom.or`. -/
def execAtomOr (e : Enc) (s : State) : Host.Outcome State Fault Refusal := atomic 0x94 e s
/-- `atom.xor`. -/
def execAtomXor (e : Enc) (s : State) : Host.Outcome State Fault Refusal := atomic 0x95 e s
/-- `atom.exch`. -/
def execAtomExch (e : Enc) (s : State) : Host.Outcome State Fault Refusal := atomic 0x96 e s
/-- `atom.cas`. -/
def execAtomCas (e : Enc) (s : State) : Host.Outcome State Fault Refusal := atomic 0x97 e s
/-- `atom.inc`. -/
def execAtomInc (e : Enc) (s : State) : Host.Outcome State Fault Refusal := atomic 0x98 e s

end Sys2Proof.Machine
end

