-- ==== Sys2Proof/Machine/Control.lean ====
section
/-! DEFINITION. Control flow: opcodes 0x50-0x57 (R132-R136). -/

namespace Sys2Proof.Machine

open Sys2Proof

/-- The branch offset DST:C, 19 bits, signed (R100). -/
def branchOffset (e : Enc) : BitVec 19 := e.dst ++ e.c
/-- The instruction's own address plus 8 x offset. -/
def branchTarget (w : Wave) (e : Enc) : Dword := w.pc + ((branchOffset e).signExtend 64) * 8#64

/-- `br` (R132): COND 6 branches always and reads no source. -/
def execBr (e : Enc) (s : State) : Host.Outcome State Fault Refusal :=
  simt 0x50 e s (fun c =>
    let t := tyOf c.e
    let taken := subCode c.e = 6 || condBits t c.w.flush (subCode c.e) (c.uni c.e.a t) (c.uni c.e.b t)
    if taken then .jump c.s (branchTarget c.w c.e) else .done c.s)

/-- `split` (R133): trap 7 at depth 8; otherwise an entry is pushed and the mask narrows, or the wave branches. -/
def execSplit (e : Enc) (s : State) : Host.Outcome State Fault Refusal :=
  simt 0x51 e s (fun c =>
    if 8 ≤ c.w.stack.length then .trap (c.all 7#6)
    else
      let label := branchTarget c.w c.e
      let m := c.w.exec &&& c.kreg c.e.a
      let s' := c.s.updWave c.wid (fun w =>
        { w with stack := (label, c.w.exec) :: w.stack, exec := if m = 0#32 then w.exec else m })
      if m = 0#32 then .jump s' label else .done s')

/-- `join` (R133): trap 3 on an empty stack; otherwise the top entry's mask is restored. -/
def execJoin (e : Enc) (s : State) : Host.Outcome State Fault Refusal :=
  simt 0x52 e s (fun c =>
    match c.w.stack with
    | [] => .trap (c.all 3#6)
    | (_, m) :: rest => .done (c.s.updWave c.wid (fun w => { w with stack := rest, exec := m })))

/-- `loop` (R134). -/
def execLoop (e : Enc) (s : State) : Host.Outcome State Fault Refusal :=
  simt 0x53 e s (fun c =>
    match Sel.of c.e.a with
    | .s n =>
      let x := c.w.sget n - 1#32
      let s' := c.s.updWave c.wid (fun w => w.sset n x)
      if x = 0#32 then .done s' else .jump s' (branchTarget c.w c.e)
    | _ => .done c.s)

/-- `call` (R135): the link pair is the address of the next instruction. -/
def execCall (e : Enc) (s : State) : Host.Outcome State Fault Refusal :=
  simt 0x54 e s (fun c =>
    match Sel.of c.e.a with
    | .s n => .jump (c.s.updWave c.wid (fun w => w.setSpair n (nextPc c.w c.e))) (branchTarget c.w c.e)
    | _ => .done c.s)

/-- A jump to the address in a pair; a misaligned target raises trap 4 here (R135). -/
def jumpPair (c : Cx) : Res :=
  match Sel.of c.e.a with
  | .s n =>
    let t := c.w.spair n
    if t.toNat % 8 ≠ 0 then .trap { c.all 4#6 with addr := t } else .jump c.s t
  | _ => .done c.s

/-- `ret` (R135). -/
def execRet (e : Enc) (s : State) : Host.Outcome State Fault Refusal := simt 0x55 e s (fun c => jumpPair c)

/-- `jmp` (R135): as ret. -/
def execJmp (e : Enc) (s : State) : Host.Outcome State Fault Refusal := simt 0x56 e s (fun c => jumpPair c)

/-- `nop` (R135). -/
def execNop (e : Enc) (s : State) : Host.Outcome State Fault Refusal := simt 0x57 e s (fun c => .done c.s)

end Sys2Proof.Machine
end

