-- ==== Sys2Proof/Machine/Turn.lean ====
section
/-! DEFINITION. A wave's turn (R39, R64, R258): a pending cause, a save or a role switch that is due, the fetch, the scoreboard,
or else the instruction that it runs. -/

namespace Sys2Proof.Machine

/-- A wave's turn either is used up before an instruction, or runs one. -/
inductive Turning where
  | used (s : State)
  | run (i : Instr) (s : State)
  deriving DecidableEq, Repr

/-- A wave takes its pending role (R39, R40), and the room that this frees is offered (R55). -/
def State.performSwitch (s : State) (w : Wave) (r : LaunchRec) (j : BitVec 2) : State :=
  (s.updWave w.wid (fun x => x.switchRole r j)).distribute ((s.block? w.blk).map Block.grid)

/-- The role that a wave takes now: none while an instruction that has issued goes on, or one waits for something else than its
registers or its fetch (R39). -/
def Wave.switchDue (w : Wave) : Option (BitVec 2) :=
  if w.stage = 0 && (w.wait = .no || w.wait = .scoreboard || w.wait = .fetch) && !w.hnd then w.rolePend else none

/-- A wave's turn up to the instruction it runs. A fetch of poison or of an extent that is gone leaves its asynchronous cause
pending (R257). A wave of a partition that is being ended stops at its boundary (R390). Log entries 43 (DEDUCED), 44 (DEDUCED).
-/
def State.turnOf (s : State) (wid : Nat) : Turning :=
  match s.wave? wid with
  | none => .used s
  | some w =>
    if !s.canRun w || ((s.part (s.partOfWave wid)).ending && w.atBoundary) then .used s
    else
      match (if !w.tmask && w.atBoundary then firstPending w.pend else none) with
      | some p => .used (s.takeAsync wid p)
      | none =>
        if w.hnd && w.atBoundary && w.phase ≠ .save && w.pend.any (fun p => p.code = 48#6) then
          .used (s.hardwareSave wid w.pc w.keptStage)
        else if w.yieldsAtWait then .used (s.enterSave wid 49#6 w.pc w.keptStage)
        else
          match w.switchDue, s.recOf w with
          | some j, some r =>
            .used (if w.loads.isEmpty && w.claims.isEmpty then s.performSwitch w r j
              else s.stallWave wid .scoreboard 9 0 0)
          | _, _ =>
            if s.fetchLate w then .used (s.stallWave wid .fetch 10 0 0)
            else
              match s.fetch w with
              | .error t => .used (if accessAsync t.code then (s.pendCause wid t.code (accessRec s w .fetch t.code t.addr)).stallWave wid .fetch 10 w.stage w.aux
                  else s.raise wid w.exec t)
              | .ok i =>
                match i.code with
                | none => .used s
                | some (op, e) =>
                  if w.stage = 0 && s.held w op.toNat e then .used (s.stallWave wid .scoreboard 9 0 0)
                  else .run i s

end Sys2Proof.Machine
end

