-- ==== Sys2Proof/Machine/Tasks.lean ====
section
/-! DEFINITION. Attach, leave and role (0xA0-0xA2, R33, R35, R39, R200) and the task instructions (0xA5-0xA7, R203,
R204). -/

namespace Sys2Proof.Machine

open Sys2Proof

/-! ## Membership -/

/-- `blk.grow` (R33): the waves attached. -/
def execBlkGrow (e : Enc) (s : State) : Host.Outcome State Fault Refusal :=
  simt 0xA0 e s (fun c =>
    let (k, s) := c.s.growBlock c.b.uid (min 31 (c.n32 e.a))
    .done (s.updWave c.wid (fun w => w.write e.dst false 0 k)))

/-- Close a wave's open batch (R246): the counter rises and the open batch becomes that batch. -/
def Wave.closeBatch (w : Wave) : Wave :=
  let n := w.batchNo + 1#32
  { w with
    batchNo := n, openBatch := [], opened := false, openFail := none
    closed := if w.openBatch.isEmpty && w.openFail.isNone then w.closed
      else w.closed ++ [{ num := n, cmds := w.openBatch, failed := w.openFail }] }

/-- Closed batches that still hold a command that is not complete. -/
def Wave.incomplete (w : Wave) : List Batch := w.closed.filter (fun b => !b.cmds.isEmpty)

/-- `blk.leave` (R35): the open batch is closed; once every batch is complete and %acks is 0 the wave commits and leaves.
The retirement that a last member causes, where it moves lines, needs its place in the order log (R279, R281). -/
def execBlkLeave (e : Enc) (s : State) : Host.Outcome State Fault Refusal :=
  simt 0xA1 e s (fun c =>
    let c := if !c.w.opened then c else c.on (c.s.updWave c.wid Wave.closeBatch)
    if !c.w.incomplete.isEmpty then .wait c.s .batch 4 0 0
    else if c.w.stage = 0 && c.w.acks ≠ 0 then .wait c.s .commit 8 0 0
    else
      match c.commit 0 .done with
      | .done s =>
        let (ls, places) := if c.b.members.length = 1 then s.retireLines (c.on s).b c.g else ([], [])
        if places.any (fun pl => s.stackHeld pl.space (pl.pa / 64)) then .wait s .commit 8 8 0
        else if !ls.isEmpty && !s.mayStep c.part 1 (agentOf c.w) 16 then .wait (s.logFull c.part) .queue 9 8 0
        else .gone (s.detachWave c.wid)
      | .trap t => .trapAt c.s t
      | r => r)

/-- The granules that a core's waves hold. -/
def State.granulesUsed (s : State) (core : Nat) : Nat := (s.usedRoom core).granules

/-- The members of a block that a mask of wave indices names. -/
def State.named (s : State) (b : Block) (mask : Word) : List Wave :=
  (b.members.filterMap s.wave?).filter (fun w => mask.getLsbD w.windex)

/-- The core's free granules cover the net increase of some waves at a role (R39). Log entry 43 (DEDUCED). -/
def State.rolesFit (s : State) (core : Nat) (r : LaunchRec) (ws : List Wave) (j : Nat) : Bool :=
  decide (s.granulesUsed core + ws.length * roleGranules r j
    ≤ coreRoom.granules + ws.foldl (fun n w => n + (w.room r).granules) 0)

/-- `role` (R39, R200): every named member is marked, and the issuing wave switches at once when it has no register write
outstanding and is not in its handler. Log entry 43 (DEDUCED). -/
def execRole (e : Enc) (s : State) : Host.Outcome State Fault Refusal :=
  simt 0xA2 e s (fun c =>
    let j := c.n32 e.a
    let mask := word (c.uni e.b .b32)
    if 3 < j || (j ≠ 0 && roleEntry c.lrec j = 0#64) then .trap (c.all 2#6)
    else
      let ws := c.s.named c.b mask
      if !c.s.rolesFit c.w.core c.lrec ws j then .done (c.setK c.s 0#32)
      else
        let mark (s : State) (w : Wave) : State := s.updWave w.wid (fun x => { x with rolePend := some (BitVec.ofNat 2 j) })
        let s := ws.foldl mark (c.setK c.s 0xFFFFFFFF#32)
        if mask.getLsbD c.w.windex && !c.w.hnd && c.w.loads.isEmpty && c.w.claims.isEmpty then
          .jump (s.performSwitch c.w c.lrec (BitVec.ofNat 2 j)) (roleEntry c.lrec j)
        else .done s)

/-! ## Tasks -/

/-- COUNT and FAILED of a join object, and its signal word (R203). -/
def State.joinCount (s : State) (pl : Place) : Word := (s.objWord pl 0).extractLsb' 0 32
/-- The pending spawns of a die's scheduler (R204). -/
def maxSpawns : Nat := 4096

/-- `task.spawn`: the address of the record is what a trap 23 for it names (log entry 23). Log entry 34 (DEDUCED). -/
def execTaskSpawn (e : Enc) (s : State) : Host.Outcome State Fault Refusal :=
  simt 0xA5 e s (fun c =>
    let rec_ := c.addr e.a
    let j := c.addr e.b
    let die := dieOf c.w.core
    let child : Launch :=
      { part := c.part, die := die, queue := none, record := emptyRecord, cls := c.g.launch.cls, status := 0#64
        sigEn := false, sigDie := 0, sigTask := 0, join := if j = 0 then none else some (dword j) }
    let submit (s : State) : Res := .done (s.updDie die (fun d => { d with spawns := d.spawns ++ [(child, dword rec_)] }))
    match (if j = 0 then .ok none else (c.object j).map some) with
    | .error t => .trap t
    | .ok pl =>
      if rec_ = 0 || rec_ % 64 ≠ 0 then .trap (c.syncTrap rec_ 5)
      else
        c.commit 3 (fun s =>
          if maxSpawns ≤ (s.die die).spawns.length then .wait s .queue 9 8 0
          else
            match pl with
            | none => submit s
            | some pl =>
              if s.joinCount pl = 0xFFFFFFFF#32 then .trapAt s (c.syncTrap j 5)
              else if !s.mayStep c.part 3 (agentOf c.w) 16 then .wait (s.logFull c.part) .queue 9 8 0
              else
                match s.seUse (s.objDie pl) ⟨.object, pl.pa / 64⟩ with
                | none => c.waitSlot s (s.objDie pl) 8 0
                | some s => submit ((s.setObj c.part pl 0 [s.objWord pl 0 + 1#64]).logDev c.part 3 3 1 (agentOf c.w))))

/-- `task.join`: a COUNT of 0 decrements the task at once on the object's home die. Log entry 23 (DEDUCED). -/
def execTaskJoin (e : Enc) (s : State) : Host.Outcome State Fault Refusal :=
  simt 0xA6 e s (fun c =>
    let j := c.addr e.a
    let t := c.n32 e.b
    match c.object j with
    | .error t => .trap t
    | .ok pl =>
      let die := c.s.objDie pl
      if 65535 < t then .trap (c.syncTrap j 5)
      else if !c.mayLog 3 then c.waitLog
      else
        match c.s.seUse die ⟨.object, pl.pa / 64⟩ with
        | none => c.waitSlot c.s die 0 0
        | some s =>
          let w1 := s.objWord pl 1
          let s' :=
            if s.joinCount pl = 0#32 then (s.setObj c.part pl 1 [w1 &&& ~~~0x10000#64]).decrement die t
            else s.setObj c.part pl 1 [(w1 &&& ~~~0x1FFFF#64) ||| dword (0x10000 + t)]
          .done (s'.logDev c.part 3 3 1 (agentOf c.w)))

/-- `task.wait`: waits for COUNT 0, then acq.dev. -/
def execTaskWait (e : Enc) (s : State) : Host.Outcome State Fault Refusal :=
  simt 0xA7 e s (fun c =>
    let wait (s : State) (pl : Place) : Res := c.awaitObject s pl .task (fun s => decide (s.joinCount pl = 0#32))
    if c.w.stage = 11 then wait c.s c.keptPlace
    else
      match c.object (c.addr e.a) with
      | .error t => .trap t
      | .ok pl =>
        match c.s.seUse (c.s.objDie pl) ⟨.object, pl.pa / 64⟩ with
        | none => c.waitSlot c.s (c.s.objDie pl) 0 0
        | some s => wait s pl)

end Sys2Proof.Machine
end

