-- ==== Sys2Proof/Machine/Tensor.lean ====
section
/-! DEFINITION. The tensor table (R232-R235), the arrangement of a slice by layout mode (R236), and the instructions tld
(0x65, R146), tset and tget (0xB0, 0xB1, R235). -/

namespace Sys2Proof.Machine

open Sys2Proof

/-! ## Entries (R233, R234) -/

/-- Bits [hi:lo] of word `i` of an entry. -/
def TEntry.f (t : TEntry) (i hi lo : Nat) : Nat := bitsOf (t.getD i 0#64).toNat hi lo
def TEntry.ebase (t : TEntry) : Nat := TEntry.f t 0 56 0
def TEntry.sbase (t : TEntry) : Nat := TEntry.f t 1 56 0
def TEntry.bbase (t : TEntry) : Nat := TEntry.f t 2 56 0
/-- NDIM: dimensions minus one. -/
def TEntry.ndim (t : TEntry) : Nat := TEntry.f t 3 9 8
def TEntry.layout (t : TEntry) : Nat := TEntry.f t 3 6 5
def TEntry.ty (t : TEntry) : Option Ty := Ty.ofCode (BitVec.ofNat 5 (TEntry.f t 3 4 0))
def TEntry.dim (t : TEntry) (d : Nat) : Nat := TEntry.f t (4 + d / 2) (32 * (d % 2) + 31) (32 * (d % 2))
def TEntry.stride (t : TEntry) (d : Nat) : Nat := TEntry.f t (6 + d / 2) (32 * (d % 2) + 31) (32 * (d % 2))

/-- A format that a valid entry may have: no b type, e8m0, e3m5 or reserved code. -/
def tensorFormat : Option Ty → Bool
  | none => false
  | some t => !t.isRaw && t ≠ .e8m0 && t ≠ .e3m5

/-- W: the element width in bits. -/
def TEntry.w (t : TEntry) : Nat := match TEntry.ty t with | some x => x.width | none => 8
def TEntry.isNf4b (t : TEntry) : Bool := TEntry.ty t = some .nf4b

/-- The entry is valid (R234). -/
def TEntry.valid (t : TEntry) : Bool :=
  let used (d : Nat) : Bool := decide (d ≤ TEntry.ndim t)
  TEntry.f t 3 15 15 = 1
    && TEntry.f t 0 63 57 = 0 && TEntry.f t 1 63 57 = 0 && TEntry.f t 2 63 57 = 0 && TEntry.f t 3 63 16 = 0 && TEntry.f t 3 14 10 = 0
    && (List.range 4).all (fun d => if used d then TEntry.dim t d ≠ 0 else TEntry.dim t d = 0 && TEntry.stride t d = 0)
    && tensorFormat (TEntry.ty t)
    && (TEntry.w t ≠ 4 || (TEntry.stride t 0 = 1 && (List.range 4).all (fun d => d = 0 || !used d || TEntry.stride t d % 2 = 0)))

/-- The check at a command's issue: 36 for an entry that is not valid, then 19 for another world. -/
def TEntry.check (t : TEntry) (world : Bool) : Option (BitVec 6) :=
  if !TEntry.valid t then some 36#6 else if (TEntry.f t 3 7 7 = 1) ≠ world then some 19#6 else none

/-- The outer extent: how many slices the tensor has (R234). -/
def TEntry.outer (t : TEntry) : Nat := if TEntry.ndim t = 0 then 1 else TEntry.dim t (TEntry.ndim t)
/-- K: the length along the reduction. -/
def TEntry.k (t : TEntry) : Nat := if 2 ≤ TEntry.ndim t then TEntry.dim t 0 * TEntry.outer t else TEntry.dim t 0
/-- Lines: how many values the line index takes. -/
def TEntry.lines (t : TEntry) : Nat :=
  match TEntry.ndim t with
  | 0 => 1
  | 1 => TEntry.dim t 1
  | 2 => TEntry.dim t 1
  | _ => TEntry.dim t 1 * TEntry.dim t 2

/-- offset(idx), in elements. -/
def TEntry.offset (t : TEntry) (idx : List Nat) : Nat :=
  (List.range (TEntry.ndim t + 1)).foldl (fun n d => n + idx.getD d 0 * TEntry.stride t d) 0
/-- The byte that holds the element, and whether it is the high nibble. -/
def TEntry.elemByte (t : TEntry) (idx : List Nat) : Nat × Bool :=
  let o := TEntry.offset t idx
  ((TEntry.ebase t + o * TEntry.w t / 8) % 2 ^ 64, TEntry.w t = 4 && o % 2 = 1)
/-- k and i of an element. -/
def TEntry.kOf (t : TEntry) (idx : List Nat) : Nat :=
  if 2 ≤ TEntry.ndim t then idx.getD 0 0 + TEntry.dim t 0 * idx.getD (TEntry.ndim t) 0 else idx.getD 0 0
def TEntry.iOf (t : TEntry) (idx : List Nat) : Nat :=
  match TEntry.ndim t with
  | 0 => 0
  | 1 => idx.getD 1 0
  | 2 => idx.getD 1 0
  | _ => idx.getD 1 0 + TEntry.dim t 1 * idx.getD 2 0
/-- The index list of line `i`, reduction index `k`. -/
def TEntry.idxOf (t : TEntry) (i k : Nat) : List Nat :=
  match TEntry.ndim t with
  | 0 => [k]
  | 1 => [k, i]
  | 2 => [k % TEntry.dim t 0, i, k / TEntry.dim t 0]
  | _ => [k % TEntry.dim t 0, i % TEntry.dim t 1, i / TEntry.dim t 1, k / TEntry.dim t 0]
/-- The addresses of a block scale and of a band scale. -/
def TEntry.blockAddr (t : TEntry) (i k : Nat) : Nat := (TEntry.sbase t + i * ceilDiv (TEntry.k t) 8 + k / 8) % 2 ^ 64
def TEntry.bandAddr (t : TEntry) (i : Nat) : Nat := (TEntry.bbase t + 2 * (i / 64)) % 2 ^ 64

/-! ## Reading and writing the table (R232) -/

/-- TT_BASE of a partition's context. -/
def State.ttBase (s : State) (p : Nat) : Nat := match (s.part p).ctx with | some c => c.ttBase.toNat | none => 0

/-- The entry as a die's tensor descriptor cache holds it, or as memory holds it, which fills the cache; the fault of the
read otherwise (log entry 24). -/
def State.tensorEntry (s : State) (die p id : Nat) : Except (BitVec 6 × Nat) (TEntry × State) :=
  match (s.die die).tcache.find? (fun x => x.1 = p && x.2.1 = id) with
  | some x => .ok (x.2.2, s)
  | none =>
    match s.vread die p (s.ttBase p + 64 * id) 64 with
    | .error x => .error x
    | .ok bs =>
      let t : TEntry := (List.range 8).map (fun i => dword (leNat ((bs.drop (8 * i)).take 8)))
      .ok (t, s.updDie die (fun d => { d with tcache := (p, id, t) :: d.tcache }))

/-- Read an entry for a command at its issue and check it (R234): the trap, or the entry. Log entry 24 (DEDUCED). -/
def Cx.tensor (c : Cx) (id : Nat) : Except Trap (TEntry × State) :=
  match c.s.tensorEntry (dieOf c.w.core) c.part id with
  | .error (k, a) => .error { c.all k with addr := dword a }
  | .ok (t, s) =>
    match TEntry.check t (c.s.world c.part) with
    | some k => .error (c.all k)
    | none => .ok (t, s)

/-- `tset` (R235): waits for the wave's earlier commands, writes the word at device level and drops the entry from both
dies' caches. -/
def execTset (e : Enc) (s : State) : Host.Outcome State Fault Refusal :=
  simt 0xB0 e s (fun c =>
    let id := c.n32 e.a
    let i := c.n32 e.b
    if 1023 < id || 7 < i then .trap (c.all 2#6)
    else if c.s.cmds.any (fun k => k.wid = some c.wid) then .wait c.s .queue 9 0 0
    else if !c.mayLog 1 then c.waitLog
    else
      let a := c.s.ttBase c.part + 64 * id + 8 * i
      match c.s.vwrite (dieOf c.w.core) c.part a (leBytes 8 (c.uni e.c .b64)) with
      | .error (k, va) => c.fails { c.all k with addr := dword va }
      | .ok s =>
        .done ((s.dropTensors c.part (· = id)).logDev c.part 1 3 1 (agentOf c.w)))

/-- `tget` (R235): a word of the entry as the caches hold it. -/
def execTget (e : Enc) (s : State) : Host.Outcome State Fault Refusal :=
  simt 0xB1 e s (fun c =>
    let id := c.n32 e.a
    let i := c.n32 e.b
    if 1023 < id || 7 < i then .trap (c.all 2#6)
    else
      match c.s.tensorEntry (dieOf c.w.core) c.part id with
      | .error (k, a) => c.fails { c.all k with addr := dword a }
      | .ok (t, s) => .done (s.updWave c.wid (fun w => w.write e.dst true 0 (t.getD i 0#64).toNat)))

/-! ## tld (R146) -/

/-- The index of a lane in each dimension, none when one is negative or beyond its extent. Log entry 69 (DEDUCED). -/
def Cx.tldIndex (c : Cx) (t : TEntry) (first lane : Nat) : Option (List Nat) :=
  let ix := (List.range (TEntry.ndim t + 1)).map (fun d => (d, Ty.i32.toInt (c.w.vget (first + d) lane).toNat))
  if ix.all (fun x => decide (0 ≤ x.2) && decide (x.2 < TEntry.dim t x.1)) then some (ix.map (fun x => x.2.toNat)) else none

/-- `tld` (R146): each lane's element, with its scales for NF4B. Log entry 69 (DEDUCED). -/
def execTld (e : Enc) (s : State) : Host.Outcome State Fault Refusal :=
  simt 0x65 e s (fun c =>
    let id := c.n32 e.a
    if 1023 < id then .trap (c.all 2#6)
    else
      match c.tensor id with
      | .error t => c.fails t
      | .ok (t, s) =>
        let first := match Sel.of e.b with | .v n => n | _ => 0
        if c.w.nv < first + TEntry.ndim t + 1 then .trap (c.all 1#6)
        else
          let c := c.on s
          let nf := TEntry.isNf4b t
          let idx := (List.range 32).map (fun l => if c.lanes.getLsbD l then c.tldIndex t first l else none)
          let at_ (l : Nat) : Option (List Nat) := idx.getD l none
          let size := max 1 (TEntry.w t / 8)
          let addr (l : Nat) : Option Nat := (at_ l).map (fun x => (TEntry.elemByte t x).1)
          let scale (l : Nat) : Nat := match at_ l with | some x => TEntry.blockAddr t (TEntry.iOf t x) (TEntry.kOf t x) | none => 0
          let band (l : Nat) : Nat := match at_ l with | some x => TEntry.bandAddr t (TEntry.iOf t x) | none => 0
          let bytes (l a n : Nat) : List Piece := (List.range n).map (fun i => ⟨l, (a + i) % 2 ^ 64, 1⟩)
          let ps := (lanesOf c.lanes).flatMap (fun l =>
            match addr l with
            | none => []
            | some a => bytes l a size ++ (if nf then bytes l (scale l) 1 ++ bytes l (band l) 2 else []))
          let kind : LoadKind := .tensor (BitVec.ofNat 5 (TEntry.f t 3 4 0)) (tyOf e = .f32)
            (laneMask (fun l => match at_ l with | some x => (TEntry.elemByte t x).2 | none => false))
            ((List.range 32).map scale) ((List.range 32).map band) c.w.flush
          c.issueLoad false [] ps [] (c.outLoad kind size addr (laneMask (fun l => (at_ l).isNone))) 0)

/-! ## Slices in an entry (R236) -/

/-- What a byte of an arranged slice holds: element byte `n` of the slice's elements (whole bytes of elements, or two
4-bit elements, the second absent at the end of an odd line), or a block scale of a line. -/
inductive SliceByte where
  | elem (lo hi : Option (Nat × Nat)) (part : Nat)
  | scale (i k : Nat)
  deriving DecidableEq, Repr

/-- The lines of slice `s`, and the reduction range of each: the first index, and how many. Log entry 58 (DEDUCED). -/
def TEntry.sliceLines (t : TEntry) (s : Nat) : List Nat :=
  match TEntry.ndim t with
  | 0 => [0]
  | 1 => [s]
  | _ => List.range (TEntry.lines t)
def TEntry.sliceK (t : TEntry) (s : Nat) : Nat × Nat :=
  (if 2 ≤ TEntry.ndim t then TEntry.dim t 0 * s else 0, TEntry.dim t 0)

/-- Whether ring entries and tiles of the tensor hold block scales: NF4B of a layout other than l0.
Log entry 58 (DEDUCED). -/
def TEntry.keepsScales (t : TEntry) : Bool := TEntry.isNf4b t && TEntry.layout t ≠ 0

/-- The bytes of some elements, named by line and reduction index, in order. -/
def elemBytes (w : Nat) (xs : List (Nat × Nat)) : List SliceByte :=
  if w = 4 then
    (List.range ((xs.length + 1) / 2)).map (fun n => .elem xs[2 * n]? xs[2 * n + 1]? 0)
  else xs.flatMap (fun x => (List.range (w / 8)).map (fun b => .elem (some x) none b))

/-- The arrangement of slice `s` under a layout mode. Log entry 58 (DEDUCED). -/
def TEntry.arrange (t : TEntry) (layout s : Nat) : List SliceByte :=
  let (k0, n) := TEntry.sliceK t s
  let lines := TEntry.sliceLines t s
  let elems (i : Nat) : List (Nat × Nat) := (List.range n).map (fun j => (i, k0 + j))
  let scales (i : Nat) : List SliceByte :=
    if TEntry.keepsScales t then (List.range ((k0 + n - 1) / 8 + 1 - k0 / 8)).map (fun b => .scale i (8 * (k0 / 8 + b))) else []
  let all := elemBytes (TEntry.w t) (lines.flatMap elems)
  match layout with
  | 0 => all
  | 1 => all ++ lines.flatMap scales
  | 2 => lines.flatMap scales ++ all
  | _ =>
    if TEntry.keepsScales t then lines.flatMap (fun i => elemBytes (TEntry.w t) (elems i) ++ scales i) else all

/-- Where an element of an arranged slice lies: its byte, and whether it is the high nibble. -/
def TEntry.elemAt (t : TEntry) (layout s i k : Nat) : Nat × Bool :=
  let (k0, n) := TEntry.sliceK t s
  let w := TEntry.w t
  let li := if 2 ≤ TEntry.ndim t then i else 0
  let sc := if TEntry.keepsScales t then (k0 + n - 1) / 8 + 1 - k0 / 8 else 0
  let q := li * n + (k - k0)
  if layout = 3 && TEntry.keepsScales t then (li * (ceilDiv (n * w) 8 + sc) + (k - k0) * w / 8, w = 4 && (k - k0) % 2 = 1)
  else ((if layout = 2 then (TEntry.sliceLines t s).length * sc else 0) + q * w / 8, w = 4 && q % 2 = 1)
/-- Where the block scale of an element lies in an arranged slice. -/
def TEntry.scaleAt (t : TEntry) (layout s i k : Nat) : Nat :=
  let (k0, n) := TEntry.sliceK t s
  let li := if 2 ≤ TEntry.ndim t then i else 0
  let lines := (TEntry.sliceLines t s).length
  let sc := (k0 + n - 1) / 8 + 1 - k0 / 8
  let b := k / 8 - k0 / 8
  match layout with
  | 1 => ceilDiv (lines * n * TEntry.w t) 8 + li * sc + b
  | 2 => li * sc + b
  | _ => li * (ceilDiv (n * TEntry.w t) 8 + sc) + ceilDiv (n * TEntry.w t) 8 + b

end Sys2Proof.Machine
end

