-- ==== Sys2Proof/Machine/Copy.lean ====
section
/-! DEFINITION. The command queue and its overlap rule (R66, R252), rings (0xB5-0xB7, R238-R240), copy queues and packets
(0xB2, R241-R245), batches (0xB3, 0xB4, R246), and the events of the copy engine (R172, R243, R245). -/

namespace Sys2Proof.Machine

open Sys2Proof

/-! ## Rings (R238, R240) -/

/-- `a - b` of two wrapping sequence numbers, read as signed. Log entry 110 (DEDUCED). -/
def seqDiff (a b : Word) : Int := (a - b).toInt
def Block.ring (b : Block) (r : Nat) : Ring := b.rings.getD r {}
def Block.updRing (b : Block) (r : Nat) (f : Ring → Ring) : Block := { b with rings := b.rings.modify r f }
/-- The tiles of sequence number `e`. -/
def Ring.tiles (r : Ring) (e : Word) : List Nat :=
  (List.range r.size).map (fun i => r.base + r.size * (e.toNat % max 1 r.count) + i)
/-- The first byte of the entry of `e`. Log entry 110 (DEDUCED). -/
def Ring.entryByte (r : Ring) (e : Word) : Nat := 4096 * (r.base + r.size * (e.toNat % max 1 r.count))
/-- Entry `e` may be filled: HEAD > e - COUNT. -/
def Ring.free (r : Ring) (e : Word) : Bool := decide (seqDiff e r.head < r.count)
/-- Entry `e` is filled: TAIL > e. -/
def Ring.ready (r : Ring) (e : Word) : Bool := decide (0 < seqDiff r.tail e)
def Ring.lineOf (r : Ring) (e : Word) : Word := match r.line.find? (fun x => x.1 = e.toNat) with | some x => x.2 | none => 0#32
def Ring.failed (r : Ring) (e : Word) : Bool := r.fail.contains e.toNat
def Ring.setLine (r : Ring) (e l : Word) : Ring := { r with line := (e.toNat, l) :: r.line.filter (fun x => x.1 ≠ e.toNat) }

/-- Advance TAIL over fills that have completed and have every earlier fill completed. -/
def Ring.advance : (fuel : Nat) → Ring → Ring
  | 0, r => r
  | n + 1, r =>
    if r.filled.contains r.tail.toNat then
      Ring.advance n { r with filled := r.filled.filter (· ≠ r.tail.toNat), tail := r.tail + 1#32 }
    else r

/-- Change the owner bits of some tiles. -/
def Block.setOwner (b : Block) (ts : List Nat) (engine : Bool) : Block :=
  { b with engineOwned := b.engineOwned.zipIdx.map (fun x => if ts.contains x.2 then engine else x.1) }

/-- A pop of `e`: HEAD becomes e + 1, its mark and line go, and its tiles are thread-owned. -/
def Block.pop (b : Block) (r : Nat) (e : Word) : Block :=
  let ts := (b.ring r).tiles e
  (b.updRing r (fun x => { x with
    head := e + 1#32, fail := x.fail.filter (· ≠ e.toNat), line := x.line.filter (fun y => y.1 ≠ e.toNat)
    drop := x.drop.filter (· ≠ e.toNat) })).setOwner ts false

/-- Pop, in sequence order, the entries that abandoned commands left to be popped and whose fills have completed (R249). -/
def Block.drainDrops (r : Nat) : (fuel : Nat) → Block → Block
  | 0, b => b
  | n + 1, b =>
    let x := b.ring r
    if x.drop.contains x.head.toNat && x.ready x.head then Block.drainDrops r n (b.pop r x.head) else b

/-- Fills complete. -/
def Block.fills (b : Block) (r : Nat) (es : List Word) : Block :=
  Block.drainDrops r (es.length + (b.ring r).drop.length)
    (b.updRing r (fun x => Ring.advance (x.filled.length + es.length) { x with filled := x.filled ++ es.map BitVec.toNat }))

/-! ## Ranges and the overlap rule (R66, R240, R252) -/

/-- The tiles that a range names. -/
def State.rangeTiles (s : State) : Range → List (Nat × Nat)
  | .tile b n => [(b, n)]
  | .ring b r e _ => match s.block? b with | some x => ((x.ring r).tiles (word e)).map (fun t => (b, t)) | none => []
  | _ => []

/-- Two ranges overlap. Accesses through one ring are ordered by sequence number alone (R240). Log entry 70 (DEDUCED). -/
def State.overlap (s : State) (x y : Range) : Bool :=
  match x, y with
  | .glob p a b, .glob q c d => p = q && decide (a < d) && decide (c < b)
  | .row m, .row n => m = n
  | .ring b r _ _, .ring c q _ _ => if b = c && r = q then false
      else (s.rangeTiles x).any (fun t => (s.rangeTiles y).contains t)
  | _, _ => (s.rangeTiles x).any (fun t => (s.rangeTiles y).contains t)
def State.overlaps (s : State) (xs ys : List Range) : Bool := xs.any (fun x => ys.any (fun y => s.overlap x y))

/-- The copy engine's commands, and the matrix engine's. -/
def Cmd.isCopy (c : Cmd) : Bool := match c.kind with | .copy _ => true | _ => false

/-- A command stands in a core's queue: a matrix command of a saved block has left the core with the block's rows and rings
(R250, R268), while a copy goes on where it is. -/
def State.onCore (s : State) (core : Nat) (k : Cmd) : Bool :=
  k.core = core && k.wid.isSome && (k.isCopy || (match s.block? k.blk with | some b => b.status = .resident | none => false))

/-- No earlier command of the core holds the command back. Log entry 70 (DEDUCED). -/
def State.clear (s : State) (c : Cmd) : Bool :=
  c.wid.isNone || s.cmds.all (fun k => !s.onCore c.core k || decide (c.id ≤ k.id) ||
    !(s.overlaps k.writes c.reads || s.overlaps k.reads c.writes || s.overlaps k.writes c.writes))

/-- The wave of a command is in its save, or has been saved (R250). Log entry 49 (DEDUCED). -/
def State.issuerSaving (s : State) (c : Cmd) : Bool :=
  match c.wid.bind s.wave? with | some w => w.phase = .save || w.saveDone | none => false

/-- A command has started or may start: it is clear, and every earlier command of its engine on the core has started; a matrix
command's block is resident, and its wave is not being saved (R250). Log entry 49 (DEDUCED). -/
def State.mayRun (s : State) (c : Cmd) : Bool :=
  (c.began || (s.clear c && (c.wid.isNone || s.cmds.all (fun k => !s.onCore c.core k || k.isCopy ≠ c.isCopy || decide (c.id ≤ k.id) || k.began))))
    && (c.isCopy || c.wid.isNone || (!s.issuerSaving c && s.onCore c.core c))

/-- The engine starts a command. -/
def State.begin (s : State) (c : Cmd) : State := { s with cmds := s.cmds.map (fun k => if k.id = c.id then { k with began := true } else k) }

/-- The command queue of a core is full: the commands that it counts are those of mx.row, mx.ldb, acc.out and cp.push, and no other
engine instruction of R63 takes an entry. Log entry 145 (DEDUCED). -/
def State.queueFull (s : State) (core : Nat) : Bool := decide (32 ≤ s.cmds.countP (s.onCore core))

/-- A command joins its core's queue. -/
def State.addCmd (s : State) (c : Cmd) : State := { s with cmds := s.cmds ++ [c] }

/-- The extent of a tensor: its elements, its block scales and its band scales (R66). -/
def TEntry.extents (part : Nat) (t : TEntry) : List Range :=
  let last := (List.range (TEntry.ndim t + 1)).foldl (fun n d => n + (TEntry.dim t d - 1) * TEntry.stride t d) 0
  let elems : Range := .glob part (TEntry.ebase t) (TEntry.ebase t + last * TEntry.w t / 8 + max 1 (TEntry.w t / 8))
  if TEntry.isNf4b t then
    [elems, .glob part (TEntry.sbase t) (TEntry.sbase t + TEntry.lines t * ceilDiv (TEntry.k t) 8),
     .glob part (TEntry.bbase t) (TEntry.bbase t + 2 * ceilDiv (TEntry.lines t) 64)]
  else [elems]

/-- Some unfinished command of a block names a ring. -/
def State.ringNamed (s : State) (b r : Nat) : Bool :=
  let f (x : Range) : Bool := match x with | .ring c q _ _ => c = b && q = r | _ => false
  s.cmds.any (fun c => c.reads.any f || c.writes.any f)

/-! ## Ring instructions (R239) -/

/-- `ring.set`. -/
def execRingSet (e : Enc) (s : State) : Host.Outcome State Fault Refusal :=
  simt 0xB5 e s (fun c =>
    let g := c.n32 e.a
    let t := c.n32 e.b
    let n := bitsOf g 11 6 + 1
    let z := bitsOf g 17 12 + 1
    let r := bitsOf g 20 18
    if bitsOf g 31 21 ≠ 0 || 1023 < t then .trap (c.all 2#6)
    else if c.ntiles < bitsOf g 5 0 + n * z then .trap (c.all 21#6)
    else if c.s.ringNamed c.b.uid r then .wait c.s .ringEmpty 6 0 0
    else .done (c.s.updBlock c.b.uid (fun b => b.updRing r (fun _ => { base := bitsOf g 5 0, count := n, size := z, tensor := t }))))

/-- The fills of a ring.adv from the `i`-th on, each in turn, until one waits. The stage keeps the first sequence number
and how many fills have been made. -/
def Cx.ringFills (c : Cx) (r : Nat) (first : Word) (n : Nat) (line : Word) : (left i : Nat) → State → Res
  | 0, _, s => .done s
  | left + 1, i, s =>
    let c' := c.on s
    let x := c'.b.ring r
    let e := first + word i
    let ts := x.tiles e
    let aux := first.toNat * 128 + i
    if !x.free e then .wait s .ringEmpty 6 9 aux
    else if ts.any c'.b.engineOwns then .wait s .owner 7 9 aux
    else
      let ls := (scrLines c'.w).filter (fun p => ts.contains (p.line / 64))
      if !s.mayDrain c.wid then .wait (s.drainWaits c.wid) .queue 9 9 aux
      else
      let s := s.drainLoads c.wid
      if !ls.isEmpty && !s.mayStep c.part 1 (agentOf c.w) 16 then .wait (s.logFull c.part) .queue 9 9 aux
      else
        let s := if ls.isEmpty then s else (s.toBlockLevel c'.w ls).logBlock c'.w 1 ls.length
        let s := s.updBlock c.b.uid (fun b => ((b.setOwner ts true).updRing r (fun q => q.setLine e (line + word i))).fills r [e])
        c.ringFills r first n line left (i + 1) s

/-- `ring.adv`. -/
def execRingAdv (e : Enc) (s : State) : Host.Outcome State Fault Refusal :=
  simt 0xB6 e s (fun c =>
    let r := c.n32 e.a
    let n := c.n32 e.b
    let l := word (c.n32 e.c)
    if 7 < r || n < 1 || 64 < n then .trap (c.all 2#6)
    else if (c.b.ring r).count = 0 then .trap (c.all 2#6)
    else if c.w.stage = 9 then c.ringFills r (word (c.w.aux / 128)) n l (n - c.w.aux % 128) (c.w.aux % 128) c.s
    else
      let first := (c.b.ring r).itail
      c.ringFills r first n l n 0 (c.s.updBlock c.b.uid (fun b => b.updRing r (fun x => { x with itail := x.itail + word n }))))

/-- `ring.rd`. -/
def execRingRd (e : Enc) (s : State) : Host.Outcome State Fault Refusal :=
  simt 0xB7 e s (fun c =>
    let r := c.n32 e.a
    if 7 < r then .trap (c.all 2#6)
    else
      let x := c.b.ring r
      .done (c.s.updWave c.wid (fun w => w.write e.dst true 0 (x.tail ++ x.head).toNat)))

/-! ## Batches (R246) -/

/-- A command of the wave's batches is complete; `fail` is its failure. -/
def Batch.finish (b : Batch) (id : Nat) (fail : Option BatchFail) : Batch :=
  if b.cmds.contains id then { b with cmds := b.cmds.filter (· ≠ id), failed := b.failed.or fail } else b
def Wave.finishCmd (w : Wave) (id : Nat) (fail : Option BatchFail) : Wave :=
  if w.openBatch.contains id then { w with openBatch := w.openBatch.filter (· ≠ id), openFail := w.openFail.or fail }
  else { w with closed := (w.closed.map (fun b => b.finish id fail)).filter (fun b => !b.cmds.isEmpty || b.failed.isSome) }

/-- A command ends: it leaves its queue and its batch. -/
def State.endCmd (s : State) (c : Cmd) (fail : Option BatchFail) : State :=
  let s := { s with cmds := s.cmds.filter (fun k => k.id ≠ c.id) }
  match c.wid with
  | none => s
  | some w => s.updWave w (fun x => x.finishCmd c.id fail)

/-- `cp.close`. -/
def execCpClose (e : Enc) (s : State) : Host.Outcome State Fault Refusal :=
  simt 0xB3 e s (fun c =>
    if 16 ≤ c.w.incomplete.length then .wait c.s .batch 4 0 0
    else
      .done (c.s.updWave c.wid (fun w => (w.closeBatch).write e.dst false 0 (w.batchNo + 1#32).toNat)))

/-- A batch is waited for by cp.wait n. -/
def Batch.upTo (b : Batch) (n : Word) : Bool := decide ((n - b.num).toNat < 2 ^ 31)

/-- `cp.wait`: once every batch waited for is complete it acts as acq.dev; then trap 38 when one of them has failed
(R255). -/
def execCpWait (e : Enc) (s : State) : Host.Outcome State Fault Refusal :=
  simt 0xB4 e s (fun c =>
    let n := word (c.n32 e.a)
    let bs := c.w.closed.filter (fun b => b.upTo n)
    if bs.any (fun b => !b.cmds.isEmpty) then .wait c.s .batch 4 0 0
    else
      let s := c.s.acquire c.wid 3
      match bs.findSome? Batch.failed with
      | none => .done s
      | some f => .trapAt s { c.all 38#6 with
          detail := 3#16, addr := f.addr, orig := f.cause, info0 := if f.isOut then 1#32 else 0#32 })

/-! ## Copy queues (R241) -/

/-- A copy queue's descriptor. -/
structure CopyQueue where
  va : Nat
  base : Nat
  enable : Bool
  size : Nat
  write : Dword
  read : Dword
  bad : Dword
  malformed : Bool
  deriving DecidableEq, Repr

def CopyQueue.slotVa (q : CopyQueue) (slot : Nat) : Nat := q.base + 64 * (slot % 2 ^ q.size)

/-- Read the descriptor of a queue as a die's unit reads it. Log entry 65 (DEDUCED). -/
def State.copyQueue (s : State) (die p n : Nat) : Except (BitVec 6 × Nat) CopyQueue :=
  let va := (match (s.part p).ctx with | some c => c.cqBase.toNat | none => 0) + 64 * n
  match s.vread die p va 64 with
  | .error x => .error x
  | .ok bs =>
    let w (i : Nat) : Dword := dword (leNat ((bs.drop (8 * i)).take 8))
    let f (i hi lo : Nat) : Nat := bitsOf (w i).toNat hi lo
    .ok { va := va, base := f 0 56 0, enable := f 1 7 7 = 1, size := f 1 4 0, write := w 2, read := w 3, bad := w 4
          malformed := f 0 63 57 ≠ 0 || f 1 63 8 ≠ 0 || f 1 6 5 ≠ 0 || f 4 63 32 ≠ 0 || w 5 ≠ 0#64 || w 6 ≠ 0#64 || w 7 ≠ 0#64
            || f 0 5 0 ≠ 0 || decide (f 1 4 0 < 4) || decide (16 < f 1 4 0) }

/-! ## Packets (R242, R243) -/

/-- Bits [hi:lo] of word `i` of a packet. -/
def pkt (ws : List Dword) (i hi lo : Nat) : Nat := bitsOf (ws.getD i 0#64).toNat hi lo
def pktKind (ws : List Dword) : Nat := pkt ws 0 7 0
def pktCount (ws : List Dword) : Nat := pkt ws 1 31 0

/-- The packet keeps the conditions of R242 and R243 that need no tensor entry and no block. -/
def pktOk (ws : List Dword) : Bool :=
  let k := pktKind ws
  let mul16 (n : Nat) : Bool := n % 16 = 0
  decide (1 ≤ k) && decide (k ≤ 4) && pkt ws 0 15 15 = 0 && pkt ws 0 11 11 = 0
    && (k = 2 || (pkt ws 0 63 32 = 0 && pkt ws 0 10 8 = 0))
    && pkt ws 1 63 32 = 0 && pktCount ws ≠ 0
    && pkt ws 2 63 57 = 0 && pkt ws 3 63 57 = 0 && pkt ws 4 63 57 = 0 && pkt ws 5 63 0 = 0 && pkt ws 6 63 0 = 0 && pkt ws 7 63 0 = 0
    && (if k = 2 then pkt ws 2 56 0 = 0 && pkt ws 3 56 0 = 0
        else mul16 (pkt ws 2 56 0) && mul16 (pkt ws 3 56 0) && mul16 (pktCount ws))

/-- The conditions that need the block: the allotment for KIND 3 and 4, a ring that has been set for KIND 2. -/
def Block.pktFits (b : Block) (ws : List Dword) : Bool :=
  match pktKind ws with
  | 2 => (b.ring (pkt ws 0 10 8)).count ≠ 0
  | 3 => decide (pkt ws 3 56 0 + pktCount ws ≤ 4096 * b.ntiles)
  | 4 => decide (pkt ws 2 56 0 + pktCount ws ≤ 4096 * b.ntiles)
  | _ => true

/-- Tiles that a range of scratchpad bytes touches. -/
def tilesTouched (a n : Nat) : List Nat := if n = 0 then [] else (List.range ((a + n - 1) / 4096 + 1 - a / 4096)).map (fun i => a / 4096 + i)

/-- The sequence numbers `first .. first + n - 1`. -/
def seqs (first n : Nat) : List Word := (List.range n).map (fun i => word first + word i)

/-- Every slice of a KIND 2 packet fits the entry it will fill, under the tags of the entry's tiles. -/
def Block.slicesFit (b : Block) (t : TEntry) (r first n slice : Nat) : Bool :=
  let x := b.ring r
  (List.range n).all (fun i => (x.tiles (word first + word i)).all (fun k =>
    decide ((TEntry.arrange t (b.tags.getD k 0#2).toNat (slice + i)).length ≤ 4096 * x.size)))

/-- The ranges of a packet (R252): reads and writes. -/
def pktRanges (part blk : Nat) (ws : List Dword) (t : TEntry) (first : Nat) : List Range × List Range :=
  let n := pktCount ws
  let src := pkt ws 2 56 0
  let dst := pkt ws 3 56 0
  let tiles (a : Nat) : List Range := (tilesTouched a n).map (Range.tile blk)
  match pktKind ws with
  | 1 => ([.glob part src (src + n)], [.glob part dst (dst + n)])
  | 2 => (TEntry.extents part t, (seqs first n).map (fun e => .ring blk (pkt ws 0 10 8) e.toNat true))
  | 3 => ([.glob part src (src + n)], tiles dst)
  | _ => (tiles src, [.glob part dst (dst + n)])

/-! ## cp.push (R244) -/

/-- The last part of cp.push: wait for room in the ring of slots, and in the command queue (R66) and the order log (R281), write the
packet and add the command. -/
def Cx.pushPacket (c : Cx) (s : State) (cq : Nat) (ws : List Dword) (t : TEntry) (slot first : Nat) : Res :=
  let die := dieOf c.w.core
  match s.copyQueue die c.part cq with
  | .error (k, a) => c.failsAt s { c.all k with addr := dword a }
  | .ok q =>
    let stay (s : State) (reason : Nat) : Res :=
      .wait (s.updWave c.wid (fun w => { w with issued := some { c.iv with tens := ws ++ t } })) .queue reason 9 (slot * 2 ^ 32 + first)
    if 2 ^ q.size ≤ slot - q.read.toNat then stay s 4
    else if s.queueFull c.w.core || s.unitHolds die c.part .store (q.slotVa slot) then stay s 9
    else if !s.mayStep c.part 1 (agentOf c.w) 16 then stay (s.logFull c.part) 9
    else
      match s.vwrite die c.part (q.slotVa slot) (ws.flatMap (fun w => leBytes 8 w.toNat)) with
      | .error (k, a) => c.failsAt s { c.all k with addr := dword a }
      | .ok s =>
        let s := s.logDev c.part 1 3 1 (agentOf c.w)
        let (id, s) := s.newName
        let (reads, writes) := pktRanges c.part c.b.uid ws t first
        let k : CopyCmd := { part := c.part, cq := cq, slot := slot, packet := ws, tens := t, seq := first, started := false, pos := 0
                             waitAt := none, failed := none }
        let s := s.addCmd { id := id, wid := some c.wid, blk := c.b.uid, core := c.w.core, reads := reads, writes := writes, kind := .copy k }
        .done (s.updWave c.wid (fun w => { w with openBatch := w.openBatch ++ [id], opened := true }))

/-- The atomic add of 1 to a queue's WRITE at device level: the fault that it meets, or none of those while its line gets no slot
of its home die's sync engine (R193). -/
def State.claimSlot (s : State) (die p : Nat) (q : CopyQueue) : Except (Option (BitVec 6 × Nat)) State :=
  match s.translateDie die p .store (q.va + 16) with
  | .error k => .error (some (k, q.va + 16))
  | .ok pl =>
    match (if pl.space = .hbm && !pl.ss then s.seUse (s.objDie pl) ⟨.line, pl.pa / 64⟩ else some s) with
    | none => .error none
    | some s => (s.vwrite die p (q.va + 16) (leBytes 8 (q.write + 1#64).toNat)).mapError some

/-- The die whose sync engine performs the atomic add to a queue's WRITE. -/
def State.writeDie (s : State) (die p : Nat) (q : CopyQueue) : Nat :=
  match s.translateDie die p .store (q.va + 16) with | .ok pl => s.objDie pl | .error _ => die

/-- `cp.push`. The wait for the claimed slot is stage 9, which keeps the slot, the first sequence number, the packet and the entry
read at its issue (R232). Its add of 1 to WRITE is an atomic step at the sync engine (R193). -/
def execCpPush (e : Enc) (s : State) : Host.Outcome State Fault Refusal :=
  simt 0xB2 e s (fun c =>
    let cq := c.n32 e.a
    let die := dieOf c.w.core
    let m := match Sel.of e.b with | .s n => n | _ => 0
    let ws : List Dword := (List.range 8).map (fun j => c.w.spair (m + 2 * j))
    let bad (d : Nat) : Res := .trap { c.all 38#6 with detail := BitVec.ofNat 16 d }
    let ring := pkt ws 0 10 8
    if c.w.stage = 9 then c.pushPacket c.s cq (c.iv.tens.take 8) (c.iv.tens.drop 8) (c.w.aux / 2 ^ 32) (c.w.aux % 2 ^ 32)
    else if 15 < cq then .trap (c.all 2#6)
    else if !pktOk ws || !c.b.pktFits ws then bad 1
    else
      match c.s.copyQueue die c.part cq with
      | .error (k, a) => c.fails { c.all k with addr := dword a }
      | .ok q =>
        if !q.enable || q.malformed || (c.s.part c.part).cqerr.getLsbD cq then bad 2
        else
          let r := c.b.ring ring
          match (if pktKind ws = 2 then c.tensor r.tensor else .ok ([], c.s)) with
          | .error t => c.fails t
          | .ok (t, s) =>
            let n := pktCount ws
            let slice := pkt ws 0 63 32
            if pktKind ws = 2 && (decide (TEntry.outer t < slice + n) || !c.b.slicesFit t ring r.itail.toNat n slice) then bad 1
            else if c.s.queueFull c.w.core || c.s.unitHolds die c.part .store (q.va + 16) then .wait c.s .queue 9 0 0
            else if !c.mayLog 3 then c.waitLog
            else
              match s.claimSlot die c.part q with
              | .error (some (k, a)) => c.fails { c.all k with addr := dword a }
              | .error none => c.waitSlot c.s (c.s.writeDie die c.part q) 0 0
              | .ok s =>
                let s := s.logDev c.part 3 3 1 (agentOf c.w)
                let s := if pktKind ws = 2 then
                    s.updBlock c.b.uid (fun b => b.updRing ring (fun x => { x with itail := x.itail + word n })) else s
                c.pushPacket s cq ws t q.write.toNat r.itail.toNat)

/-! ## The copy engine's work (R172, R243, R245) -/

/-- The next unit of a copy: done, held back by a tile or an entry, or a fault at an address. -/
inductive Unit1 where
  | moved (s : State) (n : Nat)
  | held
  | fault (code : BitVec 6) (addr : Nat)
  deriving DecidableEq, Repr

/-- One chunk of KIND 1, 3 or 4: at most a line of each side, and at most a tile. Log entry 62 (DEDUCED). -/
def State.copyChunk (s : State) (die : Nat) (c : Cmd) (k : CopyCmd) : Unit1 :=
  let kind := pktKind k.packet
  let src := pkt k.packet 2 56 0 + k.pos
  let dst := pkt k.packet 3 56 0 + k.pos
  let n := min (pktCount k.packet - k.pos) (min (64 - src % 64) (64 - dst % 64))
  let owned (a : Nat) : Bool := match s.block? c.blk with | some b => b.engineOwns (a / 4096) | none => false
  let read : Except (BitVec 6 × Nat) (List Byte) :=
    if kind = 4 then .ok (match s.block? c.blk with | some b => b.scr.readN src n | none => [])
    else s.vread die k.part src n
  if (kind = 3 && !owned dst) || (kind = 4 && !owned src) then .held
  else
    match read with
    | .error (f, a) => .fault f a
    | .ok bs =>
      if kind = 3 then .moved (s.updBlock c.blk (fun b => { b with scr := b.scr.writeN dst bs })) n
      else
        match s.vwrite die k.part dst bs with
        | .error (f, a) => .fault f a
        | .ok s => .moved (s.logDev k.part 4 3 1 (engineAgent 1 k.cq)) n

/-- The value of one byte of an arranged slice, read at device level. -/
def State.sliceByte (s : State) (die p : Nat) (t : TEntry) (x : SliceByte) : Except (BitVec 6 × Nat) Byte :=
  let nib (y : Option (Nat × Nat)) : Except (BitVec 6 × Nat) Nat :=
    match y with
    | none => .ok 0
    | some (i, k) =>
      let (a, hi) := TEntry.elemByte t (TEntry.idxOf t i k)
      (s.vread die p a 1).map (fun bs => let v := (bs.getD 0 0#8).toNat; if hi then v / 16 else v % 16)
  match x with
  | .scale i k => (s.vread die p (TEntry.blockAddr t i k) 1).map (fun bs => bs.getD 0 0#8)
  | .elem lo hi part =>
    if TEntry.w t = 4 then
      match nib lo, nib hi with
      | .error f, _ => .error f
      | _, .error f => .error f
      | .ok l, .ok h => .ok (byteOf (l + 16 * h))
    else
      match lo with
      | none => .ok 0#8
      | some (i, k) => (s.vread die p ((TEntry.elemByte t (TEntry.idxOf t i k)).1 + part) 1).map (fun bs => bs.getD 0 0#8)

/-- The bytes of a slice, or the first fault. Log entry 58 (DEDUCED). -/
def State.sliceBytes (s : State) (die p : Nat) (t : TEntry) : List SliceByte → Except (BitVec 6 × Nat) (List Byte)
  | [] => .ok []
  | x :: xs =>
    match s.sliceByte die p t x, State.sliceBytes s die p t xs with
    | .error f, _ => .error f
    | _, .error f => .error f
    | .ok b, .ok bs => .ok (b :: bs)

/-- One slice of KIND 2 into its entry, each tile in the layout of its tag (R237). Log entry 62 (DEDUCED). -/
def State.copySlice (s : State) (die : Nat) (c : Cmd) (k : CopyCmd) : Unit1 :=
  match s.block? c.blk with
  | none => .held
  | some b =>
    let r := pkt k.packet 0 10 8
    let x := b.ring r
    let e := word k.seq + word k.pos
    let ts := x.tiles e
    if !x.free e || ts.any (fun t => !b.engineOwns t) then .held
    else
      let slice := pkt k.packet 0 63 32 + k.pos
      ts.zipIdx.foldl (fun acc t =>
        match acc with
        | .moved s n =>
          let part := ((TEntry.arrange k.tens (b.tags.getD t.1 0#2).toNat slice).drop (4096 * t.2)).take 4096
          (match s.sliceBytes die k.part k.tens part with
           | .error (f, a) => .fault f a
           | .ok bs => .moved (s.updBlock c.blk (fun b => { b with scr := b.scr.writeN (4096 * t.1) bs })) n)
        | u => u) (.moved s 1)

/-- The line of a global byte of a slice takes no requests (R413). -/
def State.sliceHeld (s : State) (die p : Nat) (t : TEntry) (x : SliceByte) : Bool :=
  let at_ (y : Option (Nat × Nat)) : Bool :=
    match y with | none => false | some (i, k) => s.unitHolds die p .load (TEntry.elemByte t (TEntry.idxOf t i k)).1
  match x with
  | .scale i k => s.unitHolds die p .load (TEntry.blockAddr t i k)
  | .elem lo hi _ => at_ lo || at_ hi
/-- The next unit of a copy reaches a line that takes no requests now (R413). -/
def State.copyHeld (s : State) (die : Nat) (c : Cmd) (k : CopyCmd) : Bool :=
  let kind := pktKind k.packet
  if kind = 2 then
    match s.block? c.blk with
    | none => false
    | some b => ((b.ring (pkt k.packet 0 10 8)).tiles (word k.seq + word k.pos)).any (fun t =>
        (TEntry.arrange k.tens (b.tags.getD t 0#2).toNat (pkt k.packet 0 63 32 + k.pos)).any (s.sliceHeld die k.part k.tens))
  else (kind ≠ 4 && s.unitHolds die k.part .load (pkt k.packet 2 56 0 + k.pos)) || (kind ≠ 3 && s.unitHolds die k.part .store (pkt k.packet 3 56 0 + k.pos))

/-- Fill some bytes of a block's tiles with free values (R245: the bytes of a failed fill's entries are undefined).
Log entry 6 (DESIGN CHOICE). -/
def State.scramble (s : State) (blk a n : Nat) : State :=
  { (s.updBlock blk (fun b => { b with
      scr := (List.range n).foldl (fun m i => m.write (a + i) (Config.freeByte (s.draws + i))) b.scr })) with draws := s.draws + n }

/-- The bytes of the ring entries that a failed fill had been assigned are undefined (R245). -/
def State.undefine (s : State) (blk r : Nat) (es : List Word) : State :=
  match s.block? blk with
  | none => s
  | some b => es.foldl (fun s e => s.scramble blk ((b.ring r).entryByte e) (4096 * (b.ring r).size)) s

/-- Move the next unit of a started copy. A missing translation posts one record and waits at its line; any other fault
fails the packet. Log entries 62 (DEDUCED), 65 (DEDUCED). -/
def State.copyStep (s : State) (c : Cmd) (k : CopyCmd) (die : Nat) : State :=
  let set (s : State) (k : CopyCmd) : State := s.updCmd c.id (fun x => { x with kind := .copy k })
  if s.unitHeld 1 die || s.copyHeld die c k then s
  else if (pktKind k.packet = 1 || pktKind k.packet = 4) && !s.mayStep k.part 4 (engineAgent 1 k.cq) 16 then s.logFull k.part
  else match (if pktKind k.packet = 2 then s.copySlice die c k else s.copyChunk die c k) with
  | .held => s
  | .moved s n => set s { k with pos := k.pos + n, waitAt := none }
  | .fault f a =>
    if f = 16#6 then
      if k.waitAt = some (dword a) then s
      else (set s { k with waitAt := some (dword a) }).postFault k.part 1 f (dword a) k.cq die
    else set s { k with failed := some f, waitAt := none }

/-- The die whose copy engine consumes a queue: the home of BASE (R241). Log entry 74 (DEDUCED). -/
def State.queueDie (s : State) (p base : Nat) : Nat :=
  match s.translateDie 0 p .load base with | .ok pl => s.homeDie pl.space (pl.pa / 64) | .error _ => 0

/-- The units of a packet. -/
def CopyCmd.total (k : CopyCmd) : Nat := pktCount k.packet

/-- The copy engine takes the next slot of a queue (R241, R243): a malformed or unreadable descriptor or slot stops the
queue and sets its CQERR bit, a bad packet is skipped and counted in BADPKT, and a packet whose command may run starts. -/
def execCopyPacket (p cq : Nat) (s : State) : Host.Outcome State Fault Refusal :=
  let stop : State := s.updPart p (fun x => { x with cqerr := x.cqerr ||| (1#16 <<< cq) })
  if 15 < cq || (s.part p).cqerr.getLsbD cq || (s.part p).ctx.isNone || (s.part p).halted || s.hub.ckptRun then .next s
  else
    match s.copyQueue 0 p cq with
    | .error _ => .next stop
    | .ok q =>
      let die := s.queueDie p q.base
      if !q.enable || (s.die die).fwBusy || s.unitHeld 1 die then .next s
      else if q.malformed then .next stop
      else if q.write.toNat ≤ q.read.toNat then .next s
      else
        let slot := q.read.toNat
        match s.vread die p (q.slotVa slot) 64 with
        | .error _ => .next stop
        | .ok bs =>
          let ws : List Dword := (List.range 8).map (fun i => dword (leNat ((bs.drop (8 * i)).take 8)))
          let agent := engineAgent 1 cq
          let put (s : State) (va n : Nat) : State :=
            match s.vwrite die p va (leBytes 8 n) with | .error _ => s | .ok s => s.logDev p 4 3 1 agent
          let take (s : State) : State := put (put s (q.slotVa slot) 0) (q.va + 24) (q.read + 1#64).toNat
          if pktKind ws = 0 || s.unitHolds die p .store (q.slotVa slot) || s.unitHolds die p .store q.va then .next s
          else if !s.mayStep p 4 agent 48 then .next (s.logFull p)
          else
            match s.cmds.find? (fun c => match c.kind with | .copy k => k.part = p && k.cq = cq && k.slot = slot && !k.started | _ => false) with
            | some c =>
              match c.kind with
              | .copy k =>
                if !s.mayRun c then .next s
                else
                  let k := { k with started := true }
                  .next (((take s).updCmd c.id (fun x => { x with kind := .copy k, began := true })).copyStep c k die)
              | _ => .next s
            | none =>
              if !pktOk ws || 2 ≤ pktKind ws then
                let n := if q.bad.toNat % 2 ^ 32 = 2 ^ 32 - 1 then q.bad else q.bad + 1#64
                .next (put (take s) (q.va + 32) n.toNat)
              else
                let (id, s) := s.newName
                let k : CopyCmd := { part := p, cq := cq, slot := slot, packet := ws, tens := [], seq := 0, started := true, pos := 0
                                     waitAt := none, failed := none }
                let c : Cmd := { id := id, wid := none, blk := 0, core := 192, reads := [], writes := [], kind := .copy k, began := true }
                .next ((take (s.addCmd c)).copyStep c k die)

/-- The die of a copy in progress. -/
def State.copyDie (s : State) (k : CopyCmd) : Nat := match s.copyQueue 0 k.part k.cq with | .ok q => s.queueDie k.part q.base | .error _ => 0

/-- A copy that waits at a faulting line goes on once the translation is present (R245). -/
def execCopyFaultResume (cmd : Nat) (s : State) : Host.Outcome State Fault Refusal :=
  match s.cmd? cmd with
  | none => .next s
  | some c =>
    match c.kind with
    | .copy k => .next (if k.started && k.waitAt.isSome && !(s.part k.part).halted then s.copyStep c k (s.copyDie k) else s)
    | _ => .next s

/-- A complete packet's tiles return, or its entries fill and, where it has failed, are marked and undefined (R243, R245). -/
def State.landTiles (s : State) (c : Cmd) (k : CopyCmd) : State :=
  let ws := k.packet
  let n := pktCount ws
  match pktKind ws with
  | 2 =>
    let r := pkt ws 0 10 8
    let es := seqs k.seq n
    let line (i : Nat) : Word := if TEntry.ndim k.tens ≤ 1 then word (pkt ws 0 63 32 + i) else 0#32
    let s := if k.failed.isSome then s.undefine c.blk r es else s
    s.updBlock c.blk (fun b =>
      ((b.updRing r (fun x => (List.range n).foldl (fun x i => x.setLine (word k.seq + word i) (line i)) x)).updRing r (fun x =>
        if k.failed.isNone then x else { x with fail := x.fail ++ es.map BitVec.toNat })).fills r es)
  | 3 => s.updBlock c.blk (fun b => b.setOwner (tilesTouched (pkt ws 3 56 0) n) false)
  | 4 => s.updBlock c.blk (fun b => b.setOwner (tilesTouched (pkt ws 2 56 0) n) false)
  | _ => s

/-- A complete packet's tiles, entries and batch are done with: it has left its core's queue, and what is left is its arrival and
its task (R243). -/
def State.landCopy (s : State) (c : Cmd) (k : CopyCmd) : State :=
  let slotAddr : Dword := match s.copyQueue 0 k.part k.cq with | .ok q => dword (q.slotVa k.slot) | .error _ => 0#64
  let s := (s.landTiles c k).endCmd c (k.failed.map (fun f => ({ addr := slotAddr, isOut := false, cause := f } : BatchFail)))
  s.addCmd { c with core := 192, reads := [], writes := [], kind := .copy { k with landed := true } }

/-- A landed packet arrives at its barrier object and decrements its task (R243, R245), unless it has failed; its arrival waits for
the order log and for a slot of the barrier's sync engine (R193). Log entry 65 (DEDUCED). -/
def State.leaveCopy (s : State) (c : Cmd) (k : CopyCmd) : State :=
  let ws := k.packet
  let ok := k.failed.isNone
  match (if ok && pkt ws 0 12 12 = 1 then s.engineArrive (s.copyDie k) k.part c.wid (pkt ws 4 56 0) (engineAgent 1 k.cq) (1, c.id) else .ok s) with
  | .error s => s
  | .ok s =>
    let s := { s with cmds := s.cmds.filter (fun x => x.id ≠ c.id) }
    if ok && pkt ws 0 13 13 = 1 then s.decrement (pkt ws 0 14 14) (pkt ws 0 31 16) else s

/-- A started copy moves its next unit, or completes once every write has been acknowledged (R243). -/
def execCopyPacketComplete (cmd : Nat) (s : State) : Host.Outcome State Fault Refusal :=
  match s.cmd? cmd with
  | none => .next s
  | some c =>
    match c.kind with
    | .copy k =>
      if !k.started || k.waitAt.isSome || (s.part k.part).halted then .next s
      else if k.landed then .next (s.leaveCopy c k)
      else if k.failed.isSome || k.total ≤ k.pos then .next ((s.landCopy c k).leaveCopy c k)
      else .next (s.copyStep c k (s.copyDie k))
    | _ => .next s

/-- A write of CQERR: 1 clears a bit, and its queue is read again (R241). -/
def execCqerrWrite (p : Nat) (v : Dword) (s : State) : Host.Outcome State Fault Refusal :=
  .next (s.updPart p (fun x => { x with cqerr := x.cqerr &&& ~~~(v.extractLsb' 0 16) }))

end Sys2Proof.Machine
end

