-- ==== Sys2Proof/Machine/Matrix.lean ====
section
/-! DEFINITION. The matrix engine and the accumulator store: mx.row, mx.ldb, mx.resume, mx.prog (0xB8-0xBB, R247-R250),
acc.rd, acc.wr, acc.clr, acc.out (0xBC-0xBF, R251), and the events of the matrix engine. -/

namespace Sys2Proof.Machine

open Sys2Proof

/-! ## The accumulator store (R251) -/

/-- The BF16 code of 1.0. -/
def oneBand : BitVec 16 := 0x3F80#16
/-- A row as one without an owner reads: +0 in every column, record 1.0. -/
def AccRow.zero (row owner : Nat) : AccRow :=
  { row := row, owner := owner, cols := List.replicate 256 0#32, bandA := oneBand, bandB := List.replicate 4 oneBand }
def State.accRow (s : State) (core n : Nat) : AccRow :=
  match (s.core core).acc.find? (fun r => r.row = n) with | some r => r | none => AccRow.zero n 0
def State.setAccRow (s : State) (core : Nat) (r : AccRow) : State :=
  s.updCore core (fun c => { c with acc := c.acc.filter (fun x => x.row ≠ r.row) ++ [r] })
/-- A row of a range that another block owns, on the core or about to be restored there. -/
def State.rowsTaken (s : State) (core blk first n : Nat) : Bool :=
  (s.coreRows core).any (fun r => decide (first ≤ r.row) && decide (r.row < first + n) && r.owner ≠ blk)
/-- The block becomes the owner of every row of a range. -/
def State.claimRows (s : State) (core blk first n : Nat) : State :=
  s.updCore core (fun c => { c with acc := (List.range n).foldl (fun acc i =>
    if acc.any (fun r => r.row = first + i) then acc else acc ++ [AccRow.zero (first + i) blk]) c.acc })
/-- Some unfinished command of a core reads or writes a row of a range. -/
def State.rowsBusy (s : State) (core first n : Nat) : Bool :=
  let f (x : Range) : Bool := match x with | .row r => decide (first ≤ r) && decide (r < first + n) | _ => false
  s.cmds.any (fun c => s.onCore core c && (c.reads.any f || c.writes.any f))
/-- The readout of column `n` of a row (R228). -/
def AccRow.read (r : AccRow) (flush : Bool) (n : Nat) : Nat :=
  readout flush (r.cols.getD n 0#32).toNat r.bandA.toNat (r.bandB.getD (n / 64) oneBand).toNat

def Cx.trap39 (c : Cx) (d : Nat) : Trap := { c.all 39#6 with detail := BitVec.ofNat 16 d }
/-- The checks that every accumulator instruction makes on its rows (R251, R255), and its wait for earlier commands.
Log entry 71 (DEDUCED). -/
def Cx.rowCheck (c : Cx) (first n : Nat) : Option Res :=
  if 128 < first + n then some (.trap (c.trap39 3))
  else if c.s.rowsTaken c.w.core c.b.uid first n then some (.trap (c.trap39 4))
  else none
def Cx.rowWait (c : Cx) : Res := .wait c.s .queue 9 0 0

/-- `acc.rd`. -/
def execAccRd (e : Enc) (s : State) : Host.Outcome State Fault Refusal :=
  simt 0xBC e s (fun c =>
    let row := c.n32 e.a
    let col := c.n32 e.b
    match c.rowCheck row 1 with
    | some r => r
    | none =>
      if c.s.rowsBusy c.w.core row 1 then c.rowWait
      else
        let r := c.s.accRow c.w.core row
        .done (c.s.updWave c.wid (fun w => (lanesOf c.lanes).foldl (fun w l =>
          let n := col + l
          w.write e.dst false l (if 255 < n then 0 else if tyOf e = .f32 then r.read w.flush n else (r.cols.getD n 0#32).toNat)) w)))

/-- `acc.wr`. -/
def execAccWr (e : Enc) (s : State) : Host.Outcome State Fault Refusal :=
  simt 0xBD e s (fun c =>
    let row := c.n32 e.a
    let col := c.n32 e.b
    match c.rowCheck row 1 with
    | some r => r
    | none =>
      if c.s.rowsBusy c.w.core row 1 then c.rowWait
      else
        let s := c.s.claimRows c.w.core c.b.uid row 1
        let r := s.accRow c.w.core row
        let cols := (lanesOf c.lanes).foldl (fun cs l =>
          if col + l ≤ 255 then cs.set (col + l) (word (c.src e.c .b32 l)) else cs) r.cols
        .done (s.setAccRow c.w.core { r with cols := cols }))

/-- `acc.clr`: it is complete at once, in the open batch of its wave (R246). -/
def execAccClr (e : Enc) (s : State) : Host.Outcome State Fault Refusal :=
  simt 0xBE e s (fun c =>
    let row := c.n32 e.a
    let n := c.n32 e.b
    if n < 1 || 128 < n then .trap (c.all 2#6)
    else
      match c.rowCheck row n with
      | some r => r
      | none =>
        if c.s.rowsBusy c.w.core row n then c.rowWait
        else .done (((List.range n).foldl (fun s i => s.setAccRow c.w.core (AccRow.zero (row + i) c.b.uid)) c.s).updWave c.wid
          (fun w => { w with opened := true })))

/-! ## Shapes (R247) -/

/-- The classes of matrix formats, by the k-step width: FP4 256, FP8 128, BF16 64. -/
def mxWidth : Option Ty → Option Nat
  | some .e2m1 => some 256
  | some .nf4b => some 256
  | some .e4m3 => some 128
  | some .e5m2 => some 128
  | some .bf16 => some 64
  | _ => none

/-- The k-step width of a tensor. -/
def TEntry.ks (t : TEntry) : Nat := (mxWidth (TEntry.ty t)).getD 64
/-- KS: k-steps a row. -/
def TEntry.ksteps (t : TEntry) : Nat := ceilDiv (TEntry.k t) (TEntry.ks t)

/-- The tiles of the entries that a command reads carry a tag that differs from the tensor's LAYOUT (R237): in each
entry, the tiles that a slice's bytes reach. -/
def Block.tagDiffers (b : Block) (t : TEntry) (r first n : Nat) : Bool :=
  let x := b.ring r
  let used := ceilDiv (TEntry.arrange t (TEntry.layout t) 0).length 4096
  (seqs first n).any (fun e => ((x.tiles e).take used).any (fun k => (b.tags.getD k 0#2).toNat ≠ TEntry.layout t))

/-- The conditions of trap 39 in the order of R247, with the details of R255. Log entry 71 (DEDUCED). -/
def Cx.mxBad (c : Cx) (at_ bt : TEntry) (aring bsel first rows : Nat) (bring : Bool) : Option Nat :=
  let ar := c.b.ring aring
  let br := c.b.ring bsel
  if 1 < TEntry.ndim at_ then some 5
  else if (mxWidth (TEntry.ty at_)).isNone || mxWidth (TEntry.ty at_) ≠ mxWidth (TEntry.ty bt) then some 1
  else if TEntry.k at_ ≠ TEntry.k bt then some 2
  else if 256 < TEntry.lines bt then some 2
  else if 128 < first + rows then some 3
  else if bring && (TEntry.ndim bt ≠ 2 || TEntry.dim bt 0 ≠ TEntry.ks bt) then some 5
  else if bring && decide (br.count < TEntry.ksteps at_) then some 5
  else if ar.count = 0 || (bring && br.count = 0) then some 5
  else if c.s.rowsTaken c.w.core c.b.uid first rows then some 4
  else none

/-- The band arrays, and the block scales that a layout l0 operand read from a ring fetches (R252). -/
def TEntry.bandRange (part : Nat) (t : TEntry) : List Range :=
  if TEntry.isNf4b t then [.glob part (TEntry.bbase t) (TEntry.bbase t + 2 * ceilDiv (TEntry.lines t) 64)] else []
def TEntry.scaleRange (part : Nat) (t : TEntry) : List Range :=
  if TEntry.isNf4b t && TEntry.layout t = 0 then
    [.glob part (TEntry.sbase t) (TEntry.sbase t + TEntry.lines t * ceilDiv (TEntry.k t) 8)] else []

/-- `mx.row` (R247). -/
def execMxRow (e : Enc) (s : State) : Host.Outcome State Fault Refusal :=
  simt 0xB8 e s (fun c =>
    let rows := (e.mod.extractLsb' 5 7).toNat + 1
    let z := e.mod.getLsbD 4
    let rlx := e.mod.getLsbD 3
    let bring := e.mod.getLsbD 2
    let first := c.n32 e.a
    let aring := c.n32 e.b
    let bsel := c.n32 e.c
    let ar := c.b.ring aring
    let br := c.b.ring bsel
    if 7 < aring || (if bring then decide (7 < bsel) else decide (1023 < bsel)) then .trap (c.all 2#6)
    else
      match c.tensor ar.tensor with
      | .error t => c.fails t
      | .ok (at_, s) =>
        match ({ c with s := s }).tensor (if bring then br.tensor else bsel) with
        | .error t => c.fails t
        | .ok (bt, s) =>
          let ks := TEntry.ksteps at_
          if !rlx && (c.b.tagDiffers at_ aring ar.ihead.toNat rows || (bring && c.b.tagDiffers bt bsel br.ihead.toNat ks)) then
            .trap (c.all 6#6)
          else
            match c.mxBad at_ bt aring bsel first rows bring with
            | some d => .trap (c.trap39 d)
            | none =>
              if s.queueFull c.w.core then .wait s .queue 9 0 0
              else
                let (id, s) := s.newName
                let blk := c.b.uid
                let s := s.updBlock blk (fun b =>
                  let b := b.updRing aring (fun x => { x with ihead := x.ihead + word rows })
                  if bring then b.updRing bsel (fun x => { x with ihead := x.ihead + word ks }) else b)
                let ha := ar.ihead.toNat
                let hb := if bring && bsel = aring then (ar.ihead + word rows).toNat else br.ihead.toNat
                let k : MxCmd := { first := first, rows := rows, z := z, flush := c.w.flush, bring := bring, rlx := rlx, aring := aring
                                   bsel := bsel, at_ := at_, bt := bt, ha := ha, hb := hb, ksteps := ks, state := 1, progress := 0
                                   popA := 0, popB := 0 }
                let reads := (seqs ha rows).map (fun e => .ring blk aring e.toNat false)
                  ++ (if bring then (seqs hb ks).map (fun e => .ring blk bsel e.toNat false) ++ TEntry.scaleRange c.part bt
                      else TEntry.extents c.part bt)
                  ++ TEntry.bandRange c.part at_ ++ TEntry.bandRange c.part bt ++ TEntry.scaleRange c.part at_
                let s := (s.claimRows c.w.core blk first rows).addCmd
                  { id := id, wid := some c.wid, blk := blk, core := c.w.core, reads := reads
                    writes := (List.range rows).map (fun i => .row (first + i)), kind := .mx k }
                .done (s.updWave c.wid (fun w => { w with openBatch := w.openBatch ++ [id], opened := true, mxLast := (id, 1, 0) })))

/-- `mx.ldb` (R249): the tensor is checked at issue; the fetch is a command of the matrix engine. Log entry 71 (DEDUCED). -/
def execMxLdb (e : Enc) (s : State) : Host.Outcome State Fault Refusal :=
  simt 0xB9 e s (fun c =>
    let id := c.n32 e.a
    let n := c.n32 e.c
    if 1023 < id || n < 1 || 2 < n then .trap (c.all 2#6)
    else
      match c.tensor id with
      | .error t => c.fails t
      | .ok (t, s) =>
        if s.queueFull c.w.core then .wait s .queue 9 0 0
        else
          let (cid, s) := s.newName
          .done (s.addCmd { id := cid, wid := some c.wid, blk := c.b.uid, core := c.w.core, reads := TEntry.extents c.part t, writes := []
                            kind := .ldb { id := id, tens := t, first := c.n32 e.b, count := n } }))

/-! ## The k-step (R227, R248) -/

/-- The first fault of a list of reads, or all the values. -/
def seqExcept {α β : Type} : List (Except α β) → Except α (List β)
  | [] => .ok []
  | x :: xs =>
    match x, seqExcept xs with
    | .error f, _ => .error f
    | _, .error f => .error f
    | .ok v, .ok vs => .ok (v :: vs)

/-- Where a k-step finds an operand's bytes: at device level, in the stationary buffer, or in a ring entry. -/
inductive MxSource where
  | device
  | stat (bytes : Memory)
  | entry (first slice : Nat)
  deriving DecidableEq, Repr

/-- What a k-step reads through: the state, the engine's die and partition, and the block's tiles. -/
structure MxView where
  s : State
  die : Nat
  part : Nat
  scr : Memory
  deriving DecidableEq, Repr

def MxView.bytes (v : MxView) (a n : Nat) : Except (BitVec 6 × Nat) (List Byte) := v.s.vread v.die v.part a n
/-- Bytes of the tensor in memory, or as the stationary buffer holds them. -/
def MxView.read (v : MxView) (src : MxSource) (a n : Nat) : Except (BitVec 6 × Nat) (List Byte) :=
  match src with
  | .stat m => .ok (m.readN a n)
  | _ => v.bytes a n

/-- The value of the element of line `i` at reduction index `k`; beyond K, or for a column (`col`) beyond B's lines, it is +0.
The line of an A entry is the number recorded with it, whatever A's extent (R248). Log entry 59 (DEDUCED). -/
def MxView.elem (v : MxView) (col : Bool) (t : TEntry) (src : MxSource) (i k : Nat) : Except (BitVec 6 × Nat) Fp :=
  if TEntry.k t ≤ k || (col && TEntry.lines t ≤ i) then .ok (.fin false 0 0)
  else
    let ty := (TEntry.ty t).getD .e2m1
    let fmt : Fmt := match ty with | .nf4b => .e2m1 | x => x.fmt.getD .e2m1
    let n := max 1 (TEntry.w t / 8)
    let code (raw : Nat) (hi : Bool) : Nat := if TEntry.w t = 4 then (if hi then raw / 16 else raw % 16) else raw
    match src with
    | .entry first slice =>
      let (b, hi) := TEntry.elemAt t (TEntry.layout t) slice i k
      .ok (fmt.value (code (leNat (v.scr.readN (first + b) n)) hi))
    | _ =>
      let (a, hi) := TEntry.elemByte t (TEntry.idxOf t i k)
      (v.read src a n).map (fun bs => fmt.value (code (leNat bs) hi))

/-- The block scale of an element; 1.0 for a format without block scales. Log entry 59 (DEDUCED). -/
def MxView.scale (v : MxView) (col : Bool) (t : TEntry) (src : MxSource) (i k : Nat) : Except (BitVec 6 × Nat) Fp :=
  if !TEntry.isNf4b t || TEntry.k t ≤ k || (col && TEntry.lines t ≤ i) then .ok (.fin false 1 0)
  else
    let one (bs : List Byte) : Fp := Fmt.e3m5.value (bs.getD 0 0#8).toNat
    match src with
    | .entry first slice =>
      if TEntry.layout t = 0 then (v.bytes (TEntry.blockAddr t i k) 1).map one
      else .ok (one (v.scr.readN (first + TEntry.scaleAt t (TEntry.layout t) slice i k) 1))
    | _ => (v.read src (TEntry.blockAddr t i k) 1).map one

/-- The 32 blocks of one line over k-tile `c`: elements and scale of each. Log entry 59 (DEDUCED). -/
def MxView.line (v : MxView) (col : Bool) (t : TEntry) (src : MxSource) (i c : Nat) : Except (BitVec 6 × Nat) (List (List Fp × Fp)) :=
  let ks := TEntry.ks t
  let per := ks / 32
  seqExcept ((List.range 32).map (fun b =>
    let k := c * ks + b * per
    match seqExcept ((List.range per).map (fun j => v.elem col t src i (k + j))), v.scale col t src i k with
    | .error f, _ => .error f
    | _, .error f => .error f
    | .ok xs, .ok sc => .ok (xs, sc)))

/-- A band scale of a tensor, 1.0 where absent. -/
def MxView.band (v : MxView) (col : Bool) (t : TEntry) (i : Nat) : Except (BitVec 6 × Nat) (BitVec 16) :=
  if !TEntry.isNf4b t || (col && TEntry.lines t ≤ i) then .ok oneBand
  else (v.bytes (TEntry.bandAddr t i) 2).map (fun bs => BitVec.ofNat 16 (leNat bs))

/-- What stops a k-step: the cause, the address, and whether the A operand (else B) met it. -/
abbrev MxFault := BitVec 6 × Nat × Bool

/-- The bands recorded at a row's first k-step: of A's line, and of B's columns 0, 64, 128 and 192. -/
def MxView.bands (v : MxView) (k : MxCmd) (line : Nat) : Except MxFault (BitVec 16 × List (BitVec 16)) :=
  match v.band false k.at_ line, seqExcept ((List.range 4).map (fun j => v.band true k.bt (64 * j))) with
  | .error (f, a), _ => .error (f, a, true)
  | _, .error (f, a) => .error (f, a, false)
  | .ok x, .ok ys => .ok (x, ys)

/-- The new values of a row's 256 columns. -/
def MxView.columns (v : MxView) (k : MxCmd) (row : List Word) (aSrc bSrc : MxSource) (line c : Nat) (zero : Bool) :
    Except MxFault (List Word) :=
  match v.line false k.at_ aSrc line c, seqExcept ((List.range 256).map (fun n => v.line true k.bt bSrc n c)) with
  | .error (f, a), _ => .error (f, a, true)
  | _, .error (f, a) => .error (f, a, false)
  | .ok xs, .ok ys =>
    .ok (((List.range 256).zip ys).map (fun p =>
      let blocks : List KBlock := (xs.zip p.2).map (fun q => { pairs := q.1.1.zip q.2.1, scaleA := q.1.2, scaleB := q.2.2 })
      word (kstepColumn k.flush (if zero then 0 else (row.getD p.1 0#32).toNat) blocks)))

/-- A stop of a matrix command (R248, R249): the state, and trap 37 pending in its wave. -/
def State.mxStop (s : State) (c : Cmd) (k : MxCmd) (cause : BitVec 6) (addr : Nat) (tensor : Nat) : State :=
  let st := if cause = 16#6 then 2 else 3
  let s := s.updCmd c.id (fun x => { x with kind := .mx { k with state := st } })
  match c.wid with
  | none => s
  | some w =>
    match s.wave? w with
    | none => s
    | some x =>
      (s.updWave w (fun y => { y with mxLast := if y.mxLast.1 = c.id then (c.id, st, k.progress) else y.mxLast })).pendCause w 37#6
        { asyncRec s x 37#6 (dword addr) with info0 := word k.progress, info1 := word tensor, orig := cause }

/-- A matrix command ends in a state. -/
def State.mxEnd (s : State) (c : Cmd) (st progress : Nat) : State :=
  let s := match c.wid with
    | none => s
    | some w => s.updWave w (fun y => { y with mxLast := if y.mxLast.1 = c.id then (c.id, st, progress) else y.mxLast })
  s.endCmd c none

/-- Pop entries of a ring for a command, and with them what abandoned commands left. -/
def State.popEntries (s : State) (blk r : Nat) (es : List Word) : State :=
  s.updBlock blk (fun b => Block.drainDrops r (b.ring r).drop.length (es.foldl (fun b e => b.pop r e) b))

/-- Whether an address of `mx.row`'s A or B operand is named by ring or by tensor id in a trap record (R249). -/
def MxCmd.name (k : MxCmd) (isA : Bool) : Nat :=
  if isA then 0x8000 + k.aring else if k.bring then 0x8000 + k.bsel else k.bsel

/-- The virtual addresses that a fetch of a k-tile reads. -/
def TEntry.tileBytes (t : TEntry) (kt : Nat) : List Nat :=
  let ks := TEntry.ks t
  let n := max 1 (TEntry.w t / 8)
  (List.range (min 256 (TEntry.lines t))).flatMap (fun i => ((List.range ks).filter (fun j => decide (kt * ks + j < TEntry.k t))).flatMap (fun j =>
    let k := kt * ks + j
    let a := (TEntry.elemByte t (TEntry.idxOf t i k)).1
    (List.range n).map (fun b => a + b) ++ (if TEntry.isNf4b t then [TEntry.blockAddr t i k] else [])))

/-- The block scales of a line's k-tile that are fetched at device level, the operand being read from a ring in layout l0 (R252). -/
def TEntry.lineScales (t : TEntry) (i kt : Nat) : List Nat :=
  if TEntry.isNf4b t && TEntry.layout t = 0 then
    (((List.range 32).map (fun b => kt * TEntry.ks t + b * (TEntry.ks t / 32))).filter (fun k => decide (k < TEntry.k t))).map (TEntry.blockAddr t i)
  else []
/-- The virtual addresses that a k-step reads at device level: the bands at a row's first, the scales of operands that stand in
rings, and a B operand that neither stands in a ring nor in the stationary buffer. -/
def MxCmd.deviceReads (k : MxCmd) (line kc : Nat) (device : Bool) : List Nat :=
  (if kc = 0 then
    (if TEntry.isNf4b k.at_ then [TEntry.bandAddr k.at_ line] else [])
      ++ (if TEntry.isNf4b k.bt then (((List.range 4).map (fun j => 64 * j)).filter (fun i => decide (i < TEntry.lines k.bt))).map (TEntry.bandAddr k.bt) else [])
  else [])
    ++ TEntry.lineScales k.at_ line kc
    ++ (if k.bring then (List.range (min 256 (TEntry.lines k.bt))).flatMap (fun i => TEntry.lineScales k.bt i kc)
        else if device then TEntry.tileBytes k.bt kc else [])

/-- One k-step of a command in state 1 that may run: nothing while an entry it needs is not filled, or while the entry it would
pop is not the ring's next (R240), or while requests to a line that it reads wait (R413); a FAIL mark or a fault stops it before
any column changes. Log entries 59 (DEDUCED), 71 (DEDUCED). -/
def State.kstep (s : State) (c : Cmd) (k : MxCmd) : State :=
  match s.block? c.blk with
  | none => s
  | some b =>
    let r := k.progress / max 1 k.ksteps
    let kc := k.progress % max 1 k.ksteps
    let ar := b.ring k.aring
    let br := b.ring k.bsel
    let ea := word k.ha + word r
    let eb := word k.hb + word kc
    let endRow := kc + 1 = k.ksteps
    let endAll := endRow && r + 1 = k.rows
    if !ar.ready ea || (k.bring && !br.ready eb) then s
    else if endRow && ar.head ≠ ea then s
    else if endAll && k.bring && br.head ≠ word k.hb && k.bsel ≠ k.aring then s
    else if ar.failed ea then s.mxStop c k 38#6 (ar.entryByte ea) (k.name true)
    else if k.bring && br.failed eb then s.mxStop c k 38#6 (br.entryByte eb) (k.name false)
    else
      let part := s.partOfBlock c.blk
      let v : MxView := { s := s, die := dieOf c.core, part := part, scr := b.scr }
      let line := (ar.lineOf ea).toNat
      let row := s.accRow c.core (k.first + r)
      let stat := (s.core c.core).stat.find? (fun x => x.part = part && x.id = k.bsel && x.ktile = kc && x.entry = k.bt)
      let bSrc : MxSource := if k.bring then .entry (br.entryByte eb) kc
        else match stat with | some x => .stat x.bytes | none => .device
      if (k.deviceReads line kc stat.isNone).any (s.unitHolds v.die part .load) then s
      else
      let res : Except MxFault AccRow :=
        match (if kc = 0 then v.bands k line else .ok (row.bandA, row.bandB)) with
        | .error f => .error f
        | .ok (ba, bb) =>
          (v.columns k row.cols (.entry (ar.entryByte ea) line) bSrc line kc (k.z && kc = 0)).map (fun cols =>
            { row with cols := cols, bandA := ba, bandB := bb, owner := c.blk })
      match res with
      | .error (f, a, isA) => s.mxStop c k f a (k.name isA)
      | .ok row =>
        let s := s.setAccRow c.core row
        let k := { k with progress := k.progress + 1, popA := if endRow then k.popA + 1 else k.popA }
        let s := s.updCmd c.id (fun x => { x with
          kind := .mx k
          reads := if endRow then x.reads.filter (fun q => q ≠ .ring c.blk k.aring ea.toNat false) else x.reads })
        let s := match c.wid with
          | some w => s.updWave w (fun y => { y with mxLast := if y.mxLast.1 = c.id then (c.id, 1, k.progress) else y.mxLast })
          | none => s
        let s := if endRow then s.popEntries c.blk k.aring [ea] else s
        if endAll then
          let s := if k.bring then s.popEntries c.blk k.bsel (seqs k.hb k.ksteps) else s
          s.mxEnd c 0 k.progress
        else s

/-- The fetch of an mx.ldb reaches a line that takes no requests now (R413). -/
def State.ldbHeld (s : State) (c : Cmd) (k : LdbCmd) : Bool :=
  (List.range k.count).any (fun i => (TEntry.tileBytes k.tens (k.first + i)).any (s.unitHolds (dieOf c.core) (s.partOfBlock c.blk) .load))

/-- The fetch of mx.ldb: its tiles enter the stationary buffer, which keeps the two latest; a fault drops the fetch. -/
def State.ldbFetch (s : State) (c : Cmd) (k : LdbCmd) : State :=
  let part := s.partOfBlock c.blk
  let tiles := (List.range k.count).map (fun i => k.first + i)
  let fetch (kt : Nat) : Except (BitVec 6 × Nat) StatTile :=
    (seqExcept ((TEntry.tileBytes k.tens kt).map (fun a => (s.vread (dieOf c.core) part a 1).map (fun bs => (a, bs.getD 0 0#8))))).map
      (fun xs => { part := part, id := k.id, ktile := kt, entry := k.tens, bytes := xs.foldl (fun m x => m.write x.1 x.2) [] })
  match seqExcept (tiles.map fetch) with
  | .error _ => s
  | .ok ts => s.updCore c.core (fun x =>
      { x with stat := ((ts.reverse ++ x.stat.filter (fun y => !(y.part = part && y.id = k.id && tiles.contains y.ktile))).take 2) })

/-- The matrix engine performs the next step of a command (R248), or the fetch of an mx.ldb (R249). -/
def execMxKstep (cmd : Nat) (s : State) : Host.Outcome State Fault Refusal :=
  match s.cmd? cmd with
  | none => .next s
  | some c =>
    if !s.mayRun c then .next s
    else
      let s := s.begin c
      match c.kind with
      | .mx k => .next (if k.state = 1 then s.kstep { c with began := true } k else s)
      | .ldb k => .next (if s.ldbHeld c k then s else (s.ldbFetch c k).endCmd c none)
      | _ => .next s

/-! ## Resume, abandon, progress (R249) -/

/-- The matrix commands of a wave, in issue order. -/
def State.mxOf (s : State) (w : Nat) : List (Cmd × MxCmd) :=
  s.cmds.filterMap (fun c => match c.kind with | .mx k => if c.wid = some w then some (c, k) else none | _ => none)

/-- Abandon a stopped command: its entries are popped as their fills complete, and it counts as complete. -/
def State.abandon (s : State) (c : Cmd) (k : MxCmd) : State :=
  let left := (seqs (k.ha + k.popA) (k.rows - k.popA)).map BitVec.toNat
  let bs := (seqs k.hb k.ksteps).map BitVec.toNat
  let s := s.updBlock c.blk (fun b => b.updRing k.aring (fun x => { x with drop := x.drop ++ left }))
  let s := if k.bring then s.updBlock c.blk (fun b => b.updRing k.bsel (fun x => { x with drop := x.drop ++ bs })) else s
  let s := s.popEntries c.blk k.aring []
  let s := if k.bring then s.popEntries c.blk k.bsel [] else s
  s.mxEnd c 4 k.progress

/-- `mx.resume`. -/
def execMxResume (e : Enc) (s : State) : Host.Outcome State Fault Refusal :=
  simt 0xBA e s (fun c =>
    let stopped := (c.s.mxOf c.wid).filter (fun x => x.2.state = 2 || x.2.state = 3)
    if e.mod.getLsbD 0 then .done (stopped.foldl (fun s x => s.abandon x.1 x.2) c.s)
    else
      .done (stopped.foldl (fun s x =>
        (s.updCmd x.1.id (fun y => { y with kind := .mx { x.2 with state := 1 } })).updWave c.wid (fun w =>
          { w with mxLast := if w.mxLast.1 = x.1.id then (x.1.id, 1, x.2.progress) else w.mxLast })) c.s))

/-- `mx.prog`. -/
def execMxProg (e : Enc) (s : State) : Host.Outcome State Fault Refusal :=
  simt 0xBB e s (fun c =>
    let (st, pr) := match (c.s.mxOf c.wid).head? with
      | some x => (x.2.state, x.2.progress)
      | none => (c.w.mxLast.2.1, c.w.mxLast.2.2)
    .done (c.s.updWave c.wid (fun w => w.write e.dst true 0 (st * 2 ^ 32 + pr % 2 ^ 32))))

/-! ## acc.out (R224, R251) -/

/-- `acc.out`: with .rs its draws are reserved at issue. Log entry 72 (DEDUCED). -/
def execAccOut (e : Enc) (s : State) : Host.Outcome State Fault Refusal :=
  simt 0xBF e s (fun c =>
    let id := c.n32 e.a
    let first := c.n32 e.b
    let rows := c.n32 e.c
    if 1023 < id || rows < 1 || 128 < rows then .trap (c.all 2#6)
    else
      match c.tensor id with
      | .error t => c.fails t
      | .ok (t, s) =>
        match c.rowCheck first rows with
        | some r => r
        | none =>
          if TEntry.ndim t ≠ 1 || TEntry.ty t ≠ some (tyOf e) || TEntry.layout t ≠ 0 then .trap (c.trap39 6)
          else if s.queueFull c.w.core then .wait s .queue 9 0 0
          else
            let l := c.lane0
            let k : AccOutCmd := { tens := t, id := id, first := first, rows := rows, ty := typeCode e, rnd := e.mod.extractLsb' 4 3
                                   sat := satBit e, flush := c.w.flush, key := c.w.lkey.getD l 0#32, n0 := c.w.scnt.getD l 0#32, pos := 0
                                   waitAt := none }
            let (cid, s) := s.newName
            let s := s.addCmd { id := cid, wid := some c.wid, blk := c.b.uid, core := c.w.core
                                reads := (List.range rows).map (fun i => .row (first + i)), writes := TEntry.extents c.part t, kind := .accOut k }
            let m := rows * min (TEntry.dim t 0) 256
            .done (s.updWave c.wid (fun w => { w with
              openBatch := w.openBatch ++ [cid]
              opened := true
              scnt := if rndCode e = 4 then w.scnt.modify l (fun n => n + word m) else w.scnt })))

/-- AGENT of the wave that issued a command (R276), and of its matrix engine in the order log. -/
def State.issuerAgent (s : State) (c : Cmd) : Nat := match c.wid.bind s.wave? with | some w => agentOf w | none => 0
def State.cmdAgent (s : State) (c : Cmd) : Nat := engineAgent 7 (s.issuerAgent c)

/-- Columns that an acc.out writes of each row. -/
def AccOutCmd.m (k : AccOutCmd) : Nat := min (TEntry.dim k.tens 0) 256
/-- Element `q` of an acc.out, counted row by row: its address. -/
def AccOutCmd.addr (k : AccOutCmd) (q : Nat) : Nat := (TEntry.elemByte k.tens [q % k.m, q / k.m]).1
/-- Its code. Log entry 72 (DEDUCED). -/
def State.outValue (s : State) (c : Cmd) (k : AccOutCmd) (q : Nat) : Nat :=
  let n := q % k.m
  let j := q / k.m
  let ty := (Ty.ofCode k.ty).getD .f32
  let x := (s.accRow c.core (k.first + j)).read k.flush n
  (convertTo ty ((Rnd.ofCode k.rnd).getD .rn) (stochBits k.key (k.n0 + word (j * k.m + n))) k.sat k.flush .f32 x).code

/-- Elements from `q` on that lie in the line of element `q`, at most to the end of the row. Log entry 72 (DEDUCED). -/
def AccOutCmd.run (k : AccOutCmd) (q : Nat) : Nat :=
  ((List.range (k.m - q % k.m)).takeWhile (fun i => k.addr (q + i) / 64 = k.addr q / 64)).length

/-- The next line of an acc.out takes no requests now (R413). -/
def State.outHeld (s : State) (c : Cmd) (k : AccOutCmd) : Bool := s.unitHolds (dieOf c.core) (s.partOfBlock c.blk) .store (k.addr k.pos)

/-- Write the elements of the next line (R251): a missing translation posts one record with SOURCE 7 and waits, any other
fault fails the command. -/
def State.outStep (s : State) (c : Cmd) (k : AccOutCmd) : State :=
  let p := s.partOfBlock c.blk
  let bytes := TEntry.w k.tens / 8
  let n := max 1 (k.run k.pos)
  let res := (List.range n).foldl (fun (acc : Except (BitVec 6 × Nat) State) i =>
    match acc with
    | .error f => .error f
    | .ok t => t.vwrite (dieOf c.core) p (k.addr (k.pos + i)) (leBytes bytes (s.outValue c k (k.pos + i)))) (.ok s)
  match res with
  | .error (f, a) =>
    if f = 16#6 then
      if k.waitAt = some (dword a) then s
      else
        (s.updCmd c.id (fun x => { x with kind := .accOut { k with waitAt := some (dword a) } })).postFault p 7 f (dword a) (s.issuerAgent c) c.core
    else s.endCmd c (some { addr := dword a, isOut := true, cause := f })
  | .ok s =>
    let s := s.logDev p 4 3 1 (s.cmdAgent c)
    if k.rows * k.m ≤ k.pos + n then s.endCmd c none
    else s.updCmd c.id (fun x => { x with kind := .accOut { k with pos := k.pos + n, waitAt := none } })

/-- The matrix engine writes the next line of an acc.out. -/
def execAccOutPerform (cmd : Nat) (s : State) : Host.Outcome State Fault Refusal :=
  match s.cmd? cmd with
  | none => .next s
  | some c =>
    match c.kind with
    | .accOut k =>
      let p := s.partOfBlock c.blk
      if !s.mayRun c || k.waitAt.isSome || s.unitHeld 7 c.core || s.outHeld c k then .next s
      else if !s.mayStep p 4 (s.cmdAgent c) 16 then .next (s.logFull p)
      else .next ((s.begin c).outStep c k)
    | _ => .next s

/-- An acc.out that waits at a line goes on once the translation is present. -/
def execAccOutTranslationResume (cmd : Nat) (s : State) : Host.Outcome State Fault Refusal :=
  match s.cmd? cmd with
  | none => .next s
  | some c =>
    match c.kind with
    | .accOut k => .next (
        if s.mayRun c && k.waitAt.isSome && !s.unitHeld 7 c.core && !s.outHeld c k && s.mayStep (s.partOfBlock c.blk) 4 (s.cmdAgent c) 16 then s.outStep c k else s)
    | _ => .next s

end Sys2Proof.Machine
end

