-- ==== Sys2Proof/Machine/Launch.lean ====
section
/-! DEFINITION. The task scheduler's events: launch packets (R44-R50, R204), task decrements (R50, R51), the slice rule
(R42, R57), ageing (R58) and the restart of stopped queues (R49). -/

namespace Sys2Proof.Machine

open Sys2Proof

/-- Clocks of the 1.40 GHz timebase in a microsecond (R92). -/
def clocksPerUs : Nat := 1400
/-- Clocks since a moment of the timebase. Log entry 107 (DEDUCED). -/
def State.since (s : State) (t : Dword) : Nat := (s.clk - t).toNat

/-! ## Launch queues (R44) -/

/-- A launch queue's descriptor. -/
structure LaunchQueue where
  va : Nat
  base : Nat
  enable : Bool
  cls : Nat
  size : Nat
  read : Dword
  write : Dword
  malformed : Bool
  deriving DecidableEq, Repr

/-- A producer has claimed the slot at READ (R45). -/
def LaunchQueue.pending (q : LaunchQueue) : Bool := decide (q.read.toNat < q.write.toNat)
def LaunchQueue.slotVa (q : LaunchQueue) : Nat := q.base + 64 * (q.read.toNat % 2 ^ q.size)

def State.launchQueue (s : State) (p n : Nat) : Except (BitVec 6 × Nat) LaunchQueue :=
  let va := (s.part p).lqBase.toNat + 64 * n
  match s.vread 0 p va 64 with
  | .error x => .error x
  | .ok bs =>
    let w (i : Nat) : Dword := dword (leNat ((bs.drop (8 * i)).take 8))
    let f (i hi lo : Nat) : Nat := bitsOf (w i).toNat hi lo
    .ok { va := va, base := f 0 56 0, enable := f 1 7 7 = 1, cls := f 1 6 5, size := f 1 4 0, read := w 3, write := w 2
          malformed := f 0 63 57 ≠ 0 || f 1 63 8 ≠ 0 || f 0 5 0 ≠ 0 || decide (f 1 4 0 < 4) || decide (16 < f 1 4 0)
            || (List.range 4).any (fun i => w (4 + i) ≠ 0#64) }

/-- A queue stops: its QERR bit is set (R44, R49). Log entry 112 (DEDUCED). -/
def State.stopQueue (s : State) (p q : Nat) : State := s.updPart p (fun x => { x with qerr := x.qerr ||| (1#64 <<< q) })

/-! ## Packets (R46, R48) -/

/-- The REASON of a bad packet, 0 for none. Log entry 75 (DEDUCED). -/
def packetReason (ws : List Dword) (held : Nat → Bool) : Nat :=
  let f (i hi lo : Nat) : Nat := bitsOf (ws.getD i 0#64).toNat hi lo
  let ty := f 0 7 0
  if 3 ≤ ty then 1
  else if f 0 63 48 ≠ 0 || f 0 15 8 ≠ 0 || f 1 63 57 ≠ 0 || f 2 63 57 ≠ 0 || f 3 63 18 ≠ 0
      || (List.range 4).any (fun i => f (4 + i) 63 0 ≠ 0)
      || (ty = 1 && (f 0 47 32 ≠ 0 || f 0 31 16 ≠ 0)) || (f 3 16 16 = 0 && (f 3 17 17 ≠ 0 || f 3 15 0 ≠ 0)) then 2
  else if f 1 56 0 = 0 || f 1 5 0 ≠ 0 then 3
  else if ty = 2 && held (f 0 31 16) then 4
  else if f 2 2 0 ≠ 0 then 5
  else 0

/-- A released or immediate launch enters the waiting grids; a named task with dependences is held (R50). -/
def State.submit (s : State) (l : Launch) (task : Option (Nat × Nat)) : State :=
  match task with
  | some (name, deps) =>
    if deps = 0 then s.enterGrid l
    else s.updDie l.die (fun d => { d with tasks := d.tasks ++ [{ name := name, count := deps, launch := l }] })
  | none => s.enterGrid l

/-- The scheduler takes the packet at the head of a queue. Log entries 74 (DEDUCED), 75 (DEDUCED). -/
def State.takePacket (s : State) (p n : Nat) (q : LaunchQueue) (die : Nat) (ws : List Dword) : State :=
  let f (i hi lo : Nat) : Nat := bitsOf (ws.getD i 0#64).toNat hi lo
  let slotVa := q.slotVa
  match s.vwrite die p slotVa (leBytes 8 0) with
  | .error (c, a) => (s.stopQueue p n).postFault p 6 c (dword a) n die
  | .ok s1 =>
    match s1.vwrite die p (q.va + 24) (leBytes 8 (q.read + 1#64).toNat) with
    | .error (c, a) => (s.stopQueue p n).postFault p 6 c (dword a) n die
    | .ok s =>
      let s := s.updDie die (fun d => { d with rrPart := p, rrQueue := n })
      let l : Launch :=
        { part := p, die := die, queue := some n, record := emptyRecord, cls := 0#2, status := dword (f 2 56 0), sigEn := f 3 16 16 = 1
          sigDie := f 3 17 17, sigTask := f 3 15 0, join := none }
      let reason := packetReason ws (fun t => (s.die die).tasks.any (fun x => x.name = t))
      if reason ≠ 0 then
        let s := s.writeStatus l 3 reason
        if f 2 2 0 ≠ 0 then s.postFault p 6 0#6 (dword slotVa) n die else s
      else
        match s.takeRecord l (f 1 56 0) q.cls with
        | (s, none) => s
        | (s, some l) => s.submit l (if f 0 7 0 = 2 then some (f 0 31 16, f 0 47 32) else none)

/-- LAUNCH_PACKET: the scheduler consumes the packet at the head of launch queue `q` of a partition. A `q` of 64 or 65
stands for the spawns that wait at die `q - 64`'s scheduler, of which the oldest of the partition is taken (R204). -/
def execLaunchPacket (p q : Nat) (s : State) : Host.Outcome State Fault Refusal :=
  if (s.part p).ending || (s.part p).halted || 16 ≤ p then .next s
  else if 64 ≤ q then
    let die := q - 64
    if (s.die die).fwBusy || s.unitHeld 6 die then .next s
    else
    match (s.die die).spawns.find? (fun x => x.1.part = p) with
    | none => .next s
    | some x =>
      let s := s.updDie die (fun d => { d with spawns := d.spawns.erase x })
      match s.takeRecord x.1 x.2.toNat x.1.cls.toNat with
      | (s, none) => .next s
      | (s, some l) => .next (s.submit l none)
  else if (s.part p).qerr.getLsbD q || (s.part p).ctxDesc = 0#64 then .next s
  else
    let s := s.loadCtx p
    match s.launchQueue p q with
    | .error (c, a) => if (s.die 0).fwBusy || s.unitHeld 6 0 then .next s else .next ((s.stopQueue p q).postFault p 6 c (dword a) q)
    | .ok d =>
      if !d.enable then .next s
      else if d.malformed then .next (s.stopQueue p q)
      else if !d.pending then .next s
      else
        let die := s.queueDie p d.base
        if (s.die die).fwBusy || s.unitHeld 6 die then .next s
        else
          match s.vread die p d.slotVa 64 with
          | .error (c, a) => .next ((s.stopQueue p q).postFault p 6 c (dword a) q die)
          | .ok bs =>
            let ws : List Dword := (List.range 8).map (fun i => dword (leNat ((bs.drop (8 * i)).take 8)))
            if (ws.getD 0 0#64).toNat % 256 = 0 then .next s else .next (s.takePacket p q d die ws)

/-- QERR_WRITE: a 1 clears the queue's bit, and the queue is read again (R49). -/
def execQerrWrite (p : Nat) (v : Dword) (s : State) : Host.Outcome State Fault Refusal :=
  .next (s.updPart p (fun x => { x with qerr := x.qerr &&& ~~~v }))

/-! ## Tasks (R50, R51) -/

/-- A decrement is performed by a die's scheduler: the one that brings the counter to 0 frees the name and releases the
launch; one aimed at a free name is counted in TASK_LOST, which saturates. -/
def State.taskDown (s : State) (die name : Nat) : State :=
  match (s.die die).tasks.find? (fun t => t.name = name) with
  | none => s.updDie die (fun d => { d with taskLost := if d.taskLost = 0xFFFFFFFF#32 then d.taskLost else d.taskLost + 1#32 })
  | some t =>
    if t.count ≤ 1 then
      (s.updDie die (fun d => { d with tasks := d.tasks.filter (fun x => x.name ≠ name) })).enterGrid t.launch
    else s.updDie die (fun d => { d with tasks := d.tasks.map (fun x => if x.name = name then { x with count := x.count - 1 } else x) })

/-- TASK_DECREMENT: the `k`-th decrement on its way reaches its scheduler. -/
def execTaskDecrement (k : Nat) (s : State) : Host.Outcome State Fault Refusal :=
  match s.decrements[k]? with
  | none => .next s
  | some (die, name) =>
    if (s.die die).fwBusy || s.unitHeld 6 die then .next s
    else .next ({ s with decrements := s.decrements.eraseIdx k }.taskDown die name)

/-! ## The slice rule (R42, R57) -/

/-- A grid's own resident blocks on a core, or on its group for a cluster, oldest first. -/
def State.ownBlocks (s : State) (g : Grid) (core : Nat) : List Nat :=
  let wide := g.launch.record.clusterSize ≠ 1
  (s.blocks.foldl (fun l b =>
    if b.grid = g.uid && b.status = .resident && (b.core = core || (wide && groupOf b.core = groupOf core)) then
      (l.takeWhile (fun x => x.1 < b.admitted)) ++ [(b.admitted, b.uid)] ++ (l.dropWhile (fun x => x.1 < b.admitted))
    else l) ([] : List (Nat × Nat))).map Prod.snd

/-- When a block of a list was admitted. -/
def State.admittedAt (s : State) (us : List Nat) : Nat :=
  match us.head?.bind s.block? with | some b => b.admitted | none => 0

/-- A slice pre-emption: among the masked cores on which the head would fit once some or all of the grid's own blocks there
were saved, the one with the oldest of them; its blocks are requested oldest first until the head fits. -/
def State.slicePreempt (s : State) (g : Grid) : State :=
  let options := (s.maskCores g.launch.record).filterMap (fun c =>
    let own := s.ownBlocks g c
    if own.isEmpty then none else (s.victims g c own []).map (fun us => (s.admittedAt own, us)))
  let best := options.foldl (fun (b : Option (Nat × List Nat)) o =>
    match b with | none => some o | some x => if o.1 < x.1 then some o else some x) none
  let s := s.updGrid g.uid (fun x => { x with sliceFrom := s.clk })
  match best with
  | none => s
  | some (_, us) => us.foldl (fun s u => s.requestPre u .slice) s

/-- SLICE_EXPIRY: the interval has passed without a retirement while the grid has both a resident and a waiting block. -/
def execSliceExpiry (grid : Nat) (s : State) : Host.Outcome State Fault Refusal :=
  match s.grid? grid with
  | none => .next s
  | some g =>
    let ivl := bitsOf (s.part g.launch.part).sliceIvl.toNat 19 0
    if s.bothKinds g && !(s.part g.launch.part).swapping && decide (ivl * clocksPerUs ≤ s.since g.sliceFrom) then .next (s.slicePreempt g)
    else .next s

/-! ## Ageing (R58) -/

/-- The ageing limit of a class, in units of 10 µs. -/
def ageLimitOf (x : Partition) (cls : Nat) : Nat := if cls = 0 then 0 else bitsOf x.ageLimit.toNat (16 * cls - 1) (16 * (cls - 1))

/-- AGEING_EXPIRY: the head has waited its class's limit, and is treated as class 0 until it is admitted. -/
def execAgeingExpiry (grid : Nat) (s : State) : Host.Outcome State Fault Refusal :=
  match s.grid? grid with
  | none => .next s
  | some g =>
    let lim := ageLimitOf (s.part g.launch.part) g.launch.cls.toNat
    if (s.head g).isSome && !g.aged && lim ≠ 0 && decide (lim * 10 * clocksPerUs ≤ s.since g.headSince) then
      .next ((s.updGrid grid (fun x => { x with aged := true })).distribute none)
    else .next s

end Sys2Proof.Machine
end

