-- ==== Sys2Proof/Machine/Preempt.lean ====
section
/-! DEFINITION. The events of waves and of pre-emption: pending causes taken (R258), loads and acknowledgements (R71, R138,
R148, R163, R164), the deadline (R267), a block's save and restore (R250, R268-R270), the end of a sleep (R158), the
watchdog, debug halt and profiler (R277, R280), and hardware errors (R261). -/

namespace Sys2Proof.Machine

open Sys2Proof

/-- ASYNC_CAUSE_TAKEN: a cause that is pending for a wave is taken at its boundary (R258); inside a handler a save that is
due is a hardware save (R269). Log entry 57 (DEDUCED). -/
def execAsyncCauseTaken (w : Nat) (s : State) : Host.Outcome State Fault Refusal :=
  match s.wave? w with
  | none => .next s
  | some x =>
    if !s.canRun x || !x.atBoundary then .next s
    else
      match (if x.tmask then none else firstPending x.pend) with
      | some p => .next (s.takeAsync w p)
      | none =>
        if x.hnd && x.phase ≠ .save && x.pend.any (fun p => p.code = 48#6) then .next (s.hardwareSave w x.pc x.keptStage)
        else if x.yieldsAtWait then .next (s.enterSave w 49#6 x.pc x.keptStage)
        else .next s

/-- LOAD_DATA_RETURN: the wave's oldest load reads one of the lines it waits for, from a clean copy when `clean` and one may
be used (R71, R72, R141, R152). A line of an extent that is gone returns no data (R384), and one of a stack whose base die
is activating firmware, or behind a link that carries nothing, waits (R413). -/
def execLoadDataReturn (w line : Nat) (clean : Bool) (s : State) : Host.Outcome State Fault Refusal :=
  match s.wave? w with
  | none => .next s
  | some x =>
    match x.loads with
    | [] => .next s
    | o :: _ =>
      let scr := match o.remain[line]? with | some r => r.scr | none => false
      let held : Bool := match o.remain[line]? with | some r => !r.scr && s.homeHeld r.space r.pline | none => false
      if held then .next s
      else if s.mayRead x scr then .next (s.returnLine w line clean) else .next (s.logFull (s.partOfWave w))

/-- ACK_ARRIVAL: one line that a wave has sent is acknowledged (R148); a system-homed line reaches its home (R164). -/
def execAckArrival (w k : Nat) (s : State) : Host.Outcome State Fault Refusal :=
  match s.wave? w with
  | none => .next s
  | some x =>
    match x.sent[k]? with
    | none => .next s
    | some t =>
      if t.sysWrite && s.homeHeld t.space t.pline then .next s
      else
      let s := if t.sysWrite then s.homeDeliver t.space t.pline t.data t.mask t.moment else s
      .next (s.updWave w (fun y => { y with sent := y.sent.eraseIdx k, acks := y.acks - 1 }))

/-- CROSS_DIE_PUBLISH: at T the lines of a commit that both dies hold become device-level in one step (R163), once every stack takes
requests (R413). -/
def execCrossDiePublish (w : Nat) (s : State) : Host.Outcome State Fault Refusal :=
  match s.wave? w with
  | none => .next s
  | some x =>
    if x.staged.isEmpty || x.sent.any Sent.ofCommit || x.staged.any (fun t => !t.scr && s.stackHeld t.space t.pline) then .next s
    else if !s.mayStep (s.partOfWave w) 1 (agentOf x) 16 then .next (s.logFull (s.partOfWave w))
    else .next (s.publishStaged w)

/-- PREEMPT_DEADLINE_EXPIRY: every member not yet in its save is forced (R267). -/
def execPreemptDeadlineExpiry (blk : Nat) (s : State) : Host.Outcome State Fault Refusal :=
  match s.block? blk with
  | none => .next s
  | some b =>
    match b.pre with
    | none => .next s
    | some r =>
      let dl := (s.part (s.partOfBlock blk)).preDl.toNat
      if b.status = .resident && !r.expired && decide (dl ≤ s.dieSince b.core r.since) then .next (s.forceSave blk) else .next s

/-- Every member of a block has stopped for its save, none for a machine check. -/
def State.membersSaved (s : State) (b : Block) : Bool :=
  b.members.all (fun w => match s.wave? w with | some x => x.stopped && x.saveDone && !x.mcheck && x.acks = 0 | none => true)

/-- Bytes of a block's record (R268); the record of a cluster's last resident block takes the cluster's lines with it (R176). -/
def State.recordBytes (s : State) (b : Block) (rows : Nat) : Nat :=
  let last := !s.blocks.any (fun x => x.grid = b.grid && x.uid ≠ b.uid && x.status ≠ .saved && (match s.cluster? x, s.cluster? b with
    | some c, some d => c.num = d.num | _, _ => false))
  4096 + 72 * (b.lines.length + (if last then (s.clusterLines b).length else 0)) + 1024 * rows

/-- The lowest run of `n` free units of the partition's save area, none when there is none. Log entry 21 (DESIGN CHOICE). -/
def State.recordRun (s : State) (p n : Nat) : Option (List Nat) :=
  let size := match (s.part p).ctx with | some c => c.saveSize | none => 0
  let used := s.saveUnits p
  let run (u : Nat) : List Nat := (List.range n).map (fun i => u + i)
  ((List.range size).find? (fun u => (run u).all (fun x => decide (x < size) && !used.contains x))).map run

/-- The first fault of an access of the save engine to units of the save area. Log entry 21 (DESIGN CHOICE). -/
def State.recordFault (s : State) (core p : Nat) (acc : Access) (us : List Nat) : Option Nat :=
  let base := match (s.part p).ctx with | some c => c.saveBase.toNat | none => 0
  (us.map (fun u => base + 65536 * u)).find? (fun a => match s.translateDie (dieOf core) p acc a with | .error _ => true | .ok _ => false)

/-- The lines of the block record, which fills its units from the first (R268). -/
def State.recordLines (s : State) (core p bytes : Nat) (us : List Nat) : List (Space × Nat) :=
  let base := match (s.part p).ctx with | some c => c.saveBase.toNat | none => 0
  (List.range (ceilDiv bytes 64)).filterMap (fun i =>
    match s.translateDie (dieOf core) p .store (base + 65536 * us.getD (i / 1024) 0 + 64 * (i % 1024)) with
    | .ok pl => some (pl.space, pl.pa / 64)
    | .error _ => none)

/-- A fault while the save engine writes is cause 52 with TMASK set, that is cause 63, of the block's lowest-indexed member
(R261, R268). -/
def State.recordCheck (s : State) (b : Block) (a : Nat) : State :=
  match b.members.head?.bind s.wave? with
  | none => s
  | some w => s.machineCheck w.wid { trapRec s w 63#6 0#32 w.exec 0#64 with orig := 52#6 } (dword a)

/-- BLOCK_SAVE (R268): every member has stopped and the waits of R250 have ended. The block, with its rows, leaves its core
and joins its grid's queue: the tail under R42, the head otherwise (R56), where its wait starts (R58). The freed room is offered.
Log entries 21 (DESIGN CHOICE), 48 (DEDUCED), 49 (DEDUCED). -/
def execBlockSave (blk : Nat) (s : State) : Host.Outcome State Fault Refusal :=
  match s.block? blk with
  | none => .next s
  | some b =>
    match b.pre with
    | none => .next s
    | some r =>
      if b.status ≠ .resident || r.why = .swap || r.why = .tadpole || !s.membersSaved b || s.blockCopies blk then .next s
      else
        let p := s.partOfBlock blk
        let rows := (s.core b.core).acc.filter (fun x => x.owner = blk)
        match s.recordRun p (ceilDiv (s.recordBytes b rows.length) 65536) with
        | none => .next (s.recordCheck b 0)
        | some us =>
        match s.recordFault b.core p .store us with
        | some a => .next (s.recordCheck b a)
        | none =>
        let t := s.scrawl p (s.recordLines b.core p (s.recordBytes b rows.length) us)
        let t := t.updCore b.core (fun c => { c with acc := c.acc.filter (fun x => x.owner ≠ blk) })
        let t := t.updBlock blk (fun x => { x with status := .saved, pre := none, savedRows := rows, recUnits := us })
        let t := t.updGrid b.grid (fun g =>
          if r.why = .slice then { g with qTail := g.qTail ++ [b.lin], headSince := if (s.head g).isSome then g.headSince else s.clk }
          else { g with qHead := b.lin :: g.qHead, headSince := s.clk, aged := false })
        let t := t.settleWorlds
        .next (s.markBoth (t.distribute (some b.grid)))

/-- A wave comes back (R270): a wave saved inside its handler goes on there; every other one enters the handler with RESTORE and
the cause of its save, its registers and its buffer cleared as for a new slot (R60), for the handler to reload; its mode
register is kept (R156). Its batches, counters, streams and pending causes come back with the block record. Log entry 47
(DEDUCED). -/
def Wave.restored (w : Wave) (handler : Dword) (now : Nat) (clk : Dword) : Wave :=
  let w := { w with stopped := false, saveDone := false, preq := false, stall := 0#4, starved := 0, lastIssue := clk, barked := false, acqDev := now }
  if w.phase ≠ .save then w
  else
    let r : TrapRec := { cause := (w.trec.getD 0 0#64).extractLsb' 0 6, restore := true, async := true, clk := clk }
    { w with
      vregs := w.vregs.map (fun _ => List.replicate 32 0#32), sregs := w.sregs.map (fun _ => 0#32), kregs := List.replicate 8 0#32
      stack := [], buf := List.replicate 64 none, wbPre := [], mode := w.mode ||| 0x300#32, epc := 0#64, emode := w.mode &&& ~~~0x300#32, eexec := 0#32
      estack := setAside [], edepth := 0, trec := r.words, phase := .restore, pc := handler, exec := BitVec.allOnes 32
      stage := 0, aux := 0, issued := none, wait := .no }

/-- A block that has come back onto a core that is being emptied, has failed or is being swapped is pre-empted too (R405, R413, R414). -/
def State.arrivalPre (s : State) (u core : Nat) : State :=
  if (s.die (dieOf core)).cgEmptying.getLsbD (groupInDie core) then s.requestPre u .world
  else if (s.core core).fenced then s.requestPre u .fence
  else if s.hub.services.any (fun x => x.running && x.kind = .coreSwap core) then
    (s.updHub (fun h => { h with services := h.services.map (fun x =>
      if x.running && x.kind = .coreSwap core && !x.blks.contains u then { x with blks := x.blks ++ [u] } else x) })).requestPre u .spare
  else s

/-- BLOCK_RESTORE (R270): the block record is reloaded on the new core, on the same accumulator rows, and its waves come
back. When the context or its handler cannot be used the block stays saved and cause 63 of its lowest-indexed member is posted
(R261, R276).
Log entries 47 (DEDUCED), 48 (DEDUCED). -/
def execBlockRestore (blk : Nat) (s : State) : Host.Outcome State Fault Refusal :=
  match s.block? blk with
  | none => .next s
  | some b =>
    if b.status ≠ .restoring then .next s
    else
      let p := s.partOfBlock blk
      let (_, usable, reason) := s.readCtx p
      let s := (s.loadCtx p).tickNow
      let h := match (s.part p).ctx with | some c => c.handler | none => 0#64
      if !usable || reason ≠ 0 || h = 0#64 || (s.recordFault b.core p .load b.recUnits).isSome then
        let agent := match b.members.head?.bind s.wave? with | some w => agentOf w | none => 64 * b.core
        .next ((s.updBlock blk (fun x => { x with status := .saved })).postFault p 2 63#6 0#64 agent b.core)
      else
        let s := s.updCore b.core (fun c => { c with acc := c.acc ++ b.savedRows })
        let s := s.updBlock blk (fun x => { x with status := .resident, savedRows := [], pre := none, recUnits := [] })
        let s := { s with cmds := s.cmds.map (fun c => if c.blk = blk && c.wid.isSome then { c with core := b.core } else c) }
        .next (((b.members.foldl (fun s w =>
          let s : State := match s.wave? w with | some x => if x.phase = Phase.plain then s.gkResend w else s | none => s
          s.updWave w (fun x => x.restored h s.now s.clk)) s).arrivalPre blk b.core).distribute none)

/-- SLEEP_EXPIRY: a sleeping wave becomes eligible once its clocks have passed, or when its pre-emption is requested. -/
def execSleepExpiry (w : Nat) (s : State) : Host.Outcome State Fault Refusal :=
  match s.wave? w with
  | none => .next s
  | some x =>
    if x.wait = .sleep && (decide (x.sleepEnd.toNat ≤ s.dieClk x.core) || x.preq) then
      .next (s.updWave w (fun y => { y with wait := .no, stage := 2, aux := 0, stall := 0#4 }))
    else .next s

/-- WATCHDOG_EXPIRY (R277): a wave that has issued nothing for the limit takes cause 50, once, with its stall reason in INFO0. -/
def execWatchdogExpiry (w : Nat) (s : State) : Host.Outcome State Fault Refusal :=
  match s.wave? w with
  | none => .next s
  | some x =>
    let lim := (s.part (s.partOfWave w)).wdog.toNat
    if lim ≠ 0 && !x.stopped && !x.barked && decide (lim * 1024 ≤ s.dieSince x.core x.lastIssue) then
      .next ((s.updWave w (fun y => { y with barked := true })).pendCause w 50#6 { asyncRec s x 50#6 0#64 with info0 := x.stall.zeroExtend 32 })
    else .next s

/-- The waves of a partition. -/
def State.wavesOf (s : State) (p : Nat) : List Wave := s.waves.filter (fun w => s.partOfBlock w.blk = p)

/-- Cause 51 becomes pending for every wave of a partition, with its reason in INFO0 (R260, R277). -/
def State.haltAll (s : State) (p reason : Nat) : State :=
  (s.wavesOf p).foldl (fun s w => s.pendCause w.wid 51#6 { asyncRec s w 51#6 0#64 with info0 := word reason }) s

/-- A write of DBG_CTL; clearing REPLAY ends a replay (R279). -/
def Partition.setDbg (x : Partition) (v : Dword) : Partition :=
  { x with dbgCtl := v.extractLsb' 0 4, replayPh := if v.getLsbD 2 then x.replayPh else .off }

/-- DBG_HALT: a write of DBG_CTL with HALT set. -/
def execDbgHalt (p : Nat) (v : Dword) (s : State) : Host.Outcome State Fault Refusal :=
  let s := s.updPart p (fun x => x.setDbg (v ||| 2#64))
  .next (s.haltAll p 1)

/-- PROFILER_SAMPLE (R64, R277, R280): a core writes one sample of a partition's wave in the slot that its pointer has reached,
and counts its stall reason.
A sample whose write faults is dropped and still counted. Log entry 76 (DEDUCED). -/
def execProfilerSample (p core : Nat) (s : State) : Host.Outcome State Fault Refusal :=
  let x := s.part p
  let ptr := (s.core core).profPtr
  let here (i : Nat) : Option Wave := s.waves.find? (fun w => w.core = core && w.slot = i && s.partOfBlock w.blk = p
    && (match s.block? w.blk with | some b => b.status = .resident | none => false))
  if (x.profCtl.extractLsb' 0 32) = 0#32 then .next s
  else
    match ((List.range 48).map (fun i => (ptr + i) % 48)).findSome? here with
    | none => .next s
    | some w =>
      let agent := engineAgent 0 core
      if !s.mayStep p 4 agent 16 then .next (s.logFull p)
      else
        let size := (x.profCtl.extractLsb' 32 5).toNat
        let va := x.profBase.toNat + 16 * (x.profWrite.toNat % 2 ^ size)
        let bs := leBytes 8 (w.pc.toNat % 2 ^ 57) ++ leBytes 8 (agentOf w + 65536 * w.stall.toNat)
        let s := match s.vwrite (dieOf core) p va bs with | .ok t => t.logDev p 4 3 1 agent | .error _ => s
        .next ((s.updCore core (fun c => { c with profPtr := (w.slot + 1) % 48, sampled := c.sampled.modify w.stall.toNat (· + 1) })).updPart p (fun x => { x with profWrite := x.profWrite + 1#64 }))

/-- UNCORRECTABLE_ERROR (R261): cause 63 becomes pending, with the error's source in DETAIL. -/
def execUncorrectableError (w src : Nat) (s : State) : Host.Outcome State Fault Refusal :=
  match s.wave? w with
  | none => .next s
  | some x => .next (s.pendCause w 63#6 { asyncRec s x 63#6 0#64 with detail := BitVec.ofNat 16 src })

end Sys2Proof.Machine
end

