-- ==== Sys2Proof/Machine/Fabric.lean ====
section
/-! DEFINITION. Configuration images of the newt arrays (R299-R307, R316): frames, the checks the base die makes, the pads
and channels an image describes, and how switches, corners and memory blocks are joined (R296, R305). -/

namespace Sys2Proof.Machine

open Sys2Proof

/-- A frame of a configuration image. -/
abbrev Frame := BitVec 256
/-- Bits [hi:lo] of a frame. -/
def fr (f : Frame) (hi lo : Nat) : Nat := bitsOf f.toNat hi lo

/-! ## CRC-32C (R301) -/

/-- One byte into a CRC-32C, reflected polynomial 0x82F63B78. R301 names the code and does not spell it out (log entry
25, PRESUMED). -/
def crcByte (c b : Nat) : Nat :=
  (List.range 8).foldl (fun c _ => if c % 2 = 1 then Nat.xor (c / 2) 0x82F63B78 else c / 2) (Nat.xor c b)
def crc32c (bs : List Byte) : Nat := Nat.xor (bs.foldl (fun c b => crcByte c b.toNat) 0xFFFFFFFF) 0xFFFFFFFF

/-! ## The image (R299-R306) -/

/-- An image read from memory: its header, the 46 frames of each pad, and its AG frames. -/
structure Image where
  header : Frame
  pads : List (List Frame)
  ags : List Frame
  deriving DecidableEq, Repr

/-- NPAD and NSTREAM of an image header. -/
def headerPads (h : Frame) : Nat := fr h 215 212 + 1
def headerStreams (h : Frame) : Nat := fr h 211 205

/-- DETAIL 1: MAGIC, VERSION, LEN or a reserved bit of the header. -/
def headerOk (h : Frame) : Bool :=
  fr h 239 224 = 0x4E57 && fr h 223 216 = 1 && decide (headerStreams h ≤ 64) && fr h 204 192 = 0 && fr h 175 128 = 0 && fr h 127 0 = 0
    && fr h 191 176 = 1 + 46 * headerPads h + headerStreams h

/-- A frame stands where its KIND and INDEX say. -/
def frameIs (f : Frame) (kind index : Nat) : Bool := fr f 255 248 = kind && fr f 247 240 = index

/-- DETAIL 2 on a pad's frames. -/
def padKindsOk (p : Nat) (fs : List Frame) : Bool :=
  fs.zipIdx.all (fun x =>
    if x.2 = 0 then frameIs x.1 2 p && fr x.1 239 33 = 0
    else if x.2 ≤ 16 then frameIs x.1 3 (x.2 - 1)
    else if x.2 ≤ 20 then frameIs x.1 4 (x.2 - 17)
    else frameIs x.1 5 (x.2 - 21))

/-- DETAIL 3: CHECK, when CHK_EN is set. -/
def padCheckOk (fs : List Frame) : Bool :=
  match fs with
  | [] => true
  | h :: rest => fr h 32 32 = 0 || crc32c (rest.flatMap (fun f => leBytes 32 f.toNat)) = fr h 31 0

/-! ### PE frames (R302, R310) -/

def peOp (f : Frame) : Nat := fr f 239 234
def peTy (f : Frame) : Option Ty := Ty.ofCode (BitVec.ofNat 5 (fr f 233 229))
def peOut (f : Frame) : Option Ty := Ty.ofCode (BitVec.ofNat 5 (fr f 228 224))
/-- IN0-IN2: the corner of an enabled input. -/
def peIn (f : Frame) (x : Nat) : Option Nat :=
  let v := fr f (215 - 4 * x) (212 - 4 * x)
  if 8 ≤ v then some (v % 4) else none

/-- A type with a lane width (R297). -/
def hasLanes (t : Ty) : Bool := decide (t.width ≤ 32)

/-- The FMT that an operation allows. Log entry 88 (DEDUCED). -/
def peTyOk (op : Nat) (t : Ty) : Bool :=
  match op with
  | 0x01 | 0x30 | 0x31 | 0x35 | 0x36 => hasLanes t
  | 0x02 | 0x03 | 0x04 | 0x06 | 0x07 | 0x0A => [Ty.f32, .bf16, .i32, .n32].contains t
  | 0x05 | 0x21 | 0x22 | 0x23 => [Ty.f32, .bf16].contains t
  | 0x08 | 0x09 => [Ty.f32, .bf16, .i32].contains t
  | 0x0B => t.width = 16 || t.width = 32
  | 0x0C | 0x0D | 0x0E | 0x0F | 0x24 | 0x25 | 0x26 | 0x27 | 0x2A => t = .f32
  | 0x10 | 0x11 | 0x12 | 0x13 => t = .b32
  | 0x14 => [Ty.b32, .i32].contains t
  | 0x20 => [Ty.f32, .bf16, .e4m3, .e5m2, .e2m1, .sb8, .sb4].contains t
  | 0x28 => cvtSources.contains t && hasLanes t
  | 0x29 => [Ty.sb8, .sb4].contains t
  | 0x32 => t.width = 8 || t.width = 16 || t.width = 32
  | 0x33 => [Ty.f32, .n32].contains t
  | 0x34 => t = .n32
  | _ => false

/-- Inputs that an operation needs enabled. -/
def peNeeds (op : Nat) : Nat :=
  match op with
  | 0x34 | 0x35 => 0
  | 0x05 | 0x0B => 3
  | 0x20 | 0x24 | 0x25 | 0x26 | 0x30 | 0x32 | 0x33 => 2
  | _ => 1
/-- Inputs that an operation reads when they are enabled. -/
def peReads (op : Nat) : Nat :=
  match op with
  | 0x02 | 0x03 | 0x04 | 0x06 | 0x07 | 0x0A | 0x10 | 0x11 | 0x12 | 0x13 | 0x14 => 2
  | 0x24 | 0x25 | 0x26 => 3
  | _ => peNeeds op

/-- Operations that accumulate (R311). -/
def peAccumulates (op : Nat) : Bool := decide (0x20 ≤ op) && decide (op ≤ 0x23)

/-- DETAIL 4. Log entry 88 (DEDUCED). -/
def peFrameOk (f : Frame) : Bool :=
  let op := peOp f
  if op = 0 then fr f 239 0 = 0
  else
    let ins := [0, 1, 2].filterMap (peIn f)
    let outm := fr f 203 200
    (match peTy f with | some t => peTyOk op t | none => false)
      && (if op = 0x28 then (match peOut f with | some t => cvtTargets.contains t && hasLanes t | none => false)
          else if op = 0x2A then peOut f = some .e4m3 || peOut f = some .e2m1
          else fr f 228 224 = 0)
      && decide (fr f 223 222 ≤ 1)
      && (if op = 0x0A then decide (fr f 221 219 ≤ 5) else fr f 221 219 = 0)
      && fr f 218 216 = 0 && fr f 195 192 = 0 && fr f 79 0 = 0
      && [0, 1, 2].all (fun x => !bit (fr f (215 - 4 * x) (212 - 4 * x)) 2)
      && (List.range (peNeeds op)).all (fun x => (peIn f x).isSome)
      && ins.eraseDups.length = ins.length
      && (op = 0x36 || outm ≠ 0) && (op ≠ 0x31 || fr f 199 196 ≠ 0)
      && ((op ≠ 0x34 && op ≠ 0x35) || fr f 159 128 ≠ 0)
      && (op ≠ 0x2A || fr f 95 95 = 1 || fr f 165 160 ≠ 0)

/-! ### MB frames and channels (R303, R304) -/

/-- A channel slot of an MB frame. -/
def mbSlot (f : Frame) (k : Nat) : Nat := fr f (32 * k + 31) (32 * k)
def slotOn (v : Nat) : Bool := bit v 31
def slotChan (mb v : Nat) : Chan :=
  { chan := bitsOf v 30 27, mb := mb, src := bitsOf v 26 24, dst := bitsOf v 23 21, tpad := bitsOf v 20 17, tchan := bitsOf v 16 13
    tfwd := bit v 12, depth := bitsOf v 7 0, q := [], reserved := 0 }
/-- The channels of a pad, MB by MB and slot by slot. -/
def padChans (fs : List Frame) : List Chan :=
  (List.range 4).flatMap (fun m =>
    let f := fs.getD (17 + m) 0#256
    (List.range 4).filterMap (fun k => if slotOn (mbSlot f k) then some (slotChan m (mbSlot f k)) else none))

/-- The slots of one MB frame, taken alone. -/
def mbFrameOk (m : Nat) (f : Frame) : Bool :=
  let vs := (List.range 4).map (mbSlot f)
  let on := vs.filter slotOn
  let cs := on.map (slotChan m)
  let once (xs : List Nat) : Bool := let ys := xs.filter (· ≠ 5); decide (ys.eraseDups.length = ys.length)
  fr f 239 128 = 0 && vs.all (fun v => bitsOf v 11 8 = 0)
    && (vs.takeWhile slotOn).length = on.length
    && cs.all (fun c => decide (c.src ≤ 5) && decide (c.dst ≤ 5) && c.depth ≠ 0)
    && decide (cs.foldl (fun n c => n + c.depth) 0 ≤ 128)
    && once (cs.map Chan.src) && once (cs.map Chan.dst)

/-- DETAIL 5 over a whole image: each MB, channel numbers within a pad, and the targets of forwarding channels. -/
def chansOk (pads : List (List Frame)) : Bool :=
  let chans := pads.map padChans
  let fwds := chans.flatMap (fun cs => (cs.filter Chan.tfwd).map (fun c => (c.tpad, c.tchan)))
  pads.all (fun fs => (List.range 4).all (fun m => mbFrameOk m (fs.getD (17 + m) 0#256)))
    && chans.all (fun cs => (cs.map Chan.chan).eraseDups.length = cs.length)
    && fwds.eraseDups.length = fwds.length
    && fwds.all (fun t => (chans.getD t.1 []).any (fun c => c.chan = t.2 && c.src = 5))

/-! ### Switches (R295, R296, R305) -/

/-- Where an output port of switch `idx` leads. -/
inductive Tgt where
  | sw (idx port : Nat)
  | mb (m att : Nat)
  | pe (n corner : Nat)
  | absent
  deriving DecidableEq, Repr

def portTgt (idx o : Nat) : Tgt :=
  let i := idx / 5
  let j := idx % 5
  match o with
  | 0 => if i = 0 then .mb 0 j else .sw (idx - 5) 2
  | 1 => if j = 4 then .mb 1 i else .sw (idx + 1) 3
  | 2 => if i = 4 then .mb 2 j else .sw (idx + 5) 0
  | 3 => if j = 0 then .mb 3 i else .sw (idx - 1) 1
  | 4 => if i = 0 || j = 0 then .absent else .pe (4 * (i - 1) + j - 1) 2
  | 5 => if i = 0 || j = 4 then .absent else .pe (4 * (i - 1) + j) 3
  | 6 => if i = 4 || j = 4 then .absent else .pe (4 * i + j) 0
  | _ => if i = 4 || j = 0 then .absent else .pe (4 * i + j - 1) 1

/-- The switch and its port at a PE's corner. -/
def cornerPort (n c : Nat) : Nat × Nat :=
  let at_ := 5 * (n / 4) + n % 4
  match c with
  | 0 => (at_, 6)
  | 1 => (at_ + 1, 7)
  | 2 => (at_ + 6, 4)
  | _ => (at_ + 5, 5)
/-- The switch and its port at an attachment of an MB. -/
def attPort (m a : Nat) : Nat × Nat :=
  match m with
  | 0 => (a, 0)
  | 1 => (5 * a + 4, 1)
  | 2 => (20 + a, 2)
  | _ => (5 * a, 3)

/-- The input that feeds output `o`, when the output is enabled. -/
def swSel (sel : Word) (o : Nat) : Option Nat :=
  let v := bitsOf sel.toNat (4 * o + 3) (4 * o)
  if 8 ≤ v then some (v % 8) else none

/-- DETAIL 6. -/
def swFrameOk (idx : Nat) (f : Frame) : Bool :=
  fr f 239 32 = 0 && (List.range 8).all (fun o =>
    match swSel (word (fr f 31 0)) o with
    | none => true
    | some i => portTgt idx o ≠ .absent && portTgt idx i ≠ .absent)

/-! ### The base die's checks (R307) -/

/-- The DETAIL under which a whole image fails; a lower DETAIL is found first (log entry 26). -/
def imageDetail (g : Image) : Option Nat :=
  if !headerOk g.header then some 1
  else if !frameIs g.header 1 0 || !g.pads.zipIdx.all (fun x => padKindsOk x.2 x.1) || !g.ags.zipIdx.all (fun x => frameIs x.1 6 x.2) then some 2
  else if !g.pads.all padCheckOk then some 3
  else if !g.pads.all (fun fs => (List.range 16).all (fun n => peFrameOk (fs.getD (1 + n) 0#256))) then some 4
  else if !chansOk g.pads then some 5
  else if !g.pads.all (fun fs => (List.range 25).all (fun k => swFrameOk k (fs.getD (21 + k) 0#256))) then some 6
  else none

/-! ## The running configuration -/

/-- Initial accumulator value of an operation (R311). -/
def accStart (op : Nat) : Word := if op = 0x22 then 0xFF800000#32 else if op = 0x23 then 0x7F800000#32 else 0#32
/-- A PE at the start of its configuration. -/
def Pe.start (f : Frame) (imm : Word) : Pe :=
  { frame := f, imm := imm, corner := List.replicate 4 [], acc := List.replicate 8 (accStart (peOp f)), count := 0, wcount := 0
    latch := [none, none, none], blockPos := [0, 0, 0], elemPos := [0, 0, 0], out := [], done := false, ended := [false, false]
    side := 0, held := [], emitted := 0 }
def Switch.start (f : Frame) : Switch := { sel := word (fr f 31 0), inbuf := List.replicate 8 [] }

/-- Slots of a channel. -/
def Chan.capacity (c : Chan) : Nat := 16 * c.depth
def Chan.room (c : Chan) : Bool := decide (c.q.length + c.reserved < c.capacity)
def Pad.chan? (p : Pad) (n : Nat) : Option Chan := p.chans.find? (fun c => c.chan = n)
def Pad.updChan (p : Pad) (n : Nat) (f : Chan → Chan) : Pad :=
  { p with chans := p.chans.map (fun c => if c.chan = n then f c else c) }
/-- The channel that an attachment's producer side feeds. -/
def Pad.srcChan (p : Pad) (m a : Nat) : Option Chan := p.chans.find? (fun c => c.mb = m && c.src = a)

/-- Tokens that stand between a switch input and the PEs that it feeds: the longest way to one (R293). -/
def Pad.ahead (p : Pad) : (fuel : Nat) → (idx port : Nat) → Nat
  | 0, _, _ => 0
  | n + 1, idx, port =>
    match p.switches[idx]? with
    | none => 0
    | some x =>
      (x.inbuf.getD port []).length + ((List.range 8).filter (fun o => swSel x.sel o = some port)).foldl (fun m o =>
        max m (match portTgt idx o with
          | .sw j q => p.ahead n j q
          | .pe k c => (match p.pes[k]? with | some pe => (pe.corner.getD c []).length | none => 0)
          | _ => 0)) 0
/-- An input stream may reserve a slot of its channel: fewer than 16 x DEPTH of its tokens are still to be consumed, those on
their way to the PEs included (R293, R328). -/
def Pad.mayReserve (p : Pad) (c : Chan) : Bool :=
  let way := if 4 < c.dst then 0 else (let (idx, port) := attPort c.mb c.dst; p.ahead 200 idx port)
  decide (c.q.length + c.reserved + way < c.capacity)

/-- The input of a PE at a corner. -/
def Pe.inputAt (pe : Pe) (c : Nat) : Option Nat := [0, 1, 2].find? (fun x => peIn pe.frame x = some c)

/-- A place can take a token: a switch input holds up to two, a PE's corner one (log entry 27), a channel its depth. -/
def Pad.canTake (p : Pad) : Tgt → Bool
  | .absent => false
  | .sw idx port => match p.switches[idx]? with | some x => decide ((x.inbuf.getD port []).length < 2) | none => false
  | .mb m a => match p.srcChan m a with | some c => c.room | none => false
  | .pe n c =>
    match p.pes[n]? with
    | some x => (x.inputAt c).isSome && (x.corner.getD c []).isEmpty
    | none => false
/-- Put a token there. -/
def Pad.put (p : Pad) (t : Token) : Tgt → Pad
  | .absent => p
  | .sw idx port => { p with switches := p.switches.modify idx (fun (x : Switch) => { x with inbuf := x.inbuf.modify port (· ++ [t]) }) }
  | .mb m a => match p.srcChan m a with | some c => p.updChan c.chan (fun c => { c with q := c.q ++ [t] }) | none => p
  | .pe n c => { p with pes := p.pes.modify n (fun (x : Pe) => { x with corner := x.corner.modify c (· ++ [t]) }) }

/-- R305: a switch passes the token at the head of an input to every output that the input feeds, once all can take it.
Log entry 27 (DEDUCED). -/
def Pad.moveSw (p : Pad) (idx input : Nat) : Pad :=
  match p.switches[idx]? with
  | none => p
  | some x =>
    match x.inbuf.getD input [] with
    | [] => p
    | t :: rest =>
      let outs := ((List.range 8).filter (fun o => swSel x.sel o = some input)).map (portTgt idx)
      if outs.isEmpty || !outs.all p.canTake then p
      else
        let p := { p with switches := p.switches.modify idx (fun (x : Switch) => { x with inbuf := x.inbuf.set input rest }) }
        outs.foldl (fun p o => p.put t o) p

/-- The oldest token of a channel leaves by the attachment that is its consumer. Log entry 27 (DEDUCED). -/
def Pad.moveAttach (p : Pad) (n : Nat) : Pad :=
  match p.chan? n with
  | none => p
  | some c =>
    match c.q with
    | [] => p
    | t :: rest =>
      let (idx, port) := attPort c.mb c.dst
      if 4 < c.dst || !p.canTake (.sw idx port) then p
      else (p.updChan n (fun c => { c with q := rest })).put t (.sw idx port)

/-- A forwarding channel's oldest token crosses the mesh to its target channel (R303, R304). -/
def forwardToken (ps : List Pad) (pad n : Nat) : List Pad :=
  match (ps[pad]?).bind (fun p => p.chan? n) with
  | none => ps
  | some c =>
    match c.q, (ps[c.tpad]?).bind (fun p => p.chan? c.tchan) with
    | t :: rest, some d =>
      if !c.tfwd || c.dst ≠ 5 || !d.room then ps
      else (ps.modify pad (fun p => p.updChan n (fun c => { c with q := rest }))).modify c.tpad (fun p =>
        p.updChan c.tchan (fun d => { d with q := d.q ++ [t] }))
    | _, _ => ps

/-- Tokens that rest in channels and switches: what a completed configuration discards (R315). -/
def Pad.tokens (p : Pad) : List Token :=
  p.chans.flatMap Chan.q ++ p.switches.flatMap (fun x => x.inbuf.flatMap id)

end Sys2Proof.Machine
end

