-- ==== Sys2Proof/Machine/Pe.lean ====
section
/-! DEFINITION. What a PE computes (R309-R314): latching burst headers (R220, R221), the operations lane by lane, the
accumulators and their emission, bursts packed and unpacked, and one move of a PE. -/

namespace Sys2Proof.Machine

open Sys2Proof

/-! ## Tokens (R297) -/

/-- Lane `j` of a token's data at a width; a lane above FILL is absent and reads as +0. -/
def Token.lane (t : Token) (w j : Nat) : Nat :=
  if j ≤ t.fill.toNat then bitsOf t.data.toNat (w * j + w - 1) (w * j) else 0
/-- A token of lanes; `fill` is the number of valid ones minus one. -/
def mkToken (owner : BitVec 6) (w : Nat) (xs : List Nat) (fill : Nat) (last : Bool) : Token :=
  { data := BitVec.ofNat 128 (xs.zipIdx.foldl (fun n x => n + x.1 % 2 ^ w * 2 ^ (w * x.2)) 0), owner := owner, kind := 0#2
    last := last, fill := BitVec.ofNat 6 fill }
/-- Elements in tokens of `per`, in order; LAST on the last token when the emission is the PE's last. -/
def packTokens (owner : BitVec 6) (w : Nat) (last : Bool) (xs : List Nat) : List Token :=
  let per := 128 / w
  let n := (xs.length + per - 1) / per
  (List.range n).map (fun i =>
    let ys := (xs.drop (per * i)).take per
    mkToken owner w ys (ys.length - 1) (last && i + 1 = n))

/-! ## Burst streams (R220, R221) -/

def isBurst (t : Ty) : Bool := t = .sb8 || t = .sb4
/-- Elements of a payload token. -/
def burstLanes (t : Ty) : Nat := if t = .sb8 then 16 else 32
def burstEtype (t : Ty) : Nat := if t = .sb8 then 0 else 1
/-- BLEN and BEXP of a latched header. -/
def hdrBlen (h : Word) : Nat := bitsOf h.toNat 13 8
def hdrBexp (h : Word) : Nat := bitsOf h.toNat 7 0

/-- The check of a header token by its consumer, for the format of its stream: the DETAIL of the lowest condition of R334 that holds.
Log entry 88 (DEDUCED). -/
def headerDetail (t : Ty) (pos : Nat) (data : Nat) : Option Nat :=
  if bitsOf data 19 16 ≠ burstEtype t then some 17
  else if bitsOf data 13 8 = 0 then some 18
  else if bitsOf data 127 32 ≠ 0 || bit data 15 then some 19
  else if bitsOf data 31 20 ≠ pos % 4096 then some 20
  else none

/-- The burst type in which the payload tokens of an input are read: that of its latched header's ETYPE (R221). -/
def Pe.wire (pe : Pe) (t : Ty) (x : Nat) : Ty :=
  if isBurst t then (match pe.latch.getD x none with | some h => if bitsOf h.toNat 19 16 = 0 then .sb8 else .sb4 | none => t) else t
/-- Valid elements of the payload token that input `x` reads next, and the position in its block that it opens at. -/
def Pe.payload (pe : Pe) (t : Ty) (x : Nat) : Nat × Nat :=
  let blen := match pe.latch.getD x none with | some h => hdrBlen h | none => 0
  let at_ := let p := pe.blockPos.getD x 0; if blen ≤ p then 0 else p
  (min (burstLanes (pe.wire t x)) (blen - at_), at_)
/-- An element's value in a PE: by its FMT, and that of a burst by the latched ETYPE and BEXP (R221). -/
def Pe.value (pe : Pe) (t : Ty) (x bits : Nat) : Fp :=
  if isBurst t then
    match pe.latch.getD x none with | some h => sbValue (burstFmt (pe.wire t x)) bits (hdrBexp h) | none => .nan
  else match t.fmt with | some f => f.value bits | none => .nan

/-! ## Sums (R230) -/

/-- The exact sum of some terms with the specials of R117. -/
def sumExact (xs : List Fp) : Exact :=
  let infs := xs.filterMap (fun x => match x with | .inf n => some n | _ => none)
  if xs.contains .nan || (infs.contains true && infs.contains false) then .nan
  else
    match infs with
    | n :: _ => .inf n
    | [] =>
      let d := xs.foldl (fun a x => Dy.add a x.dy) (Dy.mk 0 0)
      d.exact (xs.all (fun x => x.isZero && x.neg?) && !xs.isEmpty)
def toF32 (x : Exact) : Nat := (Fmt.f32.roundExact .rn 0 x).code
def f32Sum (a b : Nat) : Nat := toF32 (fpAdd .rn (Fmt.f32.value a) (Fmt.f32.value b))

/-- One level of the pairwise tree of R129 and R230: an absent node drops out. -/
def pairUp (f : Nat → Nat → Nat) : List (Option Nat) → List (Option Nat)
  | a :: b :: rest =>
    (match a, b with | some x, some y => some (f x y) | some x, none => some x | none, y => y) :: pairUp f rest
  | xs => xs
/-- The pairwise tree, level by level. -/
def pairTree (f : Nat → Nat → Nat) : (levels : Nat) → List (Option Nat) → Nat
  | 0, xs => (xs.head?.join).getD 0
  | n + 1, xs => pairTree f n (pairUp f xs)

/-! ## Lane operations (R310) -/

/-- A binary operation on floating or integer lanes. -/
def peArith (op : Nat) (t : Ty) (a b : Nat) : Nat :=
  match t.fmt with
  | some f =>
    let x := f.value a
    let y := f.value b
    match op with
    | 0x02 => (f.roundExact .rn 0 (fpAdd .rn x y)).code
    | 0x03 => (f.roundExact .rn 0 (fpSub .rn x y)).code
    | 0x04 => (f.roundExact .rn 0 (fpMul x y)).code
    | 0x06 => f.minMax false a b
    | _ => f.minMax true a b
  | none =>
    let x := t.toInt a
    let y := t.toInt b
    match op with
    | 0x02 => wrapBits t (x + y)
    | 0x03 => wrapBits t (x - y)
    | 0x04 => wrapBits t (x * y)
    | 0x06 => wrapBits t (min x y)
    | _ => wrapBits t (max x y)

/-- abs and neg. -/
def peSign (op : Nat) (t : Ty) (a : Nat) : Nat :=
  match t.fmt with
  | some f =>
    if op = 0x08 then a % 2 ^ f.signBit else if bit a f.signBit then a - 2 ^ f.signBit else a + 2 ^ f.signBit
  | none => let x := t.toInt a; wrapBits t (if op = 0x08 then x.natAbs else -x)

/-- Lane `j` of the output of an operation that works lane by lane. Log entry 84 (DEDUCED). -/
def peLane (op : Nat) (t : Ty) (cond a b c : Nat) : Nat :=
  let w := t.width
  let f32 (x : Exact) : Nat := toF32 x
  match op with
  | 0x01 => a
  | 0x05 => match t.fmt with | some f => (f.roundExact .rn 0 (fpFma .rn (f.value a) (f.value b) (f.value c))).code | none => 0
  | 0x08 | 0x09 => peSign op t a
  | 0x0A => if condBits t false cond a b then 2 ^ w - 1 else 0
  | 0x0B => if c ≠ 0 then a else b
  | 0x0C => f32 (fpExp2 (Fmt.f32.value a))
  | 0x0D => f32 (fpLog2 (Fmt.f32.value a))
  | 0x0E => f32 (fpRcp (Fmt.f32.value a))
  | 0x0F => f32 (fpRsqrt (Fmt.f32.value a))
  | 0x10 => Nat.land a b
  | 0x11 => Nat.lor a b
  | 0x12 => Nat.xor a b
  | 0x13 => wrapBits t (shlInt t (t.toInt a) b)
  | 0x14 => wrapBits t (shrInt t (t.toInt a) b)
  | _ => peArith op t a b

/-! ## Accumulators (R311) -/

/-- The accumulators in use, and the elements per accumulator. -/
def accUsed (t : Ty) : Nat := if t = .f32 then 4 else 8
def accGroup (t : Ty) : Nat :=
  match t with
  | .f32 | .bf16 => 1
  | .e2m1 | .sb4 => 4
  | _ => 2

/-- One firing of an accumulating operation, from the values of the elements. Log entry 84 (DEDUCED). -/
def accFire (op : Nat) (t : Ty) (acc : List Word) (a b : Nat → Fp) (raw : Nat → Nat) : List Word :=
  acc.zipIdx.map (fun x =>
    let j := x.2
    if accUsed t ≤ j then x.1
    else
      let old := Fmt.f32.value x.1.toNat
      match op with
      | 0x20 => word (toF32 (sumExact (old :: (List.range (accGroup t)).map (fun i => Fp.mul (a (j * accGroup t + i)) (b (j * accGroup t + i))))))
      | 0x21 => word (toF32 (fpAdd .rn old (a j)))
      | _ => word (Fmt.f32.minMax (op = 0x22) x.1.toNat (if t = .f32 then raw j else toF32 (a j).exact)))

/-- What the used accumulators emit: one element by the tree of the operation, or all of them in tokens of four.
Log entries 78 (DEDUCED), 84 (DEDUCED). -/
def accEmit (owner : BitVec 6) (op : Nat) (t : Ty) (red last : Bool) (acc : List Word) : List Token :=
  let xs := (acc.take (accUsed t)).map BitVec.toNat
  let f := if op = 0x22 then Fmt.f32.minMax true else if op = 0x23 then Fmt.f32.minMax false else f32Sum
  if red then [mkToken owner 32 [pairTree f 3 (xs.map some)] 0 last] else packTokens owner 32 last xs

/-! ## pksb (R313) -/

/-- BEXP of a block of FP32 codes. -/
def burstExp (et : Ty) (xs : List Nat) : Nat :=
  let e : Int := if et = .e4m3 then 8 else 2
  let vs := xs.map Fmt.f32.value
  if vs.any (fun v => match v with | .inf _ => true | _ => false) then 254
  else
    let ms := vs.filterMap (fun v => match v with | .fin _ m k => if m = 0 then none else some ((Nat.log2 m : Int) + k) | _ => none)
    match ms with
    | [] => 127
    | m :: ms => (max 0 (min 254 (ms.foldl max m - e + 127))).toNat
/-- The code of an element under a block's exponent. -/
def burstElem (et : Ty) (bexp x : Nat) : Nat :=
  let f : Fmt := if et = .e4m3 then .e4m3 else .e2m1
  match Fmt.f32.value x with
  | .nan => if et = .e4m3 then 0x7F else 0
  | .inf n => f.withSign n f.maxCode
  | v => (f.roundExact .rn 0 (fpScale v (127 - (bexp : Int)))).code
/-- A block's header and payload tokens; `before` is the count of elements emitted before it. -/
def burstBlock (owner : BitVec 6) (et : Ty) (before : Nat) (final : Bool) (xs : List Nat) : List Token :=
  let bexp := burstExp et xs
  let w := if et = .e4m3 then 8 else 4
  let per := 128 / w
  let h := before % 4096 * 2 ^ 20 + (if et = .e4m3 then 0 else 1) * 2 ^ 16 + (if final then 2 ^ 14 else 0) + xs.length * 2 ^ 8 + bexp
  let cs := xs.map (burstElem et bexp)
  let n := (cs.length + per - 1) / per
  { data := BitVec.ofNat 128 h, owner := owner, kind := 1#2, last := false, fill := 0#6 : Token } ::
    (List.range n).map (fun i => mkToken owner w ((cs.drop (per * i)).take per) (per - 1) (final && i + 1 = n))

/-- Complete blocks of `len` elements, and at the end the rest: the tokens, the elements left and the new count. -/
def burstPack (owner : BitVec 6) (et : Ty) (len : Nat) (done : Bool) : (fuel before : Nat) → List Nat → List Token × List Nat × Nat
  | 0, before, xs => ([], xs, before)
  | fuel + 1, before, xs =>
    if xs.isEmpty || (xs.length < len && !done) then ([], xs, before)
    else
      let ys := xs.take len
      let (ts, rest, n) := burstPack owner et len done fuel (before + ys.length) (xs.drop len)
      (burstBlock owner et before (done && decide (xs.length ≤ len)) ys ++ ts, rest, n)

/-- upd (R298, R310): one update token for each (index, operand) pair, in order. -/
def updTokens (owner : BitVec 6) (uop : Nat) (done : Bool) (xs : List (Nat × Nat)) : List Token :=
  xs.zipIdx.map (fun x =>
    { data := BitVec.ofNat 128 (uop * 2 ^ 64 + x.1.2 * 2 ^ 32 + x.1.1), owner := owner, kind := 2#2
      last := done && decide (x.2 + 1 = xs.length), fill := 0#6 })

/-! ## A firing (R309, R310) -/

/-- The inputs that the next firing reads: merge reads one side, in0 first. -/
def Pe.reads (pe : Pe) : List Nat :=
  let op := peOp pe.frame
  if op = 0x30 then [if pe.ended.getD pe.side false then 1 - pe.side else pe.side]
  else (List.range (peReads op)).filter (fun x => (peIn pe.frame x).isSome)
/-- The token at an input's corner. -/
def Pe.at_ (pe : Pe) (x : Nat) : Option Token := (peIn pe.frame x).bind (fun c => (pe.corner.getD c []).head?)
/-- Take the token at an input. -/
def Pe.take (pe : Pe) (x : Nat) : Pe :=
  match peIn pe.frame x with | some c => { pe with corner := pe.corner.modify c (·.drop 1) } | none => pe

/-- What a PE finds wrong in the token at an input (R308, R334): its DETAIL. `want x` is the format of the stream that input `x` reads. -/
def Pe.tokenDetail (pe : Pe) (ty : Ty) (want : Nat → Ty) (x : Nat) (t : Token) : Option Nat :=
  match t.kind.toNat with
  | 0 =>
    if 128 / ty.width ≤ t.fill.toNat then some 9
    else if isBurst ty && (pe.latch.getD x none).isNone then some 16 else none
  | 1 => if isBurst ty then headerDetail (want x) (pe.elemPos.getD x 0) t.data.toNat else some 9
  | _ => some 9

/-- Latch the header tokens that stand at the inputs (R221, R309). Log entry 88 (DEDUCED). -/
def Pe.latchHeaders (pe : Pe) : Pe :=
  (List.range 3).foldl (fun pe x =>
    match pe.at_ x with
    | some t =>
      if t.kind = 1#2 then { (pe.take x) with latch := pe.latch.set x (some (t.data.extractLsb' 0 32)), blockPos := pe.blockPos.set x 0 }
      else pe
    | none => pe) pe

/-- What a firing emits: corner masks and tokens, with the PE after it. `done` says that it is the last firing, `n` its
number. Log entry 84 (DEDUCED). -/
def Pe.emit (pe : Pe) (owner : BitVec 6) (ty : Ty) (n : Nat) (done : Bool) (toks : Nat → Option Token) : Pe × List (BitVec 4 × Token) :=
  let f := pe.frame
  let op := peOp f
  let w := ty.width
  let outm : BitVec 4 := BitVec.ofNat 4 (fr f 203 200)
  let out2 : BitVec 4 := BitVec.ofNat 4 (fr f 199 196)
  let via (m : BitVec 4) (ts : List Token) : List (BitVec 4 × Token) := ts.map (fun t => (m, t))
  let imm := pe.imm.toNat
  let t0 := (toks 0).getD (mkToken owner 32 [] 0 false)
  let fill := t0.fill.toNat
  let (valid, _) := pe.payload ty 0
  -- elements of input x that are present in its token
  let count (x : Nat) : Nat :=
    match toks x with
    | none => 0
    | some t => if isBurst ty then min (t.fill.toNat + 1) (pe.payload ty x).1 else t.fill.toNat + 1
  let lane (x j : Nat) : Nat :=
    match toks x with
    | some t => if j < count x then t.lane (pe.wire ty x).width j else 0
    | none => imm % 2 ^ w
  let val (x j : Nat) : Fp := if j < count x then pe.value ty x (lane x j) else .fin false 0 0
  let same (xs : List Nat) : List Token := [mkToken owner w xs fill done]
  if peAccumulates op then
    let acc := accFire op ty pe.acc (val 0) (val 1) (lane 0)
    let wn := pe.wcount + 1
    if (fr f 127 96 ≠ 0 && wn = fr f 127 96) || done then
      ({ pe with acc := List.replicate 8 (accStart op), wcount := 0 }, via outm (accEmit owner op ty (fr f 223 222 = 1) done acc))
    else ({ pe with acc := acc, wcount := wn }, [])
  else
    match op with
    | 0x36 => (pe, [])
    | 0x31 =>
      let first := decide (n ≤ imm)
      (pe, [(if first then outm else out2, { t0 with owner := owner, last := done || (first && n = imm) })])
    | 0x30 =>
      let side := (pe.reads.head?).getD 0
      let t := (toks side).getD t0
      let ended := if t.last then pe.ended.set side true else pe.ended
      ({ pe with ended := ended, side := 1 - side }, [(outm, { t with owner := owner, last := done })])
    | 0x01 => (pe, [(outm, { t0 with owner := owner, last := done })])
    | 0x24 | 0x25 | 0x26 =>
      let g : Nat → Nat → Nat := if op = 0x24 then f32Sum else Fmt.f32.minMax (op = 0x25)
      let ins := [0, 1, 2].filterMap toks
      let top := ins.foldl (fun m t => max m t.fill.toNat) 0
      let at_ (j : Nat) : Nat :=
        match ins.filterMap (fun t => if j ≤ t.fill.toNat then some (t.lane 32 j) else none) with
        | [] => 0
        | y :: ys => Fmt.f32.canon (ys.foldl g y)
      (pe, via outm [mkToken owner 32 ((List.range (top + 1)).map at_) top done])
    | 0x27 =>
      let xs := (List.range 4).map (fun j => if j < count 0 then some (lane 0 j) else none)
      (pe, via outm [mkToken owner 32 [Fmt.f32.canon (pairTree f32Sum 2 xs)] 0 done])
    | 0x28 =>
      let ot := (peOut f).getD .f32
      let xs := (List.range (fill + 1)).map (fun j => (convertTo ot .rn 0 false false ty (lane 0 j)).code)
      if ot.width ≤ w then (pe, via outm [mkToken owner ot.width xs fill done]) else (pe, via outm (packTokens owner ot.width done xs))
    | 0x29 => (pe, via outm (packTokens owner 32 done ((List.range (min (fill + 1) valid)).map (fun j => toF32 (val 0 j).exact))))
    | 0x2A =>
      let et := (peOut f).getD .e4m3
      let xs := pe.held.map BitVec.toNat ++ (List.range (count 0)).map (lane 0)
      let (ts, rest, k) := burstPack owner et (imm % 64) done (xs.length + 1) pe.emitted xs
      ({ pe with held := rest.map word, emitted := k }, via outm ts)
    | 0x32 =>
      let per := 128 / w
      let xs := pe.held.map BitVec.toNat ++ ((List.range (count 0)).filter (fun j => lane 1 j ≠ 0)).map (lane 0)
      -- a full token is held back until another element follows it, so that the last token sent carries LAST
      let send := if done then xs.length else (xs.length - 1) / per * per
      ({ pe with held := (xs.drop send).map word }, via outm (packTokens owner w done (xs.take send)))
    | 0x33 =>
      (pe, via outm (updTokens owner (imm % 8) done ((List.range (count 0)).map (fun j => (lane 0 j, lane 1 j)))))
    | 0x34 => (pe, via outm [mkToken owner 32 ((List.range 4).map (fun j => imm + 4 * (n - 1) + j)) 3 done])
    | 0x35 => let per := 128 / w; (pe, via outm [mkToken owner w (List.replicate per imm) (per - 1) done])
    | _ => (pe, via outm (same ((List.range (fill + 1)).map (fun j => peLane op ty (fr f 221 219) (lane 0 j) (lane 1 j) (lane 2 j)))))

/-- The PE has taken its firing's tokens: corners, and the place of each burst input in its block. -/
def Pe.consume (pe : Pe) (ty : Ty) (xs : List Nat) : Pe :=
  xs.foldl (fun pe x =>
    let pe' := pe.take x
    if isBurst ty then
      let (k, p) := pe.payload ty x
      { pe' with blockPos := pe.blockPos.set x (p + k), elemPos := pe.elemPos.set x (pe.elemPos.getD x 0 + k) }
    else pe') pe

/-- A firing of the PE, when every input it reads holds a data token: the PE after it, with its emissions in `out`.
Log entry 84 (DEDUCED). -/
def Pe.fire (pe : Pe) (owner : BitVec 6) (ty : Ty) : Option Pe :=
  let xs := pe.reads
  if pe.done || !xs.all (fun x => match pe.at_ x with | some t => t.kind = 0#2 | none => false) then none
  else
    let n := pe.count + 1
    let iter := fr pe.frame 159 128
    let toks (x : Nat) : Option Token := if xs.contains x then pe.at_ x else none
    let lastOf (x : Nat) : Bool := match toks x with | some t => t.last | none => false
    let ends := if peOp pe.frame = 0x30 then
        xs.all lastOf && (pe.ended.getD (1 - (xs.head?).getD 0) false)
      else lastOf 0
    let done := if iter ≠ 0 then n = iter else ends
    let (pe', out) := pe.emit owner ty n done toks
    some { (pe'.consume ty xs) with count := n, done := done, out := out }

/-! ## A PE's move -/

/-- Deliver the oldest token of a PE's output register to the corners that can take it. -/
def Pad.deliver (p : Pad) (n : Nat) : Pad :=
  match p.pes[n]? with
  | none => p
  | some pe =>
    match pe.out with
    | [] => p
    | (m, t) :: rest =>
      let (p, left) := (List.range 4).foldl (fun (acc : Pad × BitVec 4) c =>
        let (idx, port) := cornerPort n c
        if acc.2.getLsbD c && acc.1.canTake (.sw idx port) then (acc.1.put t (.sw idx port), acc.2 &&& ~~~(1#4 <<< c)) else acc) (p, m)
      { p with pes := p.pes.modify n (fun pe => { pe with out := if left = 0#4 then rest else (left, t) :: rest }) }

/-- Every port that the oldest token of a PE's output register feeds can take it. -/
def Pad.outReady (p : Pad) (n : Nat) (out : List (BitVec 4 × Token)) : Bool :=
  match out with
  | [] => true
  | (m, _) :: _ => (List.range 4).all (fun c => !m.getLsbD c || (let (idx, port) := cornerPort n c; p.canTake (.sw idx port)))

/-- One move of a PE (R309): it latches the headers that have arrived, done or not; then it delivers a token of an emission in
progress, or fires when it is ready. A DETAIL of cause 35 when a token at an input is bad, though the PE be done (R308). -/
def Pad.fire (p : Pad) (owner : BitVec 6) (n : Nat) (want : Ty → Nat → Ty) : Except Nat Pad :=
  match p.pes[n]? with
  | none => .ok p
  | some pe =>
    match peTy pe.frame with
    | none => .ok p
    | some ty =>
      if peOp pe.frame = 0 then .ok p
      else
        let seen := (List.range 3).filterMap (fun x => (pe.at_ x).bind (fun t => pe.tokenDetail ty (want ty) x t))
        match seen with
        | d :: _ => .error d
        | [] =>
          let pe := pe.latchHeaders
          let p := { p with pes := p.pes.set n pe }
          if !pe.out.isEmpty then .ok (p.deliver n)
          else if pe.done then .ok p
          else
          match pe.fire owner ty with
          | none => .ok p
          | some pe' => if p.outReady n pe'.out then .ok ({ p with pes := p.pes.set n pe' }.deliver n) else .ok p

end Sys2Proof.Machine
end

