-- ==== Sys2Proof/Machine/Regions.lean ====
section
/-! DEFINITION. Array regions (R41, R253, R254, R284-R293, R315-R322, R335-R340): handles, failures and their traps, the
configuration cache, placement and the start of a configuration, and what ends a region. Streams are in Streams.lean. -/

namespace Sys2Proof.Machine

open Sys2Proof

/-! ## Finding regions (R253, R318) -/

def State.region? (s : State) (k slot : Nat) : Option Region := (s.stack k).regions.find? (fun r => r.slot = slot)
def State.updRegion (s : State) (k slot : Nat) (f : Region → Region) : State :=
  s.updStack k (fun st => { st with regions := st.regions.map (fun r => if r.slot = slot then f r else r) })
/-- The handle: generation, slot and stack. Log entry 85 (DEDUCED). -/
def Region.handle (r : Region) (k : Nat) : Nat := r.gen * 256 + r.slot * 16 + k
/-- The owner id that every token of the region carries (R318). -/
def Region.owner (r : Region) : BitVec 6 := BitVec.ofNat 6 (r.gen % 4 * 16 + r.slot)
/-- The region is over: stopped, complete or failed. -/
def Region.over (r : Region) : Bool := decide (4 ≤ r.state)
/-- The region holds its slot: it is not over, or it still drains. -/
def Region.holdsSlot (r : Region) : Bool := !r.over || !r.frames.isEmpty
/-- The region's tokens and streams move: it runs, or it drains. -/
def Region.active (r : Region) : Bool := !r.frames.isEmpty
/-- The drain has started. -/
def Region.draining (r : Region) : Bool := !r.frames.isEmpty && r.drain.isSome && r.state ≠ 2
/-- Drained, its state in a save record (R337). -/
def Region.drained (r : Region) : Bool := r.state = 3 && r.frames.isEmpty && !r.saveAt.isEmpty
/-- The region a partition's handle names. Log entry 85 (DEDUCED). -/
def State.byHandle (s : State) (p h : Nat) : Option (Nat × Region) :=
  if 11 < h % 16 then none
  else
    match s.region? (h % 16) (h / 16 % 16) with
    | some r => if r.gen = h / 256 && r.part = p then some (h % 16, r) else none
    | none => none

/-- 64 KiB units of the region's save record (R338). -/
def Region.saveUnits (r : Region) : Nat :=
  let n := r.pads.foldl (fun n p => n + 12288 + 288 * p.chans.foldl (fun m c => m + c.depth) 0) (4096 + 64 * r.streams.length)
  (n + 65535) / 65536

/-! ## Pad frames and generators (R319, R322, R330) -/

/-- FRAME k of ARR_ASSIGN0 and ARR_ASSIGN1. -/
def Stack.assign (st : Stack) (k : Nat) : Nat :=
  if k < 8 then bitsOf st.arrAssign0.toNat (8 * k + 7) (8 * k) else bitsOf st.arrAssign1.toNat (8 * (k - 8) + 7) (8 * (k - 8))
/-- The frame is assigned to a context with its world. -/
def Stack.assigned (st : Stack) (p : Nat) (world : Bool) (k : Nat) : Bool :=
  let v := st.assign k
  bit v 7 && bit v 6 = world && v % 16 = p
/-- Frames free to a context. -/
def Stack.freeFrames (st : Stack) (p : Nat) (world : Bool) : List Nat :=
  (List.range 16).filter (fun k => st.assigned p world k && !st.busyFrames.contains k && !st.regions.any (fun r => r.frames.contains k))
/-- The frames a reservation takes: one clock region where four or fewer fit in one, else the lowest free ones. -/
def pickFrames (free : List Nat) (n : Nat) : Option (List Nat) :=
  let inRegion (q : Nat) : List Nat := free.filter (fun k => k / 4 = q)
  match (List.range 4).find? (fun q => decide (n ≤ 4) && decide (n ≤ (inRegion q).length)) with
  | some q => some ((inRegion q).take n)
  | none => if n ≤ free.length then some (free.take n) else none

/-- Occupied slots of a generator. -/
def Stack.agLoad (st : Stack) (a : Nat) : Nat :=
  st.regions.foldl (fun n r => if r.frames.isEmpty then n else n + r.streams.countP (fun t => t.ag = a)) 0
/-- Generators for `n` streams, each the one with the fewest occupied slots, the lowest on a tie; none when a stream finds
no slot. -/
def pickAgs : (n : Nat) → (load : List Nat) → Option (List Nat)
  | 0, _ => some []
  | n + 1, load =>
    let least := load.foldl min 4
    if 4 ≤ least then none
    else
      let a := load.findIdx (· = least)
      (pickAgs n (load.modify a (· + 1))).map (a :: ·)

/-! ## Causes and ends (R260, R318, R333-R335) -/

/-- A cause of a region: pending in its issuing wave, or posted to the fault queue when the wave has left (R333). -/
def State.regionCause (s : State) (k : Nat) (r : Region) (code : BitVec 6) (detail stream addr idx : Nat) : State :=
  let h := r.handle k
  match r.wid.bind s.wave? with
  | some x => s.pendCause x.wid code { asyncRec s x code (dword addr) with
      detail := BitVec.ofNat 16 detail, info0 := word h, info1 := word stream, aux := dword idx }
  | none => s.postFault r.part 4 code (dword addr) h k

/-- The cache entries of the image that a region's pad frames hold (R322). Log entry 77 (DEDUCED). -/
def Region.pins (r : Region) (e : CfgEntry) : Bool :=
  !r.frames.isEmpty && r.part = e.part && (r.images.getD r.cfg 0#64).toNat = e.image
def Stack.pinned (st : Stack) (e : CfgEntry) : Bool := st.regions.any (fun r => r.pins e)
/-- Entries marked by CFGC_INV go once they are pinned no longer. Log entry 77 (DEDUCED). -/
def Stack.sweepCache (st : Stack) : Stack := { st with cfgCache := st.cfgCache.filter (fun e => !(e.stale && !st.pinned e)) }

/-- A region that leaves its pad frames for good, in a final state: frames, generator slots and save record are freed.
Log entry 79 (DEDUCED). -/
def State.endRegion (s : State) (k slot state : Nat) : State :=
  match s.region? k slot with
  | none => s
  | some r =>
    let s := if r.drained then s.updPart r.part (fun x => { x with arrSaveUsed := x.arrSaveUsed - r.saveUnits }) else s
    (s.updRegion k slot (fun r => { r with state := state, frames := [], pads := [], streams := [], drain := none, saveAt := [] })).updStack k
      Stack.sweepCache

/-- As a drain starts, a stream at a fault stands stopped at its faulting element (R285). -/
def Stream.cut (t : Stream) : Stream := if t.mark.isSome then { t with stopped := true } else t

/-- A region fails (R307, R308, R333-R335): its state reads 6, its wave learns the cause, and while it holds pad frames it
drains. Log entry 79 (DEDUCED). -/
def State.failRegion (s : State) (k slot : Nat) (code : BitVec 6) (detail stream addr idx : Nat) : State :=
  match s.region? k slot with
  | none => s
  | some r =>
    if r.over then s
    else
      let s := s.regionCause k r code detail stream addr idx
      if r.frames.isEmpty then (s.endRegion k slot 6).updRegion k slot (fun r => { r with failCause := code })
      else s.updRegion k slot (fun r => { r with state := 6, failCause := code, drain := some .fail, streams := r.streams.map Stream.cut })

/-- A request for a drain joins one that is under way (R321, R337). -/
def Region.request (r : Region) (why : DrainWhy) : Region := if r.state = 2 && r.drain.isNone then { r with drain := some why } else r

/-! ## The configuration cache (R322) -/

/-- Frames at an address, or the fault of their read. -/
def State.readFrames (s : State) (die p a n : Nat) : Option (List Frame) :=
  match s.vread die p a (32 * n) with
  | .error _ => none
  | .ok bs => some ((List.range n).map (fun i => BitVec.ofNat 256 (leNat ((bs.drop (32 * i)).take 32))))

/-- Put an entry first, dropping the least recently used one that no placed region pins when there are more than 64.
Log entry 77 (DEDUCED). -/
def Stack.cachePut (st : Stack) (e : CfgEntry) : Stack :=
  let c := e :: st.cfgCache.filter (fun x => !(x.image = e.image && x.pad = e.pad && x.part = e.part))
  if c.length ≤ 64 then { st with cfgCache := c }
  else
    match c.reverse.find? (fun x => !st.pinned x && x ≠ e) with
    | some d => { st with cfgCache := c.erase d }
    | none => { st with cfgCache := c }

def Stack.cached (st : Stack) (p a pad : Nat) : Option CfgEntry := st.cfgCache.find? (fun e => e.image = a && e.pad = pad && e.part = p)
def satAdd16 (x : BitVec 16) (n : Nat) : BitVec 16 := BitVec.ofNat 16 (min 65535 (x.toNat + n))
def satAdd32 (x : Word) (n : Nat) : Word := word (min 0xFFFFFFFF (x.toNat + n))

/-- An image from the cache, its missing pads loaded from memory (R292, R322); the whole is checked when something was
loaded. A DETAIL of R307 otherwise. Log entry 26 (DEDUCED). -/
def State.loadImage (s : State) (k p a : Nat) : Except Nat (Image × State) :=
  let st := s.stack k
  let die := k / 6
  let first : Option (List Frame × Frame × List Frame × Bool) :=
    match st.cached p a 0 with
    | some e => some (e.frames.take 46, e.frames.getD 46 0#256, e.frames.drop 47, false)
    | none =>
      match s.readFrames die p a 1 with
      | none => none
      | some hs =>
        let h := hs.getD 0 0#256
        if !headerOk h then some ([], h, [], true)
        else
          match s.readFrames die p (a + 32) 46, s.readFrames die p (a + 32 * (1 + 46 * headerPads h)) (headerStreams h) with
          | some fs, some ags => some (fs, h, ags, true)
          | _, _ => none
  match first with
  | none => .error 8
  | some (fs0, h, ags, new0) =>
    if !headerOk h then .error 1
    else
      let rest := (List.range (headerPads h - 1)).map (fun i =>
        match st.cached p a (i + 1) with
        | some e => some (e.frames, false)
        | none => (s.readFrames die p (a + 32 * (1 + 46 * (i + 1))) 46).map (fun fs => (fs, true)))
      if rest.any Option.isNone then .error 8
      else
        let pads := (fs0, new0) :: rest.filterMap id
        let g : Image := { header := h, pads := pads.map Prod.fst, ags := ags }
        match (if pads.any Prod.snd then imageDetail g else none) with
        | some d => .error d
        | none =>
          let put (st : Stack) (x : (List Frame × Bool) × Nat) : Stack :=
            let fs := if x.2 = 0 then x.1.1 ++ h :: ags else x.1.1
            let stale := match st.cached p a x.2 with | some e => e.stale | none => false
            st.cachePut { image := a, pad := x.2, part := p, frames := fs, stale := stale }
          .ok (g, s.updStack k (fun st =>
            let st := pads.zipIdx.foldl put st
            { st with loads := satAdd16 st.loads (pads.countP Prod.snd) }))

/-- The sequence object (R316): its images, or DETAIL 8 or 10. -/
def State.readSeq (s : State) (die p a : Nat) : Except Nat (List Dword) :=
  match s.vread die p a 136 with
  | .error _ => .error 8
  | .ok bs =>
    let ws : List Dword := (List.range 17).map (fun i => dword (leNat ((bs.drop (8 * i)).take 8)))
    let n := (ws.getD 0 0#64).toNat % 16
    let ok := bitsOf (ws.getD 0 0#64).toNat 63 4 = 0 && (ws.drop 1).zipIdx.all (fun x =>
      if x.2 ≤ n then bitsOf x.1.toNat 63 57 = 0 && x.1.toNat % 64 = 0 && x.1 ≠ 0#64 else x.1 = 0#64)
    if ok then .ok ((ws.drop 1).take (n + 1)) else .error 10

/-- Load every image of a sequence: NPAD and NSTREAM of each. -/
def State.loadAll (s : State) (k p : Nat) : List Dword → Except Nat (List (Nat × Nat) × State)
  | [] => .ok ([], s)
  | a :: rest =>
    match s.loadImage k p a.toNat with
    | .error d => .error d
    | .ok (g, s) =>
      match State.loadAll s k p rest with
      | .error d => .error d
      | .ok (ns, s) => .ok ((headerPads g.header, headerStreams g.header) :: ns, s)

/-! ## Stream records (R325-R327) -/

def strField (f : Frame) (hi lo : Nat) : Nat := fr f hi lo
def strDir (f : Frame) : Nat := fr f 229 228
def strTy (f : Frame) : Option Ty := Ty.ofCode (BitVec.ofNat 5 (fr f 227 223))
def strCount (f : Frame) (d : Nat) : Nat :=
  match d with
  | 0 => fr f 159 128
  | 1 => fr f 31 16
  | 2 => fr f 15 0
  | _ => fr f 214 199
/-- A signed 24-bit stride. -/
def strStride (f : Frame) (d : Nat) : Int := (BitVec.ofNat 24 (fr f (127 - 24 * d) (104 - 24 * d))).toInt
/-- T. -/
def strTotal (f : Frame) : Nat := strCount f 0 * strCount f 1 * strCount f 2 * strCount f 3
def strStart (f : Frame) : Nat := fr f 191 160
/-- The element width of the stream's tokens, and whether it carries bursts. -/
def strWidth (f : Frame) : Nat := match strTy f with | some t => t.width | none => 8
def strBurst (f : Frame) : Bool := match strTy f with | some t => isBurst t | none => false

/-- DETAIL 21. Log entry 82 (DEDUCED). -/
def recordOk (f : Frame) : Bool :=
  strDir f ≠ 3 && (strTy f).isSome && fr f 198 192 = 0 && (List.range 4).all (fun d => strCount f d ≠ 0) && decide (strTotal f ≤ 2 ^ 32 - 1)
    && (strWidth f ≠ 4 || (strStride f 0 = 1 && [1, 2, 3].all (fun d => strStride f d % 2 = 0)))

/-- DETAIL 22: the binding of a stream to its channel. Log entry 82 (DEDUCED). -/
def bindingOk (pads : List Pad) (f : Frame) : Bool :=
  match (pads[fr f 222 219]?).bind (fun p => p.chan? (fr f 218 215)) with
  | none => false
  | some c =>
    if strDir f = 0 then
      c.src = 5 && !pads.any (fun p => p.chans.any (fun d => d.tfwd && d.tpad = fr f 222 219 && d.tchan = c.chan))
    else c.dst = 5 && !c.tfwd

/-- DETAIL 23: FMT against the tensor. Log entry 82 (DEDUCED). -/
def streamTyOk (f : Frame) (t : TEntry) : Bool :=
  (if strBurst f then TEntry.ty t = strTy f else strWidth f = TEntry.w t) && (strDir f ≠ 2 || strTy f = some .f32 || strTy f = some .n32)

/-- R327's checks of one stream as a configuration starts: its tensor entry, or the DETAIL. A tensor entry that cannot be
read counts as one that is not valid (log entry 28). Log entry 82 (DEDUCED). -/
def State.checkStream (s : State) (die p : Nat) (pads : List Pad) (others : List Frame) (f : Frame) : Except Nat (TEntry × State) :=
  if !recordOk f then .error 21
  else if !bindingOk pads f || others.any (fun g => fr g 222 215 = fr f 222 215) then .error 22
  else
    match s.tensorEntry die p (fr f 239 230) with
    | .error _ => .error 24
    | .ok (t, s) =>
      if (TEntry.check t (s.world p)).isSome then .error 24
      else if !streamTyOk f t then .error 23
      else .ok (t, s)

/-- A stream at element START (R317, R326). Log entry 81 (DEDUCED). -/
def Stream.start (f : Frame) (t : TEntry) : Stream :=
  { record := f, tens := t, pos := 0, asm := [], hdr := none, left := 0, mark := none
    done := strDir f ≠ 2 && decide (strTotal f ≤ strStart f), ag := 0, tlb := none, raised := false }

/-- Check the streams in order: their tensor entries, or the DETAIL and the stream at fault. -/
def State.checkStreams (s : State) (die p : Nat) (pads : List Pad) (all : List Frame) : (i : Nat) → List Frame → Except (Nat × Nat) (List TEntry × State)
  | _, [] => .ok ([], s)
  | i, f :: rest =>
    match s.checkStream die p pads (all.take i) f with
    | .error d => .error (d, i)
    | .ok (t, s) =>
      match State.checkStreams s die p pads all (i + 1) rest with
      | .error x => .error x
      | .ok (ts, s) => .ok (t :: ts, s)

/-! ## Starting a configuration (R302, R317, R319) -/

/-- The PEs of a pad, with the parameter words that PSEL names. -/
def State.startPes (s : State) (die p param : Nat) : List Frame → Except Nat (List Pe)
  | [] => .ok []
  | f :: rest =>
    let imm : Except Nat Word :=
      if peOp f = 0 || fr f 95 95 = 0 then .ok (word (fr f 191 160))
      else if param = 0 then .error 9
      else
        match s.vread die p (param + 4 * fr f 94 80) 4 with
        | .error _ => .error 8
        | .ok bs => .ok (word (leNat bs))
    match imm, State.startPes s die p param rest with
    | .error d, _ => .error d
    | _, .error d => .error d
    | .ok x, .ok pes => if peOp f = 0x2A && x.toNat % 64 = 0 then .error 4 else .ok (Pe.start f x :: pes)

def State.startPads (s : State) (die p param : Nat) : List (List Frame) → Except Nat (List Pad)
  | [] => .ok []
  | fs :: rest =>
    match s.startPes die p param ((fs.drop 1).take 16), State.startPads s die p param rest with
    | .error d, _ => .error d
    | _, .error d => .error d
    | .ok pes, .ok ps => .ok ({ pes := pes, switches := ((fs.drop 21).take 25).map Switch.start, chans := padChans fs } :: ps)

/-- Configuration `c` starts in the region's pad frames: image, parameter words, streams at their first element. While its
streams find no generator slots, the region waits with no pads (R330). -/
def State.startConfig (s : State) (k slot c : Nat) : State :=
  match s.region? k slot with
  | none => s
  | some r =>
    let die := k / 6
    let fail (s : State) (d st : Nat) : State := s.failRegion k slot 35#6 d st 0 0
    let s := s.updRegion k slot (fun r => { r with state := 2, cfg := c, pads := [], streams := [] })
    match s.loadImage k r.part (r.images.getD c 0#64).toNat with
    | .error d => fail s d 0
    | .ok (g, s) =>
      match s.startPads die r.part r.param.toNat g.pads with
      | .error d => fail s d 0
      | .ok pads =>
        match s.checkStreams die r.part pads g.ags 0 g.ags with
        | .error (d, i) => fail s d i
        | .ok (ts, s) =>
          match pickAgs g.ags.length ((List.range 32).map (s.stack k).agLoad) with
          | none => s
          | some ags =>
            let strs := ((g.ags.zip ts).zip ags).map (fun x => { Stream.start x.1.1 x.1.2 with ag := x.2 })
            s.updRegion k slot (fun r => { r with pads := pads, streams := strs })

/-- Streams of the image of configuration `c`, as loaded. -/
def Region.streamsOf (r : Region) (c : Nat) : Nat := r.nstrs.getD c 0
/-- Generator slots that a region would find for `n` streams, its own being free. -/
def State.agsFree (s : State) (k : Nat) (r : Region) (n : Nat) : Bool :=
  let st := s.stack k
  decide (n + (List.range 32).foldl (fun m a => m + st.agLoad a) 0 ≤ 128 + (if r.frames.isEmpty then 0 else r.streams.length))

/-- A placed region whose configuration waits for generator slots. -/
def Region.unstarted (r : Region) : Bool := r.state = 2 && !r.frames.isEmpty && r.pads.isEmpty

/-- R319: no earlier region of the context on the stack still waits to be placed. -/
def Stack.turnOf (st : Stack) (r : Region) : Bool := !st.regions.any (fun q => q.part = r.part && q.state = 1 && decide (q.order < r.order))

/-- Chameleon loads a waiting region's images, which fixes its reservation, and places it once frames and generator slots
are free (R317-R319, R330). -/
def execRegionPlacement (k slot : Nat) (s : State) : Host.Outcome State Fault Refusal :=
  match s.region? k slot with
  | none => .next s
  | some r =>
    if r.state ≠ 1 || (s.part r.part).swapping || (s.stack k).fwBusy then .next s
    else
      let loaded : Except Nat State :=
        if !r.images.isEmpty then .ok s
        else
          match s.readSeq (k / 6) r.part r.seqAddr.toNat with
          | .error d => .error d
          | .ok imgs =>
            match s.loadAll k r.part imgs with
            | .error d => .error d
            | .ok (ns, s) => .ok (s.updRegion k slot (fun r => { r with images := imgs, npads := ns.map Prod.fst, nstrs := ns.map Prod.snd, reserve := (ns.map Prod.fst).foldl max 1 }))
      match loaded with
      | .error d => .next (s.failRegion k slot 35#6 d 0 0 0)
      | .ok s =>
        match s.region? k slot with
        | none => .next s
        | some r =>
          let st := s.stack k
          let world := s.world r.part
          if ((List.range 16).filter (st.assigned r.part world)).length < r.reserve then .next (s.failRegion k slot 35#6 7 0 0 0)
          else if !st.turnOf r then .next s
          else
            match pickFrames (st.freeFrames r.part world) r.reserve with
            | none => .next s
            | some fs =>
              if !s.agsFree k r (r.streamsOf 0) then .next s
              else
                let t := (s.updRegion k slot (fun r => { r with frames := fs, world := world })).startConfig k slot 0
                .next (if (t.region? k slot).any Region.unstarted then s else t)

/-! ## The instructions (R254) -/

/-- The stack that STACK 15 means: the issuing die's with the most free frames for the context, the lowest on a tie. -/
def State.bestStack (s : State) (die p : Nat) : Nat :=
  let free (k : Nat) : Nat := ((s.stack k).freeFrames p (s.world p)).length
  (List.range 6).foldl (fun b i => if free b < free (6 * die + i) then 6 * die + i else b) (6 * die)

/-- The run descriptor breaks R253: a reserved bit, a bad STACK or a misaligned SEQ. Log entry 86 (DEDUCED). -/
def runBad (ws : List Dword) : Bool :=
  let f (i hi lo : Nat) : Nat := bitsOf (ws.getD i 0#64).toNat hi lo
  f 0 63 57 ≠ 0 || f 1 63 57 ≠ 0 || f 2 63 57 ≠ 0 || f 3 63 49 ≠ 0 || f 3 31 10 ≠ 0 || f 3 7 4 ≠ 0 || (ws.drop 4).any (· ≠ 0#64)
    || (decide (12 ≤ f 3 3 0) && decide (f 3 3 0 ≤ 14)) || f 0 5 0 ≠ 0

/-- `sda.run` (R254): reads the descriptor, takes the lowest free slot of the stack and writes the handle.
Log entry 86 (DEDUCED). -/
def execSdaRun (e : Enc) (s : State) : Host.Outcome State Fault Refusal :=
  simt 0xC0 e s (fun c =>
    let a := c.addr e.a
    if a % 64 ≠ 0 then .trap { c.all 4#6 with addr := dword a }
    else
      match c.s.translate c.w.core c.part .load a with
      | .error x => .trap { c.all x with addr := dword a }
      | .ok pl =>
        if !c.s.extentHere pl.space (pl.pa / 64) then c.fails { c.all 25#6 with addr := dword a }
        else if c.s.poisonedAt pl.space (pl.pa / 64) then c.fails { c.all 20#6 with addr := dword a }
        else
          let ws : List Dword := (List.range 8).map (fun i => dword (leNat (c.s.devBytes pl.space (pl.pa + 8 * i) 8)))
          if runBad ws then .trap { c.all 39#6 with detail := 7#16 }
          else
            let f (i hi lo : Nat) : Nat := bitsOf (ws.getD i 0#64).toNat hi lo
            let k := if f 3 3 0 = 15 then c.s.bestStack (dieOf c.w.core) c.part else f 3 3 0
            let st := c.s.stack k
            let taken (n : Nat) : Bool := st.regions.any (fun r => r.slot = n && r.holdsSlot)
            match (List.range 16).find? (fun n => !taken n) with
            | none => .wait c.s .queue 9 0 0
            | some n =>
              let g0 := st.gens.getD n 0
              let gen := if g0 = 2 ^ 24 - 1 then 1 else g0 + 1
              let (ord, s) := c.s.newName
              let r : Region :=
                { slot := n, gen := gen, part := c.part, world := s.world c.part, wid := some c.wid, seqAddr := dword (f 0 56 0), images := []
                  npads := [], mbar := dword (f 1 56 0), param := dword (f 2 56 0), sigEn := f 3 9 9 = 1, sigDie := f 3 48 48
                  sigTask := f 3 47 32, step := f 3 8 8 = 1, state := 1, cfg := 0, failCause := 0#6, reserve := 0, frames := []
                  pads := [], streams := [], drain := none, order := ord }
              let s := s.updStack k (fun st => { st with
                gens := st.gens.set n gen, regions := r :: st.regions.filter (fun q => q.slot ≠ n) })
              .done (s.updWave c.wid (fun w => w.write e.dst false 0 (r.handle k))))

/-- `sda.stop` (R254): the region drains and is discarded; a stale handle does nothing. -/
def execSdaStop (e : Enc) (s : State) : Host.Outcome State Fault Refusal :=
  simt 0xC1 e s (fun c =>
    match c.s.byHandle c.part (c.n32 e.a) with
    | none => .done c.s
    | some (k, r) => .done (if r.over then c.s else c.s.updRegion k r.slot (fun r => { r with state := 3, drain := some .stop, streams := r.streams.map Stream.cut })))

/-- `sda.stat` (R254, R287). -/
def execSdaStat (e : Enc) (s : State) : Host.Outcome State Fault Refusal :=
  simt 0xC2 e s (fun c =>
    let v := match c.s.byHandle c.part (c.n32 e.a) with
      | none => 0
      | some (_, r) => r.failCause.toNat * 65536 + r.cfg % 16 * 16 + r.state
    .done (c.s.updWave c.wid (fun w => w.write e.dst false 0 v)))

/-- `sda.ld` (R254): loads a sequence's images into a stack's cache; a fault drops it without a trap. -/
def execSdaLd (e : Enc) (s : State) : Host.Outcome State Fault Refusal :=
  simt 0xC3 e s (fun c =>
    let k := c.n32 e.b
    if 11 < k then .trap (c.all 2#6)
    else
      match c.s.readSeq (k / 6) c.part (c.addr e.a) with
      | .error _ => .done c.s
      | .ok imgs =>
        match c.s.loadAll k c.part imgs with
        | .error _ => .done c.s
        | .ok (_, s) => .done s)

/-! ## PEs, switches and gateways -/

/-- The format of the stream whose tokens an output port of a switch sends, by the way back through switches and channels to the
input stream at its source; none when a PE is the source. -/
def sourceFmt (pads : List Pad) (streams : List Stream) : (fuel : Nat) → (pad idx out : Nat) → Option Ty
  | 0, _, _, _ => none
  | n + 1, pad, idx, out =>
    match pads[pad]? with
    | none => none
    | some p =>
      match (p.switches[idx]?).bind (fun x => swSel x.sel out) with
      | none => none
      | some i =>
        match portTgt idx i with
        | .sw j q => sourceFmt pads streams n pad j q
        | .mb m a =>
          -- the channel that the attachment reads, followed back over the mesh to where its tokens come from
          let start : Option (Nat × Chan) := (p.chans.find? (fun c => c.mb = m && c.dst = a)).map (fun c => (pad, c))
          let up (x : Nat × Chan) : Nat × Chan :=
            match pads.zipIdx.findSome? (fun q => (q.1.chans.find? (fun d => d.tfwd && d.dst = 5 && d.tpad = x.1 && d.tchan = x.2.chan)).map (fun d => (q.2, d))) with
            | some y => if x.2.src = 5 then y else x
            | none => x
          match start.map (fun x => (List.range 64).foldl (fun x _ => up x) x) with
          | none => none
          | some (q, c) =>
            if c.src = 5 then
              (streams.find? (fun t => strDir t.record = 0 && fr t.record 222 219 = q && fr t.record 218 215 = c.chan)).bind (fun t => strTy t.record)
            else (let (j, o) := attPort c.mb c.src; sourceFmt pads streams n q j o)
        | _ => none
/-- The format of the stream that input `x` of a PE reads: the one of its stream record, else the PE's own. -/
def Region.wanted (r : Region) (pad pe : Nat) (ty : Ty) (x : Nat) : Ty :=
  if !isBurst ty then ty
  else
    match ((r.pads[pad]?).bind (fun p => p.pes[pe]?)).bind (fun p => peIn p.frame x) with
    | none => ty
    | some c => let (idx, port) := cornerPort pe c; (sourceFmt r.pads r.streams 512 pad idx port).getD ty

/-- A PE's move (R309); a bad token fails the region (R308, R334), with no stream, address or index in the record.
Log entry 143 (DESIGN CHOICE). A draining region makes no firing (R337). -/
def execPeFiring (k slot pad pe : Nat) (s : State) : Host.Outcome State Fault Refusal :=
  match s.region? k slot with
  | none => .next s
  | some r =>
    if r.state ≠ 2 then .next s
    else
      match r.pads[pad]? with
      | none => .next s
      | some p =>
        match p.fire r.owner pe (r.wanted pad pe) with
        | .ok p' => .next (s.updRegion k slot (fun r => { r with pads := r.pads.set pad p' }))
        | .error d => .next (s.failRegion k slot 35#6 d 0 0 0)

/-- The gateway of a pad frame, or of a generator slot (none), drops a token whose OWNER is not the receiver's (R335): it is
counted, and the region that OWNER names, when there is one, fails with cause 34. Log entry 89 (DEDUCED). -/
def State.gatewayDrop (s : State) (k : Nat) (r : Region) (pf : Option Nat) (owner : BitVec 6) : State :=
  let s := s.updStack k (fun st => { st with
    gwCount := satAdd32 st.gwCount 1, gwLastPf := match pf with | some n => BitVec.ofNat 16 n | none => st.gwLastPf })
  match (s.stack k).regions.find? (fun q => q.owner = owner && !q.over) with
  | none => s
  | some q => s.failRegion k q.slot 34#6 r.owner.toNat (pf.getD 0) 0 0

/-- The token that a forwarding channel sends next. -/
def Region.forwarding (r : Region) (pad n : Nat) : Option (Token × Nat) :=
  match (r.pads[pad]?).bind (fun p => p.chan? n) with
  | some c => if c.tfwd && c.dst = 5 then c.q.head?.map (fun t => (t, c.tpad)) else none
  | none => none

/-- A token moves one hop (R304, R305), also while a region drains: tokens in flight reach their channels (R337). One that enters a
pad frame passes its gateway (R335). -/
def execSwitchTokenMove (k slot : Nat) (mv : TokenMove) (s : State) : Host.Outcome State Fault Refusal :=
  match s.region? k slot with
  | none => .next s
  | some r =>
    if !r.active then .next s
    else
      let go (f : List Pad → List Pad) : State := s.updRegion k slot (fun r => { r with pads := f r.pads })
      match mv with
      | .sw pad idx input => .next (go (fun ps => ps.modify pad (fun p => p.moveSw idx input)))
      | .attach pad n => .next (go (fun ps => ps.modify pad (fun p => p.moveAttach n)))
      | .forward pad n =>
        match r.forwarding pad n with
        | some (t, pad') =>
          if t.owner = r.owner then .next (go (fun ps => forwardToken ps pad n))
          else .next ((go (fun ps => ps.modify pad (fun p => p.updChan n (fun c => { c with q := c.q.drop 1 })))).gatewayDrop k r r.frames[pad']? t.owner)
        | none => .next s

/-- A gateway meets a token whose OWNER is not the receiver's (R335): that of pad frame `pf`, or from 16 up that of generator
`pf - 16`. The token is dropped. The channel slot that it carried is free again: `Chan.room` counts a slot where its token stands, and
those that the region's own input streams hold stay theirs. Log entry 89 (DEDUCED). -/
def execGatewayReject (k slot pf : Nat) (owner : BitVec 6) (s : State) : Host.Outcome State Fault Refusal :=
  match s.region? k slot with
  | none => .next s
  | some r =>
    if owner = r.owner then .next s
    else if 16 ≤ pf then
      (if r.active && r.streams.any (fun t => t.ag = pf - 16) then .next (s.gatewayDrop k r none owner) else .next s)
    else
      .next (if r.frames.contains pf then s.gatewayDrop k r (some pf) owner else s)

/-! ## Completion (R315, R317) -/

/-- The current configuration is complete: every PE is done and has made its last emission, every output stream has
delivered its last element, and no update token is still to be applied. Log entry 80 (DEDUCED). -/
def Region.configDone (r : Region) : Bool :=
  r.pads.all (fun p => p.pes.all (fun pe => peOp pe.frame = 0 || (pe.done && pe.out.isEmpty)))
    && r.streams.all (fun t => strDir t.record ≠ 1 || t.done)
    && r.pads.all (fun p => p.tokens.all (fun t => t.kind ≠ 2#2) && p.pes.all (fun pe => pe.corner.all (fun c => c.all (fun t => t.kind ≠ 2#2))))
    && !r.pads.isEmpty

/-- The region arrives at its barrier; an error: the state in which it waits for a slot of the barrier's sync engine. -/
def State.regionArrive (s : State) (k : Nat) (r : Region) : Except State State :=
  if r.mbar = 0#64 then .ok s else s.engineArrive (k / 6) r.part r.wid r.mbar.toNat (engineAgent 4 (r.handle k)) (2, r.handle k)

/-- A configuration completes (R315, R317): what is left in its channels and switches is discarded and counted; the region
arrives with STEP; then the next configuration is loaded and starts, or the region is complete. One that has found no
generator slots tries again (R330). -/
def execConfigComplete (k slot : Nat) (s : State) : Host.Outcome State Fault Refusal :=
  match s.region? k slot with
  | none => .next s
  | some r =>
    let last := decide (r.images.length ≤ r.cfg + 1)
    if r.unstarted then .next (s.startConfig k slot r.cfg)
    else if r.state ≠ 2 || !r.configDone then .next s
    else
      match (if r.step || last then s.regionArrive k r else .ok s) with
      | .error s => .next s
      | .ok s =>
        let left := r.pads.foldl (fun n p => n + p.tokens.length) 0
        let s := s.updStack k (fun st => { st with leftover := satAdd32 st.leftover left })
        if !last then .next (s.startConfig k slot (r.cfg + 1))
        else
          let s := if r.sigEn then s.decrement r.sigDie r.sigTask else s
          .next (s.endRegion k slot 5)

/-! ## Drain, save and restore (R285, R337-R339) -/

/-- A requested drain starts: the region's state reads 3 and its PEs make no new firing. A region that completes in the
same clock as a move completes (R321). -/
def execDrainRequest (k slot : Nat) (s : State) : Host.Outcome State Fault Refusal :=
  match s.region? k slot with
  | none => .next s
  | some r =>
    let kept := r.drain = some .move || r.drain = some .swap
    if r.state ≠ 2 || r.drain.isNone || (r.drain = some .move && r.configDone) || (kept && (s.part r.part).arrSaveSize = 0#32) then .next s
    else .next (s.updRegion k slot (fun r => { r with state := 3, streams := r.streams.map Stream.cut }))

/-- R336: no stream has an element of a token on its way; a stream that has stopped at a fault or at a stream error has none.
Log entry 80 (DEDUCED). -/
def Region.quiescent (r : Region) : Bool := r.streams.all (fun t => t.asm.isEmpty || t.mark.isSome || t.stopped)

/-- The lowest units of a partition's array save area that no save record uses, as many as a record needs (R338).
Log entry 124 (DESIGN CHOICE). -/
def State.arrUnits (s : State) (p n : Nat) : List Nat :=
  let used := s.stks.flatMap (fun st => (st.regions.filter (fun r => r.part = p)).flatMap Region.saveAt)
  ((List.range (s.part p).arrSaveSize.toNat).filter (fun u => !used.contains u)).take n

/-- The HBM lines of some units of a partition's array save area. -/
def arrLines (x : Partition) (us : List Nat) : List (Space × Nat) :=
  (us.flatMap (fun u => (List.range 1024).map (fun i => (Space.hbm, x.arrSaveBase.toNat / 64 + 1024 * u + i)))).filter (fun l => decide (64 * l.2 < hbmBytes))

/-- The detector reports quiescence (R337): a stopped region is discarded and arrives at its barrier once, a failed one is
discarded, and any other is saved once its record finds room (R338). -/
def execRegionQuiescence (k slot : Nat) (s : State) : Host.Outcome State Fault Refusal :=
  match s.region? k slot with
  | none => .next s
  | some r =>
    match r.drain with
    | none => .next s
    | some why =>
      if r.state = 2 || (r.active && !r.quiescent) then .next s
      else
        match why with
        | .fail => .next (s.endRegion k slot 6)
        | .stop =>
          match s.regionArrive k r with
          | .error s => .next s
          | .ok s => .next (s.endRegion k slot 4)
        | _ =>
          let x := s.part r.part
          if !r.active || x.arrSaveSize.toNat < x.arrSaveUsed + r.saveUnits then .next s
          else
            let us := s.arrUnits r.part r.saveUnits
            let s := (s.updPart r.part (fun x => { x with arrSaveUsed := x.arrSaveUsed + r.saveUnits })).scrawl r.part (arrLines x us)
            .next ((s.updRegion k slot (fun r => { r with
              frames := [], saveAt := us, streams := r.streams.map (fun t => { t with tlb := none }) })).updStack k
                Stack.sweepCache)

/-- A pad of the loaded image with what its record saved (R339): every item of R338 at the same place. A PE keeps the parameter
word that it started with while its frame is the same. -/
def Pad.reload (fresh saved : Pad) : Pad :=
  { pes := fresh.pes.zipIdx.map (fun x => match saved.pes[x.2]? with
      | some q => { q with frame := x.1.frame, imm := if q.frame = x.1.frame then q.imm else x.1.imm }
      | none => x.1)
    switches := fresh.switches.zipIdx.map (fun x => match saved.switches[x.2]? with | some q => { x.1 with inbuf := q.inbuf } | none => x.1)
    chans := fresh.chans.map (fun c => match saved.chan? c.chan with | some q => { c with q := q.q, reserved := q.reserved } | none => c) }
/-- A stream of the loaded image with what its record saved. -/
def Stream.reload (f : Frame) (t : TEntry) (ag : Nat) (saved : Option Stream) : Stream :=
  match saved with
  | some q => { q with record := f, tens := t, ag := ag, tlb := none, stopped := false }
  | none => { Stream.start f t with ag := ag }

/-- A drained region is placed again (R339): frames as for a placement, the image from the cache or from memory, every
saved item in its place, and each stream's tensor entry read again. -/
def execRegionRestore (k slot : Nat) (s : State) : Host.Outcome State Fault Refusal :=
  match s.region? k slot with
  | none => .next s
  | some r =>
    if !r.drained || r.drain = some .stop || (s.part r.part).swapping || (s.stack k).fwBusy then .next s
    else
      let st := s.stack k
      match pickFrames (st.freeFrames r.part (s.world r.part)) r.reserve with
      | none => .next s
      | some fs =>
        if !s.agsFree k r (if r.pads.isEmpty then r.streamsOf r.cfg else r.streams.length) then .next s
        else
          let back (s : State) (r : Region) : State :=
            let s := s.updPart r.part (fun x => { x with arrSaveUsed := x.arrSaveUsed - r.saveUnits })
            if r.drain = some .move then s.updStack k (fun st => { st with moved := satAdd16 st.moved 1 }) else s
          if r.pads.isEmpty then
            .next ((back (s.updRegion k slot (fun r => { r with frames := fs, drain := none, saveAt := [], world := s.world r.part })) r).startConfig k slot r.cfg)
          else
          match s.loadImage k r.part (r.images.getD r.cfg 0#64).toNat with
          | .error d => .next (s.failRegion k slot 35#6 d 0 0 0)
          | .ok (g, s) =>
            let fresh := match s.startPads (k / 6) r.part r.param.toNat g.pads with | .ok ps => ps | .error _ => r.pads
            match s.checkStreams (k / 6) r.part fresh g.ags 0 g.ags with
            | .error (d, i) => .next (s.failRegion k slot 35#6 d i 0 0)
            | .ok (ts, s) =>
              match pickAgs g.ags.length ((List.range 32).map (s.stack k).agLoad) with
              | none => .next s
              | some ags =>
                let strs := ((g.ags.zip ts).zip ags).zipIdx.map (fun x => Stream.reload x.1.1.1 x.1.1.2 x.1.2 r.streams[x.2]?)
                let pads := fresh.zipIdx.map (fun x => match r.pads[x.2]? with | some q => x.1.reload q | none => x.1)
                .next (back (s.updRegion k slot (fun r => { r with
                  state := 2, frames := fs, pads := pads, streams := strs, drain := none, saveAt := [], world := s.world r.part })) r)

/-! ## Chameleon's moves (R321) and the stack registers (R322, R340) -/

/-- Compaction: a region of four pads or fewer that spans clock regions moves once one clock region has room, at most
MOVES a millisecond. -/
def execCompactionMove (k slot : Nat) (s : State) : Host.Outcome State Fault Refusal :=
  match s.region? k slot with
  | none => .next s
  | some r =>
    let st := s.stack k
    let free := st.freeFrames r.part (s.world r.part)
    let spans := r.frames.any (fun f => f / 4 ≠ (r.frames.getD 0 0) / 4)
    let room := (List.range 4).any (fun q => decide (r.reserve ≤ (free.filter (fun f => f / 4 = q)).length))
    if !st.chamCtl.getLsbD 16 || r.state ≠ 2 || r.drain.isSome || 4 < r.reserve || !spans || !room
        || bitsOf st.chamCtl.toNat 15 8 ≤ st.compactions then .next s
    else
      .next ((s.updStack k (fun st => { st with compactions := st.compactions + 1 })).updRegion k slot (fun r => r.request .move))

/-- R322: Chameleon requests a move of every resident region that is left on frames no longer assigned to it.
Log entry 85 (DEDUCED). -/
def State.moveForeign (s : State) (k : Nat) : State :=
  s.updStack k (fun st => { st with regions := st.regions.map (fun r =>
    if r.frames.all (fun f => st.assigned r.part r.world f) then r else r.request .move) })

/-- A write of ARR_ASSIGN0 or ARR_ASSIGN1; the reserved bits of each frame read 0. -/
def execArrAssignWrite (k half : Nat) (v : Dword) (s : State) : Host.Outcome State Fault Refusal :=
  let x := v &&& 0xCFCFCFCFCFCFCFCF#64
  .next ((s.updStack k (fun st => if half = 0 then { st with arrAssign0 := x } else { st with arrAssign1 := x })).moveForeign k)

/-- CFGC_INV with ADDR: the entries of the image are dropped, a pinned one when its region leaves its pad frames. -/
def execCfgcInvAddr (k : Nat) (v : Dword) (s : State) : Host.Outcome State Fault Refusal :=
  if v.getLsbD 63 then .next s
  else
    let a := bitsOf v.toNat 56 6 * 64
    .next (s.updStack k (fun st => ({ st with cfgCache := st.cfgCache.map (fun (e : CfgEntry) => if e.image = a then { e with stale := true } else e) }).sweepCache))

/-- CFGC_INV with ALL: every entry that no placed region pins is dropped. -/
def execCfgcInvAll (k : Nat) (v : Dword) (s : State) : Host.Outcome State Fault Refusal :=
  if !v.getLsbD 63 then .next s
  else .next (s.updStack k (fun st => { st with cfgCache := st.cfgCache.filter st.pinned }))

/-- The end of a window of a clock region (R340): `up` and `down` of its `total` array clocks were UP and DOWN.
Log entry 109 (DESIGN CHOICE). -/
def execAclkWindow (k q up down total : Nat) (s : State) : Host.Outcome State Fault Refusal :=
  let st := s.stack k
  let c := st.aclkCtl.toNat
  let f := st.aclkF.getD q 14
  let hi := bitsOf c 39 32
  let lo := bitsOf c 31 24
  let thr := bitsOf c 23 16
  let placed := st.regions.any (fun r => r.frames.any (fun x => x / 4 = q))
  let f' := if bit c 48 then bitsOf c 47 40
    else if !placed then lo
    else if total = 0 || total < up + down then f
    else if thr * total ≤ up * 256 then min hi (f + 1)
    else if thr * total ≤ down * 256 then max lo (f - 1)
    else f
  .next (s.updStack k (fun st => { st with aclkF := st.aclkF.set q f' }))

end Sys2Proof.Machine
end

