-- ==== Sys2Proof/Machine/Streams.lean ====
section
/-! DEFINITION. Streams at work (R325-R334): an element's address and translation, stream faults and marks (R285, R286,
R333), input, output and update streams, and the invalidation of translations (R275), which clears marks. -/

namespace Sys2Proof.Machine

open Sys2Proof

/-! ## Elements (R326, R331, R332) -/

/-- The stream element that the stream is at. -/
def Stream.elem (t : Stream) : Nat := strStart t.record + t.pos
/-- The tensor offset of element `e`, N0 fastest; for a burst stream in units of 16 bytes. -/
def Stream.offset (t : Stream) (e : Nat) : Int :=
  let f := t.record
  let c0 := e % strCount f 0
  let e1 := e / strCount f 0
  let c1 := e1 % strCount f 1
  let e2 := e1 / strCount f 1
  (c0 : Int) * strStride f 0 + (c1 : Int) * strStride f 1 + ((e2 % strCount f 2 : Nat) : Int) * strStride f 2
    + ((e2 / strCount f 2 : Nat) : Int) * strStride f 3
/-- The tensor's extent: 1 + the sum of (DIM - 1) x STRIDE over its used dimensions. -/
def tensorExtent (t : TEntry) : Nat :=
  (List.range (TEntry.ndim t + 1)).foldl (fun n d => n + (TEntry.dim t d - 1) * TEntry.stride t d) 1
/-- The address of an offset, modulo 2^64, and whether it is the high nibble. -/
def Stream.addr (t : Stream) (off : Int) : Nat × Bool :=
  let w := TEntry.w t.tens
  let at_ (x : Int) : Nat := (((TEntry.ebase t.tens : Int) + x) % (2 ^ 64 : Nat)).toNat
  if strBurst t.record then (at_ (16 * off), false) else (at_ ((off * w).fdiv 8), w = 4 && off % 2 = 1)
/-- Bytes of an element, or of a burst unit. -/
def Stream.bytes (t : Stream) : Nat := if strBurst t.record then 16 else max 1 (TEntry.w t.tens / 8)
/-- Elements of a full token. -/
def Stream.perToken (t : Stream) : Nat := 128 / strWidth t.record

/-- The translation of an element through the stream's entry, refilled by the base die's walker, under R273 and the
stream-shared rule (cause 33). -/
def State.streamPlace (s : State) (r : Region) (t : Stream) (acc : Access) (va : Nat) : Except (BitVec 6) (Place × (Nat × Nat × Dword)) :=
  let held := match t.tlb with | some x => if x.1 = va / 2 ^ x.2.1 then some x else none | none => none
  let found : Except (BitVec 6) (Nat × Nat × Dword) :=
    match held with
    | some x => .ok x
    | none =>
      if 2 ^ 57 ≤ va then .error 16#6
      else match s.walk (s.world r.part) 4 (s.root r.part) va with | .error c => .error c | .ok (leaf, sz) => .ok (va / 2 ^ sz, sz, leaf)
  match found with
  | .error c => .error c
  | .ok x =>
    match s.checkLeaf r.part acc va (x.2.2, x.2.1) with
    | .error c => .error c
    | .ok pl => if pl.ss then .ok (pl, x) else .error 33#6

def State.updStream (s : State) (k slot i : Nat) (f : Stream → Stream) : State :=
  s.updRegion k slot (fun r => { r with streams := r.streams.modify i f })

/-- A stream has stopped at an error of its own (R334). -/
def State.stopStream (s : State) (k slot i : Nat) : State := s.updStream k slot i (fun t => { t with stopped := true })

/-- A fault at an element (R332, R333): poison fails the region; any other stops the stream there with a mark on the element's
page, and the wave takes cause 32, or 33 on a page that is not stream-shared. In a drain it stands stopped there (R285).
Log entry 83 (DEDUCED). -/
def State.streamFault (s : State) (k slot i : Nat) (c : BitVec 6) (va e : Nat) : State :=
  match s.region? k slot with
  | none => s
  | some r =>
    if c = 20#6 then (s.stopStream k slot i).failRegion k slot 32#6 20 i va e
    else
      let log := match s.walk (s.world r.part) 4 (s.root r.part) va with | .ok (_, n) => n | .error _ => 16
      let s := s.updStream k slot i (fun t => { t with
        mark := some (dword va), markLog := log, raised := true, tlb := none, stopped := r.state ≠ 2 })
      if c = 33#6 then s.regionCause k r 33#6 0 i va e else s.regionCause k r 32#6 c.toNat i va e

/-- The place of the stream's element `e`: an offset outside the tensor's extent fails the region with DETAIL 25, a fault
stops the stream, and it waits while its stack takes no requests (R413). Log entry 83 (DEDUCED). -/
def State.elemPlace (s : State) (k slot i : Nat) (r : Region) (t : Stream) (acc : Access) (off : Int) (e : Nat) :
    Except State (Place × Bool × State) :=
  if off < 0 || (tensorExtent t.tens : Int) ≤ off then .error ((s.stopStream k slot i).failRegion k slot 35#6 25 i (t.addr off).1 e)
  else
    let (va, hi) := t.addr off
    match s.streamPlace r t acc va with
    | .error c => .error (s.streamFault k slot i c va e)
    | .ok (pl, x) =>
      if s.stackHeld pl.space (pl.pa / 64) then .error s
      else if acc ≠ .store && s.poisonedAt pl.space (pl.pa / 64) then .error (s.streamFault k slot i 20#6 va e)
      else .ok (pl, hi, s.updStream k slot i (fun t => { t with tlb := some x }))

/-- The channel that a stream is bound to. -/
def Region.boundChan (r : Region) (t : Stream) : Option Chan :=
  (r.pads[fr t.record 222 219]?).bind (fun p => p.chan? (fr t.record 218 215))
def State.updBound (s : State) (k slot : Nat) (t : Stream) (f : Chan → Chan) : State :=
  s.updRegion k slot (fun r => { r with pads := r.pads.modify (fr t.record 222 219) (fun p => p.updChan (fr t.record 218 215) f) })

/-! ## Input streams (R328) -/

/-- A burst unit as a token, and the payload units that follow it (R221, R328). Log entry 81 (DEDUCED). -/
def burstUnit (owner : BitVec 6) (ty : Ty) (left : Nat) (last : Bool) (bs : List Byte) : Token × Nat :=
  let d : TokenData := BitVec.ofNat 128 (leNat bs)
  if left = 0 then
    ({ data := d, owner := owner, kind := 1#2, last := last, fill := 0#6 }, (bitsOf d.toNat 13 8 + burstLanes ty - 1) / burstLanes ty)
  else ({ data := d, owner := owner, kind := 0#2, last := last, fill := BitVec.ofNat 6 (burstLanes ty - 1) }, left - 1)

/-- An input stream reads its next element for a slot that it has reserved in its channel, and writes the token once it is
complete. While the region drains it only completes the token it has begun, unless it stands at a fault (R285). Log entry 81 (DEDUCED). -/
def State.inputStep (s : State) (k slot i : Nat) : State :=
  match s.region? k slot with
  | none => s
  | some r =>
    match r.streams[i]? with
    | none => s
    | some t =>
      match r.boundChan t with
      | none => s
      | some ch =>
        let room := match r.pads[fr t.record 222 219]? with | some p => p.mayReserve ch | none => false
        if strDir t.record ≠ 0 || t.done || t.mark.isSome || t.stopped || !r.active || (r.state ≠ 2 && t.asm.isEmpty) || (t.asm.isEmpty && !room)
            || s.unitHeld 4 k then s
        else
          let e := t.elem
          match s.elemPlace k slot i r t .load (t.offset e) e with
          | .error s => s
          | .ok (pl, hi, s) =>
            let s := s.tickNow
            let bs := s.devBytes pl.space pl.pa t.bytes
            let last := decide (e + 1 = strTotal t.record)
            if strBurst t.record then
              let (tok, left) := burstUnit r.owner ((strTy t.record).getD .sb8) t.left last bs
              (s.updStream k slot i (fun t => { t with
                pos := t.pos + 1, left := left, done := last, hdr := if tok.kind = 1#2 then some (tok.data.extractLsb' 0 32) else t.hdr })).updBound
                k slot t (fun c => { c with q := c.q ++ [tok] })
            else
              let v := leNat bs
              let x := if TEntry.w t.tens = 4 then (if hi then v / 16 % 16 else v % 16) else v
              let asm := t.asm ++ [x]
              if asm.length = t.perToken || last then
                let tok := mkToken r.owner (strWidth t.record) asm (asm.length - 1) last
                (s.updStream k slot i (fun t => { t with pos := t.pos + 1, asm := [], done := last })).updBound k slot t
                  (fun c => { c with q := c.q ++ [tok], reserved := 0 })
              else (s.updStream k slot i (fun t => { t with pos := t.pos + 1, asm := asm })).updBound k slot t (fun c => { c with reserved := 1 })

/-- The input stream's step. -/
def execStreamInputToken (k slot i : Nat) (s : State) : Host.Outcome State Fault Refusal := .next (s.inputStep k slot i)

/-! ## Output streams (R328, R329, R332) -/

def State.addLeftover (s : State) (k n : Nat) : State := s.updStack k (fun st => { st with leftover := satAdd32 st.leftover n })

/-- An output stream of bursts takes a token (R221): the stream after it, with its latched header, the elements it has taken and its
place in its block, or the DETAIL of what is wrong with the token. -/
def Stream.takeBurst (t : Stream) (ty : Ty) (tok : Token) : Except Nat Stream :=
  if tok.kind = 1#2 then
    match headerDetail ty t.elems tok.data.toNat with
    | some d => .error d
    | none => .ok { t with hdr := some (tok.data.extractLsb' 0 32), blockAt := 0 }
  else if burstLanes ty ≤ tok.fill.toNat then .error 9
  else
    match t.hdr with
    | none => .error 16
    | some h =>
      let at_ := if hdrBlen h ≤ t.blockAt then 0 else t.blockAt
      let n := min (burstLanes ty) (hdrBlen h - at_)
      .ok { t with elems := t.elems + n, blockAt := at_ + n }

/-- The region fails for what a stream finds in a token (R308, R334): with DETAIL 9, an error of the token alone, the record names
no stream (R260). -/
def State.tokenFault (s : State) (k slot i : Nat) (t : Stream) (d : Nat) : State :=
  let s := s.stopStream k slot i
  if d = 9 then s.failRegion k slot 35#6 9 0 0 0 else s.failRegion k slot 35#6 d i (t.addr (t.offset t.elem)).1 t.elem

/-- An output stream takes the oldest token of its channel: its elements, or what is wrong with it. A stream that is done
discards and counts them (R329); its gateway drops a token of another owner (R335). -/
def State.outputTake (s : State) (k slot i : Nat) (r : Region) (t : Stream) (ch : Chan) : State :=
  match ch.q with
  | [] => s
  | tok :: rest =>
    let pop (s : State) : State := s.updBound k slot t (fun c => { c with q := rest })
    let n := tok.fill.toNat + 1
    let burst := strBurst t.record
    let took (s : State) (xs : List Nat) : State := s.updStream k slot i (fun t => { t with asm := xs, left := if tok.last then 1 else 0 })
    if tok.owner ≠ r.owner then (pop s).gatewayDrop k r none tok.owner
    else if t.done then (pop s).addLeftover k (if burst then 1 else n)
    else if tok.kind = 2#2 then s.tokenFault k slot i t 26
    else if tok.kind = 3#2 || (!burst && t.perToken < n) then s.tokenFault k slot i t 9
    else if burst then
      match t.takeBurst ((strTy t.record).getD .sb8) tok with
      | .error d => s.tokenFault k slot i t d
      | .ok t' => took ((pop s).updStream k slot i (fun _ => t')) [tok.data.toNat]
    else took (pop s) ((List.range n).map (tok.lane (strWidth t.record)))

/-- An output stream performs one element's write, in stream order. Log entry 81 (DEDUCED). -/
def State.outputWrite (s : State) (k slot i : Nat) (r : Region) (t : Stream) : State :=
  match t.asm with
  | [] => s
  | x :: rest =>
    let e := t.elem
    let w := TEntry.w t.tens
    if s.unitHeld 4 k then s
    else if !s.mayStep r.part 4 (engineAgent 4 (r.handle k)) 16 then s.logFull r.part
    else
      match s.elemPlace k slot i r t .store (t.offset e) e with
      | .error s => s
      | .ok (pl, hi, s) =>
        let bs := if strBurst t.record then leBytes 16 x
          else if w = 4 then
            let old := (s.devByte pl.space pl.pa).toNat
            [byteOf (if hi then old % 16 + x % 16 * 16 else old / 16 * 16 + x % 16)]
          else leBytes t.bytes x
        let s := (s.devWriteBytes r.part pl.space pl.pa bs).logDev r.part 4 3 1 (engineAgent 4 (r.handle k))
        let done := decide (strTotal t.record ≤ e + 1) || (rest.isEmpty && t.left = 1)
        let s := if done then s.addLeftover k rest.length else s
        s.updStream k slot i (fun t => { t with pos := t.pos + 1, asm := if done then [] else rest, done := done })

/-- The output stream's step: it takes a token when it has none, and writes one element. -/
def execStreamOutputWrite (k slot i : Nat) (s : State) : Host.Outcome State Fault Refusal :=
  match s.region? k slot with
  | none => .next s
  | some r =>
    match r.streams[i]? with
    | none => .next s
    | some t =>
      match r.boundChan t with
      | none => .next s
      | some ch =>
        if strDir t.record ≠ 1 || t.mark.isSome || t.stopped || !r.active then .next s
        else if t.asm.isEmpty then .next (s.outputTake k slot i r t ch)
        else .next (s.outputWrite k slot i r t)

/-! ## Update streams (R298, R329, R332) -/

/-- UOP's operation, by the opcodes of R188: add, min, max, exch. Log entry 29 (DEDUCED). -/
def uopAtom (uop : Nat) : Nat := [0x90, 0x90, 0x91, 0x92, 0x96].getD uop 0x96
/-- A UOP that a stream's FMT admits; exch.b32 moves bits of either type (log entry 29). -/
def uopOk (uop : Nat) (ty : Option Ty) : Bool := (uop = 0 && ty = some .f32) || ((1 ≤ uop && uop ≤ 3) && ty = some .n32) || uop = 4

/-- The update stream's step: the oldest token of its channel is applied at the read-modify-write element, one step of
device level. -/
def execUpdateApply (k slot i : Nat) (s : State) : Host.Outcome State Fault Refusal :=
  match s.region? k slot with
  | none => .next s
  | some r =>
    match r.streams[i]? with
    | none => .next s
    | some t =>
      match r.boundChan t with
      | none => .next s
      | some ch =>
        match ch.q with
        | [] => .next s
        | tok :: rest =>
          let d := tok.data.toNat
          let uop := bitsOf d 66 64
          let idx := bitsOf d 31 0
          if strDir t.record ≠ 2 || t.mark.isSome || t.stopped || !r.active || s.unitHeld 4 k then .next s
          else if tok.owner ≠ r.owner then .next ((s.updBound k slot t (fun c => { c with q := rest })).gatewayDrop k r none tok.owner)
          else if tok.kind ≠ 2#2 || !uopOk uop (strTy t.record) then
            .next ((s.stopStream k slot i).failRegion k slot 35#6 26 i (t.addr idx).1 idx)
          else if !s.mayStep r.part 4 (engineAgent 4 (r.handle k)) 16 then .next (s.logFull r.part)
          else
            match s.elemPlace k slot i r t .atomic idx idx with
            | .error s => .next s
            | .ok (pl, _, s) =>
              let ty : Ty := if uop = 0 then .f32 else .n32
              let v := atomValue (uopAtom uop) ty (leNat (s.devBytes pl.space pl.pa 4)) 0 (bitsOf d 63 32)
              let s := (s.devWriteBytes r.part pl.space pl.pa (leBytes 4 v)).logDev r.part 4 3 1 (engineAgent 4 (r.handle k))
              .next ((s.updBound k slot t (fun c => { c with q := rest })).updStream k slot i (fun t => { t with
                pos := t.pos + 1, done := t.done || tok.last }))

/-! ## Invalidation of translations (R275, R286) -/

/-- A write of TLB_INV_N: an invalidation with the range that TLB_INV names starts, or waits behind the one that runs.
Log entry 87 (DEDUCED). -/
def execTlbInvalidate (p : Nat) (v : Dword) (s : State) : Host.Outcome State Fault Refusal :=
  .next (s.updPart p (fun x => { x with tlbBusy := true, tlbQueue := x.tlbQueue ++ [(x.tlbInv, v.toNat % 2 ^ 32)] }))

/-- Addresses `lo` to `hi - 1` lie in an invalidation's range. Log entry 87 (DEDUCED). -/
def invTouches (inv : Dword) (pages lo hi : Nat) : Bool :=
  inv.getLsbD 1 || (decide (bitsOf inv.toNat 56 16 * 65536 < hi) && decide (lo < (bitsOf inv.toNat 56 16 + pages) * 65536))

/-- Addresses `lo` to `hi - 1` all lie in an invalidation's range, as those of a mark's page do when it clears the mark (R286). -/
def invCovers (inv : Dword) (pages lo hi : Nat) : Bool :=
  inv.getLsbD 1 || (decide (bitsOf inv.toNat 56 16 * 65536 ≤ lo) && decide (hi ≤ (bitsOf inv.toNat 56 16 + pages) * 65536))

/-- Streams of a partition's regions forget translations in range, and marks whose page it covers (R275, R286).
Log entry 83 (DEDUCED). -/
def Stream.invalidate (inv : Dword) (pages : Nat) (t : Stream) : Stream :=
  let tlb := match t.tlb with | some x => if invTouches inv pages (x.1 * 2 ^ x.2.1) ((x.1 + 1) * 2 ^ x.2.1) then none else some x | none => none
  match t.mark with
  | some a =>
    let page := 2 ^ t.markLog
    if invCovers inv pages (a.toNat / page * page) (a.toNat / page * page + page) then
      { t with tlb := tlb, mark := none, raised := false } else { t with tlb := tlb }
  | none => { t with tlb := tlb }

/-- A running stream whose mark was cleared walks its element again at once; a fault marks and reports it again (R286,
R333). Log entry 83 (DEDUCED). -/
def State.rewalk (s : State) (k slot i : Nat) : State :=
  match s.region? k slot with
  | none => s
  | some r =>
    match r.streams[i]? with
    | none => s
    | some t =>
      if r.state ≠ 2 || t.done || t.stopped then s
      else
        let e := t.elem
        let go (acc : Access) (off : Int) (e : Nat) : State := match s.elemPlace k slot i r t acc off e with | .error s => s | .ok (_, _, s) => s
        match strDir t.record with
        | 0 => go .load (t.offset e) e
        | 1 => go .store (t.offset e) e
        | _ =>
          match (r.boundChan t).bind (fun c => c.q.head?) with
          | some tok => let idx := bitsOf tok.data.toNat 31 0; go .atomic idx idx
          | none => s

/-- Every cached translation of the partition in range has been dropped: BUSY reads 0 unless another invalidation waits,
which then starts. Log entry 87 (DEDUCED). -/
def execTlbInvComplete (p : Nat) (s : State) : Host.Outcome State Fault Refusal :=
  match (s.part p).tlbQueue with
  | [] => .next s
  | (inv, pages) :: rest =>
    let marked : List (Nat × Nat × Nat) := (List.range 12).flatMap (fun k => (s.stack k).regions.flatMap (fun r =>
      if r.part = p then (r.streams.zipIdx.filter (fun t => t.1.mark.isSome && (t.1.invalidate inv pages).mark.isNone)).map (fun t => (k, r.slot, t.2))
      else []))
    let s := s.updPart p (fun x => { x with tlbQueue := rest, tlbBusy := !rest.isEmpty })
    let s := s.updMem (fun m => { m with tlb := m.tlb.filter (fun t =>
      !(t.part = p && invTouches inv pages (t.vpage * 2 ^ t.size) ((t.vpage + 1) * 2 ^ t.size))) })
    let s := { s with stks := s.stks.map (fun (st : Stack) => { st with regions := st.regions.map (fun (r : Region) =>
      if r.part = p then { r with streams := r.streams.map (Stream.invalidate inv pages) } else r) }) }
    .next (marked.foldl (fun s x => s.rewalk x.1 x.2.1 x.2.2) s)

end Sys2Proof.Machine
end

