-- ==== Sys2Proof/Machine/Gecko.lean ====
section
/-! DEFINITION. Gecko units: families, tables and buckets (R351-R357), their updates and reads in the unit (R358-R365), and
the instructions 0xD0-0xD8. -/

namespace Sys2Proof.Machine

open Sys2Proof

/-! ## Handles and groups (R351-R353) -/

def gkFam (h : Nat) : Nat := h % 16
def gkTab (h : Nat) : Nat := h % 64
/-- GROUP g of GK_ASSIGN. -/
def Stack.gkGroup (st : Stack) (g : Nat) : Nat := bitsOf st.gkAssign.toNat (8 * g + 7) (8 * g)
def Stack.family (st : Stack) (f : Nat) : Option Family := (st.families.getD f none)
def Stack.table (st : Stack) (t : Nat) : Option Table := (st.tables.getD t none)
def State.updTable (s : State) (k t : Nat) (f : Table → Table) : State :=
  s.updStack k (fun st => { st with tables := st.tables.modify t (fun x => x.map f) })

/-- Bucket capacity c of a table word's CAP code. -/
def gkCap (c : Nat) : Nat := 8 * 2 ^ c
/-- Directory bytes of a table over a family of `b` bits. -/
def gkSpace (b c : Nat) : Nat := 2 ^ b * c * 4
def Stack.famBits (st : Stack) (f : Nat) : Nat := match st.family f with | some x => x.bits | none => 0
/-- Directory bytes that a table holds: its buckets and, while a rehash is open, the new family's. -/
def Stack.tabSpace (st : Stack) (x : Table) : Nat :=
  gkSpace (st.famBits x.family) x.cap + (match x.newFamily with | some f => gkSpace (st.famBits f) x.cap | none => 0)

/-- What the updates accepted and not performed will leave of a table: family, new family and cursor of an open rehash,
capacity, tensor, and the policy; none while it is not initialised. -/
structure TabView where
  family : Nat
  newFamily : Option Nat
  cursor : Nat
  cap : Nat
  tens : TEntry
  policy : BitVec 2
  deriving DecidableEq, Repr

def tableWordCap (w : Word) : Nat := gkCap (bitsOf w.toNat 11 10)
def TabView.apply (st : Stack) (v : TabView) (op : GkOp) : TabView :=
  match op with
  | .tbl f w t => { family := f, newFamily := none, cursor := 0, cap := tableWordCap w, tens := t, policy := w.extractLsb' 12 2 }
  | .rehash f n =>
    let c := min ((if v.newFamily.isNone then 0 else v.cursor) + n) (2 ^ st.famBits v.family)
    if c = 2 ^ st.famBits v.family then { v with family := f, newFamily := none, cursor := c } else { v with newFamily := some f, cursor := c }
  | _ => v
def Stack.view (st : Stack) (t : Nat) : Option TabView :=
  (st.table t).map (fun x =>
    (st.updates.filter (fun u => u.table = t)).foldl (fun v u => v.apply st u.op)
      { family := x.family, newFamily := x.newFamily, cursor := x.cursor, cap := x.cap, tens := x.tens, policy := x.policy })
def Stack.viewSpace (st : Stack) (v : TabView) : Nat :=
  gkSpace (st.famBits v.family) v.cap + (match v.newFamily with | some f => gkSpace (st.famBits f) v.cap | none => 0)
/-- Directory bytes that an update holds while it is performed: a rehash holds both families' buckets, also when it closes in the
step that opens it (R359). -/
def TabView.during (st : Stack) (v : TabView) (op : GkOp) : Nat :=
  match op with
  | .rehash f _ => gkSpace (st.famBits v.family) v.cap + gkSpace (st.famBits f) v.cap
  | _ => st.viewSpace (v.apply st op)
/-- Directory bytes that a table holds or has been promised, until its accepted updates have been performed (R356, R359). -/
def Stack.tabHeld (st : Stack) (t : Nat) : Nat :=
  match st.table t with
  | none => 0
  | some x =>
    ((st.updates.filter (fun u => u.table = t)).foldl (fun (p : TabView × Nat) u => (p.1.apply st u.op, max p.2 (p.1.during st u.op)))
      ({ family := x.family, newFamily := x.newFamily, cursor := x.cursor, cap := x.cap, tens := x.tens, policy := x.policy }, st.tabSpace x)).2
/-- GK_DIR.FREE: the directory less what the tables hold or have been promised. -/
def Stack.dirFree (st : Stack) : Nat := 0x800000 - (List.range 64).foldl (fun n t => n + st.tabHeld t) 0

/-- A family that a table uses, or that an accepted update will use (R355). -/
def Stack.famUsed (st : Stack) (f : Nat) : Bool :=
  st.tables.any (fun t => match t with | some x => x.family = f || x.newFamily = some f | none => false)
    || st.updates.any (fun u => match u.op with | .rehash g _ => g = f | .tbl g _ _ => g = f | _ => false)

/-! ## Rows and hashing (R355, R356, R361, R363) -/

/-- A fault that the unit meets: its cause and the address. -/
abbrev GkFault := BitVec 6 × Nat

/-- The place of a byte, translated by the unit's walks. -/
def State.gkPlace (s : State) (p va : Nat) : Except (BitVec 6) Place :=
  match (if 2 ^ 57 ≤ va then .error 16#6 else s.walk (s.world p) 4 (s.root p) va) with
  | .error c => .error c
  | .ok x => s.checkLeaf p .load va x
/-- A device-level byte of a stream-shared page. Log entry 91 (DEDUCED). -/
def State.gkByte (s : State) (p va : Nat) : Except GkFault Byte :=
  match s.gkPlace p va with
  | .error c => .error (c, va)
  | .ok pl =>
    if !pl.ss then .error (33#6, va)
    else if s.poisonedAt pl.space (pl.pa / 64) then .error (20#6, va)
    else .ok (s.devByte pl.space pl.pa)
def State.gkNat (s : State) (p va : Nat) : (n : Nat) → Except GkFault Nat
  | 0 => .ok 0
  | n + 1 =>
    match s.gkByte p va, State.gkNat s p (va + 1) n with
    | .error f, _ => .error f
    | _, .error f => .error f
    | .ok b, .ok x => .ok (b.toNat + 256 * x)

/-- The exact value of element `j` of line `r` of a tensor. -/
def State.gkElem (s : State) (p : Nat) (t : TEntry) (r j : Nat) : Except GkFault Fp :=
  let (a, hi) := TEntry.elemByte t (TEntry.idxOf t r j)
  match s.gkNat p a (max 1 (TEntry.w t / 8)) with
  | .error f => .error f
  | .ok v =>
    let code := if TEntry.w t = 4 then (if hi then v / 16 % 16 else v % 16) else v
    if TEntry.isNf4b t then
      match s.gkNat p (TEntry.blockAddr t r j) 1, s.gkNat p (TEntry.bandAddr t r) 2 with
      | .error f, _ => .error f
      | _, .error f => .error f
      | .ok b, .ok d => .ok (nf4bValue code b d)
    else .ok (match (TEntry.ty t).bind Ty.fmt with | some f => f.value code | none => .nan)
/-- The `d` elements of a line. Log entry 91 (DEDUCED). -/
def State.gkLine (s : State) (p : Nat) (t : TEntry) (r : Nat) : (j d : Nat) → Except GkFault (List Fp)
  | _, 0 => .ok []
  | j, d + 1 =>
    match s.gkElem p t r j, State.gkLine s p t r (j + 1) d with
    | .error f, _ => .error f
    | _, .error f => .error f
    | .ok x, .ok xs => .ok (x :: xs)
def State.gkRow (s : State) (p : Nat) (t : TEntry) (r : Nat) : Except GkFault (List Fp) := s.gkLine p t r 0 (TEntry.dim t 0)
/-- Rows of a tensor. -/
def gkRows (t : TEntry) : Nat := if TEntry.ndim t = 0 then 1 else TEntry.dim t 1

/-- The bucket of a vector under a family (R355). -/
def Family.hash (f : Family) (xs : List Fp) : Nat :=
  if xs.any (fun x => match x with | .fin _ _ _ => false | _ => true) then 0
  else
    (List.range f.bits).foldl (fun h i =>
      let sum := xs.zipIdx.foldl (fun a x =>
        let d := x.1.dy
        Dy.add a (if (ctrgWord (word (i * f.dim + x.2)) f.seed).getLsbD 31 then ⟨-d.m, d.e⟩ else d)) (Dy.mk 0 0)
      if 0 ≤ sum.m then h + 2 ^ i else h) 0

/-! ## Buckets and chains (R357) -/

def spillAddr (st : Stack) (g n : Nat) : Nat := bitsOf (st.spillBase.getD g 0#64).toNat 51 16 * 65536 + 64 * n
/-- Blocks that the area of a group has, block 0 among them: none beyond the usable HBM (R1). Log entry 91 (DEDUCED). -/
def spillBlocks (st : Stack) (g : Nat) : Nat :=
  min (min (2 ^ 32) ((st.spillSize.getD g 0#64).toNat % 2 ^ 32 * 1024)) ((hbmBytes - spillAddr st g 0) / 64)

/-- A chain from its first block: the blocks and the ids in order; the address of a block that cannot be read. -/
def State.readChain (s : State) (k g : Nat) : (fuel n : Nat) → Except Nat (List (Nat × List Word))
  | 0, _ => .ok []
  | fuel + 1, n =>
    if n = 0 then .ok []
    else
      let a := spillAddr (s.stack k) g n
      if s.poisonedAt .hbm (a / 64) then .error a
      else
        let ids := ((List.range 15).map (fun i => word (leNat (s.mem.hbm.readN (a + 4 * i) 4)))).filter (· ≠ 0xFFFFFFFF#32)
        match State.readChain s k g fuel (leNat (s.mem.hbm.readN (a + 60) 4)) with
        | .error e => .error e
        | .ok bs => .ok ((n, ids) :: bs)
/-- A bucket's chain; no chain is longer than the blocks in use. -/
def State.chainOf (s : State) (k g : Nat) (b : Bucket) : Except Nat (List (Nat × List Word)) :=
  s.readChain k g (((s.stack k).spillUsed.getD g []).length + 1) b.chain
/-- All ids of a bucket: its slots, then its chain. -/
def State.bucketIds (s : State) (k g : Nat) (b : Bucket) : Except Nat (List Word) :=
  match s.chainOf k g b with | .error a => .error a | .ok bs => .ok (b.ids ++ bs.flatMap Prod.snd)

def getBucket (bs : List (Nat × Bucket)) (h : Nat) : Bucket := match bs.find? (fun x => x.1 = h) with | some x => x.2 | none => {}
def setBucket (bs : List (Nat × Bucket)) (h : Nat) (b : Bucket) : List (Nat × Bucket) :=
  let rest := bs.filter (fun x => x.1 ≠ h)
  if b.ids.isEmpty then rest else (h, b) :: rest

/-- Write a chain of ids over the blocks it has, as one logged step of the unit (R278): blocks left over return to the area, further ones
are the lowest free. -/
def State.writeChain (s : State) (p k t : Nat) (old : List Nat) (ids : List Word) : Option (Nat × State) :=
  let st := s.stack k
  let g := t / 16
  let need := (ids.length + 14) / 15
  let used := (st.spillUsed.getD g []).filter (fun n => !old.contains n)
  let more := ((List.range (min (spillBlocks st g) (used.length + need + 2))).filter (fun n => n ≠ 0 && !used.contains n && !old.contains n)).take (need - old.length)
  let blocks := (old.take need) ++ more
  if blocks.length < need then none
  else
    let s := s.updStack k (fun st => { st with spillUsed := st.spillUsed.set g (used ++ blocks) })
    let s := blocks.zipIdx.foldl (fun s b =>
      let xs := (ids.drop (15 * b.2)).take 15
      let ws := xs ++ List.replicate (15 - xs.length) 0xFFFFFFFF#32 ++ [word (blocks.getD (b.2 + 1) 0)]
      s.devWriteBytes p .hbm (spillAddr st g b.1) (ws.flatMap (fun w => leBytes 4 w.toNat))) s
    some (blocks.headD 0, if blocks.isEmpty then s else s.logDev p 4 3 blocks.length (engineAgent 5 (64 * k + t)))

/-- A bucket holds exactly these ids, the first `cap` in its slots; none when its chain finds no block. -/
def State.fillBucket (s : State) (p k t cap : Nat) (b : Bucket) (ids : List Word) : Option (Bucket × State) :=
  let old := match s.chainOf k (t / 16) b with | .ok bs => bs.map Prod.fst | .error _ => []
  if b.chain = 0 && ids.length ≤ cap then some ({ ids := ids, chain := 0 }, s)
  else (s.writeChain p k t old (ids.drop cap)).map (fun x => ({ ids := ids.take cap, chain := x.1 }, x.2))

def satInc16 (x : BitVec 16) : BitVec 16 := satAdd16 x 1

/-- An id enters a bucket of a table under its POLICY (R357); `nw` says that the bucket is one of the new family's.
Log entry 91 (DEDUCED). -/
def State.gkAppend (s : State) (k t : Nat) (nw : Bool) (h : Nat) (ids : List Word) (id : Word) : State :=
  match (s.stack k).table t with
  | none => s
  | some x =>
    let b := getBucket (if nw then x.newBuckets else x.buckets) h
    let put (s : State) (b : Bucket) : State :=
      s.updTable k t (fun x => if nw then { x with newBuckets := setBucket x.newBuckets h b } else { x with buckets := setBucket x.buckets h b })
    let drop (s : State) : State := s.updTable k t (fun x => { x with drops := satInc16 x.drops })
    if ids.length < x.cap then
      match s.fillBucket x.part k t x.cap b (ids ++ [id]) with | some (b, s) => put s b | none => drop s
    else
      match x.policy.toNat with
      | 0 => drop s
      | 1 =>
        match s.fillBucket x.part k t x.cap b (ids.drop 1 ++ [id]) with
        | some (b, s) => (put s b).updTable k t (fun x => { x with evicts := satInc16 x.evicts })
        | none => s
      | _ =>
        match s.fillBucket x.part k t x.cap b (ids ++ [id]) with
        | some (b, s) => (put s b).updTable k t (fun x => { x with spills := satInc16 x.spills })
        | none => drop s

/-- Remove every occurrence of an id from a bucket. Log entry 91 (DEDUCED). -/
def State.gkRemove (s : State) (k t : Nat) (nw : Bool) (h : Nat) (ids : List Word) (id : Word) : State :=
  match (s.stack k).table t with
  | none => s
  | some x =>
    let b := getBucket (if nw then x.newBuckets else x.buckets) h
    match s.fillBucket x.part k t x.cap b (ids.filter (· ≠ id)) with
    | some (b, s) => s.updTable k t (fun x => if nw then { x with newBuckets := setBucket x.newBuckets h b } else { x with buckets := setBucket x.buckets h b })
    | none => s

/-- Free every chain block of a table. -/
def State.freeChains (s : State) (k t : Nat) : State :=
  match (s.stack k).table t with
  | none => s
  | some x =>
    let g := t / 16
    (x.buckets ++ x.newBuckets).foldl (fun s b =>
      match s.chainOf k g b.2 with
      | .ok bs => s.updStack k (fun st => { st with spillUsed := st.spillUsed.modify g (·.filter (fun n => !(bs.map Prod.fst).contains n)) })
      | .error _ => s) s

/-- A written spill area takes effect once no table of its group holds a chain (R352). -/
def Stack.settleSpill (st : Stack) (g : Nat) : Stack :=
  let chained := (List.range 16).any (fun i => match st.table (16 * g + i) with
    | some x => (x.buckets ++ x.newBuckets).any (fun b => b.2.chain ≠ 0) | none => false)
  match st.spillNext.getD g none with
  | some (b, n) => if chained then st
      else { st with spillBase := st.spillBase.set g b, spillSize := st.spillSize.set g n, spillNext := st.spillNext.set g none, spillUsed := st.spillUsed.set g [] }
  | none => st

/-! ## Faults and results (R365, R353) -/

/-- A cause 41: pending in the wave, or in the fault queue when the wave has left. -/
def State.gkCause (s : State) (wid p handle : Nat) (f : GkFault) (detail : Nat) : State :=
  match s.wave? wid with
  | some x => s.pendCause wid 41#6 { asyncRec s x 41#6 (dword f.2) with
      orig := f.1, detail := BitVec.ofNat 16 detail, info0 := word handle }
  | none => s.postFault p 5 41#6 (dword f.2) handle (handle / 64)

/-- A result reaches its register and the scoreboard lets it go. -/
def State.gkResult (s : State) (wid : Nat) (d : BitVec 9) (f : Wave → Wave) : State :=
  s.updWave wid (fun w => let w := f w; { w with claims := w.claims.erase d })

/-! ## Updates in the unit (R358-R360) -/

/-- An update reads the buckets it concerns; none when a chain cannot be read. -/
def State.gkIds (s : State) (k t : Nat) (x : Table) (nw : Bool) (h : Nat) : Except GkFault (List Word) :=
  match s.bucketIds k (t / 16) (getBucket (if nw then x.newBuckets else x.buckets) h) with
  | .ok ids => .ok ids
  | .error a => .error (20#6, a)

/-- What an update that has been performed leaves: the state, and the faults of spills, each of which has dropped its id. -/
abbrev GkDone := State × List (GkFault × Nat)

/-- An id enters a bucket whose ids have been read, unless it is there, and nothing is read of the chain for one in its slots; a
chain that cannot be read is a spill that faults: its id is dropped and counted in DROPS (R358, R365). Log entry 91 (DEDUCED).
-/
def State.gkEnter (s : State) (k t : Nat) (x : Table) (nw : Bool) (h : Nat) (id : Word) : GkDone :=
  match s.gkIds k t x nw h with
  | .error f =>
    if (getBucket (if nw then x.newBuckets else x.buckets) h).ids.contains id then (s, [])
    else (s.updTable k t (fun x => { x with drops := satInc16 x.drops }), [(f, 1)])
  | .ok ids => (if ids.contains id then s else s.gkAppend k t nw h ids id, [])

/-- Move old bucket `m` into the new family's buckets; a fault changes nothing of the whole step. -/
def State.gkMoveBucket (s : State) (k t m : Nat) (nf : Family) : Except (GkFault × Nat) GkDone :=
  match (s.stack k).table t with
  | none => .ok (s, [])
  | some x =>
    match s.gkIds k t x false m with
    | .error f => .error (f, 1)
    | .ok ids =>
      let step (acc : Except (GkFault × Nat) GkDone) (id : Word) : Except (GkFault × Nat) GkDone :=
        match acc with
        | .error e => .error e
        | .ok (s, fs) =>
          match s.gkRow x.part x.tens id.toNat with
          | .error f => .error (f, 2)
          | .ok row =>
            match (s.stack k).table t with
            | none => .ok (s, fs)
            | some y => let (s, new) := s.gkEnter k t y true (nf.hash row) id; .ok (s, fs ++ new)
      match ids.foldl step (.ok (s, [])) with
      | .error e => .error e
      | .ok (s, fs) =>
        let s := match (s.stack k).table t with
          | some y =>
            (match s.fillBucket y.part k t y.cap (getBucket y.buckets m) [] with | some (_, s) => s | none => s)
          | none => s
        .ok (s.updTable k t (fun x => { x with buckets := setBucket x.buckets m {} }), fs)

/-- The buckets `m` to `m + n - 1`. -/
def State.gkMoveAll (s : State) (k t : Nat) (nf : Family) : (n m : Nat) → Except (GkFault × Nat) GkDone
  | 0, _ => .ok (s, [])
  | n + 1, m =>
    match s.gkMoveBucket k t m nf with
    | .error e => .error e
    | .ok (s, fs) =>
      match State.gkMoveAll s k t nf n (m + 1) with
      | .error e => .error e
      | .ok (s, more) => .ok (s, fs ++ more)

/-- One update performed on a table: the state after it and the spills that faulted, or the fault for which it changes no bucket.
Log entry 90 (DEDUCED). -/
def State.gkUpdate (s : State) (k t : Nat) (x : Table) (op : GkOp) : Except (GkFault × Nat) GkDone :=
  let st := s.stack k
  let fam (f : Nat) : Family := (st.family f).getD ⟨1, 1, 0#32⟩
  match op with
  | .tbl f w tens =>
    let s := s.freeChains k t
    let y : Table := { family := f, policy := w.extractLsb' 12 2, cap := tableWordCap w, tens := tens, part := x.part, buckets := []
                       newFamily := none, cursor := 0, newBuckets := [], seq := 0#32, accepted := x.accepted, evicts := 0#16, drops := 0#16
                       trunc := 0#16, spills := 0#16 }
    let named (r : GkRead) : Bool := r.tables.any (fun q => q.1 = 64 * k + t)
    .ok (s.updStack k (fun st => { st with
      tables := st.tables.set t (some y), reads := st.reads.map (fun (r : GkRead) => if named r then { r with empty := true } else r) }), [])
  | .ins row =>
    match s.gkRow x.part x.tens row.toNat with
    | .error f => .error (f, 2)
    | .ok v =>
      let (nw, h) := match x.newFamily with | some f => (true, (fam f).hash v) | none => (false, (fam x.family).hash v)
      .ok (s.gkEnter k t x nw h row)
  | .del row =>
    match s.gkRow x.part x.tens row.toNat with
    | .error f => .error (f, 2)
    | .ok v =>
      let h := (fam x.family).hash v
      match s.gkIds k t x false h, (x.newFamily.map (fun f => let h' := (fam f).hash v; (h', s.gkIds k t x true h'))) with
      | .error f, _ => .error (f, 1)
      | _, some (_, .error f) => .error (f, 1)
      | .ok ids, none => .ok (s.gkRemove k t false h ids row, [])
      | .ok ids, some (h', .ok ids') => .ok ((s.gkRemove k t false h ids row).gkRemove k t true h' ids' row, [])
  | .rehash f n =>
    let old := 2 ^ (fam x.family).bits
    if (x.newFamily.isSome && x.newFamily ≠ some f) || x.family = f then .ok (s, [])
    else
      let cur := if x.newFamily.isNone then 0 else x.cursor
      let stop := min (cur + n) old
      let s := s.updTable k t (fun x => { x with newFamily := some f })
      match s.gkMoveAll k t (fam f) (stop - cur) cur with
      | .error e => .error e
      | .ok (s, fs) => .ok (s.updTable k t (fun x =>
          if stop = old then { x with family := f, newFamily := none, cursor := stop, buckets := x.newBuckets, newBuckets := [] }
          else { x with cursor := stop }), fs)

/-- Requests to a line of a row wait (R413). -/
def State.gkHeld (s : State) (p : Nat) (t : TEntry) (r : Nat) : Bool :=
  let held (va : Nat) : Bool := match s.gkPlace p va with | .ok pl => s.stackHeld pl.space (pl.pa / 64) | .error _ => false
  s.stks.any Stack.fwBusy && (List.range (TEntry.dim t 0)).any (fun j =>
    held (TEntry.elemByte t (TEntry.idxOf t r j)).1 || (TEntry.isNf4b t && (held (TEntry.blockAddr t r j) || held (TEntry.bandAddr t r))))
/-- Requests to a row that an update reads wait (R413). -/
def State.gkOpHeld (s : State) (k t : Nat) (x : Table) : GkOp → Bool
  | .ins row | .del row => s.gkHeld x.part x.tens row.toNat
  | .rehash _ n => (List.range n).any (fun i =>
      match s.gkIds k t x false (x.cursor + i) with | .ok ids => ids.any (fun id => s.gkHeld x.part x.tens id.toNat) | .error _ => false)
  | .tbl _ _ _ => false

/-- The Gecko unit performs a table's next accepted update (R360): in number order, whatever it meets it takes its number,
and its result is that number. It waits for the order log when its chains are to be written (R279, R281). -/
def execGkStepPerform (k t : Nat) (s : State) : Host.Outcome State Fault Refusal :=
  match (s.stack k).updates.find? (fun u => u.table = t) with
  | none => .next s
  | some u =>
    let steps := match (s.stack k).table t with
      | some x => (match s.gkUpdate k t x u.op with | .ok (t, _) => (t.part u.part).devSeq - (s.part u.part).devSeq | .error _ => 0)
      | none => 0
    if (s.stack k).fwBusy || s.unitHeld 5 k || (match (s.stack k).table t with | some x => s.gkOpHeld k t x u.op | none => false) then .next s
    else if steps ≠ 0 && !s.mayStep u.part 4 (engineAgent 5 (64 * k + t)) (16 * steps) then .next (s.logFull u.part)
    else
      let s := s.updStack k (fun st => { st with updates := st.updates.erase u })
      match (s.stack k).table t with
      | none => .next (s.gkResult u.wid u.dst (fun w => w.write u.dst false 0 u.num.toNat))
      | some x =>
        let s := match s.gkUpdate k t x u.op with
          | .ok (s, fs) => fs.foldl (fun (s : State) (f : GkFault × Nat) => s.gkCause u.wid u.part (64 * k + t) f.1 f.2) s
          | .error (f, d) => s.gkCause u.wid u.part (64 * k + t) f d
        let s := match u.op with
          | .tbl _ _ _ => s
          | _ => (s.updTable k t (fun x => { x with seq := u.num })).gkResult u.wid u.dst (fun w => w.write u.dst false 0 u.num.toNat)
        .next (s.updStack k (fun st => st.settleSpill (t / 16)))

/-! ## Reads in the unit (R361, R362) -/

/-- The table's performed sequence has reached the minimum. -/
def seqReached (s min : Word) : Bool := min = 0#32 || !(s - min).getLsbD 31

/-- The ids that a read finds in one table, each once, at its first place; and the fault of a chain met. -/
def State.gkReadTable (s : State) (k t : Nat) (v : List Fp) : List Word × List (GkFault × Nat) :=
  match (s.stack k).table t with
  | none => ([], [])
  | some x =>
    let fam (f : Nat) : Family := ((s.stack k).family f).getD ⟨1, 1, 0#32⟩
    let h := (fam x.family).hash v
    let read (nw : Bool) (h : Nat) : List Word × List (GkFault × Nat) :=
      match s.gkIds k t x nw h with
      | .ok ids => (ids, [])
      | .error f => ((getBucket (if nw then x.newBuckets else x.buckets) h).ids, [(f, 1)])
    let a := match x.newFamily with | some f => read true ((fam f).hash v) | none => ([], [])
    let b := if x.newFamily.isNone || decide (x.cursor ≤ h) then read false h else ([], [])
    ((a.1 ++ b.1).eraseDups, a.2 ++ b.2)

/-- Every minimum of a read has been reached. -/
def State.gkReady (s : State) (k : Nat) (r : GkRead) : Bool :=
  r.empty || r.tables.all (fun q => match (s.stack k).table (gkTab q.1) with | some x => seqReached x.seq q.2 | none => true)

/-- acc := round(acc + w x x), from +0 (R362). -/
def gkDot (w x : List Fp) : Nat := (w.zip x).foldl (fun acc p => toF32 (fpFma .rn p.1 p.2 (Fmt.f32.value acc))) 0

/-! ### The top-k list (R367-R369) -/

/-- (v, i) ranks above (u, j). -/
def ranksAbove (a b : Word × Word) : Bool :=
  let x := Fmt.f32.value a.1.toNat
  let y := Fmt.f32.value b.1.toNat
  if x = .nan && y = .nan then decide (a.2.toNat < b.2.toNat)
  else if x = .nan then false
  else if y = .nan then true
  else Fp.lt y x || (Fp.eq x y && decide (a.2.toNat < b.2.toNat))
/-- Put an entry at its rank, below every entry that it does not rank above. -/
def placeEntry (e : Word × Word) : List (Word × Word) → List (Word × Word)
  | [] => [e]
  | x :: xs => if ranksAbove e x then e :: x :: xs else x :: placeEntry e xs
def fAdd (a b : Word) : Word := word (f32Sum a.toNat b.toNat)
def fSub (a b : Word) : Word := word (toF32 (fpSub .rn (Fmt.f32.value a.toNat) (Fmt.f32.value b.toNat)))

/-- topk_insert (R369). -/
def TopK.insert (t : TopK) (v i : Word) : TopK :=
  if i = 0xFFFFFFFF#32 then t
  else if t.entries.length < t.k then { t with entries := placeEntry (v, i) t.entries, sel := fAdd t.sel v }
  else
    match t.entries.getLast? with
    | some e =>
      if ranksAbove (v, i) e then
        { t with entries := placeEntry (v, i) t.entries.dropLast, sel := fAdd (fSub t.sel e.1) v, exc := fAdd t.exc e.1 }
      else { t with exc := fAdd t.exc v }
    | none => { t with exc := fAdd t.exc v }

/-- TRUNC of a table counts a read that returned more than 32 ids. -/
def State.gkTrunc (s : State) (k t n : Nat) : State :=
  if 32 < n then s.updTable k t (fun x => { x with trunc := satInc16 x.trunc }) else s

/-- Requests to the input of a read, or to a row that an evaluation reads, wait (R413). -/
def State.gkReadHeld (s : State) (k : Nat) (r : GkRead) : Bool :=
  !r.empty && (s.gkHeld r.part r.tens r.line ||
    (r.isEval && (match s.gkRow r.part r.tens r.line with
      | .error _ => false
      | .ok v => r.tables.any (fun q =>
        let tens := match (s.stack k).table (gkTab q.1) with | some x => x.tens | none => []
        (s.gkReadTable k (gkTab q.1) v).1.any (fun id => s.gkHeld r.part tens id.toNat)))))

/-- A waiting read is performed once its minima are reached (R361, R362, R365): probes return the ids, evaluations the
union's ids and values, which also enter the list with TOPK. -/
def execGkReadPerform (k n : Nat) (s : State) : Host.Outcome State Fault Refusal :=
  match (s.stack k).reads[n]? with
  | none => .next s
  | some r =>
    if r.withdrawn || (s.stack k).fwBusy || s.unitHeld 5 k || !s.gkReady k r || s.gkReadHeld k r then .next s
    else
      let s := s.updStack k (fun st => { st with reads := st.reads.eraseIdx n })
      let handle (i : Nat) : Nat := (r.tables.getD i (0, 0#32)).1
      let input : Except GkFault (List Fp) := if r.empty then .ok [] else s.gkRow r.part r.tens r.line
      let (v, s) : Option (List Fp) × State := match input with
        | .ok v => (if r.empty then none else some v, s)
        | .error f => (none, s.gkCause r.wid r.part (handle 0) f 3)
      let found : List (Nat × List Word × List (GkFault × Nat)) := match v with
        | none => []
        | some v => r.tables.map (fun q => let x := s.gkReadTable k (gkTab q.1) v; (q.1, x.1, x.2))
      let s := found.foldl (fun s x => x.2.2.foldl (fun s f => s.gkCause r.wid r.part x.1 f.1 f.2) s) s
      let ids := (found.flatMap (fun x => x.2.1)).eraseDups
      let fill (xs : List Word) (d : Word) : List Word := (List.range 32).map (fun i => xs.getD i d)
      if !r.isEval then
        let row := fill ids 0xFFFFFFFF#32
        let s := s.gkTrunc k (gkTab (handle 0)) ids.length
        .next (s.gkResult r.wid r.dst (fun w => (List.range 32).foldl (fun w l => w.write r.dst false l (row.getD l 0#32).toNat) w))
      else
        let tens := match (s.stack k).table (gkTab (handle 0)) with | some x => x.tens | none => []
        let evals := ids.map (fun id => (id, s.gkRow r.part tens id.toNat))
        let s := evals.foldl (fun s x => match x.2 with | .error f => s.gkCause r.wid r.part (handle 0) f 2 | .ok _ => s) s
        let us : List (Word × Word) := evals.filterMap (fun x => match x.2 with | .ok w => some (x.1, word (gkDot w (v.getD []))) | .error _ => none)
        let s := s.gkTrunc k (gkTab (handle 0)) us.length
        let is := fill (us.map Prod.fst) 0xFFFFFFFF#32
        let vs := fill (us.map Prod.snd) 0xFF800000#32
        .next ((s.gkResult r.wid r.dst (fun w => (List.range 32).foldl (fun w l =>
          (w.write r.dst false l (is.getD l 0#32).toNat).write (r.dst + 1#9) false l (vs.getD l 0#32).toNat) w)).updWave r.wid (fun w =>
            { w with
              claims := w.claims.erase (r.dst + 1#9)
              topk := if r.topk then us.foldl (fun t u => t.insert u.2 u.1) w.topk else w.topk
              topkClaims := if r.topk then w.topkClaims - 1 else w.topkClaims }))

/-! ## Acceptance (R353, R373) -/

/-- Cause 40 with its DETAIL. Log entry 91 (DEDUCED). -/
def Cx.gk40 (c : Cx) (d : Nat) : Trap := { c.all 40#6 with detail := BitVec.ofNat 16 d }

/-- The group of a handle is the context's, of its world. While the stack's base die activates firmware its Gecko
instructions wait (R413). Log entry 91 (DEDUCED). -/
def Cx.groupOk (c : Cx) (k g : Nat) : Option Res :=
  let v := (c.s.stack k).gkGroup g
  if (c.s.stack k).fwBusy then some (.wait c.s .queue 9 0 0)
  else if !bit v 7 || v % 16 ≠ c.part then some (.trap (c.gk40 2))
  else if bit v 6 ≠ c.s.world c.part then some (.trap (c.all 19#6))
  else none
/-- A table handle: its stack and table, or the refusal. Log entry 90 (DEDUCED). -/
def Cx.gkTable (c : Cx) (h : Nat) : Except Res (Nat × Nat) :=
  if 768 ≤ h then .error (.trap (c.gk40 1))
  else match c.groupOk (h / 64) (h % 64 / 16) with | some t => .error t | none => .ok (h / 64, h % 64)
/-- A family handle. -/
def Cx.gkFamily (c : Cx) (h : Nat) : Except Res (Nat × Nat) :=
  if 192 ≤ h then .error (.trap (c.gk40 1))
  else match c.groupOk (h / 16) (h % 16 / 4) with | some t => .error t | none => .ok (h / 16, h % 16)

/-- A format of rows and inputs (R356). -/
def gkFormat (t : TEntry) : Bool :=
  match TEntry.ty t with | some x => [Ty.f32, .f16, .bf16, .e4m3, .e5m2, .e2m1, .nf4b].contains x | none => false
/-- A tensor entry of rows or inputs of dimension `d`: the entry, or DETAIL 5. -/
def Cx.gkTensor (c : Cx) (id d : Nat) : Except Res (TEntry × State) :=
  match c.s.tensorEntry (dieOf c.w.core) c.part id with
  | .error (k, a) => .error (c.fails { c.all k with addr := dword a })
  | .ok (t, s) =>
    if (TEntry.check t (c.s.world c.part)).isSome || 1 < TEntry.ndim t || TEntry.dim t 0 ≠ d || !gkFormat t then .error (.trap (c.gk40 5))
    else .ok (t, s)

/-- An accepted update joins its table's order; its destination is held until it has been performed. -/
def Cx.gkAccept (c : Cx) (s : State) (k t : Nat) (op : GkOp) : State :=
  let num := match (s.stack k).table t with | some x => x.accepted + 1#32 | none => 1#32
  let u : GkUpd := { table := t, num := num, wid := c.wid, part := c.part, dst := c.e.dst, op := op }
  let s := (s.updTable k t (fun x => { x with accepted := num })).updStack k (fun st => { st with updates := st.updates ++ [u] })
  match Dst.of c.e.dst with
  | .s _ => s.updWave c.wid (fun w => { w with claims := w.claims ++ [c.e.dst] })
  | _ => s

/-- A read joins its unit. -/
def Cx.gkSend (c : Cx) (s : State) (k : Nat) (r : GkRead) : State :=
  (s.updStack k (fun st => { st with reads := st.reads ++ [r] })).updWave c.wid (fun w => { w with
    claims := w.claims ++ r.dests, topkClaims := if r.topk then w.topkClaims + 1 else w.topkClaims })

/-! ## The instructions -/

/-- `gk.hf` (R355). -/
def execGkHf (e : Enc) (s : State) : Host.Outcome State Fault Refusal :=
  simt 0xD0 e s (fun c =>
    match c.gkFamily (c.n32 e.a) with
    | .error t => t
    | .ok (k, f) =>
      let w := c.n32 e.b
      let b := bitsOf w 20 16
      let d := bitsOf w 13 0
      if bitsOf w 31 28 ≠ 0 || bitsOf w 27 21 ≠ 0 || bitsOf w 15 14 ≠ 0 || b = 0 || 16 < b || d = 0 || 8192 < d then .trap (c.gk40 3)
      else if (c.s.stack k).famUsed f then .trap (c.gk40 7)
      else .done (c.s.updStack k (fun st => { st with families := st.families.set f (some ⟨b, d, word (c.n32 e.c)⟩) })))

/-- `gk.tbl` (R356). -/
def execGkTbl (e : Enc) (s : State) : Host.Outcome State Fault Refusal :=
  simt 0xD1 e s (fun c =>
    let th := c.n32 e.a
    let fh := c.n32 e.b
    let w := word (c.n32 e.c)
    if 768 ≤ th || 192 ≤ fh || th / 64 ≠ fh / 16 then .trap (c.gk40 1)
    else
      match c.gkTable th, c.gkFamily fh with
      | .error t, _ => t
      | _, .error t => t
      | .ok (k, t), .ok (_, f) =>
        let st := c.s.stack k
        match st.family f with
        | none => .trap (c.gk40 3)
        | some fam =>
          let x := w.toNat
          let spill := (st.spillSize.getD (t / 16) 0#64).toNat
          if bitsOf x 31 14 ≠ 0 || bitsOf x 13 12 = 3 || bitsOf x 11 10 = 3 || (bitsOf x 13 12 = 2 && spill = 0) then .trap (c.gk40 4)
          else
            match c.gkTensor (bitsOf x 9 0) fam.dim with
            | .error t => t
            | .ok (tens, s) =>
              if st.dirFree + st.tabHeld t < gkSpace fam.bits (tableWordCap w) then .trap (c.gk40 6)
              else
                match st.table t with
                | some _ =>
                  let u : GkUpd := { table := t, num := 0#32, wid := c.wid, part := c.part, dst := 511#9, op := .tbl f w tens }
                  .done ((s.updTable k t (fun x => { x with accepted := 0#32 })).updStack k (fun st => { st with updates := st.updates ++ [u] }))
                | none =>
                  let y : Table := { family := f, policy := w.extractLsb' 12 2, cap := tableWordCap w, tens := tens, part := c.part, buckets := []
                                     newFamily := none, cursor := 0, newBuckets := [], seq := 0#32, accepted := 0#32, evicts := 0#16
                                     drops := 0#16, trunc := 0#16, spills := 0#16 }
                  .done (s.updStack k (fun st => { st with tables := st.tables.set t (some y) })))

/-- gk.ins and gk.del at acceptance: the row must lie below the table's row count. -/
def Cx.gkRowOp (c : Cx) (op : Word → GkOp) : Res :=
  match c.gkTable (c.n32 c.e.a) with
  | .error t => t
  | .ok (k, t) =>
    match (c.s.stack k).view t with
    | none => .trap (c.gk40 4)
    | some v =>
      let row := c.n32 c.e.b
      if gkRows v.tens ≤ row then .trap (c.gk40 5) else .done (c.gkAccept c.s k t (op (word row)))

/-- `gk.ins` (R358). -/
def execGkIns (e : Enc) (s : State) : Host.Outcome State Fault Refusal := simt 0xD2 e s (fun c => c.gkRowOp .ins)
/-- `gk.del` (R358). -/
def execGkDel (e : Enc) (s : State) : Host.Outcome State Fault Refusal := simt 0xD3 e s (fun c => c.gkRowOp .del)

/-- The input of a read: tensor and line, against a table's family dimension. -/
def Cx.gkInput (c : Cx) (w d : Nat) : Except Res (TEntry × State) :=
  match c.gkTensor (w % 1024) d with
  | .error t => .error t
  | .ok (t, s) => if gkRows t ≤ w / 1024 then .error (.trap (c.gk40 5)) else .ok (t, s)

/-- `gk.probe` (R361). -/
def execGkProbe (e : Enc) (s : State) : Host.Outcome State Fault Refusal :=
  simt 0xD4 e s (fun c =>
    match c.gkTable (c.n32 e.a) with
    | .error t => t
    | .ok (k, t) =>
      match (c.s.stack k).table t with
      | none => .trap (c.gk40 4)
      | some x =>
        let w := c.n32 e.b
        match c.gkInput w (TEntry.dim x.tens 0) with
        | .error t => t
        | .ok (tens, s) =>
          .done (c.gkSend s k { wid := c.wid, part := c.part, dst := e.dst, isEval := false, topk := false
                                tables := [(64 * k + t, word (c.n32 e.c))], line := w / 1024, tens := tens, empty := false, withdrawn := false }))

/-- `gk.rehash` (R359). -/
def execGkRehash (e : Enc) (s : State) : Host.Outcome State Fault Refusal :=
  simt 0xD5 e s (fun c =>
    let th := c.n32 e.a
    let fh := c.n32 e.b
    let n := c.n32 e.c
    if 768 ≤ th || 192 ≤ fh || th / 64 ≠ fh / 16 then .trap (c.gk40 1)
    else
      match c.gkTable th, c.gkFamily fh with
      | .error t, _ => t
      | _, .error t => t
      | .ok (k, t), .ok (_, f) =>
        let st := c.s.stack k
        match st.family f, st.view t with
        | none, _ => .trap (c.gk40 3)
        | _, none => .trap (c.gk40 4)
        | some fam, some v =>
          let d := match st.family v.family with | some x => x.dim | none => 0
          if n = 0 || f = v.family || fam.dim ≠ d || (v.newFamily.isSome && v.newFamily ≠ some f) then .trap (c.gk40 8)
          else if v.newFamily.isNone && decide (st.dirFree < gkSpace fam.bits v.cap) then .trap (c.gk40 6)
          else .done (c.gkAccept c.s k t (.rehash f n)))

/-- The tables of an eval block: each handle and minimum, or the first refusal. -/
def Cx.evalTables (c : Cx) (m : Nat) : (n i : Nat) → Except Res (List (Nat × Word × Table))
  | 0, _ => .ok []
  | n + 1, i =>
    match c.gkTable (c.w.sget (m + 4 + 2 * i)).toNat with
    | .error t => .error t
    | .ok (k, t) =>
      match (c.s.stack k).table t with
      | none => .error (.trap (c.gk40 4))
      | some x =>
        match Cx.evalTables c m n (i + 1) with
        | .error t => .error t
        | .ok rest => .ok ((64 * k + t, c.w.sget (m + 5 + 2 * i), x) :: rest)

/-- `gk.eval` (R362); R354's check of its block is the frame's (`evalBlockOk`). With TOPK and k 0 it is refused with DETAIL 9 by the core. -/
def execGkEval (e : Enc) (s : State) : Host.Outcome State Fault Refusal :=
  simt 0xD6 e s (fun c =>
    let m := match Sel.of e.a with | .s n => n | _ => 0
    let g (i : Nat) : Nat := (c.w.sget (m + i)).toNat
    let n := g 0
    let topk := g 2 % 2 = 1
    if topk && c.w.topk.k = 0 then .trap (c.gk40 9)
    else if n = 0 || 4 < n || 2 ≤ g 2 || g 3 ≠ 0 then .trap (c.gk40 10)
    else
      match c.evalTables m n 0 with
      | .error t => t
      | .ok ts =>
        match ts with
        | [] => .trap (c.gk40 10)
        | (h, _, x) :: _ =>
          if ts.any (fun y => y.1 / 64 ≠ h / 64 || y.2.2.tens ≠ x.tens) then .trap (c.gk40 10)
          else
            match c.gkInput (g 1) (TEntry.dim x.tens 0) with
            | .error t => t
            | .ok (tens, s) =>
              .done (c.gkSend s (h / 64) { wid := c.wid, part := c.part, dst := e.dst, isEval := true, topk := topk
                                           tables := ts.map (fun y => (y.1, y.2.1)), line := g 1 / 1024, tens := tens, empty := false
                                           withdrawn := false }))

/-- `gk.seq` (R364). -/
def execGkSeq (e : Enc) (s : State) : Host.Outcome State Fault Refusal :=
  simt 0xD7 e s (fun c =>
    match c.gkTable (c.n32 e.a) with
    | .error t => t
    | .ok (k, t) =>
      match (c.s.stack k).table t with
      | none => .trap (c.gk40 4)
      | some x =>
        let hi := x.cursor + (match x.newFamily with | some f => 2 ^ 31 + f * 2 ^ 20 | none => 0)
        .done (c.s.updWave c.wid (fun w => w.write e.dst true 0 (x.seq.toNat + (hi + x.family * 2 ^ 24) * 2 ^ 32))))

/-- `gk.stat` (R364). -/
def execGkStat (e : Enc) (s : State) : Host.Outcome State Fault Refusal :=
  simt 0xD8 e s (fun c =>
    match c.gkTable (c.n32 e.a) with
    | .error t => t
    | .ok (k, t) =>
      match (c.s.stack k).table t with
      | none => .trap (c.gk40 4)
      | some x =>
        .done (c.s.updWave c.wid (fun w => w.write e.dst true 0
          (x.evicts.toNat * 2 ^ 16 + x.drops.toNat + (x.trunc.toNat * 2 ^ 16 + x.spills.toNat) * 2 ^ 32))))

/-! ## GK_ASSIGN (R352) -/

/-- Group `g` changes hands: its families and tables become uninitialised, its spill area is abandoned, its accepted
updates report their numbers without effect, and its waiting reads complete empty. Log entry 90 (DEDUCED). -/
def State.gkReassign (s : State) (k g : Nat) : State :=
  let st := s.stack k
  let of (t : Nat) : Bool := t / 16 = g
  let dead := st.updates.filter (fun u => of u.table)
  let s := s.updStack k (fun st => { st with
    families := st.families.zipIdx.map (fun f => if f.2 / 4 = g then none else f.1)
    tables := st.tables.zipIdx.map (fun t => if of t.2 then none else t.1)
    spillUsed := st.spillUsed.set g []
    updates := st.updates.filter (fun u => !of u.table)
    reads := st.reads.map (fun (r : GkRead) => if r.tables.any (fun q => of (gkTab q.1)) then { r with empty := true } else r) })
  let s := dead.foldl (fun s u => s.gkResult u.wid u.dst (fun w => w.write u.dst false 0 u.num.toNat)) s
  s.updStack k (fun st => st.settleSpill g)

/-- A write of GK_ASSIGN. -/
def execGkAssignWrite (k : Nat) (v : Dword) (s : State) : Host.Outcome State Fault Refusal :=
  let x := v &&& 0xCFCFCFCF#64
  let old := s.stack k
  let s := s.updStack k (fun st => { st with gkAssign := x })
  .next ((List.range 4).foldl (fun s g => if old.gkGroup g = (s.stack k).gkGroup g then s else s.gkReassign k g) s)

end Sys2Proof.Machine
end

