-- ==== Sys2Proof/Machine/TopK.lean ====
section
/-! DEFINITION. The top-k instructions 0xD9-0xDD (R367-R372). -/

namespace Sys2Proof.Machine

open Sys2Proof

/-- Replace the wave's list. -/
def Cx.setTopK (c : Cx) (t : TopK) : State := c.s.updWave c.wid (fun w => { w with topk := t })

/-- `topk.ins` (R370). -/
def execTopkIns (e : Enc) (s : State) : Host.Outcome State Fault Refusal :=
  simt 0xD9 e s (fun c =>
    if c.w.topk.k = 0 then .trap (c.gk40 9)
    else .done (c.setTopK ((lanesOf c.active).foldl (fun t l =>
      t.insert (word (c.src e.a .b32 l)) (word (c.src e.b .b32 l))) c.w.topk)))

/-- Word `i` of a list image. -/
def imageWord (m : List Byte) (i : Nat) : Word := word (leNat ((m.drop (4 * i)).take 4))
/-- I of R371: the entries of an image below its COUNT that hold an index. -/
def imageEntries (m : List Byte) : List (Word × Word) :=
  ((List.range (imageWord m 1).toNat).map (fun e => (imageWord m (16 + e), imageWord m (80 + e)))).filter (fun x => x.2 ≠ 0xFFFFFFFF#32)
/-- Entries in rank order (R368), equal ones in the order given. Log entry 60 (DEDUCED). -/
def rankSort (xs : List (Word × Word)) : List (Word × Word) := xs.foldl (fun acc x => placeEntry x acc) []
/-- Of entries in rank order, the highest of each index. Log entry 60 (DEDUCED). -/
def onceEach : List (Word × Word) → List (Word × Word)
  | [] => []
  | x :: xs => x :: (onceEach xs).filter (fun y => y.2 ≠ x.2)

/-- The merge of a list with an image (R371). Where a list holds an index twice, its copy is the higher-ranked one (log
entry 60). -/
def TopK.merge (t : TopK) (m : List Byte) : TopK :=
  let a := onceEach t.entries
  let b := onceEach (rankSort (imageEntries m))
  let both := (a.filterMap (fun x => (b.find? (fun y => y.2 = x.2)).map (fun y => (x.2, if ranksAbove y x then x.1 else y.1))))
  let byIndex := both.foldl (fun acc x => (acc.takeWhile (fun y => decide (y.1.toNat < x.1.toNat))) ++ x :: acc.dropWhile (fun y => decide (y.1.toNat < x.1.toNat))) []
  let total := byIndex.foldl (fun s x => fSub s x.2) (fAdd (fAdd t.sel t.exc) (fAdd (imageWord m 2) (imageWord m 3)))
  let list := (onceEach (rankSort (t.entries ++ imageEntries m))).take t.k
  let sel := list.foldl (fun s x => fAdd s x.1) 0#32
  { t with entries := list, sel := sel, exc := fSub total sel }

/-- `topk.mrg` (R371): the nine lines of the image are read as a load reads them, then the lists are merged. A poisoned
image merges nothing (R138). Log entry 61 (DEDUCED). -/
def execTopkMrg (e : Enc) (s : State) : Host.Outcome State Fault Refusal :=
  simt 0xDA e s (fun c =>
    let base := (c.addr e.a + c.offset e.b c.lane0) % 2 ^ 64
    if c.w.stage = 0 then
      let o : OutLoad := { kind := .image base, dst := 511#9, vec := false, lanes := c.lanes, zeros := 0#32, size := 576
                           addrs := [some base], got := [], remain := [], direct := c.w.hnd, noCopy := false, addr := 0#64, poison := false, issued := c.s.clk }
      let c := c.on (c.s.updWave c.wid (fun w => { w with image := [] }))
      match c.issueLoad false [] ((List.range 9).map (fun i => ⟨0, base + 64 * i, 64⟩)) [] o 0 with
      | .done s => if c.w.topk.k = 0 then .trap (c.gk40 9) else .wait s .list 9 9 0
      | r => r
    else if c.w.loads.any (fun o => match o.kind with | .image _ => true | _ => false) then .wait c.s .list 9 9 0
    else if c.w.image.isEmpty then .done c.s
    else if 64 < (imageWord c.w.image 1).toNat then .trap (c.gk40 9)
    else .done (c.setTopK (c.w.topk.merge c.w.image)))

/-- `topk.rd` (R372). -/
def execTopkRd (e : Enc) (s : State) : Host.Outcome State Fault Refusal :=
  simt 0xDB e s (fun c =>
    let h := c.n32 e.a
    if 1 < h then .trap (c.all 2#6)
    else
      let get (l : Nat) : Word :=
        match c.w.topk.entries[32 * h + l]? with
        | some x => if tyOf e = .f32 then x.1 else x.2
        | none => if tyOf e = .f32 then 0xFF800000#32 else 0xFFFFFFFF#32
      .done (c.s.updWave c.wid (fun w => (lanesOf c.lanes).foldl (fun w l => w.write e.dst false l (get l).toNat) w)))

/-- `topk.clr` (R372). -/
def execTopkClr (e : Enc) (s : State) : Host.Outcome State Fault Refusal :=
  simt 0xDC e s (fun c =>
    let k := c.n32 e.a
    if k = 0 || 64 < k then .trap (c.gk40 9) else .done (c.setTopK { k := k }))

/-- `topk.sum` (R372). -/
def execTopkSum (e : Enc) (s : State) : Host.Outcome State Fault Refusal :=
  simt 0xDD e s (fun c =>
    .done (c.s.updWave c.wid (fun w => w.write e.dst true 0 (c.w.topk.sel.toNat + c.w.topk.exc.toNat * 2 ^ 32))))

end Sys2Proof.Machine
end

