-- ==== Sys2Proof/Machine/Swap.lean ====
section
/-! DEFINITION. Partition swaps (R271, R272) and Tadpole's checkpoints and replays (R278, R279, R281). -/

namespace Sys2Proof.Machine

open Sys2Proof

/-! ## Halting a partition (R271) -/

def State.residentsOf (s : State) (p : Nat) : List Block := s.blocks.filter (fun b => s.partOfBlock b.uid = p && b.status ≠ .saved)
def State.regionsOf (s : State) (p : Nat) : List (Nat × Region) :=
  s.stks.zipIdx.flatMap (fun (x : Stack × Nat) => (x.1.regions.filter (fun r => r.part = p)).map (fun r => (x.2, r)))

/-- %preq for every wave of the partition, and a drain of each of its regions. -/
def State.requestHalt (s : State) (p : Nat) (why : PreWhy) : State :=
  let s := s.updPart p (fun x => { x with swapping := true })
  let s := (s.residentsOf p).foldl (fun s b => s.requestPre b.uid why) s
  { s with stks := s.stks.map (fun (st : Stack) => { st with regions := st.regions.map (fun r => if r.part = p then r.request .swap else r) }) }

/-- Bytes of a halted partition's image on each die that do not fit in SHADOW.MIB (R272). -/
def State.excess (s : State) (p : Nat) : Nat :=
  [0, 1].foldl (fun n die =>
    let bs := (s.residentsOf p).filter (fun b => dieOf b.core = die)
    let on (b : Block) : Bool := bs.any (fun x => x.uid = b.uid)
    let img : PartImage :=
      { waves := s.waves.filter (fun w => bs.any (fun b => b.uid = w.blk)), blocks := bs
        clusters := s.clusters.filter (fun c => dieOf (8 * c.group) = die && (s.grid? c.grid).any (fun g => g.launch.part = p)), grids := [], cmds := []
        acc := ((s.cores.zipIdx).filter (fun x => dieOf x.2 = die)).flatMap (fun x =>
          (x.1.acc.filter (fun r => (s.block? r.owner).any on)).map (fun r => (x.2, r)))
        regions := [], reads := [], devSeq := 0 }
    n + (img.bytes - (s.part p).shadow.toNat * 2 ^ 20)) 0
/-- The units of the save area that the excess takes: the lowest free ones; none while there are too few.
Log entry 125 (DESIGN CHOICE). -/
def State.excessUnits (s : State) (p : Nat) : Option (List Nat) :=
  let n := (s.excess p + 65535) / 65536
  let size := match (s.part p).ctx with | some c => c.saveSize | none => 0
  let free := (List.range size).filter (fun u => !(s.saveUnits p).contains u)
  if n ≤ free.length then some (free.take n) else none

/-- Every wave of the partition has stopped with %acks 0, the waits of R250 have ended, its regions have drained, and what does not fit in
shadow storage finds room in the save area (R272). -/
def State.haltReady (s : State) (p : Nat) (why : PreWhy) : Bool :=
  (s.residentsOf p).all (fun b =>
      b.status = .resident && (match b.pre with | some r => r.why = why | none => false) && !s.blockCopies b.uid
        && b.members.all (fun w => match s.wave? w with | some x => x.stopped && x.acks = 0 | none => true))
    && (s.regionsOf p).all (fun r => !r.2.active) && (why = .tadpole || (s.excessUnits p).isSome)

/-- The partition is halted: its blocks leave their cores with their rows, and its translations are dropped. -/
def State.halt (s : State) (p : Nat) : State :=
  let us := (s.residentsOf p).map Block.uid
  let units := (s.excessUnits p).getD []
  let s := us.foldl (fun s u =>
    match s.block? u with
    | none => s
    | some b =>
      let rows := (s.core b.core).acc.filter (fun x => x.owner = u)
      (s.updCore b.core (fun c => { c with acc := c.acc.filter (fun x => x.owner ≠ u) })).updBlock u (fun b => { b with status := .saved, savedRows := rows })) s
  (s.updMem (fun m => { m with tlb := m.tlb.filter (fun t => t.part ≠ p) })).updPart p (fun x => { x with halted := true, swapped := us, swapUnits := units })

/-- A block in shadow storage fits its own core again, whose group still has the partition's world (R403).
Log entry 93 (DEDUCED). -/
def State.fitsBack (s : State) (b : Block) : Bool :=
  s.ofWorld (s.partOfBlock b.uid) b.core && s.hasRoom b.core (s.heldRoom b) && !s.rowsOwned b.core b.savedRows

/-- A wave keeps its slot, or takes the lowest free one of its core when another wave is there (log entry 19).
Log entry 93 (DEDUCED). -/
def State.reslot (s : State) (w : Nat) (core : Nat) : State :=
  match s.wave? w with
  | none => s
  | some x =>
    let taken (i : Nat) : Bool := s.waves.any (fun y => y.wid ≠ w && y.core = core && y.slot = i &&
      (match s.block? y.blk with | some b => b.status ≠ .saved | none => false))
    if taken x.slot then s.updWave w (fun y => { y with slot := lowestFree 48 taken }) else s

/-- A block comes back onto its core: its rows and slots, and its waves go on at their next instruction.
Log entries 19 (DESIGN CHOICE), 93 (DEDUCED). -/
def State.bringBack (s : State) (u : Nat) : State :=
  match s.block? u with
  | none => s
  | some b =>
    let s := s.updCore b.core (fun c => { c with acc := c.acc ++ b.savedRows })
    let bs := if s.blkSlotTaken b.core b.blkSlot then lowestFree 16 (s.blkSlotTaken b.core) else b.blkSlot
    let s := s.updBlock u (fun x => { x with status := .resident, blkSlot := bs, savedRows := [], pre := none })
    b.members.foldl (fun s w =>
      let s := s.reslot w b.core
      let s : State := match s.wave? w with | some x => if x.phase = Phase.restore then s else s.gkResend w | none => s
      s.updWave w (fun x =>
        let x := { x with preq := false, starved := 0, lastIssue := s.clk, barked := false, acqDev := s.now }
        if x.mcheck then x else { x with stopped := false, saveDone := false, stall := 0#4 })) s

/-- The blocks of a list come back in order, when each finds its core free. Log entry 93 (DEDUCED). -/
def State.bringAll (s : State) : List Nat → Option State
  | [] => some s
  | u :: us =>
    match s.block? u with
    | none => State.bringAll s us
    | some b => if s.fitsBack b then State.bringAll (s.bringBack u) us else none

/-- The partition resumes. A block whose core has failed meanwhile, or is being swapped, is pre-empted as it comes back (R413, R414). -/
def State.resume (s : State) (p : Nat) : Option State :=
  let us := (s.part p).swapped
  (s.tickNow.bringAll us).map (fun s =>
    let s := s.updPart p (fun x => { x with swapping := false, halted := false, swapped := [], swapUnits := [] })
    (us.foldl (fun s u => match s.block? u with | some b => s.arrivalPre u b.core | none => s) s).distribute none)

/-- PARTITION_SWAP (R271): the halt of a partition is asked for, and performed once it is ready. -/
def execPartitionSwap (p : Nat) (s : State) : Host.Outcome State Fault Refusal :=
  if (s.part p).ckptReq || (s.part p).halted || 16 ≤ p then .next s
  else
    let s := s.requestHalt p .swap
    .next (if s.haltReady p .swap then s.halt p else s)

/-- PARTITION_SWAP_IN (R271): the copy is reversed onto the same cores. -/
def execPartitionSwapIn (p : Nat) (s : State) : Host.Outcome State Fault Refusal :=
  if !(s.part p).halted then .next s else .next ((s.resume p).getD s)

/-! ## Checkpoints (R278, R281) -/

/-- What a checkpoint holds of a halted partition. Log entry 94 (DESIGN CHOICE). -/
def State.imageOf (s : State) (p : Nat) : PartImage :=
  let gs := s.grids.filter (fun g => g.launch.part = p)
  let bs := s.blocks.filter (fun b => gs.any (fun g => g.uid = b.grid))
  { waves := s.waves.filter (fun w => s.partOfBlock w.blk = p), blocks := bs
    clusters := s.clusters.filter (fun c => gs.any (fun g => g.uid = c.grid)), grids := gs
    cmds := s.cmds.filter (fun c => bs.any (fun b => b.uid = c.blk)), acc := bs.flatMap (fun b => b.savedRows.map (fun r => (b.core, r)))
    regions := s.regionsOf p
    reads := s.stks.zipIdx.flatMap (fun (x : Stack × Nat) => (x.1.reads.filter (fun r => r.part = p)).map (fun r => (x.2, r)))
    devSeq := (s.part p).devSeq }

/-- A checkpoint is asked for, and taken once the partition is halted; the partition then resumes. An image that does not
fit in TAD_SIZE is not taken (R281). Log entry 94 (DESIGN CHOICE). -/
def State.checkpointStep (s : State) (p : Nat) : State :=
  let s := (s.requestHalt p .tadpole).updPart p (fun x => { x with ckptReq := true })
  if !s.haltReady p .tadpole then s
  else
    let s := s.halt p
    let img := s.imageOf p
    let s := s.updPart p (fun x => { x with ckptReq := false, ckptAt := s.clk })
    let s :=
      if (s.part p).tadSize.toNat * 65536 < img.bytes then s.postFault p 3 52#6 0#64 0 p
      else s.updPart p (fun x => { x with ckpt := some img, undo := [], log := [], tadPos := 0#64, logStalled := false })
    (s.resume p).getD s

/-- TADPOLE_CHECKPOINT: the interval has passed, or a checkpoint that was asked for is taken. -/
def execTadpoleCheckpoint (p : Nat) (s : State) : Host.Outcome State Fault Refusal :=
  let x := s.part p
  let due := x.dbgCtl.getLsbD 3 && !x.dbgCtl.getLsbD 2 && x.tadIvl ≠ 0#32 && decide (x.tadIvl.toNat * clocksPerUs ≤ s.since x.ckptAt) && !x.swapping
  if 16 ≤ p || x.halted || s.unitHeld 3 p || !(x.ckptReq || due) then .next s else .next (s.checkpointStep p)

/-- TAD_CMD_CKPT (R280): a write of TAD_CMD with CKPT set, while Tadpole logs. Log entry 95 (DEDUCED). -/
def execTadCmdCkpt (p : Nat) (v : Dword) (s : State) : Host.Outcome State Fault Refusal :=
  let x := s.part p
  if 16 ≤ p || !v.getLsbD 0 || !x.dbgCtl.getLsbD 3 || x.dbgCtl.getLsbD 2 || x.halted || (x.swapping && !x.ckptReq) then .next s
  else .next (s.checkpointStep p)

/-! ## Replay (R279) -/

/-- One line goes back to its contents at the checkpoint (R279): those at its home, and for a system-homed line the bytes that an
L2 held for it. -/
def Mem.undoLine (m : Mem) (u : UndoLine) : Mem :=
  match u.space with
  | .hbm => { m with hbm := m.hbm.writeN (64 * u.line) u.data }
  | sp =>
    { (m.set sp ((m.get sp).writeN (64 * u.line) u.data)) with
        sysL2 := m.sysL2.filter (fun x => !(x.1 = sp && x.2.line = u.line)) ++ u.l2.toList.map (fun l => (sp, l)) }
/-- Memory goes back to the checkpoint: each line written since gets its old contents. -/
def State.undoWrites (s : State) (p : Nat) : State :=
  ((s.part p).undo.reverse.foldl (fun (s : State) u =>
    let s := s.tickNow.keepPast u.space u.line
    s.updMem (fun m => (m.copiesGone u.space u.line s.now).undoLine u)) s).updPart p (fun x => { x with undo := [] })

/-- The work of a partition leaves the machine. Log entry 95 (DEDUCED). -/
def State.clearWork (s : State) (p : Nat) : State :=
  let gs := (s.grids.filter (fun g => g.launch.part = p)).map Grid.uid
  let bs := (s.blocks.filter (fun b => gs.contains b.grid)).map Block.uid
  { s with
    waves := s.waves.filter (fun w => !bs.contains w.blk), cmds := s.cmds.filter (fun c => !bs.contains c.blk)
    blocks := s.blocks.filter (fun b => !gs.contains b.grid), clusters := s.clusters.filter (fun c => !gs.contains c.grid)
    grids := s.grids.filter (fun g => !gs.contains g.uid)
    cores := s.cores.map (fun (c : Core) => { c with acc := c.acc.filter (fun r => !bs.contains r.owner) })
    stks := s.stks.map (fun (st : Stack) => { st with
      regions := st.regions.filter (fun r => r.part ≠ p), reads := st.reads.filter (fun r => r.part ≠ p) }) }

/-- A checkpoint's work stands in the machine, halted. Log entry 95 (DEDUCED). -/
def State.placeImage (s : State) (p : Nat) (i : PartImage) : State :=
  let s := { s with waves := s.waves ++ i.waves, blocks := s.blocks ++ i.blocks, clusters := s.clusters ++ i.clusters
                    grids := s.grids ++ i.grids, cmds := s.cmds ++ i.cmds }
  let s := i.regions.foldl (fun s r => s.updStack r.1 (fun st => { st with regions := st.regions ++ [r.2] })) s
  let s := i.reads.foldl (fun s r => s.updStack r.1 (fun st => { st with reads := st.reads ++ [r.2] })) s
  s.updPart p (fun x => { x with
    halted := true, swapping := true, devSeq := i.devSeq, swapped := (i.blocks.filter (fun b => b.pre.isSome)).map Block.uid
    arrSaveUsed := (i.regions.filter (fun r => r.2.drained)).foldl (fun n r => n + r.2.saveUnits) 0 })

/-- The replay starts: the checkpoint is restored, and its log is what is re-executed. It waits while another partition
holds the cores or region slots that the image needs. Log entries 63 (DEDUCED), 95 (DEDUCED). -/
def State.startReplay (s : State) (p : Nat) (i : PartImage) : State :=
  let t := ((s.clearWork p).undoWrites p).placeImage p i
  let clash := i.regions.any (fun r => ((s.clearWork p).stack r.1).regions.any (fun q => q.slot = r.2.slot && q.holdsSlot))
  if clash then s
  else
    match t.resume p with
    | none => s
    | some t => t.updPart p (fun x => { x with replay := x.log, replayPh := .running, tadPos := 0#64 })

/-- The home that a device address of KIND 5 names in bits [57:56], as a leaf's HOME. Log entry 126 (DESIGN CHOICE). -/
def outsideSpace (a : Dword) : Space := leafSpace (dword (bitsOf a.toNat 57 56 * 256))

/-- A write that came from outside is performed again from its entry (KIND 5): the device address, then the data words.
Log entry 95 (DEDUCED). -/
def State.replayOutside (s : State) (p : Nat) (e : LogEntry) : State :=
  let s := match e.words with
    | a :: ds => s.devWriteBytes p (outsideSpace a) (a.toNat % 2 ^ 56) (ds.flatMap (fun (d : Dword) => leBytes 8 d.toNat))
    | [] => s
  s.logEntry p e

/-- TADPOLE_REPLAY (R279): starts a replay, performs an outside write that is next in the log, and at TAD_STOP halts every
wave with cause 51 and posts a record (log entry 63). The other steps of the log are performed by the work itself, each
waiting for its turn. -/
def execTadpoleReplay (p : Nat) (s : State) : Host.Outcome State Fault Refusal :=
  let x := s.part p
  if !x.dbgCtl.getLsbD 2 || 16 ≤ p then .next s
  else
    match x.replayPh with
    | .off => .next (match x.ckpt with | some i => if x.swapping then s else s.startReplay p i | none => s)
    | .done => .next s
    | .running =>
      if x.tadPos = x.tadStop then
        .next (((s.haltAll p 3).updPart p (fun x => { x with replayPh := .done, replay := [] })).postFault p 3 51#6 0#64 0 p)
      else
        match x.replay with
        | [] => .next (s.updPart p (fun x => { x with replayPh := .done }))
        | e :: _ => .next (if e.kind = 5#8 then s.replayOutside p e else s)

end Sys2Proof.Machine
end

