-- ==== Sys2Proof/Machine/Hbm.lean ====
section
/-! DEFINITION. The HBM controllers (R374-R381): activations and open rows, inline ECC and poison, refresh management and
the QoS table; the capacity tier's extents (R383, R384) and the whole-memory checkpoint (R385). -/

namespace Sys2Proof.Machine

open Sys2Proof

/-! ## Where lines lie (R374) -/

/-- Data columns of one stack: 64 pseudo-channels of 32 banks of 32,768 rows of 15. -/
def stackColumns : Nat := 1006632960

/-- A line's place among the lines of the twelve stacks, in stack order, and the line at a place. Log entry 5 (DESIGN CHOICE). -/
def Mem.linePlace (m : Mem) (line : Nat) : Nat := m.pagePlace (line / 1024) * 1024 + line % 1024
def Mem.lineAt (m : Mem) (x : Nat) : Nat := m.pageAt (x / 1024) * 1024 + x % 1024
/-- The base die's interleave of a stack's lines onto its data columns, and back. Log entry 5 (DESIGN CHOICE). -/
def interleave (x : Nat) : Nat := if h : x < stackColumns then (Config.columnPlace ⟨x, h⟩).val else x
def uninterleave (x : Nat) : Nat := if h : x < stackColumns then (Config.columnPlace.symm ⟨x, h⟩).val else x
/-- The numbers of a stack's data columns: by pseudo-channel, bank, row and column. -/
def columnIndex (c : HbmCoord) : Nat := ((c.bank.pch * 32 + c.bank.bank) * 32768 + c.row) * 15 + c.col
def columnNumber (k n : Nat) : HbmCoord :=
  { bank := { stack := k, pch := n / 15 / 32768 / 32, bank := n / 15 / 32768 % 32 }, row := n / 15 % 32768, col := n % 15 }
/-- The data column of an HBM line, and the line of a data column (R374). Log entry 5 (DESIGN CHOICE). -/
def Mem.coordOf (m : Mem) (line : Nat) : HbmCoord :=
  columnNumber (m.linePlace line / stackColumns) (interleave (m.linePlace line % stackColumns))
def Mem.lineOf (m : Mem) (c : HbmCoord) : Nat := m.lineAt (c.bank.stack * stackColumns + uninterleave (columnIndex c))

/-! ## Banks (R374, R375) -/

/-- The controller clock, 800 MHz beside the 1.40 GHz of %clk. Log entry 97 (DEDUCED). -/
def State.ctlClock (s : State) : Nat := s.clk.toNat * 4 / 7

def BankSt.idleBank (b : HbmBank) : BankSt :=
  { bank := b, openRow := none, lastUse := 0, hits := 0, lastAct := none, due := [], busy := 0, occupied := 0 }
def Stack.bankSt (st : Stack) (b : HbmBank) : BankSt := (st.banks.find? (fun x => x.bank = b)).getD (BankSt.idleBank b)
def Stack.setBank (st : Stack) (x : BankSt) : Stack := { st with banks := x :: st.banks.filter (fun y => y.bank ≠ x.bank) }
/-- A bank that the geometry has (R374). -/
def bankOk (b : HbmBank) : Bool := decide (b.stack < 12) && decide (b.pch < 64) && decide (b.bank < 32)
def coordOk (c : HbmCoord) : Bool := bankOk c.bank && decide (c.row < 32768) && decide (c.col < 15)

/-- THR, HIT_CAP and IDLE of HBM_CTL. -/
def Stack.thr (st : Stack) : Nat := bitsOf st.hbmCtl.toNat 47 32
def Stack.hitCap (st : Stack) : Nat := bitsOf st.hbmCtl.toNat 31 24
def Stack.idleClocks (st : Stack) : Nat := bitsOf st.hbmCtl.toNat 15 0

/-- ACT of a row; the spec gives it no reset value. Log entry 2 (DESIGN CHOICE). -/
def Stack.hbmRow (st : Stack) (b : HbmBank) (r : Nat) : HbmRow :=
  (st.rows.find? (fun x => x.bank = b && x.row = r)).getD { bank := b, row := r, act := 0#16 }
def Stack.setRow (st : Stack) (x : HbmRow) : Stack := { st with rows := x :: st.rows.filter (fun y => !(y.bank = x.bank && y.row = x.row)) }

/-- BANK_BO of a bank rises by some clocks (R376); it saturates. Log entry 98 (DEDUCED). -/
def Stack.backOff (st : Stack) (b : HbmBank) (n : Nat) : Stack :=
  let old := match st.bankBo.find? (fun x => x.1 = b) with | some x => x.2 | none => 0#32
  { st with bankBo := (b, satAdd32 old n) :: st.bankBo.filter (fun x => x.1 ≠ b) }

/-- Requests queued to a bank that hit its open row, and those that ask for another row. -/
def BankSt.isHit (bk : BankSt) (r : HbmReq) : Bool := r.coord.bank = bk.bank && bk.openRow = some r.coord.row
def BankSt.isConflict (bk : BankSt) (r : HbmReq) : Bool := r.coord.bank = bk.bank && bk.openRow ≠ some r.coord.row

/-- One controller clock in which a refresh-management command holds a bank adds to BANK_BO when a request to it is queued (R376,
R380). -/
def Stack.countBackOff (st : Stack) (now : Nat) : Stack :=
  (st.banks.filter (fun bk => decide (now < bk.busy) && st.queue.any (fun r => r.coord.bank = bk.bank))).foldl (fun st bk => st.backOff bk.bank 1) st

/-- ROW_ACTIVATION (R380): ACT of the row counts, and at the threshold the event is recorded, ACT cleared and a
refresh-management command made due. The state after, and whether the management interrupt is signalled.
Log entry 98 (DEDUCED). -/
def Stack.activate (st : Stack) (now : Nat) (c : HbmCoord) : Stack × Bool :=
  let x := st.hbmRow c.bank c.row
  let act := satInc16 x.act
  let hit := st.thr ≠ 0 && decide (st.thr ≤ act.toNat)
  let bk := { st.bankSt c.bank with openRow := some c.row, lastUse := now, hits := 0, lastAct := some now }
  let st := (st.setRow { x with act := if hit then 0#16 else act }).setBank { bk with due := if hit then bk.due ++ [c.row] else bk.due }
  if hit then
    let n := satAdd32 (st.mgmtAlert.extractLsb' 32 32) 1
    ({ st with mgmtAlert := dword (n.toNat * 2 ^ 32 + c.bank.pch * 2 ^ 20 + c.bank.bank * 2 ^ 15 + c.row) }, true)
  else (st, false)

/-- The bank may turn to a request for another row: 40 clocks after its last activation. -/
def BankSt.mayTurn (bk : BankSt) (now : Nat) : Bool := match bk.lastAct with | some t => decide (t + 40 ≤ now) | none => true

/-- The request that a bank would serve now, of some queued ones, oldest first (R375, R380): the oldest hit, but after HIT_CAP hits in
a row the oldest request for another row; an activation comes 40 clocks after the last and after every command that is due. -/
def Stack.bankChoice (st : Stack) (now : Nat) (q : List HbmReq) (b : HbmBank) : Option HbmReq :=
  let bk := st.bankSt b
  if now < bk.busy || now < bk.occupied then none
  else
    let other := if bk.due.isEmpty && bk.mayTurn now then q.find? bk.isConflict else none
    match q.find? bk.isHit with
    | none => other
    | some h => if (q.find? bk.isConflict).isSome && decide (st.hitCap ≤ bk.hits) then other else some h

/-- A request is served: a hit in the open row, counted while a request for another row waits, or an activation. It leaves the
queue. The state after, and whether an interrupt is signalled. -/
def Stack.serve (st : Stack) (now : Nat) (r : HbmReq) : Stack × Bool :=
  let bk := st.bankSt r.coord.bank
  let st := { st with queue := st.queue.filter (fun x => x ≠ r) }
  if bk.isHit r then
    (st.setBank { bk with lastUse := now, hits := if st.queue.any bk.isConflict then bk.hits + 1 else 0 }, false)
  else st.activate now r.coord

/-! ## Quality of service (R381) -/

/-- The slot that a channel's scheduler visits: one per 4 controller clocks. Log entry 97 (DEDUCED). -/
def State.qosPos (s : State) : Nat := s.ctlClock / 4 % 64
/-- QOS_SLOT(ch, j). -/
def qosReg (q : List (Nat × Nat × Dword)) (ch j : Nat) : Dword :=
  match q.find? (fun x => x.1 = ch && x.2.1 = j) with | some x => x.2.2 | none => 0#64
/-- The byte of slot `i` of a channel. -/
def Stack.qosSlot (st : Stack) (ch i : Nat) : Nat := bitsOf (qosReg st.qos ch (i / 8)).toNat (8 * (i % 8) + 7) (8 * (i % 8))
/-- The queued requests of a channel that are eligible in a slot (R381). -/
def Stack.eligible (st : Stack) (ch slot : Nat) : List HbmReq :=
  let v := st.qosSlot ch slot
  let q := st.queue.filter (fun r => r.coord.bank.pch / 2 = ch)
  let own := q.filter (fun r => r.part = v % 16)
  if v < 128 then q else if !own.isEmpty then own else if bit v 6 then q else []
/-- The request that a channel issues now, one in a slot: the oldest eligible one that its bank would serve (R375, R381).
Log entry 98 (DEDUCED). -/
def State.channelChoice (s : State) (st : Stack) (ch : Nat) : Option HbmReq :=
  if st.slotUsed.contains (ch, s.ctlClock / 4) then none
  else
    let q := st.eligible ch s.qosPos
    q.find? (fun r => st.bankChoice s.ctlClock q r.coord.bank = some r)
/-- Writes of the table take effect at the wrap. -/
def Stack.qosWrap (st : Stack) : Stack :=
  { st with qos := st.qosNext ++ st.qos.filter (fun x => !st.qosNext.any (fun y => y.1 = x.1 && y.2.1 = x.2.1)), qosNext := [] }

/-! ## Inline ECC (R377-R379) -/

/-- Check columns a channel's ECC cache holds. -/
def eccCap : Nat := 128
/-- The check column of a row enters its channel's cache. -/
def Stack.eccFill (st : Stack) (b : HbmBank) (r : Nat) : Stack :=
  let c := (b, r) :: st.eccCache.filter (fun x => x ≠ (b, r))
  let mine := c.filter (fun x => x.1.pch / 2 = b.pch / 2)
  match mine[eccCap]? with
  | some old => { st with eccCache := c.filter (fun x => x ≠ old) }
  | none => { st with eccCache := c }

/-- CHECK of a line's column (R377). -/
def Mem.checkOf (m : Mem) (line : Nat) : Word :=
  match m.column? line with | some x => x.check | none => Config.checkSymbols (m.hbm.readN (64 * line) 64)

/-- The 64 bytes of column 15 of a row (R377). -/
def State.checkColumn (s : State) (b : HbmBank) (r : Nat) : List Byte :=
  let lines := (List.range 15).map (fun c => s.mem.lineOf ⟨b, r, c⟩)
  lines.flatMap (fun l => leBytes 4 (s.mem.checkOf l).toNat) ++ leBytes 2 ((s.stack b.stack).hbmRow b r).act.toNat
    ++ leBytes 2 (lines.zipIdx.foldl (fun n x => if s.mem.poison.contains x.1 then n + 2 ^ x.2 else n) 0)

/-- A running service action holds the requests of a bank, of a pseudo-channel, or of the row that it copies at the moment (R413), and
the whole-memory copy all of them (R385). Log entry 136 (DESIGN CHOICE). -/
def State.bankHeld (s : State) (c : HbmCoord) : Bool :=
  s.hub.ckptRun || (s.stack c.bank.stack).fwBusy || s.hub.services.any (fun x => x.running && (match x.kind with
    | .rowSpare b _ => b = c.bank
    | .hbmRecal k p => k = c.bank.stack && p = c.bank.pch
    | .pchRetire k p => k = c.bank.stack && p = c.bank.pch && Config.retireRow k p s.clk.toNat = c.bank.bank * 32768 + c.row
    | _ => false))

/-- A request joins the queue, unless it is in it. -/
def Stack.join (st : Stack) (r : HbmReq) : Stack := if st.queue.contains r then st else { st with queue := st.queue ++ [r] }

/-- A pseudo-channel has a request (R412). -/
def Stack.noteReq (st : Stack) (pch : Nat) (clk : Dword) : Stack := { st with lastReq := (pch, clk) :: st.lastReq.filter (fun x => x.1 ≠ pch) }

/-- A request of a partition for its line's data column is queued, and served when its channel chooses it now.
Log entry 98 (DEDUCED). -/
def State.hbmAccess (s : State) (r : HbmReq) : State × Bool :=
  let k := r.coord.bank.stack
  let ch := r.coord.bank.pch / 2
  if !coordOk r.coord || s.mem.coordOf r.line ≠ r.coord then (s, false)
  else
    let st := ((s.stack k).join r).noteReq r.coord.bank.pch s.clk
    if s.bankHeld r.coord || s.channelChoice st ch ≠ some r then (s.updStack k (fun _ => st), false)
    else
      let (st, irq) := { st with slotUsed := (ch, s.ctlClock / 4) :: st.slotUsed.filter (fun x => x.1 ≠ ch) }.serve s.ctlClock r
      let s := s.updStack k (fun _ => st)
      (if irq then s.updHub (fun h => { h with mgmtIrq := h.mgmtIrq + 1 }) else s, true)

/-- A column is poisoned. -/
def State.poisonLine (s : State) (line : Nat) : State :=
  if s.mem.poison.contains line then s else s.tickNow.updMem (fun m => { m with poison := m.poison ++ [line] })

/-- An error of a column is confined to two bytes: `errs` that are read in error, and those that are wrong in the column (R378). -/
def Mem.correctable (m : Mem) (line errs : Nat) : Bool :=
  decide (errs ≤ 2) && (match m.column? line with | some x => (columnFix (2 - errs) x.data x.check).isSome | none => true)

/-- A data column is checked against CHECK (R378): `errs` of its bytes are read in error, besides those that are wrong in it. What it
is corrected to is written back to it; the line as its readers find it is corrected already. Log entry 98 (DEDUCED). -/
def State.checkColumnRead (s : State) (k line errs : Nat) : State :=
  if s.mem.poison.contains line || (errs = 0 && (s.mem.column? line).isNone) then s
  else if s.mem.correctable line errs then
    (s.updStack k (fun st => { st with corr := satAdd32 st.corr 1 })).updMem (fun m => { m with columns := m.columns.filter (fun x => x.line ≠ line) })
  else (s.updStack k (fun st => { st with uncorr := satAdd32 st.uncorr 1 })).poisonLine line

/-- HBM_READ (R378, R382): a data column is read and checked, and its line enters the memory-side cache; a column whose POISON
bit is set is delivered as poisoned, as every reader of its line finds it (`State.poisonedAt`). -/
def execHbmRead (c : HbmCoord) (part line errs : Nat) (s : State) : Host.Outcome State Fault Refusal :=
  match s.hbmAccess { coord := c, part := part, line := line, write := none, errs := errs } with
  | (s, false) => .next s
  | (s, true) =>
    .next (((s.updStack c.bank.stack (fun st => st.eccFill c.bank c.row)).checkColumnRead c.bank.stack line errs).updMem
      (fun m => m.mscUse line part false))

/-- HBM_WRITE (R378, R379, R382): a line is written back from the memory-side cache to its column, with its poison. A write of
all 64 bytes writes a fresh CHECK; a partial one reads the column's other bytes first. POISON is held by line: the store of all
a line's bytes has cleared it (`State.devWrite`). -/
def execHbmWrite (c : HbmCoord) (part line : Nat) (full : Bool) (s : State) : Host.Outcome State Fault Refusal :=
  match s.hbmAccess { coord := c, part := part, line := line, write := some full, errs := 0 } with
  | (s, false) => .next s
  | (s, true) =>
    let s := s.updStack c.bank.stack (fun st => st.eccFill c.bank c.row)
    let s := if full then s else s.checkColumnRead c.bank.stack line 0
    .next (s.updMem (fun m => { m.mscClean line with columns := m.columns.filter (fun x => x.line ≠ line) }))

/-- IDLE_PRECHARGE (R375): the bank's idle timer, which runs while no request to it is queued, has reached IDLE; with IDLE 0 it closes
after every access that has no queued hit. -/
def execIdlePrecharge (b : HbmBank) (s : State) : Host.Outcome State Fault Refusal :=
  let st := s.stack b.stack
  let bk := st.bankSt b
  let queued := if st.idleClocks = 0 then st.queue.any bk.isHit else st.queue.any (fun r => r.coord.bank = b)
  if bk.openRow.isSome && !queued && decide (bk.lastUse + st.idleClocks ≤ s.ctlClock) then
    .next (s.updStack b.stack (fun st => st.setBank { bk with openRow := none, hits := 0 }))
  else .next s

/-- Rows that a refresh-management command of an aggressor refreshes (R380). -/
def refreshRows (n : Nat) : List Nat :=
  ((if 2 ≤ n then [n - 2] else []) ++ (if 1 ≤ n then [n - 1] else []) ++ [n + 1, n + 2]).filter (fun r => decide (r < 32768))

/-- The open row of a bank closes now for a request to another row: one is queued and no hit is to be served before it (R375). -/
def Stack.closesNow (st : Stack) (now : Nat) (bk : BankSt) : Bool :=
  st.queue.any bk.isConflict && bk.mayTurn now && (!st.queue.any bk.isHit || decide (st.hitCap ≤ bk.hits))

/-- REFRESH_MANAGEMENT (R380): once the aggressor's row closes, at a conflicting request or when idle, one command holds the bank for
96 clocks. It changes no ACT; the clocks for which a queued request waits are counted as they pass (`Stack.countBackOff`). -/
def execRefreshManagement (b : HbmBank) (s : State) : Host.Outcome State Fault Refusal :=
  let st := s.stack b.stack
  let bk := st.bankSt b
  let now := s.ctlClock
  match bk.due with
  | [] => .next s
  | _ :: rest =>
    if decide (now < bk.busy) || decide (now < bk.occupied) || (bk.openRow.isSome && !st.closesNow now bk) then .next s
    else .next (s.updStack b.stack (fun st => st.setBank { bk with openRow := none, hits := 0, due := rest, busy := now + 96 }))

/-- PERIODIC_REFRESH (R381): the bank is occupied for a time that the spec does not give; ACT and the table stand. -/
def execPeriodicRefresh (b : HbmBank) (s : State) : Host.Outcome State Fault Refusal :=
  if !bankOk b then .next s
  else .next (s.updStack b.stack (fun st => st.setBank { st.bankSt b with occupied := s.ctlClock + Config.refreshClocks }))

/-- The controllers in a clock of the timebase (R376, R381): the controller clock that ends counts the requests that wait for refresh
management, and the table's writes take effect as the slots wrap. `s` is the state before the clock and `t` after. -/
def State.hbmClock (s t : State) : State :=
  let t := if s.ctlClock = t.ctlClock then t else { t with stks := t.stks.map (fun st => st.countBackOff s.ctlClock) }
  if s.qosPos ≠ 0 && t.qosPos = 0 then { t with stks := t.stks.map Stack.qosWrap } else t

/-- The lines that have left a memory-side cache dirty and are not queued yet are written to their columns (R382). -/
def State.writeBacks (s : State) : List Instr :=
  (s.mem.wback.filter (fun x => !s.stks.any (fun st => st.queue.any (fun r => r.line = x.1 && r.write.isSome)))).map
    (fun x => .hbmWrite (s.mem.coordOf x.1) x.2 x.1 (s.mem.column? x.1).isNone)

/-- The queued requests of a stack, to be served, oldest first. -/
def Stack.queueEvents (st : Stack) : List Instr :=
  st.queue.map (fun r => match r.write with
    | none => .hbmRead r.coord r.part r.line r.errs
    | some full => .hbmWrite r.coord r.part r.line full)

/-! ## The capacity tier (R383, R384) -/

def ctOp (v : Dword) : Nat := (v.extractLsb' 56 8).toNat
def ctExt (v : Dword) : Nat := (v.extractLsb' 0 15).toNat
def Hub.extent? (h : Hub) (e : Nat) : Option Extent := h.extents.find? (fun x => x.num = e)

/-- A command of CT_CMD starts, with the result that it will end with. Log entry 99 (DEDUCED). -/
def State.ctStart (s : State) (op : Nat) (v : Dword) (result : Hub → Nat → Nat) : Host.Outcome State Fault Refusal :=
  if ctOp v ≠ op || s.hub.ctBusy.isSome then .next s
  else
    let r := if s.hub.ckptRun then 4 else result s.hub (ctExt v)
    .next (s.updHub (fun h => { h with ctBusy := some { op := op, ext := ctExt v, tag := v.extractLsb' 32 24, result := BitVec.ofNat 8 r } }))

/-- CT_ADD; `granted` is the fabric manager's answer. -/
def execCtAdd (v : Dword) (granted : Bool) (s : State) : Host.Outcome State Fault Refusal :=
  s.ctStart 1 v (fun h e => if (h.extent? e).isSome then 1 else if granted then 0 else 3)

/-- CT_RELEASE: refused for a retained extent. -/
def execCtRelease (v : Dword) (s : State) : Host.Outcome State Fault Refusal :=
  s.ctStart 2 v (fun h e => match h.extent? e with | none => 2 | some x => if x.retain then 1 else 0)

/-- CT_SET_RETAIN. -/
def execCtSetRetain (v : Dword) (s : State) : Host.Outcome State Fault Refusal :=
  s.ctStart 3 v (fun h e => if (h.extent? e).isSome then 0 else 2)

/-- CT_CLEAR_RETAIN. -/
def execCtClearRetain (v : Dword) (s : State) : Host.Outcome State Fault Refusal :=
  s.ctStart 4 v (fun h e => if (h.extent? e).isSome then 0 else 2)

/-- A request to an extent is outstanding: a line that a load still reads, or one sent and not acknowledged.
Log entry 99 (DEDUCED). -/
def State.extentBusy (s : State) (e : Nat) : Bool :=
  s.waves.any (fun w => w.loads.any (fun o => o.remain.any (fun r => r.space = .tier && extentOf r.pline = e))
    || w.sent.any (fun t => t.space = .tier && extentOf t.pline = e))

/-- An extent's lines leave every L2, and its data is lost. Log entry 99 (DEDUCED). -/
def State.releaseExtent (s : State) (e : Nat) : State :=
  let lo := 2 ^ 51 + e * 2 ^ 30
  { s with
    mem := { s.mem with
      sysL2 := s.mem.sysL2.filter (fun x => !(x.1 = .tier && extentOf x.2.line = e))
      copies := s.mem.copies.filter (fun c => !(c.space = .tier && extentOf c.line = e))
      tier := s.mem.tier.filter (fun x => !(decide (lo ≤ x.1) && decide (x.1 < lo + 2 ^ 30))) }
    hub := { s.hub with extents := s.hub.extents.filter (fun x => x.num ≠ e) } }

/-- CT_CMD_DONE: the command takes effect and CT_STAT reports its result; a release waits for outstanding requests. -/
def execCtCmdDone (s : State) : Host.Outcome State Fault Refusal :=
  match s.hub.ctBusy with
  | none => .next s
  | some c =>
    let done (s : State) : Host.Outcome State Fault Refusal := .next (s.updHub (fun h => { h with ctBusy := none, ctResult := c.result }))
    if c.result ≠ 0#8 then done s
    else
      let retain (b : Bool) : State := s.updHub (fun h => { h with extents := h.extents.map (fun (x : Extent) => if x.num = c.ext then { x with retain := b } else x) })
      match c.op with
      | 1 => done (s.updHub (fun h => { h with extents := h.extents ++ [{ num := c.ext, tag := c.tag, retain := false }] }))
      | 2 => if s.extentBusy c.ext then .next s else done (s.tickNow.releaseExtent c.ext)
      | 3 => done (retain true)
      | _ => done (retain false)

/-! ## The whole-memory checkpoint (R385) -/

/-- The capacity tier's first address, where extent 0 begins (R383), and the first beyond extent 767. -/
def ckptBase : Nat := 2 ^ 51
def ckptEnd : Nat := ckptBase + 768 * 2 ^ 30

/-- A partition has resident work: a block that is not saved, a command in progress, a region or a Gecko step. Log entry 64 (DESIGN CHOICE). -/
def State.hasWork (s : State) (p : Nat) : Bool :=
  !(s.residentsOf p).isEmpty
    || s.cmds.any (fun c => match c.kind with | .copy k => k.part = p && k.started | _ => s.partOfBlock c.blk = p && c.began)
    || s.stks.any (fun st => st.regions.any (fun r => r.part = p && (r.drain.isSome || (decide (1 ≤ r.state) && decide (r.state ≤ 3)))) || st.updates.any (fun u => u.part = p))

/-- Every partition is halted by a swap or has no resident work, and extents 0-767 are present and retained. -/
def State.ckptAllowed (s : State) : Bool :=
  (List.range 16).all (fun p => (s.part p).halted || !s.hasWork p)
    && (List.range 768).all (fun e => match s.hub.extent? e with | some x => x.retain | none => false)

/-- Every memory-side cache has written back (R385). -/
def Mem.mscFlush (m : Mem) : Mem :=
  let written (x : BadColumn) : Bool := m.msc.any (fun y => y.dirty && y.line = x.line) || m.wback.any (fun y => y.1 = x.line)
  { m with
    msc := m.msc.map (fun x => { x with dirty := false }), wback := []
    poison := m.poison ++ ((m.columns.filter (fun x => written x && x.fix.isNone && !m.poison.contains x.line)).map BadColumn.line)
    columns := m.columns.filter (fun x => !written x) }

/-- A write of CKPT_CTL (R385): RESTORE is held; with START, unless a copy runs, every memory-side cache and L2 writes back and the copy
begins, or it is refused with result 4. -/
def State.ckptWrite (s : State) (v : Dword) : State :=
  let back := v.getLsbD 1
  let held := s.updHub (fun h => { h with ckptRestore := back })
  if !v.getLsbD 0 || s.hub.ckptRun then held
  else if s.ckptAllowed then
    let t := held.mem.sysL2.foldl (fun s x => s.homeDeliver x.1 x.2.line x.2.data x.2.mask s.now) held
    (t.updMem Mem.mscFlush).updHub (fun h => { h with ckptRun := true, ckptBack := back })
  else held.updHub (fun h => { h with ckptResult := 4#8 })

/-- CKPT_START: a write without RESTORE; with START, HBM to extents. -/
def execCkptStart (v : Dword) (s : State) : Host.Outcome State Fault Refusal :=
  if v.getLsbD 1 then .next s else .next (s.ckptWrite v)

/-- CKPT_RESTORE: a write with RESTORE; with START, extents to HBM. -/
def execCkptRestore (v : Dword) (s : State) : Host.Outcome State Fault Refusal :=
  if !v.getLsbD 1 then .next s else .next (s.ckptWrite v)

/-- Where column `col` of a row stands in the extents: stack s fills extents 64s to 64s + 63, its rows in address order, 1 KiB each,
by pseudo-channel, bank and row. Log entry 64 (DESIGN CHOICE). -/
def ckptAddr (b : HbmBank) (row col : Nat) : Nat :=
  ckptBase + ((((b.stack * 64 + b.pch) * 32 + b.bank) * 32768 + row) * 16 + col) * 64
/-- The bank, row and column of a byte of the extents. -/
def ckptPlace (a : Nat) : HbmBank × Nat × Nat :=
  let n := (a - ckptBase) / 64
  ({ stack := n / 16 / 32768 / 32 / 64, pch := n / 16 / 32768 / 32 % 64, bank := n / 16 / 32768 % 32 }, n / 16 % 32768, n % 16)
/-- Where a byte of HBM stands in the extents. -/
def Mem.ckptByte (m : Mem) (a : Nat) : Nat :=
  let c := m.coordOf (a / 64)
  ckptAddr c.bank c.row c.col + a % 64

/-- Rows that hold anything but zeros. -/
def State.rowsUsed (s : State) : List (HbmBank × Nat) :=
  ((s.mem.hbm.map (fun x => s.mem.coordOf (x.1 / 64)) ++ s.mem.poison.map s.mem.coordOf ++ s.mem.columns.map (fun x => s.mem.coordOf x.line)).map
    (fun c => (c.bank, c.row)) ++ (s.stks.flatMap Stack.rows).map (fun r => (r.bank, r.row))).eraseDups.filter (fun x => bankOk x.1 && decide (x.2 < 32768))

/-- The extents after the copy from HBM: every row, column 15 with it. Log entry 64 (DESIGN CHOICE). -/
def State.toExtents (s : State) : Memory :=
  let data : List (Nat × Byte) := (s.mem.hbm.filter (fun x => decide (x.1 < hbmBytes))).map (fun x => (s.mem.ckptByte x.1, x.2))
  let check : List (Nat × Byte) := s.rowsUsed.flatMap (fun x => (s.checkColumn x.1 x.2).zipIdx.map (fun b => (ckptAddr x.1 x.2 15 + b.2, b.1)))
  let raw : List (Nat × Byte) := s.mem.columns.flatMap (fun x => x.data.zipIdx.map (fun b => (s.mem.ckptByte (64 * x.line + b.2), b.1)))
  (data ++ raw ++ check).foldl (fun m x => m.write x.1 x.2) (s.mem.tier.filter (fun x => decide (x.1 < ckptBase) || decide (ckptEnd ≤ x.1)))

/-- The extents' bytes of HBM. -/
def Mem.image (m : Mem) : Memory := m.tier.filter (fun x => decide (ckptBase ≤ x.1) && decide (x.1 < ckptEnd))
/-- The rows that the extents hold anything of. -/
def Mem.imageRows (m : Mem) : List (HbmBank × Nat) := (m.image.map (fun x => ((ckptPlace x.1).1, (ckptPlace x.1).2.1))).eraseDups
/-- HBM's bytes, POISON and CHECK as the extents give them (R377), with nothing in the memory-side caches.
Log entry 64 (DESIGN CHOICE). -/
def Mem.fromExtents (m : Mem) : Mem :=
  let data := (m.image.filter (fun x => (ckptPlace x.1).2.2 < 15)).map (fun x =>
    let q := ckptPlace x.1
    (64 * m.lineOf ⟨q.1, q.2.1, q.2.2⟩ + (x.1 - ckptBase) % 64, x.2))
  let hbm := data.foldl (fun (h : Memory) x => h.write x.1 x.2) (m.hbm.filter (fun x => decide (hbmBytes ≤ x.1)))
  let cols := m.imageRows.flatMap (fun x => (List.range 15).map (fun c => (⟨x.1, x.2, c⟩ : HbmCoord)))
  let stored (c : HbmCoord) : Word := word (leNat (m.tier.readN (ckptAddr c.bank c.row 15 + 4 * c.col) 4))
  let bad (c : HbmCoord) : Bool := bit (leNat (m.tier.readN (ckptAddr c.bank c.row 15 + 62) 2)) c.col
  let wrong : List BadColumn := (cols.filter (fun c => stored c ≠ Config.checkSymbols (hbm.readN (64 * m.lineOf c) 64))).map (fun c =>
    { line := m.lineOf c, data := hbm.readN (64 * m.lineOf c) 64, check := stored c })
  { m with
    hbm := wrong.foldl (fun (h : Memory) x => match x.fix with | some d => h.writeLine x.line d (BitVec.allOnes 64) | none => h) hbm
    copies := [], msc := [], wback := []
    poison := (cols.filter bad).map m.lineOf
    columns := wrong }
/-- ACT of a stack's rows as the extents give them. -/
def Mem.imageActs (m : Mem) (k : Nat) : List HbmRow :=
  (m.imageRows.filter (fun x => x.1.stack = k)).map (fun x =>
    { bank := x.1, row := x.2, act := BitVec.ofNat 16 (leNat (m.tier.readN (ckptAddr x.1 x.2 15 + 60) 2)) })

/-- CKPT_COMPLETE: the copy ends, or a fabric error stops it; the fault records that waited for it are written.
Check columns, poison and ACT travel with their rows. -/
def execCkptComplete (fabricError : Bool) (s : State) : Host.Outcome State Fault Refusal :=
  let ended (r : BitVec 8) (s : State) : State :=
    (List.range 16).foldl (fun s p => s.drainFq p ((s.part p).fqHeld.length + 1)) (s.updHub (fun h => { h with ckptRun := false, ckptResult := r }))
  if !s.hub.ckptRun then .next s
  else if fabricError then .next (ended 3#8 s)
  else
    let s := s.tickNow
    if s.hub.ckptBack then
      .next (ended 0#8 { s with mem := s.mem.fromExtents, stks := s.stks.zipIdx.map (fun (x : Stack × Nat) => { x.1 with rows := s.mem.imageActs x.2 }) })
    else .next (ended 0#8 (s.updMem (fun m => { m with tier := s.toExtents })))

end Sys2Proof.Machine
end

