-- ==== Sys2Proof/Machine/HostIo.lean ====
section
/-! DEFINITION. The host port and peers (R386-R393): windows, AtomicOps, errors and timeouts of system accesses, the end of
a partition, and peer requests. -/

namespace Sys2Proof.Machine

open Sys2Proof

/-! ## Writes that enter a partition from outside (R278, R281) -/

/-- The code of a home in a leaf (R273). -/
def homeCode : Space → Nat
  | .hbm => 0
  | .host => 1
  | .tier => 2
  | .peer => 3

/-- The entry of an outside write: the 64-bit words that hold it, as they stand after it; the address of a system-homed line
carries its HOME. Log entries 96 (DEDUCED), 126 (DESIGN CHOICE). -/
def State.outsideEntry (s : State) (p : Nat) (sp : Space) (pa n : Nat) : LogEntry :=
  let a := pa / 8 * 8
  let ws := (List.range ((pa + n + 7 - a) / 8)).map (fun i => dword (leNat (s.devBytes sp (a + 8 * i) 8)))
  { plainEntry 5 3 (ws.length + 1) 0 0 (s.part p).devSeq with words := dword (homeCode sp * 2 ^ 56 + a) :: ws }

/-- Outside writes of a partition, of some numbers of bytes, are performed now: the log has room for the entry of each, and no replay
supplies them (R279, R281). Log entry 95 (DEDUCED). -/
def State.mayOutside (s : State) (p : Nat) (ns : List Nat) : Bool :=
  (s.part p).replayPh ≠ .running && s.mayStep p 5 0 (ns.foldl (fun a n => a + 16 + 8 * ((n + 14) / 8 + 2)) 0)

/-- Bytes that enter a partition from outside become device-level, as one step of it. -/
def State.outsideWrite (s : State) (p : Nat) (sp : Space) (pa : Nat) (bs : List Byte) : State :=
  let s := (s.devWriteBytes p sp pa bs).updPart p (fun x => { x with devSeq := x.devSeq + 1 })
  s.logEntry p (s.outsideEntry p sp pa bs.length)

/-! ## The BAR2 window (R388) -/

/-- Translate one byte of the window as a non-secure access of the partition. An address that no usable HBM or present extent
answers is refused (R1, R384). Log entry 116 (DESIGN CHOICE). -/
def State.hostByte (s : State) (p : Nat) (acc : Access) (va : Nat) : Option Place :=
  match s.lookupDie 0 p va with
  | .error _ => none
  | .ok x =>
    match leafCheck acc false x.1 with
    | some _ => none
    | none =>
      let pl := s.localPeer (leafPlace va x)
      if !s.extentHere pl.space (pl.pa / 64) || pl.nowhere || s.securePlace pl then none else some pl

/-- Translate each line's part of a range: the place, and where its bytes begin and end; none when any is refused. -/
def State.hostPlaces (s : State) (p : Nat) (acc : Access) (va n : Nat) : Option (List (Place × Nat × Nat)) :=
  let lines := (List.range ((va % 64 + n + 63) / 64)).map (fun i => va / 64 + i)
  lines.foldr (fun l rest =>
    let lo := max va (64 * l)
    match rest, s.hostByte p acc lo with
    | some r, some pl => some ((pl, lo - va, min (va + n) (64 * l + 64) - va) :: r)
    | _, _ => none) (some [])

/-- A BAR2 access is refused: HOST_ERR counts. -/
def State.hostRefused (s : State) (p : Nat) : State := s.updPart p (fun x => { x with hostErr := satAdd32 x.hostErr 1 })

/-- The virtual address of an offset of the window, none outside the 64 GiB window or while the port is down or its link is
being recovered (R413). -/
def State.windowVa (s : State) (p : Nat) (off : Dword) : Option Nat :=
  if 16 ≤ p || !s.hub.hostUp || s.hub.ckptRun || s.hub.linkDown .host || 2 ^ 36 ≤ off.toNat then none
  else some (((s.part p).hwinVa + off).toNat)

/-- HOST_BAR2_READ: device-level data goes to the host; a refused read is counted. -/
def execHostBar2Read (p : Nat) (off : Dword) (len : Nat) (s : State) : Host.Outcome State Fault Refusal :=
  match s.windowVa p off with
  | none => .next s
  | some va => .next (if (s.hostPlaces p .load va len).isSome then s else s.hostRefused p)

/-- What the host receives from a read, none for Completer Abort. -/
def State.hostRead (s : State) (p : Nat) (off : Dword) (len : Nat) : Option (List Byte) :=
  (s.windowVa p off).bind (fun va => (s.hostPlaces p .load va len).map (fun ps =>
    ps.flatMap (fun x => s.devBytes x.1.space x.1.pa (x.2.2 - x.2.1))))

/-- HOST_BAR2_WRITE: a device-level step at each line's home; a refused write is dropped and counted, and one to a stack whose base die
activates firmware waits outside (R413). -/
def execHostBar2Write (p : Nat) (off : Dword) (data : List Byte) (s : State) : Host.Outcome State Fault Refusal :=
  match s.windowVa p off with
  | none => .next s
  | some va =>
    match s.hostPlaces p .store va data.length with
    | none => .next (s.hostRefused p)
    | some ps =>
      if ps.any (fun x => s.stackHeld x.1.space (x.1.pa / 64)) then .next s
      else if !s.mayOutside p (ps.map (fun x => x.2.2 - x.2.1)) then .next (s.logFull p)
      else .next (ps.foldl (fun s x => s.outsideWrite p x.1.space x.1.pa ((data.drop x.2.1).take (x.2.2 - x.2.1))) s)

def hostAtomOp : HostAtomic → Nat
  | .fetchAdd => 0x90
  | .swap => 0x96
  | .cas => 0x97

/-- A host's AtomicOp at device scope (R190, R191, R388): the state after it, and the old value that the host receives, none for
Completer Abort and while it waits. It is refused at a misaligned address and on a capacity-tier page, and waits while the
sync engine has no slot; a line of host memory or of a peer is read and written at its home. For a compare-and-swap `x` is
compared and `y` written. -/
def State.hostAtomic (s : State) (p : Nat) (off : Dword) (op : HostAtomic) (wide : Bool) (x y : Dword) : State × Option Nat :=
  match s.windowVa p off with
  | none => (s, none)
  | some va =>
    let n := if wide then 8 else 4
    match (if va % n = 0 then s.hostByte p .atomic va else none) with
    | none => (s.hostRefused p, none)
    | some pl =>
      if pl.space = .tier then (s.hostRefused p, none)
      else if s.stackHeld pl.space (pl.pa / 64) then (s, none)
      else
        match (if pl.space = .hbm && !pl.ss then s.seTry (s.objDie pl) ⟨.line, pl.pa / 64⟩ (3, va) else .ok s) with
        | .error s => (s, none)
        | .ok s =>
          if !s.mayOutside p [n] then (s.logFull p, none)
          else
            let m := 2 ^ (8 * n)
            let old := leNat (if pl.space = .hbm then s.devBytes .hbm pl.pa n else (s.mem.get pl.space).readN pl.pa n)
            let (b, v) := if op = .cas then (x.toNat % m, y.toNat % m) else (0, x.toNat % m)
            let bs := leBytes n (atomValue (hostAtomOp op) (if wide then .n64 else .n32) old b v)
            (if pl.space = .hbm then s.outsideWrite p .hbm pl.pa bs
             else
               let s := (storeLines false [(⟨0, pl.pa, n⟩, leNat bs)]).foldl (fun s l => s.homeWrite p pl.space (pl.pa / 64) l.data l.mask) s
               let s := s.updPart p (fun x => { x with devSeq := x.devSeq + 1 })
               s.logEntry p (s.outsideEntry p pl.space pl.pa n), some old)

/-- HOST_ATOMICOP. -/
def execHostAtomicop (p : Nat) (off : Dword) (op : HostAtomic) (wide : Bool) (x y : Dword) (s : State) : Host.Outcome State Fault Refusal :=
  .next (s.hostAtomic p off op wide x y).1

/-! ## Errors and timeouts (R389) -/

/-- The `k`-th system access of a wave ends without an answer: a line of its oldest load, else a system atomic, else a
line of a `commit.sys`, whose acknowledgement is counted off and whose state at its home is not known (log entry 6). -/
def State.sysFail (s : State) (x : Wave) (k : Nat) (late : Dword → Bool) : State :=
  let w := x.wid
  match x.loads.head?.bind (fun o => (o.remain[k]?).bind (fun r => if r.space ≠ .hbm && !r.scr && late o.issued then some r else none)) with
  | some _ => s.failLoad w k
  | none =>
    if x.wait = .sysAtom then (if late x.lastIssue then s.updWave w (fun y => { y with stage := 10, wait := .no }) else s)
    else
      match x.sent[k]? with
      | none => s
      | some t =>
        if !t.sysWrite || !late t.issued then s
        else
          let bs := (List.range 64).map (fun i => Config.freeByte (s.draws + i))
          let s := { s with draws := s.draws + 64 }
          let s := s.homeDeliver t.space t.pline t.data t.mask t.moment
          let s := s.updMem (fun m => m.set t.space ((m.get t.space).writeLine t.pline bs t.mask))
          (s.updWave w (fun y => { y with sent := y.sent.eraseIdx k, acks := y.acks - 1 })).pendCause w 25#6 (sysRec s x t.space (64 * t.pline))

/-- SYS_TIMEOUT: no answer within SYS_TMO. -/
def execSysTimeout (w k : Nat) (s : State) : Host.Outcome State Fault Refusal :=
  match s.wave? w with
  | none => .next s
  | some x =>
    let tmo := (s.part (s.partOfWave w)).sysTmo.toNat * clocksPerUs
    .next (s.sysFail x k (fun t => decide (tmo ≤ s.since t)))

/-- SYS_ERROR_RESPONSE: an answer with an error. -/
def execSysErrorResponse (w k : Nat) (s : State) : Host.Outcome State Fault Refusal :=
  match s.wave? w with
  | none => .next s
  | some x => .next (s.sysFail x k (fun _ => true))

/-! ## The end of a partition (R390) -/

/-- Every wave of the partition stands at a boundary, or has stopped. Log entry 101 (DEDUCED). -/
def State.endReady (s : State) (p : Nat) : Bool := (s.wavesOf p).all (fun w => w.stopped || w.atBoundary)

/-- PART_END: END stops the partition's waves at their boundaries; when all have stopped its grids end, its regions and
copy queues stop, and its named tasks are freed without launching. Log entry 101 (DEDUCED). -/
def execPartEnd (p : Nat) (s : State) : Host.Outcome State Fault Refusal :=
  if 16 ≤ p then .next s
  else
    let s := s.updPart p (fun x => { x with ending := true })
    if !s.endReady p then .next s
    else
      let s := s.endGrids (s.grids.filter (fun g => g.launch.part = p)) 4
      let s := { s with
        cmds := s.cmds.filter (fun c => match c.kind with | .copy k => k.part ≠ p | _ => true)
        stks := s.stks.map (fun (st : Stack) => { st with
          regions := st.regions.map (fun (r : Region) => if r.part = p && !r.over then { r with state := 3, drain := some .stop } else r) })
        dies := s.dies.map (fun (d : Die) => { d with
          tasks := d.tasks.filter (fun t => t.launch.part ≠ p), spawns := d.spawns.filter (fun x => x.1.part ≠ p) }) }
      .next (s.updPart p (fun x => { x with
        ending := false, cqerr := 0xFFFF#16, swapping := false, halted := false, swapped := [], swapUnits := [], ckptReq := false }))

/-! ## Peers (R391-R393) -/

/-- Whether a page table maps a physical HBM address. Log entry 96 (DEDUCED). -/
def State.tableMaps (s : State) (pa : Nat) : (lvl table : Nat) → Bool
  | lvl, table =>
    (List.range (if lvl = 0 then 32 else 512)).any (fun i =>
      let e := s.hbmDword (table + 8 * i)
      e.getLsbD 0 && (if e.getLsbD 1 then leafSpace e = .hbm && decide (leafPa e ≤ pa) && decide (pa < leafPa e + 2 ^ pageLog lvl)
        else match lvl with | 0 => false | l + 1 => State.tableMaps s pa l (leafPa e)))

/-- The partitions that a write to a physical address enters from outside and that log it. Log entry 96 (DEDUCED). -/
def State.loggersOf (s : State) (pa : Nat) : List Nat :=
  (List.range 16).filter (fun p => logging (s.part p) && (s.part p).ctx.isSome && s.tableMaps pa 4 (s.root p))

/-- PLY_EXP(m). -/
def Hub.plyEntry (h : Hub) (m : Nat) : Dword := match h.plyExp.find? (fun x => x.1 = m) with | some x => x.2 | none => 0#64

/-- The export table and the secure ranges admit an access of module `m` to `n` bytes at `o`. -/
def State.peerAllowed (s : State) (m o n : Nat) (rd wr atom : Bool) : Bool :=
  let e := s.hub.plyEntry m
  let gib (a : Nat) : Bool := decide ((e.extractLsb' 0 10).toNat ≤ a / 2 ^ 30) && decide (a / 2 ^ 30 ≤ (e.extractLsb' 10 10).toNat)
  decide (m < 256) && decide (o + n ≤ hbmBytes) && e.getLsbD 63 && (!rd || e.getLsbD 61) && (!wr || e.getLsbD 62) && (!atom || e.getLsbD 60)
    && (List.range n).all (fun i => gib (o + i) && !s.secured (o + i))

/-- A peer's write becomes device-level at its home, in the partitions that hold the address. -/
def State.peerWrite (s : State) (o : Nat) (bs : List Byte) : State :=
  let ps := s.loggersOf o
  let s := ps.foldl (fun s p => (List.range ((o % 64 + bs.length + 63) / 64)).foldl (fun s i => s.saveUndo p .hbm (o / 64 + i)) s) s
  let s := s.devWriteBytes 16 .hbm o bs
  ps.foldl (fun s p => (s.updPart p (fun x => { x with devSeq := x.devSeq + 1 })).logEntry p (s.outsideEntry p .hbm o bs.length)) s
/-- A peer's write is performed now: neither the whole-memory copy (R385) nor an activation of a stack's firmware (R413) holds it, and
the logs have room. -/
def State.mayPeer (s : State) (o n : Nat) : Bool :=
  !s.hub.ckptRun && !(List.range ((o % 64 + n + 63) / 64)).any (fun i => s.stackHeld .hbm (o / 64 + i)) && (s.loggersOf o).all (fun p => s.mayOutside p [n])

/-- The type of a peer's atomic. -/
def peerTy (wide signed float : Bool) : Ty := if float then .f32 else if signed then (if wide then .i64 else .i32) else (if wide then .n64 else .n32)

/-- A peer's atomic at the sync engine of the line's home (R190, R191): the state after it, and the old value that the peer
receives, none for a refusal and while it waits. -/
def State.peerAtomic (s : State) (m a k : Nat) (wide signed float : Bool) (x y : Dword) : State × Option Nat :=
  let n := if wide then 8 else 4
  if a % n ≠ 0 || k < 0x90 || 0x98 < k || !s.peerAllowed m a n true true true || !s.mayPeer a n then (s, none)
  else
    match s.seTry (s.homeDie .hbm (a / 64)) ⟨.line, a / 64⟩ (4, a) with
    | .error s => (s, none)
    | .ok s =>
      let old := leNat (s.mem.hbm.readN a n)
      let md := 2 ^ (8 * n)
      let (b, v) := if k = 0x97 then (x.toNat % md, y.toNat % md) else (0, x.toNat % md)
      (s.peerWrite a (leBytes n (atomValue k (peerTy wide signed float) old b v)), some old)

/-- PEER_REQUEST: a refused access returns an error to its requester and changes nothing here. -/
def execPeerRequest (m : Nat) (o : Dword) (req : PeerReq) (s : State) : Host.Outcome State Fault Refusal :=
  let a := o.toNat
  match req with
  | .read _ => .next s
  | .write data =>
    .next (if s.peerAllowed m a data.length false true false && s.mayPeer a data.length then s.peerWrite a data else s)
  | .atom op wide signed float x y => .next (s.peerAtomic m a op.toNat wide signed float x y).1

/-- What a peer's read returns: device-level state, none for a refusal. -/
def State.peerRead (s : State) (m o n : Nat) : Option (List Byte) :=
  if s.peerAllowed m o n true false false then some (s.devBytes .hbm o n) else none

end Sys2Proof.Machine
end

