-- ==== Sys2Proof/Machine/Memory.lean ====
section
/-! DEFINITION. Loads, stores, gathers, scatters, constant windows and prefetch: opcodes 0x60-0x64 and 0x66-0x6A (R94,
R137-R145, R147). -/

namespace Sys2Proof.Machine

open Sys2Proof

/-- `ld.g` (R142, R143): a global load; with ORD 1 an acquire comes first. -/
def execLdG (e : Enc) (s : State) : Host.Outcome State Fault Refusal := simt 0x60 e s (fun c => c.plainLoad false false)

/-- `st.g` (R142, R143): a global store; with ORD 2 a commit follows. -/
def execStG (e : Enc) (s : State) : Host.Outcome State Fault Refusal := simt 0x61 e s (fun c => c.issueStore false false)

/-- `ld.s` (R142): a scratchpad load. -/
def execLdS (e : Enc) (s : State) : Host.Outcome State Fault Refusal := simt 0x62 e s (fun c => c.plainLoad true false)

/-- `st.s` (R142): a scratchpad store. -/
def execStS (e : Enc) (s : State) : Host.Outcome State Fault Refusal := simt 0x63 e s (fun c => c.issueStore true false)

/-- The window of an ld.c: its base address and its size in words. -/
def Cx.window (c : Cx) : Nat × Nat :=
  let k := c.e.a.toNat - 448
  ((c.lrec.winBase.getD k 0#64).toNat, c.lrec.winSize.getD k 0)

/-- The byte offset of a lane of ld.c: the low 32 bits of the offset, unsigned. -/
def Cx.windowOffset (c : Cx) (l : Nat) : Nat := c.offset c.e.b (c.readLane l) % 2 ^ 32

/-- `ld.c` (R94, R142): words of a constant window, each as R94 lets the wave read it; a word at or beyond WIN_SIZE
reads 0, and an offset that is no multiple of the size is trap 4, with the offset in the window as its address. The words are
read in the order of the wave's loads (R72). Log entries 13 (DESIGN CHOICE), 56 (DEDUCED), 123 (DESIGN CHOICE). -/
def execLdC (e : Enc) (s : State) : Host.Outcome State Fault Refusal :=
  simt 0x64 e s (fun c =>
    let (base, size) := c.window
    let lanes := c.accessLanes.map (fun l => (l, c.windowOffset l))
    let known := (lanes.filter (fun x => x.2 % c.size ≠ 0)).map (fun x => (({ lane := x.1, addr := x.2, size := c.size } : Piece), 4#6))
    let words := (lanes.filter (fun x => x.2 % c.size = 0)).flatMap (fun x =>
      (List.range ((c.size + 3) / 4)).map (fun i => (x.1, x.2 / 4 + i)))
    let ps : List Piece := (words.filter (fun x => x.2 < size)).map (fun x => ⟨x.1, base + 4 * x.2, 4⟩)
    let pre := (words.filter (fun x => decide (size ≤ x.2))).flatMap (fun x => (List.range 4).map (fun i => (base + 4 * x.2 + i, 0#8)))
    let o := c.outLoad (.plain (typeCode e)) c.size (fun l => some (base + c.windowOffset l)) 0#32
    c.issueLoad false known ps pre { o with direct := true, window := true } 0)

/-- `gat.g` (R144): a global gather by element index. -/
def execGatG (e : Enc) (s : State) : Host.Outcome State Fault Refusal := simt 0x66 e s (fun c => c.plainLoad false true)

/-- `sct.g` (R144): a global scatter by element index. -/
def execSctG (e : Enc) (s : State) : Host.Outcome State Fault Refusal := simt 0x67 e s (fun c => c.issueStore false true)

/-- `gat.s` (R144): a scratchpad gather. -/
def execGatS (e : Enc) (s : State) : Host.Outcome State Fault Refusal := simt 0x68 e s (fun c => c.plainLoad true true)

/-- `sct.s` (R144): a scratchpad scatter. -/
def execSctS (e : Enc) (s : State) : Host.Outcome State Fault Refusal := simt 0x69 e s (fun c => c.issueStore true true)

/-- `pf` (R147): each active lane's line becomes a clean copy; a lane that would fault or meets poison is dropped. With
.hn (HINT 3) the L1 takes none. -/
def execPf (e : Enc) (s : State) : Host.Outcome State Fault Refusal :=
  simt 0x6A e s (fun c =>
    .done (c.accessLanes.foldl (fun s l =>
      let a := c.ea (c.readLane l)
      match s.translate c.w.core c.part .load a with
      | .error _ => s
      | .ok pl =>
        if s.homeHeld pl.space (pl.pa / 64) || s.poisonedAt pl.space (pl.pa / 64) then s
        else
          let r : LineRef := { scr := false, line := a / 64, space := pl.space, pline := pl.pa / 64, ss := pl.ss }
          let s := s.fillTlb c.w.core c.part [a]
          if hintCode e ≠ 3 then s.fillCopies c.w r
          else if pl.ss || pl.space ≠ .hbm then
            s.updMem (fun m => m.addCopy { l1 := false, unit := dieOf c.w.core, space := r.space, ss := r.ss, line := r.pline
                                           data := s.devBytes r.space (64 * r.pline) 64, fill := s.now, gone := none })
          else s) c.s))

end Sys2Proof.Machine
end

