-- ==== Sys2Proof/Machine/Aes.lean ====
section
/-! DEFINITION. AES-256-GCM decryption, which R400 names for frames of a keyed flow: the block cipher, the counter mode and the
authentication tag. The standard is outside the spec. Log entry 7 (PRESUMED). -/

namespace Sys2Proof.Machine

open Sys2Proof

/-! ## Bytes as polynomials -/

/-- Twice a byte in GF(2^8). -/
def gfDouble (b : Byte) : Byte := (b <<< 1) ^^^ (if b.getLsbD 7 then 0x1B#8 else 0#8)
/-- A product in GF(2^8), from the eight bits of the second factor. -/
def gfMul (a b : Byte) : Byte :=
  ((List.range 8).foldl (fun (p : Byte × Byte) i => (gfDouble p.1, if b.getLsbD i then p.2 ^^^ p.1 else p.2)) (a, 0#8)).2
/-- The inverse, b^254; 0 stays 0. -/
def gfInv (b : Byte) : Byte :=
  let sq (x : Byte) : Byte := gfMul x x
  ((List.range 7).foldl (fun (p : Byte × Byte) _ => let s := sq p.1; (s, gfMul p.2 s)) (b, 1#8)).2
/-- SubBytes of one byte. -/
def aesSub (b : Byte) : Byte :=
  let x := gfInv b
  x ^^^ x.rotateLeft 1 ^^^ x.rotateLeft 2 ^^^ x.rotateLeft 3 ^^^ x.rotateLeft 4 ^^^ 0x63#8
def xorBytes (a b : List Byte) : List Byte := List.zipWith (· ^^^ ·) a b

/-! ## The block cipher -/

/-- One more word of the key schedule of a 256-bit key: `ws` holds the words so far. -/
def aesNextWord (ws : List (List Byte)) : List Byte :=
  let i := ws.length
  let t := ws.getD (i - 1) []
  let t := if i % 8 = 0 then
      match (t.drop 1 ++ t.take 1).map aesSub with
      | x :: xs => (x ^^^ (1#8 <<< (i / 8 - 1))) :: xs
      | [] => []
    else if i % 8 = 4 then t.map aesSub else t
  xorBytes (ws.getD (i - 8) []) t
/-- The 15 round keys, of 16 bytes each. -/
def aesKeys (key : List Byte) : List (List Byte) :=
  let first := (List.range 8).map (fun i => (key.drop (4 * i)).take 4)
  let ws := (List.range 52).foldl (fun ws _ => ws ++ [aesNextWord ws]) first
  (List.range 15).map (fun r => ((ws.drop (4 * r)).take 4).flatten)
/-- ShiftRows: byte `4c + r` comes from column `c + r`. -/
def aesShift (s : List Byte) : List Byte := (List.range 16).map (fun i => s.getD ((i + 4 * (i % 4)) % 16) 0#8)
/-- MixColumns. -/
def aesMix (s : List Byte) : List Byte :=
  (List.range 16).map (fun i =>
    let at_ (r : Nat) : Byte := s.getD (i / 4 * 4 + (i + r) % 4) 0#8
    gfDouble (at_ 0) ^^^ (gfDouble (at_ 1) ^^^ at_ 1) ^^^ at_ 2 ^^^ at_ 3)
/-- AES-256 of one block under its round keys. -/
def aesBlock (keys : List (List Byte)) (b : List Byte) : List Byte :=
  let k (i : Nat) : List Byte := keys.getD i []
  let s := (List.range 13).foldl (fun s i => xorBytes (aesMix (aesShift (s.map aesSub))) (k (i + 1))) (xorBytes b (k 0))
  xorBytes (aesShift (s.map aesSub)) (k 14)

/-! ## GCM -/

/-- A count from bytes, the first one highest. -/
def beNat (bs : List Byte) : Nat := bs.foldl (fun n b => 256 * n + b.toNat) 0
/-- The `n` bytes of a count, the highest first. -/
def beBytes (n x : Nat) : List Byte := (leBytes n x).reverse
/-- Blocks of 16 bytes, the last one padded with zeros. -/
def gcmBlocks (bs : List Byte) : List (List Byte) :=
  (List.range ((bs.length + 15) / 16)).map (fun i =>
    let b := (bs.drop (16 * i)).take 16
    b ++ List.replicate (16 - b.length) 0#8)
/-- A product in GF(2^128), where the highest bit of a block is the constant term. -/
def ghashMul (x y : BitVec 128) : BitVec 128 :=
  ((List.range 128).foldl (fun (p : BitVec 128 × BitVec 128) i =>
    (p.1 >>> 1 ^^^ (if p.1.getLsbD 0 then 0xE1#128 <<< 120 else 0#128), if x.getLsbD (127 - i) then p.2 ^^^ p.1 else p.2)) (y, 0#128)).2
def ghash (h : BitVec 128) (bs : List (List Byte)) : BitVec 128 :=
  bs.foldl (fun y b => ghashMul (y ^^^ BitVec.ofNat 128 (beNat b)) h) 0#128

/-- Decryption: 256-bit key, 96-bit nonce, additional data, ciphertext and tag give the plaintext, or none when the tag fails. -/
def gcmOpen (key nonce aad ct tag : List Byte) : Option (List Byte) :=
  let keys := aesKeys key
  let pad (n : Nat) : List Byte := aesBlock keys (nonce ++ beBytes 4 n)
  let h := BitVec.ofNat 128 (beNat (aesBlock keys (List.replicate 16 0#8)))
  let y := ghash h (gcmBlocks aad ++ gcmBlocks ct ++ [beBytes 8 (8 * aad.length) ++ beBytes 8 (8 * ct.length)])
  if xorBytes (beBytes 16 y.toNat) (pad 1) = tag then
    some ((List.range ((ct.length + 15) / 16)).flatMap (fun i => xorBytes ((ct.drop (16 * i)).take 16) (pad (i + 2))))
  else none

end Sys2Proof.Machine
end

