-- ==== Sys2Proof/Machine/Network.lean ====
section
/-! DEFINITION. The Ethernet ports (R394-R401): UET writes, flow classification, ingest rings, keys, and the flow and key
commands. -/

namespace Sys2Proof.Machine

open Sys2Proof

/-! ## UET (R394) -/

/-- What the transport of a UET write answers (R394): nothing yet, while the write waits for the order log. -/
inductive UetAnswer where
  | acknowledged
  | transportError
  | later
  deriving DecidableEq, Repr

/-- An inbound write into a registered region, and the transport's answer: one that the entry does not allow is answered with a
transport error and changes nothing; an accepted one is acknowledged after its device-level step. -/
def State.uetWrite (s : State) (p region : Nat) (off : Dword) (data : List Byte) : State × UetAnswer :=
  if 16 ≤ p || 256 ≤ region then (s, .transportError)
  else
    match s.vread 0 p ((s.part p).uetRt.toNat + 16 * region) 16 with
    | .error _ => (s, .transportError)
    | .ok bs =>
      let base := leNat (bs.take 8) % 2 ^ 57
      let w1 := leNat (bs.drop 8)
      if !bit w1 63 || !bit w1 62 || w1 % 2 ^ 40 < off.toNat + data.length then (s, .transportError)
      else
        let va := base + off.toNat
        let lines := (List.range ((va % 64 + data.length + 63) / 64)).map (fun i => va / 64 + i)
        let places := lines.map (fun l => (l, s.translateDie 0 p .store (max va (64 * l))))
        let size (x : Nat × Except (BitVec 6) Place) : Nat := min (va + data.length) (64 * x.1 + 64) - max va (64 * x.1)
        if places.any (fun x => match x.2 with | .error _ => true | .ok _ => false) then (s, .transportError)
        else if places.any (fun x => s.unitHolds 0 p .store (max va (64 * x.1))) then (s, .later)
        else if !s.mayOutside p (places.map size) then (s.logFull p, .later)
        else
          (places.foldl (fun s x =>
            match x.2 with
            | .error _ => s
            | .ok pl =>
              let lo := max va (64 * x.1) - va
              let hi := min (va + data.length) (64 * x.1 + 64) - va
              s.outsideWrite p pl.space pl.pa ((data.drop lo).take (hi - lo))) s, .acknowledged)

/-- UET_WRITE. -/
def execUetWrite (p region : Nat) (off : Dword) (data : List Byte) (s : State) : Host.Outcome State Fault Refusal :=
  .next (s.uetWrite p region off data).1

/-! ## Flows and keys (R395, R400) -/

/-- A frame matches a flow entry. -/
def Flow.matches (x : Flow) (f : Sys2Proof.Frame) : Bool :=
  let w := x.w2.toNat
  let v6 := bit w 62
  x.port = f.port && bit w 63 && v6 == f.ipv6
    && (if v6 then x.w0 = f.ipLo && x.w1 = f.ipHi else (x.w0.extractLsb' 0 32) = f.ipLo.extractLsb' 0 32)
    && bitsOf w 47 32 = f.udpPort.toNat && (!bit w 61 || f.vlan = some (BitVec.ofNat 12 (bitsOf w 59 48)))

/-- The flow of a frame: of several entries that match, the one of the lowest index (log entry 66). -/
def flowOf (flows : List Flow) (f : Sys2Proof.Frame) : Option Flow :=
  flows.foldl (fun b x => if x.matches f then (match b with | some y => if x.index < y.index then some x else b | none => some x) else b) none

/-- The flow and key tables that a frame started with (R401). -/
def Hub.tablesOf (h : Hub) (f : Sys2Proof.Frame) : List Flow × List KeyEntry :=
  match h.netPast.find? (fun x => decide (f.began.toNat ≤ x.upTo.toNat)) with
  | some x => (x.flows, x.keys)
  | none => (h.flows, h.keys)

/-- A key entry notes the last IV that it has accepted, wherever it is held. -/
def Hub.noteIv (h : Hub) (k : KeyEntry) (iv : Nat) : Hub :=
  let note (ks : List KeyEntry) : List KeyEntry := ks.map (fun y => if y = k then { y with lastIv := some iv } else y)
  { h with keys := note h.keys, netPast := h.netPast.map (fun (x : NetPast) => { x with keys := note x.keys }) }

/-- What a frame lands as (R396, R400): its bytes, decrypted with the flow's key when KEY_EN is set, and the hub with the
key's last IV; none for a frame that R400 loses. -/
def Hub.landed (h : Hub) (x : Flow) (f : Sys2Proof.Frame) : Option (List Byte × Hub) :=
  if !x.w2.getLsbD 60 then some (f.head ++ f.payload, h)
  else
    match (h.tablesOf f).2.find? (fun k => k.port = f.port && k.index = (x.w2.extractLsb' 0 12).toNat && k.index ≠ 4095) with
    | none => none
    | some k =>
      if f.payload.length < 24 then none
      else
        let iv := f.payload.take 8
        let body := f.payload.drop 8
        let ct := body.take (body.length - 16)
        let tag := body.drop (body.length - 16)
        let fresh := match k.lastIv with | some n => decide (n < beNat iv) | none => true
        if k.replay && !fresh then none
        else (gcmOpen (k.key.flatMap (fun d => leBytes 8 d.toNat)) (leBytes 4 k.salt.toNat ++ iv) iv ct tag).map (fun plain =>
          (f.head ++ plain, h.noteIv k (beNat iv)))

/-! ## Ingest rings (R396-R398) -/

/-- An ingest ring's descriptor: where it stands and its eight words. -/
structure Ingest where
  va : Nat
  pa : Nat
  ws : List Dword
  deriving DecidableEq, Repr

def Ingest.w (r : Ingest) (i : Nat) : Nat := (r.ws.getD i 0#64).toNat
def Ingest.size (r : Ingest) : Nat := bitsOf (r.w 1) 4 0
def Ingest.slotLog (r : Ingest) : Nat := bitsOf (r.w 1) 8 5
def Ingest.intEn (r : Ingest) : Bool := bit (r.w 1) 9
def Ingest.prio (r : Ingest) : Nat := bitsOf (r.w 1) 12 10
def Ingest.backPressure (r : Ingest) : Bool := bit (r.w 1) 13
/-- ENABLE is set and R396's checks pass. -/
def Ingest.lands (r : Ingest) : Bool :=
  bit (r.w 1) 14 && bitsOf (r.w 0) 63 57 = 0 && bitsOf (r.w 1) 63 15 = 0 && r.w 0 % 65536 = 0 && decide (2 ≤ r.size) && decide (r.size ≤ 16)
    && decide (11 ≤ r.slotLog) && decide (r.slotLog ≤ 14)
/-- The ring is full once some frames that arrived before have landed (R398). -/
def Ingest.fullAfter (r : Ingest) (n : Nat) : Bool := decide (2 ^ r.size ≤ (r.ws.getD 2 0#64 - r.ws.getD 3 0#64).toNat + n)
def Ingest.full (r : Ingest) : Bool := r.fullAfter 0
def Ingest.slotVa (r : Ingest) : Nat := r.w 0 + r.w 2 % 2 ^ r.size * 2 ^ r.slotLog

/-- The descriptor of ring `n` of a partition, in HBM; none when it cannot be reached (R403). Log entry 102 (DEDUCED). -/
def State.ingest (s : State) (p n : Nat) : Option Ingest :=
  let va := (s.part p).irBase.toNat + 64 * n
  match s.translateDie 0 p .load va with
  | .error _ => none
  | .ok pl => if pl.space ≠ .hbm || va % 64 ≠ 0 then none
    else some { va := va, pa := pl.pa, ws := (List.range 8).map (fun i => s.hbmDword (pl.pa + 8 * i)) }

/-- Words of the descriptor line change as one step: each pair names a word and what is added to it. -/
def State.ringCount (s : State) (p : Nat) (r : Ingest) (adds : List (Nat × Nat)) : State :=
  let w (i : Nat) : Dword := (r.ws.getD i 0#64) + dword ((adds.filter (fun a => a.1 = i)).foldl (fun n a => n + a.2) 0)
  s.outsideWrite p .hbm r.pa ((List.range 8).flatMap (fun i => leBytes 8 (w i).toNat))

/-- A frame is lost: one step of the descriptor line (R397). Log entry 102 (DEDUCED). -/
def State.loseFrame (s : State) (p : Nat) (r : Ingest) (wireLen : Nat) : State := s.ringCount p r [(6, 1), (7, wireLen)]

/-- A frame lands in the ring's next slot, then the counters change as one step; a slot that cannot be written loses it
(R397, R403). Log entry 102 (DEDUCED). -/
def State.landFrame (s : State) (p : Nat) (r : Ingest) (flow wireLen : Nat) (clk : Dword) (bs : List Byte) : State :=
  let va := r.slotVa
  let all := leBytes 4 bs.length ++ leBytes 4 flow ++ leBytes 8 clk.toNat ++ bs
  match s.translateDie 0 p .store va with
  | .error _ => s.loseFrame p r wireLen
  | .ok pl =>
    if pl.space ≠ .hbm || 2 ^ r.slotLog - 16 < bs.length then s.loseFrame p r wireLen
    else
      let s := s.outsideWrite p .hbm pl.pa all
      let s := s.ringCount p r [(2, 1), (4, 1), (5, wireLen)]
      if r.intEn then s.updPart p (fun x => { x with irq1 := x.irq1 + 1 }) else s

/-- Bytes that frames hold of a port's headroom, and its size. -/
def Hub.headroomUsed (h : Hub) (port : Nat) : Nat := (h.held.filter (fun x => x.port = port && !x.lost)).foldl (fun n x => n + x.wireLen) 0
def headroom : Nat := 2 * 2 ^ 20

/-- The port sends pause frames for a priority until the ring has a free slot. -/
def Hub.pause (h : Hub) (q : Pause) : Hub := if h.paused.contains q then h else { h with paused := h.paused ++ [q] }

/-- Steps of a ring wait: while the whole-memory copy runs (R385), and for a stack whose base die activates firmware (R413). -/
def State.ringWaits (s : State) (p : Nat) (r : Ingest) : Bool :=
  s.hub.ckptRun || s.unitHolds 0 p .store r.va || s.unitHolds 0 p .store r.slotVa
/-- The loss of a frame may be counted, or a frame of some length land: as one step, or as two (R397). -/
def State.mayLose (s : State) (p : Nat) (r : Ingest) : Bool := !s.ringWaits p r && s.mayOutside p [64]
def State.mayLand (s : State) (p : Nat) (r : Ingest) (n : Nat) : Bool := !s.ringWaits p r && s.mayOutside p [16 + n, 64]
/-- The record of R281 of a frame that waits for the order log, and for nothing else. -/
def State.frameWaits (s : State) (p : Nat) (r : Ingest) : State := if s.ringWaits p r then s else s.logFull p

/-- A frame is lost and counted, now or when it may be (R281, R397). Log entry 102 (DEDUCED). -/
def State.dropFrame (s : State) (r : Ingest) (x : HeldFrame) : State :=
  if s.mayLose x.part r then s.loseFrame x.part r x.wireLen
  else (s.frameWaits x.part r).updHub (fun h => { h with held := h.held ++ [{ x with lost := true, bytes := [] }] })
/-- A frame joins the queue of its port and priority, in the port's headroom; one that finds the headroom full is lost (R398).
Log entry 102 (DEDUCED). -/
def State.holdFrame (s : State) (r : Ingest) (x : HeldFrame) : State :=
  if headroom < s.hub.headroomUsed x.port + x.wireLen then s.dropFrame r x else s.updHub (fun h => { h with held := h.held ++ [x] })

/-- ETH_FRAME: the last byte of a frame has arrived; it is classified, opened and landed, held or lost (R395-R400). A frame whose
descriptor cannot be reached is lost, and with it the counters that would say so (R403). Log entry 102 (DEDUCED). -/
def execEthFrame (f : Sys2Proof.Frame) (s : State) : Host.Outcome State Fault Refusal :=
  if 4 ≤ f.port || s.hub.linkDown (.eth f.port) || 9216 < f.wireLen then .next s
  else
    match flowOf (s.hub.tablesOf f).1 f with
    | none => .next (s.updHub (fun h => { h with netUnmatched := satAdd32 h.netUnmatched 1 }))
    | some x =>
      let p := bitsOf x.w2.toNat 31 28
      let ring := bitsOf x.w2.toNat 27 22
      match s.ingest p ring with
      | none => .next s
      | some r =>
        let held (bs : List Byte) : HeldFrame :=
          { port := f.port, prio := r.prio, flow := x.index, part := p, ring := ring, wireLen := f.wireLen, bytes := bs, clk := s.clk }
        match (if r.lands then s.hub.landed x f else none) with
        | none => .next (s.dropFrame r (held []))
        | some (bs, h) =>
          let s := s.updHub (fun _ => h)
          let mine (y : HeldFrame) : Bool := !y.lost && y.part = p && y.ring = ring
          let full := r.fullAfter (h.held.filter mine).length
          let s := if full && r.backPressure then s.updHub (fun h => h.pause ⟨f.port, r.prio, p, ring⟩) else s
          if 2 ^ r.slotLog - 16 < bs.length || (full && !r.backPressure) then .next (s.dropFrame r (held []))
          else if full || h.held.any (fun y => mine y || (!y.lost && y.port = f.port && y.prio = r.prio)) then .next (s.holdFrame r (held bs))
          else if !s.mayLand p r bs.length then .next ((s.frameWaits p r).holdFrame r (held bs))
          else .next (s.landFrame p r x.index f.wireLen s.clk bs)

/-- Pause frames of a priority end once their ring has a free slot and no frame of the priority is held. -/
def State.endPauses (s : State) (port prio : Nat) : State :=
  if s.hub.held.any (fun y => !y.lost && y.port = port && y.prio = prio) then s
  else
    let ended (q : Pause) : Bool := q.port = port && q.prio = prio && (match s.ingest q.part q.ring with | some r => !r.full | none => true)
    s.updHub (fun h => { h with paused := h.paused.filter (fun q => !ended q) })

/-- The lost frames of a port and priority that could not be counted yet are. -/
def State.countLost (s : State) (port prio : Nat) : State :=
  (s.hub.held.filter (fun x => x.lost && x.port = port && x.prio = prio)).foldl (fun s x =>
    match s.ingest x.part x.ring with
    | none => s.updHub (fun h => { h with held := h.held.erase x })
    | some r => if s.mayLose x.part r then (s.updHub (fun h => { h with held := h.held.erase x })).loseFrame x.part r x.wireLen else s) s

/-- HELD_FRAME_LANDING (R397, R398): the first frame of a port's queue of a priority lands once its ring has a free slot and every frame
of the ring that came before has landed, or is lost as its ring's POLICY says. Log entry 102 (DEDUCED). -/
def execHeldFrameLanding (port prio : Nat) (s : State) : Host.Outcome State Fault Refusal :=
  let s := s.countLost port prio
  match s.hub.held.find? (fun x => !x.lost && x.port = port && x.prio = prio) with
  | none => .next (s.endPauses port prio)
  | some x =>
    let leave (s : State) : State := (s.updHub (fun h => { h with held := h.held.erase x })).endPauses port prio
    match s.ingest x.part x.ring with
    | none => .next (leave s)
    | some r =>
      if (s.hub.held.takeWhile (fun y => y ≠ x)).any (fun y => !y.lost && y.part = x.part && y.ring = x.ring) then .next s
      else if !r.lands || (r.full && !r.backPressure) then .next (if s.mayLose x.part r then leave (s.loseFrame x.part r x.wireLen) else s)
      else if r.full || !s.mayLand x.part r x.bytes.length then .next s
      else .next (leave (s.landFrame x.part r x.flow x.wireLen x.clk x.bytes))

/-! ## Flow and key commands (R395, R400, R401) -/

def netOp (v : Dword) : Nat := (v.extractLsb' 56 8).toNat
def netPort (v : Dword) : Nat := (v.extractLsb' 54 2).toNat
def netIndex (v : Dword) : Nat := (v.extractLsb' 0 14).toNat

/-- A command of NET_CMD starts unless one is in progress; a key command of an index from 4,095 up is ignored. -/
def State.netStart (s : State) (op : Nat) (v : Dword) : Host.Outcome State Fault Refusal :=
  if netOp v ≠ op || s.hub.netBusy.isSome || (decide (3 ≤ op) && decide (4095 ≤ netIndex v)) then .next s
  else .next (s.updHub (fun h => { h with netBusy := some (v, h.netData) }))

/-- NET_WRITE_FLOW. -/
def execNetWriteFlow (v : Dword) (s : State) : Host.Outcome State Fault Refusal := s.netStart 1 v
/-- NET_CLEAR_FLOW. -/
def execNetClearFlow (v : Dword) (s : State) : Host.Outcome State Fault Refusal := s.netStart 2 v
/-- NET_WRITE_KEY. -/
def execNetWriteKey (v : Dword) (s : State) : Host.Outcome State Fault Refusal := s.netStart 3 v
/-- NET_CLEAR_KEY. -/
def execNetClearKey (v : Dword) (s : State) : Host.Outcome State Fault Refusal := s.netStart 4 v

/-- What a command does to the tables. -/
def Hub.netApply (h : Hub) (v : Dword) (d : List Dword) : Hub :=
  let port := netPort v
  let i := netIndex v
  let flows := h.flows.filter (fun x => !(x.port = port && x.index = i))
  let keys := h.keys.filter (fun x => !(x.port = port && x.index = i))
  let w (n : Nat) : Dword := d.getD n 0#64
  match netOp v with
  | 1 => { h with flows := { port := port, index := i, w0 := w 0, w1 := w 1, w2 := w 2 } :: flows }
  | 2 => { h with flows := flows }
  | 3 => { h with keys := { port := port, index := i, key := d.take 4, salt := (w 4).extractLsb' 0 32, replay := (w 4).getLsbD 32, lastIv := none } :: keys }
  | _ => { h with keys := keys }

/-- Tables are kept while a frame of 9,216 bytes that started with them may still be on its way: 10 µs cover the slowest link speed of
R394 many times. Log entry 132 (DESIGN CHOICE). -/
def netPastClocks : Nat := 14000

/-- NET_CMD_DONE: the command takes effect for the frames whose first byte follows, and BUSY returns to 0 (R401). -/
def execNetCmdDone (s : State) : Host.Outcome State Fault Refusal :=
  match s.hub.netBusy with
  | none => .next s
  | some (v, d) =>
    let kept := s.hub.netPast.filter (fun x => decide ((s.clk - x.upTo).toNat < netPastClocks))
    .next (s.updHub (fun h => { h.netApply v d with
      netBusy := none, netPast := kept ++ [{ upTo := s.clk, flows := h.flows, keys := h.keys }] }))

end Sys2Proof.Machine
end

