-- ==== Sys2Proof/Machine/Service.lean ====
section
/-! DEFINITION. Worlds, the security processor and its mailbox, live service, power and temperature (R402-R416). -/

namespace Sys2Proof.Machine

open Sys2Proof

/-! ## Changes of world (R405) -/

/-- CG_WORLD_WRITE: every group whose bit changes is emptied, its blocks being pre-empted as by priority; the new world
takes effect once the group holds no block. -/
def execCgWorldWrite (die : Nat) (v : Dword) (s : State) : Host.Outcome State Fault Refusal :=
  if 2 ≤ die then .next s
  else
    let s := s.updDie die (fun d => { d with cgEmptying := d.cgWorld ^^^ v.extractLsb' 0 12 })
    let bs := s.blocks.filter (fun b => dieOf b.core = die && (s.die die).cgEmptying.getLsbD (groupInDie b.core) && b.status = .resident)
    .next (bs.foldl (fun s b => s.requestPre b.uid .world) s).settleWorlds

/-- A range of physical addresses is zeroed at device level, and no copy of it is kept, nor what its lines held before.
Log entry 138 (DESIGN CHOICE). -/
def State.zeroRange (s : State) (lo hi : Nat) : State :=
  let inside (line : Nat) : Bool := decide (lo ≤ 64 * line) && decide (64 * line ≤ hi)
  let zero (x : Memory) : Memory := x.filter (fun x => !(decide (lo ≤ x.1) && decide (x.1 ≤ hi)))
  s.tickNow.updMem (fun m => { m with
    hbm := zero m.hbm
    tier := zero m.tier
    peer := zero m.peer
    sysL2 := m.sysL2.filter (fun x => !(x.1 ≠ .host && inside x.2.line))
    poison := m.poison.filter (fun l => !inside l)
    columns := m.columns.filter (fun x => !inside x.line)
    msc := m.msc.filter (fun x => !inside x.line)
    wback := m.wback.filter (fun x => !inside x.1)
    copies := m.copies.filter (fun c => !(c.space ≠ .host && inside c.line))
    past := m.past.filter (fun x => !(x.space ≠ .host && inside x.line)) })

/-- The wave's accesses past their check, of loads, of commits in flight and of a wait at an object, that reach a range of physical
addresses. -/
def Wave.inFlight (w : Wave) (lo hi : Nat) : Bool :=
  let inside (sp : Space) (pline : Nat) : Bool := sp ≠ .host && decide (lo ≤ 64 * pline) && decide (64 * pline ≤ hi)
  (w.stage = 11 && inside .hbm (w.aux / 64)) || w.loads.any (fun o => o.remain.any (fun r => !r.scr && inside r.space r.pline)) || w.staged.any (fun r => !r.scr && inside r.space r.pline)
    || w.sent.any (fun t => inside t.space t.pline)

/-- An access of a non-secure partition that is past its check still reaches a line of a range. -/
def State.pastCheck (s : State) (lo hi : Nat) : Bool := s.waves.any (fun w => !s.world (s.partOfWave w.wid) && w.inFlight lo hi)

/-- The first and the last address of a range that begins in 2 MiB unit `base`. -/
def SecRange.lo (base : BitVec 31) : Nat := base.toNat * 2 ^ 21
def SecRange.hi (r : SecRange) : Nat := (r.lim.toNat + 1) * 2 ^ 21 - 1

/-- A range becomes secure, at once or once the accesses past their check have ended (R405). -/
def State.secureRange (s : State) (i : Nat) (base : BitVec 31) : State :=
  match s.hub.secRanges[i]? with
  | none => s
  | some r =>
    let s := s.updHub (fun h => { h with secWait := h.secWait.filter (fun x => x.1 ≠ i) })
    if s.pastCheck (SecRange.lo base) r.hi then s.updHub (fun h => { h with secWait := h.secWait ++ [(i, base)] })
    else s.updHub (fun h => { h with secRanges := h.secRanges.set i { r with valid := true, base := base } })

/-- SEC_RANGE_WRITE: a write of SEC_BASE(i). Setting VALID takes effect after the accesses past their check; before VALID is
cleared the range is zeroed. -/
def execSecRangeWrite (i : Nat) (v : Dword) (s : State) : Host.Outcome State Fault Refusal :=
  match s.hub.secRanges[i]? with
  | none => .next s
  | some r =>
    if v.getLsbD 63 then .next (s.secureRange i (v.extractLsb' 0 31))
    else
      let s := if r.valid then s.zeroRange (SecRange.lo r.base) r.hi else s
      .next (s.updHub (fun h => { h with
        secWait := h.secWait.filter (fun x => x.1 ≠ i), secRanges := h.secRanges.set i { r with valid := false, base := v.extractLsb' 0 31 } }))

/-- The writes of VALID that wait take effect once they may (R405). -/
def State.settleRanges (s : State) : State := s.hub.secWait.foldl (fun s x => s.secureRange x.1 x.2) s

/-! ## Firmware (R406-R408) -/

/-- The targets of R406. -/
def fwTargets : List (BitVec 16) :=
  ([0x01, 0x02, 0x10, 0x11] ++ (List.range 12).map (fun s => 0x20 + s) ++ [0x40, 0x41, 0x42, 0x43]).map (BitVec.ofNat 16)
def Hub.fw? (h : Hub) (t : BitVec 16) : Option Firmware := h.firmware.find? (fun x => x.target = t)
def Hub.setFw (h : Hub) (x : Firmware) : Hub := { h with firmware := h.firmware.map (fun y => if y.target = x.target then x else y) }

/-- The fields of an image (R407), from its header's 64-bit words. -/
def fwWord (image : List Byte) (i : Nat) : Nat := leNat ((image.drop (8 * i)).take 8)
def fwTarget (image : List Byte) : BitVec 16 := BitVec.ofNat 16 (bitsOf (fwWord image 0) 47 32)
def fwSvn (image : List Byte) : BitVec 16 := BitVec.ofNat 16 (bitsOf (fwWord image 1) 47 32)
def fwVersion (image : List Byte) : Word := word (bitsOf (fwWord image 1) 31 0)
def fwLength (image : List Byte) : Nat := bitsOf (fwWord image 2) 31 0

/-- RESULT for an image and its signature (R408, R411), for a target of some minimum SVN. -/
def Hub.verify (h : Hub) (minSvn : BitVec 16) (image sig : List Byte) : Nat :=
  let w := fwWord image
  if bitsOf (w 0) 31 0 ≠ 0x57464853 || bitsOf (w 0) 63 48 ≠ 0 || bitsOf (w 1) 63 48 ≠ 0 || bitsOf (w 2) 63 32 ≠ 0 || fwLength image % 64 ≠ 0
      || (List.range 5).any (fun i => w (3 + i) ≠ 0) then 1
  else if !Config.xmssVerify h.romKey image sig then 2
  else if (fwSvn image).toNat < minSvn.toNat then 3
  else 0

/-- The measurement of an accepted image. -/
def measure (t minSvn : BitVec 16) (image : List Byte) : Firmware :=
  { target := t, version := fwVersion image, svn := fwSvn image, minSvn := minSvn, digest := Config.shake256 image }

/-- The minimum SVN of a target, in its fuses. -/
def Hub.minSvn (h : Hub) (t : BitVec 16) : BitVec 16 := match h.fw? t with | some x => x.minSvn | none => 0#16

/-- The image that stands before a target at a moment is accepted for it at the start (R406, R408). -/
def Hub.bootOk (h : Hub) (now : Nat) (t : BitVec 16) : Bool :=
  fwTarget (Config.bootImage t now) = t && h.verify (h.minSvn t) (Config.bootImage t now) (Config.bootSignature t now) = 0

/-- A target's controller begins or ceases to run: work of its unit waits while it does not. -/
def State.setFwBusy (s : State) (t : BitVec 16) (b : Bool) : State :=
  if t = 0x10#16 || t = 0x11#16 then s.updDie (if t = 0x10#16 then 0 else 1) (fun d => { d with fwBusy := b })
  else if 0x20 ≤ t.toNat && t.toNat < 0x2C then s.updStack (t.toNat - 0x20) (fun st => { st with fwBusy := b })
  else s

/-- SECURITY_BOOT: the security processor starts before every other unit, and verifies the firmware of every target before its
controller runs; one whose image is not accepted runs nothing. The module starts once the security processor's own image is accepted.
Log entry 133 (DESIGN CHOICE). -/
def execSecurityBoot (s : State) : Host.Outcome State Fault Refusal :=
  let h := s.hub
  let bad := fwTargets.filter (fun t => !h.bootOk s.now t)
  let start (t : BitVec 16) : Firmware :=
    if h.bootOk s.now t then measure t (h.minSvn t) (Config.bootImage t s.now)
    else { target := t, version := 0#32, svn := 0#16, digest := 0#256, minSvn := h.minSvn t }
  if h.booted || !h.bootOk s.now 0x0001#16 then .next s
  else .next ((bad.foldl (fun s t => s.setFwBusy t true) s).updHub (fun h => { h with booted := true, firmware := fwTargets.map start, unverified := bad }))

/-- The mailbox of an origin (R411). -/
def State.mailbox (s : State) : Origin → Option Mailbox
  | .pf0 => some s.hub.mbox
  | .vf p => if p < 16 then some (s.part p).mbox else none
  | .secure => none
def State.setMailbox (s : State) (o : Origin) (f : Mailbox → Mailbox) : State :=
  match o with
  | .pf0 => s.updHub (fun h => { h with mbox := f h.mbox })
  | .vf p => s.updPart p (fun x => { x with mbox := f x.mbox })
  | .secure => s
/-- A command ends with a result. -/
def State.mboxDone (s : State) (o : Origin) (r : Nat) : State := s.setMailbox o (fun m => { m with result := BitVec.ofNat 8 r, busy := false })

/-- Bytes at an address of an origin: device physical for PF 0, virtual for a partition; none beyond the usable HBM (R1). -/
def State.mboxRead (s : State) (o : Origin) (a n : Nat) : Option (List Byte) :=
  match o with
  | .vf p => match s.vread 0 p a n with | .ok bs => some bs | .error _ => none
  | _ => if a + n ≤ hbmBytes then some (s.mem.hbm.readN a n) else none
/-- Write at device level for an origin, as a step that enters a partition from outside. -/
def State.mboxWrite (s : State) (o : Origin) (a : Nat) (bs : List Byte) : Option State :=
  match o with
  | .vf p => match s.vwrite 0 p a bs with | .ok s => some s | .error _ => none
  | _ => if a + bs.length ≤ hbmBytes then some (s.peerWrite a bs) else none

/-- The accepted image changes a target's measurement; RESULT says why one is rejected (R408). One that reaches beyond the usable HBM is
refused. Log entry 116 (DESIGN CHOICE). -/
def State.loadFirmware (s : State) (a : Nat) : State × Nat :=
  let head := s.mem.hbm.readN a 64
  let len := fwLength head
  let image := head ++ s.mem.hbm.readN (a + 64) len
  match (if a + 64 + len + 2820 ≤ hbmBytes then s.hub.fw? (fwTarget head) else none) with
  | none => (s, 1)
  | some x =>
    match s.hub.verify x.minSvn image (s.mem.hbm.readN (a + 64 + len) 2820) with
    | 0 => (s.updHub (fun h =>
        let h := h.setFw (measure x.target x.minSvn image)
        let h := { h with unverified := h.unverified.filter (fun t => t ≠ x.target) }
        if Config.installsKey image then { h with keyIndex := 0, keyGen := h.keyGen + 1, keyCert := Config.keyCert (h.keyGen + 1) } else h), 0)
    | r => (s, r)

/-- SPM_LOAD_IMAGE (OP 1), from PF 0 only. -/
def execSpmLoadImage (o : Origin) (s : State) : Host.Outcome State Fault Refusal :=
  match s.mailbox o with
  | none => .next s
  | some m =>
    if m.busy then .next s
    else if o ≠ .pf0 then .next (s.mboxDone o 1)
    else let (s, r) := s.loadFirmware m.arg0.toNat; .next (s.mboxDone o r)

/-- SPM_SVN_COMMIT (OP 4), from PF 0 only: ARG0 names the target, whose minimum SVN rises to its image's.
Log entry 106 (DEDUCED). -/
def execSpmSvnCommit (o : Origin) (s : State) : Host.Outcome State Fault Refusal :=
  match s.mailbox o with
  | none => .next s
  | some m =>
    if m.busy then .next s
    else
      match (if o = .pf0 then s.hub.fw? (m.arg0.extractLsb' 0 16) else none) with
      | none => .next (s.mboxDone o 1)
      | some x => .next ((s.updHub (fun h => h.setFw { x with minSvn := if x.minSvn.toNat < x.svn.toNat then x.svn else x.minSvn })).mboxDone o 0)

/-! ## Attestation (R409, R410) -/

/-- The registers of CONFIG, in the order of R409, as 64-bit words. Log entry 106 (DEDUCED). -/
def State.configWords (s : State) : List Dword :=
  s.dies.map (fun d => d.cgWorld.zeroExtend 64)
    ++ s.hub.secRanges.map (fun r => (if r.valid then 1#64 <<< 63 else 0#64) ||| r.base.zeroExtend 64)
    ++ s.hub.secRanges.map (fun r => r.lim.zeroExtend 64)
    ++ s.stks.flatMap (fun st => [st.arrAssign0, st.arrAssign1]) ++ s.stks.map Stack.gkAssign
    ++ s.stks.flatMap (fun st => (List.range 32).flatMap (fun ch => (List.range 8).map (fun j => qosReg st.qos ch j)))

/-- A report (R409). Log entry 106 (DEDUCED). -/
def State.attestReport (s : State) (o : Origin) (nonce : List Byte) : List Byte :=
  let ms := s.hub.firmware
  let (part, world) := match o with | .vf p => (p, s.world p) | _ => (0xFF, false)
  leBytes 8 (ms.length * 2 ^ 48 + 2 ^ 32 + 0x54414853) ++ leBytes 8 (part + (if world then 256 else 0)) ++ leBytes 16 Config.deviceId.toNat
    ++ nonce ++ leBytes 32 (Config.shake256 (s.configWords.flatMap (fun w => leBytes 8 w.toNat))).toNat
    ++ ms.flatMap (fun x => leBytes 8 (x.target.toNat * 2 ^ 32 + x.svn.toNat * 2 ^ 16) ++ leBytes 8 x.version.toNat ++ leBytes 32 x.digest.toNat)

/-- SPM_ATTEST (OP 2): the key's index is advanced and stored, then the report and its signature are released at ARG1. A
power loss in between loses the index (R410). A nonce or an output that cannot be reached gives RESULT 1. -/
def execSpmAttest (o : Origin) (s : State) : Host.Outcome State Fault Refusal :=
  match s.mailbox o with
  | none => .next s
  | some m =>
    match s.hub.reports.find? (fun x => x.1 = o) with
    | some (_, index, report) =>
      let s := s.updHub (fun h => { h with reports := h.reports.filter (fun x => x.1 ≠ o) })
      match s.mboxWrite o m.arg1.toNat (report ++ leBytes 2820 (Config.xmssSign s.hub.keyGen index report).toNat) with
      | none => .next (s.mboxDone o 1)
      | some s => .next (s.mboxDone o 0)
    | none =>
      if m.busy then .next s
      else
        match s.mboxRead o m.arg0.toNat 32 with
        | none => .next (s.mboxDone o 1)
        | some nonce =>
          if 2 ^ 20 ≤ s.hub.keyIndex then .next (s.mboxDone o 5)
          else
            let report := s.attestReport o nonce
            .next ((s.updHub (fun h => { h with keyIndex := h.keyIndex + 1, reports := h.reports ++ [(o, h.keyIndex, report)] })).setMailbox o
              (fun m => { m with busy := true }))

/-! ## Secure registers through the mailbox (R411) -/

/-- Registers that are written only from the secure world. -/
def secureReg : RegName → Bool
  | .shadow _ | .seOvfBase _ | .seOvfSize _ | .seStat _ | .chamCtl _ | .arrStat _ | .aclkCtl _ | .gkSpillBase _ _ | .gkSpillSize _ _
  | .hbmCtl _ | .mgmtAlert _ | .bankBo _ _ _ | .eccStat _ | .qosSlot _ _ _ | .secLim _ | .plyId | .plyExp _ | .netStat | .netData _ => true
  | _ => false

/-- The writes that "only from the secure world" is said of. Log entry 67 (DESIGN CHOICE). -/
def secureWrite : Instr → Bool
  | .registerWrite .secure r _ => secureReg r
  | .cgWorldWrite _ _ | .secRangeWrite _ _ | .arrAssignWrite _ _ _ | .cfgcInvAddr _ _ | .cfgcInvAll _ _ | .gkAssignWrite _ _ | .ctAdd _ _
  | .ctRelease _ | .ctSetRetain _ | .ctClearRetain _ | .ckptStart _ | .ckptRestore _ | .netWriteFlow _ | .netClearFlow _ | .netWriteKey _
  | .netClearKey _ => true
  | _ => false

/-- SPM_WRITE_SECURE_REG (OP 5), from a secure partition only: the write that ARG0 and ARG1 name is what moves next (log
entry 67). -/
def execSpmWriteSecureReg (o : Origin) (s : State) : Host.Outcome State Fault Refusal :=
  match s.mailbox o with
  | none => .next s
  | some m =>
    let secure := match o with | .vf p => s.world p | _ => false
    if m.busy then .next s
    else
      match (if secure then Config.secureWrite m.arg0 m.arg1 else none) with
      | some i => if secureWrite i then .next { s.mboxDone o 0 with agenda := .event i :: s.agenda } else .next (s.mboxDone o 1)
      | none => .next (s.mboxDone o 1)

/-! ## Live service (R412-R414) -/

/-- The unit that an action acts on. -/
inductive SvcUnit where
  | core (n : Nat)
  | bank (b : HbmBank)
  | pch (stack n : Nat)
  | pad (stack n : Nat)
  | port (kind n : Nat)
  | d2d
  | target (t : BitVec 16)
  deriving DecidableEq, Repr

def svcUnit : SvcKind → SvcUnit
  | .coreSwap c => .core c
  | .rowSpare b _ => .bank b
  | .pchRetire k p => .pch k p
  | .hbmRecal k p => .pch k p
  | .padRecal k f => .pad k f
  | .plyRetrain n => .port 0 n
  | .d2dRetrain => .d2d
  | .linkRecovery .host => .port 1 0
  | .linkRecovery (.cxl n) => .port 2 n
  | .linkRecovery (.eth n) => .port 3 n
  | .firmware t => .target t

/-- The default priority of an action (R413). -/
def svcPriority : SvcKind → Nat
  | .coreSwap _ | .rowSpare _ _ => 0
  | .hbmRecal _ _ => 2
  | _ => 1

/-- The die of a target's controller: 2 is the hub. -/
def targetDie (t : BitVec 16) : Nat :=
  if t = 0x10#16 then 0 else if t = 0x11#16 then 1
  else if 0x20 ≤ t.toNat && t.toNat < 0x2C then (t.toNat - 0x20) / 6 else 2
/-- The die of an action. -/
def svcDie : SvcKind → Nat
  | .coreSwap c => dieOf c
  | .rowSpare b _ => b.stack / 6
  | .pchRetire k _ | .hbmRecal k _ | .padRecal k _ => k / 6
  | .firmware t => targetDie t
  | _ => 2

/-- An action copies HBM. -/
def svcCopies : SvcKind → Bool
  | .rowSpare _ _ | .pchRetire _ _ => true
  | _ => false

/-- An action is on a unit of a firmware target. -/
def svcOfTarget (t : BitVec 16) (k : SvcKind) : Bool :=
  let stack (n : Nat) : Bool := t = BitVec.ofNat 16 (0x20 + n)
  match k with
  | .coreSwap c => t = BitVec.ofNat 16 (0x10 + dieOf c)
  | .rowSpare b _ => stack b.stack
  | .pchRetire n _ | .hbmRecal n _ | .padRecal n _ => stack n
  | .plyRetrain _ => t = 0x42#16
  | .linkRecovery .host => t = 0x40#16
  | .linkRecovery (.cxl _) => t = 0x41#16
  | .linkRecovery (.eth _) => t = 0x43#16
  | .d2dRetrain => t = 0x10#16 || t = 0x11#16
  | .firmware u => u = t

/-- An action's unit has had no request for 10 µs, as an action of priority 2 waits for (R412). -/
def State.svcQuiet (s : State) : SvcKind → Bool
  | .hbmRecal k p =>
    !(s.stack k).queue.any (fun r => r.coord.bank.pch = p) && (match (s.stack k).lastReq.find? (fun x => x.1 = p) with
      | some x => decide (14000 ≤ (s.clk - x.2).toNat)
      | none => true)
  | _ => true

/-- An action that is asked for may start (R412, R414): no action runs on its unit and none waits before it there, its
priority allows it, and what it must wait for has ended. Log entry 104 (DEDUCED). -/
def State.svcMayStart (s : State) (x : Service) : Bool :=
  let run := s.hub.services.filter Service.running
  let before (y : Service) : Bool :=
    !y.running && svcUnit y.kind = svcUnit x.kind && (decide (svcPriority y.kind < svcPriority x.kind) ||
      (svcPriority y.kind = svcPriority x.kind && decide (y.id < x.id)))
  !run.any (fun y => svcUnit y.kind = svcUnit x.kind)
    && !s.hub.services.any before
    && (svcPriority x.kind ≠ 1 || !run.any (fun y => svcDie y.kind = svcDie x.kind && decide (svcPriority y.kind ≤ 1)))
    && (svcPriority x.kind ≠ 2 || s.svcQuiet x.kind)
    && !(svcCopies x.kind && s.hub.ckptRun)
    && (match x.kind with
        | .firmware t => !run.any (fun y => svcOfTarget t y.kind)
        | .rowSpare b _ => (((s.stack b.stack).bankSt b).due).isEmpty
        | _ => true)

/-- The blocks that a core swap brings back: those on the core, and those saved there that wait (R414).
Log entry 105 (DEDUCED). -/
def State.swapBlocks (s : State) (core : Nat) : List Nat := (s.blocks.filter (fun b => b.core = core && b.status ≠ .saved)).map Block.uid

/-- What starts with an action: work on its unit is moved out of the way. Log entries 68 (DESIGN CHOICE), 104 (DEDUCED). -/
def State.svcBegin (s : State) (k : SvcKind) : State :=
  match k with
  | .coreSwap c => (s.swapBlocks c).foldl (fun s u => s.requestPre u .spare) s
  | .padRecal n f =>
    s.updStack n (fun st => { st with
      busyFrames := st.busyFrames ++ [f], regions := st.regions.map (fun r => if r.frames.contains f then r.request .move else r) })
  | .d2dRetrain => { s with dies := s.dies.map (fun (d : Die) => { d with d2dTraining := true }) }
  | .firmware t =>
    let s := s.setFwBusy t true
    if 0x20 ≤ t.toNat && t.toNat < 0x2C then s.updStack (t.toNat - 0x20) (fun st => { st with regions := st.regions.map (fun r => r.request .move) })
    else s
  | _ => s

/-- An action is asked for, and waits in its order (R412). -/
def Hub.ask (h : Hub) (k : SvcKind) : Hub :=
  { h with services := h.services ++ [{ id := h.nextService, kind := k, running := false, blks := [] }], nextService := h.nextService + 1 }

/-- What an action needs is left: a spare (R413, R414). -/
def State.svcPossible (s : State) : SvcKind → Bool
  | .rowSpare b _ => decide (((s.stack b.stack).sparedRows.filter (fun y => y.1 = b)).length < 64)
  | .pchRetire k _ => (s.stack k).sparePch ≠ 0
  | .coreSwap c => (s.die (dieOf c)).spareCores ≠ 0 && !(s.core c).fenced && decide (c < 192)
  | _ => true

/-- A service event: an action whose unit's own counters ask for it is listed beside those that were requested (R412), and starts when
it may. -/
def State.svcStart (s : State) (k : SvcKind) : State :=
  let s := if s.hub.services.any (fun y => y.kind = k) || !s.svcPossible k then s else s.updHub (fun h => h.ask k)
  match s.hub.services.find? (fun x => x.kind = k) with
  | none => s
  | some x =>
    if x.running || !s.svcPossible k || !s.svcMayStart x then s
    else
      let y := { x with running := true, blks := match k with | .coreSwap c => s.swapBlocks c | _ => [] }
      (s.updHub (fun h => { h with services := h.services.filter (fun z => z.id ≠ x.id) ++ [y] })).svcBegin k

/-- SPM_SERVICE_REQUEST (OP 3), from PF 0 only: the action is asked for, unless its unit is busy with an action. The spec does
not lay the request's bytes out, so the event carries what they ask for (log entry 68). -/
def execSpmServiceRequest (o : Origin) (kind : SvcKind) (s : State) : Host.Outcome State Fault Refusal :=
  match s.mailbox o with
  | none => .next s
  | some m =>
    if m.busy then .next s
    else if o ≠ .pf0 then .next (s.mboxDone o 1)
    else if s.hub.services.any (fun x => x.kind = kind || (x.running && svcUnit x.kind = svcUnit kind)) then .next (s.mboxDone o 4)
    else
      .next ((s.updHub (fun h => h.ask kind)).mboxDone o 0)

/-- SPARE_CORE_SWAP (R413). -/
def execSpareCoreSwap (core : Nat) (s : State) : Host.Outcome State Fault Refusal := .next (s.svcStart (.coreSwap core))
/-- ROW_SPARING (R413): the rows of the bank are held while one is copied. -/
def execRowSparing (b : HbmBank) (row : Nat) (s : State) : Host.Outcome State Fault Refusal := .next (s.svcStart (.rowSpare b row))
/-- PCH_RETIREMENT (R413). -/
def execPchRetirement (k pch : Nat) (s : State) : Host.Outcome State Fault Refusal := .next (s.svcStart (.pchRetire k pch))
/-- HBM_RECALIBRATION (R413). -/
def execHbmRecalibration (k pch : Nat) (s : State) : Host.Outcome State Fault Refusal := .next (s.svcStart (.hbmRecal k pch))
/-- PAD_FRAME_RECALIBRATION (R413): regions in the frame are moved. -/
def execPadFrameRecalibration (k pf : Nat) (s : State) : Host.Outcome State Fault Refusal := .next (s.svcStart (.padRecal k pf))
/-- PLY_LANE_RETRAINING (R413): requests are retransmitted on other ports. -/
def execPlyLaneRetraining (port : Nat) (s : State) : Host.Outcome State Fault Refusal := .next (s.svcStart (.plyRetrain port))
/-- D2D_LANE_RETRAINING (R413): the link runs at 7/8 width. -/
def execD2dLaneRetraining (s : State) : Host.Outcome State Fault Refusal := .next (s.svcStart .d2dRetrain)
/-- PORT_LINK_RECOVERY (R413). -/
def execPortLinkRecovery (u : LinkUnit) (s : State) : Host.Outcome State Fault Refusal := .next (s.svcStart (.linkRecovery u))
/-- FIRMWARE_ACTIVATION (R413). -/
def execFirmwareActivation (t : BitVec 16) (s : State) : Host.Outcome State Fault Refusal :=
  if fwTargets.contains t then .next (s.svcStart (.firmware t)) else .next s

/-- CORE_FENCE (R414): a core fails with no spare left; its blocks are saved and it leaves every core mask. A grid left
without a core is settled with the clock (State.settleMasks). -/
def execCoreFence (core : Nat) (s : State) : Host.Outcome State Fault Refusal :=
  if 192 ≤ core || (s.die (dieOf core)).spareCores ≠ 0 then .next s
  else
    let s := s.updCore core (fun c => { c with fenced := true })
    .next ((s.swapBlocks core).foldl (fun s u => s.requestPre u .fence) s)

/-- The work that an action blocks has been moved out of its way. Log entry 104 (DEDUCED). -/
def State.svcReady (s : State) (x : Service) : Bool :=
  match x.kind with
  | .coreSwap c => (s.swapBlocks c).isEmpty
  | .padRecal k f => !(s.stack k).regions.any (fun r => r.frames.contains f)
  | .firmware t => !(decide (0x20 ≤ t.toNat) && decide (t.toNat < 0x2C)) || !(s.stack (t.toNat - 0x20)).regions.any Region.active
  | _ => true

/-- Blocks of a core swap come back on the spare, which has taken the core's number. Log entry 105 (DEDUCED). -/
def State.backOnSpare (s : State) (core : Nat) (us : List Nat) : State :=
  us.foldl (fun s u =>
    match s.block? u with
    | none => s
    | some b =>
      match s.grid? b.grid with
      | none => s
      | some g =>
        if b.status = .saved && s.fitsSaved g b core then
          (s.placeSaved b core).updGrid g.uid (fun g => { g with qHead := g.qHead.filter (· ≠ b.lin), qTail := g.qTail.filter (· ≠ b.lin) })
        else s) s

/-- What an action leaves when it has ended. Log entries 104 (DEDUCED), 105 (DEDUCED). -/
def State.svcEnd (s : State) (x : Service) : State :=
  match x.kind with
  | .coreSwap c =>
    let d := dieOf c
    let s := s.updCore c (fun y => { y with phys := 104 - (s.die d).spareCores })
    (s.updDie d (fun y => { y with spareCores := y.spareCores - 1 })).backOnSpare c x.blks
  | .rowSpare b r => s.updStack b.stack (fun st => { st with sparedRows := st.sparedRows ++ [(b, r)] })
  | .pchRetire k p =>
    let s := s.updStack k (fun st => { st with sparePch := st.sparePch - 1, retiredPch := st.retiredPch ++ [p] })
    s.updDie (k / 6) (fun d => { d with svcPch := ((s.stks.drop (6 * (k / 6))).take 6).foldl (fun n st => n + st.sparePch) 0 })
  | .padRecal k f => s.updStack k (fun st => { st with busyFrames := st.busyFrames.erase f })
  | .d2dRetrain => { s with dies := s.dies.map (fun (d : Die) => { d with d2dTraining := false }) }
  | .firmware t => s.setFwBusy t (s.hub.unverified.contains t)
  | _ => s

/-- SERVICE_ACTION_COMPLETE (R412): a running action ends once what it had to move has gone; vector 0 of PF 0 is
signalled, and the work that it blocked proceeds. -/
def execServiceActionComplete (k : Nat) (s : State) : Host.Outcome State Fault Refusal :=
  match s.hub.services.find? (fun x => x.id = k && x.running) with
  | none => .next s
  | some x =>
    if !s.svcReady x then .next s
    else
      let s := s.updHub (fun h => { h with services := h.services.filter (fun y => y.id ≠ k), mgmtIrq := h.mgmtIrq + 1 })
      .next ((s.svcEnd x).distribute none)

/-! ## Power and temperature (R416) -/

/-- A clock falls by one 50 MHz step, to no less than 700 MHz. Log entry 104 (DEDUCED). -/
def slower (f : Nat) : Nat := max 14 (f - 1)
/-- A die's clock falls by one step at a moment, which is kept when the clock has changed. -/
def Die.slow (d : Die) (now : Dword) : Die :=
  { d with freq := slower d.freq, slowed := if slower d.freq = d.freq then d.slowed else d.slowed ++ [(now, d.freq)] }
/-- The array MAX falls likewise, to no less than MIN, and a clock region above it follows (R340).
Log entry 104 (DEDUCED). -/
def Stack.lowerMax (st : Stack) : Stack :=
  let c := st.aclkCtl.toNat
  let mx := max (bitsOf c 31 24) (max 7 (bitsOf c 39 32 - 1))
  { st with aclkCtl := dword (c - bitsOf c 39 32 * 2 ^ 32 + mx * 2 ^ 32), aclkF := st.aclkF.map (fun f => if bit c 48 then f else min f mx) }

/-- POWER_WINDOW: the power measured over the last 1 ms. -/
def execPowerWindow (watts : Nat) (s : State) : Host.Outcome State Fault Refusal :=
  let s := s.updHub (fun h => { h with pwrWatts := BitVec.ofNat 12 (min 4095 watts) })
  if watts ≤ s.hub.pwrCap.toNat then .next s
  else .next { s with dies := s.dies.map (fun (d : Die) => d.slow s.clk), stks := s.stks.map Stack.lowerMax }

/-- The hottest core of a die, as its sensors read (R52), and of the module. -/
def State.hottest (s : State) (die : Nat) : Nat := (s.cores.zipIdx.filter (fun x => dieOf x.2 = die)).foldl (fun m x => max m x.1.tempC) 0
def State.hottestCore (s : State) : Nat := max (s.hottest 0) (s.hottest 1)
/-- TMAX with a junction that has been measured at some temperature. -/
def State.tmaxWith (s : State) (temp : Nat) : BitVec 8 := BitVec.ofNat 8 (min 255 (max temp s.hottestCore))

/-- A junction of a die has been measured: at or above 105 degrees its die's clock falls by a step, and the array MAX of its stacks
likewise. -/
def State.throttle (s : State) (die temp : Nat) : State :=
  let s := s.updHub (fun h => { h with tmax := s.tmaxWith temp })
  if temp < 105 then s
  else
    let s := s.updDie die (fun d => d.slow s.clk)
    { s with stks := s.stks.zipIdx.map (fun (x : Stack × Nat) => if x.2 / 6 = die then x.1.lowerMax else x.1) }

/-- A junction at 115 degrees: every wave takes cause 63, work stops, and the host port goes down. -/
def State.trip (s : State) (temp : Nat) : State :=
  if temp < 115 || s.hub.tripped then s
  else
    let s := s.waves.foldl (fun s w => s.machineCheck w.wid { asyncRec s w 63#6 0#64 with async := true } 0#64) s
    s.updHub (fun h => { h with tmax := s.tmaxWith temp, tripped := true, hostUp := false })

/-- THERMAL_THROTTLE. -/
def execThermalThrottle (die temp : Nat) (s : State) : Host.Outcome State Fault Refusal := .next (s.throttle die temp)

/-- THERMAL_TRIP. -/
def execThermalTrip (_die temp : Nat) (s : State) : Host.Outcome State Fault Refusal := .next (s.trip temp)

/-- D3HOT_REQUEST: accepted only while no partition has resident or saved work. -/
def execD3hotRequest (s : State) : Host.Outcome State Fault Refusal :=
  if s.blocks.isEmpty && s.stks.all (fun st => st.regions.isEmpty) && (List.range 16).all (fun p => !s.hasWork p) then
    .next (s.updHub (fun h => { h with d3hot := true })) else .next s

/-- POWER_LOSS (R410): what is kept is the attestation key's index, advanced though its signature was not released, and the
fuses; everything else is as after reset. -/
def execPowerLoss (s : State) : Host.Outcome State Fault Refusal :=
  let keep (x : Firmware) : Firmware := { x with version := 0#32, svn := 0#16, digest := 0#256 }
  .next { State.reset with
    hub := { Hub.reset with keyIndex := s.hub.keyIndex, keyGen := s.hub.keyGen, keyCert := s.hub.keyCert, firmware := s.hub.firmware.map keep }
    draws := s.draws, now := s.now, fresh := s.fresh
    mem := { Mem.reset with homeMap := s.mem.homeMap }
    cores := s.cores.zipIdx.map (fun (c : Core × Nat) => { Core.reset c.2 with tempC := c.1.tempC, droops := c.1.droops }) }

end Sys2Proof.Machine
end

