-- ==== Sys2Proof/Machine/Registers.lean ====
section
/-! DEFINITION. Writes of the registers that have no row of their own in the opcode table (R9): who may write each, which
fields it has, and what a write does beyond holding the value. -/

namespace Sys2Proof.Machine

open Sys2Proof

/-- The partition that a register belongs to. -/
def regPart : RegName → Option Nat
  | .lqBase p | .hwinVa p | .hostErr p | .sysTmo p | .irBase p | .uetRt p | .fqBase p | .fqSize p | .fqWrite p | .fqRead p | .distCtl p
  | .sliceIvl p | .ageLimit p | .srndKey p | .ctxDesc p | .preDl p | .wdog p | .shadow p | .tlbInv p | .dbgCtl p | .profCtl p | .profBase p
  | .tadIvl p | .tadBase p | .tadSize p | .tadLog p | .tadLogSize p | .tadLogRead p | .tadStop p | .arrSaveBase p | .arrSaveSize p => some p
  | .spmArg0 p | .spmArg1 p => p
  | _ => none

/-- Registers that only PF 0 writes. -/
def regPf0 : RegName → Bool
  | .ctxDesc _ | .tadBase _ | .tadSize _ | .tadLog _ | .tadLogSize _ => true
  | _ => false

/-- An origin may write a register: the secure world those of R402, PF 0 every other one, and a VF its partition's own. -/
def regAllowed (o : Origin) (r : RegName) : Bool :=
  match o with
  | .secure => secureReg r
  | .pf0 => !secureReg r
  | .vf p => !secureReg r && !regPf0 r && regPart r = some p && decide (p < 16)

/-- Bits [hi:lo] of a value in place, every other bit 0. -/
def fieldOf (v : Dword) (hi lo : Nat) : Dword := dword (bitsOf v.toNat hi lo * 2 ^ lo)
/-- A write of 1s to a W1C field clears those bits. Log entry 103 (DEDUCED). -/
def w1c32 (x : Word) (v : Dword) (lo : Nat) : Word := x &&& ~~~(v.extractLsb' lo 32)
def w1c16 (x : BitVec 16) (v : Dword) (lo : Nat) : BitVec 16 := x &&& ~~~(v.extractLsb' lo 16)

/-- Fields of a value, and of the old one where a field's new value lies outside its range. Log entry 103 (DEDUCED). -/
def keepField (old v : Dword) (hi lo : Nat) (ok : Nat → Bool) : Dword :=
  if ok (bitsOf v.toNat hi lo) then fieldOf v hi lo else fieldOf old hi lo

/-- ACLK_CTL: a value outside its range leaves that field as it was; MIN is not above MAX (R340). -/
def aclkWrite (old v : Dword) : Dword :=
  let f (x : Nat) : Bool := decide (7 ≤ x) && decide (x ≤ 18)
  let mx := keepField old v 39 32 f
  let mn := keepField old v 31 24 (fun x => f x && decide (x ≤ bitsOf mx.toNat 39 32))
  fieldOf v 48 48 ||| keepField old v 47 40 f ||| mx ||| mn ||| fieldOf v 23 16 ||| keepField old v 7 0 (fun x => decide (1 ≤ x))

/-- The frequency that ACLK_CTL leaves a clock region: FIXF with FIX set, else its own between MIN and MAX. -/
def aclkBound (ctl : Dword) (f : Nat) : Nat :=
  let c := ctl.toNat
  if bit c 48 then bitsOf c 47 40 else max (bitsOf c 31 24) (min f (bitsOf c 39 32))

/-- PROF_CTL (R280). -/
def profCtlWrite (old v : Dword) : Dword := keepField old v 36 32 (fun x => decide (8 ≤ x) && decide (x ≤ 24)) ||| fieldOf v 31 0

/-- A partition register's write. Log entry 103 (DEDUCED). -/
def Partition.writeReg (x : Partition) (r : RegName) (v : Dword) : Partition :=
  match r with
  | .lqBase _ => { x with lqBase := fieldOf v 56 0 }
  | .hwinVa _ => { x with hwinVa := fieldOf v 56 16 }
  | .hostErr _ => { x with hostErr := w1c32 x.hostErr v 0 }
  | .sysTmo _ => { x with sysTmo := if v.extractLsb' 0 16 = 0#16 then 1#16 else v.extractLsb' 0 16 }
  | .irBase _ => { x with irBase := fieldOf v 56 0 }
  | .uetRt _ => { x with uetRt := fieldOf v 56 0 }
  | .fqBase _ => { x with fqBase := v }
  | .fqSize _ => { x with fqSize := v }
  | .fqRead _ => { x with fqRead := v }
  | .distCtl _ => { x with distCtl := fieldOf v 39 24 ||| fieldOf v 19 16 }
  | .sliceIvl _ => { x with sliceIvl := dword (max 10 (bitsOf v.toNat 19 0)) }
  | .ageLimit _ => { x with ageLimit := fieldOf v 47 0 }
  | .srndKey _ => { x with srndKey := v.extractLsb' 0 32 }
  | .ctxDesc _ => { x with ctxDesc := fieldOf v 51 6 }
  | .preDl _ => { x with preDl := v.extractLsb' 0 32 }
  | .wdog _ => { x with wdog := v.extractLsb' 0 32 }
  | .shadow _ => { x with shadow := if bitsOf v.toNat 6 0 ≤ 80 then v.extractLsb' 0 7 else x.shadow }
  | .tlbInv _ => { x with tlbInv := fieldOf v 56 16 ||| fieldOf v 1 1 }
  | .dbgCtl _ => x.setDbg v
  | .profCtl _ => { x with profCtl := profCtlWrite x.profCtl v, profWrite := 0#64 }
  | .profBase _ => { x with profBase := fieldOf v 56 0, profWrite := 0#64 }
  | .tadIvl _ => { x with tadIvl := v.extractLsb' 0 32 }
  | .tadBase _ => { x with tadBase := fieldOf v 51 16 }
  | .tadSize _ => { x with tadSize := v.extractLsb' 0 32 }
  | .tadLog _ => { x with tadLog := fieldOf v 51 16 }
  | .tadLogSize _ => { x with tadLogSize := v.extractLsb' 0 32 }
  | .tadLogRead _ => { x with tadLogRead := v, logStalled := false }
  | .tadStop _ => { x with tadStop := v }
  | .arrSaveBase _ => { x with arrSaveBase := fieldOf v 51 16 }
  | .arrSaveSize _ => { x with arrSaveSize := v.extractLsb' 0 32 }
  | .spmArg0 _ => { x with mbox := { x.mbox with arg0 := v } }
  | .spmArg1 _ => { x with mbox := { x.mbox with arg1 := v } }
  | _ => x

/-- SE_OVF_BASE or SE_OVF_SIZE: the change takes effect when the overflow area is empty (R193). Log entry 103 (DEDUCED). -/
def Die.ovfWrite (d : Die) (base size : Dword) : Die := { d with seOvfNext := some (base, size) }.settleOvf

/-- A stack register's write. Log entry 103 (DEDUCED). -/
def Stack.writeReg (st : Stack) (r : RegName) (v : Dword) : Stack :=
  match r with
  | .chamCtl _ => { st with chamCtl := fieldOf v 16 8 }
  | .arrStat _ => { st with leftover := w1c32 st.leftover v 32, moved := w1c16 st.moved v 16, loads := w1c16 st.loads v 0 }
  | .gwRej _ => { st with gwCount := w1c32 st.gwCount v 0 }
  | .aclkCtl _ => { st with aclkCtl := aclkWrite st.aclkCtl v, aclkF := st.aclkF.map (aclkBound (aclkWrite st.aclkCtl v)) }
  | .gkSpillBase _ g =>
    let size := match st.spillNext.getD g none with | some x => x.2 | none => st.spillSize.getD g 0#64
    ({ st with spillNext := st.spillNext.set g (some (fieldOf v 51 16, size)) }).settleSpill g
  | .gkSpillSize _ g =>
    let base := match st.spillNext.getD g none with | some x => x.1 | none => st.spillBase.getD g 0#64
    ({ st with spillNext := st.spillNext.set g (some (base, fieldOf v 31 0)) }).settleSpill g
  | .hbmCtl _ =>
    let cap := if bitsOf v.toNat 31 24 = 0 then dword (2 ^ 24) else fieldOf v 31 24
    { st with hbmCtl := fieldOf v 47 32 ||| cap ||| fieldOf v 15 0 }
  | .mgmtAlert _ => { st with mgmtAlert := st.mgmtAlert &&& ~~~(fieldOf v 63 32) }
  | .bankBo _ p b => { st with bankBo := st.bankBo.map (fun x => if x.1.pch = p && x.1.bank = b then (x.1, w1c32 x.2 v 0) else x) }
  | .eccStat _ => { st with corr := w1c32 st.corr v 32, uncorr := w1c32 st.uncorr v 0 }
  | .qosSlot _ ch j => { st with qosNext := (ch, j, v &&& 0xCFCFCFCFCFCFCFCF#64) :: st.qosNext.filter (fun x => !(x.1 = ch && x.2.1 = j)) }
  | _ => st

/-! ## The register block in BAR0 (R387, R411) -/

/-- What stands at an 8-byte offset of a partition's block. -/
inductive BarSlot where
  | reg (r : RegName)
  | qerr
  | cqerr
  | partCtl
  | tlbInvN
  | profWrite
  | tadCmd
  | tadLogWrite
  | tadPos
  | spmCmd
  | spmStat
  deriving DecidableEq, Repr

/-- The registers of earlier chapters, in the order of their first appearance. Log entry 134 (DESIGN CHOICE). -/
def laterSlots (p : Nat) : List BarSlot :=
  [.reg (.distCtl p), .reg (.sliceIvl p), .reg (.ageLimit p), .reg (.srndKey p), .reg (.ctxDesc p), .reg (.tlbInv p), .reg (.preDl p),
    .reg (.wdog p), .reg (.shadow p), .tlbInvN, .reg (.dbgCtl p), .reg (.fqBase p), .reg (.fqSize p), .reg (.fqWrite p), .reg (.fqRead p),
    .reg (.profCtl p), .reg (.profBase p), .reg (.tadIvl p), .reg (.tadBase p), .reg (.tadLog p), .reg (.tadStop p), .reg (.tadSize p),
    .reg (.tadLogSize p), .profWrite, .tadCmd, .tadLogWrite, .reg (.tadLogRead p), .tadPos, .reg (.arrSaveBase p), .reg (.arrSaveSize p)]

/-- The offsets of a partition's block in BAR0 of its VF (R387), the mailbox among them (R411). -/
def barSlots (p : Nat) : List (Nat × BarSlot) :=
  [(0x00, .reg (.lqBase p)), (0x08, .qerr), (0x10, .cqerr), (0x18, .reg (.hwinVa p)), (0x20, .reg (.hostErr p)), (0x28, .reg (.sysTmo p)),
    (0x30, .partCtl), (0x38, .reg (.irBase p)), (0x40, .reg (.uetRt p)), (0x80, .spmCmd), (0x88, .reg (.spmArg0 (some p))),
    (0x90, .reg (.spmArg1 (some p))), (0x98, .spmStat)] ++ (laterSlots p).zipIdx.map (fun x => (0x100 + 8 * x.2, x.1))
def barSlot (p off : Nat) : Option BarSlot := ((barSlots p).find? (fun x => x.1 = off)).map Prod.snd

/-- The value of a partition's register. -/
def Partition.readReg (x : Partition) : RegName → Dword
  | .lqBase _ => x.lqBase
  | .hwinVa _ => x.hwinVa
  | .hostErr _ => x.hostErr.zeroExtend 64
  | .sysTmo _ => x.sysTmo.zeroExtend 64
  | .irBase _ => x.irBase
  | .uetRt _ => x.uetRt
  | .fqBase _ => x.fqBase
  | .fqSize _ => x.fqSize
  | .fqWrite _ => x.fqWrite
  | .fqRead _ => x.fqRead
  | .distCtl _ => x.distCtl
  | .sliceIvl _ => x.sliceIvl
  | .ageLimit _ => x.ageLimit
  | .srndKey _ => x.srndKey.zeroExtend 64
  | .ctxDesc _ => x.ctxDesc
  | .preDl _ => x.preDl.zeroExtend 64
  | .wdog _ => x.wdog.zeroExtend 64
  | .shadow _ => x.shadow.zeroExtend 64
  | .tlbInv _ => x.tlbInv ||| (if x.tlbBusy then 1#64 else 0#64)
  | .dbgCtl _ => x.dbgCtl.zeroExtend 64
  | .profCtl _ => x.profCtl
  | .profBase _ => x.profBase
  | .tadIvl _ => x.tadIvl.zeroExtend 64
  | .tadBase _ => x.tadBase
  | .tadSize _ => x.tadSize.zeroExtend 64
  | .tadLog _ => x.tadLog
  | .tadLogSize _ => x.tadLogSize.zeroExtend 64
  | .tadLogRead _ => x.tadLogRead
  | .tadStop _ => x.tadStop
  | .arrSaveBase _ => x.arrSaveBase
  | .arrSaveSize _ => x.arrSaveSize.zeroExtend 64
  | .spmArg0 _ => x.mbox.arg0
  | .spmArg1 _ => x.mbox.arg1
  | _ => 0#64

/-- What a read at an offset of the block returns, none at an offset that holds no register; a write-only field reads as 0. -/
def State.barRead (s : State) (p off : Nat) : Option Dword :=
  let x := s.part p
  (barSlot p off).map (fun b =>
    match b with
    | .reg r => x.readReg r
    | .qerr => x.qerr
    | .cqerr => x.cqerr.zeroExtend 64
    | .partCtl => if x.ending then 1#64 else 0#64
    | .tlbInvN | .tadCmd | .spmCmd => 0#64
    | .profWrite => x.profWrite
    | .tadLogWrite => x.tadLogWrite
    | .tadPos => x.tadPos
    | .spmStat => x.mbox.result.zeroExtend 64 <<< 8 ||| (if x.mbox.busy then 1#64 else 0#64))

/-! ## What the registers of PF 0 read -/

/-- TASK_LOST and SE_STAT of a die (R51, R193). -/
def Die.readTaskLost (d : Die) : Dword := d.taskLost.zeroExtend 64
def Die.readSeStat (d : Die) : Dword := d.seWaits.zeroExtend 64 <<< 32 ||| d.seBadArv.zeroExtend 64
/-- ARR_STAT, GW_REJ and ACLK_STAT of a stack (R322, R335, R340). -/
def Stack.readArrStat (st : Stack) : Dword := st.leftover.zeroExtend 64 <<< 32 ||| st.moved.zeroExtend 64 <<< 16 ||| st.loads.zeroExtend 64
def Stack.readGwRej (st : Stack) : Dword := st.gwLastPf.zeroExtend 64 <<< 48 ||| st.gwCount.zeroExtend 64
def Stack.readAclkStat (st : Stack) : Dword := dword ((List.range 4).foldl (fun n q => n + st.aclkF.getD q 0 * 2 ^ (8 * q)) 0)
/-- ECC_STAT and BANK_BO(p, b) of a stack (R376). -/
def Stack.readEccStat (st : Stack) : Dword := st.corr.zeroExtend 64 <<< 32 ||| st.uncorr.zeroExtend 64
def Stack.readBankBo (st : Stack) (b : HbmBank) : Dword :=
  match st.bankBo.find? (fun x => x.1 = b) with | some x => x.2.zeroExtend 64 | none => 0#64
/-- CT_STAT, CT_EXT(e), CKPT_CTL and NET_STAT (R384, R385, R395). -/
def Hub.readCtStat (h : Hub) : Dword := h.ctResult.zeroExtend 64 <<< 24 ||| (if h.ctBusy.isSome then 1#64 else 0#64)
def Hub.readCtExt (h : Hub) (e : Nat) : Dword :=
  match h.extents.find? (fun x => x.num = e) with | some x => if x.retain then 3#64 else 1#64 | none => 0#64
def Hub.readCkptCtl (h : Hub) : Dword := h.ckptResult.zeroExtend 64 <<< 24 ||| (if h.ckptRestore then 2#64 else 0#64) ||| (if h.ckptRun then 1#64 else 0#64)
def Hub.readNetStat (h : Hub) : Dword := h.netUnmatched.zeroExtend 64 <<< 32 ||| (if h.netBusy.isSome then 1#64 else 0#64)
/-- SVC_CORE(n) and SVC_SPARES(d) (R415). Log entry 105 (DEDUCED). -/
def Core.readSvc (c : Core) : Dword := dword (c.phys % 256 * 256 + (if c.fenced then 1 else 0))
def State.readSvcSpares (s : State) (die : Nat) : Dword :=
  dword ((s.die die).svcPch % 256 * 256 + (s.die die).spareCores % 256)
/-- PWR_STAT (R416). -/
def State.readPwrStat (s : State) : Dword :=
  dword (s.hub.pwrWatts.toNat * 2 ^ 28 + s.hub.tmax.toNat * 2 ^ 20 + (s.die 1).freq % 256 * 2 ^ 12 + (s.die 0).freq % 256 * 2 ^ 4)

/-- The write of a register that the origin may write. Log entry 103 (DEDUCED). -/
def State.writeReg (s : State) (r : RegName) (v : Dword) : State :=
  match r with
  | .spmArg0 none => s.updHub (fun h => { h with mbox := { h.mbox with arg0 := v } })
  | .spmArg1 none => s.updHub (fun h => { h with mbox := { h.mbox with arg1 := v } })
  | .dbgCtl p =>
    let s := s.updPart p (fun x => x.setDbg v)
    if v.getLsbD 1 then s.haltAll p 1 else s
  | .fqBase p | .fqSize p | .fqRead p => (s.updPart p (fun x => x.writeReg r v)).drainFq p ((s.part p).fqHeld.length + 1)
  | .taskLost d => s.updDie d (fun x => { x with taskLost := w1c32 x.taskLost v 0 })
  | .seOvfBase d => s.updDie d (fun x => x.ovfWrite (fieldOf v 51 16) (match x.seOvfNext with | some y => y.2 | none => x.seOvfSize))
  | .seOvfSize d => s.updDie d (fun x => x.ovfWrite (match x.seOvfNext with | some y => y.1 | none => x.seOvfBase) (fieldOf v 31 0))
  | .seStat d => s.updDie d (fun x => { x with seWaits := w1c16 x.seWaits v 32, seBadArv := w1c32 x.seBadArv v 0 })
  | .chamCtl k | .arrStat k | .gwRej k | .aclkCtl k | .gkSpillBase k _ | .gkSpillSize k _ | .hbmCtl k | .mgmtAlert k | .bankBo k _ _
  | .eccStat k | .qosSlot k _ _ => s.updStack k (fun st => st.writeReg r v)
  | .secLim i => s.updHub (fun h => { h with secRanges := h.secRanges.modify i (fun x => { x with lim := v.extractLsb' 0 31 }) })
  | .plyId => s.updHub (fun h => { h with plyId := v.extractLsb' 0 8 })
  | .plyExp m => s.updHub (fun h => { h with plyExp := (m, fieldOf v 63 60 ||| fieldOf v 19 0) :: h.plyExp.filter (fun x => x.1 ≠ m) })
  | .netStat => s.updHub (fun h => { h with netUnmatched := w1c32 h.netUnmatched v 32 })
  | .netData i => s.updHub (fun h => { h with netData := h.netData.set i v })
  | .pwrCap =>
    let w := bitsOf v.toNat 11 0
    s.updHub (fun h => if 500 ≤ w && w ≤ 2900 then { h with pwrCap := v.extractLsb' 0 12 } else h)
  | r => match regPart r with | some p => s.updPart p (fun x => x.writeReg r v) | none => s

/-- REGISTER_WRITE (R9): a write by an origin that may not write the register changes nothing. -/
def execRegisterWrite (o : Origin) (r : RegName) (v : Dword) (s : State) : Host.Outcome State Fault Refusal :=
  if regAllowed o r then .next (s.writeReg r v) else .next s

/-- A write of its VF at an offset of a partition's block is the write of the register there; one of a read-only register, or at an
offset that holds none, changes nothing. A service request carries what its bytes ask for (log entry 68). -/
def barWrite (p off : Nat) (v : Dword) (s : State) : Host.Outcome State Fault Refusal :=
  match barSlot p off with
  | some (.reg r) => execRegisterWrite (.vf p) r v s
  | some .qerr => execQerrWrite p v s
  | some .cqerr => execCqerrWrite p v s
  | some .partCtl => if v.getLsbD 1 then execPartEnd p s else .next s
  | some .tlbInvN => execTlbInvalidate p v s
  | some .tadCmd => execTadCmdCkpt p v s
  | some .spmCmd =>
    match bitsOf v.toNat 7 0 with
    | 1 => execSpmLoadImage (.vf p) s
    | 2 => execSpmAttest (.vf p) s
    | 3 => .next (if (s.part p).mbox.busy then s else s.mboxDone (.vf p) 1)
    | 4 => execSpmSvnCommit (.vf p) s
    | 5 => execSpmWriteSecureReg (.vf p) s
    | _ => .next s
  | some .profWrite | some .tadLogWrite | some .tadPos | some .spmStat | none => .next s

/-! ## The mailbox of PF 0 (R411) -/

/-- The offsets of PF 0's mailbox in its BAR0. -/
def pf0Slot (off : Nat) : Option BarSlot :=
  if off = 0x3FF000 then some .spmCmd
  else if off = 0x3FF008 then some (.reg (.spmArg0 none))
  else if off = 0x3FF010 then some (.reg (.spmArg1 none))
  else if off = 0x3FF018 then some .spmStat
  else none

/-- What a read of PF 0 at an offset of its mailbox returns, none at an offset outside it. -/
def State.pf0Read (s : State) (off : Nat) : Option Dword :=
  (pf0Slot off).map (fun b =>
    match b with
    | .reg (.spmArg0 _) => s.hub.mbox.arg0
    | .reg _ => s.hub.mbox.arg1
    | .spmStat => s.hub.mbox.result.zeroExtend 64 <<< 8 ||| (if s.hub.mbox.busy then 1#64 else 0#64)
    | _ => 0#64)

/-- A write of PF 0 at an offset of its mailbox; a service request asks for the action that its bytes name (log entry 68). -/
def pf0Write (off : Nat) (v : Dword) (kind : SvcKind) (s : State) : Host.Outcome State Fault Refusal :=
  match pf0Slot off with
  | some (.reg r) => execRegisterWrite .pf0 r v s
  | some .spmCmd =>
    match bitsOf v.toNat 7 0 with
    | 1 => execSpmLoadImage .pf0 s
    | 2 => execSpmAttest .pf0 s
    | 3 => execSpmServiceRequest .pf0 kind s
    | 4 => execSpmSvnCommit .pf0 s
    | 5 => execSpmWriteSecureReg .pf0 s
    | _ => .next s
  | _ => .next s

end Sys2Proof.Machine
end

