-- ==== Sys2Proof/Machine/Dispatch.lean ====
section
/-! DEFINITION. The dispatch: one arm per constructor of Instr, in the order of spec/opcode_table.json. -/

namespace Sys2Proof.Machine

open Sys2Proof

def exec (i : Instr) (s : State) : Host.Outcome State Fault Refusal :=
  match i with
  | .intAdd e => Sys2Proof.Machine.execIntAdd e s
  | .intSub e => Sys2Proof.Machine.execIntSub e s
  | .intMul e => Sys2Proof.Machine.execIntMul e s
  | .mulhi e => Sys2Proof.Machine.execMulhi e s
  | .mad e => Sys2Proof.Machine.execMad e s
  | .intMin e => Sys2Proof.Machine.execIntMin e s
  | .intMax e => Sys2Proof.Machine.execIntMax e s
  | .intAbs e => Sys2Proof.Machine.execIntAbs e s
  | .intNeg e => Sys2Proof.Machine.execIntNeg e s
  | .andOp e => Sys2Proof.Machine.execAndOp e s
  | .orOp e => Sys2Proof.Machine.execOrOp e s
  | .xorOp e => Sys2Proof.Machine.execXorOp e s
  | .notOp e => Sys2Proof.Machine.execNotOp e s
  | .shl e => Sys2Proof.Machine.execShl e s
  | .shr e => Sys2Proof.Machine.execShr e s
  | .rot e => Sys2Proof.Machine.execRot e s
  | .popc e => Sys2Proof.Machine.execPopc e s
  | .clz e => Sys2Proof.Machine.execClz e s
  | .ctz e => Sys2Proof.Machine.execCtz e s
  | .brev e => Sys2Proof.Machine.execBrev e s
  | .bfe e => Sys2Proof.Machine.execBfe e s
  | .bfi e => Sys2Proof.Machine.execBfi e s
  | .sel e => Sys2Proof.Machine.execSel e s
  | .mov e => Sys2Proof.Machine.execMov e s
  | .intCmp e => Sys2Proof.Machine.execIntCmp e s
  | .lea e => Sys2Proof.Machine.execLea e s
  | .perm e => Sys2Proof.Machine.execPerm e s
  | .shf e => Sys2Proof.Machine.execShf e s
  | .fpAdd e => Sys2Proof.Machine.execFpAdd e s
  | .fpSub e => Sys2Proof.Machine.execFpSub e s
  | .fpMul e => Sys2Proof.Machine.execFpMul e s
  | .fma e => Sys2Proof.Machine.execFma e s
  | .fpMin e => Sys2Proof.Machine.execFpMin e s
  | .fpMax e => Sys2Proof.Machine.execFpMax e s
  | .fpAbs e => Sys2Proof.Machine.execFpAbs e s
  | .fpNeg e => Sys2Proof.Machine.execFpNeg e s
  | .fpCmp e => Sys2Proof.Machine.execFpCmp e s
  | .classOp e => Sys2Proof.Machine.execClassOp e s
  | .rcp e => Sys2Proof.Machine.execRcp e s
  | .rsq e => Sys2Proof.Machine.execRsq e s
  | .sqe e => Sys2Proof.Machine.execSqe e s
  | .exp2 e => Sys2Proof.Machine.execExp2 e s
  | .log2 e => Sys2Proof.Machine.execLog2 e s
  | .rnd e => Sys2Proof.Machine.execRnd e s
  | .cvt e => Sys2Proof.Machine.execCvt e s
  | .cvt2 e => Sys2Proof.Machine.execCvt2 e s
  | .pack e => Sys2Proof.Machine.execPack e s
  | .unpk e => Sys2Proof.Machine.execUnpk e s
  | .dcd e => Sys2Proof.Machine.execDcd e s
  | .enc e => Sys2Proof.Machine.execEnc e s
  | .sbx e => Sys2Proof.Machine.execSbx e s
  | .scl e => Sys2Proof.Machine.execScl e s
  | .quadXor e => Sys2Proof.Machine.execQuadXor e s
  | .quadBc e => Sys2Proof.Machine.execQuadBc e s
  | .shflIdx e => Sys2Proof.Machine.execShflIdx e s
  | .shflUp e => Sys2Proof.Machine.execShflUp e s
  | .shflDn e => Sys2Proof.Machine.execShflDn e s
  | .shflXor e => Sys2Proof.Machine.execShflXor e s
  | .wred e => Sys2Proof.Machine.execWred e s
  | .wscan e => Sys2Proof.Machine.execWscan e s
  | .ballot e => Sys2Proof.Machine.execBallot e s
  | .kop e => Sys2Proof.Machine.execKop e s
  | .kpopc e => Sys2Proof.Machine.execKpopc e s
  | .kffs e => Sys2Proof.Machine.execKffs e s
  | .matchOp e => Sys2Proof.Machine.execMatchOp e s
  | .br e => Sys2Proof.Machine.execBr e s
  | .split e => Sys2Proof.Machine.execSplit e s
  | .join e => Sys2Proof.Machine.execJoin e s
  | .loop e => Sys2Proof.Machine.execLoop e s
  | .call e => Sys2Proof.Machine.execCall e s
  | .ret e => Sys2Proof.Machine.execRet e s
  | .jmp e => Sys2Proof.Machine.execJmp e s
  | .nop e => Sys2Proof.Machine.execNop e s
  | .ldG e => Sys2Proof.Machine.execLdG e s
  | .stG e => Sys2Proof.Machine.execStG e s
  | .ldS e => Sys2Proof.Machine.execLdS e s
  | .stS e => Sys2Proof.Machine.execStS e s
  | .ldC e => Sys2Proof.Machine.execLdC e s
  | .tld e => Sys2Proof.Machine.execTld e s
  | .gatG e => Sys2Proof.Machine.execGatG e s
  | .sctG e => Sys2Proof.Machine.execSctG e s
  | .gatS e => Sys2Proof.Machine.execGatS e s
  | .sctS e => Sys2Proof.Machine.execSctS e s
  | .pf e => Sys2Proof.Machine.execPf e s
  | .commit e => Sys2Proof.Machine.execCommit e s
  | .commitX e => Sys2Proof.Machine.execCommitX e s
  | .abortOp e => Sys2Proof.Machine.execAbortOp e s
  | .acq e => Sys2Proof.Machine.execAcq e s
  | .barBlk e => Sys2Proof.Machine.execBarBlk e s
  | .barArv e => Sys2Proof.Machine.execBarArv e s
  | .barWt e => Sys2Proof.Machine.execBarWt e s
  | .ownGive e => Sys2Proof.Machine.execOwnGive e s
  | .ownTst e => Sys2Proof.Machine.execOwnTst e s
  | .trapOp e => Sys2Proof.Machine.execTrapOp e s
  | .rte e => Sys2Proof.Machine.execRte e s
  | .yieldOp e => Sys2Proof.Machine.execYieldOp e s
  | .modeOp e => Sys2Proof.Machine.execModeOp e s
  | .getm e => Sys2Proof.Machine.execGetm e s
  | .rdpr e => Sys2Proof.Machine.execRdpr e s
  | .wrpr e => Sys2Proof.Machine.execWrpr e s
  | .bkpt e => Sys2Proof.Machine.execBkpt e s
  | .sleep e => Sys2Proof.Machine.execSleep e s
  | .atomAdd e => Sys2Proof.Machine.execAtomAdd e s
  | .atomMin e => Sys2Proof.Machine.execAtomMin e s
  | .atomMax e => Sys2Proof.Machine.execAtomMax e s
  | .atomAnd e => Sys2Proof.Machine.execAtomAnd e s
  | .atomOr e => Sys2Proof.Machine.execAtomOr e s
  | .atomXor e => Sys2Proof.Machine.execAtomXor e s
  | .atomExch e => Sys2Proof.Machine.execAtomExch e s
  | .atomCas e => Sys2Proof.Machine.execAtomCas e s
  | .atomInc e => Sys2Proof.Machine.execAtomInc e s
  | .barClus e => Sys2Proof.Machine.execBarClus e s
  | .barGrid e => Sys2Proof.Machine.execBarGrid e s
  | .mbarInit e => Sys2Proof.Machine.execMbarInit e s
  | .mbarArv e => Sys2Proof.Machine.execMbarArv e s
  | .mbarWait e => Sys2Proof.Machine.execMbarWait e s
  | .blkGrow e => Sys2Proof.Machine.execBlkGrow e s
  | .blkLeave e => Sys2Proof.Machine.execBlkLeave e s
  | .role e => Sys2Proof.Machine.execRole e s
  | .ctrg e => Sys2Proof.Machine.execCtrg e s
  | .isect e => Sys2Proof.Machine.execIsect e s
  | .taskSpawn e => Sys2Proof.Machine.execTaskSpawn e s
  | .taskJoin e => Sys2Proof.Machine.execTaskJoin e s
  | .taskWait e => Sys2Proof.Machine.execTaskWait e s
  | .tset e => Sys2Proof.Machine.execTset e s
  | .tget e => Sys2Proof.Machine.execTget e s
  | .cpPush e => Sys2Proof.Machine.execCpPush e s
  | .cpClose e => Sys2Proof.Machine.execCpClose e s
  | .cpWait e => Sys2Proof.Machine.execCpWait e s
  | .ringSet e => Sys2Proof.Machine.execRingSet e s
  | .ringAdv e => Sys2Proof.Machine.execRingAdv e s
  | .ringRd e => Sys2Proof.Machine.execRingRd e s
  | .mxRow e => Sys2Proof.Machine.execMxRow e s
  | .mxLdb e => Sys2Proof.Machine.execMxLdb e s
  | .mxResume e => Sys2Proof.Machine.execMxResume e s
  | .mxProg e => Sys2Proof.Machine.execMxProg e s
  | .accRd e => Sys2Proof.Machine.execAccRd e s
  | .accWr e => Sys2Proof.Machine.execAccWr e s
  | .accClr e => Sys2Proof.Machine.execAccClr e s
  | .accOut e => Sys2Proof.Machine.execAccOut e s
  | .sdaRun e => Sys2Proof.Machine.execSdaRun e s
  | .sdaStop e => Sys2Proof.Machine.execSdaStop e s
  | .sdaStat e => Sys2Proof.Machine.execSdaStat e s
  | .sdaLd e => Sys2Proof.Machine.execSdaLd e s
  | .gkHf e => Sys2Proof.Machine.execGkHf e s
  | .gkTbl e => Sys2Proof.Machine.execGkTbl e s
  | .gkIns e => Sys2Proof.Machine.execGkIns e s
  | .gkDel e => Sys2Proof.Machine.execGkDel e s
  | .gkProbe e => Sys2Proof.Machine.execGkProbe e s
  | .gkRehash e => Sys2Proof.Machine.execGkRehash e s
  | .gkEval e => Sys2Proof.Machine.execGkEval e s
  | .gkSeq e => Sys2Proof.Machine.execGkSeq e s
  | .gkStat e => Sys2Proof.Machine.execGkStat e s
  | .topkIns e => Sys2Proof.Machine.execTopkIns e s
  | .topkMrg e => Sys2Proof.Machine.execTopkMrg e s
  | .topkRd e => Sys2Proof.Machine.execTopkRd e s
  | .topkClr e => Sys2Proof.Machine.execTopkClr e s
  | .topkSum e => Sys2Proof.Machine.execTopkSum e s
  | .asyncCauseTaken w => Sys2Proof.Machine.execAsyncCauseTaken w s
  | .loadDataReturn w line clean => Sys2Proof.Machine.execLoadDataReturn w line clean s
  | .ackArrival w k => Sys2Proof.Machine.execAckArrival w k s
  | .crossDiePublish w => Sys2Proof.Machine.execCrossDiePublish w s
  | .launchPacket part q => Sys2Proof.Machine.execLaunchPacket part q s
  | .taskDecrement k => Sys2Proof.Machine.execTaskDecrement k s
  | .sliceExpiry grid => Sys2Proof.Machine.execSliceExpiry grid s
  | .ageingExpiry grid => Sys2Proof.Machine.execAgeingExpiry grid s
  | .preemptDeadlineExpiry blk => Sys2Proof.Machine.execPreemptDeadlineExpiry blk s
  | .blockSave blk => Sys2Proof.Machine.execBlockSave blk s
  | .blockRestore blk => Sys2Proof.Machine.execBlockRestore blk s
  | .partitionSwap part => Sys2Proof.Machine.execPartitionSwap part s
  | .partitionSwapIn part => Sys2Proof.Machine.execPartitionSwapIn part s
  | .sleepExpiry w => Sys2Proof.Machine.execSleepExpiry w s
  | .watchdogExpiry w => Sys2Proof.Machine.execWatchdogExpiry w s
  | .profilerSample part core => Sys2Proof.Machine.execProfilerSample part core s
  | .tadpoleCheckpoint part => Sys2Proof.Machine.execTadpoleCheckpoint part s
  | .tadCmdCkpt part v => Sys2Proof.Machine.execTadCmdCkpt part v s
  | .tadpoleReplay part => Sys2Proof.Machine.execTadpoleReplay part s
  | .dbgHalt part v => Sys2Proof.Machine.execDbgHalt part v s
  | .tlbInvalidate part v => Sys2Proof.Machine.execTlbInvalidate part v s
  | .tlbInvComplete part => Sys2Proof.Machine.execTlbInvComplete part s
  | .qerrWrite part v => Sys2Proof.Machine.execQerrWrite part v s
  | .cqerrWrite part v => Sys2Proof.Machine.execCqerrWrite part v s
  | .copyPacket part cq => Sys2Proof.Machine.execCopyPacket part cq s
  | .copyFaultResume cmd => Sys2Proof.Machine.execCopyFaultResume cmd s
  | .copyPacketComplete cmd => Sys2Proof.Machine.execCopyPacketComplete cmd s
  | .mxKstep cmd => Sys2Proof.Machine.execMxKstep cmd s
  | .accOutPerform cmd => Sys2Proof.Machine.execAccOutPerform cmd s
  | .regionPlacement stack slot => Sys2Proof.Machine.execRegionPlacement stack slot s
  | .peFiring stack slot pad pe => Sys2Proof.Machine.execPeFiring stack slot pad pe s
  | .streamInputToken stack slot stream => Sys2Proof.Machine.execStreamInputToken stack slot stream s
  | .streamOutputWrite stack slot stream => Sys2Proof.Machine.execStreamOutputWrite stack slot stream s
  | .updateApply stack slot stream => Sys2Proof.Machine.execUpdateApply stack slot stream s
  | .gatewayReject stack slot pf owner => Sys2Proof.Machine.execGatewayReject stack slot pf owner s
  | .configComplete stack slot => Sys2Proof.Machine.execConfigComplete stack slot s
  | .drainRequest stack slot => Sys2Proof.Machine.execDrainRequest stack slot s
  | .regionQuiescence stack slot => Sys2Proof.Machine.execRegionQuiescence stack slot s
  | .regionRestore stack slot => Sys2Proof.Machine.execRegionRestore stack slot s
  | .compactionMove stack slot => Sys2Proof.Machine.execCompactionMove stack slot s
  | .aclkWindow stack q up down total => Sys2Proof.Machine.execAclkWindow stack q up down total s
  | .arrAssignWrite stack half v => Sys2Proof.Machine.execArrAssignWrite stack half v s
  | .cfgcInvAddr stack v => Sys2Proof.Machine.execCfgcInvAddr stack v s
  | .cfgcInvAll stack v => Sys2Proof.Machine.execCfgcInvAll stack v s
  | .gkStepPerform stack table => Sys2Proof.Machine.execGkStepPerform stack table s
  | .gkReadPerform stack k => Sys2Proof.Machine.execGkReadPerform stack k s
  | .gkAssignWrite stack v => Sys2Proof.Machine.execGkAssignWrite stack v s
  | .hbmRead c part line errs => Sys2Proof.Machine.execHbmRead c part line errs s
  | .hbmWrite c part line full => Sys2Proof.Machine.execHbmWrite c part line full s
  | .idlePrecharge b => Sys2Proof.Machine.execIdlePrecharge b s
  | .refreshManagement b => Sys2Proof.Machine.execRefreshManagement b s
  | .ctAdd v granted => Sys2Proof.Machine.execCtAdd v granted s
  | .ctRelease v => Sys2Proof.Machine.execCtRelease v s
  | .ctSetRetain v => Sys2Proof.Machine.execCtSetRetain v s
  | .ctClearRetain v => Sys2Proof.Machine.execCtClearRetain v s
  | .ctCmdDone => Sys2Proof.Machine.execCtCmdDone s
  | .ckptStart v => Sys2Proof.Machine.execCkptStart v s
  | .ckptRestore v => Sys2Proof.Machine.execCkptRestore v s
  | .ckptComplete fabricError => Sys2Proof.Machine.execCkptComplete fabricError s
  | .hostBar2Read part off len => Sys2Proof.Machine.execHostBar2Read part off len s
  | .hostBar2Write part off data => Sys2Proof.Machine.execHostBar2Write part off data s
  | .hostAtomicop part off op wide x y => Sys2Proof.Machine.execHostAtomicop part off op wide x y s
  | .sysTimeout w k => Sys2Proof.Machine.execSysTimeout w k s
  | .sysErrorResponse w k => Sys2Proof.Machine.execSysErrorResponse w k s
  | .partEnd part => Sys2Proof.Machine.execPartEnd part s
  | .peerRequest m o req => Sys2Proof.Machine.execPeerRequest m o req s
  | .uetWrite part region off data => Sys2Proof.Machine.execUetWrite part region off data s
  | .ethFrame f => Sys2Proof.Machine.execEthFrame f s
  | .heldFrameLanding port prio => Sys2Proof.Machine.execHeldFrameLanding port prio s
  | .netWriteFlow v => Sys2Proof.Machine.execNetWriteFlow v s
  | .netClearFlow v => Sys2Proof.Machine.execNetClearFlow v s
  | .netWriteKey v => Sys2Proof.Machine.execNetWriteKey v s
  | .netClearKey v => Sys2Proof.Machine.execNetClearKey v s
  | .netCmdDone => Sys2Proof.Machine.execNetCmdDone s
  | .spmLoadImage o => Sys2Proof.Machine.execSpmLoadImage o s
  | .spmAttest o => Sys2Proof.Machine.execSpmAttest o s
  | .spmServiceRequest o kind => Sys2Proof.Machine.execSpmServiceRequest o kind s
  | .spmSvnCommit o => Sys2Proof.Machine.execSpmSvnCommit o s
  | .spmWriteSecureReg o => Sys2Proof.Machine.execSpmWriteSecureReg o s
  | .spareCoreSwap core => Sys2Proof.Machine.execSpareCoreSwap core s
  | .coreFence core => Sys2Proof.Machine.execCoreFence core s
  | .rowSparing b row => Sys2Proof.Machine.execRowSparing b row s
  | .pchRetirement stack pch => Sys2Proof.Machine.execPchRetirement stack pch s
  | .hbmRecalibration stack pch => Sys2Proof.Machine.execHbmRecalibration stack pch s
  | .padFrameRecalibration stack pf => Sys2Proof.Machine.execPadFrameRecalibration stack pf s
  | .plyLaneRetraining port => Sys2Proof.Machine.execPlyLaneRetraining port s
  | .d2dLaneRetraining => Sys2Proof.Machine.execD2dLaneRetraining s
  | .portLinkRecovery unit => Sys2Proof.Machine.execPortLinkRecovery unit s
  | .firmwareActivation target => Sys2Proof.Machine.execFirmwareActivation target s
  | .cgWorldWrite die v => Sys2Proof.Machine.execCgWorldWrite die v s
  | .secRangeWrite n v => Sys2Proof.Machine.execSecRangeWrite n v s
  | .securityBoot => Sys2Proof.Machine.execSecurityBoot s
  | .powerWindow watts => Sys2Proof.Machine.execPowerWindow watts s
  | .thermalThrottle die temp => Sys2Proof.Machine.execThermalThrottle die temp s
  | .thermalTrip die temp => Sys2Proof.Machine.execThermalTrip die temp s
  | .d3hotRequest => Sys2Proof.Machine.execD3hotRequest s
  | .registerWrite o r v => Sys2Proof.Machine.execRegisterWrite o r v s
  | .switchTokenMove stack slot mv => Sys2Proof.Machine.execSwitchTokenMove stack slot mv s
  | .accOutTranslationResume cmd => Sys2Proof.Machine.execAccOutTranslationResume cmd s
  | .serviceActionComplete k => Sys2Proof.Machine.execServiceActionComplete k s
  | .uncorrectableError w src => Sys2Proof.Machine.execUncorrectableError w src s
  | .powerLoss => Sys2Proof.Machine.execPowerLoss s
  | .periodicRefresh b => Sys2Proof.Machine.execPeriodicRefresh b s

end Sys2Proof.Machine
end

