-- ==== Sys2Proof/Machine/Sched.lean ====
section
/-! DEFINITION. The clock tick: which waves of each core issue next (R61-R65), what every other unit does next, and what
passes with time. The turns that a tick finds are the agenda that the following steps work off. -/

namespace Sys2Proof.Machine

open Sys2Proof

/-! ## Ports and banks (R62, R63) -/

/-- The port classes of R63. -/
inductive Port where
  | memory
  | engine
  | alu
  deriving DecidableEq, Repr

/-- The port that an opcode uses. -/
def portOf (op : Nat) : Port :=
  if op / 16 = 6 || (0x70 ≤ op && op ≤ 0x77) || (0x90 ≤ op && op ≤ 0x9D) || op = 0xDA then .memory
  else if (0xB0 ≤ op && op ≤ 0xC3) || (0xD0 ≤ op && op ≤ 0xD8) then .engine
  else .alu

/-- A wave that could issue: its name, order and what its next instruction uses. -/
structure Ready where
  wid : Nat
  starved : Nat
  prio : Nat
  age : Nat
  port : Port
  /-- The vector registers that it reads, each once. -/
  reads : List Nat
  /-- The distinct lines of a load, store, gather or scatter (R145). -/
  lines : Nat
  /-- Its turn in R37's order: arrivals first, then detaches, then attaches. -/
  group : Nat
  deriving DecidableEq, Repr

/-- Vector registers that an instruction reads, each once. -/
def State.vectorReads (s : State) (w : Wave) (op : Nat) (e : Enc) : List Nat :=
  ((s.readRegs w op e).filter (fun r => decide (r < 256))).eraseDups

/-- Distinct lines of a load, store, gather or scatter that has issued in `t`, for which it holds the memory port (R145). -/
def State.linesHeld (s t : State) (w : Wave) (op : Nat) (e : Enc) : Nat :=
  if op < 0x60 || 0x69 < op then 1
  else
    match s.block? w.blk, s.gridOf w with
    | some b, some g =>
      let iv : AtIssue := { win := 0#64, clk := s.clk, preq := w.preq, bconf := b.bconf, acks := w.acks, nwaves := b.members.length }
      let sh := opShape op e
      let c : Cx := { s := s, w := w, b := b, g := g, op := op, e := e, sh := sh, vec := isVector sh e, lanes := laneOn w e, iv := iv }
      let scr := op = 0x62 || op = 0x63 || op = 0x68 || op = 0x69
      let added := match t.wave? w.wid with | some x => (x.loads.drop w.loads.length).foldl (fun n o => max n o.remain.length) 0 | none => 0
      max 1 (if op = 0x64 || op = 0x65 then added else (linesOf (c.pieces scr (decide (0x66 ≤ op)))).length)
    | _, _ => 1

/-- R37's order of the turns of one clock. -/
def turnGroup (op : Nat) : Nat := if op = 0xA1 then 1 else if op = 0xA0 then 2 else 0

/-- Reads of a bank. -/
def bankReads (reads : List Nat) (b : Nat) : Nat := (reads.filter (fun r => r % 4 = b)).length
/-- Banks that an instruction reads three times. -/
def Ready.tripled (x : Ready) : List Nat := (List.range 4).filter (fun b => decide (3 ≤ bankReads x.reads b))
/-- The second pick of a clock fits the first (R62, R63). -/
def Ready.fits (x y : Ready) : Bool :=
  x.tripled.isEmpty && (List.range 4).all (fun b => decide (bankReads x.reads b + bankReads y.reads b ≤ 2))
    && (x.port ≠ y.port || x.port = .alu)

/-- The order of R61: waves that have been passed over 512 times first, oldest first; then by class, oldest first. -/
def Ready.before (x y : Ready) : Bool :=
  if 512 ≤ x.starved then decide (y.starved < 512) || decide (x.age < y.age)
  else decide (y.starved < 512) && (decide (x.prio < y.prio) || (x.prio = y.prio && decide (x.age < y.age)))
def Ready.insert (x : Ready) : List Ready → List Ready
  | [] => [x]
  | y :: ys => if x.before y then x :: y :: ys else y :: Ready.insert x ys

/-- The picks of a core in one clock, from its eligible waves, the banks that supply no read in it, and whether its memory port is
held (R61-R63, R145). Log entry 108 (DEDUCED). -/
def picks (held : List Nat) (port : Bool) (xs : List Ready) : List Ready :=
  let order := (xs.foldr Ready.insert []).filter (fun x =>
    !x.reads.any (fun r => held.contains (r % 4)) && !(port && x.port = .memory))
  match order with
  | [] => []
  | x :: rest => x :: (rest.find? x.fits).toList

/-! ## Eligible waves (R64, R65) -/

/-- What a wave's turn would be: the issue of an instruction, a stall before one, or something that is no issue (a pending
cause, or an instruction already issued going on). -/
inductive Look where
  | ready (x : Ready)
  | stalled
  | other
  deriving DecidableEq, Repr

/-- A wave stands before its next instruction, stalled. -/
def State.stays (t : State) (wid : Nat) : Bool := match t.wave? wid with | some x => x.stage = 0 && x.wait ≠ .no | none => false

/-- A wave stands before an instruction that has not issued. -/
def State.before (s : State) (wid : Nat) : Bool := match s.wave? wid with | some x => x.stage = 0 | none => false

/-- A wave has issued: what it counted since its last issue is cleared (R61, R277). -/
def State.issuedNow (s : State) (wid : Nat) : State := s.updWave wid (fun x => { x with starved := 0, lastIssue := s.clk, barked := false })

/-- After a wave's instruction: it has issued, unless it went on with one or waits before one (R61), and is no longer current. -/
def State.afterTurn (s : State) (wid : Nat) (o : Host.Outcome State Fault Refusal) : Host.Outcome State Fault Refusal :=
  match o with
  | .next t => .next { (if s.before wid && !t.stays wid then t.issuedNow wid else t) with cur := none }
  | .fault r => .fault r
  | .refused r => .refused r

/-- The turn of a wave that was not eligible in this clock (R61, R64): it records its stall, and an instruction that would no
longer stall waits for the next clock's picks. -/
def State.retry (s : State) (wid : Nat) : State :=
  match s.turnOf wid with
  | .used t => t
  | .run i t =>
    match exec i { t with cur := some wid } with
    | .next t' => if t'.stays wid then { t' with cur := none } else s
    | _ => s

def State.look (s : State) (w : Wave) : Look :=
  match s.turnOf w.wid with
  | .used t => if t.stays w.wid then .stalled else .other
  | .run i t =>
    match i.code with
    | none => .other
    | some (op, e) =>
      if w.stage ≠ 0 then .other
      else
        match exec i { t with cur := some w.wid } with
        | .next t' =>
          if t'.stays w.wid then .stalled
          else .ready { wid := w.wid, starved := w.starved, prio := w.prio.toNat, age := w.age, port := portOf op.toNat
                        reads := s.vectorReads w op.toNat e, lines := s.linesHeld t' w op.toNat e, group := turnGroup op.toNat }
        | _ => .stalled

/-- The waves of a core that may take a turn. -/
def State.lookCore (s : State) (core : Nat) : List (Nat × Look) :=
  (s.waves.filter (fun w => w.core = core && s.canRun w)).map (fun w => (w.wid, s.look w))

/-- A clock of a die's own frequency falls in this clock of the timebase (R416). Log entries 104 (DEDUCED), 107 (DEDUCED). -/
def Die.ticks (d : Die) (clk : Nat) : Bool := decide (clk * d.freq / 28 < (clk + 1) * d.freq / 28)

/-- What one core does in one clock: its turns, the waves picked, the waves that were eligible and not picked, the banks that it
holds for the next clock and the clocks for which its memory port stays held (R37, R61, R62, R64, R145).
Log entry 108 (DEDUCED). -/
structure CoreClock where
  turns : List Turn
  picked : List Nat
  passed : List Nat
  banks : List Nat
  port : Nat
  deriving DecidableEq, Repr

def State.coreClock (s : State) (core : Nat) : CoreClock :=
  let looks := s.lookCore core
  let ready := looks.filterMap (fun x => match x.2 with | .ready r => some r | _ => none)
  let held := (s.core core).memHeld
  let chosen := picks (s.core core).heldBanks (held ≠ 0) ready
  let stalled := looks.filterMap (fun x => match x.2 with | .stalled => some (Turn.retry x.1) | _ => none)
  let others := looks.filterMap (fun x => match x.2 with | .other => some (Turn.issue x.1) | _ => none)
  let group (n : Nat) : List Turn := (chosen.filter (fun x => x.group = n)).map (fun x => .issue x.wid)
  { turns := stalled ++ others ++ group 0 ++ group 1 ++ group 2
    picked := chosen.map Ready.wid
    passed := (ready.filter (fun x => !chosen.contains x)).map Ready.wid
    banks := chosen.flatMap Ready.tripled
    port := max (held - 1) ((chosen.filter (fun x => x.port = .memory)).foldl (fun n x => n + (x.lines - 1)) 0) }

/-! ## What the other units do next -/

/-- What a wave waits for: lines of its loads and commits, the end of a sleep, the watchdog, a system access that is late. The line
of its oldest load that the tick asks for is the first one left, from a clean copy where there is one, one a clock: R71 gives no
order. Log entry 146 (DESIGN CHOICE). -/
def State.waveEvents (s : State) (w : Wave) : List Instr :=
  (if w.loads.isEmpty then [] else [.loadDataReturn w.wid 0 true])
    ++ (if w.sent.isEmpty then [] else [.ackArrival w.wid 0])
    ++ (if w.staged.isEmpty then [] else [.crossDiePublish w.wid])
    ++ (if w.wait = .sleep then [.sleepExpiry w.wid] else [])
    ++ (if (s.part (s.partOfWave w.wid)).wdog = 0#32 then [] else [.watchdogExpiry w.wid])
    ++ (if w.loads.isEmpty && w.sent.isEmpty && w.wait ≠ .sysAtom then [] else [.sysTimeout w.wid 0])

/-- A block's save, the deadline of its pre-emption, and its restore. -/
def blockEvents (b : Block) : List Instr :=
  (if b.pre.isSome then [.preemptDeadlineExpiry b.uid, .blockSave b.uid] else []) ++ (if b.status = .restoring then [.blockRestore b.uid] else [])

/-- The next step of a command. -/
def cmdEvents (c : Cmd) : List Instr :=
  match c.kind with
  | .ldb _ | .mx _ => [.mxKstep c.id]
  | .accOut k => if k.waitAt.isSome then [.accOutTranslationResume c.id] else [.accOutPerform c.id]
  | .copy k => if !k.started then [] else if k.waitAt.isSome then [.copyFaultResume c.id] else [.copyPacketComplete c.id]

/-- A region's next moves (R304, R305, R309, R319, R321, R328, R337, R339). -/
def regionEvents (k : Nat) (r : Region) : List Instr :=
  let pads := r.pads.zipIdx
  let pes : List Instr := pads.flatMap (fun p => (List.range p.1.pes.length).map (fun i => .peFiring k r.slot p.2 i))
  let moves : List TokenMove := pads.flatMap (fun p =>
    p.1.switches.zipIdx.flatMap (fun x => (List.range x.1.inbuf.length).map (fun i => TokenMove.sw p.2 x.2 i))
      ++ p.1.chans.flatMap (fun c => [TokenMove.attach p.2 c.chan, TokenMove.forward p.2 c.chan]))
  let streams : List Instr := r.streams.zipIdx.map (fun t =>
    match strDir t.1.record with
    | 0 => .streamInputToken k r.slot t.2
    | 1 => .streamOutputWrite k r.slot t.2
    | _ => .updateApply k r.slot t.2)
  pes ++ moves.map (fun m => .switchTokenMove k r.slot m) ++ streams
    ++ [.regionPlacement k r.slot, .configComplete k r.slot, .compactionMove k r.slot, .drainRequest k r.slot, .regionQuiescence k r.slot,
        .regionRestore k r.slot]

/-- A stack's regions, its Gecko unit and its banks. -/
def stackEvents (k : Nat) (st : Stack) : List Instr :=
  st.regions.flatMap (regionEvents k) ++ ((st.updates.map GkUpd.table).eraseDups).map (fun t => .gkStepPerform k t)
    ++ ((List.range st.reads.length).reverse.map (fun n => .gkReadPerform k n))
    ++ st.banks.flatMap (fun b => [.refreshManagement b.bank]) ++ st.queueEvents ++ st.banks.flatMap (fun b => [.idlePrecharge b.bank])

/-- A die's scheduler has something to do at a queue: the queue is its own (R44) and it is enabled and has a pending slot (R47),
or its descriptor stops it (R44, R49). -/
def State.visits (s : State) (die p q : Nat) : Bool :=
  match (s.loadCtx p).launchQueue p q with
  | .ok x => x.enable && (x.malformed || x.pending) && s.queueDie p x.base = die
  | .error _ => die = 0

/-- The position after one of the scheduler's round robin over (partition, queue): the next enabled queue with a pending slot, of a
partition with a context. Log entry 74 (DEDUCED). -/
def State.nextQueue (s : State) (die at_ : Nat) : Option Nat :=
  ((List.range 1024).map (fun i => (at_ + 1 + i) % 1024)).find? (fun i =>
    (s.part (i / 64)).ctxDesc ≠ 0#64 && !(s.part (i / 64)).qerr.getLsbD (i % 64) && s.visits die (i / 64) (i % 64))

/-- A die's scheduler visits the next queue of its round robin and takes at most one packet from it (R44, R47); a spawn waits
for it too (R204). Log entry 74 (DEDUCED). -/
def State.schedulerClock (s : State) (die : Nat) : State × List Instr :=
  let d := s.die die
  let spawn : List Instr := match d.spawns.head? with | some x => [.launchPacket x.1.part (64 + die)] | none => []
  match s.nextQueue die (d.rrPart * 64 + d.rrQueue) with
  | none => (s, spawn)
  | some i =>
    let p := i / 64
    let q := i % 64
    (s.updDie die (fun d => { d with rrPart := p, rrQueue := q }), .launchPacket p q :: spawn)

/-- A partition's copy queues, invalidations, halts, checkpoints, replays and end; and the profiler's samples at its
interval. -/
def State.partEvents (s : State) (p : Nat) : List Instr :=
  let x := s.part p
  let ivl := (x.profCtl.extractLsb' 0 32).toNat
  (if x.ctx.isSome then (List.range 16).map (fun q => .copyPacket p q) else [])
    ++ (if x.tlbQueue.isEmpty then [] else [.tlbInvComplete p])
    ++ (if x.swapping && !x.ckptReq && !x.halted then [.partitionSwap p] else [])
    ++ (if x.dbgCtl.getLsbD 3 || x.ckptReq then [.tadpoleCheckpoint p] else [])
    ++ (if x.dbgCtl.getLsbD 2 then [.tadpoleReplay p] else [])
    ++ (if x.ending then [.partEnd p] else [])
    ++ (if ivl = 0 then [] else ((List.range 192).filter (fun c => (s.die (dieOf c)).ticks s.clk.toNat && s.dieClk c % ivl = 0)).map
      (fun c => .profilerSample p c))

/-- The event that starts an action. -/
def svcEvent : SvcKind → Instr
  | .coreSwap c => .spareCoreSwap c
  | .rowSpare b r => .rowSparing b r
  | .pchRetire k p => .pchRetirement k p
  | .hbmRecal k p => .hbmRecalibration k p
  | .padRecal k f => .padFrameRecalibration k f
  | .plyRetrain n => .plyLaneRetraining n
  | .d2dRetrain => .d2dLaneRetraining
  | .linkRecovery u => .portLinkRecovery u
  | .firmware t => .firmwareActivation t

/-- The hub's commands, held frames and service actions. -/
def hubEvents (h : Hub) : List Instr :=
  (if h.ctBusy.isSome then [.ctCmdDone] else []) ++ (if h.netBusy.isSome then [.netCmdDone] else [])
    ++ (if h.ckptRun then [.ckptComplete false] else [])
    ++ ((h.held.map (fun x => (x.port, x.prio)) ++ h.paused.map (fun x => (x.port, x.prio))).eraseDups).map (fun x => .heldFrameLanding x.1 x.2)
    ++ h.reports.map (fun x => .spmAttest x.1)
    ++ h.services.map (fun x => if x.running then .serviceActionComplete x.id else svcEvent x.kind)

/-- Every event that the module brings about itself and that may be due. What only the outside brings about (a register
write, a frame, a host access, an error, a measurement) comes onto the agenda from outside.
Log entries 1 (DESIGN CHOICE), 30 (DESIGN CHOICE). -/
def State.dueEvents (s : State) : List Instr :=
  s.waves.flatMap s.waveEvents ++ s.cmds.flatMap cmdEvents ++ s.stks.zipIdx.flatMap (fun x => stackEvents x.2 x.1)
    ++ s.blocks.flatMap blockEvents ++ s.grids.map (fun g => .ageingExpiry g.uid)
    ++ (if s.decrements.isEmpty then [] else [.taskDecrement 0])
    ++ (List.range 16).flatMap s.partEvents ++ hubEvents s.hub
    ++ (match Config.actionDue s.clk.toNat with | some k => [svcEvent k] | none => []) ++ s.writeBacks

/-! ## The tick -/

/-- Clocks of the timebase in a millisecond. -/
def clocksPerMs : Nat := 1400000

/-- The sensors of a core read what the outside world holds (R52): droop events count for 10 µs. Log entry 4 (DESIGN CHOICE). -/
def Core.sense (c : Core) (core : Nat) (clk : Dword) : Core :=
  let kept := c.droops.filter (fun t => decide ((clk - t).toNat < 14000))
  { c with tempC := Config.coreTemp core clk.toNat, droops := if Config.coreDroop core clk.toNat then kept ++ [clk] else kept }

/-- What passes with time: the clock, the sensors (R52, R416), the memory controllers (R376, R381), and Chameleon's moves of a millisecond (R321).
Log entry 1 (DESIGN CHOICE). -/
def State.passTime (s : State) : State :=
  let s := s.hbmClock { s with clk := s.clk + 1#64, cores := s.cores.zipIdx.map (fun (x : Core × Nat) => x.1.sense x.2 (s.clk + 1#64)) }
  if s.clk.toNat % clocksPerMs = 0 then { s with stks := s.stks.map (fun (st : Stack) => { st with compactions := 0 }) } else s

/-- Waves that were eligible and not picked count the clock (R61, R64). -/
def State.passOver (s : State) (ws : List Nat) : State :=
  ws.foldl (fun s w => s.updWave w (fun x => { x with starved := x.starved + 1, stall := 11#4 })) s

/-- Picked waves are about to issue (R64). -/
def State.pickWaves (s : State) (ws : List Nat) : State := ws.foldl (fun s w => s.updWave w (fun x => { x with stall := 0#4 })) s

/-- A core has something to do in a clock: it holds waves, or a bank or its memory port is to be let go. -/
def State.coreBusy (s : State) (c : Nat) : Bool :=
  s.waves.any (fun w => w.core = c) || !(s.core c).heldBanks.isEmpty || (s.core c).memHeld ≠ 0

/-- A clock of every core whose die has one now. Log entry 107 (DEDUCED). -/
def State.coresClock (s : State) : State × List Turn :=
  ((List.range 192).filter (fun c => s.coreBusy c && (s.die (dieOf c)).ticks s.clk.toNat)).foldl (fun (x : State × List Turn) c =>
    let k := s.coreClock c
    (((x.1.updCore c (fun y => { y with heldBanks := k.banks, memHeld := k.port })).pickWaves k.picked).passOver k.passed, x.2 ++ k.turns)) (s, [])

/-- The module works: its firmware has been verified (R406), and no junction has tripped it (R416).
Log entry 104 (DEDUCED). -/
def State.running (s : State) : Bool := s.hub.booted && !s.hub.tripped

/-- What reaches HBM from elsewhere than the whole-memory copy, and waits while it runs (R385). Log entry 64 (DESIGN CHOICE). -/
def reachesHbm : Instr → Bool
  | .loadDataReturn _ _ _ | .ackArrival _ _ | .crossDiePublish _ | .launchPacket _ _ | .taskDecrement _ | .blockSave _ | .blockRestore _
  | .partitionSwap _ | .partitionSwapIn _ | .profilerSample _ _ | .tadpoleCheckpoint _ | .tadpoleReplay _ | .tadCmdCkpt _ _
  | .copyPacket _ _ | .copyFaultResume _ | .copyPacketComplete _ | .mxKstep _ | .accOutPerform _ | .accOutTranslationResume _
  | .regionPlacement _ _ | .streamInputToken _ _ _ | .streamOutputWrite _ _ _ | .updateApply _ _ _ | .configComplete _ _
  | .regionQuiescence _ _ | .regionRestore _ _ | .gkStepPerform _ _ | .gkReadPerform _ _ | .hostBar2Read _ _ _ | .hostBar2Write _ _ _
  | .hostAtomicop _ _ _ _ _ _ | .peerRequest _ _ _ | .uetWrite _ _ _ _ | .spmLoadImage _
  | .spareCoreSwap _ | .spmAttest _ | .partEnd _ | .secRangeWrite _ _ => true
  | _ => false

/-- The ports that an event from outside comes through (R406). -/
def arrivalTarget : Instr → Option (BitVec 16)
  | .hostBar2Read _ _ _ | .hostBar2Write _ _ _ | .hostAtomicop _ _ _ _ _ _ => some 0x40#16
  | .peerRequest _ _ _ => some 0x42#16
  | .uetWrite _ _ _ _ | .ethFrame _ => some 0x43#16
  | _ => none

/-- An event may happen now: before the security processor has verified the firmware only that (R406), and after a trip nothing
but the loss of power (R416); nothing comes through a port without verified firmware; an instruction of a wave is no event; what
reaches HBM waits while the whole-memory copy runs (R385). Log entries 30 (DESIGN CHOICE), 104 (DEDUCED). -/
def State.admits (s : State) (i : Instr) : Bool :=
  match i with
  | .powerLoss => true
  | .securityBoot => !s.hub.tripped
  | i => i.code.isNone && s.running && !(s.hub.ckptRun && reachesHbm i) && !s.hub.unverified.any (fun t => arrivalTarget i = some t)

/-- What the sensors of the cores bring about (R416). -/
def State.heat (s : State) : State := ((s.throttle 0 (s.hottest 0)).throttle 1 (s.hottest 1)).trip s.hottestCore

/-- The next clock, and what is due in it while the module works: priority pre-emptions come before the slice rule (R56). Log
entries 1 (DESIGN CHOICE), 16 (DESIGN CHOICE). -/
def State.tick (s : State) : State :=
  if !s.running then { s with clk := s.clk + 1#64, agenda := if s.hub.tripped then [] else [.event .securityBoot] }
  else
    let s := s.settleRanges.settleWorlds.settleJoins
    let s := if s.hub.ckptRun then s else s.settleMasks
    let s := s.offerAll.passTime.heat
    let due := s.dueEvents
    let (s, turns) := s.coresClock
    let (s, take0) := s.schedulerClock 0
    let (s, take1) := s.schedulerClock 1
    { s with agenda := turns ++ (due ++ take0 ++ take1 ++ s.grids.map (fun g => Instr.sliceExpiry g.uid)).map Turn.event }

end Sys2Proof.Machine
end

