-- ==== Sys2Proof/Machine/Step.lean ====
section
/-! DEFINITION. One step of the module: the turn at the head of the agenda, or, when none is due, the next clock. -/

namespace Sys2Proof.Machine

open Sys2Proof

/-- One step: an event is performed when it may happen, or a wave takes its turn and performs the instruction at its pc;
with nothing on the agenda, the next clock. Log entries 16 (DESIGN CHOICE), 30 (DESIGN CHOICE). -/
def step (s : State) : Host.Outcome State Fault Refusal :=
  match s.agenda with
  | [] => .next s.tick
  | .event i :: rest =>
    if s.admits i then exec i { s with agenda := rest, cur := none } else .next { s with agenda := rest, cur := none }
  | .retry w :: rest => .next (if s.running then ({ s with agenda := rest }).retry w else { s with agenda := rest })
  | .issue w :: rest =>
    if !s.running then .next { s with agenda := rest }
    else
    match ({ s with agenda := rest }).turnOf w with
    | .used s' => .next s'
    | .run i s' => s'.afterTurn w (exec i { s' with cur := some w })

/-- A state in which the next step fetches and runs the instruction whose bits are `w`, the first word lowest (log entry
16): a page table that maps one page of code, a grid of one block of one wave on core 0 with the largest allotment, the
words at its pc, and that wave's turn next. -/
def State.withFetchWord (s : State) (nbits w : Nat) : State :=
  let entries : List (Nat × Nat) :=
    [(0x1000, 0x2001), (0x2000, 0x3001), (0x3000, 0x4001), (0x4000, 0x5001), (0x5008, 0x1001F)]
  let code := leBytes 16 (w % 2 ^ nbits)
  let tables := entries.foldl (fun m e => Memory.writeN m e.1 (leBytes 8 e.2)) s.mem.hbm
  let r : LaunchRec :=
    { entry := 0x10000#64, attach := 0#64, gx := 1, gy := 1, gz := 1, scratch := 4096, sregs := 127, vregs := 255
      prio := 2#2, cluster := 0, grow := false, lastLanes := 31, ceil := 0, init := 0, mask := 1#192
      winBase := List.replicate 8 0#64, winSize := List.replicate 8 0, roles := List.replicate 3 (0#64, 0#2, 0) }
  let l : Launch :=
    { part := 0, die := 0, queue := none, record := r, cls := 2#2, status := 0#64, sigEn := false, sigDie := 0
      sigTask := 0, join := none }
  let g : Grid :=
    { uid := 0, launch := l, order := 0, started := true, qHead := [], nextFresh := 1, qTail := [], retired := 0, ptr := 0
      skips := [], gbars := List.replicate 4 { expect := 1 }, key := 0#32, sliceFrom := s.clk, headSince := s.clk, aged := false }
  let b : Block :=
    { uid := 0, grid := 0, lin := 0, core := 0, blkSlot := 0, status := .resident, admitted := 0, members := [0]
      bars := List.replicate 16 { expect := 1 }, cbars := List.replicate 4 { expect := 1 }
      gbars := List.replicate 4 { expect := 1 }, lines := [], owners := [], seq := 0, bconf := 0#32, scr := [], ntiles := 1
      engineOwned := [false], tags := [0#2], rings := List.replicate 8 {}, pre := none, savedRows := [], recUnits := [] }
  let c : Cluster := { grid := 0, num := 0, group := 0, lines := [], seq := 0, bars := List.replicate 4 { expect := 1 }, retired := [] }
  let x : Ctx := { ptRoot := 0x1000, world := false, ttBase := 0x10000#64, cqBase := 0x10000#64, handler := 0x18000#64,
                   saveBase := 0x10000#64, saveSize := 1 }
  { s with
    hub := { s.hub with booted := true, tripped := false }
    agenda := [.issue 0], cur := none, fresh := 1
    mem := { s.mem with hbm := Memory.writeN tables 0x10000 code, tlb := [], poison := [] }
    waves := [Wave.new 0 0 0 0 0 0 32 256 128 0#2 2#2 0x10000#64 0#32 0 0 s.clk]
    blocks := [b], clusters := [c], grids := [g]
    parts := s.parts.modify 0 (fun p => { p with ctx := some x }) }

end Sys2Proof.Machine
end

