-- ==== Sys2Proof/Safety.lean ====
section
/-! DEFINITION. What counts as a safe run, in the terms the claims use: a state whose memories are in canonical form, a step
that ends in a next state, and what it takes for an instruction of a wave to reach its meaning. -/

namespace Sys2Proof

open Machine

/-- Every memory of the machine is in canonical form. -/
abbrev Machine.Mem.wf (m : Mem) : Prop := m.hbm.wf ∧ m.host.wf ∧ m.tier.wf ∧ m.peer.wf

/-- Everything that the machine keeps byte by address is in canonical form: its memories, the tiles of its blocks, and of those that a
checkpoint holds, and the tiles in the stationary buffers. -/
abbrev Machine.State.wf (s : State) : Prop :=
  s.mem.wf ∧ (∀ b ∈ s.blocks, b.scr.wf) ∧ (∀ x ∈ s.parts, ∀ i ∈ x.ckpt.toList, ∀ b ∈ i.blocks, b.scr.wf)
    ∧ ∀ c ∈ s.cores, ∀ t ∈ c.stat, t.bytes.wf

/-- The grid of every block is there, and with the blocks that a checkpoint holds it holds their grids. -/
abbrev Machine.State.gridsThere (s : State) : Prop :=
  (∀ b ∈ s.blocks, (s.grid? b.grid).isSome = true) ∧ ∀ x ∈ s.parts, ∀ i ∈ x.ckpt.toList, ∀ b ∈ i.blocks, ∃ g ∈ i.grids, g.uid = b.grid

/-- A safe step: it ends in a next state, neither in a fault nor in a refusal. -/
def SafeStep (s : State) : Prop := ∃ t, step s = .next t

/-- A wave's instruction of opcode `op` and fields `e` reaches its meaning in `s`, which then sees the context `c`: a wave is
current, its block and grid are there, neither list of R103 holds anything against the word, R95 performs it, and it has taken
what it takes at its issue or takes it now: its constant-window operand can be read (R94), and no replay holds back a read of
%clk (R279). -/
def Issued (op : Nat) (e : Enc) (s : State) (c : Cx) : Prop :=
  ∃ (wid : Nat) (w : Wave) (b : Block) (g : Grid) (iv : AtIssue) (s' : State),
    s.cur = some wid ∧ s.wave? wid = some w ∧ s.block? w.blk = some b ∧ s.grid? b.grid = some g
    ∧ w.wordOk op (opShape op e) e = true ∧ modifierOk (opShape op e) e = true
    ∧ isPerformed op (isVector (opShape op e) e) (laneOn w e) (w.k0 &&& laneOn w e) = true
    ∧ s.operandsNow w b g (opShape op e) e = .ok (some (iv, s'))
    ∧ c = { s := s', w := w, b := b, g := g, op := op, e := e, sh := opShape op e, vec := isVector (opShape op e) e
            lanes := laneOn w e, iv := iv }

/-- The state in which a wave has performed its instruction and goes on at the next one: `s` is what the instruction made. -/
def Machine.Cx.after (c : Cx) (s : State) : State := s.advance c.wid (nextPc c.w c.e)

/-- Wherever `i` reaches its meaning it is performed: it makes of the state what `f` says, and the wave goes on at the next
instruction. -/
def Performs (i : Instr) (f : Cx → State) : Prop :=
  ∀ (op : BitVec 8) (e : Enc) (s : State) (c : Cx), i.code = some (op, e) → Issued op.toNat e s c →
    exec i s = .next (c.after (f c))

/-- Wherever `i` reaches its meaning and `p` holds of what it sees, it ends as `f` says. -/
def Ends (i : Instr) (p : Cx → Prop) (f : Cx → Res) : Prop :=
  ∀ (op : BitVec 8) (e : Enc) (s : State) (c : Cx), i.code = some (op, e) → Issued op.toNat e s c → p c →
    exec i s = .next ((f c).finish c)

/-- The registers, as DST numbers them, that an instruction of the register-only families writes: its destination, and for
isect its advance register. -/
def resultRegs (op : Nat) (e : Enc) : List Nat :=
  dstKindRegs (opShape op e).dst e.dst ++ (if op = 0xA4 then selRegs 1 e.c else [])

end Sys2Proof
end

