-- ==== Sys2Proof/Certificates/Slice0/Obligations.lean ====
section
/-! DEFINITION. The statements about the model, formed from the spec's rules: words and decoding, the step, the families of
instructions, memory levels, exceptions, the units beside the cores and the events of the module. -/

open Sys2Proof Sys2Proof.Machine

/-! ## Words and decoding -/

/-- The words of an instruction decode to it, with every field at every value (R85-R87, R101): decoding the bytes of a SIMT
instruction, whatever follows them, gives the instruction and what follows. -/
def Obligations.EncodeDecode : Prop :=
  ∀ (i : Instr) (op : BitVec 8) (e : Enc) (rest : List Byte), i.code = some (op, e) →
    decode (encode i ++ rest) = .ok (i, rest)

/-- Each word has one meaning: bytes that decode to an instruction are its bytes, followed by the rest (R85, R86). An opcode that
R101 does not allocate is refused, and never read as a neighbour: the decoder answers the unallocated opcode of the base word
exactly when no constructor has it. -/
def Obligations.WordsHaveOneMeaning : Prop :=
  (∀ (bs rest : List Byte) (i : Instr), decode bs = .ok (i, rest) → encode i ++ rest = bs)
  ∧ (∀ (w ext : Dword),
    decodeWords w ext = .error (.unallocated (w.extractLsb' 56 8)) ↔
      ∀ (i : Instr) (e : Enc), i.code ≠ some (w.extractLsb' 56 8, e))

/-- Words that the spec's chapters work out from its encodings decode to the instructions they stand for, one or more of each
family: integer, floating and conversion, reduction and masks, control flow, loads and stores, levels and barriers, tile owners,
atomics, blocks, the generator, tensors, copies, rings, the matrix engine, arrays, Gecko and the top-k list; and an opcode
between two families is not allocated. -/
def Obligations.SampleWordsDecode : Prop :=
  -- add.n32 v0, s12, %lane; fma.f32.rn v1, v4, v8, v2; cvt.f32.e4m3 v5, v4
  decodeWords 0x0030000010C62000#64 0#64 = .ok (.intAdd ⟨0x300#12, 0#3, false, 0#9, 268#10, 392#10, 0#10, none⟩)
  ∧ decodeWords 0x2360000040402002#64 0#64 = .ok (.fma ⟨0x600#12, 0#3, false, 1#9, 4#10, 8#10, 2#10, none⟩)
  ∧ decodeWords 0x306000014040000F#64 0#64 = .ok (.cvt ⟨0x600#12, 0#3, false, 5#9, 4#10, 0#10, 15#10, none⟩)
  -- ?!k1 mov.b32 v4, 0; add.n32 v2, v0, 0x100, with its extension word
  ∧ decodeWords 0x175001811C000000#64 0#64 = .ok (.mov ⟨0x500#12, 1#3, true, 4#9, 448#10, 0#10, 0#10, none⟩)
  ∧ decodeWords 0x00300800800FFC00#64 0x100#64 = .ok (.intAdd ⟨0x300#12, 0#3, false, 2#9, 0#10, 1023#10, 0#10, some 0x100#64⟩)
  -- wred.or.b32 s14, v4; kop.and k2, k2, k3; split k1, fin; loop s9, top
  ∧ decodeWords 0x4650404380400000#64 0#64 = .ok (.wred ⟨0x504#12, 0#3, false, 270#9, 4#10, 0#10, 0#10, none⟩)
  ∧ decodeWords 0x4900006098260C00#64 0#64 = .ok (.kop ⟨0#12, 0#3, false, 386#9, 386#10, 387#10, 0#10, none⟩)
  ∧ decodeWords 0x5100000018100005#64 0#64 = .ok (.split ⟨0#12, 0#3, false, 0#9, 385#10, 0#10, 5#10, none⟩)
  ∧ decodeWords 0x5300007FD09003FE#64 0#64 = .ok (.loop ⟨0#12, 0#3, false, 511#9, 265#10, 0#10, 0x3FE#10, none⟩)
  -- st.g.b32 [s0 + v1], v2; commit.dev; bar.blk b0; own.give 8, 4
  ∧ decodeWords 0x6150007FD0000402#64 0#64 = .ok (.stG ⟨0x500#12, 0#3, false, 511#9, 256#10, 1#10, 2#10, none⟩)
  ∧ decodeWords 0x7003007FC0000000#64 0#64 = .ok (.commit ⟨0x030#12, 0#3, false, 511#9, 0#10, 0#10, 0#10, none⟩)
  ∧ decodeWords 0x7400007FC0000000#64 0#64 = .ok (.barBlk ⟨0#12, 0#3, false, 511#9, 0#10, 0#10, 0#10, none⟩)
  ∧ decodeWords 0x7700007FDC871000#64 0#64 = .ok (.ownGive ⟨0#12, 0#3, false, 511#9, 456#10, 452#10, 0#10, none⟩)
  -- atom.cas.b32.dev v5, [v2], v3, v4; mbar.init [s8], 2, 0; blk.grow s13, 7; ctrg.b32 s9, s8, c0:0x0008
  ∧ decodeWords 0x9753000140200C04#64 0#64 = .ok (.atomCas ⟨0x530#12, 0#3, false, 5#9, 2#10, 3#10, 4#10, none⟩)
  ∧ decodeWords 0x9B00007FD08709C0#64 0#64 = .ok (.mbarInit ⟨0#12, 0#3, false, 511#9, 264#10, 450#10, 448#10, none⟩)
  ∧ decodeWords 0xA00000435C700000#64 0#64 = .ok (.blkGrow ⟨0#12, 0#3, false, 269#9, 455#10, 0#10, 0#10, none⟩)
  ∧ decodeWords 0xA3500842508FFC00#64 0x4000000000000008#64 =
      .ok (.ctrg ⟨0x500#12, 0#3, false, 265#9, 264#10, 1023#10, 0#10, some 0x4000000000000008#64⟩)
  -- tset t0, 0, s0; cp.push cq0, s16; ring.set ra, t0; mx.row.z 0, ra, t1; acc.rd.f32 v2, s10, s11
  ∧ decodeWords 0xB000007FDC070100#64 0#64 = .ok (.tset ⟨0#12, 0#3, false, 511#9, 448#10, 448#10, 256#10, none⟩)
  ∧ decodeWords 0xB200007FDC044000#64 0#64 = .ok (.cpPush ⟨0#12, 0#3, false, 511#9, 448#10, 272#10, 0#10, none⟩)
  ∧ decodeWords 0xB500087FFFF70000#64 0xC0#64 = .ok (.ringSet ⟨0#12, 0#3, false, 511#9, 1023#10, 448#10, 0#10, some 0xC0#64⟩)
  ∧ decodeWords 0xB807007FDC0701C1#64 0#64 = .ok (.mxRow ⟨0x070#12, 0#3, false, 511#9, 448#10, 448#10, 449#10, none⟩)
  ∧ decodeWords 0xBC60000090A42C00#64 0#64 = .ok (.accRd ⟨0x600#12, 0#3, false, 2#9, 266#10, 267#10, 0#10, none⟩)
  -- sda.run s20, [s10]; gk.rehash s13, s5, s4, 4; topk.rd.f32 v2, 0; opcode 0x1C
  ∧ decodeWords 0xC000004510A00000#64 0#64 = .ok (.sdaRun ⟨0#12, 0#3, false, 276#9, 266#10, 0#10, 0#10, none⟩)
  ∧ decodeWords 0xD5000043505411C4#64 0#64 = .ok (.gkRehash ⟨0#12, 0#3, false, 269#9, 261#10, 260#10, 452#10, none⟩)
  ∧ decodeWords 0xDB6000009C000000#64 0#64 = .ok (.topkRd ⟨0x600#12, 0#3, false, 2#9, 448#10, 0#10, 0#10, none⟩)
  ∧ decodeWords 0x1C00000000000000#64 0#64 = .error (.unallocated 0x1C#8)

/-! ## The step -/

/-- A step runs the decoded instruction: when the agenda's head is a wave's turn, the module runs, the wave may run and no
cause, request or role switch comes before its next instruction, and the bytes at its pc (8, or 16 when the base word asks
for an extension word) have returned and decode to an instruction that the scoreboard does not hold, then the step is that
instruction's meaning with the wave as the current one and the turn used up; afterwards no wave is current, and unless the
instruction had issued before or still waits before its issue, the wave's counts since its last issue start again (R61, R277). -/
def Obligations.StepRunsDecodedInstruction : Prop :=
  ∀ (s : State) (wid : Nat) (rest : List Turn) (w : Wave) (bs more tail : List Byte) (i : Instr) (op : BitVec 8) (e : Enc),
    s.agenda = .issue wid :: rest → s.running = true → s.wave? wid = some w →
    let u : State := { s with agenda := rest }
    u.canRun w = true → (u.part (u.partOfWave wid)).ending = false → w.pend = [] → w.yieldsAtWait = false → w.rolePend = none →
    w.pc.toNat % 8 = 0 → u.fetchBytes w (u.partOfWave w.wid) w.pc.toNat 8 = .ok bs →
    (if wordX (BitVec.ofNat 64 (leNat bs)) then u.fetchBytes w (u.partOfWave w.wid) (w.pc.toNat + 8) 8 = .ok more else more = []) →
    decode (bs ++ more) = .ok (i, tail) → i.code = some (op, e) → (w.stage = 0 → u.held w op.toNat e = false ∧ u.fetchLate w = false) →
    step s = (match exec i { u with cur := some wid } with
      | .next t =>
        let waits : Bool := match t.wave? wid with | some x => decide (x.stage = 0) && decide (x.wait ≠ .no) | none => false
        let issued (x : Wave) : Wave := { x with starved := 0, lastIssue := t.clk, barked := false }
        .next { (if w.stage = 0 ∧ waits = false then t.updWave wid issued else t) with cur := none }
      | .fault r => .fault r
      | .refused r => .refused r)

/-- Turns are taken in the agenda's order (the model's own; log entry 16): an event that may happen is performed, one that may not
is used up without effect, and with nothing on the agenda the clock goes on by one. No step of the machine is refused, and
none faults while the grid of every block is there, which every step keeps so and which holds at reset: from every such state the
machine goes on, whatever the instruction words, the operands and the events are. Before the security processor has verified the firmware (R406), and after a thermal trip
(R416), nothing runs: a step that neither verifies the firmware nor loses power leaves every wave, block, grid, command,
memory and partition as it was, and the module still does not run. -/
def Obligations.StepTakesTurnsAndGoesOn : Prop :=
  ((∀ (s : State) (i : Instr) (rest : List Turn), s.agenda = .event i :: rest →
    step s = if s.admits i then exec i { s with agenda := rest, cur := none } else .next { s with agenda := rest, cur := none })
  ∧ (∀ s : State, s.agenda = [] → step s = .next s.tick)
  ∧ (∀ s : State, s.tick.clk = s.clk + 1#64))
  ∧ ((∀ (s : State) (r : Refusal), step s ≠ .refused r)
  ∧ (∀ s : State, (∀ b ∈ s.blocks, (s.grid? b.grid).isSome = true) → SafeStep s)
  ∧ (∀ s t : State, s.gridsThere → step s = .next t → t.gridsThere) ∧ State.reset.gridsThere)
  ∧ (∀ (s t : State), s.running = false → s.agenda.head? ≠ some (.event .securityBoot) → s.agenda.head? ≠ some (.event .powerLoss) →
    step s = .next t →
    t.waves = s.waves ∧ t.blocks = s.blocks ∧ t.clusters = s.clusters ∧ t.grids = s.grids ∧ t.cmds = s.cmds ∧ t.mem = s.mem
      ∧ t.parts = s.parts ∧ t.dies = s.dies ∧ t.cores = s.cores ∧ t.hub = s.hub ∧ t.running = false)

/-- Every step keeps everything that the machine keeps byte by address in canonical form, addresses strictly rising and no entry equal to
what an unlisted address reads as: the memories, the tiles of every block, in the machine or in a checkpoint, and the stationary
buffers. That form, and what an unlisted address reads as, is the model's choice (log entry 3). -/
def Obligations.StepKeepsMemoryCanonical : Prop :=
  ∀ s t : State, s.wf → step s = .next t → t.wf

/-! ## Reset -/

/-- After reset the memories are in canonical form: nothing is listed, which is the model's choice (log entry 3). -/
def Obligations.ResetMemoryCanonical : Prop := State.reset.wf

/-- What reset leaves: %clk 0 (R92), no wave resident, no row owned, and the registers of the dies, stacks, partitions and hub whose
reset columns are not 0 (R57, R58, R266, R280, R340, R376, R387, R413, R415, R416). That a fault queue's WRITE is 0 and that no context
has been read are the model's choice (log entry 2). SVC_SPARES reads as R415's reset column says, with PCH 0, though each stack has
its two spare pseudo-channels (R413; log entry 105). -/
def Obligations.ResetState : Prop :=
  State.reset.clk = 0#64 ∧ State.reset.waves = [] ∧ State.reset.blocks = [] ∧ State.reset.grids = [] ∧ State.reset.cmds = []
  ∧ State.reset.cores.length = 192 ∧ State.reset.stks.length = 12 ∧ State.reset.dies.length = 2 ∧ State.reset.parts.length = 16
  ∧ (∀ c < 192, ((State.reset.core c).acc = [] ∧ (State.reset.core c).phys = c % 96))
  ∧ (∀ p < 16, (State.reset.part p).preDl = 20000#32 ∧ (State.reset.part p).distCtl = 0x085F020000#64
      ∧ (State.reset.part p).sliceIvl = 100#64 ∧ (State.reset.part p).ageLimit = 0x01F400640014#64
      ∧ (State.reset.part p).sysTmo = 1000#16 ∧ (State.reset.part p).profCtl = 0x0800000000#64
      ∧ (State.reset.part p).tadStop = 0xFFFFFFFFFFFFFFFF#64 ∧ (State.reset.part p).qerr = 0#64
      ∧ (State.reset.part p).fqWrite = 0#64 ∧ (State.reset.part p).ctx = none)
  ∧ (∀ k < 12, (State.reset.stack k).chamCtl = 0x400#64 ∧ (State.reset.stack k).aclkCtl = 0x0E1207400004#64
      ∧ (State.reset.stack k).hbmCtl = 0x100010000040#64 ∧ (State.reset.stack k).sparePch = 2
      ∧ (State.reset.stack k).regions = [] ∧ (State.reset.stack k).dirFree = 0x800000)
  ∧ (∀ d < 2, State.reset.readSvcSpares d = 8#64 ∧ (State.reset.die d).spareCores = 8 ∧ (State.reset.die d).freq = 28 ∧ (State.reset.die d).taskLost = 0#32)
  ∧ State.reset.hub.pwrCap = 2900#12 ∧ State.reset.hub.booted = false ∧ State.reset.hub.keys = [] ∧ State.reset.hub.flows = []

/-! ## Registers, guards and legality -/

/-- A word that R103 finds illegal raises trap 1, or, when the encoding is legal and a modifier is not, trap 2, with every lane of
%exec marked; nothing else of it happens. It holds of every instruction of a wave. An instruction that its guard turns off
takes its issue slot and its words and does nothing else (R95): the wave goes on at the next instruction. It holds of every
instruction of a wave but join and rte, which are always performed, and, as the model reads R129 and R131 (log entry 33), ballot, match
and a wred of a vector source, which write their whole result when no lane is on. -/
def Obligations.IllegalWordsTrapAndGuardedOffWordsPass : Prop :=
  (∀ (i : Instr) (op : BitVec 8) (e : Enc) (s : State) (wid : Nat) (w : Wave) (b : Block) (g : Grid),
    i.code = some (op, e) → s.cur = some wid → s.wave? wid = some w → s.block? w.blk = some b → s.grid? b.grid = some g →
    let sh := opShape op.toNat e
    (w.wordOk op.toNat sh e = false → exec i s = .next (s.raise wid (laneOn w e) { code := 1#6, lanes := w.exec }))
    ∧ (w.wordOk op.toNat sh e = true → modifierOk sh e = false →
        exec i s = .next (s.raise wid (laneOn w e) { code := 2#6, lanes := w.exec })))
  ∧ (∀ (i : Instr) (op : BitVec 8) (e : Enc) (s : State) (wid : Nat) (w : Wave) (b : Block) (g : Grid),
    i.code = some (op, e) → s.cur = some wid → s.wave? wid = some w → s.block? w.blk = some b → s.grid? b.grid = some g →
    let sh := opShape op.toNat e
    w.wordOk op.toNat sh e = true → modifierOk sh e = true →
    (isPerformed op.toNat (isVector sh e) (laneOn w e) (w.k0 &&& laneOn w e) = false →
      op ≠ 0x52#8 ∧ op ≠ 0x81#8 ∧ exec i s = .next (s.advance wid (w.pc + if e.ext.isSome then 16#64 else 8#64)))
    ∧ (w.exec = 0#32 → op ≠ 0x52#8 → op ≠ 0x81#8 → ¬(op = 0x48#8 ∨ op = 0x4C#8) →
        ¬(op = 0x46#8 ∧ isVector sh e = true) →
      exec i s = .next (s.advance wid (w.pc + if e.ext.isSome then 16#64 else 8#64))))

/-- How a result reaches a register (R110): in vector form each lane with lane_on takes its own result, in one register or a
pair, and every other lane and register keeps its value; in scalar form the one result goes to an s register or an even pair,
or to a k register whole. -/
def Obligations.ResultsReachRegisters : Prop :=
  ∀ (c : Cx) (wide : Bool) (f : Nat → Nat), c.s.wave? c.wid = some c.w →
    ∃ w, (c.writeLanes wide f).wave? c.wid = some w ∧
      match Dst.of c.e.dst, c.vec with
      | .v n, true => w = { c.w with vregs := w.vregs } ∧ ∀ m : Nat, w.vregs[m]? = c.w.vregs[m]?.map (fun r =>
          r.mapIdx (fun l x => if c.lanes.getLsbD l && m = n then BitVec.ofNat 32 (f l)
            else if c.lanes.getLsbD l && wide && m = n + 1 then BitVec.ofNat 32 (f l / 2 ^ 32) else x))
      | .s n, false =>
        let one := c.w.sregs.set n (BitVec.ofNat 32 (f c.lane0))
        w = { c.w with sregs := if wide then one.set (n + 1) (BitVec.ofNat 32 (f c.lane0 / 2 ^ 32)) else one }
      | .k n, false => n ≠ 0 → w = { c.w with kregs := c.w.kregs.set n (BitVec.ofNat 32 (f c.lane0)) }
      | _, _ => True

/-- The frame of the register-only instructions: arithmetic, floating point, conversions, exchange, masks, the generator and the
merge step. Performed, they change the wave's destination registers in the lanes with lane_on, the lanes' draw counters and its
place in the program, and nothing else of the machine: no byte of memory, no other wave, no other register. -/
def Obligations.FrameRegisterOnly : Prop :=
  ∀ (i : Instr) (op : BitVec 8) (e : Enc) (s : State) (c : Cx),
    i.code = some (op, e) → op.toNat < 0x50 ∨ op = 0xA3#8 ∨ op = 0xA4#8 → Issued op.toNat e s c →
    (op = 0x29#8 → ∀ l < 32, c.src e.b .b32 l < 1024) →
    ∃ (t : State) (x : Wave), exec i s = .next t ∧ t = { c.s with waves := t.waves } ∧ t.wave? c.wid = some x
      ∧ (∀ k, k ≠ c.wid → t.wave? k = c.s.wave? k)
      ∧ x = { c.w with
          vregs := x.vregs, sregs := x.sregs, kregs := x.kregs, scnt := x.scnt
          pc := c.w.pc + (if e.ext.isSome then 16#64 else 8#64), stage := 0, aux := 0, issued := none, wait := .no, stall := 0#4
          starved := 0, lastIssue := c.s.clk, barked := false }
      ∧ (∀ n, n ∉ resultRegs op.toNat e → x.vregs[n]? = c.w.vregs[n]?)
      ∧ (∀ n, 256 + n ∉ resultRegs op.toNat e → x.sregs[n]? = c.w.sregs[n]?)
      ∧ (∀ n, 384 + n ∉ resultRegs op.toNat e → x.kregs[n]? = c.w.kregs[n]?)
      ∧ (∀ n l, c.lanes.getLsbD l = false → x.vget n l = c.w.vget n l)

/-! ## Arithmetic -/

/-- add, sub, mul, mulhi, mad, min, max, abs and neg (R111) on the operands at the instruction's type: the exact result is
wrapped, or, for add, sub, mul and mad under SAT, clamped to the type's range. The 32-bit results are those of 32-bit words:
add, sub, mul, the logic operations, shifts by an unmasked count, rotation and the upper half of a product, as BitVec computes
them on two registers (R111). -/
def Obligations.IntegerArithmetic : Prop :=
  (∀ e : Enc,
    let t := tyOf e
    let put (sat : Bool) (f : Int → Int → Int → Int) (c : Cx) : State :=
      let v (x : BitVec 10) (l : Nat) : Int := t.toInt (c.src x t l)
      c.writeLanes (t.width = 64) (fun l =>
        let r := f (v e.a l) (v e.b l) (v e.c l)
        wrapBits t (if sat && satBit e then max t.minInt (min r t.maxInt) else r))
    Performs (.intAdd e) (put true fun a b _ => a + b)
    ∧ Performs (.intSub e) (put true fun a b _ => a - b)
    ∧ Performs (.intMul e) (put true fun a b _ => a * b)
    ∧ Performs (.mulhi e) (put false fun a b _ => a * b / (2 ^ t.width : Nat))
    ∧ Performs (.mad e) (put true fun a b x => a * b + x)
    ∧ Performs (.intMin e) (put false fun a b _ => if a ≤ b then a else b)
    ∧ Performs (.intMax e) (put false fun a b _ => if a ≤ b then b else a)
    ∧ Performs (.intAbs e) (put false fun a _ _ => if a < 0 then -a else a)
    ∧ Performs (.intNeg e) (put false fun a _ _ => -a))
  ∧ (∀ (x y : BitVec 32) (n : Nat),
    wrapBits .n32 (x.toNat + y.toNat) = (x + y).toNat
    ∧ wrapBits .n32 ((x.toNat : Int) - y.toNat) = (x - y).toNat
    ∧ wrapBits .n32 (x.toNat * y.toNat) = (x * y).toNat
    ∧ wrapBits .i32 (mulHigh .i32 x.toInt y.toInt) = ((x.signExtend 64 * y.signExtend 64).extractLsb' 32 32).toNat
    ∧ wrapBits .n32 (shlInt .n32 x.toNat n) = (x <<< n).toNat
    ∧ wrapBits .n32 (shrInt .n32 x.toNat n) = (x >>> n).toNat
    ∧ wrapBits .i32 (shrInt .i32 x.toInt n) = (x.sshiftRight n).toNat
    ∧ rotBits 32 x.toNat n = (x.rotateRight n).toNat
    ∧ 2 ^ 32 - 1 - x.toNat = (~~~x).toNat
    ∧ (∀ p w, p < 32 → 0 < w → w ≤ 32 - p → bfeBits .n32 x.toNat p w = (x.extractLsb' p w).toNat)
    ∧ leadZeros 32 x.toNat = x.clz.toNat
    ∧ (∀ i < 32, bit (reverseBits 32 x.toNat) i = x.getLsbD (31 - i)))

/-- and, or, xor, not, shl, shr, rot, popc, clz, ctz and brev (R111): the logic operations and counts on the bits of the operands,
the shifts by B at n32, unmasked. bfe, bfi, sel, mov, lea, perm and shf (R112-R114). A field's position and width are the low
bytes of B and C (bfe), or the bytes of C (bfi), the width clipped to the type; sel picks by its k register's bit of the lane,
or in scalar form by (k AND k0) not 0. -/
def Obligations.LogicShiftsAndFields : Prop :=
  (∀ e : Enc,
    let t := tyOf e
    let w := t.width
    let put (f : Nat → Nat → Nat → Nat) (c : Cx) : State :=
      c.writeLanes (w = 64) (fun l => f (c.src e.a t l) (c.src e.b t l) (c.src e.b .n32 l) % 2 ^ w)
    Performs (.andOp e) (put fun a b _ => a &&& b)
    ∧ Performs (.orOp e) (put fun a b _ => a ||| b)
    ∧ Performs (.xorOp e) (put fun a b _ => a ^^^ b)
    ∧ Performs (.notOp e) (put fun a _ _ => 2 ^ w - 1 - a)
    ∧ Performs (.shl e) (put fun a _ n => if w ≤ n then 0 else (a * 2 ^ n))
    ∧ Performs (.shr e) (put fun a _ n =>
        if t.isSigned && bit a (w - 1) then (if w ≤ n then 2 ^ w - 1 else (a + (2 ^ n - 1) * 2 ^ w) / 2 ^ n) else (if w ≤ n then 0 else a / 2 ^ n))
    ∧ Performs (.rot e) (put fun a _ n => (a + a * 2 ^ w) / 2 ^ (n % w))
    ∧ Performs (.popc e) (put fun a _ _ => ((List.range w).filter (fun i => bit a i)).length)
    ∧ Performs (.clz e) (put fun a _ _ => leadZeros w a)
    ∧ Performs (.ctz e) (put fun a _ _ => trailZeros w a)
    ∧ Performs (.brev e) (put fun a _ _ => reverseBits w a))
  ∧ (∀ e : Enc,
    let t := tyOf e
    let put (f : Cx → Nat → Nat) (c : Cx) : State := c.writeLanes (t.width = 64) (f c)
    let put32 (f : Nat → Nat → Nat → Nat) (c : Cx) : State :=
      c.writeLanes false (fun l => f (c.src e.a .b32 l) (c.src e.b .b32 l) (c.src e.c .b32 l))
    Performs (.bfe e) (put fun c l => bfeBits t (c.src e.a t l) (c.src e.b .n32 l % 256) (c.src e.c .n32 l % 256))
    ∧ Performs (.bfi e) (put fun c l =>
        bfiBits t.width (c.src e.a t l) (c.src e.b t l) (c.src e.c .n32 l / 256 % 256) (c.src e.c .n32 l % 256))
    ∧ Performs (.sel e) (put fun c l =>
        if (if c.vec then (c.kreg e.c).getLsbD l else c.kreg e.c &&& c.w.k0 ≠ 0#32) then c.src e.a t l else c.src e.b t l)
    ∧ Performs (.mov e) (put fun c l => c.src e.a t l)
    ∧ Performs (.lea e) (put fun c l => (c.src e.a t l + c.src e.b t l * 2 ^ (c.src e.c .n32 l % 32)) % 2 ^ t.width)
    ∧ Performs (.perm e) (put32 permBits)
    ∧ Performs (.shf e) (put32 fun a b n => (b * 2 ^ 32 + a) / 2 ^ (n % 32) % 2 ^ 32))

/-- Compares write a k register (R115, R119, R121): in vector form each lane with lane_on sets its own bit to the condition and
every other bit is kept; in scalar form the whole register becomes all ones or 0. class tests a floating class against the set
in B, and a set with a bit above 9 in an acting lane is trap 2. The conditions of R115 and R121: on integers the order of the
type, on floating values that of the values, where a NaN satisfies only .ne and .un and the zeros of both signs are equal. -/
def Obligations.ComparesWriteMasks : Prop :=
  (∀ e : Enc,
    let t := tyOf e
    let put (f : Cx → Nat → Bool) (c : Cx) : State :=
      match Dst.of e.dst with
      | .k n => c.s.updWave c.wid (fun w => w.kset n
          (if c.vec then (c.w.kget n &&& ~~~c.lanes) ||| (c.lanes &&& laneMask (f c)) else if f c c.lane0 then 0xFFFFFFFF#32 else 0#32))
      | _ => c.s
    let acting (c : Cx) (l : Nat) : Bool := if c.vec then decide (l < 32) && c.lanes.getLsbD l else l = c.lane0
    let member (c : Cx) (l : Nat) : Bool := bit (c.src e.b .b32 l) (classBit (fmtOf e) (c.src e.a t l))
    Performs (.intCmp e) (put fun c l => condBits t false (subCode e) (c.src e.a t l) (c.src e.b t l))
    ∧ Performs (.fpCmp e) (put fun c l => condBits t c.w.flush (subCode e) (c.src e.a t l) (c.src e.b t l))
    ∧ Ends (.classOp e) (fun c => ∀ l, acting c l = true → c.src e.b .b32 l < 1024) (fun c => .done (put member c))
    ∧ Ends (.classOp e) (fun c => ∃ l, acting c l = true ∧ 1024 ≤ c.src e.b .b32 l) (fun c => .trap { code := 2#6, lanes := c.w.exec }))
  ∧ ((∀ (c : Nat) (x y : Int), c < 6 → (condInt c x y = true ↔
      (c = 0 ∧ x = y) ∨ (c = 1 ∧ x ≠ y) ∨ (c = 2 ∧ x < y) ∨ (c = 3 ∧ x ≤ y) ∨ (c = 4 ∧ x > y) ∨ (c = 5 ∧ x ≥ y)))
  ∧ (∀ (c : Nat) (x y : Fp), x = .nan ∨ y = .nan → (condFp c x y = true ↔ c = 1 ∨ c = 6))
  ∧ (∀ (x y : Fp), x ≠ .nan → y ≠ .nan →
      condFp 6 x y = false ∧ condFp 7 x y = true ∧ condFp 1 x y = !condFp 0 x y ∧ condFp 4 x y = condFp 2 y x
        ∧ condFp 3 x y = !condFp 2 y x ∧ condFp 5 x y = !condFp 2 x y ∧ (condFp 2 x y = true → condFp 0 x y = false))
  ∧ (∀ f ∈ [Fmt.f32, .f16, .bf16], condFp 0 (f.value 0) (f.value (2 ^ f.signBit)) = true))

/-! ## Floating point and conversions -/

/-- add, sub, mul and fma (R117), rcp, rsq, sqe, exp2 and log2 (R120) compute the exact result of the operand values after
flush and round it once, by RND into the type's format; a subnormal result is flushed (R116), and only a result that is not
exact draws from the lane's stream under .rs (R224). -/
def Obligations.FloatingArithmetic : Prop :=
  ∀ e : Enc,
    let F := fmtOf e
    let m := rndOf e
    let v (c : Cx) (x : BitVec 10) (l : Nat) : Fp := F.value (F.flushCode (c.w.mode.getLsbD 0) (c.src x (tyOf e) l))
    let put (f : Fp → Fp → Fp → Exact) (c : Cx) : State :=
      c.writeRounded false (fun l draw =>
        let r := F.roundExact m draw (f (v c e.a l) (v c e.b l) (v c e.c l))
        ⟨F.flushCode (c.w.mode.getLsbD 0) r.code, r.inexact⟩)
    Performs (.fpAdd e) (put fun a b _ => Fp.add m a b)
    ∧ Performs (.fpSub e) (put fun a b _ => Fp.add m a b.negate)
    ∧ Performs (.fpMul e) (put fun a b _ => (Fp.mul a b).exact)
    ∧ Performs (.fma e) (put fun a b x => Fp.add m (Fp.mul a b) x)
    ∧ Performs (.rcp e) (put fun a _ _ => fpRcp a)
    ∧ Performs (.rsq e) (put fun a _ _ => fpRsqrt a)
    ∧ Performs (.sqe e) (put fun a _ _ => fpSqrt a)
    ∧ Performs (.exp2 e) (put fun a _ _ => fpExp2 a)
    ∧ Performs (.log2 e) (put fun a _ _ => fpLog2 a)

/-- min and max return one of the two operands after flush, abs clears the sign bit of a and neg inverts it, keeping every other
bit and flushing nothing (R118). rnd rounds the operand after flush to an integral value in its own format (R122). min and max
of R118 on codes: with one NaN the other operand, with two the canonical NaN, otherwise an operand, which no operand lies
beyond, -0 being below +0. -/
def Obligations.SignsExtremesAndIntegralValues : Prop :=
  (∀ e : Enc,
    let F := fmtOf e
    let x (c : Cx) (f : BitVec 10) (l : Nat) : Nat := c.src f (tyOf e) l
    let flushed (c : Cx) (f : BitVec 10) (l : Nat) : Nat := F.flushCode (c.w.mode.getLsbD 0) (x c f l)
    Performs (.fpMin e) (fun c => c.writeLanes false (fun l => F.minMax false (flushed c e.a l) (flushed c e.b l)))
    ∧ Performs (.fpMax e) (fun c => c.writeLanes false (fun l => F.minMax true (flushed c e.a l) (flushed c e.b l)))
    ∧ Performs (.fpAbs e) (fun c => c.writeLanes false (fun l => x c e.a l % 2 ^ F.signBit))
    ∧ Performs (.fpNeg e) (fun c => c.writeLanes false (fun l =>
        if bit (x c e.a l) F.signBit then x c e.a l - 2 ^ F.signBit else x c e.a l + 2 ^ F.signBit))
    ∧ Performs (.rnd e) (fun c => c.writeRounded false (fun l draw =>
        let r := F.rnd (rndOf e) draw (flushed c e.a l)
        ⟨F.flushCode (c.w.mode.getLsbD 0) r.code, r.inexact⟩)))
  ∧ (∀ (F : Fmt) (hi : Bool) (a b : Nat),
    (F.value a = .nan → F.value b = .nan → F.minMax hi a b = F.canonNan)
    ∧ (F.value a = .nan → F.value b ≠ .nan → F.minMax hi a b = b)
    ∧ (F.value a ≠ .nan → F.value b = .nan → F.minMax hi a b = a)
    ∧ (F.value a ≠ .nan → F.value b ≠ .nan →
        let r := F.minMax hi a b
        (r = a ∨ r = b) ∧ (∀ x ∈ [a, b], (if hi then Fp.lt (F.value r) (F.value x) else Fp.lt (F.value x) (F.value r)) = false)
          ∧ ((F.value a).isZero → (F.value b).isZero → (F.value a).neg? ≠ (F.value b).neg? → (F.value r).neg? = !hi)))

/-- A value that a format holds rounds to itself in it, under every rounding mode and whatever is drawn, and counts as exact.
Rounding therefore never changes a value that needs no rounding (R109, R117). The special cases of rcp, rsq, sqe, exp2 and
log2 (R120), under every rounding mode. -/
def Obligations.RoundingAndSpecialCases : Prop :=
  (∀ (F : Fmt) (m : Rnd) (draw code : Nat), code < 2 ^ (F.signBit + F.signed.toNat) → F.value code ≠ .nan →
    F.roundExact m draw (F.value code).exact = ⟨code, false⟩
      ∧ (F.signed = true → F.roundExact m draw (F.value code).negate.exact = ⟨if bit code F.signBit then code - 2 ^ F.signBit
          else code + 2 ^ F.signBit, false⟩))
  ∧ (∀ (m : Rnd) (draw : Nat) (n : Bool) (k : Int) (x : Nat), x ≠ 0 →
    let r (y : Exact) : Nat := (Fmt.f32.roundExact m draw y).code
    let nan := 0x7FC00000
    let inf := 0x7F800000
    let sign := if n then 2 ^ 31 else 0
    r (fpRcp .nan) = nan ∧ r (fpRsqrt .nan) = nan ∧ r (fpSqrt .nan) = nan ∧ r (fpExp2 .nan) = nan ∧ r (fpLog2 .nan) = nan
    ∧ r (fpRcp (.fin n 0 k)) = inf + sign ∧ r (fpRsqrt (.fin n 0 k)) = inf + sign ∧ r (fpSqrt (.fin n 0 k)) = sign
    ∧ r (fpExp2 (.fin n 0 k)) = 0x3F800000 ∧ r (fpLog2 (.fin n 0 k)) = inf + 2 ^ 31
    ∧ r (fpRcp (.inf n)) = sign ∧ r (fpRsqrt (.inf n)) = (if n then nan else 0) ∧ r (fpSqrt (.inf n)) = (if n then nan else inf)
    ∧ r (fpExp2 (.inf n)) = (if n then 0 else inf) ∧ r (fpLog2 (.inf n)) = (if n then nan else inf)
    ∧ r (fpRsqrt (.fin true x k)) = nan ∧ r (fpSqrt (.fin true x k)) = nan ∧ r (fpLog2 (.fin true x k)) = nan
    ∧ r (fpLog2 (.fin false 1 0)) = 0)

/-- cvt (R123), cvt2 (R124), and pack, unpk, dcd, enc, sbx and scl (R125, R126). A conversion takes the source's exact value to
the destination type by RND and SAT; cvt2 puts a into the lower element and b into the upper one, a drawing before b (log entry 37);
pack replaces one element of b, and the others read one element of a word, by its index modulo the elements a word holds. That dcd
multiplies the block scale before the band scale shows where the band is infinite (log entry 130). Under .rs an element instruction in
scalar form draws in the lane that gives its result (log entry 140). What a conversion to a
floating format gives (R109, R123): a NaN the canonical one, an infinity an infinity or with SAT, or where there is none, the largest
finite value; E3M5 and E8M0 have their own codes for what they do not hold; SAT leaves no infinity; and a finite value goes to a neighbour,
on the side that RND says. To an integer: 0 for a NaN, and the range's bounds beyond them. enc (R126): 0 for a scale of 0 or NaN, a NaN, or
two infinities, the largest element for an infinity, a zero under an infinite scale, and else an element such that no other one times the
scale lies between it times the scale and a. -/
def Obligations.ConversionsAndElements : Prop :=
  (∀ e : Enc,
    let t := tyOf e
    let m := rndOf e
    let conv (c : Cx) (draw : Nat) (src : Ty) (x : Nat) : Rounded := convertTo t m draw (satBit e) (c.w.mode.getLsbD 0) src x
    let f32 (c : Cx) (x : Exact) : Nat := Fmt.f32.flushCode (c.w.mode.getLsbD 0) (Fmt.f32.roundExact .rn 0 x).code
    let element (x i : Nat) : Nat := x / 2 ^ (t.width * (i % (32 / t.width))) % 2 ^ t.width
    let a (c : Cx) (l : Nat) : Nat := c.src e.a .b32 l
    let b (c : Cx) (l : Nat) : Nat := c.src e.b .b32 l
    let i (c : Cx) (l : Nat) : Nat := c.src e.c .n32 l
    Performs (.cvt e) (fun c => c.writeRounded (t.width = 64) (fun l draw =>
        let src := (srcTypeOf e).getD .i32
        let r := conv c draw src (c.src e.a src l)
        ⟨if t.isSigned && decide (t.width < 32) && bit r.code (t.width - 1) then r.code + (2 ^ 32 - 2 ^ t.width) else r.code, r.inexact⟩))
    ∧ Performs (.cvt2 e) (fun c => c.s.updWave c.wid (fun w => (lanesOf c.lanes).foldl (fun w l =>
        let lo := conv c (w.draw l) .f32 (a c l)
        let w := w.drew l (decide (m = .rs) && lo.inexact)
        let hi := conv c (w.draw l) .f32 (b c l)
        (w.write e.dst false l (lo.code + hi.code * 2 ^ t.width)).drew l (decide (m = .rs) && hi.inexact)) w))
    ∧ Performs (.pack e) (fun c => c.writeRounded false (fun l draw =>
        let r := conv c draw .f32 (a c l)
        let at_ := 2 ^ (t.width * (i c l % (32 / t.width)))
        ⟨b c l - element (b c l) (i c l) * at_ + r.code % 2 ^ t.width * at_, r.inexact⟩))
    ∧ Performs (.unpk e) (fun c => c.writeLanes false (fun l =>
        f32 c ((fmtOf e).value (element (a c l) (c.src e.b .n32 l))).exact))
    ∧ Performs (.dcd e) (fun c => c.writeLanes false (fun l =>
        let x := Fmt.e2m1.value (a c l / 2 ^ (4 * (i c l % 8)) % 16)
        f32 c (Fp.mul (Fp.mul x (Fmt.e3m5.value (b c l % 256))) (Fmt.bf16.value (b c l / 2 ^ 16 % 2 ^ 16))).exact))
    ∧ Performs (.enc e) (fun c => c.writeRounded false (fun l draw =>
        encodeNf4b m draw (Fmt.f32.value (a c l)) (Fp.mul (Fmt.e3m5.value (b c l % 256)) (Fmt.bf16.value (b c l / 2 ^ 16 % 2 ^ 16)))))
    ∧ Performs (.sbx e) (fun c => c.writeRounded false (fun l draw =>
        let x := sbValue (if t = .sb8 then .e4m3 else .e2m1) (element (a c l) (i c l)) (b c l % 256)
        let r := Fmt.f32.roundExact m draw x.exact
        ⟨Fmt.f32.flushCode (c.w.mode.getLsbD 0) r.code, r.inexact⟩))
    ∧ Performs (.scl e) (fun c => c.writeRounded false (fun l draw =>
        match Fmt.f32.value (a c l) with
        | .fin n (x + 1) k =>
          let r := Fmt.f32.convert m draw (satBit e) (fpScale (.fin n (x + 1) k) (Ty.i32.toInt (b c l)))
          ⟨Fmt.f32.flushCode (c.w.mode.getLsbD 0) r.code, r.inexact⟩
        | _ => ⟨a c l, false⟩)))
  ∧ (∀ (t src : Ty) (F g : Fmt) (m : Rnd) (draw : Nat) (sat flush : Bool) (bits : Nat), t.fmt = some F → src.fmt = some g →
    let r := (convertTo t m draw sat flush src bits).code
    let x := g.value bits
    let v := F.value r
    (F ≠ .e3m5 → F ≠ .e8m0 →
      (x = .nan → r = F.canonNan)
      ∧ (∀ n, x = .inf n → r = F.withSign n (if F.hasInf && !sat then F.infCode else F.maxCode))
      ∧ (x.isZero = true → r = F.withSign x.neg? 0)
      ∧ (sat = true → ∀ n, v ≠ .inf n))
    ∧ (F = .e3m5 → (x = .nan ∨ x.neg? = true ∨ x.isZero = true → r = 0) ∧ (x = .inf false → r = 0xFF))
    ∧ (F = .e8m0 → (x = .nan ∨ x.neg? = true ∨ x.isZero = true → r = 0xFF) ∧ (x = .inf false → r = 0xFE))
    ∧ (flush = false → x ≠ .nan → v ≠ .nan → ∀ code, F.value code ≠ .nan →
        ¬(Fp.lt x (F.value code) = true ∧ Fp.lt (F.value code) v = true) ∧ ¬(Fp.lt v (F.value code) = true ∧ Fp.lt (F.value code) x = true))
    ∧ (flush = false → sat = false → F.hasInf = true → x ≠ .nan →
        (m = .rp → Fp.lt v x = false) ∧ (m = .rm → Fp.lt x v = false)
          ∧ (m = .rz → (x.neg? = false → Fp.lt x v = false) ∧ (x.neg? = true → Fp.lt v x = false))))
  ∧ (∀ (t src : Ty) (m : Rnd) (draw : Nat) (sat flush : Bool) (bits : Nat), t.fmt = none →
    let r := (convertTo t m draw sat flush src bits).code
    (src.fmt = none → r = wrapBits t (if sat then max t.minInt (min t.maxInt (src.toInt bits)) else src.toInt bits))
    ∧ (∀ g, src.fmt = some g →
        (g.value bits = .nan → r = 0) ∧ (∀ n, g.value bits = .inf n → r = wrapBits t (if n then t.minInt else t.maxInt))
          ∧ ∃ y : Int, t.minInt ≤ y ∧ y ≤ t.maxInt ∧ r = wrapBits t y))
  ∧ (∀ (m : Rnd) (draw : Nat) (a s : Fp),
    let r := (encodeNf4b m draw a s).code
    (a = .nan ∨ s = .nan ∨ s.isZero = true → r = 0)
    ∧ (∀ n k, a = .inf n → s = .inf k → r = 0)
    ∧ (∀ n k q f, a = .inf n → s = .fin k (q + 1) f → r = if n = k then 0x7 else 0xF)
    ∧ (∀ n p e k, a = .fin n p e → s = .inf k → r = if n = k then 0x0 else 0x8)
    ∧ (∀ n p e q f, a = .fin n p e → s = .fin false (q + 1) f →
        let times (code : Nat) : Fp := Fp.mul s (Fmt.e2m1.value code)
        r < 16 ∧ ∀ code, ¬(Fp.lt a (times code) = true ∧ Fp.lt (times code) (times r) = true)
          ∧ ¬(Fp.lt (times r) (times code) = true ∧ Fp.lt (times code) a = true)))

/-! ## Exchange across lanes and masks -/

/-- The shuffles take TYPE b32 (R128), and each lane with lane_on receives A of the source lane that R128's table names, d being
B at n32 in the destination lane; a source that is no lane of %exec leaves the lane its own value of A (R127). -/
def Obligations.ShufflesSelectSourceLanes : Prop :=
  ∀ e : Enc,
    let put (source : Nat → Nat → Int) (c : Cx) : State :=
      c.writeLanes false (fun l =>
        let j := source l (c.src e.b .n32 l)
        if 0 ≤ j ∧ j < 32 ∧ c.w.exec.getLsbD j.toNat = true then c.src e.a .b32 j.toNat else c.src e.a .b32 l)
    (∀ op s c, 0x40 ≤ op → op ≤ 0x45 → Issued op e s c → typeOf e = some .b32)
    ∧ Performs (.quadXor e) (put fun l d => (4 * (l / 4) + ((l % 4) ^^^ (d % 4)) : Nat))
    ∧ Performs (.quadBc e) (put fun l d => (4 * (l / 4) + (d % 4) : Nat))
    ∧ Performs (.shflIdx e) (put fun _ d => (d % 32 : Nat))
    ∧ Performs (.shflUp e) (put fun l d => (l : Int) - d)
    ∧ Performs (.shflDn e) (put fun l d => (l + d : Nat))
    ∧ Performs (.shflXor e) (put fun l d => (l ^^^ (d % 32) : Nat))

/-- One node of wred's tree from the level below: the combination of both, the one that is there, or nothing; `n` counts the
draws so far. -/
def Sys2Proof.treeNode (f : Nat → Nat → Nat → Rounded) (draw : Nat → Nat) (n : Nat) (x y : Option Nat) : Option Nat × Nat :=
  match x, y with
  | some a, some b => (some (f (draw n) a b).code, if (f (draw n) a b).inexact then n + 1 else n)
  | some a, none => (some a, n)
  | none, y => (y, n)

/-- wred (R129) and wscan (R130). wred writes an s register with the value of a fixed tree over the lanes of k0 with lane_on, whose
floating operands are flushed first under FLUSH, which the model does for a lone lane too, that no addition touches (R116; log entry 36):
each level of the tree combines neighbours from the lowest pair up, the
identity stands for an empty set, and a NaN is written as canon_nan (R217). wscan gives every lane
with lane_on the combination of the identity and the values of the lanes of k0 with lane_on up to it, in ascending order. Under
.rs each inexact step draws from the stream of the lowest such lane. -/
def Obligations.ReductionsAndScans : Prop :=
  ∀ e : Enc,
    let t := tyOf e
    let rs : Bool := rndOf e = .rs
    let f (c : Cx) := combine t (subCode e) (rndOf e) (c.w.mode.getLsbD 0)
    let identity := redIdentity t (subCode e)
    let leaf (c : Cx) (x : Nat) : Nat := match t.fmt with | some F => F.flushCode (c.w.mode.getLsbD 0) x | none => x
    let canonical (x : Nat) : Nat := match t.fmt with | some F => if F.value x = .nan then F.canonNan else x | none => x
    Performs (.wred e) (fun c =>
      let leaves := (List.range 32).map (fun l => if c.active.getLsbD l then some (leaf c (c.src e.a t l)) else none)
      let level (p : List (Option Nat) × Nat) : List (Option Nat) × Nat :=
        (List.range (p.1.length / 2)).foldl (fun q j =>
          let r := treeNode (f c) (c.w.drawAt c.lane0) q.2 (p.1.getD (2 * j) none) (p.1.getD (2 * j + 1) none)
          (q.1 ++ [r.1], r.2)) ([], p.2)
      let top := level (level (level (level (level (leaves, 0)))))
      c.s.updWave c.wid (fun w =>
        let w := w.write e.dst false 0 (canonical ((top.1.headD none).getD identity))
        if rs then { w with scnt := w.scnt.modify c.lane0 (· + BitVec.ofNat 32 top.2) } else w))
    ∧ Performs (.wscan e) (fun c =>
      let step (p : List Nat × Nat × Nat) (l : Nat) : List Nat × Nat × Nat :=
        if c.active.getLsbD l then
          let r := f c (c.w.drawAt c.lane0 p.2.2) p.2.1 (c.src e.a t l)
          (p.1 ++ [r.code], r.code, if r.inexact then p.2.2 + 1 else p.2.2)
        else (p.1 ++ [p.2.1], p.2)
      let all := (List.range 32).foldl step ([], identity, 0)
      c.s.updWave c.wid (fun w =>
        let w := (lanesOf c.lanes).foldl (fun w l => w.write e.dst false l (all.1.getD l 0)) w
        if rs then { w with scnt := w.scnt.modify c.lane0 (· + BitVec.ofNat 32 all.2.2) } else w))

/-- ballot, kop, kpopc, kffs and match (R131): a k destination is written in all its 32 bits, and the lanes that count are those
of k0 with lane_on. ctrg (R201) writes ctrg(counter, key) of A and B at n32, as a word or as the exact fraction floor(word /
2^8) x 2^-24; isect (R202) writes for each lane of k0 with lane_on the lowest such lane of B that holds its value of A, or
0xFFFFFFFF, and in C how far both lists advance. -/
def Obligations.MasksGeneratorAndMergeStep : Prop :=
  (∀ e : Enc,
    let put (c : Cx) (x : Nat) : State := c.s.updWave c.wid (fun w => w.write e.dst false 0 x)
    let k (c : Cx) (x : BitVec 10) : BitVec 32 := match Sel.of x with | .k n => if n = 0 then c.w.k0 else c.w.kregs.getD n 0#32 | _ => 0#32
    let a (c : Cx) (l : Nat) : Nat := c.src e.a .b32 l
    (∀ s c, Issued 0x48 e s c → exec (.ballot e) s = .next (c.after (put c (laneMask fun l => c.active.getLsbD l && a c l ≠ 0).toNat)))
    ∧ Performs (.kop e) (fun c => put c
        (match subCode e with
          | 0 => k c e.a &&& k c e.b
          | 1 => k c e.a ||| k c e.b
          | 2 => k c e.a ^^^ k c e.b
          | _ => k c e.a &&& ~~~k c e.b).toNat)
    ∧ Performs (.kpopc e) (fun c => put c ((List.range 32).filter (fun i => (k c e.a &&& c.w.k0).getLsbD i)).length)
    ∧ Performs (.kffs e) (fun c => put c (((List.range 32).find? (fun i => (k c e.a &&& c.w.k0).getLsbD i)).getD 32))
    ∧ Performs (.matchOp e) (fun c => put c
        (match (List.range 32).find? (fun l => c.active.getLsbD l) with
          | none => 0
          | some f => (laneMask fun l => c.active.getLsbD l && a c l = a c f).toNat)))
  ∧ (∀ e : Enc,
    let a (c : Cx) (l : Nat) : Nat := c.src e.a .n32 l
    let b (c : Cx) (l : Nat) : Nat := c.src e.b .n32 l
    Performs (.ctrg e) (fun c => c.writeLanes false (fun l =>
      let x := ctrgWord (BitVec.ofNat 32 (a c l)) (BitVec.ofNat 32 (b c l))
      if tyOf e = .f32 then (Fmt.f32.roundExact .rn 0 (if x.toNat / 256 = 0 then .zero false else .real false (x.toNat / 256) 1 (-24))).code
      else x.toNat))
    ∧ Performs (.isect e) (fun c =>
      let lanes := (List.range 32).filter (fun l => c.active.getLsbD l)
      let m := min (a c (lanes.getLastD 0)) (b c (lanes.getLastD 0))
      let count (f : Nat → Nat) : Nat := (lanes.filter (fun l => f l ≤ m)).length
      c.s.updWave c.wid (fun w =>
        let w := lanes.foldl (fun w l => w.write e.dst false l
          (match lanes.find? (fun j => b c j = a c l) with
            | some j => if a c l = 0xFFFFFFFF then 0xFFFFFFFF else j
            | none => 0xFFFFFFFF)) w
        match Sel.of e.c with
        | .s n => { w with sregs := w.sregs.set n (BitVec.ofNat 32 (count (b c) * 65536 + count (a c))) }
        | _ => w)))

/-! ## Control flow -/

/-- `loop sN, label` (R134): its counter in A must select s0-s127, otherwise trap 1; performed, the counter goes down by 1,
wrapping, and the wave branches while it is not 0, so a counter of 0 at entry runs on; not performed, nothing changes but the
place in the program. -/
def Obligations.LoopCountsDown : Prop :=
  ∀ (e : Enc) (s : State) (wid : Nat) (w : Wave) (b : Block) (g : Grid),
    s.cur = some wid → s.wave? wid = some w → s.block? w.blk = some b → s.grid? b.grid = some g →
    let sh := opShape 0x53 e
    ((∀ n, Sel.of e.a ≠ .s n) → exec (.loop e) s = .next (s.raise wid (laneOn w e) { code := 1#6, lanes := w.exec }))
    ∧ (w.wordOk 0x53 sh e = true → modifierOk sh e = true →
        (w.k0 &&& laneOn w e = 0#32 → exec (.loop e) s = .next (s.advance wid (nextPc w e)))
        ∧ (w.k0 &&& laneOn w e ≠ 0#32 → ∃ n, Sel.of e.a = .s n ∧ n < 128 ∧
            let x := w.sregs.getD n 0#32 - 1#32
            exec (.loop e) s = .next ((s.updWave wid (fun y => { y with sregs := y.sregs.set n x })).advance wid
              (if x ≠ 0#32 then branchTarget w e else nextPc w e))))

/-- split and join (R133): at depth 8 a split is trap 7; otherwise it pushes its target and the mask, and the mask narrows to the
lanes of its k register, or the wave branches when none is left. join pops the top entry, whatever its target, and restores
the mask; with nothing to pop it is trap 3. A split that its guard turns off falls through; join is always performed. -/
def Obligations.SplitAndJoinKeepTheStack : Prop :=
  ∀ e : Enc,
    let k (c : Cx) : BitVec 32 := match Sel.of e.a with | .k n => if n = 0 then c.w.k0 else c.w.kregs.getD n 0#32 | _ => 0#32
    Ends (.split e) (fun c => c.w.stack.length = 8) (fun c => .trap { code := 7#6, lanes := c.w.exec })
    ∧ Ends (.split e) (fun c => c.w.stack.length < 8 ∧ c.w.exec &&& k c ≠ 0#32) (fun c => .done (c.s.updWave c.wid (fun w =>
        { w with stack := (branchTarget c.w e, c.w.exec) :: w.stack, exec := c.w.exec &&& k c })))
    ∧ Ends (.split e) (fun c => c.w.stack.length < 8 ∧ c.w.exec &&& k c = 0#32) (fun c => .jump (c.s.updWave c.wid (fun w =>
        { w with stack := (branchTarget c.w e, c.w.exec) :: w.stack })) (branchTarget c.w e))
    ∧ Ends (.join e) (fun c => c.w.stack = []) (fun c => .trap { code := 3#6, lanes := c.w.exec })
    ∧ (∀ target mask rest, Ends (.join e) (fun c => c.w.stack = (target, mask) :: rest) (fun c =>
        .done (c.s.updWave c.wid (fun w => { w with stack := rest, exec := mask }))))
    ∧ (∀ (s : State) (wid : Nat) (w : Wave) (b : Block) (g : Grid), s.cur = some wid → s.wave? wid = some w →
        s.block? w.blk = some b → s.grid? b.grid = some g → w.wordOk 0x51 (opShape 0x51 e) e = true →
        modifierOk (opShape 0x51 e) e = true → laneOn w e = 0#32 → exec (.split e) s = .next (s.advance wid (nextPc w e)))
    ∧ (∀ (w : Wave), w.mode.getLsbD 8 = false → w.k0 = w.exec &&& w.real)

/-- br, call, ret, jmp and nop (R132, R135). br branches when its condition holds of the uniform operands A and B, and always under
COND 6; call writes the address of the next instruction to its pair and branches; ret and jmp go to the address in their pair,
and one that is no multiple of 8 is trap 4 there with every lane of %exec marked; nop does nothing. None of them changes the
mask or the reconvergence stack. -/
def Obligations.BranchesCallsAndReturns : Prop :=
  ∀ e : Enc,
    let holds (c : Cx) : Bool := subCode e = 6 ||
      condBits (tyOf e) (c.w.mode.getLsbD 0) (subCode e) (c.src e.a (tyOf e) c.lane0) (c.src e.b (tyOf e) c.lane0)
    Ends (.br e) (fun _ => True) (fun c => .jump c.s (if holds c then c.w.pc + (branchOffset e).signExtend 64 * 8#64 else nextPc c.w e))
    ∧ (∀ n, Sel.of e.a = .s n →
        Ends (.call e) (fun _ => True) (fun c => .jump (c.s.updWave c.wid (fun w => w.setSpair n (nextPc c.w e)))
          (c.w.pc + (branchOffset e).signExtend 64 * 8#64))
        ∧ (∀ i ∈ [Instr.ret e, Instr.jmp e],
            Ends i (fun c => (c.w.spair n).toNat % 8 = 0) (fun c => .jump c.s (c.w.spair n))
            ∧ Ends i (fun c => (c.w.spair n).toNat % 8 ≠ 0) (fun c => .trap { code := 4#6, lanes := c.w.exec, addr := c.w.spair n })))
    ∧ Performs (.nop e) (fun c => c.s)

/-! ## Loads and stores -/

/-- A store outside the handler (R139, R140, R142, R144): with no faulting lane, no engine's tile and room in the wave's buffer it
is performed, and changes nothing but the wave's buffer, its place in the program and the translation caches: no byte of any
memory, no register. A byte of the buffer that the acting lanes, helper lanes left out, write has the value of the
highest-numbered lane that writes it; every other byte is as it was. The other forms of a store. A faulting lane makes the
whole instruction trap with no effect (R138); an engine-owned tile holds it with stall reason 7 (R142); without room it is
trap 8, or with AUTOC it commits to the wave's block first (R140); with ORD 2 it goes on to commit to its level (R143); in a
handler a scratchpad store writes its tile at once, and a global store writes its lines at device level at once, each counted in %acks,
past the wave's buffer and the levels (R263). -/
def Obligations.StoresBufferTrapWaitOrRelease : Prop :=
  (∀ (e : Enc), ∀ x ∈ [(Instr.stG e, false, false), (.stS e, true, false), (.sctG e, false, true), (.sctS e, true, true)],
    ∀ (op : BitVec 8) (s : State) (c : Cx), x.1.code = some (op, e) → Issued op.toNat e s c →
    let scr := x.2.1
    let ps := (c.pieces scr x.2.2).filter (fun q => !c.isHelper q.lane)
    let data (q : Piece) : Nat := c.src e.c (tyOf e) (c.readLane q.lane)
    let ls := storeLines scr (ps.map (fun q => (q, data q)))
    c.w.stage = 0 → ordCode e = 0 → c.w.mode.getLsbD 8 = false → (∀ q ∈ ps, c.cause scr .store q = none) →
    (scr = true → ∀ q ∈ ps, c.b.engineOwns (q.addr / 4096) = false) → bufNeed c.w.buf ls ≤ bufFree c.w.buf →
    ∃ (t : State) (y : Wave), exec x.1 s = .next t ∧ t.wave? c.wid = some y
      ∧ t = { c.s with waves := t.waves, mem := { c.s.mem with tlb := t.mem.tlb } }
      ∧ (∀ k, k ≠ c.wid → t.wave? k = c.s.wave? k)
      ∧ y = { c.w with
          buf := y.buf, pc := nextPc c.w e, stage := 0, aux := 0, issued := none, wait := .no, stall := 0#4, starved := 0
          lastIssue := c.s.clk, barked := false }
      ∧ ∀ (sp : Bool) (a : Nat), bufByte y.buf sp a =
          match (ps.filter (fun q => sp == scr && decide (q.addr ≤ a) && decide (a < q.addr + q.size))).getLast? with
          | some q => some (BitVec.ofNat 8 (data q / 2 ^ (8 * (a - q.addr))))
          | none => bufByte c.w.buf sp a)
  ∧ (∀ (e : Enc), ∀ x ∈ [(Instr.stG e, false, false), (.stS e, true, false), (.sctG e, false, true), (.sctS e, true, true)],
    let scr := x.2.1
    let ps (c : Cx) := (c.pieces scr x.2.2).filter (fun q => !c.isHelper q.lane)
    let ls (c : Cx) := storeLines scr ((ps c).map (fun q => (q, c.src e.c (tyOf e) (c.readLane q.lane))))
    let clear (c : Cx) : Prop := c.w.stage = 0 ∧ ∀ q ∈ ps c, c.cause scr .store q = none
    let owned (c : Cx) : Prop := scr = true ∧ ∃ q ∈ ps c, c.b.engineOwns (q.addr / 4096) = true
    let fits (c : Cx) : Prop := bufNeed c.w.buf (ls c) ≤ bufFree c.w.buf
    let stored (c : Cx) (s : State) : Cx :=
      let s := s.intoBuffer c.wid (ls c)
      c.on (if scr then s else s.fillTlb c.w.core c.part ((ls c).map (fun l => 64 * l.line)))
    (∀ (op : BitVec 8) (s : State) (c : Cx), x.1.code = some (op, e) → Issued op.toNat e s c → c.w.stage = 0 →
        (∃ q ∈ ps c, c.cause scr .store q ≠ none) →
        ∃ t, c.faultOf (c.badPieces scr .store (ps c)) = some t ∧ (∃ q ∈ ps c, c.cause scr .store q = some t.code)
          ∧ (∀ q ∈ ps c, ∀ k, c.cause scr .store q = some k → t.code.toNat ≤ k.toNat) ∧ exec x.1 s = .next (c.s.raise c.wid c.lanes t))
    ∧ Ends x.1 (fun c => clear c ∧ c.w.mode.getLsbD 8 = false ∧ owned c) (fun c => .wait c.s .owner 7 c.w.stage c.w.aux)
    ∧ Ends x.1 (fun c => clear c ∧ c.w.mode.getLsbD 8 = false ∧ ¬owned c ∧ ¬fits c ∧ c.w.mode.getLsbD 1 = false)
        (fun c => .trap { code := 8#6, lanes := c.w.exec })
    ∧ Ends x.1 (fun c => clear c ∧ c.w.mode.getLsbD 8 = false ∧ ¬owned c ∧ ¬fits c ∧ c.w.mode.getLsbD 1 = true ∧ ordCode e = 0)
        (fun c => match c.commitStart 0 with | .error r => r | .ok s => .done (stored c s).s)
    ∧ Ends x.1 (fun c => clear c ∧ c.w.mode.getLsbD 8 = false ∧ ¬owned c ∧ fits c ∧ ordCode e = 2)
        (fun c => (stored c c.s).commit (scopeCode e) .done)
    ∧ Ends x.1 (fun c => clear c ∧ c.w.mode.getLsbD 8 = true ∧ scr = true ∧ ¬owned c ∧ c.w.loads = [] ∧ ordCode e = 0)
        (fun c => .done (c.s.updBlock c.w.blk (fun b => { b with
          scr := (ls c).foldl (fun m p => m.writeLine p.line p.data p.mask) b.scr, seq := b.seq + 1 })))
    ∧ (∀ (op : BitVec 8) (s : State) (c : Cx), x.1.code = some (op, e) → Issued op.toNat e s c → clear c → c.w.mode.getLsbD 8 = true →
        scr = false → ordCode e = 0 → c.mayLog 1 = true →
        (∀ ps, c.s.placeLines c.w.core c.part (ls c) = .ok ps → (∀ q ∈ ps, q.2.space = .hbm) →
          (∀ q ∈ ps, c.s.stackHeld .hbm (q.2.pa / 64) = false) → c.s.wave? c.wid = some c.w → logging (c.s.part c.part) = false →
          replayHead (c.s.part c.part) = none →
          ∃ t y, exec x.1 s = .next t ∧ t.wave? c.wid = some y ∧ y.pc = nextPc c.w e ∧ y.buf = c.w.buf ∧ y.acks = c.w.acks + (ls c).length
            ∧ y.vregs = c.w.vregs ∧ y.sregs = c.w.sregs ∧ y.kregs = c.w.kregs ∧ t.blocks = c.s.blocks ∧ t.clusters = c.s.clusters
            ∧ t.mem.hbm = ps.foldl (fun m q => m.writeLine (q.2.pa / 64) q.1.data q.1.mask) c.s.mem.hbm
            ∧ t.mem.host = c.s.mem.host ∧ t.mem.tier = c.s.mem.tier ∧ t.mem.peer = c.s.mem.peer)))

/-- What issuing a load does to the machine: no memory and no register of another wave changes, and the wave goes on; either its
load waits for lines, its destination and lanes as the instruction names them and no register written yet, or it was the wave's
only load and every byte came from the wave's own buffer, and the destination is written. -/
def Sys2Proof.LoadIssued (c : Cx) (e : Enc) (t : State) : Prop :=
  ∃ x : Wave, t.wave? c.wid = some x ∧ x.pc = nextPc c.w e ∧ x.buf = c.w.buf ∧ x.kregs = c.w.kregs ∧ x.exec = c.w.exec
    ∧ (∀ k, k ≠ c.wid → t.wave? k = c.s.wave? k)
    ∧ t.mem.hbm = c.s.mem.hbm ∧ t.mem.host = c.s.mem.host ∧ t.mem.tier = c.s.mem.tier ∧ t.mem.peer = c.s.mem.peer
    ∧ t.mem.sysL2 = c.s.mem.sysL2 ∧ t.blocks = c.s.blocks ∧ t.clusters = c.s.clusters
    ∧ ((∃ o : OutLoad, x.loads = c.w.loads ++ [o] ∧ o.dst = e.dst ∧ o.vec = c.vec ∧ o.lanes = c.lanes ∧ x.vregs = c.w.vregs ∧ x.sregs = c.w.sregs)
      ∨ (x.loads = [] ∧ c.w.loads = [] ∧ ∃ o : OutLoad, o.dst = e.dst ∧ o.vec = c.vec ∧ o.lanes = c.lanes ∧ o.remain = []
          ∧ x.vregs = (o.writeBack c.w).vregs ∧ x.sregs = (o.writeBack c.w).sregs))

/-- A load or gather may issue: no lane faults but helper lanes (R23, R138), and no engine owns one of its tiles unless the handler saves
or restores (R142, R263). -/
def Sys2Proof.Loadable (c : Cx) (scr indexed : Bool) : Prop :=
  (∀ q ∈ c.pieces scr indexed, c.isHelper q.lane = false → c.cause scr .load q = none)
    ∧ (scr = true → c.w.mode.getLsbD 8 = false ∨ c.w.phase = .plain → ∀ q ∈ c.pieces scr indexed, c.b.engineOwns (q.addr / 4096) = false)

/-- A load outside the handler of which no lane faults asks once for each line of which its wave's buffer does not hold every byte that
the lanes want, and for no other line (R141, R145). -/
def Sys2Proof.AsksOnce (c : Cx) (scr indexed : Bool) (t : State) : Prop :=
  let ps := c.pieces scr indexed
  let asks (l : Nat) : Prop := ∃ q ∈ ps, ∃ i < q.size, (q.addr + i) / 64 = l ∧ bufByte c.w.buf scr (q.addr + i) = none
  (∀ q ∈ ps, c.cause scr .load q = none) → c.w.mode.getLsbD 8 = false → c.w.loads ≠ [] ∨ (∃ l, asks l) →
    ∃ x o, t.wave? c.wid = some x ∧ x.loads = c.w.loads ++ [o] ∧ (o.remain.map LineRef.line).Nodup
      ∧ ∀ l, (∃ r ∈ o.remain, r.line = l ∧ r.scr = scr) ↔ asks l

/-- What is cached of a partition's translations is what a walk gives (R275). -/
def Sys2Proof.TlbAgrees (s : State) (p : Nat) : Prop :=
  ∀ x ∈ s.mem.tlb, x.part = p → ∀ va < 2 ^ 57, va / 2 ^ x.size = x.vpage → s.walk (s.world p) 4 (s.root p) va = .ok (x.leaf, x.size)

/-- Loads, gathers, constant-window loads and tensor loads (R142-R146): with no faulting lane but helper lanes, and no
engine's tile unless the handler saves or restores, a load issues and its wave goes on, having asked once for each line; a faulting lane
makes the whole instruction trap with the smallest cause and no effect (R138), and an engine's tile holds it with stall reason 7. pf (R147) changes no register and holds
nothing: each lane that translates, whose line answers and is not poisoned, leaves a clean L1 copy of it, unless its hint is 3 (.hn); no
other copy comes, and lanes of which none translates leave nothing. Where the caches of translations agree with the tables, or there is
one lane, the lanes' translations are those at the start. -/
def Obligations.LoadsIssue : Prop :=
  ∀ (e : Enc) (s : State) (c : Cx),
    let reads (a : Nat) : Prop := ∃ pl, c.s.translate c.w.core c.part .load a = .ok pl
    let saving : Bool := c.w.mode.getLsbD 8 && decide (c.w.phase ≠ .plain)
    (Issued 0x60 e s c → Loadable c false false → ∃ t, exec (.ldG e) s = .next t ∧ LoadIssued c e t ∧ AsksOnce c false false t)
    ∧ (Issued 0x62 e s c → Loadable c true false → ∃ t, exec (.ldS e) s = .next t ∧ LoadIssued c e t ∧ AsksOnce c true false t)
    ∧ (Issued 0x66 e s c → Loadable c false true → ∃ t, exec (.gatG e) s = .next t ∧ LoadIssued c e t ∧ AsksOnce c false true t)
    ∧ (Issued 0x68 e s c → Loadable c true true → ∃ t, exec (.gatS e) s = .next t ∧ LoadIssued c e t ∧ AsksOnce c true true t)
    ∧ (∀ x ∈ [(Instr.ldG e, false, false), (.ldS e, true, false), (.gatG e, false, true), (.gatS e, true, true)],
      let scr := x.2.1
      let ps := c.pieces scr x.2.2
      let real (q : Piece) : Prop := c.isHelper q.lane = false
      ∀ op, x.1.code = some (op, e) → Issued op.toNat e s c →
      ((∀ q ∈ ps, real q → c.cause scr .load q = none) → scr = true → saving = false →
        (∃ q ∈ ps, c.cause scr .load q = none ∧ c.b.engineOwns (q.addr / 4096) = true) →
        (∀ q ∈ ps, c.isHelper q.lane = false) → c.w.stage = 0 → exec x.1 s = .next (c.s.stallWave c.wid .owner 7 0 c.w.aux))
      ∧ ((∃ q ∈ ps, real q ∧ c.cause scr .load q ≠ none) →
        ∃ t, (∃ q ∈ ps, real q ∧ c.cause scr .load q = some t.code)
          ∧ (∀ q ∈ ps, real q → ∀ k, c.cause scr .load q = some k → t.code.toNat ≤ k.toNat)
          ∧ exec x.1 s = .next (c.s.raise c.wid c.lanes t)))
    ∧ (Issued 0x64 e s c → c.window.1 % 4 = 0 →
        (∀ l ∈ c.accessLanes, c.isHelper l = false → c.windowOffset l % c.size = 0
          ∧ ∀ i < c.size, c.windowOffset l + i < 4 * c.window.2 → reads (c.window.1 + 4 * ((c.windowOffset l + i) / 4))) →
        ∃ t, exec (.ldC e) s = .next t ∧ LoadIssued c e t)
    ∧ (∀ t0 s1 n, Issued 0x65 e s c → c.n32 e.a ≤ 1023 → c.tensor (c.n32 e.a) = .ok (t0, s1) → Sel.of e.b = .v n →
        n + TEntry.ndim t0 + 1 ≤ c.w.vregs.length →
        (∀ l ix, c.lanes.getLsbD l = true → c.tldIndex t0 n l = some ix →
          (∀ i < max 1 (TEntry.w t0 / 8), reads (((TEntry.elemByte t0 ix).1 + i) % 2 ^ 64))
          ∧ (TEntry.isNf4b t0 = true → reads (TEntry.blockAddr t0 (TEntry.iOf t0 ix) (TEntry.kOf t0 ix) % 2 ^ 64)
              ∧ ∀ i < 2, reads ((TEntry.bandAddr t0 (TEntry.iOf t0 ix) + i) % 2 ^ 64))) →
        ∃ t, exec (.tld e) s = .next t ∧ LoadIssued c e t)
    ∧ (Issued 0x6A e s c → ∃ (t : State) (y : Wave), exec (.pf e) s = .next t ∧ t.wave? c.wid = some y ∧ y.pc = nextPc c.w e ∧ y.vregs = c.w.vregs
        ∧ y.sregs = c.w.sregs ∧ y.loads = c.w.loads ∧ y.pend = c.w.pend ∧ t.mem.hbm = c.s.mem.hbm ∧ t.mem.poison = c.s.mem.poison ∧ t.blocks = c.s.blocks
        ∧ ((∀ l ∈ c.accessLanes, ∀ pl, c.s.translate c.w.core c.part .load (c.ea (c.readLane l)) ≠ .ok pl) → t.mem = c.s.mem)
        ∧ (∀ x ∈ t.mem.copies, x ∈ c.s.mem.copies ∨ (x.fill = c.s.now ∧ x.gone = none ∧ (x.l1 = true → x.unit = c.w.core ∧ hintCode e ≠ 3)
            ∧ x.data = (List.range 64).map (fun i => c.s.devByte x.space (64 * x.line + i))))
        ∧ (TlbAgrees c.s c.part ∨ c.accessLanes.length = 1 → ∀ l ∈ c.accessLanes, ∀ pl,
            c.s.translate c.w.core c.part .load (c.ea (c.readLane l)) = .ok pl → c.s.homeHeld pl.space (pl.pa / 64) = false →
            c.s.poisonedAt pl.space (pl.pa / 64) = false → hintCode e ≠ 3 →
            ∃ x ∈ t.mem.copies, x.l1 = true ∧ x.unit = c.w.core ∧ x.space = pl.space ∧ x.line = pl.pa / 64 ∧ x.fill = c.s.now ∧ x.gone = none
              ∧ x.data = (List.range 64).map (fun i => c.s.devByte pl.space (64 * (pl.pa / 64) + i))))

/-- The byte of a line that a load finds below its wave's buffer (R141): a tile's byte, or the newest of block level, cluster
level and device level; device level alone for a load of a handler (R263). -/
def Sys2Proof.belowBuffer (s : State) (b : Block) (r : LineRef) (direct : Bool) (i : Nat) : Byte :=
  let held (ls : List PLine) : Option Byte :=
    match ls.find? (fun p => p.scr = false && p.line = r.line) with
    | some p => if p.mask.getLsbD i then some (p.data.getD i 0#8) else none
    | none => none
  if r.scr then b.scr.read (64 * r.line + i)
  else
    match (if direct then none else held b.lines), (if direct then none else held (s.clusterLines b)) with
    | some x, _ => x
    | none, some x => x
    | none, none => s.devByte r.space (64 * r.pline + i)

/-- A byte of a line that a load finds at device level: no level below the wave's buffer holds it. -/
def Sys2Proof.fromDevice (s : State) (b : Block) (r : LineRef) (direct : Bool) (i : Nat) : Bool :=
  let held (ls : List PLine) : Bool := match ls.find? (fun p => p.scr = false && p.line = r.line) with | some p => p.mask.getLsbD i | none => false
  !r.scr && (direct || (!held b.lines && !held (s.clusterLines b)))

/-- A load's last line returns (R71, R138, R141): each byte it did not take from its wave's buffer is the newest below it at
that moment, and the destination's lanes are written with the bytes extended by the type (R139), every other register kept. When
a byte that it reads at device level is poisoned it writes no register, and cause 20 is pending; a poisoned byte that only helper lanes
read gives those lanes 0, and no cause (R23). -/
def Obligations.LoadDataReturns : Prop :=
  ∀ (s : State) (w : Nat) (x : Wave) (b : Block) (o : OutLoad) (rest : List OutLoad) (r : LineRef),
    s.wave? w = some x → s.block? x.blk = some b → x.loads = o :: rest → o.remain = [r] → o.poison = false →
    o.window = false → (r.scr = false → s.homeHeld r.space r.pline = false) → s.mayRead x r.scr = true →
    let a (i : Nat) : Nat := 64 * r.line + i
    let had (i : Nat) : Bool := o.got.any (fun p => p.1 = a i)
    let o' : OutLoad := { o with
      got := o.got ++ (List.range 64).filterMap (fun i => if had i then none else some (a i, belowBuffer s b r o.direct i)), remain := [] }
    let bad (i : Nat) : Bool := s.poisonedAt r.space r.pline && fromDevice s b r o.direct i && !had i
    ((∀ i < 64, bad i = true → o.mainWants (a i) = false) →
      ∃ t y z, exec (.loadDataReturn w 0 false) s = .next t ∧ t.wave? w = some y ∧ y.loads = rest ∧ y.pend = x.pend
        ∧ (∀ l, z.getLsbD l = (o.zeros.getLsbD l || (o.helpers.getLsbD l && (List.range 64).any (fun i => bad i && o.laneWants l (a i)))))
        ∧ let done := { o' with zeros := z }.writeBack x
          y.vregs = done.vregs ∧ y.sregs = done.sregs ∧ y.image = done.image)
    ∧ ((∃ i < 64, bad i = true ∧ o.mainWants (a i) = true) → (∀ p ∈ x.pend, p.code ≠ 20#6) →
      ∃ t y, exec (.loadDataReturn w 0 false) s = .next t ∧ t.wave? w = some y ∧ y.loads = rest ∧ y.vregs = x.vregs
        ∧ y.sregs = x.sregs ∧ ∃ rec, y.pend = x.pend ++ [⟨20#6, rec⟩] ∧ rec.addr = o.addr)

/-! ## Commits, aborts and acquires -/

/-- What a wave reads of its own work at an address before device level (R141): the newest of its buffer, its block's level (for
scratchpad space its block's tile) and its cluster's level. -/
def Sys2Proof.ownView (s : State) (w : Wave) (b : Block) (scr : Bool) (a : Nat) : Option Byte :=
  let held (ls : List PLine) : Option Byte :=
    match ls.find? (fun p => p.scr = scr && p.line = a / 64) with
    | some p => if p.mask.getLsbD (a % 64) then some (p.data.getD (a % 64) 0#8) else none
    | none => none
  match held (w.buf.filterMap id) with
  | some x => some x
  | none => if scr then some (b.scr.read a) else match held b.lines with | some x => some x | none => held (s.clusterLines b)

/-- A list of pending lines holds each line once, with its 64 bytes. -/
def Sys2Proof.LinesOk (ls : List PLine) : Prop :=
  ls.Pairwise (fun p q => ¬(p.scr = q.scr ∧ p.line = q.line)) ∧ ∀ p ∈ ls, p.data.length = 64

/-- The move of a commit to wave, block or cluster level does not change what its own wave reads of its buffer, its block's level and
tiles and its cluster's level (R68, R71, R148): what leaves the buffer is found one level down, the newer bytes over the older. It holds
where each level lists a line once; merging keeps that so. -/
def Obligations.CommitsKeepTheWavesView : Prop :=
  (∀ (c : Cx) (lvl : Nat) (t : State) (y : Wave) (b : Block), lvl ≤ 2 → c.commitStart lvl = .ok t →
    c.s.wave? c.wid = some c.w → c.s.block? c.w.blk = some c.b → t.wave? c.wid = some y → t.block? c.w.blk = some b →
    (lvl = 2 → (c.s.cluster? c.b).isSome = true) →
    LinesOk (bufLines c.w.buf) → LinesOk c.b.lines → LinesOk (c.s.clusterLines c.b) → (∀ p ∈ c.b.lines, p.scr = false) → c.b.scr.wf →
    ∀ (scr : Bool) (a : Nat), ownView t y b scr a = ownView c.s c.w c.b scr a)
  ∧ (∀ ls new : List PLine, LinesOk ls → LinesOk new → LinesOk (mergeLines ls new))

/-- commit.wave, commit.blk and commit.clus (R148, R149, R151): with no engine's tile, room at the level, and room in the order
log, every line of the path moves at once: the buffer empties, scratchpad bytes enter their tiles, global lines merge into the
level's lines; a commit.wave that meets another wave's bytes raises the conflict count, and from commit.blk up a new block
interval begins. That the core then keeps no clean copy of a line that moves, where R165 lets it update or drop it, is the model's choice
(log entry 147). Lacking room it is trap 9 and moves nothing; an engine's tile holds it with stall reason 7. commit.wave.x
(R150): when a byte of the buffer is another wave's in the conflict records, the whole buffer is discarded, kN becomes 0 and
nothing else changes; otherwise it is a commit.wave that then writes k0 to kN. abort (R151) discards the wave's buffer, the
block's level, opening a new interval, or the cluster's level. acq (R152) leaves the wave no clean copy older than itself, of
device-homed lines from .dev and of system-homed lines too from .sys. -/
def Obligations.CommitsAbortsAndAcquires : Prop :=
  (∀ (e : Enc) (s : State) (c : Cx), Issued 0x70 e s c → c.w.stage = 0 → c.s.block? c.w.blk = some c.b →
    let lvl := scopeCode e
    let glob := (bufLines c.w.buf).filter (fun p => !p.scr)
    let scr := (bufLines c.w.buf).filter (fun p => p.scr)
    let held := scr.any (fun p => c.b.engineOwns (p.line / 64))
    let tiles := scr.foldl (fun m p => Memory.writeLine m p.line p.data p.mask) c.b.scr
    let clash := c.b.conflicts c.wid (bufLines c.w.buf)
    (held = true → exec (.commit e) s = .next (c.s.stallWave c.wid .owner 7 c.w.stage c.w.aux))
    ∧ (held = false → c.noRoom lvl (c.s.pathLines c.w c.b lvl) = true →
        exec (.commit e) s = .next (c.s.raise c.wid c.lanes { code := 9#6, lanes := c.w.exec }))
    ∧ (held = false → c.noRoom lvl (c.s.pathLines c.w c.b lvl) = false → c.mayLog 1 = true → lvl ≤ 2 →
        (lvl = 2 → (c.s.cluster? c.b).isSome = true) →
        ∃ (t : State) (y : Wave) (b : Block), exec (.commit e) s = .next t ∧ t.wave? c.wid = some y ∧ t.block? c.w.blk = some b
          ∧ y.pc = nextPc c.w e ∧ bufLines y.buf = [] ∧ y.vregs = c.w.vregs ∧ y.sregs = c.w.sregs ∧ y.kregs = c.w.kregs
          ∧ y.exec = c.w.exec ∧ y.mode = c.w.mode ∧ y.acks = c.w.acks
          ∧ b.scr = tiles ∧ b.members = c.b.members ∧ b.bars = c.b.bars ∧ b.engineOwned = c.b.engineOwned
          ∧ b.lines = (if lvl ≤ 1 then mergeLines c.b.lines glob else [])
          ∧ b.bconf = (if lvl = 0 then (if clash then bconfConflict c.b.bconf else c.b.bconf) else bconfClear c.b.bconf)
          ∧ (1 ≤ lvl → b.owners = [])
          ∧ (lvl = 2 → t.clusterLines b = mergeLines (c.s.clusterLines c.b) (mergeLines (mergeLines [] c.b.lines) glob))
          ∧ t.mem.host = c.s.mem.host ∧ t.mem.tier = c.s.mem.tier ∧ t.mem.peer = c.s.mem.peer
          ∧ (logging (c.s.part c.part) = false → t.mem = { c.s.mem with copies := t.mem.copies })
          ∧ (∀ x ∈ t.mem.copies, x ∈ c.s.mem.copies)
          ∧ (∀ p ∈ c.s.pathLines c.w c.b lvl, p.scr = false → ∀ pl, c.s.translate c.w.core (c.s.partOfWave c.wid) .load (64 * p.line) = .ok pl →
              ∀ x ∈ t.mem.copies, ¬(x.l1 = true ∧ x.unit = c.w.core ∧ x.space = pl.space ∧ x.line = pl.pa / 64))
          ∧ (∀ k, k ≠ c.wid → (t.wave? k).map (fun v => { v with staged := [] }) = (c.s.wave? k).map (fun v => { v with staged := [] }))
          ∧ (∀ k, k ≠ c.w.blk → t.block? k = c.s.block? k) ∧ t.grids = c.s.grids))
  ∧ (∀ (e : Enc),
    let clash (c : Cx) : Bool := c.b.conflicts c.wid (bufLines c.w.buf)
    let empty (w : Wave) : Wave := { w with buf := List.replicate 64 none }
    Ends (.commitX e) (fun c => clash c = true) (fun c => .done (c.s.updWave c.wid (fun w => (empty w).write e.dst false 0 0) ))
    ∧ (∀ s1, Ends (.commitX e) (fun c => clash c = false ∧ c.w.stage = 0 ∧ c.commitStart 0 = .ok s1 ∧ (s1.wave? c.wid).isSome)
        (fun c => .done (s1.updWave c.wid (fun w => w.write e.dst false 0 c.w.k0.toNat))))
    ∧ Ends (.abortOp e) (fun _ => scopeCode e = 0) (fun c => .done (c.s.updWave c.wid empty))
    ∧ (∀ s c, Issued 0x72 e s c → scopeCode e = 1 → c.mayLog 2 = true → c.s.block? c.w.blk = some c.b → ∃ t b,
        exec (.abortOp e) s = .next t ∧ t.block? c.w.blk = some b
          ∧ b = { c.b with lines := [], owners := [], bconf := bconfClear c.b.bconf, seq := c.b.seq + 1 }
          ∧ t.wave? c.wid = (c.s.wave? c.wid).map (fun w => { w with
              pc := nextPc c.w e, stage := 0, aux := 0, issued := none, wait := .no, stall := 0#4, starved := 0, lastIssue := c.s.clk, barked := false })
          ∧ t.clusters = c.s.clusters ∧ (logging (c.s.part c.part) = false → t.mem = c.s.mem))
    ∧ (∀ s c x, Issued 0x72 e s c → scopeCode e = 2 → c.mayLog 2 = true → c.s.block? c.w.blk = some c.b → c.s.cluster? c.b = some x → ∃ t,
        exec (.abortOp e) s = .next t ∧ t.clusterLines c.b = [] ∧ t.blocks = c.s.blocks
          ∧ t.wave? c.wid = (c.s.wave? c.wid).map (fun w => { w with
              pc := nextPc c.w e, stage := 0, aux := 0, issued := none, wait := .no, stall := 0#4, starved := 0, lastIssue := c.s.clk, barked := false })
          ∧ (logging (c.s.part c.part) = false → t.mem = c.s.mem))
    ∧ (∀ s c, Issued 0x73 e s c → c.s.wave? c.wid = some c.w → ∃ t y, exec (.acq e) s = .next t ∧ t.wave? c.wid = some y
          ∧ y = { c.w with
              acqDev := y.acqDev, acqSys := y.acqSys, pc := nextPc c.w e, stage := 0, aux := 0, issued := none, wait := .no, stall := 0#4
              starved := 0, lastIssue := c.s.clk, barked := false }
          ∧ t.mem = c.s.mem ∧ t.blocks = c.s.blocks
          ∧ (∀ r x, scopeCode e = 4 ∨ (scopeCode e = 3 ∧ r.space = .hbm) → x ∈ c.s.mem.copies → x.fill ≤ c.s.now → t.cleanCopy y r ≠ some x)
          ∧ (scopeCode e ≤ 2 → y.acqDev = c.w.acqDev ∧ y.acqSys = c.w.acqSys)))

/-! ## Barriers -/

/-- Block barriers (R36, R69, R153). Once its commit.wave is done, leaving `s1`, a wave that has not arrived and did not attach in
the open phase arrives: as the last expected one it completes the phase, the next one expects the block's members, and bar.blk
ends; otherwise bar.blk waits with stall reason 2 until the phase has passed. A wave that has arrived or attached in the phase
is held for the next. bar.arv arrives and goes on; bar.wt waits only for an arrival of its wave that is outstanding. Cluster
and grid barriers (R194, R195). Once its commit is done, leaving `s1`, and for a grid barrier the sync engine has its slots,
the wave arrives in its block; the block's own completion is the block's arrival, and the last block completes the phase and
ends the wave's wait; before that the wave waits with stall reason 2, and goes on once the phase has passed. A wave that still waits at a
grid barrier holds a slot for it (R193). -/
def Obligations.PhaseBarriersCountArrivals : Prop :=
  (∀ (e : Enc) (s s1 : State) (c : Cx) (b1 : Block) (w1 : Wave),
    let n := (e.mod.extractLsb' 0 4).toNat
    let bar := b1.bar .blk n
    (∀ k, c.commit 0 k = k s1) → s1.block? c.b.uid = some b1 → s1.wave? c.wid = some w1 → n < b1.bars.length → b1.members ≠ [] → bar.held = [] →
    (∀ i ∈ [Instr.barBlk e, .barArv e], ∀ op, i.code = some (op, e) → Issued op.toNat e s c → c.w.stage ≠ 9 →
      (c.wid ∉ bar.arrived → c.wid ∉ bar.attached →
        (bar.arrived.length + 1 = bar.expect → ∃ t y b, exec i s = .next t ∧ t.wave? c.wid = some y ∧ y.pc = nextPc c.w e ∧ y.wait = .no
            ∧ t.block? c.b.uid = some b ∧ b.bar .blk n = { phase := bar.phase + 1, expect := b1.members.length } ∧ t.mem = s1.mem)
        ∧ (bar.arrived.length + 1 < bar.expect → ∃ t y b, exec i s = .next t ∧ t.wave? c.wid = some y
            ∧ t.block? c.b.uid = some b ∧ b.bar .blk n = { bar with arrived := bar.arrived ++ [c.wid] } ∧ t.mem = s1.mem
            ∧ (if i = .barArv e then y.pc = nextPc c.w e else y.pc = w1.pc ∧ y.wait = .barrier ∧ y.stall = 2#4 ∧ y.stage = 9 ∧ y.aux = bar.phase)))
      ∧ (c.wid ∈ bar.arrived ∨ c.wid ∈ bar.attached → bar.arrived.length < bar.expect → ∃ t y b, exec i s = .next t
            ∧ t.wave? c.wid = some y ∧ t.block? c.b.uid = some b ∧ b.bar .blk n = { bar with held := [c.wid] }
            ∧ (if i = .barArv e then y.pc = nextPc c.w e else y.pc = w1.pc ∧ y.wait = .barrier ∧ y.aux = bar.phase + 1)))
    ∧ (Issued 0x74 e s c → c.w.stage = 9 → s1 = c.s →
        (c.w.aux < bar.phase → exec (.barBlk e) s = .next (c.after c.s))
        ∧ (bar.phase ≤ c.w.aux → exec (.barBlk e) s = .next ((c.s.keepIssue c.wid c.iv).stallWave c.wid .barrier 2 9 c.w.aux)))
    ∧ (Issued 0x76 e s c → c.b = b1 →
        (c.wid ∉ bar.arrived → exec (.barWt e) s = .next (c.after c.s))
        ∧ (c.wid ∈ bar.arrived → exec (.barWt e) s = .next (c.s.stallWave c.wid .barWt 2 0 0))))
  ∧ (∀ (e : Enc) (s s1 : State) (c : Cx) (b1 : Block) (w1 : Wave),
    let n := (e.mod.extractLsb' 0 2).toNat
    ∀ k ∈ [BarKind.clus, BarKind.grid],
    let i : Instr := if k = .clus then .barClus e else .barGrid e
    let bar := b1.bar k n
    let lvl := if k = .clus then 2 else 3
    (∀ op, i.code = some (op, e) → Issued op.toNat e s c) → s1.block? c.b.uid = some b1 → s1.wave? c.wid = some w1 →
    (∀ s0, (∀ f, c.commit lvl f = f s0) → c.w.stage < 9 →
      (if k = .clus then some s0 else (s0.seUse c.g.launch.die ⟨.grid, c.g.uid⟩).bind (fun s => s.seUse c.g.launch.die ⟨.waiter, c.wid⟩)) = some s1 →
      n < (match k with | .clus => b1.cbars.length | _ => b1.gbars.length) →
      b1.members ≠ [] → c.wid ∉ bar.arrived → c.wid ∉ bar.attached → bar.held = [] →
      (bar.arrived.length + 1 < bar.expect → s1.phaseDone c.b.uid k n bar.phase = false →
          ∃ t y b, exec i s = .next t ∧ t.wave? c.wid = some y ∧ y.pc = w1.pc ∧ y.wait = .gbar
          ∧ y.stall = 2#4 ∧ t.block? c.b.uid = some b ∧ b.bar k n = { bar with arrived := bar.arrived ++ [c.wid] })
      ∧ (∀ q : BlockBar, ∀ g1 : Grid, s1.grid? b1.grid = some g1 →
          (match k with
            | .clus => (s1.cluster? b1).map Cluster.bars
            | _ => some g1.gbars).bind (fun l => l[n]?) = some q →
          bar.arrived.length + 1 = bar.expect → q.held = [] → q.phase = bar.phase → c.b.uid ∉ q.arrived → q.arrived.length + 1 = q.expect →
          ∃ t y b, exec i s = .next t ∧ t.wave? c.wid = some y ∧ y.pc = nextPc c.w e ∧ y.wait = .no
            ∧ t.block? c.b.uid = some b ∧ b.bar k n = { phase := bar.phase + 1, expect := b1.members.length }
            ∧ (match k with
              | .clus => (t.cluster? b).map Cluster.bars
              | _ => (t.grid? b.grid).map Grid.gbars).bind (fun l => l[n]?) = some { phase := q.phase + 1, expect := (match k with
                | .clus => (match s1.cluster? b1 with | some x => x.left g1.launch.record | none => 0)
                | _ => g1.left) }))
    ∧ (c.w.stage = 9 → (c.s.phaseDone c.b.uid k n c.w.aux = true → exec i s = .next (c.after (c.s.acquire c.wid lvl)))
        ∧ (c.s.phaseDone c.b.uid k n c.w.aux = false → ∀ s2,
            (if k = .clus then some c.s else c.s.seUse c.g.launch.die ⟨.waiter, c.wid⟩) = some s2 →
            exec i s = .next ((s2.keepIssue c.wid c.iv).stallWave c.wid .gbar 2 9 c.w.aux))))

/-! ## Owner bits -/

/-- Memory-resident barriers (R197, R198). init makes the object's eight words, with trap 23 for an expected count of 0 and trap 2
for a signal word with another bit; arv, its commit done, leaving `s1`, returns the phase and lowers PENDING by its count, and
the last arrival raises PHASE and makes PENDING the expected count again; an object that is not valid, or has less pending, is
trap 23. wait reads VALID once; it acquires and goes on when the phase has passed, else it waits with stall reason 3, under
whatever the object then holds. own.give (R154) hands its tiles
to the engines, with their layout tag when one is set, after the wave's buffered bytes in them have entered the tiles, and
own.tst (R155) tells whether every tile of its range is thread-owned. A count of 0 gives nothing and tests true; a range
beyond the allotment is trap 21; a tile that an engine owns holds own.give with stall reason 7. -/
def Obligations.MemoryBarriersAndTileOwnership : Prop :=
  (∀ (e : Enc) (s : State) (c : Cx) (pl : Place),
    let a := c.addr e.a
    let x := BitVec.ofNat 32 (c.n32 e.b)
    let sig := c.n32 e.c
    let die := c.s.objDie pl
    let quiet (t : State) : Prop := (t.part c.part).dbgCtl.getLsbD 3 = false ∧ replayHead (t.part c.part) = none ∧ t.mem.wf
    c.object a = .ok pl → c.s.mem.wf →
    (Issued 0x9B e s c → 2 ^ 17 ≤ sig → exec (.mbarInit e) s = .next (c.s.raise c.wid c.lanes { code := 2#6, lanes := c.w.exec }))
    ∧ (Issued 0x9B e s c → sig < 2 ^ 17 → x = 0#32 → exec (.mbarInit e) s =
        .next (c.s.raise c.wid c.lanes { code := 23#6, lanes := c.w.exec, addr := BitVec.ofNat 64 a, detail := 3#16 }))
    ∧ (∀ s1, Issued 0x9B e s c → sig < 2 ^ 17 → x ≠ 0#32 → c.mayLog 3 = true → c.s.seUse die ⟨.object, pl.pa / 64⟩ = some s1 → quiet c.s →
        ∃ t y, exec (.mbarInit e) s = .next t ∧ t.wave? c.wid = some y ∧ y.pc = nextPc c.w e
          ∧ t.objWord pl 0 = x ++ x ∧ t.objWord pl 1 = 0#64 ∧ t.objWord pl 2 = BitVec.ofNat 64 (sig + 2 ^ 17)
          ∧ (∀ i, 3 ≤ i → i < 8 → t.objWord pl i = 0#64)
          ∧ ∀ q, ¬(pl.pa ≤ q ∧ q < pl.pa + 64) → t.mem.hbm.read q = c.s.mem.hbm.read q)
    ∧ (∀ s1, Issued 0x9C e s c → (∀ k, c.commit 3 k = k s1) → s1.mbarValid pl = false →
        exec (.mbarArv e) s = .next ((s1.after8 c.wid c.iv).raise c.wid c.lanes { code := 23#6, lanes := c.w.exec, addr := BitVec.ofNat 64 a, detail := 1#16 }))
    ∧ (∀ s1, Issued 0x9C e s c → (∀ k, c.commit 3 k = k s1) → s1.mbarValid pl = true → s1.mbarPending pl < x →
        exec (.mbarArv e) s = .next ((s1.after8 c.wid c.iv).raise c.wid c.lanes { code := 23#6, lanes := c.w.exec, addr := BitVec.ofNat 64 a, detail := 2#16 }))
    ∧ (∀ s1 s2, Issued 0x9C e s c → (∀ k, c.commit 3 k = k s1) → s1.mbarValid pl = true → x ≤ s1.mbarPending pl →
        s1.mayStep c.part 3 (agentOf c.w) 16 = true → s1.seUse die ⟨.object, pl.pa / 64⟩ = some s2 → quiet s1 → (s1.wave? c.wid).isSome →
        let expect := (s1.objWord pl 0).extractLsb' 0 32
        ∃ t y w1, exec (.mbarArv e) s = .next t ∧ t.wave? c.wid = some y ∧ s1.wave? c.wid = some w1 ∧ y.pc = nextPc c.w e
          ∧ y.sregs = (w1.write e.dst true 0 (s1.objWord pl 1).toNat).sregs
          ∧ (x = 0#32 → s1.mbarPending pl ≠ 0#32 → t.mem.hbm = s1.mem.hbm)
          ∧ (x ≠ 0#32 → x < s1.mbarPending pl → t.objWord pl 0 = (s1.mbarPending pl - x) ++ expect ∧ t.objWord pl 1 = s1.objWord pl 1)
          ∧ (x = s1.mbarPending pl → (s1.objWord pl 2).getLsbD 16 = false →
              t.objWord pl 0 = expect ++ expect ∧ t.objWord pl 1 = s1.objWord pl 1 + 1#64))
    ∧ (Issued 0x9D e s c →
        let past (q : Place) : BitVec 64 := c.s.objWord q 1 - BitVec.ofNat 64 (c.uni e.b .n64)
        (∀ s1, c.w.stage ≠ 11 → c.s.seUse die ⟨.object, pl.pa / 64⟩ = some s1 →
          (c.s.mbarValid pl = false → exec (.mbarWait e) s =
              .next (c.s.raise c.wid c.lanes { code := 23#6, lanes := c.w.exec, addr := BitVec.ofNat 64 a, detail := 1#16 }))
          ∧ (c.s.mbarValid pl = true → 1 ≤ (past pl).toNat → (past pl).toNat ≤ 2 ^ 63 - 1 →
              exec (.mbarWait e) s = .next (c.after (s1.acquire c.wid 3)))
          ∧ (∀ s2, c.s.mbarValid pl = true → past pl = 0#64 ∨ 2 ^ 63 ≤ (past pl).toNat → s1.seUse die ⟨.waiter, c.wid⟩ = some s2 →
              exec (.mbarWait e) s = .next ((s2.keepIssue c.wid c.iv).stallWave c.wid .mbar 3 11 pl.pa)))
        ∧ (∀ q : Place, c.w.stage = 11 → q = { space := .hbm, pa := c.w.aux, ss := false } →
          (1 ≤ (past q).toNat → (past q).toNat ≤ 2 ^ 63 - 1 → exec (.mbarWait e) s = .next (c.after (c.s.acquire c.wid 3)))
          ∧ (∀ s2, past q = 0#64 ∨ 2 ^ 63 ≤ (past q).toNat → c.s.seUse (c.s.objDie q) ⟨.waiter, c.wid⟩ = some s2 →
              exec (.mbarWait e) s = .next ((s2.keepIssue c.wid c.iv).stallWave c.wid .mbar 3 11 c.w.aux)))))
  ∧ (∀ (e : Enc) (s : State) (c : Cx), c.s.block? c.b.uid = some c.b → c.b.uid = c.w.blk →
    let first := c.n32 e.a
    let count := c.n32 e.b
    let inside (t : Nat) : Prop := first ≤ t ∧ t < first + count
    let free : Prop := ∀ t, inside t → c.b.engineOwned.getD t false = false
    let trap21 := c.s.raise c.wid c.lanes { code := 21#6, lanes := c.w.exec }
    let answer (x : BitVec 32) : State := c.after (c.s.updWave c.wid (fun w => w.write e.dst false 0 x.toNat))
    (Issued 0x77 e s c → c.w.stage = 0 →
      (count = 0 → exec (.ownGive e) s = .next (c.after c.s))
      ∧ (count ≠ 0 → c.b.ntiles < first + count → exec (.ownGive e) s = .next trap21)
      ∧ (count ≠ 0 → first + count ≤ c.b.ntiles → ¬free → exec (.ownGive e) s = .next (c.s.stallWave c.wid .owner 7 c.w.stage c.w.aux))
      ∧ (count ≠ 0 → first + count ≤ c.b.ntiles → free → c.mayLog 1 = true → c.s.wave? c.wid = some c.w →
          ∃ t b y, exec (.ownGive e) s = .next t ∧ t.block? c.b.uid = some b ∧ t.wave? c.wid = some y ∧ y.pc = nextPc c.w e
            ∧ (∀ k, b.engineOwned[k]? = c.b.engineOwned[k]?.map (fun x => x || (decide (first ≤ k) && decide (k < first + count))))
            ∧ (∀ k, b.tags[k]? = c.b.tags[k]?.map (fun x =>
                if e.mod.getLsbD 2 && decide (first ≤ k) && decide (k < first + count) then e.mod.extractLsb' 0 2 else x))
            ∧ b.scr = ((bufLines c.w.buf).filter (fun p => p.scr && decide (first ≤ p.line / 64) && decide (p.line / 64 < first + count))).foldl
                (fun m p => m.writeLine p.line p.data p.mask) c.b.scr
            ∧ b.lines = c.b.lines ∧ b.members = c.b.members
            ∧ (∀ p ∈ bufLines c.w.buf, p ∈ bufLines y.buf ∨ (p.scr = true ∧ inside (p.line / 64)))))
    ∧ (Issued 0x78 e s c →
      (count = 0 → exec (.ownTst e) s = .next (answer 0xFFFFFFFF#32))
      ∧ (count ≠ 0 → c.b.ntiles < first + count → exec (.ownTst e) s = .next trap21)
      ∧ (count ≠ 0 → first + count ≤ c.b.ntiles → free → exec (.ownTst e) s = .next (answer 0xFFFFFFFF#32))
      ∧ (count ≠ 0 → first + count ≤ c.b.ntiles → ¬free → exec (.ownTst e) s = .next (answer 0#32))))

/-! ## Exceptions and system instructions -/

/-- What the entry to a handler makes of a wave (R259, R262): the record's words, EPC with its bits [56:0], EMODE and EEXEC, the
stack set aside whole, its oldest entry first (log entry 18), HND and TMASK set, all lanes executing on an empty stack, and the pc at
HANDLER. `x` is the wave once its outstanding loads have completed. -/
def Sys2Proof.enters (x : Wave) (r : TrapRec) (handler : Dword) (y : Wave) : Prop :=
  y.trec = r.words ∧ y.epc = r.pc &&& 0x1FFFFFFFFFFFFFF#64 ∧ y.emode = x.mode ∧ y.eexec = x.exec ∧ y.edepth = x.stack.length
    ∧ (∀ k, k < x.stack.length → y.estack[k]? = x.stack.reverse[k]?)
    ∧ y.mode = x.mode ||| 0x300#32 ∧ y.exec = 0xFFFFFFFF#32 ∧ y.stack = [] ∧ y.pc = handler ∧ y.loads = x.loads
    ∧ y.vregs = x.vregs ∧ y.sregs = x.sregs ∧ y.kregs = x.kregs ∧ y.buf = x.buf ∧ y.hs = x.hs

/-- trap and bkpt (R158, R257): trap raises cause 12, and bkpt cause 13, with bits [15:0] of the operand in the record; with
the partition's debug enable set and traps not masked bkpt goes on, and cause 51 is pending with INFO0 2. yield with a
request starts the save at the next instruction, as a hardware save inside a handler; without one it does nothing, and as
the end of a handler's save it stops the wave once %acks is 0, waiting with stall reason 1 (R64). sleep makes the wave ineligible for its count of compute-die
clocks, with stall reason 2. -/
def Obligations.SoftwareTrapsYieldAndSleep : Prop :=
  ∀ (e : Enc),
    let arg (c : Cx) : Nat := c.src e.a .n32 c.lane0
    let debug (c : Cx) : Prop := (c.s.part c.part).dbgCtl.getLsbD 0 = true ∧ c.w.mode.getLsbD 9 = false
    let saving (c : Cx) : Prop := c.w.mode.getLsbD 8 = true ∧ c.w.phase = .save
    Ends (.trapOp e) (fun _ => True) (fun c => .trap { code := 12#6, lanes := c.w.exec, detail := BitVec.ofNat 16 (arg c) })
    ∧ Ends (.bkpt e) (fun c => ¬debug c) (fun c => .trap { code := 13#6, lanes := c.w.exec, detail := BitVec.ofNat 16 (arg c) })
    ∧ Ends (.bkpt e) debug (fun c => .done (c.s.pendCause c.wid 51#6 { trapRec c.s c.w 51#6 c.w.exec c.w.exec 0#64 with info0 := 2#32 }))
    ∧ Ends (.yieldOp e) (fun c => ¬saving c ∧ c.w.preq = false) (fun c => .done c.s)
    ∧ Ends (.yieldOp e) (fun c => c.w.preq = true ∧ c.w.mode.getLsbD 8 = false) (fun c => .gone (c.s.enterSave c.wid 49#6 (nextPc c.w e) (0, 0)))
    ∧ Ends (.yieldOp e) (fun c => ¬saving c ∧ c.w.preq = true ∧ c.w.mode.getLsbD 8 = true)
        (fun c => .gone (c.s.hardwareSave c.wid (nextPc c.w e) (0, 0)))
    ∧ Ends (.yieldOp e) (fun c => saving c ∧ c.w.acks = 0) (fun c => .gone (c.s.updWave c.wid (fun w => { w with stopped := true, stall := 1#4 })))
    ∧ Ends (.yieldOp e) (fun c => saving c ∧ c.w.acks ≠ 0) (fun c => .wait c.s .commit 1 0 0)
    ∧ Ends (.sleep e) (fun c => c.w.preq = true ∨ c.w.stage = 2 ∨ (c.w.stage = 0 ∧ arg c = 0) ∨ (c.w.stage = 9 ∧ c.w.sleepEnd.toNat ≤ c.s.dieClk c.w.core))
        (fun c => .done c.s)
    ∧ Ends (.sleep e) (fun c => c.w.preq = false ∧ c.w.stage = 0 ∧ arg c ≠ 0)
        (fun c => .wait (c.s.updWave c.wid (fun w => { w with sleepEnd := BitVec.ofNat 64 (c.s.dieClk c.w.core + arg c) })) .sleep 2 9 0)
    ∧ Ends (.sleep e) (fun c => c.w.preq = false ∧ c.w.stage = 9 ∧ c.s.dieClk c.w.core < c.w.sleepEnd.toNat) (fun c => .wait c.s .sleep 2 9 0)

/-- rte (R158, R264): outside the handler it is trap 5; inside, while lines are unacknowledged it waits with stall reason 8; then
mode, %exec, the stack set aside and the pc come back from EMODE, EEXEC, the set-aside stack, whose entry 0 is the oldest (log entry
18), and EPC, and no other register or memory changes. -/
def Obligations.ReturnFromException : Prop :=
  ∀ (e : Enc) (s : State) (c : Cx), Issued 0x81 e s c → c.s.wave? c.wid = some c.w →
    (c.w.mode.getLsbD 8 = false → exec (.rte e) s = .next (c.s.raise c.wid c.lanes { code := 5#6, lanes := c.w.exec }))
    ∧ (c.w.mode.getLsbD 8 = true → c.w.acks ≠ 0 → exec (.rte e) s = .next (c.s.stallWave c.wid .commit 8 0 0))
    ∧ (c.w.mode.getLsbD 8 = true → c.w.acks = 0 → ∃ t y, exec (.rte e) s = .next t ∧ t.wave? c.wid = some y
        ∧ y.mode = c.w.emode ∧ y.exec = c.w.eexec ∧ y.stack = (c.w.estack.take c.w.edepth).reverse ∧ y.pc = c.w.epc
        ∧ y.vregs = c.w.vregs ∧ y.sregs = c.w.sregs ∧ y.kregs = c.w.kregs ∧ y.buf = c.w.buf ∧ y.hs = c.w.hs ∧ y.pend = c.w.pend
        ∧ t.mem = c.s.mem ∧ t.blocks = c.s.blocks ∧ ∀ k, k ≠ c.wid → t.wave? k = c.s.wave? k)

/-- Taking an exception. An issue cause enters the handler (R257-R259, R262): the record holds the cause, the pc of the
instruction, its guard, %exec and %clk, and the cause of each marked lane; EPC is that instruction's address, so that rte
performs it again; nothing else of the machine changes. With traps masked the wave stops instead, with stall reason 1 and
cause 63 in its record, the cause itself in ORIG (R261). The words of a trap record (R259). A handler that returns at once
resumes the interrupted work: entry (R262) followed by rte (R264) gives the wave bits [56:0] of its pc, its mode, %exec, stack and registers
back, when traps were not masked before. That ESTK entry k is the k-th oldest of the stack is the model's reading (log entry 18). -/
def Obligations.ExceptionsEnterTheHandler : Prop :=
  (∀ (s : State) (wid : Nat) (w : Wave) (guard : LaneMask) (t : Trap), s.wave? wid = some w → w.loads = [] →
    (w.mode.getLsbD 9 = false → ∃ (r : TrapRec) (y : Wave), (s.raise wid guard t).wave? wid = some y ∧ enters w r (s.handler wid) y
        ∧ r.cause = t.code ∧ r.pc = w.pc ∧ r.addr = t.addr ∧ r.guard = guard ∧ r.exec = w.exec ∧ r.clk = s.clk ∧ r.detail = t.detail
        ∧ r.orig = t.orig ∧ r.info0 = t.info0 ∧ r.info1 = t.info1 ∧ r.async = false
        ∧ (t.laneCause = [] → ∀ l < 32, r.laneCause[l]? = some (if t.lanes.getLsbD l then t.code else 0#6))
        ∧ (t.laneCause ≠ [] → r.laneCause = t.laneCause)
        ∧ (s.raise wid guard t) = { s with waves := (s.raise wid guard t).waves }
        ∧ ∀ k, k ≠ wid → (s.raise wid guard t).wave? k = s.wave? k)
    ∧ (w.mode.getLsbD 9 = true → ∃ (r : TrapRec) (y : Wave), (s.raise wid guard t).wave? wid = some y ∧ y.trec = r.words ∧ r.cause = 63#6
        ∧ (r.orig = t.code ∨ (r.orig = 52#6 ∧ w.phase = .save)) ∧ r.pc = w.pc ∧ y = { w with stopped := true, mcheck := true, stall := 1#4, trec := r.words }
        ∧ ∀ k, k ≠ wid → (s.raise wid guard t).wave? k = s.wave? k))
  ∧ (∀ (r : TrapRec), r.laneCause.length = 32 →
    let w (i : Nat) : BitVec 64 := r.words.getD i 0#64
    r.words.length = 16 ∧ (w 0).extractLsb' 0 6 = r.cause ∧ (w 0).getLsbD 11 = r.ovf ∧ (w 0).getLsbD 12 = r.async ∧ (w 0).getLsbD 13 = r.inhnd
    ∧ (w 0).getLsbD 14 = r.restore ∧ (w 0).getLsbD 15 = r.save ∧ (w 0).extractLsb' 16 6 = r.orig ∧ (w 0).extractLsb' 32 16 = r.detail
    ∧ (w 0).extractLsb' 6 5 = 0#5 ∧ (w 0).extractLsb' 22 10 = 0#10 ∧ (w 0).extractLsb' 48 16 = 0#16
    ∧ w 1 = r.pc &&& 0x1FFFFFFFFFFFFFF#64 ∧ w 2 = r.addr ∧ (w 3).extractLsb' 0 32 = r.info0 ∧ (w 3).extractLsb' 32 32 = r.info1
    ∧ (∀ l < 32, (w (4 + l / 8)).extractLsb' (8 * (l % 8)) 8 = (r.laneCause.getD l 0#6).setWidth 8)
    ∧ (w 8).extractLsb' 0 32 = r.exec ∧ (w 8).extractLsb' 32 32 = r.guard ∧ w 9 = r.clk ∧ w 10 = r.aux
    ∧ ∀ i, 11 ≤ i → i < 16 → w i = 0#64)
  ∧ (∀ (s : State) (wid : Nat) (w : Wave) (guard : LaneMask) (t : Trap), s.wave? wid = some w → w.loads = [] → w.mode.getLsbD 9 = false →
    ∃ y, ((s.raise wid guard t).returnFromHandler wid).wave? wid = some y ∧ y.pc = w.pc &&& 0x1FFFFFFFFFFFFFF#64 ∧ y.mode = w.mode ∧ y.exec = w.exec
      ∧ y.stack = w.stack ∧ y.vregs = w.vregs ∧ y.sregs = w.sregs ∧ y.kregs = w.kregs ∧ y.buf = w.buf ∧ y.pend = w.pend)

/-- mode and getm (R157): mode changes the bits that its mask names among [1:0], with trap 2 for another bit, and getm reads the
whole register. rdpr and wrpr (R158, R265): outside the handler both are trap 5; an id that the table of R265 does not define
or does not let be read, or written now, is trap 2. EPC holds its bits [56:0], EEXEC 32 bits, HS0-HS3 all of theirs, and EMODE, as
the model reads R156, its bits [1:0] (log entry 52); entry 0 of the ESTK registers is the oldest (log entry 18); a register written reads back, a restored word of the trap record without its reserved bits (R259), and what only a restore may
write is refused at any other time. -/
def Obligations.ModeAndPrivilegedRegisters : Prop :=
  (∀ (e : Enc),
    let mask (c : Cx) : BitVec 32 := BitVec.ofNat 32 (c.src e.a .b32 c.lane0)
    let value (c : Cx) : BitVec 32 := BitVec.ofNat 32 (c.src e.b .b32 c.lane0)
    Ends (.modeOp e) (fun c => ∃ i, 2 ≤ i ∧ (mask c).getLsbD i = true) (fun c => .trap { code := 2#6, lanes := c.w.exec })
    ∧ Ends (.modeOp e) (fun c => ∀ i, 2 ≤ i → (mask c).getLsbD i = false) (fun c =>
        .done (c.s.updWave c.wid (fun w => { w with mode := (w.mode &&& ~~~mask c) ||| (value c &&& mask c) })))
    ∧ Performs (.getm e) (fun c => c.s.updWave c.wid (fun w => w.write e.dst false 0 w.mode.toNat)))
  ∧ (∀ (e : Enc),
    let id (c : Cx) : Nat := c.src e.a .n32 c.lane0
    let x (c : Cx) : BitVec 64 := BitVec.ofNat 64 (c.src e.b .b64 c.lane0)
    let hnd (c : Cx) : Prop := c.w.mode.getLsbD 8 = true
    let trap (k : BitVec 6) (c : Cx) : Res := .trap { code := k, lanes := c.w.exec }
    let put (f : Cx → Wave) (c : Cx) : Res := .done (c.s.updWave c.wid (fun _ => f c))
    let readable (n : Nat) : Prop := n ≤ 24 ∨ (26 ≤ n ∧ n ≤ 28) ∨ (30 ≤ n ∧ n ≤ 47) ∨ (0x1000 ≤ n ∧ n < 0x1400 ∧ n % 16 < 10)
    let free (n : Nat) : Prop := (16 ≤ n ∧ n ≤ 18) ∨ (20 ≤ n ∧ n ≤ 23) ∨ n = 25
    let restoring (n : Nat) : Prop := n ≤ 15 ∨ n = 19 ∨ (26 ≤ n ∧ n ≤ 28) ∨ n = 31 ∨ (32 ≤ n ∧ n ≤ 47) ∨ (0x1000 ≤ n ∧ n < 0x1400 ∧ n % 16 < 10)
    Ends (.rdpr e) (fun c => ¬hnd c) (trap 5#6)
    ∧ Ends (.wrpr e) (fun c => ¬hnd c) (trap 5#6)
    ∧ Ends (.rdpr e) (fun c => hnd c ∧ ¬readable (id c)) (trap 2#6)
    ∧ Ends (.wrpr e) (fun c => hnd c ∧ ¬free (id c) ∧ ¬(restoring (id c) ∧ c.w.phase = .restore)) (trap 2#6)
    ∧ (∀ v, Ends (.rdpr e) (fun c => hnd c ∧ c.s.readPriv c.w (id c) = some v) (fun c =>
        .done (c.s.updWave c.wid (fun w => w.write e.dst true 0 v.toNat))))
    ∧ Ends (.wrpr e) (fun c => hnd c ∧ id c = 16) (put fun c => { c.w with epc := x c &&& 0x1FFFFFFFFFFFFFF#64 })
    ∧ Ends (.wrpr e) (fun c => hnd c ∧ id c = 17) (put fun c => { c.w with emode := (x c).extractLsb' 0 32 &&& 3#32 })
    ∧ Ends (.wrpr e) (fun c => hnd c ∧ id c = 18) (put fun c => { c.w with eexec := (x c).extractLsb' 0 32 })
    ∧ Ends (.wrpr e) (fun c => hnd c ∧ id c = 25) (put fun c => { c.w with saveDone := true })
    ∧ (∀ k < 4, Ends (.wrpr e) (fun c => hnd c ∧ id c = 20 + k) (put fun c => { c.w with hs := c.w.hs.set k (x c) }))
    ∧ (∀ k < 16, Ends (.wrpr e) (fun c => hnd c ∧ id c = k ∧ c.w.phase = .restore) (put fun c => { c.w with trec := c.w.trec.set k (x c &&&
        (if k = 0 then 0x0000FFFF003FF83F#64 else if k = 1 then 0x1FFFFFFFFFFFFFF#64 else if k < 11 then BitVec.allOnes 64 else 0#64)) }))
    ∧ (∀ (s : State) (w : Wave), (∀ n, readable n → (s.readPriv w n).isSome = true) ∧ (∀ n, ¬readable n → s.readPriv w n = none)
        ∧ s.readPriv w 16 = some w.epc ∧ s.readPriv w 17 = some (w.emode.setWidth 64) ∧ s.readPriv w 18 = some (w.eexec.setWidth 64)
        ∧ s.readPriv w 19 = some (BitVec.ofNat 64 w.edepth) ∧ s.readPriv w 30 = some (BitVec.ofNat 64 w.acks)
        ∧ (∀ k < 16, s.readPriv w k = some (w.trec.getD k 0#64)) ∧ (∀ k < 4, s.readPriv w (20 + k) = some (w.hs.getD k 0#64))
        ∧ (∀ k < 8, s.readPriv w (32 + 2 * k) = some (w.estack.getD k (0#64, 0#32)).1
            ∧ s.readPriv w (33 + 2 * k) = some ((w.estack.getD k (0#64, 0#32)).2.setWidth 64))))

/-! ## Events of waves -/

/-- commit.dev and commit.sys (R148, R161-R163): when every line of the path is homed in HBM on the wave's own die, the bytes are
at device level at once, written to their homes line by line, and leave the wave's buffer; while lines of the other die, a
publication or their acknowledgements are outstanding the wave waits with stall reason 8, and with none outstanding the commit ends,
a commit.sys once %acks is 0; a line whose page cannot be stored to is the instruction's trap. Acknowledgements and publication (R148, R163, R164). An
acknowledgement takes its line off the wave's list and 1 off %acks; a system-homed line then has its bytes at its home, unless
its extent is gone, and no byte that was sent there before it arrives after it. At T the lines of a commit that both dies hold
become device-level in one step, once nothing is outstanding: as they were sent, the global lines are written to their homes and
the scratchpad lines enter their tiles, and the block begins a new interval. These are the model's choices: a failed translation moves
nothing (log entry 17), the tiles of a cross-die commit enter at T (40), a line of the wave's own die arrives at issue (41), every line
that the L2 holds for a system home is sent (42), and a line whose link carries nothing waits (137). -/
def Obligations.CommitsToDeviceLevel : Prop :=
  (∀ (e : Enc) (s : State) (c : Cx), Issued 0x70 e s c → c.s.wave? c.wid = some c.w → c.s.block? c.w.blk = some c.b →
    c.b.uid = c.w.blk →
    let lvl := scopeCode e
    let path := c.s.pathLines c.w c.b lvl
    lvl = 3 ∨ lvl = 4 →
    let noneSent : Prop := ∀ q ∈ c.w.sent, q.ofCommit = false
    (∀ ls, c.w.stage = 0 → (scrLines c.w).any (fun p => c.b.engineOwns (p.line / 64)) = false → c.mayLog 1 = true →
        c.s.placeLines c.w.core c.part path = .ok ls →
        (∀ x ∈ ls, x.2.space = .hbm ∧ c.s.homeDie .hbm (x.2.pa / 64) = dieOf c.w.core ∧ c.s.stackHeld .hbm (x.2.pa / 64) = false) →
        noneSent → c.w.staged = [] → (lvl = 4 → c.w.acks = 0 ∧ c.s.mem.sysL2 = []) → logging (c.s.part c.part) = false →
        (c.s.part c.part).dbgCtl.getLsbD 3 = false → replayHead (c.s.part c.part) = none →
        ∃ t y, exec (.commit e) s = .next t ∧ t.wave? c.wid = some y ∧ y.pc = nextPc c.w e ∧ y.vregs = c.w.vregs ∧ y.sregs = c.w.sregs
          ∧ t.mem.hbm = ls.foldl (fun m x => m.writeLine (x.2.pa / 64) x.1.data x.1.mask) c.s.mem.hbm
          ∧ t.mem.host = c.s.mem.host ∧ t.mem.tier = c.s.mem.tier ∧ t.mem.peer = c.s.mem.peer)
    ∧ (∀ k a, c.w.stage = 0 → (scrLines c.w).any (fun p => c.b.engineOwns (p.line / 64)) = false →
        c.s.placeLines c.w.core c.part path = .error (k, a) →
        exec (.commit e) s = .next (c.s.raise c.wid c.lanes { code := k, lanes := c.w.exec, addr := BitVec.ofNat 64 a }))
    ∧ (c.w.stage = 1 → c.w.staged ≠ [] → exec (.commit e) s = .next ((c.s.keepIssue c.wid c.iv).stallWave c.wid .commit 8 1 c.w.aux))
    ∧ (c.w.stage = 1 ∨ c.w.stage = 2 → c.w.staged = [] → ¬noneSent →
        exec (.commit e) s = .next ((c.s.keepIssue c.wid c.iv).stallWave c.wid .commit 8 2 c.w.aux))
    ∧ (c.w.stage = 1 ∨ c.w.stage = 2 → c.w.staged = [] → noneSent → lvl = 4 → c.s.mem.sysL2 ≠ [] →
        exec (.commit e) s = .next (((c.s.sendSystem c.wid).keepIssue c.wid c.iv).stallWave c.wid .commit 8 3 c.w.aux))
    ∧ (c.w.stage = 1 ∨ c.w.stage = 2 → c.w.staged = [] → noneSent → lvl = 3 ∨ (c.s.mem.sysL2 = [] ∧ c.w.acks = 0) → exec (.commit e) s = .next (c.after c.s))
    ∧ (c.w.stage = 3 → c.w.staged = [] → c.w.acks = 0 → exec (.commit e) s = .next (c.after c.s))
    ∧ (c.w.stage = 3 → c.w.staged = [] → c.w.acks ≠ 0 → lvl = 4 →
        exec (.commit e) s = .next ((c.s.keepIssue c.wid c.iv).stallWave c.wid .commit 8 3 c.w.aux)))
  ∧ (∀ (s : State) (wid : Nat) (w : Wave), s.wave? wid = some w →
    (∀ k l, w.sent[k]? = some l → l.sysWrite = false → exec (.ackArrival wid k) s =
        .next (s.updWave wid (fun y => { y with sent := y.sent.eraseIdx k, acks := y.acks - 1 })))
    ∧ (∀ k l, w.sent[k]? = some l → l.sysWrite = true → s.extentHere l.space l.pline = true → s.linkWaits l.space l.pline = false → l.space ≠ .hbm →
        ∃ t y, exec (.ackArrival wid k) s = .next t ∧ t.wave? wid = some y ∧ y.acks = w.acks - 1
          ∧ y.sent = (w.sent.eraseIdx k).map (fun q => if q.sysWrite = true ∧ q.space = l.space ∧ q.pline = l.pline ∧ q.moment < l.moment
              then { q with mask := q.mask &&& ~~~l.mask } else q)
          ∧ t.mem.get l.space = (s.mem.get l.space).writeLine l.pline l.data l.mask ∧ t.mem.hbm = s.mem.hbm)
    ∧ (∀ k l, w.sent[k]? = some l → l.sysWrite = true → (s.extentHere l.space l.pline = false ∨ s.linkWaits l.space l.pline = true) → exec (.ackArrival wid k) s = .next s)
    ∧ (∀ b, s.block? w.blk = some b → w.staged ≠ [] → (∀ q ∈ w.sent, q.ofCommit = false) →
        (∀ x ∈ w.staged, x.scr = false → s.stackHeld x.space x.pline = false) → s.mayStep (s.partOfWave wid) 1 (agentOf w) 16 = true →
        (s.part (s.partOfWave wid)).dbgCtl.getLsbD 3 = false → replayHead (s.part (s.partOfWave wid)) = none →
        (∀ x ∈ w.staged, x.scr = false → x.space = .hbm) →
        ∃ t y b', exec (.crossDiePublish wid) s = .next t ∧ t.wave? wid = some y ∧ y.staged = [] ∧ y.acks = w.acks ∧ y.pc = w.pc
          ∧ t.block? w.blk = some b' ∧ b'.owners = [] ∧ b'.bconf = b.bconf &&& 0xFFFF0000#32
          ∧ t.mem.hbm = (w.staged.filter (fun x => x.scr = false)).foldl (fun m x => m.writeLine x.pline x.data x.mask) s.mem.hbm
          ∧ b'.scr = (w.staged.filter (fun x => x.scr = true)).foldl (fun m x => m.writeLine x.line x.data x.mask) b.scr)
    ∧ (w.staged = [] ∨ (∃ q ∈ w.sent, q.ofCommit = true) ∨ (∃ x ∈ w.staged, x.scr = false ∧ s.stackHeld x.space x.pline = true) →
        exec (.crossDiePublish wid) s = .next s))

/-- The bytes of HBM after one write from outside: `bs` at `a`, every other byte as before. -/
def Sys2Proof.Wrote (s t : State) (a : Nat) (bs : List Byte) : Prop :=
  ∀ q, t.mem.hbm.read q = if a ≤ q ∧ q < a + bs.length then bs.getD (q - a) 0#8 else s.mem.hbm.read q

/-- A partition whose steps are neither logged nor replayed. -/
def Sys2Proof.Quiet (s : State) (p : Nat) : Prop := (s.part p).dbgCtl.getLsbD 3 = false ∧ (s.part p).replayPh ≠ .running

/-- Pending causes (R258): at a boundary with traps not masked the first in the order 63, 48, 51, 50, then ascending is
taken; 63 stops the wave with its record, every other one but a save enters the handler with ASYNC set and EPC at the next or
the waiting instruction, whose wait goes on after rte, and the rest stay pending. An uncorrectable error makes cause 63 pending with its source (R261); a
second occurrence of a pending cause sets OVF and is lost. Time and the debugger (R158, R277). A sleep ends once its clocks
have passed, or its wave's pre-emption is requested; a wave that has issued nothing for LIM x 1,024 compute-die clocks has
cause 50 pending, once until it issues again, with its stall reason; a write of DBG_CTL with HALT leaves cause 51 pending for every wave of the
partition, with INFO0 1; before its time an event changes nothing. The fault queue (R276): a record of 32 bytes goes into the ring's next place and
vector 0 is signalled; a full ring holds the record and its unit, as the whole-memory copy does (R385); without a ring the record is
dropped and the vector signalled. That FQ_BASE is a virtual address of the partition is the model's reading (log entry 11), as is the order
of the stack set aside (18). -/
def Obligations.PendingCausesSleepsAndHalts : Prop :=
  (∀ (s : State) (p source : Nat) (cause : BitVec 6) (addr : Dword) (agent unit : Nat), p < s.parts.length → (s.part p).fqHeld = [] →
    let x := s.part p
    let ring := x.fqBase ≠ 0#64 ∧ x.fqBase.toNat % 64 = 0 ∧ 4 ≤ x.fqSize.toNat ∧ x.fqSize.toNat ≤ 16
    let full := 2 ^ x.fqSize.toNat ≤ (x.fqWrite - x.fqRead).toNat
    let va := x.fqBase.toNat + 32 * (x.fqWrite.toNat % 2 ^ x.fqSize.toNat)
    let t := s.postFault p source cause addr agent unit
    let y := t.part p
    (¬ring → y = { x with irq0 := x.irq0 + 1 } ∧ t.mem = s.mem)
    ∧ (ring → full ∨ s.hub.ckptRun = true → y.irq0 = x.irq0 ∧ y.fqWrite = x.fqWrite ∧ y.fqHeld.length = 1 ∧ t.mem = s.mem ∧ t.unitHeld source unit = true)
    ∧ (∀ pl, ring → ¬full → s.hub.ckptRun = false → s.mem.wf → s.translateDie 0 p .store va = .ok pl → pl.space = .hbm →
        y.fqHeld = [] ∧ y.irq0 = x.irq0 + 1 ∧ y.fqWrite = x.fqWrite + 1#64 ∧ t.waves = s.waves
        ∧ Wrote s t pl.pa (leBytes 8 (source * 256 + cause.toNat) ++ leBytes 8 addr.toNat ++ leBytes 8 (agent % 65536) ++ leBytes 8 s.clk.toNat)))
  ∧
  (∀ (s : State) (wid : Nat) (w : Wave), s.wave? wid = some w →
    (∀ p, s.canRun w = true → w.atBoundary = true → w.mode.getLsbD 9 = false → w.loads = [] →
        firstPending w.pend = some p → p.code ≠ 63#6 → p.code ≠ 48#6 →
        ∃ t r y, exec (.asyncCauseTaken wid) s = .next t ∧ t.wave? wid = some y ∧ enters w r (s.handler wid) y
          ∧ r.pc = w.pc ∧ r.async = true ∧ r.cause = p.trec.cause ∧ y.pend = w.pend.filter (fun x => x.code ≠ p.code) ∧ t.mem = s.mem
          ∧ ((t.returnFromHandler wid).wave? wid).map Wave.wait =
              some (if w.wait ∈ [Wait.no, .scoreboard, .fetch, .queue, .sleep] then .no else w.wait))
    ∧ (∀ p, s.canRun w = true → w.atBoundary = true → w.mode.getLsbD 9 = false → firstPending w.pend = some p → p.code = 63#6 →
        ∃ t y, exec (.asyncCauseTaken wid) s = .next t ∧ t.wave? wid = some y ∧ y.stopped = true ∧ y.mcheck = true ∧ y.stall = 1#4 ∧ y.pc = w.pc)
    ∧ (∀ ps p, firstPending ps = some p → p ∈ ps ∧
        (let rank (c : BitVec 6) : Nat := if c = 63#6 then 0 else if c = 48#6 then 1 else if c = 51#6 then 2 else if c = 50#6 then 3 else 4 + c.toNat
         ∀ x ∈ ps, rank p.code ≤ rank x.code))
    ∧ (∀ src, (∀ p ∈ w.pend, p.code ≠ 63#6) → ∃ t y r, exec (.uncorrectableError wid src) s = .next t ∧ t.wave? wid = some y
        ∧ y = { w with pend := w.pend ++ [⟨63#6, r⟩] } ∧ r.cause = 63#6 ∧ r.detail = BitVec.ofNat 16 src ∧ r.async = true)
    ∧ (∀ src, (∃ p ∈ w.pend, p.code = 63#6) → ∃ t y, exec (.uncorrectableError wid src) s = .next t ∧ t.wave? wid = some y
        ∧ y.pend.map Pending.code = w.pend.map Pending.code ∧ (∀ p ∈ y.pend, p.code = 63#6 → p.trec.ovf = true)))
  ∧ (∀ (s : State) (wid : Nat) (w : Wave), s.wave? wid = some w →
    let lim := (s.part (s.partOfWave wid)).wdog.toNat
    (w.wait = .sleep → w.sleepEnd.toNat ≤ s.dieClk w.core ∨ w.preq = true →
        exec (.sleepExpiry wid) s = .next (s.updWave wid (fun y => { y with wait := .no, stage := 2, aux := 0, stall := 0#4 })))
    ∧ (w.wait ≠ .sleep ∨ (s.dieClk w.core < w.sleepEnd.toNat ∧ w.preq = false) → exec (.sleepExpiry wid) s = .next s)
    ∧ (lim ≠ 0 → w.stopped = false → w.barked = false → (∀ p ∈ w.pend, p.code ≠ 50#6) → lim * 1024 ≤ s.dieSince w.core w.lastIssue →
        ∃ t y r, exec (.watchdogExpiry wid) s = .next t ∧ t.wave? wid = some y ∧ y = { w with barked := true, pend := w.pend ++ [⟨50#6, r⟩] }
          ∧ r.cause = 50#6 ∧ r.info0 = w.stall.setWidth 32)
    ∧ (lim = 0 ∨ w.barked = true ∨ s.dieSince w.core w.lastIssue < lim * 1024 → exec (.watchdogExpiry wid) s = .next s)
    ∧ (∀ (p : Nat) (v : BitVec 64), s.partOfBlock w.blk = p → p < s.parts.length → (∀ q ∈ w.pend, q.code ≠ 51#6) →
        (s.waves.map Wave.wid).Nodup →
        ∃ t y r, exec (.dbgHalt p v) s = .next t ∧ t.wave? wid = some y ∧ y.pend = w.pend ++ [⟨51#6, r⟩] ∧ r.info0 = 1#32
          ∧ (t.part p).dbgCtl = v.extractLsb' 0 4 ||| 2#4))

/-- Pre-emption of a block (R267-R270). When its deadline of compute-die clocks has passed, every member not in its save has
cause 48 pending. Once every member has stopped and no copy of it runs, its record finds room in the save area and the block
leaves its core with its rows, for the head of its grid's queue or, saved by the slice rule, its tail. A restored block takes
its rows to its new core, and each member saved by its handler enters HANDLER with RESTORE, the cause of its save, %preq
clear, its mode kept and its registers at 0 (log entry 47); where that core is itself being emptied, has failed or is being swapped the block is pre-empted again (R405, R413, R414). The record
holds the cluster's lines only when no other block of the cluster is resident (R176); its bytes are open, and no other byte of memory
changes. That the tiles stay with the block and that the grid of the saved block is offered room first are the model's choices (log
entries 48, 120). -/
def Obligations.BlocksAreSavedAndRestored : Prop :=
  ∀ (s : State) (u : Nat) (b : Block), s.block? u = some b →
    (∀ r, b.pre = some r → b.status = .resident → r.expired = false →
        (s.part (s.partOfBlock u)).preDl.toNat ≤ s.dieSince b.core r.since →
        ∃ t, exec (.preemptDeadlineExpiry u) s = .next t
          ∧ (t.block? u).bind Block.pre = some { r with expired := true }
          ∧ ∀ w ∈ b.members, ∀ x, s.wave? w = some x → x.stopped = false → x.phase ≠ .save →
              ∃ y, t.wave? w = some y ∧ ∃ p ∈ y.pend, p.code = 48#6)
    ∧ (∀ r us g, b.pre = some r → b.status = .resident → r.why ≠ .swap → r.why ≠ .tadpole → s.membersSaved b = true → s.blockCopies u = false →
        s.recordRun (s.partOfBlock u) ((s.recordBytes b ((s.core b.core).acc.filter (fun x => x.owner = u)).length + 65535) / 65536) = some us →
        s.recordFault b.core (s.partOfBlock u) .store us = none → s.grid? b.grid = some g → b.core < s.cores.length → s.mem.wf →
        ∃ (t0 : State) (g0 : Grid) (b0 : Block), t0.grid? b.grid = some g0 ∧ t0.block? u = some b0
          ∧ b0 = { b with status := .saved, pre := none, savedRows := (s.core b.core).acc.filter (fun x => x.owner = u), recUnits := us }
          ∧ g0 = (if r.why = .slice then { g with qTail := g.qTail ++ [b.lin], headSince := if (s.head g).isSome then g.headSince else s.clk }
              else { g with qHead := b.lin :: g.qHead, headSince := s.clk, aged := false })
          ∧ (t0.core b.core).acc = (s.core b.core).acc.filter (fun x => x.owner ≠ u)
          ∧ t0.waves = s.waves
          ∧ (∀ q, (∀ l ∈ s.recordLines b.core (s.partOfBlock u)
                (s.recordBytes b ((s.core b.core).acc.filter (fun x => x.owner = u)).length) us, ¬(l.1 = .hbm ∧ q / 64 = l.2)) →
              t0.mem.hbm.read q = s.mem.hbm.read q)
          ∧ exec (.blockSave u) s = .next (s.markBoth (t0.settleWorlds.distribute (some b.grid))))
    ∧ (∀ k h, b.status = .restoring → (s.readCtx (s.partOfBlock u)) = (k, true, 0) → k.handler = h → h ≠ 0#64 →
        s.partOfBlock u < s.parts.length → b.core < s.cores.length →
        (s.loadCtx (s.partOfBlock u)).tickNow.recordFault b.core (s.partOfBlock u) .load b.recUnits = none →
        ∃ (t : State) (b' : Block), exec (.blockRestore u) s = .next ((t.arrivalPre u b.core).distribute none) ∧ t.block? u = some b'
          ∧ b' = { b with status := .resident, savedRows := [], pre := none, recUnits := [] }
          ∧ (t.core b.core).acc = (s.core b.core).acc ++ b.savedRows
          ∧ ∀ w ∈ b.members, ∀ x, s.wave? w = some x → x.phase = .save → ∃ y, t.wave? w = some y ∧ y.phase = .restore ∧ y.pc = h
              ∧ y.mode = x.mode ||| 0x300#32 ∧ y.emode = x.mode &&& ~~~0x300#32 ∧ y.exec = 0xFFFFFFFF#32 ∧ y.preq = false ∧ y.stopped = false
              ∧ ((y.trec.getD 0 0#64).getLsbD 14) = true ∧ (y.trec.getD 0 0#64).extractLsb' 0 6 = (x.trec.getD 0 0#64).extractLsb' 0 6
              ∧ (∀ r ∈ y.sregs, r = 0#32) ∧ y.acks = x.acks ∧ y.pend = x.pend)
    ∧ (∀ n, let mine (x : Block) : Prop := x.grid = b.grid ∧ x.uid ≠ b.uid ∧ x.status ≠ .saved
              ∧ ∃ c d, s.cluster? x = some c ∧ s.cluster? b = some d ∧ c.num = d.num
        ((∃ x ∈ s.blocks, mine x) → s.recordBytes b n = 4096 + 72 * b.lines.length + 1024 * n)
        ∧ ((∀ x ∈ s.blocks, ¬mine x) → s.recordBytes b n = 4096 + 72 * (b.lines.length + (s.clusterLines b).length) + 1024 * n))

/-! ## Atomics -/

/-- Atomics on one view of memory, one after another: each lane's old value, and the bytes after (R189). A lane is given with
its address and its operands B and C. -/
def Sys2Proof.atomSerial (op : Nat) (t : Ty) : List (Nat × Nat × Nat × Nat) → (Nat → Byte) → (Nat → Byte) × List (Nat × Nat)
  | [], m => (m, [])
  | (l, a, b, x) :: rest, m =>
    let n := t.width / 8
    let old := leNat ((List.range n).map (fun i => m (a + i)))
    let new := atomValue op t old b x
    let r := atomSerial op t rest (fun k => if a ≤ k ∧ k < a + n then BitVec.ofNat 8 (new / 2 ^ (8 * (k - a))) else m k)
    (r.1, (l, old) :: r.2)

/-- The nine atomics (R188-R190): the lanes of an instruction's last line, in HBM, with no faulting lane, no poison and room at
its level, are performed in ascending order, each on what the one before left: at the end the destination takes each lane's old value, those
of the lines performed before it among them, a helper lane's destination 0, the bytes at the instruction's level are those of the serial order, and the wave goes on. Below
device level no memory changes; at device level no byte outside the line. Another wave keeps everything but which bytes of an open
commit still stand at the block's or the cluster's level (R163). -/
def Obligations.AtomicsAreSerial : Prop :=
  ∀ (e : Enc) (s : State) (c : Cx),
    ∀ x ∈ [(0x90, Instr.atomAdd e), (0x91, .atomMin e), (0x92, .atomMax e), (0x93, .atomAnd e), (0x94, .atomOr e), (0x95, .atomXor e),
      (0x96, .atomExch e), (0x97, .atomCas e), (0x98, .atomInc e)],
    ∀ (line pline : Nat) (ss : Bool), Issued x.1 e s c →
    let lvl := scopeCode e
    let t := tyOf e
    let going : Bool := decide (c.w.stage = 9)
    let todo := c.atomPieces.filter (fun q => !(going && c.w.aux / 2 ^ q.lane % 2 = 1))
    let ls := storeLines false (todo.map (fun q => (q, 0)))
    let zero := c.accessLanes.filter c.isHelper
    let ops := todo.map (fun q => (q.lane, q.addr, c.src e.b t (c.readLane q.lane), c.src e.c t (c.readLane q.lane)))
    let view (u : State) (a : Nat) : Byte := (c.atomHeld u a).getD (u.mem.hbm.read (64 * pline + a % 64))
    let after := atomSerial x.1 t ops (view c.s)
    c.s.mem.wf → (going = false → c.w.stage = 0 ∧ (ordCode e ≤ 1 ∨ lvl = 0)) →
    (∀ q ∈ todo, q.addr / 64 = line ∧ q.addr % q.size = 0 ∧ c.atomCause q = none
      ∧ c.s.translate c.w.core c.part .atomic q.addr = .ok ⟨.hbm, 64 * pline + q.addr % 64, ss⟩) →
    c.s.poisonedAt .hbm pline = false → c.s.stackHeld .hbm pline = false → (if lvl = 0 then bufNeed c.w.buf ls ≤ bufFree c.w.buf else c.noRoom lvl ls = false) →
    (lvl = 2 → (c.s.cluster? c.b).isSome = true) → (c.s.part c.part).dbgCtl.getLsbD 3 = false → (c.s.part c.part).replayPh ≠ .running →
    (3 ≤ lvl → ss = false → (c.s.seUse (c.s.homeDie .hbm pline) ⟨.line, pline⟩).isSome = true) →
    ∃ (u : State) (y : Wave), exec x.2 s = .next u ∧ u.wave? c.wid = some y ∧ y.pc = nextPc c.w e ∧ y.wait = .no
      ∧ (let z := (c.atomOlds ++ after.2).foldl (fun w p => w.write e.dst (t.width = 64) p.1 p.2) (zero.foldl (fun w l => w.write e.dst (t.width = 64) l 0) c.w)
         y.vregs = z.vregs ∧ y.sregs = z.sregs ∧ y.kregs = c.w.kregs ∧ y.exec = c.w.exec)
      ∧ (∀ a, a / 64 = line → view u a = after.1 a)
      ∧ (lvl ≤ 2 → u.mem = c.s.mem)
      ∧ (∀ p, p / 64 ≠ pline → u.mem.hbm.read p = c.s.mem.hbm.read p)
      ∧ (∀ k, k ≠ c.wid → (u.wave? k).map (fun v => { v with staged := [] }) = (c.s.wave? k).map (fun v => { v with staged := [] })
          ∧ (lvl ≠ 1 → lvl ≠ 2 → u.wave? k = c.s.wave? k))

/-! ## Membership, roles and tasks -/

/-- blk.grow attaches as many waves as its operand, at most 31, the block's ceiling and the core's free room allow (R33), blk.leave
ends its wave's membership once its batches and acknowledgements are done (R35), and role marks the named members, all or none
(R39): the issuing wave switches at once when nothing of its own is outstanding, keeping what R40 lists, and the room that this
frees is offered (R55). The model's choices here: %exec becomes the real lanes at a switch (log entry 118), a switch waits for the end of a
handler (log entry 43), and freed room is offered first to the grid of the block that freed it (log entry 120). -/
def Obligations.WavesAttachLeaveAndSwitchRole : Prop :=
  ∀ (e : Enc) (s : State) (c : Cx), (∀ w ∈ c.s.waves, w.wid < c.s.fresh) → c.s.block? c.b.uid = some c.b → c.s.wave? c.wid = some c.w →
    c.s.grid? c.b.grid = some c.g →
    (Issued 0xA0 e s c → ∃ (k : Nat) (t : State) (y : Wave) (b : Block) (new : List Nat), exec (.blkGrow e) s = .next t
      ∧ t.wave? c.wid = some y ∧ y.pc = nextPc c.w e ∧ y.sregs = (c.w.write e.dst false 0 k).sregs ∧ y.buf = c.w.buf ∧ t.mem = c.s.mem
      ∧ t.block? c.b.uid = some b ∧ b.members = c.b.members ++ new ∧ new.length = k ∧ k ≤ min 31 (c.n32 e.a)
      ∧ (0 < k → c.b.members.length + k ≤ c.lrec.ceil + 1)
      ∧ (k < min 31 (c.n32 e.a) → t.canAttach b c.g = false)
      ∧ (∀ w ∈ new, ∃ z, t.wave? w = some z ∧ z.pc = c.lrec.attach ∧ z.exec = 0xFFFFFFFF#32 ∧ z.role = 0#2 ∧ z.blk = c.b.uid ∧ z.mode = 0#32))
    ∧ (Issued 0xA1 e s c → c.w.opened = false → c.w.incomplete ≠ [] → exec (.blkLeave e) s = .next (c.s.stallWave c.wid .batch 4 0 0))
    ∧ (Issued 0xA1 e s c → c.w.opened = false → c.w.incomplete = [] → c.w.stage = 0 → c.w.acks ≠ 0 →
        exec (.blkLeave e) s = .next (c.s.stallWave c.wid .commit 8 0 0))
    ∧ (∀ s1 w1 b1, Issued 0xA1 e s c → c.w.opened = false → c.w.incomplete = [] → c.w.acks = 0 → (∀ f, c.commit 0 f = f s1) →
        s1.wave? c.wid = some w1 → w1.blk = c.w.blk → s1.block? c.w.blk = some b1 → c.b.uid = c.w.blk → s1.mayStep c.part 1 (agentOf c.w) 16 = true →
        (c.b.members.length = 1 → ∀ pl ∈ (s1.retireLines b1 c.g).2, s1.stackHeld pl.space (pl.pa / 64) = false) →
        ∃ (t : State) (b : Block), t.wave? c.wid = none ∧ (∀ k, k ≠ c.wid → t.wave? k = s1.wave? k) ∧ t.block? c.w.blk = some b
          ∧ b.members = b1.members.filter (fun w => w ≠ c.wid) ∧ b.lines = b1.lines ∧ b.scr = b1.scr
          ∧ (∀ n, b.members ≠ [] → n < 16 → n < b1.bars.length → (b1.bar .blk n).held = [] → c.wid ∉ (b1.bar .blk n).arrived → c.wid ∉ (b1.bar .blk n).attached →
              (b1.bar .blk n).arrived.length + 1 < (b1.bar .blk n).expect →
              b.bar .blk n = { b1.bar .blk n with expect := (b1.bar .blk n).expect - 1 })
          ∧ exec (.blkLeave e) s = .next (if b.members = [] then t.retireBlock c.w.blk (agentOf w1) else t.distribute (some b.grid)))
    ∧ (let j := c.n32 e.a
       let mask := BitVec.ofNat 32 (c.uni e.b .b32)
       let ws := c.s.named c.b mask
       (Issued 0xA2 e s c → 3 < j ∨ (j ≠ 0 ∧ roleEntry c.lrec j = 0#64) →
          exec (.role e) s = .next (c.s.raise c.wid c.lanes { code := 2#6, lanes := c.w.exec }))
       ∧ (Issued 0xA2 e s c → j ≤ 3 → j = 0 ∨ roleEntry c.lrec j ≠ 0#64 → c.s.rolesFit c.w.core c.lrec ws j = false →
          exec (.role e) s = .next (c.after (c.setK c.s 0#32)))
       ∧ (Issued 0xA2 e s c → j ≤ 3 → j = 0 ∨ roleEntry c.lrec j ≠ 0#64 → c.s.rolesFit c.w.core c.lrec ws j = true →
          let now : Bool := mask.getLsbD c.w.windex && !c.w.hnd && c.w.loads.isEmpty && c.w.claims.isEmpty
          ∃ t y, exec (.role e) s = .next (if now then (t.distribute (some c.b.grid)).advance c.wid (roleEntry c.lrec j) else c.after t)
            ∧ t.wave? c.wid = some y ∧ y.kregs = (c.w.write e.dst false 0 0xFFFFFFFF).kregs
            ∧ (∀ k z, k ≠ c.wid → c.s.wave? k = some z →
                t.wave? k = some (if k ∈ c.b.members ∧ mask.getLsbD z.windex = true then { z with rolePend := some (BitVec.ofNat 2 j) } else z))
            ∧ (now = true → y.role = BitVec.ofNat 2 j ∧ y.pc = roleEntry c.lrec j ∧ y.exec = c.w.real ∧ y.stack = [] ∧ y.sregs = c.w.sregs ∧ y.buf = c.w.buf
                ∧ y.acks = c.w.acks ∧ y.windex = c.w.windex ∧ y.rolePend = none
                ∧ y.vregs = (List.range (roleVregs c.lrec j)).map (fun i => c.w.vregs.getD i (List.replicate 32 0#32)))
            ∧ (now = false → y.role = c.w.role ∧ y.vregs = c.w.vregs
                ∧ y.rolePend = (if c.wid ∈ c.b.members ∧ mask.getLsbD c.w.windex = true then some (BitVec.ofNat 2 j) else c.w.rolePend))))

/-- Tasks (R203, R204): task.spawn commits to device level, raises the join object's COUNT and submits the record to its die's
scheduler; task.join names the task that the object signals, or sends its decrement at once when COUNT is 0; task.wait acquires
once COUNT is 0 and else waits with stall reason 3, its checks made once. A bad record address, a full COUNT and a task name above 65,535 are trap 23;
that ADDR of the first of them is the record's address is the model's reading (log entry 23). -/
def Obligations.TasksSpawnJoinAndWait : Prop :=
  ∀ (e : Enc) (s : State) (c : Cx),
    let a := c.addr e.a
    let j := c.addr e.b
    let die := dieOf c.w.core
    let trap23 (u : State) (at_ detail : Nat) : State :=
      u.raise c.wid c.lanes { code := 23#6, lanes := c.w.exec, addr := BitVec.ofNat 64 at_, detail := BitVec.ofNat 16 detail }
    let quiet (u : State) : Prop := u.mem.wf ∧ (u.part c.part).dbgCtl.getLsbD 3 = false ∧ (u.part c.part).replayPh ≠ .running
    (Issued 0xA5 e s c → j = 0 ∨ (∃ pl, c.object j = .ok pl) → a = 0 ∨ a % 64 ≠ 0 → exec (.taskSpawn e) s = .next (trap23 c.s a 5))
    ∧ (∀ s1, Issued 0xA5 e s c → a ≠ 0 → a % 64 = 0 → (∀ f, c.commit 3 f = f s1) → (s1.die die).spawns.length < 4096 → die < s1.dies.length →
        (j = 0 → ∃ t l, exec (.taskSpawn e) s = .next t ∧ (t.die die).spawns = (s1.die die).spawns ++ [(l, BitVec.ofNat 64 a)]
            ∧ l.part = c.part ∧ l.die = die ∧ l.cls = c.g.launch.cls ∧ l.status = 0#64 ∧ l.join = none ∧ t.mem = s1.mem)
        ∧ (∀ pl s2, j ≠ 0 → c.object j = .ok pl → quiet s1 → s1.seUse (s1.objDie pl) ⟨.object, pl.pa / 64⟩ = some s2 → s2.dies.length = s1.dies.length →
            (s1.joinCount pl = 0xFFFFFFFF#32 → exec (.taskSpawn e) s = .next (trap23 (s1.after8 c.wid c.iv) j 5))
            ∧ (s1.joinCount pl ≠ 0xFFFFFFFF#32 → ∃ t l, exec (.taskSpawn e) s = .next t ∧ l.join = some (BitVec.ofNat 64 j)
                ∧ (t.die die).spawns = (s2.die die).spawns ++ [(l, BitVec.ofNat 64 a)] ∧ t.joinCount pl = s1.joinCount pl + 1#32
                ∧ (t.objWord pl 0).extractLsb' 32 32 = (s1.objWord pl 0).extractLsb' 32 32 ∧ t.objWord pl 1 = s1.objWord pl 1
                ∧ ∀ q, ¬(pl.pa ≤ q ∧ q < pl.pa + 8) → t.mem.hbm.read q = s1.mem.hbm.read q)))
    ∧ (∀ pl, Issued 0xA6 e s c → c.object a = .ok pl → 65535 < c.n32 e.b → exec (.taskJoin e) s = .next (trap23 c.s a 5))
    ∧ (∀ pl s1, Issued 0xA6 e s c → c.object a = .ok pl → c.n32 e.b ≤ 65535 → quiet c.s → c.s.seUse (c.s.objDie pl) ⟨.object, pl.pa / 64⟩ = some s1 →
        ∃ t y, exec (.taskJoin e) s = .next t ∧ t.wave? c.wid = some y ∧ y.pc = nextPc c.w e ∧ t.joinCount pl = c.s.joinCount pl
          ∧ (c.s.joinCount pl = 0#32 → t.decrements = c.s.decrements ++ [(c.s.objDie pl, c.n32 e.b)] ∧ (t.objWord pl 1).getLsbD 16 = false)
          ∧ (c.s.joinCount pl ≠ 0#32 → t.decrements = c.s.decrements ∧ (t.objWord pl 1).extractLsb' 0 17 = BitVec.ofNat 17 (65536 + c.n32 e.b))
          ∧ (t.objWord pl 1).extractLsb' 17 47 = (c.s.objWord pl 1).extractLsb' 17 47)
    ∧ (∀ pl s1, Issued 0xA7 e s c → c.w.stage ≠ 11 → c.object a = .ok pl → c.s.seUse (c.s.objDie pl) ⟨.object, pl.pa / 64⟩ = some s1 →
        (c.s.joinCount pl = 0#32 → exec (.taskWait e) s = .next (c.after (s1.acquire c.wid 3)))
        ∧ (∀ s2, c.s.joinCount pl ≠ 0#32 → s1.seUse (c.s.objDie pl) ⟨.waiter, c.wid⟩ = some s2 →
            exec (.taskWait e) s = .next ((s2.keepIssue c.wid c.iv).stallWave c.wid .task 3 11 pl.pa)))
    ∧ (∀ q : Place, Issued 0xA7 e s c → c.w.stage = 11 → q = { space := .hbm, pa := c.w.aux, ss := false } →
        (c.s.joinCount q = 0#32 → exec (.taskWait e) s = .next (c.after (c.s.acquire c.wid 3)))
        ∧ (∀ s2, c.s.joinCount q ≠ 0#32 → c.s.seUse (c.s.objDie q) ⟨.waiter, c.wid⟩ = some s2 →
            exec (.taskWait e) s = .next ((s2.keepIssue c.wid c.iv).stallWave c.wid .task 3 11 c.w.aux)))

/-! ## The scheduler -/

/-- What entering the waiting grids makes of a launch (R47): a grid with every block still to come, keyed by the partition's
SRND_KEY, and the distributor then offers free room (R55). -/
def Sys2Proof.Enters (s : State) (l : Launch) (t : State) : Prop :=
  ∃ (t0 : State) (g : Grid), t = t0.distribute none ∧ t0.grids = s.grids ++ [g] ∧ g.launch = l ∧ g.uid = s.fresh ∧ g.retired = 0 ∧ g.nextFresh = 0
    ∧ g.qHead = [] ∧ g.qTail = [] ∧ g.key = (s.part l.part).srndKey ∧ g.aged = false ∧ t0.fresh = s.fresh + 1 ∧ t0.mem = s.mem
    ∧ t0.waves = s.waves ∧ t0.blocks = s.blocks

/-- Launch packets, spawns and tasks (R44-R51, R204). A claimed slot whose packet is written is taken: that frees its slot and advances READ; a bad one
writes its completion word and nothing starts; a good one whose record passes enters the waiting grids at the higher of its
classes, or is held under its task's name until its counter is 0. A decrement lowers the counter, releases the launch with the
last, and is counted in TASK_LOST when the name is free. A malformed queue stops, and its QERR bit starts it again. Slices and
ageing (R42, R57, R58). When a grid has had both a resident and a waiting block for SLICE_IVL with no retirement, its interval
starts again and some of its own resident blocks, and no other block, are asked to save by the slice rule. A head that has
waited its class's limit is served at class 0; before its time an expiry changes nothing. -/
def Obligations.LaunchesTasksAndSlices : Prop :=
  (∀ (s : State) (p : Nat), p < 16 → p < s.parts.length → (s.part p).ending = false → (s.part p).halted = false →
    (∀ die x ws, die < s.dies.length → (s.die die).fwBusy = false → s.unitHeld 6 die = false → (s.die die).spawns.find? (fun x => x.1.part = p) = some x →
        (s.loadCtx p).readRecord x.1.die p x.2.toNat (x.1.queue.getD 0) = .ok ws → (s.loadCtx p).refusal p ws = none →
        ∃ t t0, exec (.launchPacket p (64 + die)) s = .next t ∧ t0.waves = s.waves ∧ t0.grids = s.grids ∧ (t0.die die).spawns = (s.die die).spawns.erase x
          ∧ Enters t0 { x.1 with record := parseRecord ws, cls := BitVec.ofNat 2 (max (parseRecord ws).prio.toNat x.1.cls.toNat) } t)
    ∧ (∀ q d bs s1 s2, q < 64 → (s.part p).qerr.getLsbD q = false → (s.part p).ctxDesc ≠ 0#64 → (s.loadCtx p).launchQueue p q = .ok d →
        d.enable = true → d.malformed = false → d.read.toNat < d.write.toNat →
        let s0 := s.loadCtx p
        let die := s0.queueDie p d.base
        let ws : List Dword := (List.range 8).map (fun i => BitVec.ofNat 64 (leNat ((bs.drop (8 * i)).take 8)))
        let w (i : Nat) : Dword := ws.getD i 0#64
        let reason := packetReason ws (fun n => (s.die die).tasks.any (fun x => x.name = n))
        (s.die die).fwBusy = false → s.unitHeld 6 die = false → s0.vread die p d.slotVa 64 = .ok bs → (w 0).extractLsb' 0 8 ≠ 0#8 →
        s0.vwrite die p d.slotVa (leBytes 8 0) = .ok s1 → s1.vwrite die p (d.va + 24) (leBytes 8 (d.read + 1#64).toNat) = .ok s2 →
        (∀ s3, reason ≠ 0 → (w 2).extractLsb' 0 3 = 0#3 → (w 2).extractLsb' 0 57 ≠ 0#57 →
            s2.vwrite die p ((w 2).extractLsb' 0 57).toNat (leBytes 8 (reason * 256 + 3)) = .ok s3 →
            ∃ t, exec (.launchPacket p q) s = .next t ∧ t.mem = s3.mem ∧ t.grids = s.grids ∧ t.waves = s.waves)
        ∧ (∀ rs, reason = 0 → (s2.loadCtx p).readRecord die p ((w 1).extractLsb' 0 57).toNat q = .ok rs → (s2.loadCtx p).refusal p rs = none →
            let l : Launch :=
              { part := p, die := die, queue := some q, record := parseRecord rs, cls := BitVec.ofNat 2 (max (parseRecord rs).prio.toNat d.cls)
                status := ((w 2).extractLsb' 0 57).setWidth 64, sigEn := (w 3).getLsbD 16, sigDie := ((w 3).extractLsb' 17 1).toNat
                sigTask := ((w 3).extractLsb' 0 16).toNat, join := none }
            let deps := ((w 0).extractLsb' 32 16).toNat
            let name := ((w 0).extractLsb' 16 16).toNat
            ((w 0).extractLsb' 0 8 ≠ 2#8 ∨ deps = 0 →
              ∃ t t0, exec (.launchPacket p q) s = .next t ∧ t0.mem = s2.mem ∧ t0.waves = s.waves ∧ t0.grids = s.grids ∧ Enters t0 l t)
            ∧ ((w 0).extractLsb' 0 8 = 2#8 → deps ≠ 0 → die < s.dies.length →
              ∃ t, exec (.launchPacket p q) s = .next t ∧ t.mem = s2.mem ∧ t.grids = s.grids
                ∧ (t.die die).tasks = (s.die die).tasks ++ [{ name := name, count := deps, launch := l }])))
    ∧ (∀ q d, q < 64 → (s.part p).qerr.getLsbD q = false → (s.part p).ctxDesc ≠ 0#64 → (s.loadCtx p).launchQueue p q = .ok d →
        d.enable = true → d.malformed = true →
        ∃ t, exec (.launchPacket p q) s = .next t ∧ (t.part p).qerr = (s.part p).qerr ||| (1#64 <<< q) ∧ t.grids = s.grids ∧ t.mem = s.mem)
    ∧ (∀ v, ∃ t, exec (.qerrWrite p v) s = .next t ∧ (t.part p).qerr = (s.part p).qerr &&& ~~~v ∧ t.mem = s.mem ∧ t.grids = s.grids
        ∧ ∀ r, r ≠ p → t.part r = s.part r)
    ∧ (∀ k die name, s.decrements[k]? = some (die, name) → (s.die die).fwBusy = false → s.unitHeld 6 die = false → die < s.dies.length →
        ((∀ x ∈ (s.die die).tasks, x.name ≠ name) → ∃ t, exec (.taskDecrement k) s = .next t ∧ t.decrements = s.decrements.eraseIdx k
            ∧ (t.die die).taskLost.toNat = min (2 ^ 32 - 1) ((s.die die).taskLost.toNat + 1) ∧ (t.die die).tasks = (s.die die).tasks)
        ∧ (∀ x, (s.die die).tasks.find? (fun x => x.name = name) = some x → 1 < x.count →
            ∃ t, exec (.taskDecrement k) s = .next t ∧ t.decrements = s.decrements.eraseIdx k ∧ t.grids = s.grids
            ∧ (t.die die).tasks.find? (fun x => x.name = name) = some { x with count := x.count - 1 }
            ∧ ∀ n, n ≠ name → (t.die die).tasks.find? (fun x => x.name = n) = (s.die die).tasks.find? (fun x => x.name = n))
        ∧ (∀ x, (s.die die).tasks.find? (fun x => x.name = name) = some x → x.count = 1 →
            ∃ t t0, exec (.taskDecrement k) s = .next t ∧ t0.decrements = s.decrements.eraseIdx k ∧ (∀ y ∈ (t0.die die).tasks, y.name ≠ name)
            ∧ t0.mem = s.mem ∧ t0.waves = s.waves ∧ t0.grids = s.grids ∧ Enters t0 x.launch t)))
  ∧ (∀ (s : State) (u : Nat) (g : Grid), s.grid? u = some g → (s.blocks.map Block.uid).Nodup →
    let ivl := ((s.part g.launch.part).sliceIvl.extractLsb' 0 20).toNat
    let lim := if g.launch.cls = 0#2 then 0 else ((s.part g.launch.part).ageLimit.extractLsb' (16 * (g.launch.cls.toNat - 1)) 16).toNat
    (s.bothKinds g = true → (s.part g.launch.part).swapping = false → 1400 * ivl ≤ (s.clk - g.sliceFrom).toNat →
        ∃ (t : State) (us : List Nat), exec (.sliceExpiry u) s = .next t ∧ t.grid? u = some { g with sliceFrom := s.clk } ∧ t.mem = s.mem
          ∧ (∀ b ∈ us, ∃ x, s.block? b = some x ∧ x.grid = u ∧ x.status = .resident ∧ x.pre = none)
          ∧ (∀ b x, s.block? b = some x → b ∉ us → t.block? b = some x)
          ∧ ∀ b ∈ us, ∃ x y r, s.block? b = some x ∧ t.block? b = some y ∧ y = { x with pre := some r } ∧ r.why = .slice ∧ r.since = s.clk
            ∧ ∀ w ∈ x.members, ∀ z, s.wave? w = some z → ∃ z', t.wave? w = some z' ∧ z'.preq = true ∧ z'.pc = z.pc)
    ∧ (s.bothKinds g = false ∨ (s.part g.launch.part).swapping = true ∨ (s.clk - g.sliceFrom).toNat < 1400 * ivl →
        exec (.sliceExpiry u) s = .next s)
    ∧ ((s.head g).isSome = true → g.aged = false → lim ≠ 0 → lim * 14000 ≤ (s.clk - g.headSince).toNat →
        ∃ t0, exec (.ageingExpiry u) s = .next (State.distribute t0 none) ∧ t0.grid? u = some { g with aged := true }
          ∧ (∀ k, k ≠ u → t0.grid? k = s.grid? k) ∧ t0.waves = s.waves ∧ t0.blocks = s.blocks ∧ t0.mem = s.mem
          ∧ ∀ h, h ≠ 0 → ({ g with aged := true } : Grid).effClass < h)
    ∧ ((s.head g).isSome = false ∨ g.aged = true ∨ lim = 0 ∨ (s.clk - g.headSince).toNat < lim * 14000 → exec (.ageingExpiry u) s = .next s))

/-! ## Tensor entries, rings and copies -/

/-- tset and tget (R232, R235). tset waits for its wave's commands, writes the word at device level, and no descriptor cache keeps
the entry; tget reads the word as its die's cache holds it, and of an entry that no cache holds the word in memory, which it
then caches. An id above 1,023 or a word above 7 is trap 2. Ring instructions (R238-R240). ring.set gives a ring its tiles and
starts its counters at 0, with trap 2 for a reserved bit or an id above 1,023, trap 21 beyond the allotment, and a wait while
a command names the ring. ring.adv fills the next entries: their lines are recorded, their tiles become the engines' and TAIL
passes them. ring.rd reads TAIL and HEAD. That a tget of an entry that its die's cache does not hold reads device level, and that the
cache then holds it, is the model's reading (log entry 24). -/
def Obligations.TensorsAndRings : Prop :=
  (∀ (e : Enc) (s : State) (c : Cx),
    let id := c.n32 e.a
    let i := c.n32 e.b
    let die := dieOf c.w.core
    let at_ := c.s.ttBase c.part + 64 * id
    (∀ x ∈ [(Instr.tset e, 0xB0), (.tget e, 0xB1)], Issued x.2 e s c → 1023 < id ∨ 7 < i →
        exec x.1 s = .next (c.s.raise c.wid c.lanes { code := 2#6, lanes := c.w.exec }))
    ∧ (Issued 0xB0 e s c → id ≤ 1023 → i ≤ 7 → (∃ k ∈ c.s.cmds, k.wid = some c.wid) →
        exec (.tset e) s = .next (c.s.stallWave c.wid .queue 9 0 0))
    ∧ (∀ s1, Issued 0xB0 e s c → id ≤ 1023 → i ≤ 7 → (∀ k ∈ c.s.cmds, k.wid ≠ some c.wid) → (c.s.part c.part).dbgCtl.getLsbD 3 = false →
        (c.s.part c.part).replayPh ≠ .running → c.s.vwrite die c.part (at_ + 8 * i) (leBytes 8 (c.uni e.c .b64)) = .ok s1 →
        ∃ t y, exec (.tset e) s = .next t ∧ t.wave? c.wid = some y ∧ y.pc = nextPc c.w e ∧ y.vregs = c.w.vregs ∧ y.sregs = c.w.sregs ∧ y.buf = c.w.buf
          ∧ t.mem = s1.mem ∧ t.dies.length = c.s.dies.length
          ∧ (∀ d, ∀ q ∈ (t.die d).tcache, ¬(q.1 = c.part ∧ q.2.1 = id))
          ∧ (∀ d, ∀ q ∈ (c.s.die d).tcache, ¬(q.1 = c.part ∧ q.2.1 = id) → q ∈ (t.die d).tcache)
          ∧ (∀ n, ∀ q ∈ (t.core n).stat, ¬(q.part = c.part ∧ q.id = id)))
    ∧ (Issued 0xB1 e s c → id ≤ 1023 → i ≤ 7 →
        (∀ q, (c.s.die die).tcache.find? (fun x => x.1 = c.part && x.2.1 = id) = some q →
            exec (.tget e) s = .next (c.after (c.s.updWave c.wid (fun w => w.write e.dst true 0 (q.2.2.getD i 0#64).toNat))))
        ∧ (∀ bs, (c.s.die die).tcache.find? (fun x => x.1 = c.part && x.2.1 = id) = none → c.s.vread die c.part at_ 64 = .ok bs →
            ∃ t y, exec (.tget e) s = .next t ∧ t.wave? c.wid = some y ∧ y.pc = nextPc c.w e ∧ t.mem = c.s.mem
              ∧ y.sregs = (c.w.write e.dst true 0 (leNat ((bs.drop (8 * i)).take 8))).sregs
              ∧ (die < c.s.dies.length → ∃ q ∈ (t.die die).tcache, q.1 = c.part ∧ q.2.1 = id ∧ (q.2.2.getD i 0#64).toNat = leNat ((bs.drop (8 * i)).take 8)))))
  ∧ (∀ (e : Enc) (s : State) (c : Cx), c.s.block? c.b.uid = some c.b → c.b.uid = c.w.blk →
    (let g := BitVec.ofNat 32 (c.n32 e.a)
     let f (lo n : Nat) : Nat := (g.extractLsb' lo n).toNat
     let count := f 6 6 + 1
     let size := f 12 6 + 1
     Issued 0xB5 e s c →
       ((f 21 11 ≠ 0 ∨ 1023 < c.n32 e.b) → exec (.ringSet e) s = .next (c.s.raise c.wid c.lanes { code := 2#6, lanes := c.w.exec }))
       ∧ (f 21 11 = 0 → c.n32 e.b ≤ 1023 → c.b.ntiles < f 0 6 + count * size →
          exec (.ringSet e) s = .next (c.s.raise c.wid c.lanes { code := 21#6, lanes := c.w.exec }))
       ∧ (f 21 11 = 0 → c.n32 e.b ≤ 1023 → f 0 6 + count * size ≤ c.b.ntiles → c.s.ringNamed c.b.uid (f 18 3) = true →
          exec (.ringSet e) s = .next (c.s.stallWave c.wid .ringEmpty 6 0 0))
       ∧ (f 21 11 = 0 → c.n32 e.b ≤ 1023 → f 0 6 + count * size ≤ c.b.ntiles → c.s.ringNamed c.b.uid (f 18 3) = false →
          ∃ t y b, exec (.ringSet e) s = .next t ∧ t.wave? c.wid = some y ∧ y.pc = nextPc c.w e ∧ t.block? c.b.uid = some b ∧ t.mem = c.s.mem
            ∧ b = { c.b with rings := c.b.rings.modify (f 18 3) (fun _ => { base := f 0 6, count := count, size := size, tensor := c.n32 e.b }) }))
    ∧ (let r := c.n32 e.a
       let n := c.n32 e.b
       let x := c.b.ring r
       let entry (i : Nat) : List Nat := x.tiles (x.itail + BitVec.ofNat 32 i)
       (Issued 0xB6 e s c → 7 < r ∨ n < 1 ∨ 64 < n ∨ x.count = 0 → exec (.ringAdv e) s = .next (c.s.raise c.wid c.lanes { code := 2#6, lanes := c.w.exec }))
       ∧ (Issued 0xB6 e s c → r ≤ 7 → r < c.b.rings.length → 1 ≤ n → n ≤ 64 → n ≤ x.count → c.w.stage = 0 → c.w.loads = [] → x.itail.toNat + n < 2 ^ 32 →
          x.tail = x.itail → x.filled = [] → x.drop = [] → (∀ i < n, x.free (x.itail + BitVec.ofNat 32 i) = true) →
          (∀ i < n, ∀ k ∈ entry i, c.b.engineOwned.getD k false = false) → (c.s.part c.part).dbgCtl.getLsbD 3 = false →
          (c.s.part c.part).replayPh ≠ .running → c.s.wave? c.wid = some c.w →
          ∃ t y b, exec (.ringAdv e) s = .next t ∧ t.wave? c.wid = some y ∧ y.pc = nextPc c.w e ∧ t.block? c.b.uid = some b ∧ t.mem = c.s.mem
            ∧ (b.ring r).tail = x.tail + BitVec.ofNat 32 n ∧ (b.ring r).itail = x.itail + BitVec.ofNat 32 n ∧ (b.ring r).head = x.head
            ∧ (b.ring r).base = x.base ∧ (b.ring r).count = x.count ∧ (b.ring r).fail = x.fail
            ∧ (∀ i < n, (b.ring r).lineOf (x.itail + BitVec.ofNat 32 i) = BitVec.ofNat 32 (c.n32 e.c) + BitVec.ofNat 32 i)
            ∧ (∀ k, b.engineOwned[k]? = c.b.engineOwned[k]?.map (fun o => o || decide (∃ i < n, k ∈ entry i)))
            ∧ (∀ q, q ≠ r → b.ring q = c.b.ring q) ∧ (scrLines c.w = [] → b.scr = c.b.scr) ∧ b.tags = c.b.tags)
       ∧ (Issued 0xB6 e s c → r ≤ 7 → r < c.b.rings.length → 1 ≤ n → n ≤ 64 → x.count ≠ 0 → c.w.stage = 0 → x.free x.itail = false →
          ∃ t y b, exec (.ringAdv e) s = .next t ∧ t.wave? c.wid = some y ∧ y.pc = c.w.pc ∧ y.wait = .ringEmpty ∧ y.stall = 6#4
            ∧ t.block? c.b.uid = some b ∧ (b.ring r) = { x with itail := x.itail + BitVec.ofNat 32 n } ∧ t.mem = c.s.mem))
    ∧ (Issued 0xB7 e s c → (7 < c.n32 e.a → exec (.ringRd e) s = .next (c.s.raise c.wid c.lanes { code := 2#6, lanes := c.w.exec }))
        ∧ (c.n32 e.a ≤ 7 → exec (.ringRd e) s = .next (c.after (c.s.updWave c.wid (fun w =>
            w.write e.dst true 0 ((c.b.ring (c.n32 e.a)).tail.toNat * 2 ^ 32 + (c.b.ring (c.n32 e.a)).head.toNat)))))))

/-- No stack activates its firmware and no service action runs, so no request of a die's unit is held back (R413). -/
def Sys2Proof.Calm (s : State) : Prop := s.stks.any Stack.fwBusy = false ∧ s.hub.services.any Service.running = false

/-- Copy instructions (R244, R246, R255). cp.push claims the queue's next slot, writes its packet there and adds the command to
the wave's open batch; a bad packet or queue is trap 38, a full command queue holds it. cp.close makes the open batch the next
numbered one; cp.wait acquires once the batches are complete, with trap 38 when one has failed, and else waits with reason 4.
The copy engine (R172, R241, R243, R245). A packet whose command may run, or one of KIND 1 that the host wrote, is taken from
its slot and starts; a bad one of the host's is counted in BADPKT, a malformed queue stops, and CQERR starts it again. A
started copy moves a chunk of at most a line, posts a record at a line that has no translation and waits there, fails at any other fault, and at
its end returns its tiles, completes its batch and decrements its task. The model's choices here: the unit of a move is at most a line (log entry
62), a fault that R245 does not name (24, 25) fails a packet like those that it names (log entry 65), and a cp.push that waits for its slot keeps
its packet and entry (log entry 73). -/
def Obligations.CopiesMoveBytes : Prop :=
  (∀ (e : Enc) (s : State) (c : Cx), c.s.wave? c.wid = some c.w →
    let cq := c.n32 e.a
    let die := dieOf c.w.core
    let trap38 (d : Nat) : State := c.s.raise c.wid c.lanes { code := 38#6, lanes := c.w.exec, detail := BitVec.ofNat 16 d }
    (∀ m q, Issued 0xB2 e s c → Sel.of e.b = .s m → c.w.stage = 0 → cq ≤ 15 →
        let ws : List Dword := (List.range 8).map (fun j => c.w.sget (m + 2 * j + 1) ++ c.w.sget (m + 2 * j))
        let kind := pktKind ws
        let r := pkt ws 0 10 8
        let n := pktCount ws
        let ok := pktOk ws = true ∧ c.b.pktFits ws = true
        (¬ok → exec (.cpPush e) s = .next (trap38 1))
        ∧ (ok → c.s.copyQueue die c.part cq = .ok q → q.enable = false ∨ q.malformed = true ∨ (c.s.part c.part).cqerr.getLsbD cq = true →
            exec (.cpPush e) s = .next (trap38 2))
        ∧ (∀ tt s0 s1 q1 s2, ok → c.s.copyQueue die c.part cq = .ok q → q.enable = true → q.malformed = false → (c.s.part c.part).cqerr.getLsbD cq = false →
            (if kind = 2 then c.tensor (c.b.ring r).tensor else .ok ([], c.s)) = .ok (tt, s0) →
            (kind = 2 → pkt ws 0 63 32 + n ≤ TEntry.outer tt ∧ c.b.slicesFit tt r (c.b.ring r).itail.toNat n (pkt ws 0 63 32) = true) →
            (c.s.queueFull c.w.core = true → exec (.cpPush e) s = .next (c.s.stallWave c.wid .queue 9 0 0))
            ∧ (∀ pl sa, Calm c.s → c.s.queueFull c.w.core = false → (c.s.part c.part).dbgCtl.getLsbD 3 = false → (c.s.part c.part).replayPh ≠ .running →
              s0.translateDie die c.part .store (q.va + 16) = .ok pl →
              (if pl.space = .hbm ∧ pl.ss = false then s0.seUse (s0.objDie pl) ⟨.line, pl.pa / 64⟩ else some s0) = some sa →
              sa.vwrite die c.part (q.va + 16) (leBytes 8 (q.write + 1#64).toNat) = .ok s1 → s1.copyQueue die c.part cq = .ok q1 →
              q.write.toNat - q1.read.toNat < 2 ^ q1.size →
              s1.vwrite die c.part (q1.base + 64 * (q.write.toNat % 2 ^ q1.size)) (ws.flatMap (fun w => leBytes 8 w.toNat)) = .ok s2 →
              ∃ t y k d, exec (.cpPush e) s = .next t ∧ t.wave? c.wid = some y ∧ y.pc = nextPc c.w e ∧ y.openBatch = c.w.openBatch ++ [k.id]
                ∧ t.mem = s2.mem ∧ t.cmds = c.s.cmds ++ [k] ∧ k.wid = some c.wid ∧ k.blk = c.b.uid ∧ k.core = c.w.core ∧ k.kind = .copy d
                ∧ d.part = c.part ∧ d.cq = cq ∧ d.slot = q.write.toNat ∧ d.packet = ws ∧ d.started = false ∧ d.failed = none
                ∧ (kind = 1 → k.reads = [.glob c.part (pkt ws 2 56 0) (pkt ws 2 56 0 + n)] ∧ k.writes = [.glob c.part (pkt ws 3 56 0) (pkt ws 3 56 0 + n)])
                ∧ (kind = 2 → r < c.b.rings.length → c.s.block? c.b.uid = some c.b → d.seq = (c.b.ring r).itail.toNat
                    ∧ (t.block? c.b.uid).map (fun b => (b.ring r).itail) = some ((c.b.ring r).itail + BitVec.ofNat 32 n)))))
    ∧ (Issued 0xB3 e s c →
        (16 ≤ c.w.incomplete.length → exec (.cpClose e) s = .next (c.s.stallWave c.wid .batch 4 0 0))
        ∧ (c.w.incomplete.length < 16 → ∃ t y, exec (.cpClose e) s = .next t ∧ t.wave? c.wid = some y ∧ y.pc = nextPc c.w e
            ∧ y.batchNo = c.w.batchNo + 1#32 ∧ y.openBatch = [] ∧ y.sregs = (c.w.write e.dst false 0 (c.w.batchNo + 1#32).toNat).sregs
            ∧ (c.w.openBatch ≠ [] → ∃ f, y.closed = c.w.closed ++ [{ num := c.w.batchNo + 1#32, cmds := c.w.openBatch, failed := f }])
            ∧ t.mem = c.s.mem ∧ t.cmds = c.s.cmds))
    ∧ (Issued 0xB4 e s c →
        let upTo (b : Batch) : Prop := (BitVec.ofNat 32 (c.n32 e.a) - b.num).toNat < 2 ^ 31
        ((∃ b ∈ c.w.closed, upTo b ∧ b.cmds ≠ []) → exec (.cpWait e) s = .next (c.s.stallWave c.wid .batch 4 0 0))
        ∧ ((∀ b ∈ c.w.closed, upTo b → b.cmds = [] ∧ b.failed = none) → exec (.cpWait e) s = .next (c.after (c.s.acquire c.wid 3)))
        ∧ (∀ b f, (∀ b ∈ c.w.closed, upTo b → b.cmds = []) → c.w.closed.filter (fun b => decide ((BitVec.ofNat 32 (c.n32 e.a) - b.num).toNat < 2 ^ 31)) = [b] → b.failed = some f →
            exec (.cpWait e) s = .next (((c.s.acquire c.wid 3).after8 c.wid c.iv).raise c.wid c.lanes
              { code := 38#6, lanes := c.w.exec, detail := 3#16, addr := f.addr, orig := f.cause, info0 := if f.isOut then 1#32 else 0#32 }))))
  ∧ ((∀ (s : State) (p cq : Nat) (q : CopyQueue), cq ≤ 15 → p < s.parts.length → (s.part p).cqerr.getLsbD cq = false → (s.part p).ctx.isSome = true →
      (s.part p).halted = false → s.hub.ckptRun = false → s.copyQueue 0 p cq = .ok q → q.enable = true → Calm s →
      (s.part p).dbgCtl.getLsbD 3 = false → (s.part p).replayPh ≠ .running →
      let die := s.queueDie p q.base
      (s.die die).fwBusy = false → s.unitHeld 1 die = false →
      (q.malformed = true → ∃ t, exec (.copyPacket p cq) s = .next t ∧ (t.part p).cqerr = (s.part p).cqerr ||| (1#16 <<< cq) ∧ t.mem = s.mem ∧ t.cmds = s.cmds)
      ∧ (∀ bs s1 s2, q.malformed = false → q.read.toNat < q.write.toNat → s.vread die p (q.slotVa q.read.toNat) 64 = .ok bs →
          s.vwrite die p (q.slotVa q.read.toNat) (leBytes 8 0) = .ok s1 → s1.vwrite die p (q.va + 24) (leBytes 8 (q.read + 1#64).toNat) = .ok s2 →
          let ws : List Dword := (List.range 8).map (fun i => BitVec.ofNat 64 (leNat ((bs.drop (8 * i)).take 8)))
          let mine (k : CopyCmd) : Prop := k.part = p ∧ k.cq = cq ∧ k.slot = q.read.toNat ∧ k.started = false
          pktKind ws ≠ 0 →
          (∀ c k, (∀ x ∈ s.cmds, ∀ y, x.kind = .copy y → mine y → x = c) → c ∈ s.cmds → c.kind = .copy k → mine k → s.mayRun c = true →
            ∃ t0, t0.mem = s2.mem ∧ t0.cmd? c.id = (s.cmd? c.id).map (fun x => { x with kind := .copy { k with started := true }, began := true })
              ∧ exec (.copyPacket p cq) s = .next (State.copyStep t0 c { k with started := true } die))
          ∧ ((∀ x ∈ s.cmds, ∀ y, x.kind = .copy y → ¬mine y) →
              (pktOk ws = true → pktKind ws = 1 → ∃ t0 c k, t0.mem = s2.mem ∧ t0.cmds = s.cmds ++ [c] ∧ c.wid = none ∧ c.began = true ∧ c.kind = .copy k ∧ k.part = p
                ∧ k.packet = ws ∧ k.started = true ∧ k.pos = 0 ∧ exec (.copyPacket p cq) s = .next (State.copyStep t0 c k die))
              ∧ (∀ s3, pktOk ws = false ∨ 2 ≤ pktKind ws → q.bad.toNat % 2 ^ 32 ≠ 2 ^ 32 - 1 →
                  s2.vwrite die p (q.va + 32) (leBytes 8 (q.bad + 1#64).toNat) = .ok s3 →
                  ∃ t, exec (.copyPacket p cq) s = .next t ∧ t.mem = s3.mem ∧ t.cmds = s.cmds))))
  ∧ (∀ (s : State) (c : Cmd) (k : CopyCmd), s.cmd? c.id = some c → c.kind = .copy k → k.started = true → k.landed = false → (s.part k.part).halted = false → s.unitHeld 1 (s.copyDie k) = false → Calm s →
      let kind := pktKind k.packet
      let src := pkt k.packet 2 56 0 + k.pos
      let dst := pkt k.packet 3 56 0 + k.pos
      let n := min (k.total - k.pos) (min (64 - src % 64) (64 - dst % 64))
      let die := s.copyDie k
      let engine (a : Nat) : Bool := match s.block? c.blk with | some b => b.engineOwned.getD (a / 4096) false | none => false
      let quiet : Prop := (s.part k.part).dbgCtl.getLsbD 3 = false ∧ (s.part k.part).replayPh ≠ .running
      let i : Instr := if k.waitAt.isSome then .copyFaultResume c.id else .copyPacketComplete c.id
      (∀ bs s1, k.pos < k.total → k.failed = none → kind = 1 → quiet → s.vread die k.part src n = .ok bs → s.vwrite die k.part dst bs = .ok s1 →
        ∃ t x, exec i s = .next t ∧ t.mem = s1.mem ∧ t.cmd? c.id = some x ∧ x = { c with kind := .copy { k with pos := k.pos + n, waitAt := none } })
      ∧ (∀ bs b, k.pos < k.total → k.failed = none → kind = 3 → s.block? c.blk = some b → b.scr.wf → engine dst = true → s.vread die k.part src n = .ok bs →
        ∃ t x b', exec i s = .next t ∧ t.mem = s.mem ∧ t.cmd? c.id = some x ∧ x = { c with kind := .copy { k with pos := k.pos + n, waitAt := none } }
          ∧ t.block? c.blk = some b' ∧ (∀ j < bs.length, b'.scr.read (dst + j) = bs.getD j 0#8)
          ∧ (∀ a, ¬(dst ≤ a ∧ a < dst + bs.length) → b'.scr.read a = b.scr.read a))
      ∧ (∀ b s1, k.pos < k.total → k.failed = none → kind = 4 → quiet → s.block? c.blk = some b → engine src = true →
          s.vwrite die k.part dst (b.scr.readN src n) = .ok s1 →
          ∃ t x, exec i s = .next t ∧ t.mem = s1.mem ∧ t.cmd? c.id = some x ∧ x = { c with kind := .copy { k with pos := k.pos + n, waitAt := none } })
      ∧ (k.pos < k.total → k.failed = none → (kind = 3 ∧ engine dst = false) ∨ (kind = 4 ∧ engine src = false ∧ quiet) → exec i s = .next s)
      ∧ (∀ a f, k.pos < k.total → k.failed = none → kind = 1 → quiet → s.vread die k.part src n = .error (f, a) →
          (f = 16#6 → k.waitAt ≠ some (BitVec.ofNat 64 a) → ∃ (t : State) (x : Cmd), exec i s = .next (t.postFault k.part 1 16#6 (BitVec.ofNat 64 a) k.cq die)
            ∧ t.cmd? c.id = some x ∧ x = { c with kind := .copy { k with waitAt := some (BitVec.ofNat 64 a) } } ∧ t.mem = s.mem)
          ∧ (f ≠ 16#6 → ∃ t x, exec i s = .next t ∧ t.mem = s.mem ∧ t.cmd? c.id = some x ∧ x = { c with kind := .copy { k with failed := some f, waitAt := none } }))
      ∧ (k.waitAt = none → k.total ≤ k.pos → k.failed = none → (k.packet.getD 0 0#64).getLsbD 12 = false →
          ∃ t, exec (.copyPacketComplete c.id) s = .next t ∧ t.cmds = s.cmds.filter (fun x => x.id ≠ c.id) ∧ t.mem = s.mem
            ∧ t.decrements = s.decrements ++ (if (k.packet.getD 0 0#64).getLsbD 13 then [(pkt k.packet 0 14 14, pkt k.packet 0 31 16)] else [])
            ∧ (∀ w x, c.wid = some w → s.wave? w = some x → ∃ y, t.wave? w = some y ∧ y = x.finishCmd c.id none)
            ∧ (kind = 3 → ∀ b, s.block? c.blk = some b → ∃ b', t.block? c.blk = some b' ∧ b'.scr = b.scr ∧ ∀ j, b'.engineOwned[j]? = b.engineOwned[j]?.map
                (fun o => o && !(decide (pkt k.packet 3 56 0 / 4096 ≤ j) && decide (j ≤ (pkt k.packet 3 56 0 + k.total - 1) / 4096) && decide (k.total ≠ 0))))))
  ∧ (∀ (s : State) (p : Nat) (v : Dword), p < s.parts.length →
      ∃ t, exec (.cqerrWrite p v) s = .next t ∧ (t.part p).cqerr = (s.part p).cqerr &&& ~~~(v.extractLsb' 0 16) ∧ t.mem = s.mem ∧ ∀ r, r ≠ p → t.part r = s.part r))

/-! ## The accumulator store and the matrix engine -/

/-- acc.rd, acc.wr, acc.clr and acc.out (R251, R255). A row above 127 is trap 39 detail 3, another block's row detail 4, and a row
that an unfinished command uses holds the wave. acc.rd reads columns, 0 beyond 255; acc.wr makes the block the row's owner and
writes columns, the band record kept; acc.clr makes the rows +0 with record 1.0; acc.out queues its command in the open batch
and with .rs advances the lane's counter by its elements; that it checks its row range before its tensor is the model's reading (log entry 72). mx.row, mx.ldb, mx.resume and mx.prog (R247, R249): mx.row that
passes its checks takes the next entries of its rings, becomes the owner of its rows and joins the open batch; a tag that
differs is trap 6 and the first condition of R247 that fails trap 39 with its detail. mx.resume sets every stopped command of
the wave running again, or abandons each; mx.prog reads the oldest one's progress and state. -/
def Obligations.AccumulatorAndMatrixInstructions : Prop :=
  (∀ (e : Enc) (s : State) (c : Cx),
    let row := c.n32 e.a
    let col := c.n32 e.b
    let core := c.w.core
    let trap39 (d : Nat) : State := c.s.raise c.wid c.lanes { code := 39#6, lanes := c.w.exec, detail := BitVec.ofNat 16 d }
    let taken (first n : Nat) : Prop := ∃ r ∈ c.s.coreRows core, first ≤ r.row ∧ r.row < first + n ∧ r.owner ≠ c.b.uid
    let free (first n : Nat) : Prop := first + n ≤ 128 ∧ ¬taken first n
    (∀ x ∈ [(Instr.accRd e, 0xBC, row, 1), (.accWr e, 0xBD, row, 1), (.accClr e, 0xBE, row, c.n32 e.b)], Issued x.2.1 e s c →
      1 ≤ x.2.2.2 → x.2.2.2 ≤ 128 →
      (128 < x.2.2.1 + x.2.2.2 → exec x.1 s = .next (trap39 3))
      ∧ (x.2.2.1 + x.2.2.2 ≤ 128 → taken x.2.2.1 x.2.2.2 → exec x.1 s = .next (trap39 4))
      ∧ (free x.2.2.1 x.2.2.2 → c.s.rowsBusy core x.2.2.1 x.2.2.2 = true → exec x.1 s = .next (c.s.stallWave c.wid .queue 9 0 0)))
    ∧ (∀ d, Issued 0xBC e s c → free row 1 → c.s.rowsBusy core row 1 = false → Dst.of e.dst = .v d → c.s.wave? c.wid = some c.w →
        ∃ t y, exec (.accRd e) s = .next t ∧ t.wave? c.wid = some y ∧ y.pc = nextPc c.w e ∧ t.cores = c.s.cores ∧ t.mem = c.s.mem
          ∧ (∀ r l, r < c.w.vregs.length → l < 32 → (c.w.vregs.getD r []).length = 32 →
              y.vget r l = if r = d ∧ c.lanes.getLsbD l = true then
                (if 255 < col + l then 0#32
                 else if tyOf e = .f32 then BitVec.ofNat 32 ((c.s.accRow core row).read c.w.flush (col + l))
                 else (c.s.accRow core row).cols.getD (col + l) 0#32)
              else c.w.vget r l)
          ∧ y.sregs = c.w.sregs ∧ y.kregs = c.w.kregs)
    ∧ (Issued 0xBD e s c → free row 1 → c.s.rowsBusy core row 1 = false → core < c.s.cores.length →
        ∃ t y, exec (.accWr e) s = .next t ∧ t.wave? c.wid = some y ∧ y.pc = nextPc c.w e ∧ y.vregs = c.w.vregs
          ∧ (t.accRow core row).bandA = (c.s.accRow core row).bandA ∧ (t.accRow core row).bandB = (c.s.accRow core row).bandB
          ∧ (t.accRow core row).owner = c.b.uid
          ∧ ((c.s.accRow core row).cols.length = 256 → ∀ n, n < 256 → (t.accRow core row).cols.getD n 0#32 =
              (if col ≤ n ∧ n - col < 32 ∧ c.lanes.getLsbD (n - col) = true then BitVec.ofNat 32 (c.src e.c .b32 (n - col))
               else (c.s.accRow core row).cols.getD n 0#32))
          ∧ (∀ r, r ≠ row → t.accRow core r = c.s.accRow core r) ∧ (∀ k r, k ≠ core → t.accRow k r = c.s.accRow k r))
    ∧ (Issued 0xBE e s c → (c.n32 e.b < 1 ∨ 128 < c.n32 e.b → exec (.accClr e) s = .next (c.s.raise c.wid c.lanes { code := 2#6, lanes := c.w.exec }))
        ∧ (1 ≤ c.n32 e.b → free row (c.n32 e.b) → c.s.rowsBusy core row (c.n32 e.b) = false → core < c.s.cores.length →
          ∃ t y, exec (.accClr e) s = .next t ∧ t.wave? c.wid = some y ∧ y.pc = nextPc c.w e ∧ y.vregs = c.w.vregs ∧ y.opened = true
            ∧ (∀ r, row ≤ r → r < row + c.n32 e.b → t.accRow core r =
                { row := r, owner := c.b.uid, cols := List.replicate 256 0#32, bandA := 0x3F80#16, bandB := List.replicate 4 0x3F80#16 })
            ∧ (∀ r, ¬(row ≤ r ∧ r < row + c.n32 e.b) → t.accRow core r = c.s.accRow core r)))
    ∧ (∀ tt s1, Issued 0xBF e s c → c.n32 e.a ≤ 1023 → 1 ≤ c.n32 e.c → c.n32 e.c ≤ 128 → c.tensor (c.n32 e.a) = .ok (tt, s1) →
        (128 < c.n32 e.b + c.n32 e.c → exec (.accOut e) s = .next (trap39 3))
        ∧ (free (c.n32 e.b) (c.n32 e.c) → TEntry.ndim tt ≠ 1 ∨ TEntry.ty tt ≠ some (tyOf e) ∨ TEntry.layout tt ≠ 0 → exec (.accOut e) s = .next (trap39 6))
        ∧ (free (c.n32 e.b) (c.n32 e.c) → TEntry.ndim tt = 1 → TEntry.ty tt = some (tyOf e) → TEntry.layout tt = 0 → c.s.queueFull core = false →
          c.s.wave? c.wid = some c.w →
          ∃ t y k q, exec (.accOut e) s = .next t ∧ t.wave? c.wid = some y ∧ y.pc = nextPc c.w e ∧ t.cmds = c.s.cmds ++ [k] ∧ y.openBatch = c.w.openBatch ++ [k.id]
            ∧ t.mem = c.s.mem ∧ k.wid = some c.wid ∧ k.core = core ∧ k.kind = .accOut q ∧ q.tens = tt ∧ q.first = c.n32 e.b ∧ q.rows = c.n32 e.c
            ∧ q.flush = c.w.mode.getLsbD 0 ∧ q.pos = 0
            ∧ k.reads = (List.range (c.n32 e.c)).map (fun i => .row (c.n32 e.b + i))
            ∧ (let m := c.n32 e.c * min (TEntry.dim tt 0) 256
               (∀ l, c.lane0 = l → l < c.w.scnt.length → y.scnt.getD l 0#32 = (if rndCode e = 4 then c.w.scnt.getD l 0#32 + BitVec.ofNat 32 m else c.w.scnt.getD l 0#32))
               ∧ ∀ l, l ≠ c.lane0 → y.scnt.getD l 0#32 = c.w.scnt.getD l 0#32))))
  ∧ (∀ (e : Enc) (s : State) (c : Cx), c.s.block? c.b.uid = some c.b → c.s.wave? c.wid = some c.w →
    (let rows := (e.mod.extractLsb' 5 7).toNat + 1
     let bring := e.mod.getLsbD 2
     let first := c.n32 e.a
     let ra := c.n32 e.b
     let rb := c.n32 e.c
     let ar := c.b.ring ra
     let br := c.b.ring rb
     ∀ ta tb s1 s2, Issued 0xB8 e s c → ra ≤ 7 → rb ≤ (if bring then 7 else 1023) → c.tensor ar.tensor = .ok (ta, s1) →
       ({ c with s := s1 } : Cx).tensor (if bring then br.tensor else rb) = .ok (tb, s2) →
       let ks := TEntry.ksteps ta
       let tags : Bool := c.b.tagDiffers ta ra ar.ihead.toNat rows || (bring && c.b.tagDiffers tb rb br.ihead.toNat ks)
       let tagsBad := e.mod.getLsbD 3 = false ∧ tags = true
       (tagsBad → exec (.mxRow e) s = .next (c.s.raise c.wid c.lanes { code := 6#6, lanes := c.w.exec }))
       ∧ (∀ d, ¬tagsBad → c.mxBad ta tb ra rb first rows bring = some d →
          exec (.mxRow e) s = .next (c.s.raise c.wid c.lanes { code := 39#6, lanes := c.w.exec, detail := BitVec.ofNat 16 d }))
       ∧ (¬tagsBad → c.mxBad ta tb ra rb first rows bring = none → c.s.queueFull c.w.core = false → c.w.core < c.s.cores.length →
          ra < c.b.rings.length → rb < c.b.rings.length ∨ bring = false →
          ∃ t y b k q, exec (.mxRow e) s = .next t ∧ t.wave? c.wid = some y ∧ y.pc = nextPc c.w e ∧ y.openBatch = c.w.openBatch ++ [k.id]
            ∧ y.mxLast = (k.id, 1, 0) ∧ t.cmds = c.s.cmds ++ [k] ∧ t.mem = c.s.mem ∧ t.block? c.b.uid = some b ∧ k.wid = some c.wid ∧ k.kind = .mx q
            ∧ first + rows ≤ 128 ∧ q.first = first ∧ q.rows = rows ∧ q.z = e.mod.getLsbD 4 ∧ q.flush = c.w.mode.getLsbD 0 ∧ q.state = 1 ∧ q.progress = 0
            ∧ q.ha = ar.ihead.toNat ∧ q.ksteps = ks
            ∧ (bring = true → ra ≠ rb → q.hb = br.ihead.toNat ∧ (b.ring rb).ihead = br.ihead + BitVec.ofNat 32 ks)
            ∧ (bring = false ∨ ra ≠ rb → (b.ring ra).ihead = ar.ihead + BitVec.ofNat 32 rows)
            ∧ (∀ i < rows, .row (first + i) ∈ k.writes ∧ (t.accRow c.w.core (first + i)).owner = c.b.uid
                ∧ (t.accRow c.w.core (first + i)).cols = (c.s.accRow c.w.core (first + i)).cols)))
    ∧ (∀ tt s1, Issued 0xB9 e s c → c.n32 e.a ≤ 1023 → 1 ≤ c.n32 e.c → c.n32 e.c ≤ 2 → c.tensor (c.n32 e.a) = .ok (tt, s1) → c.s.queueFull c.w.core = false →
        ∃ t y k, exec (.mxLdb e) s = .next t ∧ t.wave? c.wid = some y ∧ y.pc = nextPc c.w e ∧ y.openBatch = c.w.openBatch ∧ t.cmds = c.s.cmds ++ [k]
          ∧ k.wid = some c.wid ∧ k.kind = .ldb { id := c.n32 e.a, tens := tt, first := c.n32 e.b, count := c.n32 e.c } ∧ t.mem = c.s.mem)
    ∧ (let stopped (k : MxCmd) : Prop := k.state = 2 ∨ k.state = 3
       Issued 0xBA e s c → (c.s.cmds.map Cmd.id).Nodup →
       (e.mod.getLsbD 0 = false → ∃ t y, exec (.mxResume e) s = .next t ∧ t.wave? c.wid = some y ∧ y.pc = nextPc c.w e ∧ t.blocks = c.s.blocks ∧ t.mem = c.s.mem
         ∧ t.cmds.length = c.s.cmds.length
         ∧ ∀ k ∈ c.s.cmds, (∀ q, k.kind = .mx q → k.wid = some c.wid → stopped q → t.cmd? k.id = some { k with kind := .mx { q with state := 1 } })
            ∧ ((∀ q, k.kind = .mx q → k.wid = some c.wid → ¬stopped q) → t.cmd? k.id = some k))
       ∧ (e.mod.getLsbD 0 = true → ∃ t y, exec (.mxResume e) s = .next t ∧ t.wave? c.wid = some y ∧ y.pc = nextPc c.w e ∧ t.cores = c.s.cores ∧ t.mem = c.s.mem
         ∧ ∀ k ∈ c.s.cmds, (∀ q, k.kind = .mx q → k.wid = some c.wid → stopped q → t.cmd? k.id = none)
            ∧ ((∀ q, k.kind = .mx q → k.wid = some c.wid → ¬stopped q) → t.cmd? k.id = some k)))
    ∧ (Issued 0xBB e s c →
       (∀ k q, (c.s.mxOf c.wid).head? = some (k, q) → exec (.mxProg e) s =
          .next (c.after (c.s.updWave c.wid (fun w => w.write e.dst true 0 (q.state * 2 ^ 32 + q.progress % 2 ^ 32)))))
       ∧ (c.s.mxOf c.wid = [] → exec (.mxProg e) s =
          .next (c.after (c.s.updWave c.wid (fun w => w.write e.dst true 0 (c.w.mxLast.2.1 * 2 ^ 32 + c.w.mxLast.2.2 % 2 ^ 32)))))))

/-- The matrix engine's work (R240, R248, R249, R251). A k-step that meets no mark and no fault replaces its row's 256 columns, the
row's bands at its first one, counts, and with the row's last pops its A entry, with the command's last ends it; it waits while an
entry is not filled; a FAIL mark or a fault stops the command, in state 2 for a missing translation and 3 otherwise, with trap 37
pending, no row changed. A fetch fills the stationary buffer. An acc.out writes its next line, waits at a missing translation, and
fails at any other fault. A stationary tile serves only the entry that it was fetched under. Units wait for a stack that activates its
firmware (R413), so the clauses that reach memory speak of a machine in which none does. -/
def Obligations.MatrixEngine : Prop :=
  (∀ (s : State) (c : Cmd) (k : MxCmd) (b : Block), s.cmd? c.id = some c → c.kind = .mx k → s.mayRun c = true → k.state = 1 → s.block? c.blk = some b →
      let r := k.progress / max 1 k.ksteps
      let kc := k.progress % max 1 k.ksteps
      let ar := b.ring k.aring
      let br := b.ring k.bsel
      let ea := BitVec.ofNat 32 (k.ha + r)
      let eb := BitVec.ofNat 32 (k.hb + kc)
      let last := kc + 1 = k.ksteps
      let ready := ar.ready ea = true ∧ (k.bring = true → br.ready eb = true)
      let turn := (last → ar.head = ea) ∧ (last → r + 1 = k.rows → k.bring = true → k.bsel ≠ k.aring → br.head = BitVec.ofNat 32 k.hb)
      let marked := ar.failed ea = true ∨ (k.bring = true ∧ br.failed eb = true)
      let part := s.partOfBlock c.blk
      let v : MxView := { s := s, die := dieOf c.core, part := part, scr := b.scr }
      let row := s.accRow c.core (k.first + r)
      let cb : Cmd := { c with began := true }
      let bSrc : MxSource := if k.bring then .entry (br.entryByte eb) kc
        else match (s.core c.core).stat.find? (fun x => x.part = part && x.id = k.bsel && x.ktile = kc && x.entry = k.bt) with | some x => .stat x.bytes | none => .device
      let line := (ar.lineOf ea).toNat
      let bands := if kc = 0 then v.bands k line else .ok (row.bandA, row.bandB)
      let columns := v.columns k row.cols (.entry (ar.entryByte ea) line) bSrc line kc (k.z && decide (kc = 0))
      (¬ready ∨ ¬turn → exec (.mxKstep c.id) s = .next (s.begin c))
      ∧ (∀ w x, ready → turn → c.wid = some w → s.wave? w = some x → marked →
          ∃ t y q, exec (.mxKstep c.id) s = .next t ∧ t.cores = s.cores ∧ t.mem = s.mem ∧ t.cmd? c.id = some q ∧ q = { cb with kind := .mx { k with state := 3 } }
            ∧ t.wave? w = some y ∧ ∃ p ∈ y.pend, p.code = 37#6)
      ∧ (∀ w x f a isA, ready → turn → ¬marked → Calm s → c.wid = some w → s.wave? w = some x → (∀ p ∈ x.pend, p.code ≠ 37#6) →
          (bands = .error (f, a, isA) ∨ (∃ z, bands = .ok z) ∧ columns = .error (f, a, isA)) →
          ∃ t y q p, exec (.mxKstep c.id) s = .next t ∧ t.cores = s.cores ∧ t.mem = s.mem ∧ t.cmd? c.id = some q
            ∧ q = { cb with kind := .mx { k with state := if f = 16#6 then 2 else 3 } } ∧ t.wave? w = some y ∧ y.pend = x.pend ++ [⟨37#6, p⟩]
            ∧ p.orig = f ∧ p.addr = BitVec.ofNat 64 a ∧ p.info0 = BitVec.ofNat 32 k.progress ∧ p.info1 = BitVec.ofNat 32 (k.name isA))
      ∧ (∀ z cols, ready → turn → ¬marked → Calm s → bands = .ok z → columns = .ok cols → c.core < s.cores.length →
          ∃ t, exec (.mxKstep c.id) s = .next t ∧ t.mem = s.mem ∧ t.accRow c.core (k.first + r) = { row with cols := cols, bandA := z.1, bandB := z.2, owner := c.blk, row := row.row }
            ∧ (∀ j, j ≠ row.row → t.accRow c.core j = s.accRow c.core j)
            ∧ (¬last → ∃ q, t.cmd? c.id = some q ∧ q = { cb with kind := .mx { k with progress := k.progress + 1 } } ∧ t.blocks = s.blocks)
            ∧ (last → ar.drop = [] → k.aring < b.rings.length → k.bsel ≠ k.aring ∨ k.bring = false → ∃ b', t.block? c.blk = some b' ∧ (b'.ring k.aring).head = ea + 1#32
                ∧ (b'.ring k.aring).failed ea = false ∧ ((r + 1 = k.rows → k.bring = false) → b'.scr = b.scr))
            ∧ (last → r + 1 = k.rows → t.cmd? c.id = none)))
  ∧ (∀ (s : State) (c : Cmd) (k : LdbCmd), s.cmd? c.id = some c → c.kind = .ldb k → s.mayRun c = true → Calm s →
      ∃ t, exec (.mxKstep c.id) s = .next t ∧ t.cmd? c.id = none ∧ t.mem = s.mem
        ∧ (∀ i x, i < k.count → 1 ≤ k.count → k.count ≤ 2 → c.core < s.cores.length → (∀ j < k.count, ∀ a ∈ TEntry.tileBytes k.tens (k.first + j),
              ∃ bs, s.vread (dieOf c.core) (s.partOfBlock c.blk) a 1 = .ok bs) →
            (t.core c.core).stat.find? (fun y => y.part = s.partOfBlock c.blk && y.id = k.id && y.ktile = k.first + i) = some x →
            ∀ a ∈ TEntry.tileBytes k.tens (k.first + i), ∃ y, s.vread (dieOf c.core) (s.partOfBlock c.blk) a 1 = .ok [y] ∧ x.bytes.read a = y))
  ∧ (∀ (s : State) (c : Cmd) (k : AccOutCmd), s.cmd? c.id = some c → c.kind = .accOut k → s.mayRun c = true →
      let p := s.partOfBlock c.blk
      let n := max 1 (k.run k.pos)
      let put (u : State) (i : Nat) : Except (BitVec 6 × Nat) State :=
        u.vwrite (dieOf c.core) p (k.addr (k.pos + i)) (leBytes (TEntry.w k.tens / 8) (s.outValue c k (k.pos + i)))
      let i : Instr := if k.waitAt.isSome then .accOutTranslationResume c.id else .accOutPerform c.id
      let cb : Cmd := { c with began := c.began || k.waitAt.isNone }
      (s.part p).dbgCtl.getLsbD 3 = false → (s.part p).replayPh ≠ .running → s.unitHeld 7 c.core = false → Calm s →
      (∀ s1, (List.range n).foldlM put s = .ok s1 → ∃ t, exec i s = .next t ∧ t.mem = s1.mem ∧ t.cores = s.cores
          ∧ (k.pos + n < k.rows * k.m → ∃ q, t.cmd? c.id = some q ∧ q = { cb with kind := .accOut { k with pos := k.pos + n, waitAt := none } })
          ∧ (k.rows * k.m ≤ k.pos + n → t.cmds = s.cmds.filter (fun x => x.id ≠ c.id)))
      ∧ (∀ f a, (List.range n).foldlM put s = .error (f, a) →
          (f = 16#6 → k.waitAt ≠ some (BitVec.ofNat 64 a) →
            ∃ (t : State) (q : Cmd), exec i s = .next (t.postFault p 7 16#6 (BitVec.ofNat 64 a) (s.issuerAgent c) c.core) ∧ t.cmd? c.id = some q
              ∧ q = { cb with kind := .accOut { k with waitAt := some (BitVec.ofNat 64 a) } } ∧ t.mem = s.mem)
          ∧ (f ≠ 16#6 → ∃ t, exec i s = .next t ∧ t.mem = s.mem ∧ t.cmds = s.cmds.filter (fun x => x.id ≠ c.id)
              ∧ ∀ w x, c.wid = some w → s.wave? w = some x → ∃ y, t.wave? w = some y ∧ y = x.finishCmd c.id (some { addr := BitVec.ofNat 64 a, isOut := true, cause := f }))))

/-! ## Arrays -/

/-- sda.run, sda.stop, sda.stat and sda.ld (R253, R254, R318). sda.run takes the lowest free slot of its stack under a new generation
and writes the handle; a misaligned descriptor is trap 4, a bad one trap 39 detail 7, one that is poisoned, or in an extent that is
gone, leaves cause 20 or 25 pending without effect, and a full run queue holds the wave. sda.stop asks a region that is not over to drain; a stale handle does nothing, and reads as 0 by sda.stat, which reads a live
one's state, configuration and cause. sda.ld fills the stack's configuration cache, and a fault drops it. How sda.run meets a misaligned,
poisoned or absent descriptor is the model's reading (log entry 86), and so is the state that a region shows while it drains (log entry 79). -/
def Obligations.ArrayInstructions : Prop :=
  ∀ (e : Enc) (s : State) (c : Cx),
    let a := c.addr e.a
    let trap (k : BitVec 6) : State := c.s.raise c.wid c.lanes { code := k, lanes := c.w.exec, addr := BitVec.ofNat 64 a }
    (Issued 0xC0 e s c → a % 64 ≠ 0 → exec (.sdaRun e) s = .next (trap 4#6))
    ∧ (∀ x, Issued 0xC0 e s c → a % 64 = 0 → c.s.translate c.w.core c.part .load a = .error x → exec (.sdaRun e) s = .next (trap x))
    ∧ (∀ pl, Issued 0xC0 e s c → a % 64 = 0 → c.s.translate c.w.core c.part .load a = .ok pl →
        let gone : Prop := c.s.extentHere pl.space (pl.pa / 64) = false
        let bad : Prop := gone ∨ c.s.poisonedAt pl.space (pl.pa / 64) = true
        let pends (code : BitVec 6) (info : Word) : State := c.after
          (c.s.pendCause c.wid code { asyncRec c.s c.w code (BitVec.ofNat 64 a) with info0 := info })
        let ws : List Dword := (List.range 8).map (fun i => BitVec.ofNat 64 (leNat (c.s.devBytes pl.space (pl.pa + 8 * i) 8)))
        let w (i lo n : Nat) : Nat := ((ws.getD i 0#64).extractLsb' lo n).toNat
        let k := if w 3 0 4 = 15 then c.s.bestStack (dieOf c.w.core) c.part else w 3 0 4
        let free (n : Nat) : Prop := ∀ r ∈ (c.s.stack k).regions, r.slot = n → r.holdsSlot = false
        (¬gone → bad → exec (.sdaRun e) s = .next (pends 20#6 0#32)) ∧ (gone → exec (.sdaRun e) s = .next (pends 25#6 (sysInfo pl.space)))
        ∧ (¬bad → runBad ws = true → exec (.sdaRun e) s = .next (c.s.raise c.wid c.lanes { code := 39#6, lanes := c.w.exec, detail := 7#16 }))
        ∧ (¬bad → runBad ws = false → (∀ n < 16, ¬free n) → exec (.sdaRun e) s = .next (c.s.stallWave c.wid .queue 9 0 0))
        ∧ (∀ n, ¬bad → runBad ws = false → n < 16 → free n → (∀ m < n, ¬free m) → k < c.s.stks.length → (c.s.stack k).gens.length = 16 → c.s.wave? c.wid = some c.w →
            ∃ t y r, exec (.sdaRun e) s = .next t ∧ t.wave? c.wid = some y ∧ y.pc = nextPc c.w e ∧ t.mem = c.s.mem ∧ t.region? k n = some r
              ∧ y.sregs = (c.w.write e.dst false 0 (r.gen * 256 + n * 16 + k)).sregs
              ∧ r.gen = (if (c.s.stack k).gens.getD n 0 = 2 ^ 24 - 1 then 1 else (c.s.stack k).gens.getD n 0 + 1) ∧ (t.stack k).gens.getD n 0 = r.gen
              ∧ r.slot = n ∧ r.part = c.part ∧ r.wid = some c.wid ∧ r.state = 1 ∧ r.cfg = 0 ∧ r.frames = []
              ∧ r.seqAddr.toNat = w 0 0 57 ∧ r.mbar.toNat = w 1 0 57 ∧ r.param.toNat = w 2 0 57 ∧ r.step = decide (w 3 8 1 = 1) ∧ r.sigEn = decide (w 3 9 1 = 1)
              ∧ r.sigTask = w 3 32 16 ∧ r.sigDie = w 3 48 1
              ∧ (∀ m, m ≠ n → t.region? k m = c.s.region? k m)))
    ∧ (let h := c.n32 e.a
       (Issued 0xC1 e s c → c.s.byHandle c.part h = none → exec (.sdaStop e) s = .next (c.after c.s))
       ∧ (∀ k r, Issued 0xC1 e s c → c.s.byHandle c.part h = some (k, r) → 4 ≤ r.state → exec (.sdaStop e) s = .next (c.after c.s))
       ∧ (∀ k r, Issued 0xC1 e s c → c.s.byHandle c.part h = some (k, r) → r.state < 4 →
          ∃ t y, exec (.sdaStop e) s = .next t ∧ t.wave? c.wid = some y ∧ y.pc = nextPc c.w e ∧ t.mem = c.s.mem
            ∧ t.region? k r.slot = some { r with state := 3, drain := some .stop, streams := r.streams.map Stream.cut } ∧ ∀ m, m ≠ r.slot → t.region? k m = c.s.region? k m)
       ∧ (Issued 0xC2 e s c → c.s.byHandle c.part h = none → exec (.sdaStat e) s = .next (c.after (c.s.updWave c.wid (fun w => w.write e.dst false 0 0))))
       ∧ (∀ k r, Issued 0xC2 e s c → c.s.byHandle c.part h = some (k, r) → exec (.sdaStat e) s =
            .next (c.after (c.s.updWave c.wid (fun w => w.write e.dst false 0 (r.state + 16 * (r.cfg % 16) + 65536 * r.failCause.toNat)))))
       ∧ (∀ k r, c.s.byHandle c.part h = some (k, r) → r.gen = h / 256 ∧ r.part = c.part ∧ k = h % 16 ∧ k ≤ 11 ∧ r.slot = h / 16 % 16))
    ∧ (let k := c.n32 e.b
       (Issued 0xC3 e s c → 11 < k → exec (.sdaLd e) s = .next (c.s.raise c.wid c.lanes { code := 2#6, lanes := c.w.exec }))
       ∧ (∀ imgs ns s1, Issued 0xC3 e s c → k ≤ 11 → c.s.readSeq (k / 6) c.part a = .ok imgs → c.s.loadAll k c.part imgs = .ok (ns, s1) →
          ∃ t y, exec (.sdaLd e) s = .next t ∧ t.wave? c.wid = some y ∧ y.pc = nextPc c.w e ∧ y.sregs = c.w.sregs ∧ t.mem = c.s.mem
            ∧ (t.stack k).cfgCache = (s1.stack k).cfgCache ∧ (t.stack k).regions = (c.s.stack k).regions)
       ∧ (∀ d, Issued 0xC3 e s c → k ≤ 11 → c.s.readSeq (k / 6) c.part a = .error d → exec (.sdaLd e) s = .next (c.after c.s)))

/-- The fabric and its streams (R304, R305, R309, R328, R329, R332, R335). A firing changes only its pad, and a token that is wrong
fails the region; a hop takes a token from the head of one buffer to the tail of another, none lost; an input stream appends to its
channel what its element's bytes are, an output stream writes its element, an update stream applies its token to its element, all in
order; a token of a foreign owner is dropped and counted at the gateway of a pad frame or of a generator, and its regions stay as
they are. What LAST_PF keeps at a generator's gateway, and what a frame without a region does, is the model's reading (log entry 89). -/
def Obligations.FabricAndStreams : Prop :=
  ∀ (s : State) (k slot : Nat) (r : Region), s.region? k slot = some r → k < s.stks.length → ((s.stack k).regions.map Region.slot).Nodup →
    (∀ pad pe p, r.state = 2 → r.pads[pad]? = some p →
        (∀ p', p.fire r.owner pe (r.wanted pad pe) = .ok p' → ∃ t, exec (.peFiring k slot pad pe) s = .next t ∧ t.region? k slot = some { r with pads := r.pads.set pad p' } ∧ t.mem = s.mem
          ∧ ∀ m, m ≠ slot → t.region? k m = s.region? k m)
        ∧ (∀ d, p.fire r.owner pe (r.wanted pad pe) = .error d → r.frames ≠ [] → ∃ t r', exec (.peFiring k slot pad pe) s = .next t ∧ t.region? k slot = some r' ∧ r'.state = 6
          ∧ r'.failCause = 35#6 ∧ r'.drain = some .fail ∧ r'.pads = r.pads))
    ∧ (∀ pad pe, r.state ≠ 2 → exec (.peFiring k slot pad pe) s = .next s)
    ∧ (∀ pad p n ch tok rest d, r.frames ≠ [] → r.pads[pad]? = some p → p.chan? n = some ch → ch.q = tok :: rest → tok.owner = r.owner → ch.tfwd = true → ch.dst = 5 →
        (r.pads[ch.tpad]?).bind (fun q => q.chan? ch.tchan) = some d → d.room = true → ¬(ch.tpad = pad ∧ ch.tchan = n) →
        ∃ t r', exec (.switchTokenMove k slot (.forward pad n)) s = .next t ∧ t.region? k slot = some r' ∧ t.mem = s.mem
          ∧ (r'.pads[pad]?).bind (fun q => (q.chan? n).map Chan.q) = some rest
          ∧ (r'.pads[ch.tpad]?).bind (fun q => (q.chan? ch.tchan).map Chan.q) = some (d.q ++ [tok])
          ∧ r'.streams = r.streams)
    ∧ (∀ pad p idx i x tok rest, r.frames ≠ [] → r.pads[pad]? = some p → p.switches[idx]? = some x → x.inbuf.getD i [] = tok :: rest → i < x.inbuf.length →
        let outs := ((List.range 8).filter (fun o => swSel x.sel o = some i)).map (portTgt idx)
        (outs = [] ∨ (∃ o ∈ outs, p.canTake o = false) → ∃ t, exec (.switchTokenMove k slot (.sw pad idx i)) s = .next t ∧ t.region? k slot = some r)
        ∧ (∀ n c, outs = [.pe n c] → p.canTake (.pe n c) = true →
            ∃ t r' q, exec (.switchTokenMove k slot (.sw pad idx i)) s = .next t ∧ t.region? k slot = some r' ∧ r'.pads[pad]? = some q
              ∧ (q.switches[idx]?).map (fun y => y.inbuf.getD i []) = some rest
              ∧ (q.pes[n]?).map (fun y => y.corner.getD c []) = (p.pes[n]?).map (fun y => if c < y.corner.length then y.corner.getD c [] ++ [tok] else [])))
    ∧ (∀ i x ch pl tl e tot, r.streams[i]? = some x → r.boundChan x = some ch → strDir x.record = 0 → x.done = false → x.mark = none → x.stopped = false → r.state = 2 → r.frames ≠ [] →
        s.unitHeld 4 k = false → e = x.elem → tot = strTotal x.record → 0 ≤ x.offset e → x.offset e < tensorExtent x.tens →
        s.streamPlace r x .load (x.addr (x.offset e)).1 = .ok (pl, tl) → s.poisonedAt pl.space (pl.pa / 64) = false → s.stackHeld pl.space (pl.pa / 64) = false → strBurst x.record = false → 8 ≤ TEntry.w x.tens →
        (x.asm = [] → ∀ p, r.pads[fr x.record 222 219]? = some p → p.mayReserve ch = true) →
        let v := leNat (s.devBytes pl.space pl.pa x.bytes)
        let full := x.asm.length + 1 = x.perToken ∨ e + 1 = tot
        ∃ t r' y, exec (.streamInputToken k slot i) s = .next t ∧ t.region? k slot = some r' ∧ r'.streams[i]? = some y ∧ y.pos = x.pos + 1 ∧ t.mem = s.mem
          ∧ (full → y.asm = [] ∧ y.done = decide (e + 1 = tot) ∧ ∃ tok : Token, (r'.boundChan y).map Chan.q = some (ch.q ++ [tok]) ∧ tok.owner = r.owner
              ∧ tok.last = decide (e + 1 = tot) ∧ tok.fill = BitVec.ofNat 6 x.asm.length
              ∧ (x.perToken ≤ 16 → x.asm.length < x.perToken → ∀ j < x.asm.length + 1, tok.lane (strWidth x.record) j = (x.asm ++ [v]).getD j 0 % 2 ^ strWidth x.record))
          ∧ (¬full → y.asm = x.asm ++ [v] ∧ (r'.boundChan y).map Chan.q = some ch.q))
    ∧ (∀ i x ch pl tl v rest e, r.streams[i]? = some x → r.boundChan x = some ch → strDir x.record = 1 → x.mark = none → x.stopped = false → r.frames ≠ [] → x.asm = v :: rest →
        s.unitHeld 4 k = false → s.mem.hbm.wf → (s.part r.part).dbgCtl.getLsbD 3 = false → (s.part r.part).replayPh ≠ .running → e = x.elem → 0 ≤ x.offset e → x.offset e < tensorExtent x.tens →
        s.streamPlace r x .store (x.addr (x.offset e)).1 = .ok (pl, tl) → pl.space = .hbm → s.stackHeld pl.space (pl.pa / 64) = false → strBurst x.record = false → 8 ≤ TEntry.w x.tens →
        let done := strTotal x.record ≤ e + 1 ∨ (rest = [] ∧ x.left = 1)
        ∃ t r' y, exec (.streamOutputWrite k slot i) s = .next t ∧ t.region? k slot = some r' ∧ r'.streams[i]? = some y ∧ y.pos = x.pos + 1
          ∧ (y.done = true ↔ done) ∧ y.asm = (if done then [] else rest)
          ∧ (∀ j, j < x.bytes → t.mem.hbm.read (pl.pa + j) = BitVec.ofNat 8 (v / 2 ^ (8 * j)))
          ∧ (∀ a, ¬(pl.pa ≤ a ∧ a < pl.pa + x.bytes) → t.mem.hbm.read a = s.mem.hbm.read a))
    ∧ (∀ i x ch tok rest, r.streams[i]? = some x → r.boundChan x = some ch → strDir x.record = 1 → x.mark = none → x.stopped = false → r.frames ≠ [] → x.asm = [] → ch.q = tok :: rest →
        tok.owner = r.owner → x.done = false → tok.kind = 0#2 → strBurst x.record = false → tok.fill.toNat < x.perToken →
        ∃ t r' y, exec (.streamOutputWrite k slot i) s = .next t ∧ t.region? k slot = some r' ∧ r'.streams[i]? = some y ∧ t.mem = s.mem
          ∧ (r'.boundChan y).map Chan.q = some rest ∧ y.asm = (List.range (tok.fill.toNat + 1)).map (tok.lane (strWidth x.record)))
    ∧ (∀ i x ch tok rest pl tl, r.streams[i]? = some x → r.boundChan x = some ch → strDir x.record = 2 → x.mark = none → x.stopped = false → r.frames ≠ [] → ch.q = tok :: rest →
        tok.owner = r.owner → s.unitHeld 4 k = false → tok.kind = 2#2 → s.mem.hbm.wf → (s.part r.part).dbgCtl.getLsbD 3 = false → (s.part r.part).replayPh ≠ .running →
        let uop := (tok.data.extractLsb' 64 3).toNat
        let idx := (tok.data.extractLsb' 0 32).toNat
        let b := (tok.data.extractLsb' 32 32).toNat
        uopOk uop (strTy x.record) = true → idx < tensorExtent x.tens → s.streamPlace r x .atomic (x.addr (idx : Int)).1 = .ok (pl, tl) → pl.space = .hbm →
        s.poisonedAt .hbm (pl.pa / 64) = false → s.stackHeld .hbm (pl.pa / 64) = false →
        let old := leNat (s.mem.hbm.readN pl.pa 4)
        let new : Nat := match uop with
          | 0 => (Fmt.f32.roundExact .rn 0 (fpAdd .rn (Fmt.f32.value old) (Fmt.f32.value b))).code
          | 1 => (old + b) % 2 ^ 32
          | 2 => min old b
          | 3 => max old b
          | _ => b
        ∃ t r' y, exec (.updateApply k slot i) s = .next t ∧ t.region? k slot = some r' ∧ r'.streams[i]? = some y ∧ y.pos = x.pos + 1
          ∧ (r'.boundChan y).map Chan.q = some rest ∧ y.done = (x.done || tok.last)
          ∧ (∀ j, j < 4 → t.mem.hbm.read (pl.pa + j) = BitVec.ofNat 8 (new / 2 ^ (8 * j)))
          ∧ (∀ a, ¬(pl.pa ≤ a ∧ a < pl.pa + 4) → t.mem.hbm.read a = s.mem.hbm.read a))
    ∧ (∀ pf owner,
        let here : Prop := if pf < 16 then pf ∈ r.frames else r.frames ≠ [] ∧ ∃ x ∈ r.streams, x.ag = pf - 16
        (¬here ∨ owner = r.owner → exec (.gatewayReject k slot pf owner) s = .next s)
        ∧ (here → owner ≠ r.owner → ∃ t, exec (.gatewayReject k slot pf owner) s = .next t
          ∧ (t.stack k).gwCount.toNat = min (2 ^ 32 - 1) ((s.stack k).gwCount.toNat + 1)
          ∧ (t.stack k).gwLastPf = (if pf < 16 then BitVec.ofNat 16 pf else (s.stack k).gwLastPf)
          ∧ t.region? k slot = some r
          ∧ ∀ q ∈ (s.stack k).regions, q.owner = owner → q.over = false → q.frames ≠ [] → (∀ z ∈ (s.stack k).regions, z.owner = owner → z.over = false → z = q) →
              ∃ q', t.region? k q.slot = some q' ∧ q'.state = 6 ∧ q'.failCause = 34#6))

/-- Placement, completion, drains and restores of regions (R315, R317-R319, R321, R337-R339). A waiting region whose images are
loaded takes frames that are free to its context and starts its first configuration; one whose reservation exceeds what is
assigned fails. A configuration that is complete counts its leftover tokens and starts the next, or ends the region in state 5
with its task decremented; one that finds no generator slots tries again. A drain that was asked for starts, unless it has to save
and there is no save area, and at quiescence a stopped or failed region ends and any other is saved when its record fits, its
frames and generators free. A drained region is placed again: its image is loaded, and every saved item takes its place in it.
Compaction and the arrays' registers (R321, R322, R340). Compaction asks for the move of a running region of at most four
frames that spans clock regions, and counts it; a new assignment asks for the move of every region on frames that its context
has lost; CFGC_INV drops what no placed region pins, and marks the rest of an image; the end of a window moves a clock
region's frequency by at most one step within its bounds. The model's choices here: the save record takes the lowest free units and its bytes
are free values (log entry 124), a restore loads the image as it stands then (log entry 135), a window's counts are the event's arguments
(log entry 109), and what pins a cached image (log entry 77). -/
def Obligations.RegionsRunDrainAndMove : Prop :=
  (∀ (s : State) (k slot : Nat) (r : Region), s.region? k slot = some r → k < s.stks.length →
    let st := s.stack k
    let p := r.part
    let mine (f : Nat) : Prop := f < 16 ∧ st.assigned p (s.world p) f = true ∧ f ∉ st.busyFrames ∧ ∀ q ∈ st.regions, f ∉ q.frames
    (∀ fs, r.state = 1 → (s.part p).swapping = false → st.fwBusy = false → r.images ≠ [] →
        r.reserve ≤ ((List.range 16).filter (st.assigned p (s.world p))).length → (∀ q ∈ st.regions, q.part = p → q.state = 1 → r.order ≤ q.order) →
        pickFrames (st.freeFrames p (s.world p)) r.reserve = some fs → s.agsFree k r (r.streamsOf 0) = true →
        fs.length = r.reserve ∧ fs.Nodup ∧ (∀ f ∈ fs, mine f)
        ∧ ∃ (t0 : State), t0.region? k slot = some { r with frames := fs, world := s.world p } ∧ (∀ m, m ≠ slot → t0.region? k m = s.region? k m) ∧ t0.mem = s.mem
          ∧ exec (.regionPlacement k slot) s =
              .next (if ((t0.startConfig k slot 0).region? k slot).any Region.unstarted then s else t0.startConfig k slot 0))
    ∧ (r.state = 1 → (s.part p).swapping = false → st.fwBusy = false → r.images ≠ [] → r.frames = [] →
        ((List.range 16).filter (st.assigned p (s.world p))).length < r.reserve →
        ∃ t r', exec (.regionPlacement k slot) s = .next t ∧ t.region? k slot = some r' ∧ r'.state = 6 ∧ r'.failCause = 35#6)
    ∧ (r.state ≠ 1 ∨ (s.part p).swapping = true ∨ st.fwBusy = true → exec (.regionPlacement k slot) s = .next s)
    ∧ (∀ (c : Nat) g pads ts ags t2 t3,
        (s.updRegion k slot (fun r => { r with state := 2, cfg := c, pads := [], streams := [] })).loadImage k p (r.images.getD c 0#64).toNat = .ok (g, t2) →
        t2.startPads (k / 6) p r.param.toNat g.pads = .ok pads → t2.checkStreams (k / 6) p pads g.ags 0 g.ags = .ok (ts, t3) →
        pickAgs g.ags.length ((List.range 32).map (t3.stack k).agLoad) = some ags →
        ∃ r', (s.startConfig k slot c).region? k slot = some r' ∧ r'.state = 2 ∧ r'.cfg = c ∧ r'.pads = pads ∧ r'.frames = r.frames
          ∧ r'.streams.length = min g.ags.length (min ts.length ags.length)
          ∧ ∀ x ∈ r'.streams, x.pos = 0 ∧ x.mark = none ∧ x.asm = [] ∧ x.record ∈ g.ags ∧ x.ag ∈ ags)
    ∧ (r.state = 2 → r.configDone = true → r.images.length ≤ r.cfg + 1 → r.mbar = 0#64 → r.drained = false →
        ∃ t r', exec (.configComplete k slot) s = .next t ∧ t.region? k slot = some r' ∧ r'.state = 5 ∧ r'.frames = [] ∧ r'.streams = []
          ∧ (t.stack k).leftover.toNat = min (2 ^ 32 - 1) (st.leftover.toNat + r.pads.foldl (fun n q => n + q.tokens.length) 0)
          ∧ t.decrements = s.decrements ++ (if r.sigEn then [(r.sigDie, r.sigTask)] else []) ∧ t.mem = s.mem)
    ∧ (r.state = 2 → r.configDone = true → r.cfg + 1 < r.images.length → (r.step = false ∨ r.mbar = 0#64) →
        ∃ (t0 : State), t0.region? k slot = some r ∧ t0.mem = s.mem ∧ t0.decrements = s.decrements
          ∧ exec (.configComplete k slot) s = .next (t0.startConfig k slot (r.cfg + 1)))
    ∧ (r.unstarted = false → r.state ≠ 2 ∨ r.configDone = false → exec (.configComplete k slot) s = .next s)
    ∧ (r.unstarted = true → exec (.configComplete k slot) s = .next (s.startConfig k slot r.cfg))
    ∧ (∀ why, r.state = 2 → r.drain = some why → why ≠ .move ∨ r.configDone = false → (why = .move ∨ why = .swap → (s.part p).arrSaveSize ≠ 0#32) →
        ∃ t, exec (.drainRequest k slot) s = .next t ∧ t.region? k slot = some { r with state := 3, streams := r.streams.map Stream.cut } ∧ (∀ m, m ≠ slot → t.region? k m = s.region? k m) ∧ t.mem = s.mem)
    ∧ (r.state ≠ 2 ∨ r.drain = none ∨ ((r.drain = some .move ∨ r.drain = some .swap) ∧ (s.part p).arrSaveSize = 0#32) →
        exec (.drainRequest k slot) s = .next s)
    ∧ (∀ why, r.drain = some why → r.state = 2 ∨ (r.frames ≠ [] ∧ ∃ x ∈ r.streams, x.asm ≠ [] ∧ x.mark = none ∧ x.stopped = false) → exec (.regionQuiescence k slot) s = .next s)
    ∧ (∀ why, r.drain = some why → r.state ≠ 2 → r.frames ≠ [] → (∀ x ∈ r.streams, x.asm = [] ∨ x.mark.isSome = true ∨ x.stopped = true) →
        (why = .fail ∨ (why = .stop ∧ r.mbar = 0#64) → ∃ t r', exec (.regionQuiescence k slot) s = .next t ∧ t.region? k slot = some r'
          ∧ r'.state = (if why = .fail then 6 else 4) ∧ r'.frames = [] ∧ r'.pads = [] ∧ r'.streams = [] ∧ t.mem = s.mem)
        ∧ (why = .move ∨ why = .swap → (s.part p).arrSaveUsed + r.saveUnits ≤ (s.part p).arrSaveSize.toNat → p < s.parts.length →
          ∃ t r', exec (.regionQuiescence k slot) s = .next t ∧ t.region? k slot = some r' ∧ r'.state = r.state ∧ r'.frames = [] ∧ r'.pads = r.pads
            ∧ r'.streams.map Stream.pos = r.streams.map Stream.pos ∧ r'.saveAt = s.arrUnits p r.saveUnits ∧ (t.part p).arrSaveUsed = (s.part p).arrSaveUsed + r.saveUnits
            ∧ ∀ a, (Space.hbm, a / 64) ∉ arrLines (s.part p) (s.arrUnits p r.saveUnits) → t.mem.hbm.read a = s.mem.hbm.read a)
        ∧ (why = .move ∨ why = .swap → (s.part p).arrSaveSize.toNat < (s.part p).arrSaveUsed + r.saveUnits → exec (.regionQuiescence k slot) s = .next s))
    ∧ (∀ fs g fresh ts ags s1 s2, r.state = 3 → r.frames = [] → r.saveAt ≠ [] → r.pads ≠ [] → (r.drain = some .move ∨ r.drain = some .swap) → (s.part p).swapping = false → st.fwBusy = false →
        pickFrames (st.freeFrames p (s.world p)) r.reserve = some fs → s.agsFree k r r.streams.length = true →
        s.loadImage k p (r.images.getD r.cfg 0#64).toNat = .ok (g, s1) → s1.startPads (k / 6) p r.param.toNat g.pads = .ok fresh →
        s1.checkStreams (k / 6) p fresh g.ags 0 g.ags = .ok (ts, s2) → pickAgs g.ags.length ((List.range 32).map (s2.stack k).agLoad) = some ags →
        ∃ t r', exec (.regionRestore k slot) s = .next t ∧ t.region? k slot = some r' ∧ r'.state = 2 ∧ r'.frames = fs ∧ r'.drain = none
          ∧ r'.gen = r.gen ∧ r'.cfg = r.cfg ∧ r'.saveAt = [] ∧ r'.pads.length = fresh.length
          ∧ (∀ (i : Nat) f q, fresh[i]? = some f → r.pads[i]? = some q → r'.pads[i]? = some (f.reload q))
          ∧ (∀ (i : Nat) x y, r.streams[i]? = some x → r'.streams[i]? = some y → g.ags[i]? = some y.record ∧ ts[i]? = some y.tens ∧ y.pos = x.pos ∧ y.asm = x.asm
              ∧ y.hdr = x.hdr ∧ y.left = x.left ∧ y.mark = x.mark ∧ y.done = x.done ∧ y.tlb = none ∧ y.stopped = false)
          ∧ (∀ f ∈ fs, mine f)
          ∧ (t.stack k).moved.toNat = (if r.drain = some .move then min 65535 (st.moved.toNat + 1) else st.moved.toNat))
    ∧ (r.state ≠ 3 ∨ r.frames ≠ [] ∨ (s.part p).swapping = true → exec (.regionRestore k slot) s = .next s))
  ∧ (∀ (f q : Pad) (n : Nat),
    (∀ a b, f.pes[n]? = some a → q.pes[n]? = some b →
        (f.reload q).pes[n]? = some { b with frame := a.frame, imm := if b.frame = a.frame then b.imm else a.imm })
    ∧ (∀ a b, f.switches[n]? = some a → q.switches[n]? = some b → (f.reload q).switches[n]? = some { a with inbuf := b.inbuf })
    ∧ (∀ a b, f.chan? n = some a → q.chan? n = some b → (f.reload q).chan? n = some { a with q := b.q, reserved := b.reserved }))
  ∧ (∀ (s : State) (k : Nat), k < s.stks.length →
    let st := s.stack k
    let hi := (st.aclkCtl.extractLsb' 32 8).toNat
    let lo := (st.aclkCtl.extractLsb' 24 8).toNat
    let thr := (st.aclkCtl.extractLsb' 16 8).toNat
    (∀ slot r, s.region? k slot = some r →
        let ok := st.chamCtl.getLsbD 16 = true ∧ r.state = 2 ∧ r.drain = none ∧ r.reserve ≤ 4 ∧ (∃ f ∈ r.frames, f / 4 ≠ (r.frames.getD 0 0) / 4)
          ∧ (∃ q < 4, r.reserve ≤ ((st.freeFrames r.part (s.world r.part)).filter (fun f => f / 4 = q)).length)
          ∧ st.compactions < (st.chamCtl.extractLsb' 8 8).toNat
        (ok → ∃ t, exec (.compactionMove k slot) s = .next t ∧ t.region? k slot = some { r with drain := some .move } ∧ (t.stack k).compactions = st.compactions + 1)
        ∧ (¬ok → exec (.compactionMove k slot) s = .next s))
    ∧ (∀ half v, ∃ t, exec (.arrAssignWrite k half v) s = .next t ∧ t.mem = s.mem
        ∧ (t.stack k).arrAssign0 = (if half = 0 then v &&& 0xCFCFCFCFCFCFCFCF#64 else st.arrAssign0)
        ∧ (t.stack k).arrAssign1 = (if half = 0 then st.arrAssign1 else v &&& 0xCFCFCFCFCFCFCFCF#64)
        ∧ ∀ slot r, s.region? k slot = some r → t.region? k slot = some
            (if (∀ f ∈ r.frames, (t.stack k).assigned r.part r.world f = true) ∨ r.state ≠ 2 ∨ r.drain ≠ none then r else { r with drain := some .move }))
    ∧ (∀ v, (v.getLsbD 63 = true → exec (.cfgcInvAddr k v) s = .next s)
        ∧ (v.getLsbD 63 = false → ∃ t, exec (.cfgcInvAddr k v) s = .next t ∧ t.mem = s.mem ∧ (t.stack k).regions = st.regions
            ∧ (∀ x ∈ (t.stack k).cfgCache, x.image = (v.extractLsb' 6 51).toNat * 64 → st.pinned x = true)
            ∧ (∀ x ∈ st.cfgCache, x.image ≠ (v.extractLsb' 6 51).toNat * 64 → x.stale = false → x ∈ (t.stack k).cfgCache)))
    ∧ (∀ v, (v.getLsbD 63 = false → exec (.cfgcInvAll k v) s = .next s)
        ∧ (v.getLsbD 63 = true → ∃ t, exec (.cfgcInvAll k v) s = .next t ∧ t.mem = s.mem ∧ (t.stack k).regions = st.regions
            ∧ ∀ x, x ∈ (t.stack k).cfgCache ↔ x ∈ st.cfgCache ∧ st.pinned x = true))
    ∧ (∀ q up down total, q < st.aclkF.length → ∃ t f, exec (.aclkWindow k q up down total) s = .next t ∧ (t.stack k).aclkF = st.aclkF.set q f ∧ t.mem = s.mem
        ∧ (st.aclkCtl.getLsbD 48 = true → f = (st.aclkCtl.extractLsb' 40 8).toNat)
        ∧ (st.aclkCtl.getLsbD 48 = false → (∀ r ∈ st.regions, ∀ x ∈ r.frames, x / 4 ≠ q) → f = lo)
        ∧ (st.aclkCtl.getLsbD 48 = false → (∃ r ∈ st.regions, ∃ x ∈ r.frames, x / 4 = q) → up + down ≤ total → 0 < total →
            let f0 := st.aclkF.getD q 14
            (thr * total ≤ 256 * up → f = min hi (f0 + 1)) ∧ (256 * up < thr * total → thr * total ≤ 256 * down → f = max lo (f0 - 1))
              ∧ (256 * up < thr * total → 256 * down < thr * total → f = f0))))

/-! ## Gecko and top-k -/

/-- A stack's group belongs to the wave's context in its world, and its base die activates no firmware (R352, R353, R413). -/
def Sys2Proof.ownsGroup (c : Cx) (k g : Nat) : Prop :=
  let v := (c.s.stack k).gkAssign.extractLsb' (8 * g) 8
  v.getLsbD 7 = true ∧ (v.extractLsb' 0 4).toNat = c.part ∧ v.getLsbD 6 = c.s.world c.part ∧ (c.s.stack k).fwBusy = false ∧ k < c.s.stks.length
    ∧ (c.s.stack k).families.length = 16 ∧ (c.s.stack k).tables.length = 64

/-- The Gecko instructions (R353-R356, R358, R359, R361, R362, R364). Handles, groups, families and tables are checked with cause
40 and their DETAIL; gk.hf and gk.tbl initialise; an update is accepted under its table's next number and a read is sent to its
unit, each holding its destinations; gk.seq and gk.stat read the table's numbers and counters. That an update is checked against the
view that those accepted before it will leave (log entry 90), and that DETAIL 9 comes before 10 (log entry 91), is the model's reading. -/
def Obligations.GeckoInstructions : Prop :=
  ∀ (e : Enc) (s : State) (c : Cx),
    let h := c.n32 e.a
    let x := c.n32 e.b
    let bt (n hi lo : Nat) : Nat := n / 2 ^ lo % 2 ^ (hi + 1 - lo)
    let trap (d : Nat) : State := c.s.raise c.wid c.lanes { code := 40#6, lanes := c.w.exec, detail := BitVec.ofNat 16 d }
    let st := c.s.stack (h / 64)
    let next (t : State) (y : Wave) : Prop := t.wave? c.wid = some y ∧ y.pc = nextPc c.w e ∧ t.mem.hbm = c.s.mem.hbm
    (Issued 0xD0 e s c →
        let good := 1 ≤ bt x 20 16 ∧ bt x 20 16 ≤ 16 ∧ 1 ≤ bt x 13 0 ∧ bt x 13 0 ≤ 8192 ∧ bt x 15 14 = 0 ∧ bt x 31 21 = 0
        (192 ≤ h → exec (.gkHf e) s = .next (trap 1))
        ∧ (h < 192 → ownsGroup c (h / 16) (h % 16 / 4) →
            (¬good → exec (.gkHf e) s = .next (trap 3))
            ∧ (good → (c.s.stack (h / 16)).famUsed (h % 16) = true → exec (.gkHf e) s = .next (trap 7))
            ∧ (good → (c.s.stack (h / 16)).famUsed (h % 16) = false → ∃ t y, exec (.gkHf e) s = .next t ∧ next t y ∧ y.sregs = c.w.sregs
                ∧ (∀ f, (t.stack (h / 16)).family f = if f = h % 16 then some ⟨bt x 20 16, bt x 13 0, word (c.n32 e.c)⟩ else (c.s.stack (h / 16)).family f)
                ∧ (t.stack (h / 16)).tables = (c.s.stack (h / 16)).tables)))
    ∧ (Issued 0xD1 e s c → h < 768 → x < 192 → h / 64 = x / 16 → ownsGroup c (h / 64) (h % 64 / 16) → ownsGroup c (x / 16) (x % 16 / 4) →
        ∀ fam, st.family (x % 16) = some fam →
          let w := c.n32 e.c
          let cap := 8 * 2 ^ bt w 11 10
          let bad := bt w 31 14 ≠ 0 ∨ bt w 13 12 = 3 ∨ bt w 11 10 = 3 ∨ (bt w 13 12 = 2 ∧ st.spillSize.getD (h % 64 / 16) 0#64 = 0#64)
          (bad → exec (.gkTbl e) s = .next (trap 4))
          ∧ (∀ tens s1, ¬bad → c.gkTensor (bt w 9 0) fam.dim = .ok (tens, s1) → st.table (h % 64) = none →
              (st.dirFree < 2 ^ fam.bits * cap * 4 → exec (.gkTbl e) s = .next (trap 6))
              ∧ (2 ^ fam.bits * cap * 4 ≤ st.dirFree → ∃ t y r, exec (.gkTbl e) s = .next t ∧ next t y ∧ (t.stack (h / 64)).table (h % 64) = some r
                  ∧ r.family = x % 16 ∧ r.cap = cap ∧ r.policy.toNat = bt w 13 12 ∧ r.tens = tens ∧ r.part = c.part ∧ r.buckets = [] ∧ r.newFamily = none
                  ∧ r.seq = 0#32 ∧ r.accepted = 0#32 ∧ r.evicts = 0#16 ∧ r.drops = 0#16 ∧ r.trunc = 0#16 ∧ r.spills = 0#16
                  ∧ ∀ n, n ≠ h % 64 → (t.stack (h / 64)).table n = st.table n)))
    ∧ (∀ y ∈ [(0xD2, Instr.gkIns e, GkOp.ins (word x)), (0xD3, Instr.gkDel e, GkOp.del (word x))], Issued y.1 e s c →
        (768 ≤ h → exec y.2.1 s = .next (trap 1))
        ∧ (h < 768 → ownsGroup c (h / 64) (h % 64 / 16) →
            (st.table (h % 64) = none → exec y.2.1 s = .next (trap 4))
            ∧ (∀ v, st.view (h % 64) = some v → gkRows v.tens ≤ x → exec y.2.1 s = .next (trap 5))
            ∧ (∀ v r, st.view (h % 64) = some v → st.table (h % 64) = some r → x < gkRows v.tens → ∃ t z, exec y.2.1 s = .next t ∧ next t z ∧ z.sregs = c.w.sregs
                ∧ (t.stack (h / 64)).updates = st.updates ++ [{ table := h % 64, num := r.accepted + 1#32, wid := c.wid, part := c.part, dst := e.dst, op := y.2.2 }]
                ∧ (t.stack (h / 64)).table (h % 64) = some { r with accepted := r.accepted + 1#32 }
                ∧ z.claims = c.w.claims ++ (if e.dst.toNat < 384 ∧ 256 ≤ e.dst.toNat then [e.dst] else []))))
    ∧ (∀ r tens s1, Issued 0xD4 e s c → h < 768 → ownsGroup c (h / 64) (h % 64 / 16) → st.table (h % 64) = some r →
        c.gkInput x (TEntry.dim r.tens 0) = .ok (tens, s1) →
        ∃ t y q, exec (.gkProbe e) s = .next t ∧ next t y ∧ (t.stack (h / 64)).reads = st.reads ++ [q] ∧ y.claims = c.w.claims ++ [e.dst]
          ∧ q.wid = c.wid ∧ q.dst = e.dst ∧ q.isEval = false ∧ q.tables = [(h, word (c.n32 e.c))] ∧ q.line = x / 1024 ∧ q.tens = tens ∧ q.empty = false)
    ∧ (∀ fam v r, Issued 0xD5 e s c → h < 768 → x < 192 → h / 64 = x / 16 → ownsGroup c (h / 64) (h % 64 / 16) → ownsGroup c (x / 16) (x % 16 / 4) →
        st.family (x % 16) = some fam → st.view (h % 64) = some v → st.table (h % 64) = some r →
        let bad := c.n32 e.c = 0 ∨ x % 16 = v.family ∨ fam.dim ≠ (match st.family v.family with | some f => f.dim | none => 0) ∨ (v.newFamily ≠ none ∧ v.newFamily ≠ some (x % 16))
        (bad → exec (.gkRehash e) s = .next (trap 8))
        ∧ (¬bad → v.newFamily = none → st.dirFree < 2 ^ fam.bits * v.cap * 4 → exec (.gkRehash e) s = .next (trap 6))
        ∧ (¬bad → v.newFamily ≠ none ∨ 2 ^ fam.bits * v.cap * 4 ≤ st.dirFree → ∃ t z u, exec (.gkRehash e) s = .next t ∧ next t z
            ∧ (t.stack (h / 64)).updates = st.updates ++ [u] ∧ u.num = r.accepted + 1#32 ∧ u.op = .rehash (x % 16) (c.n32 e.c) ∧ u.dst = e.dst ∧ u.table = h % 64))
    ∧ (∀ m n, Issued 0xD6 e s c → Sel.of e.a = .s m →
        let g (i : Nat) : Nat := (c.w.sget (m + i)).toNat
        g 0 = n → c.w.ns ≥ m + 4 + 2 * n →
        (n = 0 ∨ 4 < n ∨ 2 ≤ g 2 ∨ g 3 ≠ 0 → ¬(g 2 % 2 = 1 ∧ c.w.topk.k = 0) → exec (.gkEval e) s = .next (trap 10))
        ∧ (g 2 = 1 → c.w.topk.k = 0 → exec (.gkEval e) s = .next (trap 9))
        ∧ (∀ r tens s1, n = 1 → g 2 < 2 → g 3 = 0 → (g 2 = 0 ∨ c.w.topk.k ≠ 0) → g 4 < 768 → ownsGroup c (g 4 / 64) (g 4 % 64 / 16) →
            (c.s.stack (g 4 / 64)).table (g 4 % 64) = some r → c.gkInput (g 1) (TEntry.dim r.tens 0) = .ok (tens, s1) →
            ∃ t y q, exec (.gkEval e) s = .next t ∧ next t y ∧ (t.stack (g 4 / 64)).reads = (c.s.stack (g 4 / 64)).reads ++ [q]
              ∧ y.claims = c.w.claims ++ [e.dst, e.dst + 1#9] ∧ y.topkClaims = c.w.topkClaims + g 2
              ∧ q.isEval = true ∧ (q.topk = true ↔ g 2 = 1) ∧ q.tables = [(g 4, c.w.sget (m + 5))] ∧ q.line = g 1 / 1024 ∧ q.tens = tens))
    ∧ (∀ r, h < 768 → ownsGroup c (h / 64) (h % 64 / 16) → st.table (h % 64) = some r →
        (Issued 0xD7 e s c → ∃ v : Dword, exec (.gkSeq e) s = .next (c.after (c.s.updWave c.wid (fun w => w.write e.dst true 0 v.toNat)))
          ∧ v.extractLsb' 0 32 = r.seq
          ∧ (r.family < 16 → r.newFamily = none → r.cursor < 2 ^ 17 → v.extractLsb' 32 32 = BitVec.ofNat 32 (r.cursor + r.family * 2 ^ 24))
          ∧ (∀ f, r.family < 16 → r.newFamily = some f → f < 16 → r.cursor < 2 ^ 17 → v.extractLsb' 32 17 = BitVec.ofNat 17 r.cursor ∧ v.extractLsb' 49 3 = 0#3
              ∧ v.extractLsb' 52 4 = BitVec.ofNat 4 f ∧ v.extractLsb' 56 4 = BitVec.ofNat 4 r.family ∧ v.extractLsb' 60 3 = 0#3 ∧ v.getLsbD 63 = true))
        ∧ (Issued 0xD8 e s c → ∃ v : Dword, exec (.gkStat e) s = .next (c.after (c.s.updWave c.wid (fun w => w.write e.dst true 0 v.toNat)))
          ∧ v.extractLsb' 0 16 = r.drops ∧ v.extractLsb' 16 16 = r.evicts ∧ v.extractLsb' 32 16 = r.spills ∧ v.extractLsb' 48 16 = r.trunc))

/-- The Gecko unit (R352, R357-R363, R365). A table's updates are performed in number order, each reporting its number: an insert puts
a row not yet there last in its bucket, and in a full bucket POLICY drops it, evicts the oldest id or spills; a delete
removes the row; a rehash moves its buckets, counting them in its cursor, and with the last changes the family; an update that meets a fault changes no
bucket. A read whose minimum is not reached waits, and else its lanes get the bucket's ids, and for an evaluation their values. A
change of GK_ASSIGN uninitialises the group; that it drops the group's pending updates with its reads (log entry 90), and that a spill
beyond the usable HBM drops its id (log entry 91), is the model's reading. -/
def Obligations.GeckoUnit : Prop :=
  ∀ (s : State) (k t : Nat), k < s.stks.length → t < 64 →
    let st := s.stack k
    let plain (r : Table) : Prop := 0 < r.cap ∧ ∀ b ∈ r.buckets ++ r.newBuckets, b.2.chain = 0 ∧ b.2.ids.length ≤ r.cap
    (∀ u r fam, st.updates.find? (fun u => u.table = t) = some u → st.fwBusy = false → Calm s → s.unitHeld 5 k = false → (s.part u.part).dbgCtl.getLsbD 3 = false → (s.part u.part).replayPh ≠ .running →
        st.table t = some r → st.tables.length = 64 → st.family r.family = some fam → plain r →
        ∃ t' , exec (.gkStepPerform k t) s = .next t' ∧ (t'.stack k).updates = st.updates.erase u
          ∧ (∀ w, s.wave? u.wid = some w → u.dst.toNat < 384 → 256 ≤ u.dst.toNat → (u.op matches .tbl _ _ _) = false →
              ∃ y, t'.wave? u.wid = some y ∧ y.claims = w.claims.erase u.dst ∧ y.sregs = (w.sset (u.dst.toNat - 256) u.num).sregs)
          ∧ (∀ n, n ≠ t → (t'.stack k).table n = st.table n)
          ∧ (∀ row v, u.op = .ins row → r.newFamily = none → s.gkRow r.part r.tens row.toNat = .ok v →
              let ids := (getBucket r.buckets (fam.hash v)).ids
              let is (q : Table) : Prop := (t'.stack k).table t = some q ∧ q.seq = u.num ∧ (∀ b, b ≠ fam.hash v → getBucket q.buckets b = getBucket r.buckets b)
              (row ∈ ids → is { r with seq := u.num })
              ∧ (row ∉ ids → ids.length < r.cap → ∃ q, is q ∧ getBucket q.buckets (fam.hash v) = { ids := ids ++ [row], chain := 0 } ∧ q.drops = r.drops)
              ∧ (row ∉ ids → r.cap ≤ ids.length → r.policy = 0#2 → is { r with seq := u.num, drops := satAdd16 r.drops 1 })
              ∧ (row ∉ ids → r.cap = ids.length → r.policy = 1#2 → ∃ q, is q ∧ getBucket q.buckets (fam.hash v) = { ids := ids.drop 1 ++ [row], chain := 0 } ∧ q.evicts = satAdd16 r.evicts 1)
              ∧ (row ∉ ids → r.cap = ids.length → r.policy = 2#2 → (st.spillSize.getD (t / 16) 0#64).toNat % 2 ^ 32 ≠ 0 → spillAddr st (t / 16) 0 + 128 ≤ 720 * 2 ^ 30 → st.spillUsed.getD (t / 16) [] = [] → t / 16 < st.spillUsed.length →
                  st.spillNext.getD (t / 16) none = none → s.mem.hbm.wf →
                  ∃ q, is q ∧ getBucket q.buckets (fam.hash v) = { ids := ids, chain := 1 } ∧ q.spills = satAdd16 r.spills 1
                    ∧ leNat (t'.mem.hbm.readN (spillAddr st (t / 16) 1) 4) = row.toNat ∧ leNat (t'.mem.hbm.readN (spillAddr st (t / 16) 1 + 60) 4) = 0))
          ∧ (∀ row v, u.op = .del row → r.newFamily = none → s.gkRow r.part r.tens row.toNat = .ok v → ∃ q, (t'.stack k).table t = some q ∧ q.seq = u.num
              ∧ (getBucket q.buckets (fam.hash v)).ids = (getBucket r.buckets (fam.hash v)).ids.filter (· ≠ row)
              ∧ ∀ b, b ≠ fam.hash v → getBucket q.buckets b = getBucket r.buckets b)
          ∧ (∀ row f d, u.op = .ins row ∨ u.op = .del row → s.gkRow r.part r.tens row.toNat = .error (f, d) → (t'.stack k).table t = some { r with seq := u.num }
              ∧ (∀ w, s.wave? u.wid = some w → ∃ y, t'.wave? u.wid = some y ∧ ∃ p ∈ y.pend, p.code = 41#6))
          ∧ (∀ f n, u.op = .rehash f n → f ≠ r.family → r.newFamily = none ∨ r.newFamily = some f → (∀ b ∈ r.buckets, b.2.ids = []) →
              let from_ := if r.newFamily = none then 0 else r.cursor
              ∃ q, (t'.stack k).table t = some q ∧ q.seq = u.num
                ∧ (from_ + n < 2 ^ fam.bits → q.family = r.family ∧ q.newFamily = some f ∧ q.cursor = from_ + n)
                ∧ (2 ^ fam.bits ≤ from_ + n → q.family = f ∧ q.newFamily = none ∧ q.cursor = 2 ^ fam.bits ∧ q.buckets = r.newBuckets)))
    ∧ (∀ n r, st.reads[n]? = some r → r.withdrawn = true ∨ st.fwBusy = true ∨ s.unitHeld 5 k = true ∨ s.gkReady k r = false → exec (.gkReadPerform k n) s = .next s)
    ∧ (∀ r q, st.table (gkTab q.1) = some r → s.gkReady k { wid := 0, part := 0, dst := 0#9, isEval := false, topk := false, tables := [q], line := 0, tens := [], empty := false, withdrawn := false }
        = decide (q.2 = 0#32 ∨ (r.seq - q.2).toNat < 2 ^ 31))
    ∧ (∀ n r q m tb fam v w, st.reads[n]? = some r → r.withdrawn = false → st.fwBusy = false → Calm s → s.unitHeld 5 k = false → s.gkReady k r = true → r.tables = [(q, m)] → gkTab q = t →
        st.table t = some tb → st.tables.length = 64 → tb.newFamily = none → plain tb → st.family tb.family = some fam → s.wave? r.wid = some w → w.vregs.all (fun x => x.length = 32) = true →
        (r.empty = false → s.gkRow r.part r.tens r.line = .ok v) →
        let ids := if r.empty then [] else (getBucket tb.buckets (fam.hash v)).ids.eraseDups
        (r.isEval = false → r.dst.toNat < w.vregs.length → r.dst.toNat < 256 → ∃ t' y, exec (.gkReadPerform k n) s = .next t' ∧ t'.wave? r.wid = some y
            ∧ (t'.stack k).reads = st.reads.eraseIdx n ∧ y.claims = w.claims.erase r.dst ∧ t'.mem = s.mem
            ∧ (∀ l < 32, y.vget r.dst.toNat l = ids.getD l 0xFFFFFFFF#32)
            ∧ (∀ d l, d ≠ r.dst.toNat → y.vget d l = w.vget d l)
            ∧ (t'.stack k).table t = some (if 32 < ids.length then { tb with trunc := satAdd16 tb.trunc 1 } else tb))
        ∧ (r.isEval = true → r.dst.toNat + 1 < w.vregs.length → r.dst.toNat < 255 → (∀ id ∈ ids, ∃ x, s.gkRow r.part tb.tens id.toNat = .ok x) →
            ∃ t' y, exec (.gkReadPerform k n) s = .next t' ∧ t'.wave? r.wid = some y ∧ (t'.stack k).reads = st.reads.eraseIdx n
            ∧ (∀ l < 32, y.vget r.dst.toNat l = ids.getD l 0xFFFFFFFF#32 ∧ (ids.length ≤ l → y.vget (r.dst.toNat + 1) l = 0xFF800000#32))
            ∧ (∀ l x, l < 32 → l < ids.length → s.gkRow r.part tb.tens (ids.getD l 0#32).toNat = .ok x → y.vget (r.dst.toNat + 1) l = word (gkDot x v))
            ∧ (r.topk = false → y.topk = w.topk) ∧ (r.topk = true → y.topkClaims = w.topkClaims - 1)))
    ∧ (∀ v : Dword, st.tables.length = 64 → st.families.length = 16 → ∃ t', exec (.gkAssignWrite k v) s = .next t' ∧ (t'.stack k).gkAssign = v &&& 0xCFCFCFCF#64 ∧ t'.mem = s.mem
        ∧ (let same (g : Nat) : Prop := st.gkAssign.extractLsb' (8 * g) 8 = (v &&& 0xCFCFCFCF#64).extractLsb' (8 * g) 8
           (∀ n < 64, (same (n / 16) → (t'.stack k).table n = st.table n) ∧ (¬same (n / 16) → (t'.stack k).table n = none))
           ∧ (∀ f < 16, (same (f / 4) → (t'.stack k).family f = st.family f) ∧ (¬same (f / 4) → (t'.stack k).family f = none))
           ∧ (∀ u, u ∈ (t'.stack k).updates ↔ u ∈ st.updates ∧ ((u.table / 16 < 4 ∧ same (u.table / 16)) ∨ 4 ≤ u.table / 16))))

/-- Top-k lists (R138, R367-R372). topk.clr empties the list under a K of 1 to 64; topk.ins keeps at most K of the inserted pairs, none below
one it left out, in rank order; topk.rd gives entry 32h + lane or its filler; topk.sum reads both sums; topk.mrg reads an image,
with the traps of R138 in the order of its lines, and leaves each index once, at most K, with SEL their sum. Without a list, or with a bad K or
COUNT, the cause is 40 DETAIL 9. That a poisoned image merges nothing is the model's reading (log entry 61). -/
def Obligations.TopKLists : Prop :=
  ∀ (e : Enc) (s : State) (c : Cx),
    let trap : State := c.s.raise c.wid c.lanes { code := 40#6, lanes := c.w.exec, detail := 9#16 }
    let ordered (l : List (Word × Word)) : Prop := l.Pairwise (fun a b => ranksAbove b a = false)
    let new : List (Word × Word) := (lanesOf c.active).map (fun l => (word (c.src e.a .b32 l), word (c.src e.b .b32 l)))
    let kept := new.filter (fun x => x.2 ≠ 0xFFFFFFFF#32)
    let old := c.w.topk
    (Issued 0xDC e s c → (c.n32 e.a = 0 ∨ 64 < c.n32 e.a → exec (.topkClr e) s = .next trap)
        ∧ (1 ≤ c.n32 e.a → c.n32 e.a ≤ 64 → ∃ t y, exec (.topkClr e) s = .next t ∧ t.wave? c.wid = some y ∧ y.pc = nextPc c.w e
            ∧ y.topk = { k := c.n32 e.a, entries := [], sel := 0#32, exc := 0#32 } ∧ y.vregs = c.w.vregs ∧ t.mem = c.s.mem))
    ∧ (Issued 0xD9 e s c → old.k = 0 → exec (.topkIns e) s = .next trap)
    ∧ (Issued 0xD9 e s c → old.k ≠ 0 → old.entries.length ≤ old.k → ordered old.entries → ∃ t y, exec (.topkIns e) s = .next t ∧ t.wave? c.wid = some y
        ∧ y.pc = nextPc c.w e ∧ y.vregs = c.w.vregs ∧ t.mem = c.s.mem ∧ y.topk.k = old.k
        ∧ y.topk.entries.length = min old.k (old.entries.length + kept.length) ∧ ordered y.topk.entries
        ∧ (∀ x ∈ y.topk.entries, x ∈ old.entries ++ kept)
        ∧ (∀ x ∈ old.entries ++ kept, x ∉ y.topk.entries → y.topk.entries.length = old.k ∧ ∀ z ∈ y.topk.entries, ranksAbove x z = false)
        ∧ (kept = [] → y.topk = old)
        ∧ (∀ x, kept = [x] → old.entries.length < old.k → y.topk.exc = old.exc ∧ y.topk.sel = word (f32Sum old.sel.toNat x.1.toNat))
        ∧ (∀ x z, kept = [x] → old.entries.length = old.k → old.entries.getLast? = some z → ranksAbove x z = false → y.topk = { old with exc := fAdd old.exc x.1 }))
    ∧ (Issued 0xDB e s c → (1 < c.n32 e.a → exec (.topkRd e) s = .next (c.s.raise c.wid c.lanes { code := 2#6, lanes := c.w.exec }))
        ∧ (c.n32 e.a ≤ 1 → e.dst.toNat < 256 → e.dst.toNat < c.w.vregs.length → (∀ x ∈ c.w.vregs, x.length = 32) → ∃ t y, exec (.topkRd e) s = .next t ∧ t.wave? c.wid = some y ∧ y.pc = nextPc c.w e ∧ y.topk = old
            ∧ t.mem = c.s.mem ∧ ∀ l < 32, c.lanes.getLsbD l = true → y.vget e.dst.toNat l = (match old.entries[32 * c.n32 e.a + l]? with
                | some x => if tyOf e = .f32 then x.1 else x.2
                | none => if tyOf e = .f32 then 0xFF800000#32 else 0xFFFFFFFF#32)))
    ∧ (Issued 0xDD e s c → exec (.topkSum e) s = .next (c.after (c.s.updWave c.wid (fun w => w.write e.dst true 0 (old.exc ++ old.sel).toNat))))
    ∧ (let base := (c.addr e.a + c.offset e.b c.lane0) % 2 ^ 64
       let at_ (i : Nat) : Nat := base + 64 * i
       let bad (i : Nat) (k : BitVec 6) : Prop := if base % 64 ≠ 0 then k = 4#6 else c.s.translate c.w.core c.part .load (at_ i) = .error k
       Issued 0xDA e s c → c.w.stage = 0 →
         (∀ i k, i < 9 → bad i k → (∀ j < 9, ∀ m, bad j m → k.toNat ≤ m.toNat) → (∀ j < i, ¬bad j k) → exec (.topkMrg e) s = .next (c.s.raise c.wid c.lanes
            { code := k, lanes := c.w.exec, addr := BitVec.ofNat 64 (at_ i) }))
         ∧ ((∀ i < 9, ∀ k, ¬bad i k) → old.k = 0 → exec (.topkMrg e) s = .next trap)
         ∧ ((∀ i < 9, ∀ k, ¬bad i k) → old.k ≠ 0 → c.s.wave? c.wid = some c.w → ∃ t y o, exec (.topkMrg e) s = .next t ∧ t.wave? c.wid = some y
            ∧ y.pc = c.w.pc ∧ y.topk = old ∧ y.stage = 9 ∧ (y.loads = c.w.loads ++ [o] ∨ (c.w.loads = [] ∧ y.loads = [])) ∧ t.mem.hbm = c.s.mem.hbm
            ∧ (y.loads = c.w.loads ++ [o] → o.kind = .image base ∧ o.size = 576
                ∧ ∀ r ∈ o.remain, r.scr = false ∧ ∃ i < 9, 64 * r.line = at_ i ∧ c.s.translate c.w.core c.part .load (at_ i) = .ok ⟨r.space, 64 * r.pline, r.ss⟩)))
    ∧ (Issued 0xDA e s c → c.w.stage = 9 → (∀ o ∈ c.w.loads, (o.kind matches .image _) = false) →
        (c.w.image = [] → exec (.topkMrg e) s = .next (c.after c.s))
        ∧ (c.w.image ≠ [] → 64 < (imageWord c.w.image 1).toNat → exec (.topkMrg e) s = .next trap)
        ∧ (c.w.image ≠ [] → (imageWord c.w.image 1).toNat ≤ 64 → ∃ t y, exec (.topkMrg e) s = .next t ∧ t.wave? c.wid = some y ∧ y.pc = nextPc c.w e ∧ y.vregs = c.w.vregs
            ∧ t.mem = c.s.mem ∧ y.topk.k = old.k ∧ y.topk.entries.length ≤ old.k ∧ (y.topk.entries.map Prod.snd).Nodup ∧ ordered y.topk.entries
            ∧ (∀ x ∈ y.topk.entries, x ∈ old.entries ++ imageEntries c.w.image)
            ∧ (∀ x ∈ old.entries ++ imageEntries c.w.image, (∀ z ∈ y.topk.entries, z.2 ≠ x.2) → y.topk.entries.length = old.k ∧ ∀ z ∈ y.topk.entries, ranksAbove x z = false)
            ∧ y.topk.sel = y.topk.entries.foldl (fun a x => fAdd a x.1) 0#32))

/-! ## Memory controllers, the capacity tier and the whole-memory checkpoint -/

/-- A request that its channel issues now (R374, R375, R381, R413): it joins the queue of its bank's stack, no service action holds its
bank, and it is the channel's choice. -/
def Sys2Proof.Served (s : State) (r : HbmReq) : Prop :=
  let k := r.coord.bank.stack
  k < s.stks.length ∧ coordOk r.coord = true ∧ s.mem.coordOf r.line = r.coord ∧ s.bankHeld r.coord = false
    ∧ s.channelChoice (((s.stack k).join r).noteReq r.coord.bank.pch s.clk) (r.coord.bank.pch / 2) = some r

/-- HBM banks (R375-R381). Of a channel's eligible requests a free bank serves the oldest hit, but the oldest request for another row when
it has no hit or served HIT_CAP hits while one waited; another row comes 40 clocks after the last activation, after every command that is
due. A sole eligible request is served. An activation counts in the row's ACT; at THR it clears ACT, records the event, signals the
interrupt and makes one command due. A read of a column that is not poisoned counts one or two bytes in error as corrected, more as
uncorrectable, and poisons it; a partial write reads first. An idle bank closes, a due command holds its bank 96 clocks, counted in
BANK_BO while a request waits, and a periodic refresh changes no ACT. The memory-side cache (R382) takes the lines that are read and
written, holds at most 16 of a set, and a dirty line that leaves it is written back. The controller's clock (log entry 97), which hits and
back-off clocks count and when a request joins its queue (log entry 98), the code by which a column is corrected (log entry 7) and the placement of the
cache's lines (log entry 150) are the model's. -/
def Obligations.BanksRowsAndErrors : Prop :=
  (∀ (s : State) (st : Stack) (ch : Nat) (r : HbmReq),
    let bk := st.bankSt r.coord.bank
    let v := st.qosSlot ch (s.ctlClock / 4 % 64)
    let mine (x : HbmReq) : Prop := x.coord.bank.pch / 2 = ch
    let elig (x : HbmReq) : Prop := x ∈ st.queue ∧ mine x ∧ (v < 128 ∨ x.part = v % 16 ∨ (v.testBit 6 = true ∧ ∀ y ∈ st.queue, mine y → y.part ≠ v % 16))
    let hit (x : HbmReq) : Prop := bk.openRow = some x.coord.row
    let turns : Prop := bk.due = [] ∧ ∀ a, bk.lastAct = some a → a + 40 ≤ s.ctlClock
    let free : Prop := (ch, s.ctlClock / 4) ∉ st.slotUsed ∧ bk.busy ≤ s.ctlClock ∧ bk.occupied ≤ s.ctlClock
    (s.channelChoice st ch = some r → elig r ∧ free ∧ ∃ pre post, st.queue = pre ++ r :: post
      ∧ (hit r → (∀ x ∈ pre, elig x → x.coord.bank = r.coord.bank → ¬hit x)
          ∧ (bk.hits < (st.hbmCtl.extractLsb' 24 8).toNat ∨ ∀ x, elig x → x.coord.bank = r.coord.bank → hit x))
      ∧ (¬hit r → turns ∧ (∀ x ∈ pre, elig x → x.coord.bank = r.coord.bank → hit x)
          ∧ ((st.hbmCtl.extractLsb' 24 8).toNat ≤ bk.hits ∨ ∀ x, elig x → x.coord.bank = r.coord.bank → ¬hit x)))
    ∧ (elig r → (∀ x, elig x → x = r) → free → hit r ∨ turns → s.channelChoice st ch = some r))
  ∧ (∀ (s : State) (c : HbmCoord) (part line errs : Nat) (write : Option Bool), s.mem.wf →
    let r : HbmReq := { coord := c, part := part, line := line, write := write, errs := errs }
    Served s r →
    let k := c.bank.stack
    let st := s.stack k
    let bk := st.bankSt c.bank
    let x := st.hbmRow c.bank c.row
    let thr := (st.hbmCtl.extractLsb' 32 16).toNat
    let act := min 65535 (x.act.toNat + 1)
    let opened (t : State) : Prop :=
      let b := (t.stack k).bankSt c.bank
      b.openRow = some c.row ∧ b.lastUse = s.ctlClock ∧ (∀ y, y ∈ (t.stack k).queue ↔ y ∈ st.queue ∧ y ≠ r) ∧ (c.bank, c.row) ∈ (t.stack k).eccCache
      ∧ (bk.openRow = some c.row → b.hits = (if st.queue.any (fun y => y.coord.bank = c.bank && y.coord.row ≠ c.row) then bk.hits + 1 else 0)
          ∧ ((t.stack k).hbmRow c.bank c.row).act = x.act ∧ t.hub.mgmtIrq = s.hub.mgmtIrq ∧ b.due = bk.due)
      ∧ (bk.openRow ≠ some c.row → thr = 0 ∨ act < thr → ((t.stack k).hbmRow c.bank c.row).act.toNat = act ∧ t.hub.mgmtIrq = s.hub.mgmtIrq ∧ b.due = [])
      ∧ (bk.openRow ≠ some c.row → thr ≠ 0 → thr ≤ act → ((t.stack k).hbmRow c.bank c.row).act = 0#16 ∧ t.hub.mgmtIrq = s.hub.mgmtIrq + 1 ∧ b.due = [c.row]
          ∧ (t.stack k).mgmtAlert.extractLsb' 0 15 = BitVec.ofNat 15 c.row ∧ (t.stack k).mgmtAlert.extractLsb' 15 5 = BitVec.ofNat 5 c.bank.bank
          ∧ (t.stack k).mgmtAlert.extractLsb' 20 6 = BitVec.ofNat 6 c.bank.pch
          ∧ ((t.stack k).mgmtAlert.extractLsb' 32 32).toNat = min (2 ^ 32 - 1) ((st.mgmtAlert.extractLsb' 32 32).toNat + 1))
    let counts (t : State) (corr uncorr : Nat) : Prop :=
      (t.stack k).corr.toNat = min (2 ^ 32 - 1) (st.corr.toNat + corr) ∧ (t.stack k).uncorr.toNat = min (2 ^ 32 - 1) (st.uncorr.toNat + uncorr)
    let clean (t : State) (corr : Nat) : Prop := counts t corr 0 ∧ t.mem.hbm = s.mem.hbm ∧ t.mem.poison = s.mem.poison
    let spoilt (t : State) : Prop := counts t 0 1 ∧ t.mem.hbm = s.mem.hbm ∧ t.mem.poison = s.mem.poison ++ [line]
    let stale := s.mem.columns.find? (fun y => y.line = line)
    let checked (t : State) (n : Nat) : Prop :=
      (line ∈ s.mem.poison → clean t 0)
      ∧ (line ∉ s.mem.poison → stale = none → (n = 0 → clean t 0) ∧ (1 ≤ n → n ≤ 2 → clean t 1) ∧ (3 ≤ n → spoilt t))
      ∧ (∀ y, line ∉ s.mem.poison → stale = some y →
          (n ≤ 2 → (columnFix (2 - n) y.data y.check).isSome = true → clean t 1)
          ∧ (2 < n ∨ columnFix (2 - n) y.data y.check = none → spoilt t))
    (write = none → ∃ t, exec (.hbmRead c part line errs) s = .next t ∧ opened t ∧ checked t errs ∧ (∃ y ∈ t.mem.msc, y.line = line))
    ∧ (∀ full, write = some full → errs = 0 → ∃ t, exec (.hbmWrite c part line full) s = .next t ∧ opened t
        ∧ (full = true → clean t 0) ∧ (full = false → checked t 0)
        ∧ t.mem.columns = s.mem.columns.filter (fun y => y.line ≠ line) ∧ (∀ y ∈ t.mem.msc, y.line = line → y.dirty = false)
        ∧ ∀ y ∈ t.mem.wback, y.1 ≠ line))
  ∧ (∀ n d (check : Word), (∀ x, columnFix n d check = some x →
        x.length = d.length ∧ byteDiff d x + byteDiff (leBytes 4 check.toNat) (leBytes 4 (Config.checkSymbols x).toNat) ≤ n)
      ∧ (columnFix n d check = none → ∀ x : List Byte, x.length = d.length →
        n < byteDiff d x + byteDiff (leBytes 4 check.toNat) (leBytes 4 (Config.checkSymbols x).toNat)))
  ∧ (∀ (m : Mem) line part write, let set (x : MscLine) : Bool := m.mscPlace x.line = m.mscPlace line
      ((m.msc.filter set).length ≤ 16 → ((m.mscUse line part write).msc.filter set).length ≤ 16)
      ∧ (∃ x ∈ (m.mscUse line part write).msc, x.line = line ∧ (write = true → x.dirty = true ∧ x.part = part))
      ∧ ∀ x ∈ m.msc, x.line ≠ line → x ∈ (m.mscUse line part write).msc ∨ (x.dirty = true → (x.line, x.part) ∈ (m.mscUse line part write).wback))
  ∧ (∀ (s : State) (b : HbmBank), b.stack < s.stks.length →
    let st := s.stack b.stack
    let bk := st.bankSt b
    let idle := (st.hbmCtl.extractLsb' 0 16).toNat
    let asks (r : HbmReq) : Prop := r ∈ st.queue ∧ r.coord.bank = b
    let hit (r : HbmReq) : Prop := bk.openRow = some r.coord.row
    let waits : Prop := ∃ r, asks r ∧ (idle = 0 → hit r)
    let closes : Prop := bk.openRow = none ∨ ((∃ r, asks r ∧ ¬hit r) ∧ (∀ a, bk.lastAct = some a → a + 40 ≤ s.ctlClock)
      ∧ ((∀ r, asks r → ¬hit r) ∨ (st.hbmCtl.extractLsb' 24 8).toNat ≤ bk.hits))
    let only (t : State) (x : BankSt) : Prop := (t.stack b.stack).bankSt b = x ∧ (t.stack b.stack).rows = st.rows ∧ t.mem = s.mem
      ∧ (t.stack b.stack).bankBo = st.bankBo ∧ ∀ d, d ≠ b → (t.stack b.stack).bankSt d = st.bankSt d
    (bk.openRow ≠ none → ¬waits → bk.lastUse + idle ≤ s.ctlClock → ∃ t, exec (.idlePrecharge b) s = .next t ∧ only t { bk with openRow := none, hits := 0 })
    ∧ (bk.openRow = none ∨ waits ∨ s.ctlClock < bk.lastUse + idle → exec (.idlePrecharge b) s = .next s)
    ∧ (∀ r rest, bk.due = r :: rest → bk.busy ≤ s.ctlClock → bk.occupied ≤ s.ctlClock → closes →
        ∃ t, exec (.refreshManagement b) s = .next t ∧ only t { bk with openRow := none, hits := 0, due := rest, busy := s.ctlClock + 96 })
    ∧ (bk.due = [] ∨ s.ctlClock < bk.busy ∨ s.ctlClock < bk.occupied ∨ ¬closes → exec (.refreshManagement b) s = .next s)
    ∧ (bankOk b = true → ∃ t, exec (.periodicRefresh b) s = .next t ∧ only t { bk with occupied := s.ctlClock + Config.refreshClocks } ∧ (t.stack b.stack).qos = st.qos)
    ∧ (bankOk b = false → exec (.periodicRefresh b) s = .next s)
    ∧ (∀ t : State, s.ctlClock ≠ t.ctlClock → b.stack < t.stks.length → ((t.stack b.stack).banks.map BankSt.bank).Nodup →
        let bo (x : Stack) : Nat := ((x.bankBo.find? (fun y => y.1 = b)).map (fun y => y.2.toNat)).getD 0
        let x := t.stack b.stack
        bo ((s.hbmClock t).stack b.stack)
          = if s.ctlClock < (x.bankSt b).busy ∧ ∃ r ∈ x.queue, r.coord.bank = b then min (2 ^ 32 - 1) (bo x + 1) else bo x))

/-- A partition without resident work: its blocks are saved, none of its commands is in progress, and no region or Gecko step of it runs. -/
def Sys2Proof.NoWork (s : State) (p : Nat) : Prop :=
  (∀ b ∈ s.blocks, s.partOfBlock b.uid = p → b.status = .saved)
    ∧ (∀ c ∈ s.cmds, (∀ k, c.kind = .copy k → k.part = p → k.started = false) ∧ ((∀ k, c.kind ≠ .copy k) → s.partOfBlock c.blk = p → c.began = false))
    ∧ ∀ st ∈ s.stks, (∀ r ∈ st.regions, r.part = p → r.drain = none ∧ (r.state < 1 ∨ 3 < r.state)) ∧ ∀ u ∈ st.updates, u.part ≠ p

/-- The capacity tier's commands and the whole-memory checkpoint (R383-R385). A command starts unless one is pending, and its result
stands when it ends: an extent is added once, a retained one is not released, and a release loses the extent's data after its
requests. A checkpoint starts only with every partition halted or idle and extents 0-767 retained; the copy carries every row, its
checks, ACT and poison, to its stack's extents or back, and a fabric error ends it with result 3. The order of the rows in the extents
(log entry 64), and that the bytes of a released extent, which R384 only calls lost, read 0 (log entry 3), are the model's. -/
def Obligations.TierCommandsAndCheckpoints : Prop :=
  ∀ (s : State) (v : Dword), s.mem.wf →
    let ext := (v.extractLsb' 0 15).toNat
    let here := s.hub.extents.any (fun x => x.num = ext)
    let kept := s.hub.extents.any (fun x => x.num = ext && x.retain)
    let pending (op r : Nat) : CtPending := { op := op, ext := ext, tag := v.extractLsb' 32 24, result := BitVec.ofNat 8 (if s.hub.ckptRun then 4 else r) }
    (∀ granted, ∀ x ∈ [(Instr.ctAdd v granted, 1, if here then 1 else if granted then 0 else 3), (.ctRelease v, 2, if !here then 2 else if kept then 1 else 0),
        (.ctSetRetain v, 3, if here then 0 else 2), (.ctClearRetain v, 4, if here then 0 else 2)],
        (s.hub.extents.map Extent.num).Nodup → (v.extractLsb' 56 8).toNat = x.2.1 →
        (s.hub.ctBusy ≠ none → exec x.1 s = .next s)
        ∧ (s.hub.ctBusy = none → exec x.1 s = .next (s.updHub (fun h => { h with ctBusy := some (pending x.2.1 x.2.2) }))))
    ∧ (s.hub.ctBusy = none → exec .ctCmdDone s = .next s)
    ∧ (∀ c, s.hub.ctBusy = some c →
        let done (t : State) : Prop := exec .ctCmdDone s = .next t ∧ t.hub.ctBusy = none ∧ t.hub.ctResult = c.result ∧ t.mem.hbm = s.mem.hbm
        let lo := 2 ^ 51 + c.ext * 2 ^ 30
        (c.result ≠ 0#8 → ∃ t, done t ∧ t.hub.extents = s.hub.extents ∧ t.mem = s.mem)
        ∧ (c.result = 0#8 → c.op = 1 → ∃ t, done t ∧ t.hub.extents = s.hub.extents ++ [{ num := c.ext, tag := c.tag, retain := false }] ∧ t.mem = s.mem)
        ∧ (c.result = 0#8 → c.op = 2 → s.extentBusy c.ext = true → exec .ctCmdDone s = .next s)
        ∧ (c.result = 0#8 → c.op = 2 → s.extentBusy c.ext = false → ∃ t, done t ∧ (∀ x ∈ t.hub.extents, x.num ≠ c.ext)
            ∧ (∀ x ∈ s.hub.extents, x.num ≠ c.ext → x ∈ t.hub.extents)
            ∧ (∀ x ∈ t.mem.sysL2, x ∈ s.mem.sysL2 ∧ (x.1 = .tier → extentOf x.2.line ≠ c.ext))
            ∧ (∀ a, lo ≤ a → a < lo + 2 ^ 30 → t.mem.tier.read a = 0#8) ∧ (∀ a, ¬(lo ≤ a ∧ a < lo + 2 ^ 30) → t.mem.tier.read a = s.mem.tier.read a))
        ∧ (c.result = 0#8 → c.op = 3 ∨ c.op = 4 → ∃ t, done t ∧ t.mem = s.mem
            ∧ t.hub.extents = s.hub.extents.map (fun x => if x.num = c.ext then { x with retain := decide (c.op = 3) } else x)))
    ∧ (let ok := (∀ p < 16, (s.part p).halted = true ∨ NoWork s p) ∧ ∀ e < 768, ∃ x, s.hub.extents.find? (fun x => x.num = e) = some x ∧ x.retain = true
       ∀ x ∈ [(Instr.ckptStart v, false), (.ckptRestore v, true)],
        (v.getLsbD 1 ≠ x.2 → exec x.1 s = .next s)
        ∧ (v.getLsbD 1 = x.2 → v.getLsbD 0 = false ∨ s.hub.ckptRun = true → exec x.1 s = .next (s.updHub (fun h => { h with ckptRestore := x.2 })))
        ∧ (v.getLsbD 1 = x.2 → v.getLsbD 0 = true → s.hub.ckptRun = false → ok → ∃ t, exec x.1 s = .next t
            ∧ t.hub = { s.hub with ckptRun := true, ckptRestore := x.2, ckptBack := x.2 } ∧ t.blocks = s.blocks ∧ t.stks = s.stks ∧ (∀ y ∈ t.mem.msc, y.dirty = false) ∧ t.mem.wback = []
            ∧ t.mem.hbm = s.mem.hbm ∧ (s.mem.sysL2 = [] → t.mem = s.mem.mscFlush))
        ∧ (v.getLsbD 1 = x.2 → v.getLsbD 0 = true → s.hub.ckptRun = false → ¬ok →
            exec x.1 s = .next (s.updHub (fun h => { h with ckptResult := 4#8, ckptRestore := x.2 }))))
    ∧ (∀ err, s.hub.ckptRun = false → exec (.ckptComplete err) s = .next s)
    ∧ (s.hub.ckptRun = true → ∃ t, exec (.ckptComplete true) s = .next t ∧ t.hub.ckptRun = false ∧ t.hub.ckptResult = 3#8 ∧ t.stks = s.stks
        ∧ ((∀ p < 16, (s.part p).fqHeld = []) → t.mem = s.mem))
    ∧ (s.hub.ckptRun = true → (∀ p < 16, (s.part p).fqHeld = []) → (s.mem.columns.map BadColumn.line).Nodup →
        (∀ x ∈ s.mem.columns, x.data.length = 64 ∧ 64 * x.line < hbmBytes) →
        let place (c : HbmCoord) : Nat := 2 ^ 51 + ((((c.bank.stack * 64 + c.bank.pch) * 32 + c.bank.bank) * 32768 + c.row) * 16 + c.col) * 64
        let last (c : HbmCoord) : Nat := place { c with col := 15 }
        let topAddr := 2 ^ 51 + 768 * 2 ^ 30
        (∀ l, 64 * l < hbmBytes → coordOk (s.mem.coordOf l) = true ∧ s.mem.lineOf (s.mem.coordOf l) = l) →
        (∀ c, coordOk c = true → 64 * s.mem.lineOf c < hbmBytes ∧ s.mem.coordOf (s.mem.lineOf c) = c) → s.stks.length = 12 →
        (s.hub.ckptBack = false → ∃ t, exec (.ckptComplete false) s = .next t ∧ t.hub.ckptRun = false ∧ t.hub.ckptResult = 0#8
          ∧ t.mem.hbm = s.mem.hbm ∧ t.stks = s.stks ∧ (∀ a < hbmBytes, t.mem.tier.read (place (s.mem.coordOf (a / 64)) + a % 64) =
              (match s.mem.column? (a / 64) with | some x => x.data.getD (a % 64) 0#8 | none => s.mem.hbm.read a))
          ∧ (∀ c, coordOk c = true → let l := s.mem.lineOf c
              t.mem.tier.readN (last c + 4 * c.col) 4 = leBytes 4 (s.mem.checkOf l).toNat
              ∧ t.mem.tier.readN (last c + 60) 2 = leBytes 2 ((s.stack c.bank.stack).hbmRow c.bank c.row).act.toNat
              ∧ ((leNat (t.mem.tier.readN (last c + 62) 2)).testBit c.col = true ↔ l ∈ s.mem.poison))
          ∧ (∀ a, a < 2 ^ 51 ∨ topAddr ≤ a → t.mem.tier.read a = s.mem.tier.read a))
        ∧ (s.hub.ckptBack = true → ∃ t, exec (.ckptComplete false) s = .next t ∧ t.hub.ckptRun = false ∧ t.hub.ckptResult = 0#8
          ∧ t.mem.tier = s.mem.tier ∧ t.mem.msc = []
          ∧ (∀ l, 64 * l < hbmBytes →
              let data := (List.range 64).map (fun i => s.mem.tier.read (place (s.mem.coordOf l) + i))
              let check := leNat (s.mem.tier.readN (last (s.mem.coordOf l) + 4 * (s.mem.coordOf l).col) 4)
              ((Config.checkSymbols data).toNat = check → t.mem.column? l = none ∧ t.mem.hbm.readN (64 * l) 64 = data)
              ∧ ((Config.checkSymbols data).toNat ≠ check → t.mem.column? l = some { line := l, data := data, check := BitVec.ofNat 32 check }
                  ∧ t.mem.hbm.readN (64 * l) 64 = (columnFix 2 data (BitVec.ofNat 32 check)).getD data))
          ∧ (∀ a, hbmBytes ≤ a → t.mem.hbm.read a = s.mem.hbm.read a)
          ∧ ∀ c, coordOk c = true → let l := s.mem.lineOf c
              leBytes 4 (t.mem.checkOf l).toNat = s.mem.tier.readN (last c + 4 * c.col) 4
              ∧ leBytes 2 ((t.stack c.bank.stack).hbmRow c.bank c.row).act.toNat = s.mem.tier.readN (last c + 60) 2
              ∧ (l ∈ t.mem.poison ↔ (leNat (s.mem.tier.readN (last c + 62) 2)).testBit c.col = true)))

/-! ## Host, peers and network -/

/-- The BAR2 window, system accesses without an answer, and the end of a partition (R386-R390). A write that its page and the secure
ranges admit is one device-level step, a refused access only counts in HOST_ERR, an AtomicOp returns the old value and is performed once
at its home, and not at all on the capacity tier. An
error or timeout completes the oldest load, atomic or acknowledgement with cause 25, unless only helper lanes wait for it (R23). END waits for every wave, then ends the
partition's grids, regions, tasks and copy queues. That the end of a partition sets every CQERR bit and drains its regions (log entry 101), and that an AtomicOp at a
system home leaves the bytes which an L2 holds (log entry 55), is the model's reading. -/
def Obligations.HostAccessesAndPartitionEnd : Prop :=
  ∀ (s : State) (p : Nat), s.mem.wf → p < 16 → p < s.parts.length →
    let up := s.hub.hostUp = true ∧ s.hub.ckptRun = false
      ∧ ∀ x ∈ s.hub.services, ¬(x.running = true ∧ (x.kind = .linkRecovery .host ∨ x.kind = .firmware 0x40#16))
    let refused (i : Instr) : Prop := exec i s = .next (s.updPart p (fun x => { x with hostErr := BitVec.ofNat 32 (min (2 ^ 32 - 1) (x.hostErr.toNat + 1)) }))
    (∀ off : Dword, off.toNat < 2 ^ 36 → up →
        let va := ((s.part p).hwinVa + off).toNat
        (∀ n, 1 ≤ n → va % 64 + n ≤ 64 → (s.hostByte p .load va = none → refused (.hostBar2Read p off n))
            ∧ (∀ pl, s.hostByte p .load va = some pl → exec (.hostBar2Read p off n) s = .next s ∧ s.hostRead p off n = some (s.devBytes pl.space pl.pa n)))
        ∧ (∀ data, 1 ≤ data.length → va % 64 + data.length ≤ 64 → (s.hostByte p .store va = none → refused (.hostBar2Write p off data))
            ∧ (∀ pl, s.hostByte p .store va = some pl → pl.space = .hbm → s.stackHeld .hbm (pl.pa / 64) = false → Quiet s p →
                ∃ t, exec (.hostBar2Write p off data) s = .next t ∧ Wrote s t pl.pa data ∧ t.waves = s.waves ∧ (t.part p).hostErr = (s.part p).hostErr))
        ∧ (∀ op wide (x y : Dword), let n := if wide then 8 else 4
            (va % n ≠ 0 ∨ s.hostByte p .atomic va = none → refused (.hostAtomicop p off op wide x y))
            ∧ (∀ pl, va % n = 0 → s.hostByte p .atomic va = some pl → pl.space = .hbm → pl.pa % n = 0 → s.stackHeld .hbm (pl.pa / 64) = false → Quiet s p →
                (pl.ss = false → (s.seUse (s.objDie pl) ⟨.line, pl.pa / 64⟩).isSome = true) →
                let old := leNat (s.mem.hbm.readN pl.pa n)
                let new := match op with
                  | .fetchAdd => (old + x.toNat) % 2 ^ (8 * n)
                  | .swap => x.toNat % 2 ^ (8 * n)
                  | .cas => if old = x.toNat % 2 ^ (8 * n) then y.toNat % 2 ^ (8 * n) else old
                ∃ t, exec (.hostAtomicop p off op wide x y) s = .next t ∧ Wrote s t pl.pa (leBytes n new) ∧ t.waves = s.waves
                  ∧ (s.hostAtomic p off op wide x y).2 = some old)
            ∧ (∀ pl, va % n = 0 → s.hostByte p .atomic va = some pl → pl.space = .tier → refused (.hostAtomicop p off op wide x y))
            ∧ (∀ pl, va % n = 0 → s.hostByte p .atomic va = some pl → pl.space = .host ∨ pl.space = .peer → pl.pa % n = 0 → Quiet s p →
                let old := leNat ((s.mem.get pl.space).readN pl.pa n)
                let new := match op with
                  | .fetchAdd => (old + x.toNat) % 2 ^ (8 * n)
                  | .swap => x.toNat % 2 ^ (8 * n)
                  | .cas => if old = x.toNat % 2 ^ (8 * n) then y.toNat % 2 ^ (8 * n) else old
                ∃ t, exec (.hostAtomicop p off op wide x y) s = .next t ∧ (s.hostAtomic p off op wide x y).2 = some old ∧ t.mem.sysL2 = s.mem.sysL2
                  ∧ ∀ q, (t.mem.get pl.space).read q = if pl.pa ≤ q ∧ q < pl.pa + n then (leBytes n new).getD (q - pl.pa) 0#8 else (s.mem.get pl.space).read q)))
    ∧ (∀ off len, ¬up ∨ 2 ^ 36 ≤ off.toNat → exec (.hostBar2Read p off len) s = .next s ∧ ∀ data, exec (.hostBar2Write p off data) s = .next s)
    ∧ (∀ acc va pl, s.hostByte p acc va = some pl → (pl.space ≠ .host → s.secured pl.pa = false) ∧ (pl.space = .hbm → pl.pa < hbmBytes))
    ∧ (∀ w k x, s.wave? w = some x → ∀ i ∈ [Instr.sysErrorResponse w k, .sysTimeout w k],
        let late (d : Dword) : Prop := i = .sysErrorResponse w k ∨ 1400 * (s.part (s.partOfWave w)).sysTmo.toNat ≤ (s.clk - d).toNat
        let failed (t : State) (y : Wave) : Prop := exec i s = .next t ∧ t.wave? w = some y ∧ y.vregs = x.vregs ∧ y.sregs = x.sregs ∧ y.pc = x.pc ∧ ∃ q ∈ y.pend, q.code = 25#6
        (∀ o rest r, x.loads = o :: rest → o.remain[k]? = some r → r.space ≠ .hbm → r.scr = false → late o.issued →
            let wanted := ∃ a, a / 64 = r.line ∧ (∀ g ∈ o.got, g.1 ≠ a) ∧ o.mainWants a = true
            (wanted → ∃ t y, failed t y ∧ y.loads = rest ∧ t.mem = s.mem)
            ∧ (¬wanted → 1 < o.remain.length → ∃ t y o', exec i s = .next t ∧ t.wave? w = some y ∧ y = { x with loads := o' :: rest } ∧ t.mem = s.mem
                ∧ o'.remain = o.remain.eraseIdx k ∧ o'.got = o.got
                ∧ ∀ l a, l < 32 → o.helpers.getLsbD l = true → a / 64 = r.line → (∀ g ∈ o.got, g.1 ≠ a) → o.laneWants l a = true → o'.zeros.getLsbD l = true))
        ∧ (x.loads = [] → x.wait = .sysAtom → late x.lastIssue → exec i s = .next (s.updWave w (fun y => { y with stage := 10, wait := .no })))
        ∧ (∀ q, x.loads = [] → x.wait ≠ .sysAtom → x.sent[k]? = some q → q.sysWrite = true → q.space ≠ .hbm → late q.issued →
            ∃ t y, failed t y ∧ y.sent.map Sent.pline = (x.sent.eraseIdx k).map Sent.pline ∧ y.acks = x.acks - 1 ∧ t.mem.hbm = s.mem.hbm)
        ∧ (x.loads = [] → x.wait ≠ .sysAtom → x.sent[k]? = none → exec i s = .next s))
    ∧ (let ended (w : Wave) : Prop := s.partOfBlock w.blk ≠ p ∨ w.stopped = true ∨ w.stage = 0
         ∨ (w.wait ∉ [.no, .commit, .atom, .sysAtom] ∧ ¬(w.wait = .slot ∧ w.stage = 9))
       ((∃ w ∈ s.waves, ¬ended w) → exec (.partEnd p) s = .next (s.updPart p (fun x => { x with ending := true })))
       ∧ ((∀ w ∈ s.waves, ended w) → ∃ t, exec (.partEnd p) s = .next t ∧ (∀ g ∈ t.grids, g.launch.part ≠ p) ∧ (t.part p).ending = false ∧ (t.part p).halted = false
          ∧ (t.part p).cqerr = 0xFFFF#16 ∧ (∀ d < s.dies.length, (t.die d).tasks = (s.die d).tasks.filter (fun x => x.launch.part ≠ p)
              ∧ (t.die d).spawns = (s.die d).spawns.filter (fun x => x.1.part ≠ p))
          ∧ (∀ k slot r, s.region? k slot = some r → (r.part = p → r.over = false → t.region? k slot = some { r with state := 3, drain := some .stop })
              ∧ (r.part ≠ p → t.region? k slot = some r))))

/-- Peers and the Ethernet ports (R392, R394-R398, R400, R401). A peer's access that PLY_EXP and the secure ranges admit is performed at
device level, any other changes nothing; a UET write lands inside its registered region only, and is acknowledged or answered with a
transport error; a frame is classified and opened by the tables that it started with. Without a flow it counts as unmatched; with one
it lands in its ring's next slot, and a full ring loses it or holds it by its back-pressure, behind which its priority waits in
order. A command changes the flow or key tables when it ends. Among matching flows the lowest index is the model's choice (log entry 66); so are
where a held frame waits, the uncounted loss of a frame without a ring, and headroom and pause in what R398 leaves open (log entry 102), and the layout of
AES-GCM (log entry 7). -/
def Obligations.PeersAndFrames : Prop :=
  ∀ s : State, s.mem.wf →
    (∀ m (o : Dword), (∀ n, exec (.peerRequest m o (.read n)) s = .next s
          ∧ s.peerRead m o.toNat n = (if s.peerAllowed m o.toNat n true false false then some (s.devBytes .hbm o.toNat n) else none))
        ∧ (∀ n rd wr at_, s.peerAllowed m o.toNat n rd wr at_ = true → let x := s.hub.plyEntry m
            x.getLsbD 63 = true ∧ (rd = true → x.getLsbD 61 = true) ∧ (wr = true → x.getLsbD 62 = true) ∧ (at_ = true → x.getLsbD 60 = true)
            ∧ ∀ i < n, s.secured (o.toNat + i) = false ∧ (x.extractLsb' 0 10).toNat ≤ (o.toNat + i) / 2 ^ 30 ∧ (o.toNat + i) / 2 ^ 30 ≤ (x.extractLsb' 10 10).toNat)
        ∧ (∀ data, (s.peerAllowed m o.toNat data.length false true false = false → exec (.peerRequest m o (.write data)) s = .next s)
          ∧ (s.peerAllowed m o.toNat data.length false true false = true → s.hub.ckptRun = false → Calm s → s.loggersOf o.toNat = [] → s.parts.length ≤ 16 →
              ∃ t, exec (.peerRequest m o (.write data)) s = .next t ∧ Wrote s t o.toNat data ∧ t.waves = s.waves))
        ∧ (∀ (op : BitVec 8) wide sg (x y : Dword), let n := if wide then 8 else 4
            (o.toNat % n ≠ 0 ∨ op.toNat < 0x90 ∨ 0x98 < op.toNat ∨ s.peerAllowed m o.toNat n true true true = false →
              exec (.peerRequest m o (.atom op wide sg false x y)) s = .next s)
            ∧ (o.toNat % n = 0 → op ∈ [0x90#8, 0x96#8, 0x97#8] → s.peerAllowed m o.toNat n true true true = true → s.hub.ckptRun = false → Calm s → s.loggersOf o.toNat = [] →
                s.parts.length ≤ 16 → (s.seUse (s.homeDie .hbm (o.toNat / 64)) ⟨.line, o.toNat / 64⟩).isSome = true →
                let old := leNat (s.mem.hbm.readN o.toNat n)
                let z := x.toNat % 2 ^ (8 * n)
                let new := if op = 0x90#8 then (old + z) % 2 ^ (8 * n) else if op = 0x96#8 then z else if old = z then y.toNat % 2 ^ (8 * n) else old
                ∃ t, exec (.peerRequest m o (.atom op wide sg false x y)) s = .next t ∧ Wrote s t o.toNat (leBytes n new) ∧ t.waves = s.waves)))
    ∧ (∀ p region (off : Dword) data bs, p < 16 → region < 256 → s.hub.ckptRun = false → Calm s → s.vread 0 p ((s.part p).uetRt.toNat + 16 * region) 16 = .ok bs →
        let va := leNat (bs.take 8) % 2 ^ 57 + off.toNat
        let w1 := leNat (bs.drop 8)
        let ok := w1.testBit 63 = true ∧ w1.testBit 62 = true ∧ off.toNat + data.length ≤ w1 % 2 ^ 40
        let denied : Prop := exec (.uetWrite p region off data) s = .next s ∧ (s.uetWrite p region off data).2 = .transportError
        (¬ok → denied)
        ∧ (ok → 1 ≤ data.length → va % 64 + data.length ≤ 64 → (∀ c, s.translateDie 0 p .store va = .error c → denied)
          ∧ (∀ pl, s.translateDie 0 p .store va = .ok pl → pl.space = .hbm → Quiet s p →
            ∃ t, exec (.uetWrite p region off data) s = .next t ∧ Wrote s t pl.pa data ∧ t.waves = s.waves ∧ (s.uetWrite p region off data).2 = .acknowledged)))
    ∧ (∀ flows f, (∀ x, flowOf flows f = some x → x ∈ flows ∧ x.matches f = true ∧ ∀ y ∈ flows, y.matches f = true → x.index ≤ y.index)
        ∧ (flowOf flows f = none → ∀ y ∈ flows, y.matches f = false))
    ∧ (∀ (x : Flow) (f : Sys2Proof.Frame),
        let key := (s.hub.tablesOf f).2.find? (fun k => k.port = f.port && k.index = (x.w2.extractLsb' 0 12).toNat && k.index ≠ 4095)
        let body := f.payload.drop 8
        let iv := f.payload.take 8
        (x.w2.getLsbD 60 = false → s.hub.landed x f = some (f.head ++ f.payload, s.hub))
        ∧ (x.w2.getLsbD 60 = true → key = none ∨ f.payload.length < 24 → s.hub.landed x f = none)
        ∧ (∀ k, x.w2.getLsbD 60 = true → key = some k → 24 ≤ f.payload.length →
            let stale := k.replay = true ∧ ∃ n, k.lastIv = some n ∧ beNat iv ≤ n
            (stale → s.hub.landed x f = none)
            ∧ (¬stale → s.hub.landed x f = (gcmOpen (k.key.flatMap (fun d => leBytes 8 d.toNat)) (leBytes 4 k.salt.toNat ++ iv) iv
                (body.take (body.length - 16)) (body.drop (body.length - 16))).map (fun plain => (f.head ++ plain, s.hub.noteIv k (beNat iv))))))
    ∧ (∀ f, f.port < 4 → s.hub.linkDown (.eth f.port) = false → f.wireLen ≤ 9216 →
        (flowOf (s.hub.tablesOf f).1 f = none → exec (.ethFrame f) s = .next (s.updHub (fun h => { h with netUnmatched := BitVec.ofNat 32 (min (2 ^ 32 - 1) (h.netUnmatched.toNat + 1)) })))
        ∧ (∀ x r, flowOf (s.hub.tablesOf f).1 f = some x →
            let p := (x.w2.extractLsb' 28 4).toNat
            let n := (x.w2.extractLsb' 22 6).toNat
            let mine (y : HeldFrame) : Prop := y.part = p ∧ y.ring = n
            let full := r.fullAfter (s.hub.held.filter (fun y => !y.lost && y.part = p && y.ring = n)).length = true
            let behind := ∃ y ∈ s.hub.held, y.lost = false ∧ (mine y ∨ (y.port = f.port ∧ y.prio = r.prio))
            let counts (t : State) (i : Nat) : Nat := (t.hbmDword (r.pa + 8 * i)).toNat
            let was (i : Nat) : Nat := (r.ws.getD i 0#64).toNat
            let lost (t : State) : Prop := exec (.ethFrame f) s = .next t ∧ counts t 6 = (was 6 + 1) % 2 ^ 64 ∧ counts t 7 = (was 7 + f.wireLen) % 2 ^ 64
              ∧ (∀ i < 6, counts t i = was i) ∧ t.hub.held = s.hub.held
            s.ingest p n = some r → Quiet s p → Calm s → s.hub.ckptRun = false →
            (r.lands = false ∨ s.hub.landed x f = none → ∃ t, lost t ∧ t.hub = s.hub)
            ∧ (∀ bs h, r.lands = true → s.hub.landed x f = some (bs, h) →
              (2 ^ r.slotLog - 16 < bs.length → ∃ t, lost t) ∧ (full → r.backPressure = false → ∃ t, lost t ∧ t.hub = h)
              ∧ (bs.length ≤ 2 ^ r.slotLog - 16 →
                (∀ pl, ¬behind → ¬full → s.translateDie 0 p .store (r.w 0 + r.w 2 % 2 ^ r.size * 2 ^ r.slotLog) = .ok pl → pl.space = .hbm →
                  pl.pa + 2 ^ r.slotLog ≤ r.pa ∨ r.pa + 64 ≤ pl.pa →
                  ∃ t, exec (.ethFrame f) s = .next t ∧ t.hub = h ∧ t.waves = s.waves
                    ∧ t.mem.hbm.readN pl.pa (16 + bs.length) = leBytes 4 bs.length ++ leBytes 4 x.index ++ leBytes 8 s.clk.toNat ++ bs
                    ∧ counts t 2 = (was 2 + 1) % 2 ^ 64 ∧ counts t 3 = was 3 ∧ counts t 4 = (was 4 + 1) % 2 ^ 64 ∧ counts t 5 = (was 5 + f.wireLen) % 2 ^ 64
                    ∧ counts t 6 = was 6 ∧ counts t 7 = was 7 ∧ (p < s.parts.length → (t.part p).irq1 = (s.part p).irq1 + (if r.intEn then 1 else 0)))
                ∧ ((full ∧ r.backPressure = true) ∨ (behind ∧ ¬full) →
                  (s.hub.headroomUsed f.port + f.wireLen ≤ 2 * 2 ^ 20 → ∃ t, exec (.ethFrame f) s = .next t ∧ t.mem = s.mem ∧ t.hub.held = s.hub.held
                    ++ [{ port := f.port, prio := r.prio, flow := x.index, part := p, ring := n, wireLen := f.wireLen, bytes := bs, clk := s.clk }])
                  ∧ (2 * 2 ^ 20 < s.hub.headroomUsed f.port + f.wireLen → ∃ t, lost t)
                  ∧ (full → r.backPressure = true → ∃ t, exec (.ethFrame f) s = .next t ∧ ⟨f.port, r.prio, p, n⟩ ∈ t.hub.paused))))))
    ∧ (∀ port prio, (∀ x ∈ s.hub.held, ¬(x.port = port ∧ x.prio = prio)) → ∃ t, exec (.heldFrameLanding port prio) s = .next t ∧ t.mem = s.mem ∧ t.hub.held = s.hub.held
        ∧ ∀ q, q ∈ t.hub.paused ↔ q ∈ s.hub.paused ∧ ¬(q.port = port ∧ q.prio = prio ∧ ∀ r, s.ingest q.part q.ring = some r → r.full = false))
    ∧ (∀ port prio x r, s.hub.held.find? (fun x => x.port = port && x.prio = prio) = some x → s.ingest x.part x.ring = some r → Quiet s x.part → Calm s → s.hub.ckptRun = false →
        let alone : Prop := ∀ y ∈ s.hub.held, y.port = port → y.prio = prio → y.lost = true → y = x
        let first : Prop := ∀ y ∈ s.hub.held.takeWhile (fun y => y ≠ x), ¬(y.lost = false ∧ y.part = x.part ∧ y.ring = x.ring)
        let leaves (t : State) : Prop := exec (.heldFrameLanding port prio) s = .next t ∧ t.hub.held = s.hub.held.erase x
          ∧ ((∀ y ∈ s.hub.held.erase x, ¬(y.port = port ∧ y.prio = prio)) → ∀ q ∈ t.hub.paused, q.port = port → q.prio = prio → ∃ r, t.ingest q.part q.ring = some r ∧ r.full = true)
        (x.lost = false → alone → ¬first → exec (.heldFrameLanding port prio) s = .next s)
        ∧ (x.lost = true → alone → (∀ y ∈ s.hub.held.erase x, ¬(y.port = port ∧ y.prio = prio)) → ∃ t, leaves t ∧ t.hbmDword (r.pa + 48) = r.ws.getD 6 0#64 + 1#64
            ∧ (t.hbmDword (r.pa + 56)).toNat = ((r.ws.getD 7 0#64).toNat + x.wireLen) % 2 ^ 64)
        ∧ (x.lost = false → alone → first → r.lands = false ∨ (r.full = true ∧ r.backPressure = false) → ∃ t, leaves t ∧ t.hbmDword (r.pa + 48) = r.ws.getD 6 0#64 + 1#64
            ∧ (t.hbmDword (r.pa + 56)).toNat = ((r.ws.getD 7 0#64).toNat + x.wireLen) % 2 ^ 64)
        ∧ (x.lost = false → alone → first → r.lands = true → r.full = true → r.backPressure = true → exec (.heldFrameLanding port prio) s = .next s)
        ∧ (∀ pl, x.lost = false → alone → first → r.lands = true → r.full = false → s.translateDie 0 x.part .store (r.w 0 + r.w 2 % 2 ^ r.size * 2 ^ r.slotLog) = .ok pl → pl.space = .hbm →
            x.bytes.length ≤ 2 ^ r.slotLog - 16 → pl.pa + 2 ^ r.slotLog ≤ r.pa ∨ r.pa + 64 ≤ pl.pa →
            ∃ t, leaves t ∧ t.mem.hbm.readN pl.pa (16 + x.bytes.length) = leBytes 4 x.bytes.length ++ leBytes 4 x.flow ++ leBytes 8 x.clk.toNat ++ x.bytes
              ∧ t.hbmDword (r.pa + 16) = r.ws.getD 2 0#64 + 1#64))
    ∧ (∀ v : Dword, ∀ x ∈ [(Instr.netWriteFlow v, 1), (.netClearFlow v, 2), (.netWriteKey v, 3), (.netClearKey v, 4)], (v.extractLsb' 56 8).toNat = x.2 →
        let lost := s.hub.netBusy ≠ none ∨ (3 ≤ x.2 ∧ 4095 ≤ (v.extractLsb' 0 14).toNat)
        (lost → exec x.1 s = .next s) ∧ (¬lost → exec x.1 s = .next (s.updHub (fun h => { h with netBusy := some (v, h.netData) }))))
    ∧ (s.hub.netBusy = none → exec .netCmdDone s = .next s)
    ∧ (∀ v d, s.hub.netBusy = some (v, d) → let op := (v.extractLsb' 56 8).toNat
        let port := (v.extractLsb' 54 2).toNat
        let i := (v.extractLsb' 0 14).toNat
        ∃ t, exec .netCmdDone s = .next t ∧ t.hub.netBusy = none ∧ t.mem = s.mem ∧ t.hub.held = s.hub.held
          ∧ (op = 1 ∨ op = 2 → t.hub.keys = s.hub.keys) ∧ (3 ≤ op → t.hub.flows = s.hub.flows)
          ∧ (op = 1 → ∀ y, y ∈ t.hub.flows ↔ y = { port := port, index := i, w0 := d.getD 0 0#64, w1 := d.getD 1 0#64, w2 := d.getD 2 0#64 } ∨ (y ∈ s.hub.flows ∧ ¬(y.port = port ∧ y.index = i)))
          ∧ (op = 2 → ∀ y, y ∈ t.hub.flows ↔ y ∈ s.hub.flows ∧ ¬(y.port = port ∧ y.index = i))
          ∧ (op = 3 → ∃ k ∈ t.hub.keys, k.port = port ∧ k.index = i ∧ k.key = d.take 4 ∧ k.salt = (d.getD 4 0#64).extractLsb' 0 32 ∧ k.replay = (d.getD 4 0#64).getLsbD 32 ∧ k.lastIv = none)
          ∧ (op = 4 → ∀ k ∈ t.hub.keys, ¬(k.port = port ∧ k.index = i))
          ∧ ∀ f : Sys2Proof.Frame, f.began.toNat ≤ s.clk.toNat → (∀ y ∈ s.hub.netPast, y.upTo.toNat < f.began.toNat) → t.hub.tablesOf f = (s.hub.flows, s.hub.keys))

/-! ## Security processor, live service, power and registers -/

/-- The `i`-th 64-bit word of an image (R407). -/
def Sys2Proof.imgWord (image : List Byte) (i : Nat) : Dword := BitVec.ofNat 64 (leNat ((image.drop (8 * i)).take 8))
/-- The header of an image is well-formed (R407): its magic number, its reserved bits and its length. -/
def Sys2Proof.ImageForm (image : List Byte) : Prop :=
  (imgWord image 0).extractLsb' 0 32 = 0x57464853#32 ∧ (imgWord image 0).extractLsb' 48 16 = 0#16 ∧ (imgWord image 1).extractLsb' 48 16 = 0#16
    ∧ (imgWord image 2).extractLsb' 32 32 = 0#32 ∧ ((imgWord image 2).extractLsb' 0 32).toNat % 64 = 0 ∧ ∀ i < 5, imgWord image (3 + i) = 0#64

/-- The security processor's mailbox commands (R406-R411). Boot verifies every target's image with the key whose digest its ROM holds, and
starts nothing until its own is accepted; an image from PF 0 is refused with 1 to 3 or becomes its target's measurement; a commit
raises the minimum SVN; an attestation advances its key's index before its report is released with a signature of 2,820 bytes, and 2^20
reports exhaust it with 5; a service request is queued once, and not while its unit is busy; a secure partition's register write moves
next. A busy mailbox takes no command. The forms in which the spec leaves commands open, how boot images arrive, where a commit's target
stands (ARG0), and that PF 0's addresses end with the usable HBM, are the model's (log entries 67, 68, 106, 116 and 133). -/
def Obligations.MailboxCommands : Prop :=
  (∀ s : State, let image (g : BitVec 16) := Config.bootImage g s.now
      let least (g : BitVec 16) : BitVec 16 := ((s.hub.fw? g).map Firmware.minSvn).getD 0#16
      let good (g : BitVec 16) : Prop := (imgWord (image g) 0).extractLsb' 32 16 = g ∧ ImageForm (image g)
        ∧ Config.xmssVerify s.hub.romKey (image g) (Config.bootSignature g s.now) = true ∧ least g ≤ (imgWord (image g) 1).extractLsb' 32 16
      (s.hub.booted = true ∨ ¬good 0x0001#16 → exec .securityBoot s = .next s)
      ∧ (s.hub.booted = false → good 0x0001#16 → ∃ t, exec .securityBoot s = .next t ∧ t.hub.booted = true ∧ t.mem = s.mem ∧ t.waves = s.waves
          ∧ ∀ g ∈ fwTargets, let idle : Firmware := { target := g, version := 0#32, svn := 0#16, digest := 0#256, minSvn := least g }
            let w := imgWord (image g) 1
            (good g → g ∉ t.hub.unverified
              ∧ t.hub.fw? g = some { idle with version := w.extractLsb' 0 32, svn := w.extractLsb' 32 16, digest := Config.shake256 (image g) })
            ∧ (¬good g → g ∈ t.hub.unverified ∧ t.hub.fw? g = some idle)))
  ∧ (∀ (s : State) (o : Origin) (m : Mailbox), s.mailbox o = some m → (∀ p, o = .vf p → p < s.parts.length) →
    let ends (i : Instr) (r : Nat) (t : State) : Prop := exec i s = .next t ∧ t.mailbox o = some { m with result := BitVec.ofNat 8 r, busy := false }
    let report := s.hub.reports.find? (fun x => x.1 = o)
    (m.busy = true → exec (.spmLoadImage o) s = .next s ∧ exec (.spmSvnCommit o) s = .next s ∧ (∀ k, exec (.spmServiceRequest o k) s = .next s)
        ∧ exec (.spmWriteSecureReg o) s = .next s ∧ (report = none → exec (.spmAttest o) s = .next s))
    ∧ (m.busy = false → o ≠ .pf0 → (∃ t, ends (.spmLoadImage o) 1 t ∧ t.hub.firmware = s.hub.firmware) ∧ (∃ t, ends (.spmSvnCommit o) 1 t ∧ t.hub.firmware = s.hub.firmware)
        ∧ ∀ k, ∃ t, ends (.spmServiceRequest o k) 1 t ∧ t.hub.services = s.hub.services)
    ∧ (m.busy = false → o = .pf0 →
        (let a := m.arg0.toNat
         let head := s.mem.hbm.readN a 64
         let len := ((imgWord head 2).extractLsb' 0 32).toNat
         let g := (imgWord head 0).extractLsb' 32 16
         let image := head ++ s.mem.hbm.readN (a + 64) len
         let signed := Config.xmssVerify s.hub.romKey image (s.mem.hbm.readN (a + 64 + len) 2820)
         let svn := (imgWord head 1).extractLsb' 32 16
         (s.hub.fw? g = none ∨ ¬ImageForm head ∨ hbmBytes < a + 64 + len + 2820 → ∃ t, ends (.spmLoadImage o) 1 t ∧ t.hub.firmware = s.hub.firmware)
         ∧ (∀ x, s.hub.fw? g = some x → ImageForm head → a + 64 + len + 2820 ≤ hbmBytes →
             (signed = false → ∃ t, ends (.spmLoadImage o) 2 t ∧ t.hub.firmware = s.hub.firmware)
             ∧ (signed = true → svn < x.minSvn → ∃ t, ends (.spmLoadImage o) 3 t ∧ t.hub.firmware = s.hub.firmware)
             ∧ (signed = true → x.minSvn ≤ svn → ∃ t, ends (.spmLoadImage o) 0 t ∧ g ∉ t.hub.unverified
                 ∧ t.hub.fw? g = some { x with version := (imgWord head 1).extractLsb' 0 32, svn := svn, digest := Config.shake256 image }
                 ∧ (∀ h, h ≠ g → t.hub.fw? h = s.hub.fw? h)
                 ∧ (Config.installsKey image = true → t.hub.keyIndex = 0 ∧ t.hub.keyCert = Config.keyCert t.hub.keyGen)
                 ∧ (Config.installsKey image = false → t.hub.keyIndex = s.hub.keyIndex ∧ t.hub.keyCert = s.hub.keyCert))))
        ∧ (∀ x, s.hub.fw? (m.arg0.extractLsb' 0 16) = some x → ∃ t, ends (.spmSvnCommit o) 0 t
            ∧ t.hub.fw? (m.arg0.extractLsb' 0 16) = some { x with minSvn := BitVec.ofNat 16 (max x.minSvn.toNat x.svn.toNat) })
        ∧ (s.hub.fw? (m.arg0.extractLsb' 0 16) = none → ∃ t, ends (.spmSvnCommit o) 1 t ∧ t.hub.firmware = s.hub.firmware)
        ∧ (∀ k, (∃ x ∈ s.hub.services, x.kind = k ∨ (x.running = true ∧ svcUnit x.kind = svcUnit k)) → ∃ t, ends (.spmServiceRequest o k) 4 t ∧ t.hub.services = s.hub.services)
        ∧ (∀ k, (∀ x ∈ s.hub.services, x.kind ≠ k ∧ (x.running = true → svcUnit x.kind ≠ svcUnit k)) → ∃ t y, ends (.spmServiceRequest o k) 0 t ∧ t.hub.services = s.hub.services ++ [y] ∧ y.kind = k ∧ y.running = false ∧ y.id = s.hub.nextService))
    ∧ (m.busy = false → report = none →
        (s.mboxRead o m.arg0.toNat 32 = none → ∃ t, ends (.spmAttest o) 1 t ∧ t.hub.keyIndex = s.hub.keyIndex)
        ∧ (∀ nonce, s.mboxRead o m.arg0.toNat 32 = some nonce →
            (2 ^ 20 ≤ s.hub.keyIndex → ∃ t, ends (.spmAttest o) 5 t ∧ t.hub.keyIndex = s.hub.keyIndex)
            ∧ (s.hub.keyIndex < 2 ^ 20 → ∃ t r, exec (.spmAttest o) s = .next t ∧ t.mailbox o = some { m with busy := true } ∧ t.hub.keyIndex = s.hub.keyIndex + 1
                ∧ t.hub.reports = s.hub.reports ++ [(o, s.hub.keyIndex, r)] ∧ t.mem = s.mem ∧ (r.drop 32).take nonce.length = nonce)))
    ∧ (∀ i r, report = some (o, i, r) → let out := r ++ leBytes 2820 (Config.xmssSign s.hub.keyGen i r).toNat
        let s0 := s.updHub (fun h => { h with reports := h.reports.filter (fun x => x.1 ≠ o) })
        out.length = r.length + 2820
        ∧ (s0.mboxWrite o m.arg1.toNat out = none → ∃ t, ends (.spmAttest o) 1 t ∧ t.hub.reports = s0.hub.reports ∧ t.hub.keyIndex = s.hub.keyIndex)
        ∧ (∀ s1, s0.mboxWrite o m.arg1.toNat out = some s1 → s1.mailbox o = s.mailbox o → ∃ t, ends (.spmAttest o) 0 t ∧ t.mem = s1.mem))
    ∧ (m.busy = false →
        let secure := match o with | .vf p => s.world p | _ => false
        (∀ i, secure = true → Config.secureWrite m.arg0 m.arg1 = some i → secureWrite i = true → ∃ t, ends (.spmWriteSecureReg o) 0 t ∧ t.agenda = .event i :: s.agenda)
        ∧ (secure = false ∨ (∀ i, Config.secureWrite m.arg0 m.arg1 = some i → secureWrite i = false) → ∃ t, ends (.spmWriteSecureReg o) 1 t ∧ t.agenda = s.agenda)
        ∧ (∀ i, secureWrite i = true → match i with | .registerWrite x r _ => x = .secure ∧ secureReg r = true | _ => True)))

/-- Live service (R412-R414). An action that is asked for, or that its unit's counters ask for, is listed and waits; it starts only when none runs on
its unit, a recalibration only when its pseudo-channel has had no request for 10 us (log entry 104), and moves its unit's work out of the way: a core swap pre-empts the
core's blocks, a pad frame's regions are asked to move, firmware holds its die's or stack's work. It ends once that work has gone,
signals vector 0, and leaves its unit as it says. A failed core without a spare leaves every mask. PHYS of a swapped core, 104 less the spares left
(log entry 105), and a target refused at boot being held until its activation (log entry 133), are the model's. -/
def Obligations.ServiceActions : Prop :=
  ∀ s : State,
    (∀ c b row k n pf port u g, g ∈ fwTargets → ∀ x ∈ [(Instr.spareCoreSwap c, SvcKind.coreSwap c), (.rowSparing b row, .rowSpare b row), (.pchRetirement k n, .pchRetire k n),
        (.hbmRecalibration k n, .hbmRecal k n), (.padFrameRecalibration k pf, .padRecal k pf), (.plyLaneRetraining port, .plyRetrain port),
        (.d2dLaneRetraining, .d2dRetrain), (.portLinkRecovery u, .linkRecovery u), (.firmwareActivation g, .firmware g)],
        let fresh : Service := { id := s.hub.nextService, kind := x.2, running := false, blks := [] }
        let s1 := if (∃ y ∈ s.hub.services, y.kind = x.2) ∨ s.svcPossible x.2 = false then s
          else s.updHub (fun h => { h with services := h.services ++ [fresh], nextService := h.nextService + 1 })
        ((∃ y ∈ s1.hub.services, y.running = true ∧ svcUnit y.kind = svcUnit x.2) → exec x.1 s = .next s1)
        ∧ (s.svcPossible x.2 = false → exec x.1 s = .next s)
        ∧ (∀ a, s1.hub.services.find? (fun y => y.kind = x.2) = some a → s1.svcMayStart a = false → exec x.1 s = .next s1)
        ∧ (∀ a, s1.hub.services.find? (fun y => y.kind = x.2) = some a → a.running = false → s.svcPossible x.2 = true → s1.svcMayStart a = true →
            ∃ t y, exec x.1 s = .next t ∧ y ∈ t.hub.services ∧ y.id = a.id ∧ y.kind = x.2 ∧ y.running = true ∧ (∀ z ∈ s.hub.services, z.id ≠ a.id → z ∈ t.hub.services)
            ∧ (∀ f, x.2 = .padRecal k f → k < s.stks.length → f ∈ (t.stack k).busyFrames
                ∧ ∀ slot r, s.region? k slot = some r → f ∈ r.frames → r.drain = none → r.state = 2 → ∃ r', t.region? k slot = some r' ∧ r'.drain = some .move)
            ∧ (x.2 = .d2dRetrain → ∀ d < s.dies.length, (t.die d).d2dTraining = true)
            ∧ (g = 0x10#16 → x.2 = .firmware g → 0 < s.dies.length → (t.die 0).fwBusy = true)
            ∧ (g = 0x22#16 → x.2 = .firmware g → 2 < s.stks.length → (t.stack 2).fwBusy = true)
            ∧ (∀ u bl, x.2 = .coreSwap c → s.block? u = some bl → bl.core = c → bl.status = .resident → bl.pre = none → (∀ p, (s.part p).preDl ≠ 0#32) →
                ∃ bl', t.block? u = some bl' ∧ ∃ q, bl'.pre = some q ∧ q.why = .spare)))
    ∧ (∀ k n, (∃ r ∈ (s.stack k).queue, r.coord.bank.pch = n) ∨ (∃ y, (s.stack k).lastReq.find? (fun y => y.1 = n) = some y ∧ (s.clk - y.2).toNat < 14000) →
        ∀ a, a.kind = .hbmRecal k n → s.svcMayStart a = false)
    ∧ (∀ g, g ∉ fwTargets → exec (.firmwareActivation g) s = .next s)
    ∧ (∀ k, (∀ x ∈ s.hub.services, x.id = k → x.running = false) → exec (.serviceActionComplete k) s = .next s)
    ∧ (∀ k x, s.hub.services.find? (fun x => x.id = k && x.running) = some x →
        (s.svcReady x = false → exec (.serviceActionComplete k) s = .next s)
        ∧ (s.svcReady x = true → ∃ (t0 : State), exec (.serviceActionComplete k) s = .next (t0.distribute none) ∧ t0.hub.services = s.hub.services.filter (fun y => y.id ≠ k)
            ∧ t0.hub.mgmtIrq = s.hub.mgmtIrq + 1
            ∧ (∀ b r, x.kind = .rowSpare b r → b.stack < s.stks.length → (t0.stack b.stack).sparedRows = (s.stack b.stack).sparedRows ++ [(b, r)])
            ∧ (∀ n p, x.kind = .pchRetire n p → n < s.stks.length → (t0.stack n).sparePch = (s.stack n).sparePch - 1 ∧ p ∈ (t0.stack n).retiredPch
                ∧ (n / 6 < s.dies.length → (t0.die (n / 6)).svcPch = ((t0.stks.drop (6 * (n / 6))).take 6).foldl (fun m st => m + st.sparePch) 0))
            ∧ (∀ n f, x.kind = .padRecal n f → n < s.stks.length → (t0.stack n).busyFrames = (s.stack n).busyFrames.erase f)
            ∧ (x.kind = .d2dRetrain → ∀ d < s.dies.length, (t0.die d).d2dTraining = false)
            ∧ (x.kind = .firmware 0x11#16 → 1 < s.dies.length → ((t0.die 1).fwBusy = true ↔ 0x11#16 ∈ s.hub.unverified))
            ∧ (∀ c, x.kind = .coreSwap c → c < s.cores.length → dieOf c < s.dies.length → (t0.core c).phys = 104 - (s.die (dieOf c)).spareCores
                ∧ (t0.die (dieOf c)).spareCores = (s.die (dieOf c)).spareCores - 1))
        ∧ (∀ c, x.kind = .coreSwap c → (s.svcReady x = true ↔ ∀ b ∈ s.blocks, b.core = c → b.status = .saved)))
    ∧ (∀ c, (192 ≤ c ∨ (s.die (dieOf c)).spareCores ≠ 0 → exec (.coreFence c) s = .next s)
        ∧ (c < 192 → c < s.cores.length → (s.die (dieOf c)).spareCores = 0 → ∃ t, exec (.coreFence c) s = .next t ∧ (t.core c).fenced = true
            ∧ (∀ n, n ≠ c → (t.core n).fenced = (s.core n).fenced)))

/-! ## Swaps, Tadpole, the profiler and invalidations -/

/-- Partition swaps, Tadpole and the profiler (R271, R272, R277-R281). A swap or checkpoint asks every block of the partition to save and every region
to drain; once all have stopped the blocks leave their cores for shadow storage and the partition's translations go, and a swap in
brings them back. A checkpoint that fits holds the partition's grids and empties the log; a larger one is not taken. A replay
needs a checkpoint, and at TAD_STOP halts every wave. A profiler sample is 16 bytes in the next slot, and counts its stall reason. That a
swap and a checkpoint write nothing to memory (log entry 94), the units that a swap image takes beyond shadow storage (log entry 125), and when a checkpoint and a
replay are performed (log entry 95), are the model's. -/
def Obligations.SwapsCheckpointsAndReplays : Prop :=
  ∀ (s : State) (p : Nat), p < 16 → p < s.parts.length →
    let x := s.part p
    (x.ckptReq = true ∨ x.halted = true → exec (.partitionSwap p) s = .next s)
    ∧ (x.ckptReq = false → x.halted = false → let s1 := s.requestHalt p .swap
        (s1.haltReady p .swap = false → exec (.partitionSwap p) s = .next s1 ∧ (s1.part p).swapping = true ∧ s1.mem = s.mem
            ∧ ((∀ q, (s.part q).preDl ≠ 0#32) → ∀ b u, s.block? u = some b → s.partOfBlock u = p → b.status = .resident → b.pre = none →
                ∃ b' q, s1.block? u = some b' ∧ b'.pre = some q ∧ q.why = .swap ∧ ∀ w ∈ b.members, ∀ z, s.wave? w = some z → ∃ z', s1.wave? w = some z' ∧ z'.preq = true)
            ∧ (∀ k slot r, s.region? k slot = some r → r.part = p → r.state = 2 → r.drain = none → s1.region? k slot = some { r with drain := some .swap }))
        ∧ (s1.haltReady p .swap = true → ∃ t, exec (.partitionSwap p) s = .next t ∧ (t.part p).halted = true ∧ (t.part p).swapping = true ∧ t.waves = s1.waves
            ∧ t.mem.hbm = s.mem.hbm ∧ (∀ e ∈ t.mem.tlb, e.part ≠ p)
            ∧ (∀ u b, s1.block? u = some b → s1.partOfBlock u = p → b.status ≠ .saved → u ∈ (t.part p).swapped ∧ ∃ b', t.block? u = some b' ∧ b'.status = .saved
                ∧ b'.scr = b.scr ∧ b'.lines = b.lines ∧ b'.members = b.members)
            ∧ (∀ u b, s1.block? u = some b → s1.partOfBlock u ≠ p → t.block? u = some b) ∧ s1.excessUnits p = some (t.part p).swapUnits))
    ∧ (x.halted = false → exec (.partitionSwapIn p) s = .next s)
    ∧ (x.halted = true → (s.tickNow.bringAll x.swapped = none → exec (.partitionSwapIn p) s = .next s)
        ∧ (s.tickNow.bringAll x.swapped ≠ none → ∃ (t0 : State), exec (.partitionSwapIn p) s = .next (t0.distribute none) ∧ (t0.part p).halted = false ∧ (t0.part p).swapping = false
            ∧ (t0.part p).swapped = [] ∧ ((∀ q, (s.part q).preDl ≠ 0#32) → t0.mem.hbm = s.mem.hbm ∧ ∀ u ∈ x.swapped, ∀ b, s.block? u = some b →
              let fenced := (s.core b.core).fenced = true
              let leaving := fenced ∨ ∃ y ∈ s.hub.services, y.running = true ∧ y.kind = .coreSwap b.core
              ∃ b', t0.block? u = some b' ∧ b'.status = .resident ∧ b'.core = b.core ∧ b'.scr = b.scr ∧ b'.lines = b.lines
                ∧ (¬leaving → b'.pre = none) ∧ (leaving → ∃ q, b'.pre = some q ∧ (fenced → q.why = .fence) ∧ (¬fenced → q.why = .spare)))))
    ∧ (let tad := x.dbgCtl.getLsbD 3 = true ∧ x.dbgCtl.getLsbD 2 = false
       let due := tad ∧ x.tadIvl ≠ 0#32 ∧ 1400 * x.tadIvl.toNat ≤ (s.clk - x.ckptAt).toNat ∧ x.swapping = false
       let s1 := (s.requestHalt p .tadpole).updPart p (fun x => { x with ckptReq := true })
       (x.halted = true ∨ s.unitHeld 3 p = true ∨ (x.ckptReq = false ∧ ¬due) → exec (.tadpoleCheckpoint p) s = .next s)
       ∧ (∀ v : Dword, v.getLsbD 0 = false ∨ ¬tad ∨ x.halted = true ∨ (x.swapping = true ∧ x.ckptReq = false) → exec (.tadCmdCkpt p v) s = .next s)
       ∧ (∀ v : Dword, ∀ i ∈ [Instr.tadpoleCheckpoint p, .tadCmdCkpt p v], x.halted = false →
          (i = .tadpoleCheckpoint p → s.unitHeld 3 p = false ∧ (x.ckptReq = true ∨ due)) → (i = .tadCmdCkpt p v → v.getLsbD 0 = true ∧ tad ∧ (x.swapping = false ∨ x.ckptReq = true)) →
          (s1.haltReady p .tadpole = false → exec i s = .next s1)
          ∧ (s1.haltReady p .tadpole = true → let img := (s1.halt p).imageOf p
              (x.tadSize.toNat * 65536 < img.bytes → ∃ (t0 : State), (exec i s = .next t0 ∨ exec i s = .next (t0.distribute none)) ∧ (t0.part p).ckptReq = false ∧ (t0.part p).ckpt = x.ckpt
                ∧ (t0.part p).ckptAt = s.clk)
              ∧ (img.bytes ≤ x.tadSize.toNat * 65536 → ∃ (t0 : State), (exec i s = .next t0 ∨ exec i s = .next (t0.distribute none)) ∧ (t0.part p).ckptReq = false
                ∧ (t0.part p).ckpt = some img ∧ (t0.part p).log = [] ∧ (t0.part p).undo = [] ∧ (t0.part p).tadPos = 0#64 ∧ t0.mem.hbm = s.mem.hbm
                ∧ img.grids = s.grids.filter (fun g => g.launch.part = p)))))
    ∧ (x.dbgCtl.getLsbD 2 = false → exec (.tadpoleReplay p) s = .next s)
    ∧ (x.dbgCtl.getLsbD 2 = true →
        (x.replayPh = .off → x.ckpt = none ∨ x.swapping = true → exec (.tadpoleReplay p) s = .next s)
        ∧ (∀ i, x.replayPh = .off → x.ckpt = some i → x.swapping = false → exec (.tadpoleReplay p) s = .next (s.startReplay p i)
            ∧ (s.startReplay p i = s ∨ ((s.startReplay p i).part p).replayPh = .running ∧ ((s.startReplay p i).part p).tadPos = 0#64))
        ∧ (x.replayPh = .done → exec (.tadpoleReplay p) s = .next s)
        ∧ (x.replayPh = .running → x.tadPos = x.tadStop → ∃ t, exec (.tadpoleReplay p) s = .next t ∧ (t.part p).replayPh = .done ∧ (t.part p).replay = []
            ∧ ∀ w z, s.wave? w = some z → s.partOfBlock z.blk = p → ∃ y, t.wave? w = some y ∧ ∃ q ∈ y.pend, q.code = 51#6)
        ∧ (x.replayPh = .running → x.tadPos ≠ x.tadStop → x.replay = [] → exec (.tadpoleReplay p) s = .next (s.updPart p (fun x => { x with replayPh := .done })))
        ∧ (∀ e rest a ds, x.replayPh = .running → x.tadPos ≠ x.tadStop → x.replay = e :: rest → s.mem.wf →
            (e.kind ≠ 5#8 → exec (.tadpoleReplay p) s = .next s)
            ∧ (e.kind = 5#8 → e.words = a :: ds → a.toNat + 8 * ds.length ≤ hbmBytes → x.dbgCtl.getLsbD 3 = false → ∃ t, exec (.tadpoleReplay p) s = .next t ∧ (t.part p).replay = rest ∧ (t.part p).tadPos = x.tadPos + 1#64
                ∧ ∀ i < ds.length, t.hbmDword (a.toNat + 8 * i) = ds.getD i 0#64)))
    ∧ (∀ core, (x.profCtl.extractLsb' 0 32 = 0#32 → exec (.profilerSample p core) s = .next s)
        ∧ (∀ w b, x.profCtl.extractLsb' 0 32 ≠ 0#32 → s.waves.filter (fun y => y.core = core) = [w] → w.slot < 48 → s.partOfBlock w.blk = p →
            s.block? w.blk = some b → b.status = .resident → x.dbgCtl.getLsbD 3 = false → x.replayPh ≠ .running → core < s.cores.length →
            let va := x.profBase.toNat + 16 * (x.profWrite.toNat % 2 ^ (x.profCtl.extractLsb' 32 5).toNat)
            let bs := leBytes 8 (w.pc.toNat % 2 ^ 57) ++ leBytes 8 (agentOf w + 65536 * w.stall.toNat)
            ∃ t, exec (.profilerSample p core) s = .next t ∧ (t.part p).profWrite = x.profWrite + 1#64 ∧ (t.core core).profPtr = (w.slot + 1) % 48 ∧ t.waves = s.waves
              ∧ (t.core core).sampled = (s.core core).sampled.modify w.stall.toNat (· + 1)
              ∧ (∀ s1, s.vwrite (dieOf core) p va bs = .ok s1 → t.mem = s1.mem) ∧ (∀ f, s.vwrite (dieOf core) p va bs = .error f → t.mem = s.mem)))

/-- Writes of the registers without a row of their own (R9, R386, R402): an origin that may not write a register changes
nothing; an address register keeps the bits of its field and reads 0 elsewhere; counters clear where 1s are written; values
outside a field's range leave the field or are raised to its least. Worlds, secure ranges, power and temperature (R404, R405,
R410, R416). A group of cores takes its new world once it holds no block; a secure range is zeroed before it stops being
secure, and becomes secure once the accesses past their check have ended; power or heat lower the clocks by one step, which leaves every count of compute-die clocks as it is, and at 1.40 GHz
that count is %clk; 115 degrees stop every wave; D3hot needs no work resident or saved; a loss of power keeps the fuses and
the attestation index only. Invalidation of translations (R275, R286). A write of TLB_INV_N queues an invalidation with the
range that TLB_INV names, and BUSY reads 1; when the first completes no translation of the partition in its range is cached,
every other stays, and BUSY reads 0 unless another waits. That 1s clear counters bit by bit and values out of range leave their field (log entry 103), that
an invalidation takes its range at the write of TLB_INV_N (log entry 87), clocks as counts of the die's own (log entry 107), the size of a clock's
step and when D3hot is taken (log entry 104), are the model's. -/
def Obligations.RegisterWritesWorldsAndPower : Prop :=
  (∀ (s : State) (o : Origin) (v : Dword) (p : Nat), p < 16 → p < s.parts.length →
    let x := s.part p
    let bits (hi lo : Nat) : Dword := BitVec.ofNat 64 (v.toNat / 2 ^ lo % 2 ^ (hi + 1 - lo) * 2 ^ lo)
    (∀ r, regAllowed o r = false → exec (.registerWrite o r v) s = .next s)
    ∧ (∀ r q, regAllowed (.vf q) r = true → regPart r = some q ∧ secureReg r = false)
    ∧ (∀ r, regAllowed .pf0 r = true → secureReg r = false) ∧ (∀ r, regAllowed .secure r = secureReg r)
    ∧ (∀ z ∈ [(RegName.lqBase p, Partition.lqBase, bits 56 0), (.hwinVa p, Partition.hwinVa, bits 56 16), (.irBase p, Partition.irBase, bits 56 0), (.uetRt p, Partition.uetRt, bits 56 0),
        (.ctxDesc p, Partition.ctxDesc, bits 51 6), (.ageLimit p, Partition.ageLimit, bits 47 0),
        (.profBase p, Partition.profBase, bits 56 0), (.tadBase p, Partition.tadBase, bits 51 16), (.tadLog p, Partition.tadLog, bits 51 16),
        (.tadStop p, Partition.tadStop, v), (.arrSaveBase p, Partition.arrSaveBase, bits 51 16), (.distCtl p, Partition.distCtl, bits 39 24 ||| bits 19 16),
        (.tlbInv p, Partition.tlbInv, bits 56 16 ||| bits 1 1)],
        regAllowed o z.1 = true → ∃ t, exec (.registerWrite o z.1 v) s = .next t ∧ z.2.1 (t.part p) = z.2.2 ∧ (∀ q, q ≠ p → t.part q = s.part q)
          ∧ t.mem = s.mem ∧ t.waves = s.waves ∧ t.hub = s.hub ∧ t.stks = s.stks ∧ t.dies = s.dies)
    ∧ (∀ z ∈ [(RegName.fqBase p, Partition.fqBase), (.fqSize p, Partition.fqSize)], regAllowed o z.1 = true → ∃ t, exec (.registerWrite o z.1 v) s = .next t ∧ z.2 (t.part p) = v
        ∧ (∀ q, q ≠ p → t.part q = s.part q) ∧ t.hub = s.hub ∧ (x.fqHeld = [] ∨ v = 0#64 → (t.part p).fqHeld = [] ∧ (t.part p).irq0 = x.irq0 + x.fqHeld.length
          ∧ (t.part p).fqWrite = x.fqWrite ∧ t.mem = s.mem ∧ t.waves = s.waves))
    ∧ (regAllowed o (.hostErr p) = true → exec (.registerWrite o (.hostErr p) v) s = .next (s.updPart p (fun y => { y with hostErr := x.hostErr &&& ~~~(v.extractLsb' 0 32) })))
    ∧ (regAllowed o (.sysTmo p) = true → exec (.registerWrite o (.sysTmo p) v) s = .next (s.updPart p (fun y => { y with sysTmo := BitVec.ofNat 16 (max 1 (v.extractLsb' 0 16).toNat) })))
    ∧ (regAllowed o (.sliceIvl p) = true → ∃ t, exec (.registerWrite o (.sliceIvl p) v) s = .next t ∧ (t.part p).sliceIvl.toNat = max 10 (v.extractLsb' 0 20).toNat ∧ t.mem = s.mem)
    ∧ (exec (.registerWrite .secure (.shadow p) v) s = .next (s.updPart p (fun y => { y with shadow := if (v.extractLsb' 0 7).toNat ≤ 80 then v.extractLsb' 0 7 else x.shadow })))
    ∧ (∀ d, d < s.dies.length → exec (.registerWrite .pf0 (.taskLost d) v) s = .next (s.updDie d (fun y => { y with taskLost := y.taskLost &&& ~~~(v.extractLsb' 0 32) })))
    ∧ (∀ k, k < s.stks.length → ∃ t, exec (.registerWrite .secure (.hbmCtl k) v) s = .next t ∧ t.mem = s.mem
        ∧ (t.stack k).hbmCtl.extractLsb' 32 16 = v.extractLsb' 32 16 ∧ (t.stack k).hbmCtl.extractLsb' 0 16 = v.extractLsb' 0 16
        ∧ (t.stack k).hbmCtl.extractLsb' 24 8 = (if v.extractLsb' 24 8 = 0#8 then 1#8 else v.extractLsb' 24 8) ∧ (t.stack k).hbmCtl.extractLsb' 16 8 = 0#8)
    ∧ (∀ k, k < s.stks.length → ∃ t, exec (.registerWrite .secure (.eccStat k) v) s = .next t ∧ (t.stack k).corr = (s.stack k).corr &&& ~~~(v.extractLsb' 32 32)
        ∧ (t.stack k).uncorr = (s.stack k).uncorr &&& ~~~(v.extractLsb' 0 32))
    ∧ (∀ k, k < s.stks.length → v.getLsbD 48 = true → ∃ t, exec (.registerWrite .secure (.aclkCtl k) v) s = .next t ∧ t.mem = s.mem
        ∧ ∀ f ∈ (t.stack k).aclkF, f = ((t.stack k).aclkCtl.extractLsb' 40 8).toNat)
    ∧ (∃ t, exec (.registerWrite .pf0 .pwrCap v) s = .next t
        ∧ t.hub.pwrCap = (if 500 ≤ (v.extractLsb' 0 12).toNat ∧ (v.extractLsb' 0 12).toNat ≤ 2900 then v.extractLsb' 0 12 else s.hub.pwrCap))
    ∧ (∀ i r, s.hub.secRanges[i]? = some r → ∃ t, exec (.registerWrite .secure (.secLim i) v) s = .next t ∧ t.hub.secRanges[i]? = some { r with lim := v.extractLsb' 0 31 }))
  ∧ (∀ s : State,
    (∀ die v, 2 ≤ die → exec (.cgWorldWrite die v) s = .next s)
    ∧ (∀ die (v : Dword), die < 2 → die < s.dies.length →
        let leaving (n : Nat) : Prop := n < 12 ∧ (s.die die).cgWorld.getLsbD n ≠ v.getLsbD n
        let held (n : Nat) : Prop := ∃ b ∈ s.blocks, groupOf b.core = 12 * die + n ∧ b.status ≠ .saved
        ((∀ n, leaving n → ¬held n) → ∃ t, exec (.cgWorldWrite die v) s = .next t ∧ (t.die die).cgWorld = v.extractLsb' 0 12 ∧ (t.die die).cgEmptying = 0#12 ∧ t.mem.hbm = s.mem.hbm
            ∧ ∀ n, leaving n → ∀ c ∈ t.mem.copies, ¬(c.l1 = true ∧ groupOf c.unit = 12 * die + n))
        ∧ ((∀ p, (s.part p).preDl ≠ 0#32) → ∃ t, exec (.cgWorldWrite die v) s = .next t
            ∧ ∀ n, n < 12 → held n → (t.die die).cgWorld.getLsbD n = (s.die die).cgWorld.getLsbD n ∧ ((t.die die).cgEmptying.getLsbD n = true ↔ leaving n)))
    ∧ (∀ i r (v : Dword), s.hub.secRanges[i]? = some r →
        let lo := (v.extractLsb' 0 31).toNat * 2 ^ 21
        let hi := (r.lim.toNat + 1) * 2 ^ 21 - 1
        let set (t : State) : Prop := exec (.secRangeWrite i v) s = .next t ∧ t.hub.secRanges[i]? = some { r with valid := v.getLsbD 63, base := v.extractLsb' 0 31 }
          ∧ (∀ j, j ≠ i → t.hub.secRanges[j]? = s.hub.secRanges[j]?) ∧ t.hub.secWait = s.hub.secWait.filter (fun x => x.1 ≠ i)
        let rest := s.hub.secWait.filter (fun x => x.1 ≠ i)
        (v.getLsbD 63 = true → s.pastCheck lo hi = true → exec (.secRangeWrite i v) s = .next (s.updHub (fun h => { h with secWait := rest ++ [(i, v.extractLsb' 0 31)] })))
        ∧ (s.hub.secWait = [(i, v.extractLsb' 0 31)] → s.pastCheck lo hi = false → s.settleRanges.hub.secWait = []
            ∧ s.settleRanges.hub.secRanges[i]? = some { r with valid := true, base := v.extractLsb' 0 31 })
        ∧ (v.getLsbD 63 = true → s.pastCheck lo hi = false → ∃ t, set t ∧ t.mem = s.mem)
        ∧ (v.getLsbD 63 = false → r.valid = false → ∃ t, set t ∧ t.mem = s.mem)
        ∧ (v.getLsbD 63 = false → r.valid = true → s.mem.wf → ∃ t, set t
            ∧ (∀ a, r.base.toNat * 2 ^ 21 ≤ a → a ≤ hi → t.mem.hbm.read a = 0#8 ∧ t.mem.tier.read a = 0#8)
            ∧ (∀ y ∈ t.mem.past, y.space ≠ .host → ¬(r.base.toNat * 2 ^ 21 ≤ 64 * y.line ∧ 64 * y.line ≤ hi)) ∧ (∀ a, ¬(r.base.toNat * 2 ^ 21 ≤ a ∧ a ≤ hi) → t.mem.hbm.read a = s.mem.hbm.read a)
            ∧ ∀ l ∈ t.mem.poison, ¬(r.base.toNat * 2 ^ 21 ≤ 64 * l ∧ 64 * l ≤ hi)))
    ∧ (∀ watts, ∃ t, exec (.powerWindow watts) s = .next t ∧ t.hub.pwrWatts.toNat = min 4095 watts ∧ t.mem = s.mem ∧ t.waves = s.waves
        ∧ (watts ≤ s.hub.pwrCap.toNat → t.dies = s.dies ∧ t.stks = s.stks) ∧ (∀ core, t.dieClk core = s.dieClk core)
        ∧ (s.hub.pwrCap.toNat < watts → (∀ d < s.dies.length, (t.die d).freq = max 14 ((s.die d).freq - 1))
            ∧ ∀ k < s.stks.length, 8 ≤ ((s.stack k).aclkCtl.extractLsb' 32 8).toNat → (s.stack k).aclkCtl.extractLsb' 24 8 < (s.stack k).aclkCtl.extractLsb' 32 8 →
                (t.stack k).aclkCtl.extractLsb' 32 8 = (s.stack k).aclkCtl.extractLsb' 32 8 - 1#8
                ∧ ((s.stack k).aclkCtl.getLsbD 48 = false → ∀ f ∈ (t.stack k).aclkF, f ≤ ((t.stack k).aclkCtl.extractLsb' 32 8).toNat)))
    ∧ (∀ d temp, ∃ t, exec (.thermalThrottle d temp) s = .next t ∧ t.hub.tmax.toNat = min 255 (max temp s.hottestCore) ∧ t.mem = s.mem ∧ t.waves = s.waves
        ∧ (d < s.dies.length → (t.die d).freq = (if temp < 105 then (s.die d).freq else max 14 ((s.die d).freq - 1))) ∧ (∀ n, n ≠ d → t.die n = s.die n)
        ∧ (∀ k < s.stks.length, temp < 105 ∨ k / 6 ≠ d → t.stack k = s.stack k)
        ∧ (∀ k < s.stks.length, 105 ≤ temp → k / 6 = d → 8 ≤ ((s.stack k).aclkCtl.extractLsb' 32 8).toNat → (s.stack k).aclkCtl.extractLsb' 24 8 < (s.stack k).aclkCtl.extractLsb' 32 8 →
            (t.stack k).aclkCtl.extractLsb' 32 8 = (s.stack k).aclkCtl.extractLsb' 32 8 - 1#8)
        ∧ ∀ core, t.dieClk core = s.dieClk core)
    ∧ (∀ core, (s.die (dieOf core)).freq = 28 → (s.die (dieOf core)).slowed = [] → s.dieClk core = s.clk.toNat)
    ∧ (∀ d temp, (temp < 115 ∨ s.hub.tripped = true → exec (.thermalTrip d temp) s = .next s)
        ∧ (115 ≤ temp → s.hub.tripped = false → ∃ t, exec (.thermalTrip d temp) s = .next t ∧ t.hub.tripped = true ∧ t.hub.hostUp = false
            ∧ ∀ w x, s.wave? w = some x → ∃ y, t.wave? w = some y ∧ y.stopped = true ∧ y.mcheck = true ∧ y.pc = x.pc))
    ∧ (let none' := s.blocks = [] ∧ (∀ st ∈ s.stks, st.regions = []) ∧ ∀ p < 16, NoWork s p
       (none' → exec .d3hotRequest s = .next (s.updHub (fun h => { h with d3hot := true }))) ∧ (¬none' → exec .d3hotRequest s = .next s))
    ∧ (∃ t, exec .powerLoss s = .next t ∧ t.waves = [] ∧ t.blocks = [] ∧ t.grids = [] ∧ t.mem.hbm = [] ∧ t.parts = State.reset.parts ∧ t.dies = State.reset.dies ∧ t.stks = State.reset.stks
        ∧ t.hub.keyIndex = s.hub.keyIndex ∧ t.hub.keyGen = s.hub.keyGen ∧ t.hub.keyCert = s.hub.keyCert ∧ t.hub.reports = [] ∧ t.hub.booted = false ∧ t.hub.keys = [] ∧ t.hub.flows = []
        ∧ t.hub.firmware.map (fun x => (x.target, x.minSvn)) = s.hub.firmware.map (fun x => (x.target, x.minSvn))))
  ∧ (∀ (s : State) (p : Nat), p < s.parts.length →
    (∀ v : Dword, exec (.tlbInvalidate p v) s = .next (s.updPart p (fun x => { x with tlbBusy := true, tlbQueue := x.tlbQueue ++ [(x.tlbInv, (v.extractLsb' 0 32).toNat)] })))
    ∧ ((s.part p).tlbQueue = [] → exec (.tlbInvComplete p) s = .next s)
    ∧ (∀ inv pages rest, (s.part p).tlbQueue = (inv, pages) :: rest → (∀ k, ∀ r ∈ (s.stack k).regions, r.state ≠ 2) →
        let lo := (inv.extractLsb' 16 41).toNat * 65536
        let hits (e : TlbEntry) : Prop := e.part = p ∧ (inv.getLsbD 1 = true ∨ (lo < (e.vpage + 1) * 2 ^ e.size ∧ e.vpage * 2 ^ e.size < lo + pages * 65536))
        ∃ t, exec (.tlbInvComplete p) s = .next t ∧ (t.part p).tlbQueue = rest ∧ (t.part p).tlbBusy = !rest.isEmpty ∧ t.mem.hbm = s.mem.hbm ∧ t.waves = s.waves
          ∧ (∀ e, e ∈ t.mem.tlb ↔ e ∈ s.mem.tlb ∧ ¬hits e)
          ∧ (∀ k slot r, s.region? k slot = some r → ∃ r', t.region? k slot = some r' ∧ r'.state = r.state ∧ r'.streams.length = r.streams.length
              ∧ (r.part ≠ p → r' = r)
              ∧ (r.part = p → ∀ (i : Nat) (y z : Stream), r'.streams[i]? = some y → r.streams[i]? = some z → y.pos = z.pos ∧ (inv.getLsbD 1 = true → y.mark = none ∧ y.tlb = none)))))
end

