-- ==== Sys2Proof/Laws/Memory.lean ====
section
/-! SUPPORT. The laws of a memory in canonical form (R8): a read after a write, what a write leaves alone, that every
operation over a memory keeps the form, and that equal reads make equal memories. -/

namespace Sys2Proof.Machine

/-! ## Lists whose addresses rise -/

theorem Memory.wf_nil : Memory.wf [] := ⟨List.Pairwise.nil, by simp⟩

theorem Memory.wf_cons {x : Host.Cell} {m : Memory} :
    Memory.wf (x :: m) ↔ (∀ y ∈ m, x.1 < y.1) ∧ x.2 ≠ Memory.unlisted ∧ Memory.wf m := by
  simp only [Memory.wf, List.pairwise_cons, List.forall_mem_cons]
  tauto

/-- Whatever is below every address of a memory reads as unlisted. -/
theorem Memory.read_below {m : Memory} {a : Nat} (h : ∀ y ∈ m, a < y.1) : m.read a = Memory.unlisted := by
  cases m with
  | nil => rfl
  | cons x m =>
    have hx : a < x.1 := h x (by simp)
    have : x.1 ≠ a := by omega
    simp [Memory.read, this, hx]

theorem Memory.read_cons_ne {x : Host.Cell} {m : Memory} {a : Nat} (hm : ∀ y ∈ m, x.1 < y.1) (h : x.1 ≠ a) :
    Memory.read (x :: m) a = m.read a := by
  simp only [Memory.read, h, if_false]
  split
  · exact (Memory.read_below fun y hy => lt_trans ‹_› (hm y hy)).symm
  · rfl

theorem Memory.read_cons_eq (x : Host.Cell) (m : Memory) : Memory.read (x :: m) x.1 = x.2 := by simp [Memory.read]

/-! ## One byte -/

theorem Memory.mem_write {m : Memory} {a : Nat} {b : Byte} {y : Host.Cell} (h : y ∈ m.write a b) :
    y ∈ m ∨ (y = (a, b) ∧ b ≠ Memory.unlisted) := by
  induction m with
  | nil => simp only [Memory.write] at h; split at h <;> simp_all
  | cons x m ih =>
    simp only [Memory.write] at h
    split at h
    · split at h
      · exact .inl h
      · rcases List.mem_cons.1 h with h | h
        · exact .inr ⟨h, ‹_›⟩
        · exact .inl h
    · split at h
      · split at h
        · exact .inl (List.mem_cons_of_mem _ h)
        · rcases List.mem_cons.1 h with h | h
          · exact .inr ⟨h, ‹_›⟩
          · exact .inl (List.mem_cons_of_mem _ h)
      · rcases List.mem_cons.1 h with h | h
        · exact .inl (by simp [h])
        · rcases ih h with h | h
          · exact .inl (List.mem_cons_of_mem _ h)
          · exact .inr h

/-- Writing a byte keeps the canonical form. -/
theorem Memory.write_wf {m : Memory} (h : m.wf) (a : Nat) (b : Byte) : (m.write a b).wf := by
  induction m with
  | nil => simp only [Memory.write]; split <;> simp_all [Memory.wf]
  | cons x m ih =>
    obtain ⟨h1, h2, h3⟩ := Memory.wf_cons.1 h
    simp only [Memory.write]
    split
    · split
      · exact h
      · refine Memory.wf_cons.2 ⟨fun y hy => ?_, ‹_›, h⟩
        rcases List.mem_cons.1 hy with rfl | hy
        · assumption
        · exact lt_trans ‹_› (h1 y hy)
    · split
      · subst a
        split
        · exact h3
        · exact Memory.wf_cons.2 ⟨h1, ‹_›, h3⟩
      · refine Memory.wf_cons.2 ⟨fun y hy => ?_, h2, ih h3⟩
        rcases Memory.mem_write hy with hy | ⟨rfl, -⟩
        · exact h1 y hy
        · simp only; omega

/-- A byte reads as it was written. -/
theorem Memory.read_write_same {m : Memory} (h : m.wf) (a : Nat) (b : Byte) : (m.write a b).read a = b := by
  induction m with
  | nil => simp only [Memory.write]; split <;> simp_all [Memory.read]
  | cons x m ih =>
    obtain ⟨h1, -, h3⟩ := Memory.wf_cons.1 h
    simp only [Memory.write]
    split
    · split
      · have hne : x.1 ≠ a := by omega
        simp_all [Memory.read]
      · simp [Memory.read]
    · split
      · subst a
        split
        · rw [Memory.read_below h1]; exact Eq.symm ‹_›
        · simp [Memory.read]
      · rw [Memory.read_cons_ne, ih h3]
        · intro y hy
          rcases Memory.mem_write hy with hy | ⟨rfl, -⟩
          · exact h1 y hy
          · simp only; omega
        · omega

/-- Writing a byte leaves every other byte alone. -/
theorem Memory.read_write_other {m : Memory} (h : m.wf) {a c : Nat} (hac : c ≠ a) (b : Byte) :
    (m.write a b).read c = m.read c := by
  induction m with
  | nil =>
    simp only [Memory.write]; split
    · rfl
    · simp [Memory.read, Ne.symm hac]
  | cons x m ih =>
    obtain ⟨h1, -, h3⟩ := Memory.wf_cons.1 h
    simp only [Memory.write]
    split
    · split
      · rfl
      · exact Memory.read_cons_ne (x := (a, b)) (fun y hy => by
          rcases List.mem_cons.1 hy with rfl | hy
          · assumption
          · exact lt_trans ‹_› (h1 y hy)) (Ne.symm hac)
    · split
      · subst a
        split
        · exact (Memory.read_cons_ne h1 (Ne.symm hac)).symm
        · rw [Memory.read_cons_ne (x := (x.1, b)) h1 (Ne.symm hac), Memory.read_cons_ne h1 (Ne.symm hac)]
      · by_cases hx : x.1 = c
        · simp [Memory.read, hx]
        · rw [Memory.read_cons_ne _ hx, Memory.read_cons_ne h1 hx, ih h3]
          intro y hy
          rcases Memory.mem_write hy with hy | ⟨rfl, -⟩
          · exact h1 y hy
          · simp only; omega

/-- Equal reads make equal memories. -/
theorem Memory.ext {m n : Memory} (hm : m.wf) (hn : n.wf) (h : ∀ a, m.read a = n.read a) : m = n := by
  induction m generalizing n with
  | nil =>
    cases n with
    | nil => rfl
    | cons y n =>
      obtain ⟨-, h2, -⟩ := Memory.wf_cons.1 hn
      exact absurd (h y.1).symm (by rw [Memory.read_cons_eq]; exact h2)
  | cons x m ih =>
    obtain ⟨h1, h2, h3⟩ := Memory.wf_cons.1 hm
    cases n with
    | nil => exact absurd (h x.1) (by rw [Memory.read_cons_eq]; exact h2)
    | cons y n =>
      obtain ⟨g1, g2, g3⟩ := Memory.wf_cons.1 hn
      have hxy : x.1 = y.1 := by
        rcases lt_trichotomy x.1 y.1 with hlt | heq | hlt
        · have := h x.1
          rw [Memory.read_cons_eq, Memory.read_below] at this
          · exact absurd this h2
          · intro z hz
            rcases List.mem_cons.1 hz with rfl | hz
            · exact hlt
            · exact lt_trans hlt (g1 z hz)
        · exact heq
        · have := h y.1
          rw [Memory.read_cons_eq, Memory.read_below] at this
          · exact absurd this.symm g2
          · intro z hz
            rcases List.mem_cons.1 hz with rfl | hz
            · exact hlt
            · exact lt_trans hlt (h1 z hz)
      have hv : x.2 = y.2 := by
        have := h x.1
        rwa [Memory.read_cons_eq, hxy, Memory.read_cons_eq] at this
      have he : x = y := Prod.ext hxy hv
      subst he
      congr 1
      refine ih h3 g3 fun a => ?_
      by_cases ha : x.1 = a
      · subst ha
        rw [Memory.read_below h1, Memory.read_below g1]
      · have := h a
        rwa [Memory.read_cons_ne h1 ha, Memory.read_cons_ne g1 ha] at this

/-! ## Several bytes -/

/-- What lies at or above an address reads the same without the entries below it. -/
theorem Memory.read_dropWhile {m : Memory} (h : m.wf) {a c : Nat} (hac : a ≤ c) :
    Memory.read (m.dropWhile (fun x => decide (x.1 < a))) c = m.read c := by
  induction m with
  | nil => rfl
  | cons x m ih =>
    obtain ⟨h1, -, h3⟩ := Memory.wf_cons.1 h
    rw [List.dropWhile_cons]
    split
    · rename_i hd
      have hx : x.1 < a := by simpa using hd
      rw [ih h3, Memory.read_cons_ne h1 (by omega)]
    · rfl

/-- A run of bytes is read byte by byte. -/
theorem Memory.readN_eq {m : Memory} (h : m.wf) (a n : Nat) : m.readN a n = (List.range n).map (fun i => m.read (a + i)) := by
  simp only [Memory.readN]
  exact List.map_congr_left fun i _ => Memory.read_dropWhile h (by omega)

@[simp] theorem Memory.readN_length (m : Memory) (a n : Nat) : (m.readN a n).length = n := by simp [Memory.readN]

theorem Memory.mem_ofBytes {bs : List Byte} : ∀ {a : Nat} {y : Host.Cell}, y ∈ Memory.ofBytes a bs →
    a ≤ y.1 ∧ y.1 < a + bs.length ∧ y.2 ≠ Memory.unlisted := by
  induction bs with
  | nil => intro a y h; simp [Memory.ofBytes] at h
  | cons b bs ih =>
    intro a y h
    simp only [Memory.ofBytes] at h
    split at h
    · obtain ⟨g1, g2, g3⟩ := ih h; simp only [List.length_cons]; exact ⟨by omega, by omega, g3⟩
    · rcases List.mem_cons.1 h with rfl | h
      · simp only [List.length_cons]; exact ⟨le_refl _, by omega, ‹_›⟩
      · obtain ⟨g1, g2, g3⟩ := ih h; simp only [List.length_cons]; exact ⟨by omega, by omega, g3⟩

theorem Memory.ofBytes_wf (bs : List Byte) : ∀ a : Nat, (Memory.ofBytes a bs).wf := by
  induction bs with
  | nil => intro a; exact Memory.wf_nil
  | cons b bs ih =>
    intro a
    simp only [Memory.ofBytes]
    split
    · exact ih _
    · refine Memory.wf_cons.2 ⟨fun y hy => ?_, ‹_›, ih _⟩
      have := (Memory.mem_ofBytes hy).1
      simp only; omega

theorem Memory.read_ofBytes (bs : List Byte) : ∀ (a c : Nat),
    (Memory.ofBytes a bs).read c = if a ≤ c then bs.getD (c - a) Memory.unlisted else Memory.unlisted := by
  induction bs with
  | nil => intro a c; simp [Memory.ofBytes, Memory.read]
  | cons b bs ih =>
    intro a c
    have hb : ∀ y ∈ Memory.ofBytes (a + 1) bs, a < y.1 := fun y hy => (Memory.mem_ofBytes hy).1
    have hr : a ≠ c → (Memory.ofBytes (a + 1) bs).read c =
        if a ≤ c then (b :: bs).getD (c - a) Memory.unlisted else Memory.unlisted := by
      intro hne
      rw [ih]
      by_cases h : a ≤ c
      · have h1 : a + 1 ≤ c := by omega
        obtain ⟨d, rfl⟩ : ∃ d, c = a + 1 + d := ⟨c - (a + 1), by omega⟩
        have e1 : a + 1 + d - (a + 1) = d := by omega
        have e2 : a + 1 + d - a = d + 1 := by omega
        simp [h, h1, e1, e2]
      · have h1 : ¬ a + 1 ≤ c := by omega
        simp [h, h1]
    simp only [Memory.ofBytes]
    by_cases hc : a = c
    · subst hc
      split
      · rw [Memory.read_below hb]; simp [‹b = Memory.unlisted›]
      · simp [Memory.read]
    · split
      · exact hr hc
      · rw [Memory.read_cons_ne (x := (a, b)) hb hc]; exact hr hc

theorem Memory.takeWhile_lt {m : Memory} {a : Nat} {y : Host.Cell}
    (h : y ∈ m.takeWhile (fun x => decide (x.1 < a))) : y.1 < a := by
  simpa using List.mem_takeWhile_imp h

theorem Memory.dropWhile_ge {m : Memory} (hm : m.wf) {a : Nat} {y : Host.Cell}
    (h : y ∈ m.dropWhile (fun x => decide (x.1 < a))) : a ≤ y.1 := by
  induction m with
  | nil => simp at h
  | cons x m ih =>
    obtain ⟨h1, -, h3⟩ := Memory.wf_cons.1 hm
    rw [List.dropWhile_cons] at h
    split at h
    · exact ih h3 h
    · rename_i hd
      have hx : ¬ x.1 < a := by simpa using hd
      rcases List.mem_cons.1 h with rfl | h
      · omega
      · have := h1 y h; omega

theorem Memory.wf_of_sublist {m n : Memory} (hn : n.wf) (h : m.Sublist n) : m.wf :=
  ⟨List.Pairwise.sublist h hn.1, fun x hx => hn.2 x (h.subset hx)⟩

theorem Memory.wf_append {m n : Memory} (hm : m.wf) (hn : n.wf) (h : ∀ x ∈ m, ∀ y ∈ n, x.1 < y.1) : Memory.wf (m ++ n) :=
  ⟨List.pairwise_append.2 ⟨hm.1, hn.1, h⟩, fun x hx => by
    rcases List.mem_append.1 hx with hx | hx
    · exact hm.2 x hx
    · exact hn.2 x hx⟩

/-- Writing a run of bytes keeps the canonical form. -/
theorem Memory.writeN_wf {m : Memory} (h : m.wf) (a : Nat) (bs : List Byte) : (m.writeN a bs).wf := by
  refine Memory.wf_append (Memory.wf_append (Memory.wf_of_sublist h (List.takeWhile_sublist _)) (Memory.ofBytes_wf bs a) ?_)
    (Memory.wf_of_sublist h (List.dropWhile_sublist _)) ?_
  · intro x hx y hy
    have := Memory.takeWhile_lt hx
    have := (Memory.mem_ofBytes hy).1
    omega
  · intro x hx y hy
    have hy' := Memory.dropWhile_ge h hy
    rcases List.mem_append.1 hx with hx | hx
    · have := Memory.takeWhile_lt hx; omega
    · have := (Memory.mem_ofBytes hx).2.1; omega

theorem Memory.read_append {m n : Memory} {a c : Nat} (hm : m.wf) (h1 : ∀ x ∈ m, x.1 < a) (h2 : ∀ y ∈ n, a ≤ y.1) :
    Memory.read (m ++ n) c = if c < a then m.read c else n.read c := by
  induction m with
  | nil =>
    split
    · exact Memory.read_below fun y hy => by have := h2 y hy; omega
    · rfl
  | cons x m ih =>
    obtain ⟨g1, g2, g3⟩ := Memory.wf_cons.1 hm
    have hx : x.1 < a := h1 x (by simp)
    have hall : ∀ y ∈ m ++ n, x.1 < y.1 := fun y hy => by
      rcases List.mem_append.1 hy with hy | hy
      · exact g1 y hy
      · have := h2 y hy; omega
    rw [List.cons_append]
    by_cases hc : x.1 = c
    · subst hc; simp [Memory.read, hx]
    · rw [Memory.read_cons_ne hall hc, ih g3 (fun y hy => h1 y (List.mem_cons_of_mem _ hy)), Memory.read_cons_ne g1 hc]

theorem Memory.read_takeWhile {m : Memory} (h : m.wf) {a c : Nat} (hc : c < a) :
    Memory.read (m.takeWhile (fun x => decide (x.1 < a))) c = m.read c := by
  conv_rhs => rw [← List.takeWhile_append_dropWhile (p := fun x : Host.Cell => decide (x.1 < a)) (l := m)]
  rw [Memory.read_append (Memory.wf_of_sublist h (List.takeWhile_sublist _))
    (fun x hx => Memory.takeWhile_lt hx) (fun y hy => Memory.dropWhile_ge h hy), if_pos hc]

/-- What a run of bytes reads as after it was written, and every other byte. -/
theorem Memory.read_writeN {m : Memory} (h : m.wf) (a : Nat) (bs : List Byte) (c : Nat) :
    (m.writeN a bs).read c = if a ≤ c ∧ c < a + bs.length then bs.getD (c - a) Memory.unlisted else m.read c := by
  have ht := Memory.wf_of_sublist h (List.takeWhile_sublist (fun x : Host.Cell => decide (x.1 < a)))
  have hto : Memory.wf (m.takeWhile (fun x => decide (x.1 < a)) ++ Memory.ofBytes a bs) :=
    Memory.wf_append ht (Memory.ofBytes_wf bs a) fun x hx y hy => by
      have := Memory.takeWhile_lt hx
      have := (Memory.mem_ofBytes hy).1
      omega
  rw [Memory.writeN, Memory.read_append (a := a + bs.length) hto
    (fun x hx => by
      rcases List.mem_append.1 hx with hx | hx
      · have := Memory.takeWhile_lt hx; omega
      · exact (Memory.mem_ofBytes hx).2.1)
    (fun y hy => Memory.dropWhile_ge h hy)]
  by_cases h1 : c < a + bs.length
  · rw [if_pos h1, Memory.read_append (a := a) ht (fun x hx => Memory.takeWhile_lt hx)
      (fun y hy => (Memory.mem_ofBytes hy).1)]
    by_cases h2 : c < a
    · rw [if_pos h2, if_neg (by omega), Memory.read_takeWhile h h2]
    · rw [if_neg h2, if_pos (by omega), Memory.read_ofBytes, if_pos (by omega)]
  · rw [if_neg h1, if_neg (by omega), Memory.read_dropWhile h (by omega)]

/-- A run of bytes reads as it was written. -/
theorem Memory.readN_writeN {m : Memory} (h : m.wf) (a : Nat) (bs : List Byte) : (m.writeN a bs).readN a bs.length = bs := by
  rw [Memory.readN_eq (Memory.writeN_wf h a bs)]
  apply List.ext_getElem (by simp)
  intro i h1 h2
  simp only [List.getElem_map, List.getElem_range, Memory.read_writeN h]
  rw [if_pos (by omega)]
  simp [List.getD_eq_getElem?_getD, List.getElem?_eq_getElem h2]

/-! ## A line -/

/-- Writing the bytes of a line that a mask selects keeps the canonical form. -/
theorem Memory.writeLine_wf {m : Memory} (h : m.wf) (line : Nat) (data : List Byte) (mask : BitVec 64) :
    (m.writeLine line data mask).wf := Memory.writeN_wf h _ _

/-- What a masked line reads as after it was written: a selected byte is the new one, every other byte is as before. -/
theorem Memory.read_writeLine {m : Memory} (h : m.wf) (line : Nat) {data : List Byte} (hd : data.length = 64)
    (mask : BitVec 64) (c : Nat) :
    (m.writeLine line data mask).read c =
      if c / 64 = line ∧ mask.getLsbD (c % 64) then data.getD (c % 64) Memory.unlisted else m.read c := by
  rw [Memory.writeLine, Memory.read_writeN h]
  simp only [List.length_map, List.length_zipIdx, Memory.readN_length]
  by_cases hc : c / 64 = line
  · have h1 : 64 * line ≤ c ∧ c < 64 * line + 64 := by omega
    have h2 : c - 64 * line = c % 64 := by omega
    have h3 : c % 64 < 64 := by omega
    rw [if_pos h1, h2, Memory.readN_eq h]
    simp only [List.getD_eq_getElem?_getD, List.getElem?_map, List.getElem?_zipIdx, List.getElem?_range h3, Option.map_some,
      Option.getD_some, Nat.zero_add]
    have h4 : 64 * line + c % 64 = c := by omega
    rw [h4]
    by_cases hm : mask.getLsbD (c % 64) = true
    · have h5 : c % 64 < data.length := by omega
      simp [hc, hm, List.getElem?_eq_getElem h5]
    · simp [hm]
  · rw [if_neg (by omega), if_neg (by tauto)]

/-! ## The memories behind the homes -/

@[simp] theorem Mem.get_set_same (m : Mem) (sp : Space) (x : Memory) : (m.set sp x).get sp = x := by cases sp <;> rfl
theorem Mem.get_set_other (m : Mem) {sp tp : Space} (h : tp ≠ sp) (x : Memory) : (m.set sp x).get tp = m.get tp := by
  cases sp <;> cases tp <;> first | rfl | exact absurd rfl h

end Sys2Proof.Machine
end

