-- ==== Sys2Proof/Laws/State.lean ====
section
/-! SUPPORT. What each named update of the state leaves alone, one lemma for each field, and what it makes of the field it
updates: no later proof unfolds a record update. -/

namespace Sys2Proof.Machine

variable (s : State)

/-! ## updWave -/

@[simp] theorem State.updWave_agenda (w : Nat) (f : Wave → Wave) : (s.updWave w f).agenda = s.agenda := rfl
@[simp] theorem State.updWave_cur (w : Nat) (f : Wave → Wave) : (s.updWave w f).cur = s.cur := rfl
@[simp] theorem State.updWave_now (w : Nat) (f : Wave → Wave) : (s.updWave w f).now = s.now := rfl
@[simp] theorem State.updWave_fresh (w : Nat) (f : Wave → Wave) : (s.updWave w f).fresh = s.fresh := rfl
@[simp] theorem State.updWave_draws (w : Nat) (f : Wave → Wave) : (s.updWave w f).draws = s.draws := rfl
@[simp] theorem State.updWave_clk (w : Nat) (f : Wave → Wave) : (s.updWave w f).clk = s.clk := rfl
@[simp] theorem State.updWave_mem (w : Nat) (f : Wave → Wave) : (s.updWave w f).mem = s.mem := rfl
@[simp] theorem State.updWave_blocks (w : Nat) (f : Wave → Wave) : (s.updWave w f).blocks = s.blocks := rfl
@[simp] theorem State.updWave_clusters (w : Nat) (f : Wave → Wave) : (s.updWave w f).clusters = s.clusters := rfl
@[simp] theorem State.updWave_grids (w : Nat) (f : Wave → Wave) : (s.updWave w f).grids = s.grids := rfl
@[simp] theorem State.updWave_cmds (w : Nat) (f : Wave → Wave) : (s.updWave w f).cmds = s.cmds := rfl
@[simp] theorem State.updWave_decrements (w : Nat) (f : Wave → Wave) : (s.updWave w f).decrements = s.decrements := rfl
@[simp] theorem State.updWave_cores (w : Nat) (f : Wave → Wave) : (s.updWave w f).cores = s.cores := rfl
@[simp] theorem State.updWave_dies (w : Nat) (f : Wave → Wave) : (s.updWave w f).dies = s.dies := rfl
@[simp] theorem State.updWave_stks (w : Nat) (f : Wave → Wave) : (s.updWave w f).stks = s.stks := rfl
@[simp] theorem State.updWave_parts (w : Nat) (f : Wave → Wave) : (s.updWave w f).parts = s.parts := rfl
@[simp] theorem State.updWave_hub (w : Nat) (f : Wave → Wave) : (s.updWave w f).hub = s.hub := rfl

/-! ## updBlock -/

@[simp] theorem State.updBlock_agenda (b : Nat) (f : Block → Block) : (s.updBlock b f).agenda = s.agenda := rfl
@[simp] theorem State.updBlock_cur (b : Nat) (f : Block → Block) : (s.updBlock b f).cur = s.cur := rfl
@[simp] theorem State.updBlock_now (b : Nat) (f : Block → Block) : (s.updBlock b f).now = s.now := rfl
@[simp] theorem State.updBlock_fresh (b : Nat) (f : Block → Block) : (s.updBlock b f).fresh = s.fresh := rfl
@[simp] theorem State.updBlock_draws (b : Nat) (f : Block → Block) : (s.updBlock b f).draws = s.draws := rfl
@[simp] theorem State.updBlock_clk (b : Nat) (f : Block → Block) : (s.updBlock b f).clk = s.clk := rfl
@[simp] theorem State.updBlock_mem (b : Nat) (f : Block → Block) : (s.updBlock b f).mem = s.mem := rfl
@[simp] theorem State.updBlock_waves (b : Nat) (f : Block → Block) : (s.updBlock b f).waves = s.waves := rfl
@[simp] theorem State.updBlock_clusters (b : Nat) (f : Block → Block) : (s.updBlock b f).clusters = s.clusters := rfl
@[simp] theorem State.updBlock_grids (b : Nat) (f : Block → Block) : (s.updBlock b f).grids = s.grids := rfl
@[simp] theorem State.updBlock_cmds (b : Nat) (f : Block → Block) : (s.updBlock b f).cmds = s.cmds := rfl
@[simp] theorem State.updBlock_decrements (b : Nat) (f : Block → Block) : (s.updBlock b f).decrements = s.decrements := rfl
@[simp] theorem State.updBlock_cores (b : Nat) (f : Block → Block) : (s.updBlock b f).cores = s.cores := rfl
@[simp] theorem State.updBlock_dies (b : Nat) (f : Block → Block) : (s.updBlock b f).dies = s.dies := rfl
@[simp] theorem State.updBlock_stks (b : Nat) (f : Block → Block) : (s.updBlock b f).stks = s.stks := rfl
@[simp] theorem State.updBlock_parts (b : Nat) (f : Block → Block) : (s.updBlock b f).parts = s.parts := rfl
@[simp] theorem State.updBlock_hub (b : Nat) (f : Block → Block) : (s.updBlock b f).hub = s.hub := rfl

/-! ## updGrid -/

@[simp] theorem State.updGrid_agenda (g : Nat) (f : Grid → Grid) : (s.updGrid g f).agenda = s.agenda := rfl
@[simp] theorem State.updGrid_cur (g : Nat) (f : Grid → Grid) : (s.updGrid g f).cur = s.cur := rfl
@[simp] theorem State.updGrid_now (g : Nat) (f : Grid → Grid) : (s.updGrid g f).now = s.now := rfl
@[simp] theorem State.updGrid_fresh (g : Nat) (f : Grid → Grid) : (s.updGrid g f).fresh = s.fresh := rfl
@[simp] theorem State.updGrid_draws (g : Nat) (f : Grid → Grid) : (s.updGrid g f).draws = s.draws := rfl
@[simp] theorem State.updGrid_clk (g : Nat) (f : Grid → Grid) : (s.updGrid g f).clk = s.clk := rfl
@[simp] theorem State.updGrid_mem (g : Nat) (f : Grid → Grid) : (s.updGrid g f).mem = s.mem := rfl
@[simp] theorem State.updGrid_waves (g : Nat) (f : Grid → Grid) : (s.updGrid g f).waves = s.waves := rfl
@[simp] theorem State.updGrid_blocks (g : Nat) (f : Grid → Grid) : (s.updGrid g f).blocks = s.blocks := rfl
@[simp] theorem State.updGrid_clusters (g : Nat) (f : Grid → Grid) : (s.updGrid g f).clusters = s.clusters := rfl
@[simp] theorem State.updGrid_cmds (g : Nat) (f : Grid → Grid) : (s.updGrid g f).cmds = s.cmds := rfl
@[simp] theorem State.updGrid_decrements (g : Nat) (f : Grid → Grid) : (s.updGrid g f).decrements = s.decrements := rfl
@[simp] theorem State.updGrid_cores (g : Nat) (f : Grid → Grid) : (s.updGrid g f).cores = s.cores := rfl
@[simp] theorem State.updGrid_dies (g : Nat) (f : Grid → Grid) : (s.updGrid g f).dies = s.dies := rfl
@[simp] theorem State.updGrid_stks (g : Nat) (f : Grid → Grid) : (s.updGrid g f).stks = s.stks := rfl
@[simp] theorem State.updGrid_parts (g : Nat) (f : Grid → Grid) : (s.updGrid g f).parts = s.parts := rfl
@[simp] theorem State.updGrid_hub (g : Nat) (f : Grid → Grid) : (s.updGrid g f).hub = s.hub := rfl

/-! ## updCmd -/

@[simp] theorem State.updCmd_agenda (c : Nat) (f : Cmd → Cmd) : (s.updCmd c f).agenda = s.agenda := rfl
@[simp] theorem State.updCmd_cur (c : Nat) (f : Cmd → Cmd) : (s.updCmd c f).cur = s.cur := rfl
@[simp] theorem State.updCmd_now (c : Nat) (f : Cmd → Cmd) : (s.updCmd c f).now = s.now := rfl
@[simp] theorem State.updCmd_fresh (c : Nat) (f : Cmd → Cmd) : (s.updCmd c f).fresh = s.fresh := rfl
@[simp] theorem State.updCmd_draws (c : Nat) (f : Cmd → Cmd) : (s.updCmd c f).draws = s.draws := rfl
@[simp] theorem State.updCmd_clk (c : Nat) (f : Cmd → Cmd) : (s.updCmd c f).clk = s.clk := rfl
@[simp] theorem State.updCmd_mem (c : Nat) (f : Cmd → Cmd) : (s.updCmd c f).mem = s.mem := rfl
@[simp] theorem State.updCmd_waves (c : Nat) (f : Cmd → Cmd) : (s.updCmd c f).waves = s.waves := rfl
@[simp] theorem State.updCmd_blocks (c : Nat) (f : Cmd → Cmd) : (s.updCmd c f).blocks = s.blocks := rfl
@[simp] theorem State.updCmd_clusters (c : Nat) (f : Cmd → Cmd) : (s.updCmd c f).clusters = s.clusters := rfl
@[simp] theorem State.updCmd_grids (c : Nat) (f : Cmd → Cmd) : (s.updCmd c f).grids = s.grids := rfl
@[simp] theorem State.updCmd_decrements (c : Nat) (f : Cmd → Cmd) : (s.updCmd c f).decrements = s.decrements := rfl
@[simp] theorem State.updCmd_cores (c : Nat) (f : Cmd → Cmd) : (s.updCmd c f).cores = s.cores := rfl
@[simp] theorem State.updCmd_dies (c : Nat) (f : Cmd → Cmd) : (s.updCmd c f).dies = s.dies := rfl
@[simp] theorem State.updCmd_stks (c : Nat) (f : Cmd → Cmd) : (s.updCmd c f).stks = s.stks := rfl
@[simp] theorem State.updCmd_parts (c : Nat) (f : Cmd → Cmd) : (s.updCmd c f).parts = s.parts := rfl
@[simp] theorem State.updCmd_hub (c : Nat) (f : Cmd → Cmd) : (s.updCmd c f).hub = s.hub := rfl

/-! ## updCore -/

@[simp] theorem State.updCore_agenda (c : Nat) (f : Core → Core) : (s.updCore c f).agenda = s.agenda := rfl
@[simp] theorem State.updCore_cur (c : Nat) (f : Core → Core) : (s.updCore c f).cur = s.cur := rfl
@[simp] theorem State.updCore_now (c : Nat) (f : Core → Core) : (s.updCore c f).now = s.now := rfl
@[simp] theorem State.updCore_fresh (c : Nat) (f : Core → Core) : (s.updCore c f).fresh = s.fresh := rfl
@[simp] theorem State.updCore_draws (c : Nat) (f : Core → Core) : (s.updCore c f).draws = s.draws := rfl
@[simp] theorem State.updCore_clk (c : Nat) (f : Core → Core) : (s.updCore c f).clk = s.clk := rfl
@[simp] theorem State.updCore_mem (c : Nat) (f : Core → Core) : (s.updCore c f).mem = s.mem := rfl
@[simp] theorem State.updCore_waves (c : Nat) (f : Core → Core) : (s.updCore c f).waves = s.waves := rfl
@[simp] theorem State.updCore_blocks (c : Nat) (f : Core → Core) : (s.updCore c f).blocks = s.blocks := rfl
@[simp] theorem State.updCore_clusters (c : Nat) (f : Core → Core) : (s.updCore c f).clusters = s.clusters := rfl
@[simp] theorem State.updCore_grids (c : Nat) (f : Core → Core) : (s.updCore c f).grids = s.grids := rfl
@[simp] theorem State.updCore_cmds (c : Nat) (f : Core → Core) : (s.updCore c f).cmds = s.cmds := rfl
@[simp] theorem State.updCore_decrements (c : Nat) (f : Core → Core) : (s.updCore c f).decrements = s.decrements := rfl
@[simp] theorem State.updCore_dies (c : Nat) (f : Core → Core) : (s.updCore c f).dies = s.dies := rfl
@[simp] theorem State.updCore_stks (c : Nat) (f : Core → Core) : (s.updCore c f).stks = s.stks := rfl
@[simp] theorem State.updCore_parts (c : Nat) (f : Core → Core) : (s.updCore c f).parts = s.parts := rfl
@[simp] theorem State.updCore_hub (c : Nat) (f : Core → Core) : (s.updCore c f).hub = s.hub := rfl

/-! ## updDie -/

@[simp] theorem State.updDie_agenda (d : Nat) (f : Die → Die) : (s.updDie d f).agenda = s.agenda := rfl
@[simp] theorem State.updDie_cur (d : Nat) (f : Die → Die) : (s.updDie d f).cur = s.cur := rfl
@[simp] theorem State.updDie_now (d : Nat) (f : Die → Die) : (s.updDie d f).now = s.now := rfl
@[simp] theorem State.updDie_fresh (d : Nat) (f : Die → Die) : (s.updDie d f).fresh = s.fresh := rfl
@[simp] theorem State.updDie_draws (d : Nat) (f : Die → Die) : (s.updDie d f).draws = s.draws := rfl
@[simp] theorem State.updDie_clk (d : Nat) (f : Die → Die) : (s.updDie d f).clk = s.clk := rfl
@[simp] theorem State.updDie_mem (d : Nat) (f : Die → Die) : (s.updDie d f).mem = s.mem := rfl
@[simp] theorem State.updDie_waves (d : Nat) (f : Die → Die) : (s.updDie d f).waves = s.waves := rfl
@[simp] theorem State.updDie_blocks (d : Nat) (f : Die → Die) : (s.updDie d f).blocks = s.blocks := rfl
@[simp] theorem State.updDie_clusters (d : Nat) (f : Die → Die) : (s.updDie d f).clusters = s.clusters := rfl
@[simp] theorem State.updDie_grids (d : Nat) (f : Die → Die) : (s.updDie d f).grids = s.grids := rfl
@[simp] theorem State.updDie_cmds (d : Nat) (f : Die → Die) : (s.updDie d f).cmds = s.cmds := rfl
@[simp] theorem State.updDie_decrements (d : Nat) (f : Die → Die) : (s.updDie d f).decrements = s.decrements := rfl
@[simp] theorem State.updDie_cores (d : Nat) (f : Die → Die) : (s.updDie d f).cores = s.cores := rfl
@[simp] theorem State.updDie_stks (d : Nat) (f : Die → Die) : (s.updDie d f).stks = s.stks := rfl
@[simp] theorem State.updDie_parts (d : Nat) (f : Die → Die) : (s.updDie d f).parts = s.parts := rfl
@[simp] theorem State.updDie_hub (d : Nat) (f : Die → Die) : (s.updDie d f).hub = s.hub := rfl

/-! ## updStack -/

@[simp] theorem State.updStack_agenda (k : Nat) (f : Stack → Stack) : (s.updStack k f).agenda = s.agenda := rfl
@[simp] theorem State.updStack_cur (k : Nat) (f : Stack → Stack) : (s.updStack k f).cur = s.cur := rfl
@[simp] theorem State.updStack_now (k : Nat) (f : Stack → Stack) : (s.updStack k f).now = s.now := rfl
@[simp] theorem State.updStack_fresh (k : Nat) (f : Stack → Stack) : (s.updStack k f).fresh = s.fresh := rfl
@[simp] theorem State.updStack_draws (k : Nat) (f : Stack → Stack) : (s.updStack k f).draws = s.draws := rfl
@[simp] theorem State.updStack_clk (k : Nat) (f : Stack → Stack) : (s.updStack k f).clk = s.clk := rfl
@[simp] theorem State.updStack_mem (k : Nat) (f : Stack → Stack) : (s.updStack k f).mem = s.mem := rfl
@[simp] theorem State.updStack_waves (k : Nat) (f : Stack → Stack) : (s.updStack k f).waves = s.waves := rfl
@[simp] theorem State.updStack_blocks (k : Nat) (f : Stack → Stack) : (s.updStack k f).blocks = s.blocks := rfl
@[simp] theorem State.updStack_clusters (k : Nat) (f : Stack → Stack) : (s.updStack k f).clusters = s.clusters := rfl
@[simp] theorem State.updStack_grids (k : Nat) (f : Stack → Stack) : (s.updStack k f).grids = s.grids := rfl
@[simp] theorem State.updStack_cmds (k : Nat) (f : Stack → Stack) : (s.updStack k f).cmds = s.cmds := rfl
@[simp] theorem State.updStack_decrements (k : Nat) (f : Stack → Stack) : (s.updStack k f).decrements = s.decrements := rfl
@[simp] theorem State.updStack_cores (k : Nat) (f : Stack → Stack) : (s.updStack k f).cores = s.cores := rfl
@[simp] theorem State.updStack_dies (k : Nat) (f : Stack → Stack) : (s.updStack k f).dies = s.dies := rfl
@[simp] theorem State.updStack_parts (k : Nat) (f : Stack → Stack) : (s.updStack k f).parts = s.parts := rfl
@[simp] theorem State.updStack_hub (k : Nat) (f : Stack → Stack) : (s.updStack k f).hub = s.hub := rfl

/-! ## updPart -/

@[simp] theorem State.updPart_agenda (p : Nat) (f : Partition → Partition) : (s.updPart p f).agenda = s.agenda := rfl
@[simp] theorem State.updPart_cur (p : Nat) (f : Partition → Partition) : (s.updPart p f).cur = s.cur := rfl
@[simp] theorem State.updPart_now (p : Nat) (f : Partition → Partition) : (s.updPart p f).now = s.now := rfl
@[simp] theorem State.updPart_fresh (p : Nat) (f : Partition → Partition) : (s.updPart p f).fresh = s.fresh := rfl
@[simp] theorem State.updPart_draws (p : Nat) (f : Partition → Partition) : (s.updPart p f).draws = s.draws := rfl
@[simp] theorem State.updPart_clk (p : Nat) (f : Partition → Partition) : (s.updPart p f).clk = s.clk := rfl
@[simp] theorem State.updPart_mem (p : Nat) (f : Partition → Partition) : (s.updPart p f).mem = s.mem := rfl
@[simp] theorem State.updPart_waves (p : Nat) (f : Partition → Partition) : (s.updPart p f).waves = s.waves := rfl
@[simp] theorem State.updPart_blocks (p : Nat) (f : Partition → Partition) : (s.updPart p f).blocks = s.blocks := rfl
@[simp] theorem State.updPart_clusters (p : Nat) (f : Partition → Partition) : (s.updPart p f).clusters = s.clusters := rfl
@[simp] theorem State.updPart_grids (p : Nat) (f : Partition → Partition) : (s.updPart p f).grids = s.grids := rfl
@[simp] theorem State.updPart_cmds (p : Nat) (f : Partition → Partition) : (s.updPart p f).cmds = s.cmds := rfl
@[simp] theorem State.updPart_decrements (p : Nat) (f : Partition → Partition) : (s.updPart p f).decrements = s.decrements := rfl
@[simp] theorem State.updPart_cores (p : Nat) (f : Partition → Partition) : (s.updPart p f).cores = s.cores := rfl
@[simp] theorem State.updPart_dies (p : Nat) (f : Partition → Partition) : (s.updPart p f).dies = s.dies := rfl
@[simp] theorem State.updPart_stks (p : Nat) (f : Partition → Partition) : (s.updPart p f).stks = s.stks := rfl
@[simp] theorem State.updPart_hub (p : Nat) (f : Partition → Partition) : (s.updPart p f).hub = s.hub := rfl

/-! ## updMem -/

@[simp] theorem State.updMem_agenda (f : Mem → Mem) : (s.updMem f).agenda = s.agenda := rfl
@[simp] theorem State.updMem_cur (f : Mem → Mem) : (s.updMem f).cur = s.cur := rfl
@[simp] theorem State.updMem_now (f : Mem → Mem) : (s.updMem f).now = s.now := rfl
@[simp] theorem State.updMem_fresh (f : Mem → Mem) : (s.updMem f).fresh = s.fresh := rfl
@[simp] theorem State.updMem_draws (f : Mem → Mem) : (s.updMem f).draws = s.draws := rfl
@[simp] theorem State.updMem_clk (f : Mem → Mem) : (s.updMem f).clk = s.clk := rfl
@[simp] theorem State.updMem_waves (f : Mem → Mem) : (s.updMem f).waves = s.waves := rfl
@[simp] theorem State.updMem_blocks (f : Mem → Mem) : (s.updMem f).blocks = s.blocks := rfl
@[simp] theorem State.updMem_clusters (f : Mem → Mem) : (s.updMem f).clusters = s.clusters := rfl
@[simp] theorem State.updMem_grids (f : Mem → Mem) : (s.updMem f).grids = s.grids := rfl
@[simp] theorem State.updMem_cmds (f : Mem → Mem) : (s.updMem f).cmds = s.cmds := rfl
@[simp] theorem State.updMem_decrements (f : Mem → Mem) : (s.updMem f).decrements = s.decrements := rfl
@[simp] theorem State.updMem_cores (f : Mem → Mem) : (s.updMem f).cores = s.cores := rfl
@[simp] theorem State.updMem_dies (f : Mem → Mem) : (s.updMem f).dies = s.dies := rfl
@[simp] theorem State.updMem_stks (f : Mem → Mem) : (s.updMem f).stks = s.stks := rfl
@[simp] theorem State.updMem_parts (f : Mem → Mem) : (s.updMem f).parts = s.parts := rfl
@[simp] theorem State.updMem_hub (f : Mem → Mem) : (s.updMem f).hub = s.hub := rfl

/-! ## updHub -/

@[simp] theorem State.updHub_agenda (f : Hub → Hub) : (s.updHub f).agenda = s.agenda := rfl
@[simp] theorem State.updHub_cur (f : Hub → Hub) : (s.updHub f).cur = s.cur := rfl
@[simp] theorem State.updHub_now (f : Hub → Hub) : (s.updHub f).now = s.now := rfl
@[simp] theorem State.updHub_fresh (f : Hub → Hub) : (s.updHub f).fresh = s.fresh := rfl
@[simp] theorem State.updHub_draws (f : Hub → Hub) : (s.updHub f).draws = s.draws := rfl
@[simp] theorem State.updHub_clk (f : Hub → Hub) : (s.updHub f).clk = s.clk := rfl
@[simp] theorem State.updHub_mem (f : Hub → Hub) : (s.updHub f).mem = s.mem := rfl
@[simp] theorem State.updHub_waves (f : Hub → Hub) : (s.updHub f).waves = s.waves := rfl
@[simp] theorem State.updHub_blocks (f : Hub → Hub) : (s.updHub f).blocks = s.blocks := rfl
@[simp] theorem State.updHub_clusters (f : Hub → Hub) : (s.updHub f).clusters = s.clusters := rfl
@[simp] theorem State.updHub_grids (f : Hub → Hub) : (s.updHub f).grids = s.grids := rfl
@[simp] theorem State.updHub_cmds (f : Hub → Hub) : (s.updHub f).cmds = s.cmds := rfl
@[simp] theorem State.updHub_decrements (f : Hub → Hub) : (s.updHub f).decrements = s.decrements := rfl
@[simp] theorem State.updHub_cores (f : Hub → Hub) : (s.updHub f).cores = s.cores := rfl
@[simp] theorem State.updHub_dies (f : Hub → Hub) : (s.updHub f).dies = s.dies := rfl
@[simp] theorem State.updHub_stks (f : Hub → Hub) : (s.updHub f).stks = s.stks := rfl
@[simp] theorem State.updHub_parts (f : Hub → Hub) : (s.updHub f).parts = s.parts := rfl

/-! ## tickNow -/

@[simp] theorem State.tickNow_agenda : (s.tickNow).agenda = s.agenda := rfl
@[simp] theorem State.tickNow_cur : (s.tickNow).cur = s.cur := rfl
@[simp] theorem State.tickNow_fresh : (s.tickNow).fresh = s.fresh := rfl
@[simp] theorem State.tickNow_draws : (s.tickNow).draws = s.draws := rfl
@[simp] theorem State.tickNow_clk : (s.tickNow).clk = s.clk := rfl
@[simp] theorem State.tickNow_mem : (s.tickNow).mem = s.mem := rfl
@[simp] theorem State.tickNow_waves : (s.tickNow).waves = s.waves := rfl
@[simp] theorem State.tickNow_blocks : (s.tickNow).blocks = s.blocks := rfl
@[simp] theorem State.tickNow_clusters : (s.tickNow).clusters = s.clusters := rfl
@[simp] theorem State.tickNow_grids : (s.tickNow).grids = s.grids := rfl
@[simp] theorem State.tickNow_cmds : (s.tickNow).cmds = s.cmds := rfl
@[simp] theorem State.tickNow_decrements : (s.tickNow).decrements = s.decrements := rfl
@[simp] theorem State.tickNow_cores : (s.tickNow).cores = s.cores := rfl
@[simp] theorem State.tickNow_dies : (s.tickNow).dies = s.dies := rfl
@[simp] theorem State.tickNow_stks : (s.tickNow).stks = s.stks := rfl
@[simp] theorem State.tickNow_parts : (s.tickNow).parts = s.parts := rfl
@[simp] theorem State.tickNow_hub : (s.tickNow).hub = s.hub := rfl

/-! ## dropTensors -/

@[simp] theorem State.dropTensors_agenda (p : Nat) (f : Nat → Bool) : (s.dropTensors p f).agenda = s.agenda := rfl
@[simp] theorem State.dropTensors_cur (p : Nat) (f : Nat → Bool) : (s.dropTensors p f).cur = s.cur := rfl
@[simp] theorem State.dropTensors_now (p : Nat) (f : Nat → Bool) : (s.dropTensors p f).now = s.now := rfl
@[simp] theorem State.dropTensors_fresh (p : Nat) (f : Nat → Bool) : (s.dropTensors p f).fresh = s.fresh := rfl
@[simp] theorem State.dropTensors_draws (p : Nat) (f : Nat → Bool) : (s.dropTensors p f).draws = s.draws := rfl
@[simp] theorem State.dropTensors_clk (p : Nat) (f : Nat → Bool) : (s.dropTensors p f).clk = s.clk := rfl
@[simp] theorem State.dropTensors_mem (p : Nat) (f : Nat → Bool) : (s.dropTensors p f).mem = s.mem := rfl
@[simp] theorem State.dropTensors_waves (p : Nat) (f : Nat → Bool) : (s.dropTensors p f).waves = s.waves := rfl
@[simp] theorem State.dropTensors_blocks (p : Nat) (f : Nat → Bool) : (s.dropTensors p f).blocks = s.blocks := rfl
@[simp] theorem State.dropTensors_clusters (p : Nat) (f : Nat → Bool) : (s.dropTensors p f).clusters = s.clusters := rfl
@[simp] theorem State.dropTensors_grids (p : Nat) (f : Nat → Bool) : (s.dropTensors p f).grids = s.grids := rfl
@[simp] theorem State.dropTensors_cmds (p : Nat) (f : Nat → Bool) : (s.dropTensors p f).cmds = s.cmds := rfl
@[simp] theorem State.dropTensors_decrements (p : Nat) (f : Nat → Bool) : (s.dropTensors p f).decrements = s.decrements := rfl
@[simp] theorem State.dropTensors_stks (p : Nat) (f : Nat → Bool) : (s.dropTensors p f).stks = s.stks := rfl
@[simp] theorem State.dropTensors_parts (p : Nat) (f : Nat → Bool) : (s.dropTensors p f).parts = s.parts := rfl
@[simp] theorem State.dropTensors_hub (p : Nat) (f : Nat → Bool) : (s.dropTensors p f).hub = s.hub := rfl

/-! ## advance -/

@[simp] theorem State.advance_agenda (w : Nat) (pc : Dword) : (s.advance w pc).agenda = s.agenda := rfl
@[simp] theorem State.advance_cur (w : Nat) (pc : Dword) : (s.advance w pc).cur = s.cur := rfl
@[simp] theorem State.advance_now (w : Nat) (pc : Dword) : (s.advance w pc).now = s.now := rfl
@[simp] theorem State.advance_fresh (w : Nat) (pc : Dword) : (s.advance w pc).fresh = s.fresh := rfl
@[simp] theorem State.advance_draws (w : Nat) (pc : Dword) : (s.advance w pc).draws = s.draws := rfl
@[simp] theorem State.advance_clk (w : Nat) (pc : Dword) : (s.advance w pc).clk = s.clk := rfl
@[simp] theorem State.advance_mem (w : Nat) (pc : Dword) : (s.advance w pc).mem = s.mem := rfl
@[simp] theorem State.advance_blocks (w : Nat) (pc : Dword) : (s.advance w pc).blocks = s.blocks := rfl
@[simp] theorem State.advance_clusters (w : Nat) (pc : Dword) : (s.advance w pc).clusters = s.clusters := rfl
@[simp] theorem State.advance_grids (w : Nat) (pc : Dword) : (s.advance w pc).grids = s.grids := rfl
@[simp] theorem State.advance_cmds (w : Nat) (pc : Dword) : (s.advance w pc).cmds = s.cmds := rfl
@[simp] theorem State.advance_decrements (w : Nat) (pc : Dword) : (s.advance w pc).decrements = s.decrements := rfl
@[simp] theorem State.advance_cores (w : Nat) (pc : Dword) : (s.advance w pc).cores = s.cores := rfl
@[simp] theorem State.advance_dies (w : Nat) (pc : Dword) : (s.advance w pc).dies = s.dies := rfl
@[simp] theorem State.advance_stks (w : Nat) (pc : Dword) : (s.advance w pc).stks = s.stks := rfl
@[simp] theorem State.advance_parts (w : Nat) (pc : Dword) : (s.advance w pc).parts = s.parts := rfl
@[simp] theorem State.advance_hub (w : Nat) (pc : Dword) : (s.advance w pc).hub = s.hub := rfl

/-! ## stallWave -/

@[simp] theorem State.stallWave_agenda (w : Nat) (why : Wait) (reason stage aux : Nat) : (s.stallWave w why reason stage aux).agenda = s.agenda := rfl
@[simp] theorem State.stallWave_cur (w : Nat) (why : Wait) (reason stage aux : Nat) : (s.stallWave w why reason stage aux).cur = s.cur := rfl
@[simp] theorem State.stallWave_now (w : Nat) (why : Wait) (reason stage aux : Nat) : (s.stallWave w why reason stage aux).now = s.now := rfl
@[simp] theorem State.stallWave_fresh (w : Nat) (why : Wait) (reason stage aux : Nat) : (s.stallWave w why reason stage aux).fresh = s.fresh := rfl
@[simp] theorem State.stallWave_draws (w : Nat) (why : Wait) (reason stage aux : Nat) : (s.stallWave w why reason stage aux).draws = s.draws := rfl
@[simp] theorem State.stallWave_clk (w : Nat) (why : Wait) (reason stage aux : Nat) : (s.stallWave w why reason stage aux).clk = s.clk := rfl
@[simp] theorem State.stallWave_mem (w : Nat) (why : Wait) (reason stage aux : Nat) : (s.stallWave w why reason stage aux).mem = s.mem := rfl
@[simp] theorem State.stallWave_blocks (w : Nat) (why : Wait) (reason stage aux : Nat) : (s.stallWave w why reason stage aux).blocks = s.blocks := rfl
@[simp] theorem State.stallWave_clusters (w : Nat) (why : Wait) (reason stage aux : Nat) : (s.stallWave w why reason stage aux).clusters = s.clusters := rfl
@[simp] theorem State.stallWave_grids (w : Nat) (why : Wait) (reason stage aux : Nat) : (s.stallWave w why reason stage aux).grids = s.grids := rfl
@[simp] theorem State.stallWave_cmds (w : Nat) (why : Wait) (reason stage aux : Nat) : (s.stallWave w why reason stage aux).cmds = s.cmds := rfl
@[simp] theorem State.stallWave_decrements (w : Nat) (why : Wait) (reason stage aux : Nat) : (s.stallWave w why reason stage aux).decrements = s.decrements := rfl
@[simp] theorem State.stallWave_cores (w : Nat) (why : Wait) (reason stage aux : Nat) : (s.stallWave w why reason stage aux).cores = s.cores := rfl
@[simp] theorem State.stallWave_dies (w : Nat) (why : Wait) (reason stage aux : Nat) : (s.stallWave w why reason stage aux).dies = s.dies := rfl
@[simp] theorem State.stallWave_stks (w : Nat) (why : Wait) (reason stage aux : Nat) : (s.stallWave w why reason stage aux).stks = s.stks := rfl
@[simp] theorem State.stallWave_parts (w : Nat) (why : Wait) (reason stage aux : Nat) : (s.stallWave w why reason stage aux).parts = s.parts := rfl
@[simp] theorem State.stallWave_hub (w : Nat) (why : Wait) (reason stage aux : Nat) : (s.stallWave w why reason stage aux).hub = s.hub := rfl

/-! ## addCmd -/

@[simp] theorem State.addCmd_agenda (c : Cmd) : (s.addCmd c).agenda = s.agenda := rfl
@[simp] theorem State.addCmd_cur (c : Cmd) : (s.addCmd c).cur = s.cur := rfl
@[simp] theorem State.addCmd_now (c : Cmd) : (s.addCmd c).now = s.now := rfl
@[simp] theorem State.addCmd_fresh (c : Cmd) : (s.addCmd c).fresh = s.fresh := rfl
@[simp] theorem State.addCmd_draws (c : Cmd) : (s.addCmd c).draws = s.draws := rfl
@[simp] theorem State.addCmd_clk (c : Cmd) : (s.addCmd c).clk = s.clk := rfl
@[simp] theorem State.addCmd_mem (c : Cmd) : (s.addCmd c).mem = s.mem := rfl
@[simp] theorem State.addCmd_waves (c : Cmd) : (s.addCmd c).waves = s.waves := rfl
@[simp] theorem State.addCmd_blocks (c : Cmd) : (s.addCmd c).blocks = s.blocks := rfl
@[simp] theorem State.addCmd_clusters (c : Cmd) : (s.addCmd c).clusters = s.clusters := rfl
@[simp] theorem State.addCmd_grids (c : Cmd) : (s.addCmd c).grids = s.grids := rfl
@[simp] theorem State.addCmd_decrements (c : Cmd) : (s.addCmd c).decrements = s.decrements := rfl
@[simp] theorem State.addCmd_cores (c : Cmd) : (s.addCmd c).cores = s.cores := rfl
@[simp] theorem State.addCmd_dies (c : Cmd) : (s.addCmd c).dies = s.dies := rfl
@[simp] theorem State.addCmd_stks (c : Cmd) : (s.addCmd c).stks = s.stks := rfl
@[simp] theorem State.addCmd_parts (c : Cmd) : (s.addCmd c).parts = s.parts := rfl
@[simp] theorem State.addCmd_hub (c : Cmd) : (s.addCmd c).hub = s.hub := rfl

/-! ## The field that an update changes -/

@[simp] theorem State.updWave_waves (w : Nat) (f : Wave → Wave) :
    (s.updWave w f).waves = s.waves.map (fun x => if x.wid = w then f x else x) := rfl
@[simp] theorem State.updBlock_blocks (b : Nat) (f : Block → Block) :
    (s.updBlock b f).blocks = s.blocks.map (fun x => if x.uid = b then f x else x) := rfl
@[simp] theorem State.updGrid_grids (g : Nat) (f : Grid → Grid) :
    (s.updGrid g f).grids = s.grids.map (fun x => if x.uid = g then f x else x) := rfl
@[simp] theorem State.updCmd_cmds (c : Nat) (f : Cmd → Cmd) :
    (s.updCmd c f).cmds = s.cmds.map (fun x => if x.id = c then f x else x) := rfl
@[simp] theorem State.updMem_mem (f : Mem → Mem) : (s.updMem f).mem = f s.mem := rfl
@[simp] theorem State.updHub_hub (f : Hub → Hub) : (s.updHub f).hub = f s.hub := rfl
@[simp] theorem State.updDie_dies (d : Nat) (f : Die → Die) : (s.updDie d f).dies = s.dies.modify d f := rfl
@[simp] theorem State.updStack_stks (k : Nat) (f : Stack → Stack) : (s.updStack k f).stks = s.stks.modify k f := rfl
@[simp] theorem State.updPart_parts (p : Nat) (f : Partition → Partition) : (s.updPart p f).parts = s.parts.modify p f := rfl
@[simp] theorem State.updCore_cores (c : Nat) (f : Core → Core) : (s.updCore c f).cores = s.cores.modify c f := rfl
@[simp] theorem State.tickNow_now : s.tickNow.now = s.now + 1 := rfl
@[simp] theorem State.addCmd_cmds (c : Cmd) : (s.addCmd c).cmds = s.cmds ++ [c] := rfl

end Sys2Proof.Machine
end

