-- ==== Sys2Proof/Laws/Device.lean ====
section
/-! SUPPORT. The device-level operations: each keeps every memory in canonical form, and a write of a line or of bytes changes
exactly the bytes it names. -/

namespace Sys2Proof.Machine

open Sys2Proof

/-! ## Reset -/

theorem Mem.reset_wf : Mem.reset.wf := by
  refine ⟨?_, ?_, ?_, ?_⟩ <;> exact Memory.wf_nil

/-! ## What leaves the memories alone -/

@[simp] theorem Mem.copiesGone_hbm (m : Mem) (sp : Space) (l n : Nat) : (m.copiesGone sp l n).hbm = m.hbm := rfl
@[simp] theorem Mem.copiesGone_host (m : Mem) (sp : Space) (l n : Nat) : (m.copiesGone sp l n).host = m.host := rfl
@[simp] theorem Mem.copiesGone_tier (m : Mem) (sp : Space) (l n : Nat) : (m.copiesGone sp l n).tier = m.tier := rfl
@[simp] theorem Mem.copiesGone_peer (m : Mem) (sp : Space) (l n : Nat) : (m.copiesGone sp l n).peer = m.peer := rfl
@[simp] theorem Mem.mscUse_hbm (m : Mem) (l p : Nat) (w : Bool) : (m.mscUse l p w).hbm = m.hbm := rfl
@[simp] theorem Mem.mscUse_host (m : Mem) (l p : Nat) (w : Bool) : (m.mscUse l p w).host = m.host := rfl
@[simp] theorem Mem.mscUse_tier (m : Mem) (l p : Nat) (w : Bool) : (m.mscUse l p w).tier = m.tier := rfl
@[simp] theorem Mem.mscUse_peer (m : Mem) (l p : Nat) (w : Bool) : (m.mscUse l p w).peer = m.peer := rfl
@[simp] theorem Mem.mscUse_poison (m : Mem) (l p : Nat) (w : Bool) : (m.mscUse l p w).poison = m.poison := rfl
@[simp] theorem Mem.mscUse_columns (m : Mem) (l p : Nat) (w : Bool) : (m.mscUse l p w).columns = m.columns := rfl
@[simp] theorem State.saveUndo_mem (s : State) (p : Nat) (sp : Space) (l : Nat) : (s.saveUndo p sp l).mem = s.mem := by
  simp only [State.saveUndo]; split <;> rfl
@[simp] theorem State.keepPast_hbm (s : State) (sp : Space) (l : Nat) : (s.keepPast sp l).mem.hbm = s.mem.hbm := rfl
@[simp] theorem State.keepPast_host (s : State) (sp : Space) (l : Nat) : (s.keepPast sp l).mem.host = s.mem.host := rfl
@[simp] theorem State.keepPast_tier (s : State) (sp : Space) (l : Nat) : (s.keepPast sp l).mem.tier = s.mem.tier := rfl
@[simp] theorem State.keepPast_peer (s : State) (sp : Space) (l : Nat) : (s.keepPast sp l).mem.peer = s.mem.peer := rfl

/-! ## A line at device level -/

/-- A device-level write of an HBM line writes the bytes its mask names. -/
@[simp] theorem State.devWrite_hbm (s : State) (p l : Nat) (d : List Byte) (m : BitVec 64) :
    (s.devWrite p .hbm l d m).mem.hbm = s.mem.hbm.writeLine l d m := by simp [State.devWrite]
/-- A device-level write of a system-homed line leaves HBM alone; the bytes wait in the L2. -/
theorem State.devWrite_hbm_other (s : State) (p l : Nat) (d : List Byte) (m : BitVec 64) {sp : Space} (h : sp ≠ .hbm) :
    (s.devWrite p sp l d m).mem.hbm = s.mem.hbm := by
  cases sp <;> first | exact absurd rfl h | simp [State.devWrite]
@[simp] theorem State.devWrite_host (s : State) (p l : Nat) (sp : Space) (d : List Byte) (m : BitVec 64) :
    (s.devWrite p sp l d m).mem.host = s.mem.host := by cases sp <;> simp [State.devWrite]
@[simp] theorem State.devWrite_tier (s : State) (p l : Nat) (sp : Space) (d : List Byte) (m : BitVec 64) :
    (s.devWrite p sp l d m).mem.tier = s.mem.tier := by cases sp <;> simp [State.devWrite]
@[simp] theorem State.devWrite_peer (s : State) (p l : Nat) (sp : Space) (d : List Byte) (m : BitVec 64) :
    (s.devWrite p sp l d m).mem.peer = s.mem.peer := by cases sp <;> simp [State.devWrite]

/-- A device-level write of a line keeps the canonical form. -/
theorem State.devWrite_wf {s : State} (h : s.mem.wf) (p : Nat) (sp : Space) (l : Nat) (d : List Byte) (m : BitVec 64) :
    (s.devWrite p sp l d m).mem.wf := by
  obtain ⟨h1, h2, h3, h4⟩ := h
  refine ⟨?_, by simpa using h2, by simpa using h3, by simpa using h4⟩
  by_cases hs : sp = .hbm
  · subst hs; simpa using Memory.writeLine_wf h1 l d m
  · rw [State.devWrite_hbm_other _ _ _ _ _ hs]; exact h1

/-- A fold of steps that each keep the canonical form keeps it. -/
theorem wf_foldl {α : Type} (f : State → α → State) (hf : ∀ s x, s.mem.wf → (f s x).mem.wf) (xs : List α) :
    ∀ s : State, s.mem.wf → (xs.foldl f s).mem.wf := by
  induction xs with
  | nil => exact fun _ h => h
  | cons x xs ih => exact fun s h => ih _ (hf s x h)

/-- A device-level write of bytes keeps the canonical form. -/
theorem State.devWriteBytes_wf {s : State} (h : s.mem.wf) (p : Nat) (sp : Space) (a : Nat) (bs : List Byte) :
    (s.devWriteBytes p sp a bs).mem.wf :=
  wf_foldl _ (fun _ _ hs => State.devWrite_wf hs _ _ _ _ _) _ _ h

/-- A write by virtual address that translates keeps the canonical form. -/
theorem State.vwrite_wf {s t : State} (h : s.mem.wf) {die p va : Nat} {bs : List Byte} (hw : s.vwrite die p va bs = .ok t) :
    t.mem.wf := by
  simp only [State.vwrite] at hw
  split at hw
  · cases hw
  · split at hw
    · cases hw
    cases hw
    refine wf_foldl _ (fun u x hu => ?_) _ _ h
    split
    · exact hu
    · exact State.devWriteBytes_wf hu _ _ _ _

/-! ## The fault queue and the order log -/

/-- Draining held fault records keeps the canonical form. -/
theorem State.drainFq_wf (p fuel : Nat) : ∀ {s : State}, s.mem.wf → (s.drainFq p fuel).mem.wf := by
  induction fuel with
  | zero => exact fun h => h
  | succ n ih =>
    intro s h
    simp only [State.drainFq]
    split
    · exact h
    · split
      · exact ih h
      · split
        · exact h
        · refine ih (s := State.updPart _ p _) ?_
          show (State.mem _).wf
          simp only [State.updPart_mem]
          split
          · rename_i t ht
            exact State.vwrite_wf h ht
          · exact h

/-- Posting a fault record keeps the canonical form. -/
theorem State.postFault_wf {s : State} (h : s.mem.wf) (p source : Nat) (cause : BitVec 6) (addr : Dword) (agent : Nat) :
    (s.postFault p source cause addr agent).mem.wf := State.drainFq_wf _ _ h

/-- A fold of steps that each keep a memory's canonical form keeps it. -/
theorem Memory.foldl_wf {α : Type} {f : Memory → α → Memory} (hf : ∀ m x, m.wf → (f m x).wf) (xs : List α) :
    ∀ {m : Memory}, m.wf → (xs.foldl f m).wf := by
  induction xs with
  | nil => exact fun h => h
  | cons x xs ih => exact fun h => ih (hf _ x h)

/-- Logging an entry keeps the canonical form. -/
theorem State.logEntry_wf {s : State} (h : s.mem.wf) (p : Nat) (e : LogEntry) : (s.logEntry p e).mem.wf := by
  simp only [State.logEntry]
  split
  · split <;> exact h
  · split
    · exact h
    · obtain ⟨h1, h2, h3, h4⟩ := h
      refine ⟨?_, h2, h3, h4⟩
      show Memory.wf (if _ then _ else _)
      split
      · exact h1
      · refine Memory.foldl_wf (fun m x hm => ?_) _ h1
        split
        · exact Memory.write_wf hm _ _
        · exact hm

/-- Logging a step of a partition keeps the canonical form. -/
theorem State.logDev_wf {s : State} (h : s.mem.wf) (p kind level count agent : Nat) : (s.logDev p kind level count agent).mem.wf := by
  simp only [State.logDev]; exact State.logEntry_wf (s := s.updPart p _) h _ _

/-- A partition that neither logs nor replays logs nothing. -/
theorem State.logEntry_quiet {s : State} {p : Nat} (h1 : (s.part p).dbgCtl.getLsbD 3 = false) (h2 : (s.part p).replayPh ≠ .running)
    (e : LogEntry) : s.logEntry p e = s := by
  have h3 : replayHead (s.part p) = none := if_neg h2
  have h4 : logging (s.part p) = false := by rw [logging, h1]; rfl
  simp only [State.logEntry, h3, h4]; rfl

/-- A partition that neither logs nor replays may perform every step. -/
theorem State.mayStep_quiet {s : State} {p : Nat} (h1 : (s.part p).dbgCtl.getLsbD 3 = false) (h2 : (s.part p).replayPh ≠ .running)
    (kind agent bytes : Nat) : s.mayStep p kind agent bytes = true := by
  have h3 : replayHead (s.part p) = none := if_neg h2
  have h4 : logging (s.part p) = false := by rw [logging, h1]; rfl
  have h5 : replayStop (s.part p) = false := by simp [replayStop, h2]
  simp only [State.mayStep, stepAllowed, h3, h4, h5]; rfl

/-! ## System homes -/

/-- Bytes that arrive at a system home keep the canonical form. -/
theorem State.homeDeliver_wf {s : State} (h : s.mem.wf) (sp : Space) (l : Nat) (d : List Byte) (m : BitVec 64) (at' : Nat) :
    (s.homeDeliver sp l d m at').mem.wf := by
  obtain ⟨h1, h2, h3, h4⟩ := h
  cases sp
  · exact ⟨Memory.writeLine_wf h1 _ _ _, h2, h3, h4⟩
  all_goals (first
    | exact ⟨h1, Memory.writeLine_wf h2 _ _ _, h3, h4⟩
    | exact ⟨h1, h2, Memory.writeLine_wf h3 _ _ _, h4⟩
    | exact ⟨h1, h2, h3, Memory.writeLine_wf h4 _ _ _⟩)

/-! ## The hub -/

theorem State.foldl_hub {α : Type} (f : State → α → State) (h : ∀ s x, (f s x).hub = s.hub) (xs : List α) :
    ∀ s, (xs.foldl f s).hub = s.hub := by
  induction xs with
  | nil => exact fun _ => rfl
  | cons x xs ih => exact fun s => (ih (f s x)).trans (h s x)

/-- Saving a line's old contents leaves the hub as it is. -/
theorem State.saveUndo_hub (s : State) (p : Nat) (sp : Space) (l : Nat) : (s.saveUndo p sp l).hub = s.hub := by
  simp only [State.saveUndo]; split <;> rfl
/-- A device-level write leaves the hub as it is. -/
theorem State.devWrite_hub (s : State) (p : Nat) (sp : Space) (l : Nat) (d : List Byte) (m : BitVec 64) : (s.devWrite p sp l d m).hub = s.hub := by
  have h : ((s.saveUndo p sp l).tickNow.keepPast sp l).hub = s.hub := by
    rw [show ((s.saveUndo p sp l).tickNow.keepPast sp l).hub = (s.saveUndo p sp l).hub from rfl, State.saveUndo_hub]
  simp only [State.devWrite]; split <;> exact h
theorem State.devWriteBytes_hub (s : State) (p : Nat) (sp : Space) (a : Nat) (bs : List Byte) : (s.devWriteBytes p sp a bs).hub = s.hub :=
  State.foldl_hub _ (fun _ _ => State.devWrite_hub ..) _ s
/-- Logging an entry leaves the hub as it is. -/
theorem State.logEntry_hub (s : State) (p : Nat) (e : LogEntry) : (s.logEntry p e).hub = s.hub := by
  simp only [State.logEntry]
  split
  · split <;> rfl
  · split <;> rfl
/-- A peer's write leaves the hub as it is. -/
theorem State.peerWrite_hub (s : State) (o : Nat) (bs : List Byte) : (s.peerWrite o bs).hub = s.hub := by
  simp only [State.peerWrite]
  refine (State.foldl_hub _ (fun _ _ => ?_) _ _).trans ((State.devWriteBytes_hub ..).trans (State.foldl_hub _ (fun _ _ => ?_) _ _))
  · exact State.logEntry_hub ..
  · exact State.foldl_hub _ (fun _ _ => State.saveUndo_hub ..) _ _

end Sys2Proof.Machine
end

