-- ==== Sys2Proof/Laws/Issue.lean ====
section
/-! SUPPORT. The frame of every SIMT instruction: what `simt` can answer, and that an instruction which reaches its meaning
ends as the meaning says. -/

namespace Sys2Proof.Machine

open Sys2Proof

/-- An instruction that reaches its meaning ends in a next state, the one its meaning names. -/
theorem simt_issued {op : Nat} {e : Enc} {s : State} {c : Cx} (h : Issued op e s c) (body : Cx → Res) :
    simt op e s body = .next ((body c).finish c) := by
  obtain ⟨wid, w, b, g, iv, s', h1, h2, h3, h4, h5, h6, h7, h8, rfl⟩ := h
  simp only [simt, h1, h2, h3, h4, h5, h6, Bool.not_true, Bool.false_eq_true, if_false, h7, h8]

/-- A meaning that ends performed leaves the wave at the next instruction. -/
theorem simt_done {op : Nat} {e : Enc} {s t : State} {c : Cx} (h : Issued op e s c) {body : Cx → Res} (hb : body c = .done t) :
    simt op e s body = .next (c.after t) := by
  rw [simt_issued h, hb]; rfl

/-- A meaning that jumps leaves the wave at its target. -/
theorem simt_jump {op : Nat} {e : Enc} {s t : State} {c : Cx} {pc : Dword} (h : Issued op e s c) {body : Cx → Res}
    (hb : body c = .jump t pc) : simt op e s body = .next (t.advance c.wid pc) := by
  rw [simt_issued h, hb]; rfl

/-- `simt` answers a next state, or faults because no wave is performing. -/
theorem simt_cases (op : Nat) (e : Enc) (s : State) (body : Cx → Res) :
    (∃ t, simt op e s body = .next t) ∨ simt op e s body = .fault .noWave := by
  simp only [simt]
  repeat' (first | exact .inr rfl | exact .inl ⟨_, rfl⟩ | split)

/-- `simt` refuses nothing. -/
theorem simt_not_refused (op : Nat) (e : Enc) (s : State) (body : Cx → Res) (r : Refusal) :
    simt op e s body ≠ .refused r := by
  rcases simt_cases op e s body with ⟨t, h⟩ | h <;> simp [h]

/-- With a wave current whose block and grid are there, `simt` answers a next state. -/
theorem simt_next {op : Nat} {e : Enc} {s : State} {wid : Nat} {w : Wave} {b : Block} {g : Grid} (h1 : s.cur = some wid)
    (h2 : s.wave? wid = some w) (h3 : s.block? w.blk = some b) (h4 : s.grid? b.grid = some g) (body : Cx → Res) :
    ∃ t, simt op e s body = .next t := by
  simp only [simt, h1, h2, h3, h4]
  repeat' (first | exact ⟨_, rfl⟩ | split)

end Sys2Proof.Machine
end

