-- ==== Sys2Proof/Laws/Exec.lean ====
section
/-! SUPPORT. What `exec` is of each constructor, and the frame of all the instructions of a wave at once: each one's meaning is
a body run by `simt`, so a statement about a meaning follows from what its body answers. -/

namespace Sys2Proof.Machine

open Sys2Proof

/-! ## exec of each constructor -/

@[simp] theorem exec_intAdd (e : Enc) (s : State) : exec (.intAdd e) s = execIntAdd e s := rfl
@[simp] theorem exec_intSub (e : Enc) (s : State) : exec (.intSub e) s = execIntSub e s := rfl
@[simp] theorem exec_intMul (e : Enc) (s : State) : exec (.intMul e) s = execIntMul e s := rfl
@[simp] theorem exec_mulhi (e : Enc) (s : State) : exec (.mulhi e) s = execMulhi e s := rfl
@[simp] theorem exec_mad (e : Enc) (s : State) : exec (.mad e) s = execMad e s := rfl
@[simp] theorem exec_intMin (e : Enc) (s : State) : exec (.intMin e) s = execIntMin e s := rfl
@[simp] theorem exec_intMax (e : Enc) (s : State) : exec (.intMax e) s = execIntMax e s := rfl
@[simp] theorem exec_intAbs (e : Enc) (s : State) : exec (.intAbs e) s = execIntAbs e s := rfl
@[simp] theorem exec_intNeg (e : Enc) (s : State) : exec (.intNeg e) s = execIntNeg e s := rfl
@[simp] theorem exec_andOp (e : Enc) (s : State) : exec (.andOp e) s = execAndOp e s := rfl
@[simp] theorem exec_orOp (e : Enc) (s : State) : exec (.orOp e) s = execOrOp e s := rfl
@[simp] theorem exec_xorOp (e : Enc) (s : State) : exec (.xorOp e) s = execXorOp e s := rfl
@[simp] theorem exec_notOp (e : Enc) (s : State) : exec (.notOp e) s = execNotOp e s := rfl
@[simp] theorem exec_shl (e : Enc) (s : State) : exec (.shl e) s = execShl e s := rfl
@[simp] theorem exec_shr (e : Enc) (s : State) : exec (.shr e) s = execShr e s := rfl
@[simp] theorem exec_rot (e : Enc) (s : State) : exec (.rot e) s = execRot e s := rfl
@[simp] theorem exec_popc (e : Enc) (s : State) : exec (.popc e) s = execPopc e s := rfl
@[simp] theorem exec_clz (e : Enc) (s : State) : exec (.clz e) s = execClz e s := rfl
@[simp] theorem exec_ctz (e : Enc) (s : State) : exec (.ctz e) s = execCtz e s := rfl
@[simp] theorem exec_brev (e : Enc) (s : State) : exec (.brev e) s = execBrev e s := rfl
@[simp] theorem exec_bfe (e : Enc) (s : State) : exec (.bfe e) s = execBfe e s := rfl
@[simp] theorem exec_bfi (e : Enc) (s : State) : exec (.bfi e) s = execBfi e s := rfl
@[simp] theorem exec_sel (e : Enc) (s : State) : exec (.sel e) s = execSel e s := rfl
@[simp] theorem exec_mov (e : Enc) (s : State) : exec (.mov e) s = execMov e s := rfl
@[simp] theorem exec_intCmp (e : Enc) (s : State) : exec (.intCmp e) s = execIntCmp e s := rfl
@[simp] theorem exec_lea (e : Enc) (s : State) : exec (.lea e) s = execLea e s := rfl
@[simp] theorem exec_perm (e : Enc) (s : State) : exec (.perm e) s = execPerm e s := rfl
@[simp] theorem exec_shf (e : Enc) (s : State) : exec (.shf e) s = execShf e s := rfl
@[simp] theorem exec_fpAdd (e : Enc) (s : State) : exec (.fpAdd e) s = execFpAdd e s := rfl
@[simp] theorem exec_fpSub (e : Enc) (s : State) : exec (.fpSub e) s = execFpSub e s := rfl
@[simp] theorem exec_fpMul (e : Enc) (s : State) : exec (.fpMul e) s = execFpMul e s := rfl
@[simp] theorem exec_fma (e : Enc) (s : State) : exec (.fma e) s = execFma e s := rfl
@[simp] theorem exec_fpMin (e : Enc) (s : State) : exec (.fpMin e) s = execFpMin e s := rfl
@[simp] theorem exec_fpMax (e : Enc) (s : State) : exec (.fpMax e) s = execFpMax e s := rfl
@[simp] theorem exec_fpAbs (e : Enc) (s : State) : exec (.fpAbs e) s = execFpAbs e s := rfl
@[simp] theorem exec_fpNeg (e : Enc) (s : State) : exec (.fpNeg e) s = execFpNeg e s := rfl
@[simp] theorem exec_fpCmp (e : Enc) (s : State) : exec (.fpCmp e) s = execFpCmp e s := rfl
@[simp] theorem exec_classOp (e : Enc) (s : State) : exec (.classOp e) s = execClassOp e s := rfl
@[simp] theorem exec_rcp (e : Enc) (s : State) : exec (.rcp e) s = execRcp e s := rfl
@[simp] theorem exec_rsq (e : Enc) (s : State) : exec (.rsq e) s = execRsq e s := rfl
@[simp] theorem exec_sqe (e : Enc) (s : State) : exec (.sqe e) s = execSqe e s := rfl
@[simp] theorem exec_exp2 (e : Enc) (s : State) : exec (.exp2 e) s = execExp2 e s := rfl
@[simp] theorem exec_log2 (e : Enc) (s : State) : exec (.log2 e) s = execLog2 e s := rfl
@[simp] theorem exec_rnd (e : Enc) (s : State) : exec (.rnd e) s = execRnd e s := rfl
@[simp] theorem exec_cvt (e : Enc) (s : State) : exec (.cvt e) s = execCvt e s := rfl
@[simp] theorem exec_cvt2 (e : Enc) (s : State) : exec (.cvt2 e) s = execCvt2 e s := rfl
@[simp] theorem exec_pack (e : Enc) (s : State) : exec (.pack e) s = execPack e s := rfl
@[simp] theorem exec_unpk (e : Enc) (s : State) : exec (.unpk e) s = execUnpk e s := rfl
@[simp] theorem exec_dcd (e : Enc) (s : State) : exec (.dcd e) s = execDcd e s := rfl
@[simp] theorem exec_enc (e : Enc) (s : State) : exec (.enc e) s = execEnc e s := rfl
@[simp] theorem exec_sbx (e : Enc) (s : State) : exec (.sbx e) s = execSbx e s := rfl
@[simp] theorem exec_scl (e : Enc) (s : State) : exec (.scl e) s = execScl e s := rfl
@[simp] theorem exec_quadXor (e : Enc) (s : State) : exec (.quadXor e) s = execQuadXor e s := rfl
@[simp] theorem exec_quadBc (e : Enc) (s : State) : exec (.quadBc e) s = execQuadBc e s := rfl
@[simp] theorem exec_shflIdx (e : Enc) (s : State) : exec (.shflIdx e) s = execShflIdx e s := rfl
@[simp] theorem exec_shflUp (e : Enc) (s : State) : exec (.shflUp e) s = execShflUp e s := rfl
@[simp] theorem exec_shflDn (e : Enc) (s : State) : exec (.shflDn e) s = execShflDn e s := rfl
@[simp] theorem exec_shflXor (e : Enc) (s : State) : exec (.shflXor e) s = execShflXor e s := rfl
@[simp] theorem exec_wred (e : Enc) (s : State) : exec (.wred e) s = execWred e s := rfl
@[simp] theorem exec_wscan (e : Enc) (s : State) : exec (.wscan e) s = execWscan e s := rfl
@[simp] theorem exec_ballot (e : Enc) (s : State) : exec (.ballot e) s = execBallot e s := rfl
@[simp] theorem exec_kop (e : Enc) (s : State) : exec (.kop e) s = execKop e s := rfl
@[simp] theorem exec_kpopc (e : Enc) (s : State) : exec (.kpopc e) s = execKpopc e s := rfl
@[simp] theorem exec_kffs (e : Enc) (s : State) : exec (.kffs e) s = execKffs e s := rfl
@[simp] theorem exec_matchOp (e : Enc) (s : State) : exec (.matchOp e) s = execMatchOp e s := rfl
@[simp] theorem exec_br (e : Enc) (s : State) : exec (.br e) s = execBr e s := rfl
@[simp] theorem exec_split (e : Enc) (s : State) : exec (.split e) s = execSplit e s := rfl
@[simp] theorem exec_join (e : Enc) (s : State) : exec (.join e) s = execJoin e s := rfl
@[simp] theorem exec_loop (e : Enc) (s : State) : exec (.loop e) s = execLoop e s := rfl
@[simp] theorem exec_call (e : Enc) (s : State) : exec (.call e) s = execCall e s := rfl
@[simp] theorem exec_ret (e : Enc) (s : State) : exec (.ret e) s = execRet e s := rfl
@[simp] theorem exec_jmp (e : Enc) (s : State) : exec (.jmp e) s = execJmp e s := rfl
@[simp] theorem exec_nop (e : Enc) (s : State) : exec (.nop e) s = execNop e s := rfl
@[simp] theorem exec_ldG (e : Enc) (s : State) : exec (.ldG e) s = execLdG e s := rfl
@[simp] theorem exec_stG (e : Enc) (s : State) : exec (.stG e) s = execStG e s := rfl
@[simp] theorem exec_ldS (e : Enc) (s : State) : exec (.ldS e) s = execLdS e s := rfl
@[simp] theorem exec_stS (e : Enc) (s : State) : exec (.stS e) s = execStS e s := rfl
@[simp] theorem exec_ldC (e : Enc) (s : State) : exec (.ldC e) s = execLdC e s := rfl
@[simp] theorem exec_tld (e : Enc) (s : State) : exec (.tld e) s = execTld e s := rfl
@[simp] theorem exec_gatG (e : Enc) (s : State) : exec (.gatG e) s = execGatG e s := rfl
@[simp] theorem exec_sctG (e : Enc) (s : State) : exec (.sctG e) s = execSctG e s := rfl
@[simp] theorem exec_gatS (e : Enc) (s : State) : exec (.gatS e) s = execGatS e s := rfl
@[simp] theorem exec_sctS (e : Enc) (s : State) : exec (.sctS e) s = execSctS e s := rfl
@[simp] theorem exec_pf (e : Enc) (s : State) : exec (.pf e) s = execPf e s := rfl
@[simp] theorem exec_commit (e : Enc) (s : State) : exec (.commit e) s = execCommit e s := rfl
@[simp] theorem exec_commitX (e : Enc) (s : State) : exec (.commitX e) s = execCommitX e s := rfl
@[simp] theorem exec_abortOp (e : Enc) (s : State) : exec (.abortOp e) s = execAbortOp e s := rfl
@[simp] theorem exec_acq (e : Enc) (s : State) : exec (.acq e) s = execAcq e s := rfl
@[simp] theorem exec_barBlk (e : Enc) (s : State) : exec (.barBlk e) s = execBarBlk e s := rfl
@[simp] theorem exec_barArv (e : Enc) (s : State) : exec (.barArv e) s = execBarArv e s := rfl
@[simp] theorem exec_barWt (e : Enc) (s : State) : exec (.barWt e) s = execBarWt e s := rfl
@[simp] theorem exec_ownGive (e : Enc) (s : State) : exec (.ownGive e) s = execOwnGive e s := rfl
@[simp] theorem exec_ownTst (e : Enc) (s : State) : exec (.ownTst e) s = execOwnTst e s := rfl
@[simp] theorem exec_trapOp (e : Enc) (s : State) : exec (.trapOp e) s = execTrapOp e s := rfl
@[simp] theorem exec_rte (e : Enc) (s : State) : exec (.rte e) s = execRte e s := rfl
@[simp] theorem exec_yieldOp (e : Enc) (s : State) : exec (.yieldOp e) s = execYieldOp e s := rfl
@[simp] theorem exec_modeOp (e : Enc) (s : State) : exec (.modeOp e) s = execModeOp e s := rfl
@[simp] theorem exec_getm (e : Enc) (s : State) : exec (.getm e) s = execGetm e s := rfl
@[simp] theorem exec_rdpr (e : Enc) (s : State) : exec (.rdpr e) s = execRdpr e s := rfl
@[simp] theorem exec_wrpr (e : Enc) (s : State) : exec (.wrpr e) s = execWrpr e s := rfl
@[simp] theorem exec_bkpt (e : Enc) (s : State) : exec (.bkpt e) s = execBkpt e s := rfl
@[simp] theorem exec_sleep (e : Enc) (s : State) : exec (.sleep e) s = execSleep e s := rfl
@[simp] theorem exec_atomAdd (e : Enc) (s : State) : exec (.atomAdd e) s = execAtomAdd e s := rfl
@[simp] theorem exec_atomMin (e : Enc) (s : State) : exec (.atomMin e) s = execAtomMin e s := rfl
@[simp] theorem exec_atomMax (e : Enc) (s : State) : exec (.atomMax e) s = execAtomMax e s := rfl
@[simp] theorem exec_atomAnd (e : Enc) (s : State) : exec (.atomAnd e) s = execAtomAnd e s := rfl
@[simp] theorem exec_atomOr (e : Enc) (s : State) : exec (.atomOr e) s = execAtomOr e s := rfl
@[simp] theorem exec_atomXor (e : Enc) (s : State) : exec (.atomXor e) s = execAtomXor e s := rfl
@[simp] theorem exec_atomExch (e : Enc) (s : State) : exec (.atomExch e) s = execAtomExch e s := rfl
@[simp] theorem exec_atomCas (e : Enc) (s : State) : exec (.atomCas e) s = execAtomCas e s := rfl
@[simp] theorem exec_atomInc (e : Enc) (s : State) : exec (.atomInc e) s = execAtomInc e s := rfl
@[simp] theorem exec_barClus (e : Enc) (s : State) : exec (.barClus e) s = execBarClus e s := rfl
@[simp] theorem exec_barGrid (e : Enc) (s : State) : exec (.barGrid e) s = execBarGrid e s := rfl
@[simp] theorem exec_mbarInit (e : Enc) (s : State) : exec (.mbarInit e) s = execMbarInit e s := rfl
@[simp] theorem exec_mbarArv (e : Enc) (s : State) : exec (.mbarArv e) s = execMbarArv e s := rfl
@[simp] theorem exec_mbarWait (e : Enc) (s : State) : exec (.mbarWait e) s = execMbarWait e s := rfl
@[simp] theorem exec_blkGrow (e : Enc) (s : State) : exec (.blkGrow e) s = execBlkGrow e s := rfl
@[simp] theorem exec_blkLeave (e : Enc) (s : State) : exec (.blkLeave e) s = execBlkLeave e s := rfl
@[simp] theorem exec_role (e : Enc) (s : State) : exec (.role e) s = execRole e s := rfl
@[simp] theorem exec_ctrg (e : Enc) (s : State) : exec (.ctrg e) s = execCtrg e s := rfl
@[simp] theorem exec_isect (e : Enc) (s : State) : exec (.isect e) s = execIsect e s := rfl
@[simp] theorem exec_taskSpawn (e : Enc) (s : State) : exec (.taskSpawn e) s = execTaskSpawn e s := rfl
@[simp] theorem exec_taskJoin (e : Enc) (s : State) : exec (.taskJoin e) s = execTaskJoin e s := rfl
@[simp] theorem exec_taskWait (e : Enc) (s : State) : exec (.taskWait e) s = execTaskWait e s := rfl
@[simp] theorem exec_tset (e : Enc) (s : State) : exec (.tset e) s = execTset e s := rfl
@[simp] theorem exec_tget (e : Enc) (s : State) : exec (.tget e) s = execTget e s := rfl
@[simp] theorem exec_cpPush (e : Enc) (s : State) : exec (.cpPush e) s = execCpPush e s := rfl
@[simp] theorem exec_cpClose (e : Enc) (s : State) : exec (.cpClose e) s = execCpClose e s := rfl
@[simp] theorem exec_cpWait (e : Enc) (s : State) : exec (.cpWait e) s = execCpWait e s := rfl
@[simp] theorem exec_ringSet (e : Enc) (s : State) : exec (.ringSet e) s = execRingSet e s := rfl
@[simp] theorem exec_ringAdv (e : Enc) (s : State) : exec (.ringAdv e) s = execRingAdv e s := rfl
@[simp] theorem exec_ringRd (e : Enc) (s : State) : exec (.ringRd e) s = execRingRd e s := rfl
@[simp] theorem exec_mxRow (e : Enc) (s : State) : exec (.mxRow e) s = execMxRow e s := rfl
@[simp] theorem exec_mxLdb (e : Enc) (s : State) : exec (.mxLdb e) s = execMxLdb e s := rfl
@[simp] theorem exec_mxResume (e : Enc) (s : State) : exec (.mxResume e) s = execMxResume e s := rfl
@[simp] theorem exec_mxProg (e : Enc) (s : State) : exec (.mxProg e) s = execMxProg e s := rfl
@[simp] theorem exec_accRd (e : Enc) (s : State) : exec (.accRd e) s = execAccRd e s := rfl
@[simp] theorem exec_accWr (e : Enc) (s : State) : exec (.accWr e) s = execAccWr e s := rfl
@[simp] theorem exec_accClr (e : Enc) (s : State) : exec (.accClr e) s = execAccClr e s := rfl
@[simp] theorem exec_accOut (e : Enc) (s : State) : exec (.accOut e) s = execAccOut e s := rfl
@[simp] theorem exec_sdaRun (e : Enc) (s : State) : exec (.sdaRun e) s = execSdaRun e s := rfl
@[simp] theorem exec_sdaStop (e : Enc) (s : State) : exec (.sdaStop e) s = execSdaStop e s := rfl
@[simp] theorem exec_sdaStat (e : Enc) (s : State) : exec (.sdaStat e) s = execSdaStat e s := rfl
@[simp] theorem exec_sdaLd (e : Enc) (s : State) : exec (.sdaLd e) s = execSdaLd e s := rfl
@[simp] theorem exec_gkHf (e : Enc) (s : State) : exec (.gkHf e) s = execGkHf e s := rfl
@[simp] theorem exec_gkTbl (e : Enc) (s : State) : exec (.gkTbl e) s = execGkTbl e s := rfl
@[simp] theorem exec_gkIns (e : Enc) (s : State) : exec (.gkIns e) s = execGkIns e s := rfl
@[simp] theorem exec_gkDel (e : Enc) (s : State) : exec (.gkDel e) s = execGkDel e s := rfl
@[simp] theorem exec_gkProbe (e : Enc) (s : State) : exec (.gkProbe e) s = execGkProbe e s := rfl
@[simp] theorem exec_gkRehash (e : Enc) (s : State) : exec (.gkRehash e) s = execGkRehash e s := rfl
@[simp] theorem exec_gkEval (e : Enc) (s : State) : exec (.gkEval e) s = execGkEval e s := rfl
@[simp] theorem exec_gkSeq (e : Enc) (s : State) : exec (.gkSeq e) s = execGkSeq e s := rfl
@[simp] theorem exec_gkStat (e : Enc) (s : State) : exec (.gkStat e) s = execGkStat e s := rfl
@[simp] theorem exec_topkIns (e : Enc) (s : State) : exec (.topkIns e) s = execTopkIns e s := rfl
@[simp] theorem exec_topkMrg (e : Enc) (s : State) : exec (.topkMrg e) s = execTopkMrg e s := rfl
@[simp] theorem exec_topkRd (e : Enc) (s : State) : exec (.topkRd e) s = execTopkRd e s := rfl
@[simp] theorem exec_topkClr (e : Enc) (s : State) : exec (.topkClr e) s = execTopkClr e s := rfl
@[simp] theorem exec_topkSum (e : Enc) (s : State) : exec (.topkSum e) s = execTopkSum e s := rfl
@[simp] theorem exec_asyncCauseTaken (w : Nat) (s : State) : exec (.asyncCauseTaken w) s = execAsyncCauseTaken w s := rfl
@[simp] theorem exec_loadDataReturn (w line : Nat) (clean : Bool) (s : State) : exec (.loadDataReturn w line clean) s = execLoadDataReturn w line clean s := rfl
@[simp] theorem exec_ackArrival (w k : Nat) (s : State) : exec (.ackArrival w k) s = execAckArrival w k s := rfl
@[simp] theorem exec_crossDiePublish (w : Nat) (s : State) : exec (.crossDiePublish w) s = execCrossDiePublish w s := rfl
@[simp] theorem exec_launchPacket (part q : Nat) (s : State) : exec (.launchPacket part q) s = execLaunchPacket part q s := rfl
@[simp] theorem exec_taskDecrement (k : Nat) (s : State) : exec (.taskDecrement k) s = execTaskDecrement k s := rfl
@[simp] theorem exec_sliceExpiry (grid : Nat) (s : State) : exec (.sliceExpiry grid) s = execSliceExpiry grid s := rfl
@[simp] theorem exec_ageingExpiry (grid : Nat) (s : State) : exec (.ageingExpiry grid) s = execAgeingExpiry grid s := rfl
@[simp] theorem exec_preemptDeadlineExpiry (blk : Nat) (s : State) : exec (.preemptDeadlineExpiry blk) s = execPreemptDeadlineExpiry blk s := rfl
@[simp] theorem exec_blockSave (blk : Nat) (s : State) : exec (.blockSave blk) s = execBlockSave blk s := rfl
@[simp] theorem exec_blockRestore (blk : Nat) (s : State) : exec (.blockRestore blk) s = execBlockRestore blk s := rfl
@[simp] theorem exec_partitionSwap (part : Nat) (s : State) : exec (.partitionSwap part) s = execPartitionSwap part s := rfl
@[simp] theorem exec_partitionSwapIn (part : Nat) (s : State) : exec (.partitionSwapIn part) s = execPartitionSwapIn part s := rfl
@[simp] theorem exec_sleepExpiry (w : Nat) (s : State) : exec (.sleepExpiry w) s = execSleepExpiry w s := rfl
@[simp] theorem exec_watchdogExpiry (w : Nat) (s : State) : exec (.watchdogExpiry w) s = execWatchdogExpiry w s := rfl
@[simp] theorem exec_profilerSample (part core : Nat) (s : State) : exec (.profilerSample part core) s = execProfilerSample part core s := rfl
@[simp] theorem exec_tadpoleCheckpoint (part : Nat) (s : State) : exec (.tadpoleCheckpoint part) s = execTadpoleCheckpoint part s := rfl
@[simp] theorem exec_tadCmdCkpt (part : Nat) (v : Dword) (s : State) : exec (.tadCmdCkpt part v) s = execTadCmdCkpt part v s := rfl
@[simp] theorem exec_tadpoleReplay (part : Nat) (s : State) : exec (.tadpoleReplay part) s = execTadpoleReplay part s := rfl
@[simp] theorem exec_dbgHalt (part : Nat) (v : Dword) (s : State) : exec (.dbgHalt part v) s = execDbgHalt part v s := rfl
@[simp] theorem exec_tlbInvalidate (part : Nat) (v : Dword) (s : State) : exec (.tlbInvalidate part v) s = execTlbInvalidate part v s := rfl
@[simp] theorem exec_tlbInvComplete (part : Nat) (s : State) : exec (.tlbInvComplete part) s = execTlbInvComplete part s := rfl
@[simp] theorem exec_qerrWrite (part : Nat) (v : Dword) (s : State) : exec (.qerrWrite part v) s = execQerrWrite part v s := rfl
@[simp] theorem exec_cqerrWrite (part : Nat) (v : Dword) (s : State) : exec (.cqerrWrite part v) s = execCqerrWrite part v s := rfl
@[simp] theorem exec_copyPacket (part cq : Nat) (s : State) : exec (.copyPacket part cq) s = execCopyPacket part cq s := rfl
@[simp] theorem exec_copyFaultResume (cmd : Nat) (s : State) : exec (.copyFaultResume cmd) s = execCopyFaultResume cmd s := rfl
@[simp] theorem exec_copyPacketComplete (cmd : Nat) (s : State) : exec (.copyPacketComplete cmd) s = execCopyPacketComplete cmd s := rfl
@[simp] theorem exec_mxKstep (cmd : Nat) (s : State) : exec (.mxKstep cmd) s = execMxKstep cmd s := rfl
@[simp] theorem exec_accOutPerform (cmd : Nat) (s : State) : exec (.accOutPerform cmd) s = execAccOutPerform cmd s := rfl
@[simp] theorem exec_regionPlacement (stack slot : Nat) (s : State) : exec (.regionPlacement stack slot) s = execRegionPlacement stack slot s := rfl
@[simp] theorem exec_peFiring (stack slot pad pe : Nat) (s : State) : exec (.peFiring stack slot pad pe) s = execPeFiring stack slot pad pe s := rfl
@[simp] theorem exec_streamInputToken (stack slot stream : Nat) (s : State) : exec (.streamInputToken stack slot stream) s = execStreamInputToken stack slot stream s := rfl
@[simp] theorem exec_streamOutputWrite (stack slot stream : Nat) (s : State) : exec (.streamOutputWrite stack slot stream) s = execStreamOutputWrite stack slot stream s := rfl
@[simp] theorem exec_updateApply (stack slot stream : Nat) (s : State) : exec (.updateApply stack slot stream) s = execUpdateApply stack slot stream s := rfl
@[simp] theorem exec_gatewayReject (stack slot pf : Nat) (owner : BitVec 6) (s : State) : exec (.gatewayReject stack slot pf owner) s = execGatewayReject stack slot pf owner s := rfl
@[simp] theorem exec_configComplete (stack slot : Nat) (s : State) : exec (.configComplete stack slot) s = execConfigComplete stack slot s := rfl
@[simp] theorem exec_drainRequest (stack slot : Nat) (s : State) : exec (.drainRequest stack slot) s = execDrainRequest stack slot s := rfl
@[simp] theorem exec_regionQuiescence (stack slot : Nat) (s : State) : exec (.regionQuiescence stack slot) s = execRegionQuiescence stack slot s := rfl
@[simp] theorem exec_regionRestore (stack slot : Nat) (s : State) : exec (.regionRestore stack slot) s = execRegionRestore stack slot s := rfl
@[simp] theorem exec_compactionMove (stack slot : Nat) (s : State) : exec (.compactionMove stack slot) s = execCompactionMove stack slot s := rfl
@[simp] theorem exec_aclkWindow (stack q up down total : Nat) (s : State) : exec (.aclkWindow stack q up down total) s = execAclkWindow stack q up down total s := rfl
@[simp] theorem exec_arrAssignWrite (stack half : Nat) (v : Dword) (s : State) : exec (.arrAssignWrite stack half v) s = execArrAssignWrite stack half v s := rfl
@[simp] theorem exec_cfgcInvAddr (stack : Nat) (v : Dword) (s : State) : exec (.cfgcInvAddr stack v) s = execCfgcInvAddr stack v s := rfl
@[simp] theorem exec_cfgcInvAll (stack : Nat) (v : Dword) (s : State) : exec (.cfgcInvAll stack v) s = execCfgcInvAll stack v s := rfl
@[simp] theorem exec_gkStepPerform (stack table : Nat) (s : State) : exec (.gkStepPerform stack table) s = execGkStepPerform stack table s := rfl
@[simp] theorem exec_gkReadPerform (stack k : Nat) (s : State) : exec (.gkReadPerform stack k) s = execGkReadPerform stack k s := rfl
@[simp] theorem exec_gkAssignWrite (stack : Nat) (v : Dword) (s : State) : exec (.gkAssignWrite stack v) s = execGkAssignWrite stack v s := rfl
@[simp] theorem exec_hbmRead (c : HbmCoord) (part line errs : Nat) (s : State) : exec (.hbmRead c part line errs) s = execHbmRead c part line errs s := rfl
@[simp] theorem exec_hbmWrite (c : HbmCoord) (part line : Nat) (full : Bool) (s : State) : exec (.hbmWrite c part line full) s = execHbmWrite c part line full s := rfl
@[simp] theorem exec_idlePrecharge (b : HbmBank) (s : State) : exec (.idlePrecharge b) s = execIdlePrecharge b s := rfl
@[simp] theorem exec_refreshManagement (b : HbmBank) (s : State) : exec (.refreshManagement b) s = execRefreshManagement b s := rfl
@[simp] theorem exec_ctAdd (v : Dword) (granted : Bool) (s : State) : exec (.ctAdd v granted) s = execCtAdd v granted s := rfl
@[simp] theorem exec_ctRelease (v : Dword) (s : State) : exec (.ctRelease v) s = execCtRelease v s := rfl
@[simp] theorem exec_ctSetRetain (v : Dword) (s : State) : exec (.ctSetRetain v) s = execCtSetRetain v s := rfl
@[simp] theorem exec_ctClearRetain (v : Dword) (s : State) : exec (.ctClearRetain v) s = execCtClearRetain v s := rfl
@[simp] theorem exec_ctCmdDone (s : State) : exec .ctCmdDone s = execCtCmdDone s := rfl
@[simp] theorem exec_ckptStart (v : Dword) (s : State) : exec (.ckptStart v) s = execCkptStart v s := rfl
@[simp] theorem exec_ckptRestore (v : Dword) (s : State) : exec (.ckptRestore v) s = execCkptRestore v s := rfl
@[simp] theorem exec_ckptComplete (fabricError : Bool) (s : State) : exec (.ckptComplete fabricError) s = execCkptComplete fabricError s := rfl
@[simp] theorem exec_hostBar2Read (part : Nat) (off : Dword) (len : Nat) (s : State) : exec (.hostBar2Read part off len) s = execHostBar2Read part off len s := rfl
@[simp] theorem exec_hostBar2Write (part : Nat) (off : Dword) (data : List Byte) (s : State) : exec (.hostBar2Write part off data) s = execHostBar2Write part off data s := rfl
@[simp] theorem exec_hostAtomicop (part : Nat) (off : Dword) (op : HostAtomic) (wide : Bool) (x y : Dword) (s : State) : exec (.hostAtomicop part off op wide x y) s = execHostAtomicop part off op wide x y s := rfl
@[simp] theorem exec_sysTimeout (w k : Nat) (s : State) : exec (.sysTimeout w k) s = execSysTimeout w k s := rfl
@[simp] theorem exec_sysErrorResponse (w k : Nat) (s : State) : exec (.sysErrorResponse w k) s = execSysErrorResponse w k s := rfl
@[simp] theorem exec_partEnd (part : Nat) (s : State) : exec (.partEnd part) s = execPartEnd part s := rfl
@[simp] theorem exec_peerRequest (m : Nat) (o : Dword) (req : PeerReq) (s : State) : exec (.peerRequest m o req) s = execPeerRequest m o req s := rfl
@[simp] theorem exec_uetWrite (part region : Nat) (off : Dword) (data : List Byte) (s : State) : exec (.uetWrite part region off data) s = execUetWrite part region off data s := rfl
@[simp] theorem exec_ethFrame (f : Sys2Proof.Frame) (s : State) : exec (.ethFrame f) s = execEthFrame f s := rfl
@[simp] theorem exec_heldFrameLanding (port prio : Nat) (s : State) : exec (.heldFrameLanding port prio) s = execHeldFrameLanding port prio s := rfl
@[simp] theorem exec_netWriteFlow (v : Dword) (s : State) : exec (.netWriteFlow v) s = execNetWriteFlow v s := rfl
@[simp] theorem exec_netClearFlow (v : Dword) (s : State) : exec (.netClearFlow v) s = execNetClearFlow v s := rfl
@[simp] theorem exec_netWriteKey (v : Dword) (s : State) : exec (.netWriteKey v) s = execNetWriteKey v s := rfl
@[simp] theorem exec_netClearKey (v : Dword) (s : State) : exec (.netClearKey v) s = execNetClearKey v s := rfl
@[simp] theorem exec_netCmdDone (s : State) : exec .netCmdDone s = execNetCmdDone s := rfl
@[simp] theorem exec_spmLoadImage (o : Origin) (s : State) : exec (.spmLoadImage o) s = execSpmLoadImage o s := rfl
@[simp] theorem exec_spmAttest (o : Origin) (s : State) : exec (.spmAttest o) s = execSpmAttest o s := rfl
@[simp] theorem exec_spmServiceRequest (o : Origin) (kind : SvcKind) (s : State) : exec (.spmServiceRequest o kind) s = execSpmServiceRequest o kind s := rfl
@[simp] theorem exec_spmSvnCommit (o : Origin) (s : State) : exec (.spmSvnCommit o) s = execSpmSvnCommit o s := rfl
@[simp] theorem exec_spmWriteSecureReg (o : Origin) (s : State) : exec (.spmWriteSecureReg o) s = execSpmWriteSecureReg o s := rfl
@[simp] theorem exec_spareCoreSwap (core : Nat) (s : State) : exec (.spareCoreSwap core) s = execSpareCoreSwap core s := rfl
@[simp] theorem exec_coreFence (core : Nat) (s : State) : exec (.coreFence core) s = execCoreFence core s := rfl
@[simp] theorem exec_rowSparing (b : HbmBank) (row : Nat) (s : State) : exec (.rowSparing b row) s = execRowSparing b row s := rfl
@[simp] theorem exec_pchRetirement (stack pch : Nat) (s : State) : exec (.pchRetirement stack pch) s = execPchRetirement stack pch s := rfl
@[simp] theorem exec_hbmRecalibration (stack pch : Nat) (s : State) : exec (.hbmRecalibration stack pch) s = execHbmRecalibration stack pch s := rfl
@[simp] theorem exec_padFrameRecalibration (stack pf : Nat) (s : State) : exec (.padFrameRecalibration stack pf) s = execPadFrameRecalibration stack pf s := rfl
@[simp] theorem exec_plyLaneRetraining (port : Nat) (s : State) : exec (.plyLaneRetraining port) s = execPlyLaneRetraining port s := rfl
@[simp] theorem exec_d2dLaneRetraining (s : State) : exec .d2dLaneRetraining s = execD2dLaneRetraining s := rfl
@[simp] theorem exec_portLinkRecovery (unit : LinkUnit) (s : State) : exec (.portLinkRecovery unit) s = execPortLinkRecovery unit s := rfl
@[simp] theorem exec_firmwareActivation (target : BitVec 16) (s : State) : exec (.firmwareActivation target) s = execFirmwareActivation target s := rfl
@[simp] theorem exec_cgWorldWrite (die : Nat) (v : Dword) (s : State) : exec (.cgWorldWrite die v) s = execCgWorldWrite die v s := rfl
@[simp] theorem exec_secRangeWrite (n : Nat) (v : Dword) (s : State) : exec (.secRangeWrite n v) s = execSecRangeWrite n v s := rfl
@[simp] theorem exec_securityBoot (s : State) : exec .securityBoot s = execSecurityBoot s := rfl
@[simp] theorem exec_powerWindow (watts : Nat) (s : State) : exec (.powerWindow watts) s = execPowerWindow watts s := rfl
@[simp] theorem exec_thermalThrottle (die temp : Nat) (s : State) : exec (.thermalThrottle die temp) s = execThermalThrottle die temp s := rfl
@[simp] theorem exec_thermalTrip (die temp : Nat) (s : State) : exec (.thermalTrip die temp) s = execThermalTrip die temp s := rfl
@[simp] theorem exec_d3hotRequest (s : State) : exec .d3hotRequest s = execD3hotRequest s := rfl
@[simp] theorem exec_registerWrite (o : Origin) (r : RegName) (v : Dword) (s : State) : exec (.registerWrite o r v) s = execRegisterWrite o r v s := rfl
@[simp] theorem exec_switchTokenMove (stack slot : Nat) (mv : TokenMove) (s : State) : exec (.switchTokenMove stack slot mv) s = execSwitchTokenMove stack slot mv s := rfl
@[simp] theorem exec_accOutTranslationResume (cmd : Nat) (s : State) : exec (.accOutTranslationResume cmd) s = execAccOutTranslationResume cmd s := rfl
@[simp] theorem exec_serviceActionComplete (k : Nat) (s : State) : exec (.serviceActionComplete k) s = execServiceActionComplete k s := rfl
@[simp] theorem exec_uncorrectableError (w src : Nat) (s : State) : exec (.uncorrectableError w src) s = execUncorrectableError w src s := rfl
@[simp] theorem exec_powerLoss (s : State) : exec .powerLoss s = execPowerLoss s := rfl
@[simp] theorem exec_periodicRefresh (b : HbmBank) (s : State) : exec (.periodicRefresh b) s = execPeriodicRefresh b s := rfl

/-! ## All instructions of a wave -/

theorem body_intAdd {e : Enc} : ∃ body, ∀ s, exec (.intAdd e) s = simt (0x00#8).toNat e s body := ⟨_, fun s => show execIntAdd e s = _ from rfl⟩
theorem body_intSub {e : Enc} : ∃ body, ∀ s, exec (.intSub e) s = simt (0x01#8).toNat e s body := ⟨_, fun s => show execIntSub e s = _ from rfl⟩
theorem body_intMul {e : Enc} : ∃ body, ∀ s, exec (.intMul e) s = simt (0x02#8).toNat e s body := ⟨_, fun s => show execIntMul e s = _ from rfl⟩
theorem body_mulhi {e : Enc} : ∃ body, ∀ s, exec (.mulhi e) s = simt (0x03#8).toNat e s body := ⟨_, fun s => show execMulhi e s = _ from rfl⟩
theorem body_mad {e : Enc} : ∃ body, ∀ s, exec (.mad e) s = simt (0x04#8).toNat e s body := ⟨_, fun s => show execMad e s = _ from rfl⟩
theorem body_intMin {e : Enc} : ∃ body, ∀ s, exec (.intMin e) s = simt (0x05#8).toNat e s body := ⟨_, fun s => show execIntMin e s = _ from rfl⟩
theorem body_intMax {e : Enc} : ∃ body, ∀ s, exec (.intMax e) s = simt (0x06#8).toNat e s body := ⟨_, fun s => show execIntMax e s = _ from rfl⟩
theorem body_intAbs {e : Enc} : ∃ body, ∀ s, exec (.intAbs e) s = simt (0x07#8).toNat e s body := ⟨_, fun s => show execIntAbs e s = _ from rfl⟩
theorem body_intNeg {e : Enc} : ∃ body, ∀ s, exec (.intNeg e) s = simt (0x08#8).toNat e s body := ⟨_, fun s => show execIntNeg e s = _ from rfl⟩
theorem body_andOp {e : Enc} : ∃ body, ∀ s, exec (.andOp e) s = simt (0x09#8).toNat e s body := ⟨_, fun s => show execAndOp e s = _ from rfl⟩
theorem body_orOp {e : Enc} : ∃ body, ∀ s, exec (.orOp e) s = simt (0x0A#8).toNat e s body := ⟨_, fun s => show execOrOp e s = _ from rfl⟩
theorem body_xorOp {e : Enc} : ∃ body, ∀ s, exec (.xorOp e) s = simt (0x0B#8).toNat e s body := ⟨_, fun s => show execXorOp e s = _ from rfl⟩
theorem body_notOp {e : Enc} : ∃ body, ∀ s, exec (.notOp e) s = simt (0x0C#8).toNat e s body := ⟨_, fun s => show execNotOp e s = _ from rfl⟩
theorem body_shl {e : Enc} : ∃ body, ∀ s, exec (.shl e) s = simt (0x0D#8).toNat e s body := ⟨_, fun s => show execShl e s = _ from rfl⟩
theorem body_shr {e : Enc} : ∃ body, ∀ s, exec (.shr e) s = simt (0x0E#8).toNat e s body := ⟨_, fun s => show execShr e s = _ from rfl⟩
theorem body_rot {e : Enc} : ∃ body, ∀ s, exec (.rot e) s = simt (0x0F#8).toNat e s body := ⟨_, fun s => show execRot e s = _ from rfl⟩
theorem body_popc {e : Enc} : ∃ body, ∀ s, exec (.popc e) s = simt (0x10#8).toNat e s body := ⟨_, fun s => show execPopc e s = _ from rfl⟩
theorem body_clz {e : Enc} : ∃ body, ∀ s, exec (.clz e) s = simt (0x11#8).toNat e s body := ⟨_, fun s => show execClz e s = _ from rfl⟩
theorem body_ctz {e : Enc} : ∃ body, ∀ s, exec (.ctz e) s = simt (0x12#8).toNat e s body := ⟨_, fun s => show execCtz e s = _ from rfl⟩
theorem body_brev {e : Enc} : ∃ body, ∀ s, exec (.brev e) s = simt (0x13#8).toNat e s body := ⟨_, fun s => show execBrev e s = _ from rfl⟩
theorem body_bfe {e : Enc} : ∃ body, ∀ s, exec (.bfe e) s = simt (0x14#8).toNat e s body := ⟨_, fun s => show execBfe e s = _ from rfl⟩
theorem body_bfi {e : Enc} : ∃ body, ∀ s, exec (.bfi e) s = simt (0x15#8).toNat e s body := ⟨_, fun s => show execBfi e s = _ from rfl⟩
theorem body_sel {e : Enc} : ∃ body, ∀ s, exec (.sel e) s = simt (0x16#8).toNat e s body := ⟨_, fun s => show execSel e s = _ from rfl⟩
theorem body_mov {e : Enc} : ∃ body, ∀ s, exec (.mov e) s = simt (0x17#8).toNat e s body := ⟨_, fun s => show execMov e s = _ from rfl⟩
theorem body_intCmp {e : Enc} : ∃ body, ∀ s, exec (.intCmp e) s = simt (0x18#8).toNat e s body := ⟨_, fun s => show execIntCmp e s = _ from rfl⟩
theorem body_lea {e : Enc} : ∃ body, ∀ s, exec (.lea e) s = simt (0x19#8).toNat e s body := ⟨_, fun s => show execLea e s = _ from rfl⟩
theorem body_perm {e : Enc} : ∃ body, ∀ s, exec (.perm e) s = simt (0x1A#8).toNat e s body := ⟨_, fun s => show execPerm e s = _ from rfl⟩
theorem body_shf {e : Enc} : ∃ body, ∀ s, exec (.shf e) s = simt (0x1B#8).toNat e s body := ⟨_, fun s => show execShf e s = _ from rfl⟩
theorem body_fpAdd {e : Enc} : ∃ body, ∀ s, exec (.fpAdd e) s = simt (0x20#8).toNat e s body := ⟨_, fun s => show execFpAdd e s = _ from rfl⟩
theorem body_fpSub {e : Enc} : ∃ body, ∀ s, exec (.fpSub e) s = simt (0x21#8).toNat e s body := ⟨_, fun s => show execFpSub e s = _ from rfl⟩
theorem body_fpMul {e : Enc} : ∃ body, ∀ s, exec (.fpMul e) s = simt (0x22#8).toNat e s body := ⟨_, fun s => show execFpMul e s = _ from rfl⟩
theorem body_fma {e : Enc} : ∃ body, ∀ s, exec (.fma e) s = simt (0x23#8).toNat e s body := ⟨_, fun s => show execFma e s = _ from rfl⟩
theorem body_fpMin {e : Enc} : ∃ body, ∀ s, exec (.fpMin e) s = simt (0x24#8).toNat e s body := ⟨_, fun s => show execFpMin e s = _ from rfl⟩
theorem body_fpMax {e : Enc} : ∃ body, ∀ s, exec (.fpMax e) s = simt (0x25#8).toNat e s body := ⟨_, fun s => show execFpMax e s = _ from rfl⟩
theorem body_fpAbs {e : Enc} : ∃ body, ∀ s, exec (.fpAbs e) s = simt (0x26#8).toNat e s body := ⟨_, fun s => show execFpAbs e s = _ from rfl⟩
theorem body_fpNeg {e : Enc} : ∃ body, ∀ s, exec (.fpNeg e) s = simt (0x27#8).toNat e s body := ⟨_, fun s => show execFpNeg e s = _ from rfl⟩
theorem body_fpCmp {e : Enc} : ∃ body, ∀ s, exec (.fpCmp e) s = simt (0x28#8).toNat e s body := ⟨_, fun s => show execFpCmp e s = _ from rfl⟩
theorem body_classOp {e : Enc} : ∃ body, ∀ s, exec (.classOp e) s = simt (0x29#8).toNat e s body := ⟨_, fun s => show execClassOp e s = _ from rfl⟩
theorem body_rcp {e : Enc} : ∃ body, ∀ s, exec (.rcp e) s = simt (0x2A#8).toNat e s body := ⟨_, fun s => show execRcp e s = _ from rfl⟩
theorem body_rsq {e : Enc} : ∃ body, ∀ s, exec (.rsq e) s = simt (0x2B#8).toNat e s body := ⟨_, fun s => show execRsq e s = _ from rfl⟩
theorem body_sqe {e : Enc} : ∃ body, ∀ s, exec (.sqe e) s = simt (0x2C#8).toNat e s body := ⟨_, fun s => show execSqe e s = _ from rfl⟩
theorem body_exp2 {e : Enc} : ∃ body, ∀ s, exec (.exp2 e) s = simt (0x2D#8).toNat e s body := ⟨_, fun s => show execExp2 e s = _ from rfl⟩
theorem body_log2 {e : Enc} : ∃ body, ∀ s, exec (.log2 e) s = simt (0x2E#8).toNat e s body := ⟨_, fun s => show execLog2 e s = _ from rfl⟩
theorem body_rnd {e : Enc} : ∃ body, ∀ s, exec (.rnd e) s = simt (0x2F#8).toNat e s body := ⟨_, fun s => show execRnd e s = _ from rfl⟩
theorem body_cvt {e : Enc} : ∃ body, ∀ s, exec (.cvt e) s = simt (0x30#8).toNat e s body := ⟨_, fun s => show execCvt e s = _ from rfl⟩
theorem body_cvt2 {e : Enc} : ∃ body, ∀ s, exec (.cvt2 e) s = simt (0x31#8).toNat e s body := ⟨_, fun s => show execCvt2 e s = _ from rfl⟩
theorem body_pack {e : Enc} : ∃ body, ∀ s, exec (.pack e) s = simt (0x32#8).toNat e s body := ⟨_, fun s => show execPack e s = _ from rfl⟩
theorem body_unpk {e : Enc} : ∃ body, ∀ s, exec (.unpk e) s = simt (0x33#8).toNat e s body := ⟨_, fun s => show execUnpk e s = _ from rfl⟩
theorem body_dcd {e : Enc} : ∃ body, ∀ s, exec (.dcd e) s = simt (0x34#8).toNat e s body := ⟨_, fun s => show execDcd e s = _ from rfl⟩
theorem body_enc {e : Enc} : ∃ body, ∀ s, exec (.enc e) s = simt (0x35#8).toNat e s body := ⟨_, fun s => show execEnc e s = _ from rfl⟩
theorem body_sbx {e : Enc} : ∃ body, ∀ s, exec (.sbx e) s = simt (0x36#8).toNat e s body := ⟨_, fun s => show execSbx e s = _ from rfl⟩
theorem body_scl {e : Enc} : ∃ body, ∀ s, exec (.scl e) s = simt (0x37#8).toNat e s body := ⟨_, fun s => show execScl e s = _ from rfl⟩
theorem body_quadXor {e : Enc} : ∃ body, ∀ s, exec (.quadXor e) s = simt (0x40#8).toNat e s body := ⟨_, fun s => show execQuadXor e s = _ from rfl⟩
theorem body_quadBc {e : Enc} : ∃ body, ∀ s, exec (.quadBc e) s = simt (0x41#8).toNat e s body := ⟨_, fun s => show execQuadBc e s = _ from rfl⟩
theorem body_shflIdx {e : Enc} : ∃ body, ∀ s, exec (.shflIdx e) s = simt (0x42#8).toNat e s body := ⟨_, fun s => show execShflIdx e s = _ from rfl⟩
theorem body_shflUp {e : Enc} : ∃ body, ∀ s, exec (.shflUp e) s = simt (0x43#8).toNat e s body := ⟨_, fun s => show execShflUp e s = _ from rfl⟩
theorem body_shflDn {e : Enc} : ∃ body, ∀ s, exec (.shflDn e) s = simt (0x44#8).toNat e s body := ⟨_, fun s => show execShflDn e s = _ from rfl⟩
theorem body_shflXor {e : Enc} : ∃ body, ∀ s, exec (.shflXor e) s = simt (0x45#8).toNat e s body := ⟨_, fun s => show execShflXor e s = _ from rfl⟩
theorem body_wred {e : Enc} : ∃ body, ∀ s, exec (.wred e) s = simt (0x46#8).toNat e s body := ⟨_, fun s => show execWred e s = _ from rfl⟩
theorem body_wscan {e : Enc} : ∃ body, ∀ s, exec (.wscan e) s = simt (0x47#8).toNat e s body := ⟨_, fun s => show execWscan e s = _ from rfl⟩
theorem body_ballot {e : Enc} : ∃ body, ∀ s, exec (.ballot e) s = simt (0x48#8).toNat e s body := ⟨_, fun s => show execBallot e s = _ from rfl⟩
theorem body_kop {e : Enc} : ∃ body, ∀ s, exec (.kop e) s = simt (0x49#8).toNat e s body := ⟨_, fun s => show execKop e s = _ from rfl⟩
theorem body_kpopc {e : Enc} : ∃ body, ∀ s, exec (.kpopc e) s = simt (0x4A#8).toNat e s body := ⟨_, fun s => show execKpopc e s = _ from rfl⟩
theorem body_kffs {e : Enc} : ∃ body, ∀ s, exec (.kffs e) s = simt (0x4B#8).toNat e s body := ⟨_, fun s => show execKffs e s = _ from rfl⟩
theorem body_matchOp {e : Enc} : ∃ body, ∀ s, exec (.matchOp e) s = simt (0x4C#8).toNat e s body := ⟨_, fun s => show execMatchOp e s = _ from rfl⟩
theorem body_br {e : Enc} : ∃ body, ∀ s, exec (.br e) s = simt (0x50#8).toNat e s body := ⟨_, fun s => show execBr e s = _ from rfl⟩
theorem body_split {e : Enc} : ∃ body, ∀ s, exec (.split e) s = simt (0x51#8).toNat e s body := ⟨_, fun s => show execSplit e s = _ from rfl⟩
theorem body_join {e : Enc} : ∃ body, ∀ s, exec (.join e) s = simt (0x52#8).toNat e s body := ⟨_, fun s => show execJoin e s = _ from rfl⟩
theorem body_loop {e : Enc} : ∃ body, ∀ s, exec (.loop e) s = simt (0x53#8).toNat e s body := ⟨_, fun s => show execLoop e s = _ from rfl⟩
theorem body_call {e : Enc} : ∃ body, ∀ s, exec (.call e) s = simt (0x54#8).toNat e s body := ⟨_, fun s => show execCall e s = _ from rfl⟩
theorem body_ret {e : Enc} : ∃ body, ∀ s, exec (.ret e) s = simt (0x55#8).toNat e s body := ⟨_, fun s => show execRet e s = _ from rfl⟩
theorem body_jmp {e : Enc} : ∃ body, ∀ s, exec (.jmp e) s = simt (0x56#8).toNat e s body := ⟨_, fun s => show execJmp e s = _ from rfl⟩
theorem body_nop {e : Enc} : ∃ body, ∀ s, exec (.nop e) s = simt (0x57#8).toNat e s body := ⟨_, fun s => show execNop e s = _ from rfl⟩
theorem body_ldG {e : Enc} : ∃ body, ∀ s, exec (.ldG e) s = simt (0x60#8).toNat e s body := ⟨_, fun s => show execLdG e s = _ from rfl⟩
theorem body_stG {e : Enc} : ∃ body, ∀ s, exec (.stG e) s = simt (0x61#8).toNat e s body := ⟨_, fun s => show execStG e s = _ from rfl⟩
theorem body_ldS {e : Enc} : ∃ body, ∀ s, exec (.ldS e) s = simt (0x62#8).toNat e s body := ⟨_, fun s => show execLdS e s = _ from rfl⟩
theorem body_stS {e : Enc} : ∃ body, ∀ s, exec (.stS e) s = simt (0x63#8).toNat e s body := ⟨_, fun s => show execStS e s = _ from rfl⟩
theorem body_ldC {e : Enc} : ∃ body, ∀ s, exec (.ldC e) s = simt (0x64#8).toNat e s body := ⟨_, fun s => show execLdC e s = _ from rfl⟩
theorem body_tld {e : Enc} : ∃ body, ∀ s, exec (.tld e) s = simt (0x65#8).toNat e s body := ⟨_, fun s => show execTld e s = _ from rfl⟩
theorem body_gatG {e : Enc} : ∃ body, ∀ s, exec (.gatG e) s = simt (0x66#8).toNat e s body := ⟨_, fun s => show execGatG e s = _ from rfl⟩
theorem body_sctG {e : Enc} : ∃ body, ∀ s, exec (.sctG e) s = simt (0x67#8).toNat e s body := ⟨_, fun s => show execSctG e s = _ from rfl⟩
theorem body_gatS {e : Enc} : ∃ body, ∀ s, exec (.gatS e) s = simt (0x68#8).toNat e s body := ⟨_, fun s => show execGatS e s = _ from rfl⟩
theorem body_sctS {e : Enc} : ∃ body, ∀ s, exec (.sctS e) s = simt (0x69#8).toNat e s body := ⟨_, fun s => show execSctS e s = _ from rfl⟩
theorem body_pf {e : Enc} : ∃ body, ∀ s, exec (.pf e) s = simt (0x6A#8).toNat e s body := ⟨_, fun s => show execPf e s = _ from rfl⟩
theorem body_commit {e : Enc} : ∃ body, ∀ s, exec (.commit e) s = simt (0x70#8).toNat e s body := ⟨_, fun s => show execCommit e s = _ from rfl⟩
theorem body_commitX {e : Enc} : ∃ body, ∀ s, exec (.commitX e) s = simt (0x71#8).toNat e s body := ⟨_, fun s => show execCommitX e s = _ from rfl⟩
theorem body_abortOp {e : Enc} : ∃ body, ∀ s, exec (.abortOp e) s = simt (0x72#8).toNat e s body := ⟨_, fun s => show execAbortOp e s = _ from rfl⟩
theorem body_acq {e : Enc} : ∃ body, ∀ s, exec (.acq e) s = simt (0x73#8).toNat e s body := ⟨_, fun s => show execAcq e s = _ from rfl⟩
theorem body_barBlk {e : Enc} : ∃ body, ∀ s, exec (.barBlk e) s = simt (0x74#8).toNat e s body := ⟨_, fun s => show execBarBlk e s = _ from rfl⟩
theorem body_barArv {e : Enc} : ∃ body, ∀ s, exec (.barArv e) s = simt (0x75#8).toNat e s body := ⟨_, fun s => show execBarArv e s = _ from rfl⟩
theorem body_barWt {e : Enc} : ∃ body, ∀ s, exec (.barWt e) s = simt (0x76#8).toNat e s body := ⟨_, fun s => show execBarWt e s = _ from rfl⟩
theorem body_ownGive {e : Enc} : ∃ body, ∀ s, exec (.ownGive e) s = simt (0x77#8).toNat e s body := ⟨_, fun s => show execOwnGive e s = _ from rfl⟩
theorem body_ownTst {e : Enc} : ∃ body, ∀ s, exec (.ownTst e) s = simt (0x78#8).toNat e s body := ⟨_, fun s => show execOwnTst e s = _ from rfl⟩
theorem body_trapOp {e : Enc} : ∃ body, ∀ s, exec (.trapOp e) s = simt (0x80#8).toNat e s body := ⟨_, fun s => show execTrapOp e s = _ from rfl⟩
theorem body_rte {e : Enc} : ∃ body, ∀ s, exec (.rte e) s = simt (0x81#8).toNat e s body := ⟨_, fun s => show execRte e s = _ from rfl⟩
theorem body_yieldOp {e : Enc} : ∃ body, ∀ s, exec (.yieldOp e) s = simt (0x82#8).toNat e s body := ⟨_, fun s => show execYieldOp e s = _ from rfl⟩
theorem body_modeOp {e : Enc} : ∃ body, ∀ s, exec (.modeOp e) s = simt (0x83#8).toNat e s body := ⟨_, fun s => show execModeOp e s = _ from rfl⟩
theorem body_getm {e : Enc} : ∃ body, ∀ s, exec (.getm e) s = simt (0x84#8).toNat e s body := ⟨_, fun s => show execGetm e s = _ from rfl⟩
theorem body_rdpr {e : Enc} : ∃ body, ∀ s, exec (.rdpr e) s = simt (0x85#8).toNat e s body := ⟨_, fun s => show execRdpr e s = _ from rfl⟩
theorem body_wrpr {e : Enc} : ∃ body, ∀ s, exec (.wrpr e) s = simt (0x86#8).toNat e s body := ⟨_, fun s => show execWrpr e s = _ from rfl⟩
theorem body_bkpt {e : Enc} : ∃ body, ∀ s, exec (.bkpt e) s = simt (0x87#8).toNat e s body := ⟨_, fun s => show execBkpt e s = _ from rfl⟩
theorem body_sleep {e : Enc} : ∃ body, ∀ s, exec (.sleep e) s = simt (0x88#8).toNat e s body := ⟨_, fun s => show execSleep e s = _ from rfl⟩
theorem body_atomAdd {e : Enc} : ∃ body, ∀ s, exec (.atomAdd e) s = simt (0x90#8).toNat e s body := ⟨_, fun s => show atomic 0x90 e s = _ from rfl⟩
theorem body_atomMin {e : Enc} : ∃ body, ∀ s, exec (.atomMin e) s = simt (0x91#8).toNat e s body := ⟨_, fun s => show atomic 0x91 e s = _ from rfl⟩
theorem body_atomMax {e : Enc} : ∃ body, ∀ s, exec (.atomMax e) s = simt (0x92#8).toNat e s body := ⟨_, fun s => show atomic 0x92 e s = _ from rfl⟩
theorem body_atomAnd {e : Enc} : ∃ body, ∀ s, exec (.atomAnd e) s = simt (0x93#8).toNat e s body := ⟨_, fun s => show atomic 0x93 e s = _ from rfl⟩
theorem body_atomOr {e : Enc} : ∃ body, ∀ s, exec (.atomOr e) s = simt (0x94#8).toNat e s body := ⟨_, fun s => show atomic 0x94 e s = _ from rfl⟩
theorem body_atomXor {e : Enc} : ∃ body, ∀ s, exec (.atomXor e) s = simt (0x95#8).toNat e s body := ⟨_, fun s => show atomic 0x95 e s = _ from rfl⟩
theorem body_atomExch {e : Enc} : ∃ body, ∀ s, exec (.atomExch e) s = simt (0x96#8).toNat e s body := ⟨_, fun s => show atomic 0x96 e s = _ from rfl⟩
theorem body_atomCas {e : Enc} : ∃ body, ∀ s, exec (.atomCas e) s = simt (0x97#8).toNat e s body := ⟨_, fun s => show atomic 0x97 e s = _ from rfl⟩
theorem body_atomInc {e : Enc} : ∃ body, ∀ s, exec (.atomInc e) s = simt (0x98#8).toNat e s body := ⟨_, fun s => show atomic 0x98 e s = _ from rfl⟩
theorem body_barClus {e : Enc} : ∃ body, ∀ s, exec (.barClus e) s = simt (0x99#8).toNat e s body := ⟨_, fun s => show execBarClus e s = _ from rfl⟩
theorem body_barGrid {e : Enc} : ∃ body, ∀ s, exec (.barGrid e) s = simt (0x9A#8).toNat e s body := ⟨_, fun s => show execBarGrid e s = _ from rfl⟩
theorem body_mbarInit {e : Enc} : ∃ body, ∀ s, exec (.mbarInit e) s = simt (0x9B#8).toNat e s body := ⟨_, fun s => show execMbarInit e s = _ from rfl⟩
theorem body_mbarArv {e : Enc} : ∃ body, ∀ s, exec (.mbarArv e) s = simt (0x9C#8).toNat e s body := ⟨_, fun s => show execMbarArv e s = _ from rfl⟩
theorem body_mbarWait {e : Enc} : ∃ body, ∀ s, exec (.mbarWait e) s = simt (0x9D#8).toNat e s body := ⟨_, fun s => show execMbarWait e s = _ from rfl⟩
theorem body_blkGrow {e : Enc} : ∃ body, ∀ s, exec (.blkGrow e) s = simt (0xA0#8).toNat e s body := ⟨_, fun s => show execBlkGrow e s = _ from rfl⟩
theorem body_blkLeave {e : Enc} : ∃ body, ∀ s, exec (.blkLeave e) s = simt (0xA1#8).toNat e s body := ⟨_, fun s => show execBlkLeave e s = _ from rfl⟩
theorem body_role {e : Enc} : ∃ body, ∀ s, exec (.role e) s = simt (0xA2#8).toNat e s body := ⟨_, fun s => show execRole e s = _ from rfl⟩
theorem body_ctrg {e : Enc} : ∃ body, ∀ s, exec (.ctrg e) s = simt (0xA3#8).toNat e s body := ⟨_, fun s => show execCtrg e s = _ from rfl⟩
theorem body_isect {e : Enc} : ∃ body, ∀ s, exec (.isect e) s = simt (0xA4#8).toNat e s body := ⟨_, fun s => show execIsect e s = _ from rfl⟩
theorem body_taskSpawn {e : Enc} : ∃ body, ∀ s, exec (.taskSpawn e) s = simt (0xA5#8).toNat e s body := ⟨_, fun s => show execTaskSpawn e s = _ from rfl⟩
theorem body_taskJoin {e : Enc} : ∃ body, ∀ s, exec (.taskJoin e) s = simt (0xA6#8).toNat e s body := ⟨_, fun s => show execTaskJoin e s = _ from rfl⟩
theorem body_taskWait {e : Enc} : ∃ body, ∀ s, exec (.taskWait e) s = simt (0xA7#8).toNat e s body := ⟨_, fun s => show execTaskWait e s = _ from rfl⟩
theorem body_tset {e : Enc} : ∃ body, ∀ s, exec (.tset e) s = simt (0xB0#8).toNat e s body := ⟨_, fun s => show execTset e s = _ from rfl⟩
theorem body_tget {e : Enc} : ∃ body, ∀ s, exec (.tget e) s = simt (0xB1#8).toNat e s body := ⟨_, fun s => show execTget e s = _ from rfl⟩
theorem body_cpPush {e : Enc} : ∃ body, ∀ s, exec (.cpPush e) s = simt (0xB2#8).toNat e s body := ⟨_, fun s => show execCpPush e s = _ from rfl⟩
theorem body_cpClose {e : Enc} : ∃ body, ∀ s, exec (.cpClose e) s = simt (0xB3#8).toNat e s body := ⟨_, fun s => show execCpClose e s = _ from rfl⟩
theorem body_cpWait {e : Enc} : ∃ body, ∀ s, exec (.cpWait e) s = simt (0xB4#8).toNat e s body := ⟨_, fun s => show execCpWait e s = _ from rfl⟩
theorem body_ringSet {e : Enc} : ∃ body, ∀ s, exec (.ringSet e) s = simt (0xB5#8).toNat e s body := ⟨_, fun s => show execRingSet e s = _ from rfl⟩
theorem body_ringAdv {e : Enc} : ∃ body, ∀ s, exec (.ringAdv e) s = simt (0xB6#8).toNat e s body := ⟨_, fun s => show execRingAdv e s = _ from rfl⟩
theorem body_ringRd {e : Enc} : ∃ body, ∀ s, exec (.ringRd e) s = simt (0xB7#8).toNat e s body := ⟨_, fun s => show execRingRd e s = _ from rfl⟩
theorem body_mxRow {e : Enc} : ∃ body, ∀ s, exec (.mxRow e) s = simt (0xB8#8).toNat e s body := ⟨_, fun s => show execMxRow e s = _ from rfl⟩
theorem body_mxLdb {e : Enc} : ∃ body, ∀ s, exec (.mxLdb e) s = simt (0xB9#8).toNat e s body := ⟨_, fun s => show execMxLdb e s = _ from rfl⟩
theorem body_mxResume {e : Enc} : ∃ body, ∀ s, exec (.mxResume e) s = simt (0xBA#8).toNat e s body := ⟨_, fun s => show execMxResume e s = _ from rfl⟩
theorem body_mxProg {e : Enc} : ∃ body, ∀ s, exec (.mxProg e) s = simt (0xBB#8).toNat e s body := ⟨_, fun s => show execMxProg e s = _ from rfl⟩
theorem body_accRd {e : Enc} : ∃ body, ∀ s, exec (.accRd e) s = simt (0xBC#8).toNat e s body := ⟨_, fun s => show execAccRd e s = _ from rfl⟩
theorem body_accWr {e : Enc} : ∃ body, ∀ s, exec (.accWr e) s = simt (0xBD#8).toNat e s body := ⟨_, fun s => show execAccWr e s = _ from rfl⟩
theorem body_accClr {e : Enc} : ∃ body, ∀ s, exec (.accClr e) s = simt (0xBE#8).toNat e s body := ⟨_, fun s => show execAccClr e s = _ from rfl⟩
theorem body_accOut {e : Enc} : ∃ body, ∀ s, exec (.accOut e) s = simt (0xBF#8).toNat e s body := ⟨_, fun s => show execAccOut e s = _ from rfl⟩
theorem body_sdaRun {e : Enc} : ∃ body, ∀ s, exec (.sdaRun e) s = simt (0xC0#8).toNat e s body := ⟨_, fun s => show execSdaRun e s = _ from rfl⟩
theorem body_sdaStop {e : Enc} : ∃ body, ∀ s, exec (.sdaStop e) s = simt (0xC1#8).toNat e s body := ⟨_, fun s => show execSdaStop e s = _ from rfl⟩
theorem body_sdaStat {e : Enc} : ∃ body, ∀ s, exec (.sdaStat e) s = simt (0xC2#8).toNat e s body := ⟨_, fun s => show execSdaStat e s = _ from rfl⟩
theorem body_sdaLd {e : Enc} : ∃ body, ∀ s, exec (.sdaLd e) s = simt (0xC3#8).toNat e s body := ⟨_, fun s => show execSdaLd e s = _ from rfl⟩
theorem body_gkHf {e : Enc} : ∃ body, ∀ s, exec (.gkHf e) s = simt (0xD0#8).toNat e s body := ⟨_, fun s => show execGkHf e s = _ from rfl⟩
theorem body_gkTbl {e : Enc} : ∃ body, ∀ s, exec (.gkTbl e) s = simt (0xD1#8).toNat e s body := ⟨_, fun s => show execGkTbl e s = _ from rfl⟩
theorem body_gkIns {e : Enc} : ∃ body, ∀ s, exec (.gkIns e) s = simt (0xD2#8).toNat e s body := ⟨_, fun s => show execGkIns e s = _ from rfl⟩
theorem body_gkDel {e : Enc} : ∃ body, ∀ s, exec (.gkDel e) s = simt (0xD3#8).toNat e s body := ⟨_, fun s => show execGkDel e s = _ from rfl⟩
theorem body_gkProbe {e : Enc} : ∃ body, ∀ s, exec (.gkProbe e) s = simt (0xD4#8).toNat e s body := ⟨_, fun s => show execGkProbe e s = _ from rfl⟩
theorem body_gkRehash {e : Enc} : ∃ body, ∀ s, exec (.gkRehash e) s = simt (0xD5#8).toNat e s body := ⟨_, fun s => show execGkRehash e s = _ from rfl⟩
theorem body_gkEval {e : Enc} : ∃ body, ∀ s, exec (.gkEval e) s = simt (0xD6#8).toNat e s body := ⟨_, fun s => show execGkEval e s = _ from rfl⟩
theorem body_gkSeq {e : Enc} : ∃ body, ∀ s, exec (.gkSeq e) s = simt (0xD7#8).toNat e s body := ⟨_, fun s => show execGkSeq e s = _ from rfl⟩
theorem body_gkStat {e : Enc} : ∃ body, ∀ s, exec (.gkStat e) s = simt (0xD8#8).toNat e s body := ⟨_, fun s => show execGkStat e s = _ from rfl⟩
theorem body_topkIns {e : Enc} : ∃ body, ∀ s, exec (.topkIns e) s = simt (0xD9#8).toNat e s body := ⟨_, fun s => show execTopkIns e s = _ from rfl⟩
theorem body_topkMrg {e : Enc} : ∃ body, ∀ s, exec (.topkMrg e) s = simt (0xDA#8).toNat e s body := ⟨_, fun s => show execTopkMrg e s = _ from rfl⟩
theorem body_topkRd {e : Enc} : ∃ body, ∀ s, exec (.topkRd e) s = simt (0xDB#8).toNat e s body := ⟨_, fun s => show execTopkRd e s = _ from rfl⟩
theorem body_topkClr {e : Enc} : ∃ body, ∀ s, exec (.topkClr e) s = simt (0xDC#8).toNat e s body := ⟨_, fun s => show execTopkClr e s = _ from rfl⟩
theorem body_topkSum {e : Enc} : ∃ body, ∀ s, exec (.topkSum e) s = simt (0xDD#8).toNat e s body := ⟨_, fun s => show execTopkSum e s = _ from rfl⟩

theorem simt_of {i : Instr} {op op' : BitVec 8} {e e' : Enc} (hc : i.code = some (op', e'))
    (hb : ∃ body, ∀ s, exec i s = simt op'.toNat e' s body) (h : i.code = some (op, e)) :
    ∃ body, ∀ s, exec i s = simt op.toNat e s body := by
  cases hc.symm.trans h; exact hb

/-- Every instruction of a wave is a body run by `simt`. -/
theorem exec_simt {i : Instr} {op : BitVec 8} {e : Enc} (h : i.code = some (op, e)) :
    ∃ body, ∀ s, exec i s = simt op.toNat e s body := by
  cases i with
  | intAdd e => exact simt_of rfl body_intAdd h
  | intSub e => exact simt_of rfl body_intSub h
  | intMul e => exact simt_of rfl body_intMul h
  | mulhi e => exact simt_of rfl body_mulhi h
  | mad e => exact simt_of rfl body_mad h
  | intMin e => exact simt_of rfl body_intMin h
  | intMax e => exact simt_of rfl body_intMax h
  | intAbs e => exact simt_of rfl body_intAbs h
  | intNeg e => exact simt_of rfl body_intNeg h
  | andOp e => exact simt_of rfl body_andOp h
  | orOp e => exact simt_of rfl body_orOp h
  | xorOp e => exact simt_of rfl body_xorOp h
  | notOp e => exact simt_of rfl body_notOp h
  | shl e => exact simt_of rfl body_shl h
  | shr e => exact simt_of rfl body_shr h
  | rot e => exact simt_of rfl body_rot h
  | popc e => exact simt_of rfl body_popc h
  | clz e => exact simt_of rfl body_clz h
  | ctz e => exact simt_of rfl body_ctz h
  | brev e => exact simt_of rfl body_brev h
  | bfe e => exact simt_of rfl body_bfe h
  | bfi e => exact simt_of rfl body_bfi h
  | sel e => exact simt_of rfl body_sel h
  | mov e => exact simt_of rfl body_mov h
  | intCmp e => exact simt_of rfl body_intCmp h
  | lea e => exact simt_of rfl body_lea h
  | perm e => exact simt_of rfl body_perm h
  | shf e => exact simt_of rfl body_shf h
  | fpAdd e => exact simt_of rfl body_fpAdd h
  | fpSub e => exact simt_of rfl body_fpSub h
  | fpMul e => exact simt_of rfl body_fpMul h
  | fma e => exact simt_of rfl body_fma h
  | fpMin e => exact simt_of rfl body_fpMin h
  | fpMax e => exact simt_of rfl body_fpMax h
  | fpAbs e => exact simt_of rfl body_fpAbs h
  | fpNeg e => exact simt_of rfl body_fpNeg h
  | fpCmp e => exact simt_of rfl body_fpCmp h
  | classOp e => exact simt_of rfl body_classOp h
  | rcp e => exact simt_of rfl body_rcp h
  | rsq e => exact simt_of rfl body_rsq h
  | sqe e => exact simt_of rfl body_sqe h
  | exp2 e => exact simt_of rfl body_exp2 h
  | log2 e => exact simt_of rfl body_log2 h
  | rnd e => exact simt_of rfl body_rnd h
  | cvt e => exact simt_of rfl body_cvt h
  | cvt2 e => exact simt_of rfl body_cvt2 h
  | pack e => exact simt_of rfl body_pack h
  | unpk e => exact simt_of rfl body_unpk h
  | dcd e => exact simt_of rfl body_dcd h
  | enc e => exact simt_of rfl body_enc h
  | sbx e => exact simt_of rfl body_sbx h
  | scl e => exact simt_of rfl body_scl h
  | quadXor e => exact simt_of rfl body_quadXor h
  | quadBc e => exact simt_of rfl body_quadBc h
  | shflIdx e => exact simt_of rfl body_shflIdx h
  | shflUp e => exact simt_of rfl body_shflUp h
  | shflDn e => exact simt_of rfl body_shflDn h
  | shflXor e => exact simt_of rfl body_shflXor h
  | wred e => exact simt_of rfl body_wred h
  | wscan e => exact simt_of rfl body_wscan h
  | ballot e => exact simt_of rfl body_ballot h
  | kop e => exact simt_of rfl body_kop h
  | kpopc e => exact simt_of rfl body_kpopc h
  | kffs e => exact simt_of rfl body_kffs h
  | matchOp e => exact simt_of rfl body_matchOp h
  | br e => exact simt_of rfl body_br h
  | split e => exact simt_of rfl body_split h
  | join e => exact simt_of rfl body_join h
  | loop e => exact simt_of rfl body_loop h
  | call e => exact simt_of rfl body_call h
  | ret e => exact simt_of rfl body_ret h
  | jmp e => exact simt_of rfl body_jmp h
  | nop e => exact simt_of rfl body_nop h
  | ldG e => exact simt_of rfl body_ldG h
  | stG e => exact simt_of rfl body_stG h
  | ldS e => exact simt_of rfl body_ldS h
  | stS e => exact simt_of rfl body_stS h
  | ldC e => exact simt_of rfl body_ldC h
  | tld e => exact simt_of rfl body_tld h
  | gatG e => exact simt_of rfl body_gatG h
  | sctG e => exact simt_of rfl body_sctG h
  | gatS e => exact simt_of rfl body_gatS h
  | sctS e => exact simt_of rfl body_sctS h
  | pf e => exact simt_of rfl body_pf h
  | commit e => exact simt_of rfl body_commit h
  | commitX e => exact simt_of rfl body_commitX h
  | abortOp e => exact simt_of rfl body_abortOp h
  | acq e => exact simt_of rfl body_acq h
  | barBlk e => exact simt_of rfl body_barBlk h
  | barArv e => exact simt_of rfl body_barArv h
  | barWt e => exact simt_of rfl body_barWt h
  | ownGive e => exact simt_of rfl body_ownGive h
  | ownTst e => exact simt_of rfl body_ownTst h
  | trapOp e => exact simt_of rfl body_trapOp h
  | rte e => exact simt_of rfl body_rte h
  | yieldOp e => exact simt_of rfl body_yieldOp h
  | modeOp e => exact simt_of rfl body_modeOp h
  | getm e => exact simt_of rfl body_getm h
  | rdpr e => exact simt_of rfl body_rdpr h
  | wrpr e => exact simt_of rfl body_wrpr h
  | bkpt e => exact simt_of rfl body_bkpt h
  | sleep e => exact simt_of rfl body_sleep h
  | atomAdd e => exact simt_of rfl body_atomAdd h
  | atomMin e => exact simt_of rfl body_atomMin h
  | atomMax e => exact simt_of rfl body_atomMax h
  | atomAnd e => exact simt_of rfl body_atomAnd h
  | atomOr e => exact simt_of rfl body_atomOr h
  | atomXor e => exact simt_of rfl body_atomXor h
  | atomExch e => exact simt_of rfl body_atomExch h
  | atomCas e => exact simt_of rfl body_atomCas h
  | atomInc e => exact simt_of rfl body_atomInc h
  | barClus e => exact simt_of rfl body_barClus h
  | barGrid e => exact simt_of rfl body_barGrid h
  | mbarInit e => exact simt_of rfl body_mbarInit h
  | mbarArv e => exact simt_of rfl body_mbarArv h
  | mbarWait e => exact simt_of rfl body_mbarWait h
  | blkGrow e => exact simt_of rfl body_blkGrow h
  | blkLeave e => exact simt_of rfl body_blkLeave h
  | role e => exact simt_of rfl body_role h
  | ctrg e => exact simt_of rfl body_ctrg h
  | isect e => exact simt_of rfl body_isect h
  | taskSpawn e => exact simt_of rfl body_taskSpawn h
  | taskJoin e => exact simt_of rfl body_taskJoin h
  | taskWait e => exact simt_of rfl body_taskWait h
  | tset e => exact simt_of rfl body_tset h
  | tget e => exact simt_of rfl body_tget h
  | cpPush e => exact simt_of rfl body_cpPush h
  | cpClose e => exact simt_of rfl body_cpClose h
  | cpWait e => exact simt_of rfl body_cpWait h
  | ringSet e => exact simt_of rfl body_ringSet h
  | ringAdv e => exact simt_of rfl body_ringAdv h
  | ringRd e => exact simt_of rfl body_ringRd h
  | mxRow e => exact simt_of rfl body_mxRow h
  | mxLdb e => exact simt_of rfl body_mxLdb h
  | mxResume e => exact simt_of rfl body_mxResume h
  | mxProg e => exact simt_of rfl body_mxProg h
  | accRd e => exact simt_of rfl body_accRd h
  | accWr e => exact simt_of rfl body_accWr h
  | accClr e => exact simt_of rfl body_accClr h
  | accOut e => exact simt_of rfl body_accOut h
  | sdaRun e => exact simt_of rfl body_sdaRun h
  | sdaStop e => exact simt_of rfl body_sdaStop h
  | sdaStat e => exact simt_of rfl body_sdaStat h
  | sdaLd e => exact simt_of rfl body_sdaLd h
  | gkHf e => exact simt_of rfl body_gkHf h
  | gkTbl e => exact simt_of rfl body_gkTbl h
  | gkIns e => exact simt_of rfl body_gkIns h
  | gkDel e => exact simt_of rfl body_gkDel h
  | gkProbe e => exact simt_of rfl body_gkProbe h
  | gkRehash e => exact simt_of rfl body_gkRehash h
  | gkEval e => exact simt_of rfl body_gkEval h
  | gkSeq e => exact simt_of rfl body_gkSeq h
  | gkStat e => exact simt_of rfl body_gkStat h
  | topkIns e => exact simt_of rfl body_topkIns h
  | topkMrg e => exact simt_of rfl body_topkMrg h
  | topkRd e => exact simt_of rfl body_topkRd h
  | topkClr e => exact simt_of rfl body_topkClr h
  | topkSum e => exact simt_of rfl body_topkSum h
  | asyncCauseTaken _ => exact nomatch h
  | loadDataReturn _ _ _ => exact nomatch h
  | ackArrival _ _ => exact nomatch h
  | crossDiePublish _ => exact nomatch h
  | launchPacket _ _ => exact nomatch h
  | taskDecrement _ => exact nomatch h
  | sliceExpiry _ => exact nomatch h
  | ageingExpiry _ => exact nomatch h
  | preemptDeadlineExpiry _ => exact nomatch h
  | blockSave _ => exact nomatch h
  | blockRestore _ => exact nomatch h
  | partitionSwap _ => exact nomatch h
  | partitionSwapIn _ => exact nomatch h
  | sleepExpiry _ => exact nomatch h
  | watchdogExpiry _ => exact nomatch h
  | profilerSample _ _ => exact nomatch h
  | tadpoleCheckpoint _ => exact nomatch h
  | tadCmdCkpt _ _ => exact nomatch h
  | tadpoleReplay _ => exact nomatch h
  | dbgHalt _ _ => exact nomatch h
  | tlbInvalidate _ _ => exact nomatch h
  | tlbInvComplete _ => exact nomatch h
  | qerrWrite _ _ => exact nomatch h
  | cqerrWrite _ _ => exact nomatch h
  | copyPacket _ _ => exact nomatch h
  | copyFaultResume _ => exact nomatch h
  | copyPacketComplete _ => exact nomatch h
  | mxKstep _ => exact nomatch h
  | accOutPerform _ => exact nomatch h
  | regionPlacement _ _ => exact nomatch h
  | peFiring _ _ _ _ => exact nomatch h
  | streamInputToken _ _ _ => exact nomatch h
  | streamOutputWrite _ _ _ => exact nomatch h
  | updateApply _ _ _ => exact nomatch h
  | gatewayReject _ _ _ _ => exact nomatch h
  | configComplete _ _ => exact nomatch h
  | drainRequest _ _ => exact nomatch h
  | regionQuiescence _ _ => exact nomatch h
  | regionRestore _ _ => exact nomatch h
  | compactionMove _ _ => exact nomatch h
  | aclkWindow _ _ _ _ _ => exact nomatch h
  | arrAssignWrite _ _ _ => exact nomatch h
  | cfgcInvAddr _ _ => exact nomatch h
  | cfgcInvAll _ _ => exact nomatch h
  | gkStepPerform _ _ => exact nomatch h
  | gkReadPerform _ _ => exact nomatch h
  | gkAssignWrite _ _ => exact nomatch h
  | hbmRead _ _ _ _ => exact nomatch h
  | hbmWrite _ _ _ _ => exact nomatch h
  | idlePrecharge _ => exact nomatch h
  | refreshManagement _ => exact nomatch h
  | ctAdd _ _ => exact nomatch h
  | ctRelease _ => exact nomatch h
  | ctSetRetain _ => exact nomatch h
  | ctClearRetain _ => exact nomatch h
  | ctCmdDone => exact nomatch h
  | ckptStart _ => exact nomatch h
  | ckptRestore _ => exact nomatch h
  | ckptComplete _ => exact nomatch h
  | hostBar2Read _ _ _ => exact nomatch h
  | hostBar2Write _ _ _ => exact nomatch h
  | hostAtomicop _ _ _ _ _ _ => exact nomatch h
  | sysTimeout _ _ => exact nomatch h
  | sysErrorResponse _ _ => exact nomatch h
  | partEnd _ => exact nomatch h
  | peerRequest _ _ _ => exact nomatch h
  | uetWrite _ _ _ _ => exact nomatch h
  | ethFrame _ => exact nomatch h
  | heldFrameLanding _ _ => exact nomatch h
  | netWriteFlow _ => exact nomatch h
  | netClearFlow _ => exact nomatch h
  | netWriteKey _ => exact nomatch h
  | netClearKey _ => exact nomatch h
  | netCmdDone => exact nomatch h
  | spmLoadImage _ => exact nomatch h
  | spmAttest _ => exact nomatch h
  | spmServiceRequest _ _ => exact nomatch h
  | spmSvnCommit _ => exact nomatch h
  | spmWriteSecureReg _ => exact nomatch h
  | spareCoreSwap _ => exact nomatch h
  | coreFence _ => exact nomatch h
  | rowSparing _ _ => exact nomatch h
  | pchRetirement _ _ => exact nomatch h
  | hbmRecalibration _ _ => exact nomatch h
  | padFrameRecalibration _ _ => exact nomatch h
  | plyLaneRetraining _ => exact nomatch h
  | d2dLaneRetraining => exact nomatch h
  | portLinkRecovery _ => exact nomatch h
  | firmwareActivation _ => exact nomatch h
  | cgWorldWrite _ _ => exact nomatch h
  | secRangeWrite _ _ => exact nomatch h
  | securityBoot => exact nomatch h
  | powerWindow _ => exact nomatch h
  | thermalThrottle _ _ => exact nomatch h
  | thermalTrip _ _ => exact nomatch h
  | d3hotRequest => exact nomatch h
  | registerWrite _ _ _ => exact nomatch h
  | switchTokenMove _ _ _ => exact nomatch h
  | accOutTranslationResume _ => exact nomatch h
  | serviceActionComplete _ => exact nomatch h
  | uncorrectableError _ _ => exact nomatch h
  | powerLoss => exact nomatch h
  | periodicRefresh _ => exact nomatch h

theorem issued_e {op : Nat} {e : Enc} {s : State} {c : Cx} (h : Issued op e s c) : c.e = e := by
  obtain ⟨_, _, _, _, _, _, _, _, _, _, _, _, _, _, rfl⟩ := h; rfl

/-- What an instruction does follows from what its body answers. -/
theorem performs_of {i : Instr} {op : BitVec 8} {e : Enc} {f : Cx → State} {body : Cx → Res} (hc : i.code = some (op, e))
    (hx : ∀ s, exec i s = simt op.toNat e s body) (hb : ∀ c, c.e = e → body c = .done (f c)) : Performs i f := by
  intro op' e' s c h h'
  cases hc.symm.trans h
  rw [hx, simt_done h' (hb c (issued_e h'))]

theorem ends_of {i : Instr} {op : BitVec 8} {e : Enc} {p : Cx → Prop} {f body : Cx → Res} (hc : i.code = some (op, e))
    (hx : ∀ s, exec i s = simt op.toNat e s body) (hb : ∀ c, c.e = e → p c → body c = f c) : Ends i p f := by
  intro op' e' s c h h' hp
  cases hc.symm.trans h
  rw [hx, simt_issued h', hb c (issued_e h') hp]

end Sys2Proof.Machine
end

