-- ==== Sys2Proof/Laws/Hbm.lean ====
section
/-! SUPPORT. Where lines of HBM lie (R374): with no page's place given, lines and data columns are one to one. -/

namespace Sys2Proof.Machine

open Sys2Proof

/-- Every number of a stack names a data column of it (R374). -/
theorem columnNumber_ok {k n : Nat} (hk : k < 12) (hn : n < stackColumns) : coordOk (columnNumber k n) = true := by
  simp only [stackColumns] at hn
  simp only [coordOk, bankOk, Bool.and_eq_true, decide_eq_true_eq]
  simp only [columnNumber]
  refine ⟨⟨⟨⟨hk, ?_⟩, ?_⟩, ?_⟩, ?_⟩ <;> omega
/-- A data column's number is the one that names it. -/
theorem columnIndex_columnNumber (k n : Nat) : columnIndex (columnNumber k n) = n := by
  simp only [columnIndex, columnNumber]; omega
/-- A data column is the one that its number names. -/
theorem columnNumber_columnIndex {c : HbmCoord} (h : coordOk c = true) : columnNumber c.bank.stack (columnIndex c) = c := by
  obtain ⟨⟨k, p, b⟩, r, l⟩ := c
  simp only [coordOk, bankOk, Bool.and_eq_true, decide_eq_true_eq] at h
  obtain ⟨⟨⟨⟨h1, h2⟩, h3⟩, h4⟩, h5⟩ := h
  simp only [columnIndex, columnNumber, HbmCoord.mk.injEq, HbmBank.mk.injEq]
  refine ⟨⟨trivial, ?_, ?_⟩, ?_, ?_⟩ <;> omega
/-- A data column's number is one of its stack's. -/
theorem columnIndex_lt {c : HbmCoord} (h : coordOk c = true) : columnIndex c < stackColumns := by
  obtain ⟨⟨k, p, b⟩, r, l⟩ := c
  simp [coordOk, bankOk] at h
  simp only [columnIndex, stackColumns]; omega
/-- The interleave stays in its stack. -/
theorem interleave_lt {x : Nat} (h : x < stackColumns) : interleave x < stackColumns := by
  simp only [interleave, dif_pos h]; exact Fin.isLt _
/-- The interleave loses no line. -/
theorem uninterleave_interleave {x : Nat} (h : x < stackColumns) : uninterleave (interleave x) = x := by
  have h2 := interleave_lt h
  simp only [uninterleave, dif_pos h2]
  simp [interleave, h]
/-- The interleave's reverse stays in its stack. -/
theorem uninterleave_lt {x : Nat} (h : x < stackColumns) : uninterleave x < stackColumns := by
  simp only [uninterleave, dif_pos h]; exact Fin.isLt _
/-- The interleave reaches every data column. -/
theorem interleave_uninterleave {x : Nat} (h : x < stackColumns) : interleave (uninterleave x) = x := by
  have h2 := uninterleave_lt h
  simp only [interleave, dif_pos h2]
  simp [uninterleave, h]
/-- With no page's place given, the open places are one to one. -/
theorem pageAt_pagePlace {m : Mem} (hm : m.homeMap = []) {p : Nat} (h : p < 11796480) : m.pagePlace p < 11796480 ∧ m.pageAt (m.pagePlace p) = p := by
  have h1 : m.pagePlace p = (Config.pagePlace ⟨p, h⟩).val := by simp [Mem.pagePlace, hm, passPlace, openPlace, h]
  rw [h1]
  refine ⟨Fin.isLt _, ?_⟩
  simp [Mem.pageAt, hm, backPlace, openPage]
/-- With no page's place given, every place holds a page. -/
theorem pagePlace_pageAt {m : Mem} (hm : m.homeMap = []) {p : Nat} (h : p < 11796480) : m.pageAt p < 11796480 ∧ m.pagePlace (m.pageAt p) = p := by
  have h1 : m.pageAt p = (Config.pagePlace.symm ⟨p, h⟩).val := by simp [Mem.pageAt, hm, backPlace, openPage, h]
  rw [h1]
  refine ⟨Fin.isLt _, ?_⟩
  simp [Mem.pagePlace, hm, passPlace, openPlace]
/-- Every line of the usable HBM lies in one data column, and no two lines in the same (R374). -/
theorem lineOf_coordOf {m : Mem} (hm : m.homeMap = []) {l : Nat} (h : 64 * l < hbmBytes) :
    coordOk (m.coordOf l) = true ∧ m.lineOf (m.coordOf l) = l := by
  simp only [hbmBytes] at h
  obtain ⟨h1, h2⟩ := pageAt_pagePlace hm (p := l / 1024) (by omega)
  have h3 : m.linePlace l < 12 * stackColumns := by simp only [Mem.linePlace, stackColumns]; omega
  have h4 : m.linePlace l % stackColumns < stackColumns := Nat.mod_lt _ (by decide)
  have h5 : m.linePlace l / stackColumns < 12 := Nat.div_lt_of_lt_mul (by omega)
  refine ⟨columnNumber_ok h5 (interleave_lt h4), ?_⟩
  have h6 : (m.coordOf l).bank.stack = m.linePlace l / stackColumns := rfl
  simp only [Mem.lineOf, h6]
  simp only [Mem.coordOf, columnIndex_columnNumber, uninterleave_interleave h4]
  rw [Nat.mul_comm, Nat.div_add_mod]
  have h7 : m.linePlace l / 1024 = m.pagePlace (l / 1024) := by simp only [Mem.linePlace]; omega
  have h8 : m.linePlace l % 1024 = l % 1024 := by simp only [Mem.linePlace]; omega
  simp only [Mem.lineAt, h7, h8, h2]; omega
/-- Every data column holds one line of the usable HBM (R374). -/
theorem coordOf_lineOf {m : Mem} (hm : m.homeMap = []) {c : HbmCoord} (h : coordOk c = true) :
    64 * m.lineOf c < hbmBytes ∧ m.coordOf (m.lineOf c) = c := by
  have hi := columnIndex_lt h
  have hu := uninterleave_lt hi
  have hk : c.bank.stack < 12 := by simp [coordOk, bankOk] at h; omega
  generalize hx : c.bank.stack * stackColumns + uninterleave (columnIndex c) = x
  have hx2 : x < 12 * stackColumns := by subst hx; simp only [stackColumns] at *; omega
  obtain ⟨h1, h2⟩ := pagePlace_pageAt hm (p := x / 1024) (by simp only [stackColumns] at hx2; omega)
  have h3 : m.lineOf c = m.pageAt (x / 1024) * 1024 + x % 1024 := by simp only [Mem.lineOf, hx, Mem.lineAt]
  have h4 : m.linePlace (m.lineOf c) = x := by
    have h5 : m.lineOf c / 1024 = m.pageAt (x / 1024) := by omega
    have h6 : m.lineOf c % 1024 = x % 1024 := by omega
    simp only [Mem.linePlace, h5, h6, h2]; omega
  refine ⟨by simp only [hbmBytes]; omega, ?_⟩
  have h7 : x / stackColumns = c.bank.stack := by
    rw [← hx, Nat.mul_comm, Nat.mul_add_div (by decide), Nat.div_eq_of_lt hu]; rfl
  have h8 : x % stackColumns = uninterleave (columnIndex c) := by
    rw [← hx, Nat.mul_comm, Nat.mul_add_mod, Nat.mod_eq_of_lt hu]
  simp only [Mem.coordOf, h4, h7, h8, interleave_uninterleave hi, columnNumber_columnIndex h]

end Sys2Proof.Machine
end

