-- ==== Sys2Proof/Laws/PerInstr.lean ====
section
/-! SUPPORT. The family `Encoding`, stated per instruction: an instruction's opcode and fields are read back as that instruction,
so that no two constructors share an opcode; an event has none. -/

namespace Sys2Proof.Laws.Encoding

open Sys2Proof

/-- The opcode and fields of an instruction (R101) read back as it. -/
def Statement (i : Instr) : Prop := ∀ (op : BitVec 8) (e : Enc), i.code = some (op, e) → Instr.ofCode op e = some i

/-- An event has no word. -/
theorem of_event {i : Instr} (h : i.code = none) : Statement i := fun op e hc => by simp [h] at hc
/-- An instruction whose opcode is known. -/
theorem of_word {i : Instr} {op : BitVec 8} {e : Enc} (h : i.code = some (op, e)) (hb : Instr.ofCode op e = some i) : Statement i := by
  intro op' e' hc
  cases h.symm.trans hc
  exact hb

theorem intAdd (e : Enc) : Statement (.intAdd e) := of_word rfl rfl
theorem intSub (e : Enc) : Statement (.intSub e) := of_word rfl rfl
theorem intMul (e : Enc) : Statement (.intMul e) := of_word rfl rfl
theorem mulhi (e : Enc) : Statement (.mulhi e) := of_word rfl rfl
theorem mad (e : Enc) : Statement (.mad e) := of_word rfl rfl
theorem intMin (e : Enc) : Statement (.intMin e) := of_word rfl rfl
theorem intMax (e : Enc) : Statement (.intMax e) := of_word rfl rfl
theorem intAbs (e : Enc) : Statement (.intAbs e) := of_word rfl rfl
theorem intNeg (e : Enc) : Statement (.intNeg e) := of_word rfl rfl
theorem andOp (e : Enc) : Statement (.andOp e) := of_word rfl rfl
theorem orOp (e : Enc) : Statement (.orOp e) := of_word rfl rfl
theorem xorOp (e : Enc) : Statement (.xorOp e) := of_word rfl rfl
theorem notOp (e : Enc) : Statement (.notOp e) := of_word rfl rfl
theorem shl (e : Enc) : Statement (.shl e) := of_word rfl rfl
theorem shr (e : Enc) : Statement (.shr e) := of_word rfl rfl
theorem rot (e : Enc) : Statement (.rot e) := of_word rfl rfl
theorem popc (e : Enc) : Statement (.popc e) := of_word rfl rfl
theorem clz (e : Enc) : Statement (.clz e) := of_word rfl rfl
theorem ctz (e : Enc) : Statement (.ctz e) := of_word rfl rfl
theorem brev (e : Enc) : Statement (.brev e) := of_word rfl rfl
theorem bfe (e : Enc) : Statement (.bfe e) := of_word rfl rfl
theorem bfi (e : Enc) : Statement (.bfi e) := of_word rfl rfl
theorem sel (e : Enc) : Statement (.sel e) := of_word rfl rfl
theorem mov (e : Enc) : Statement (.mov e) := of_word rfl rfl
theorem intCmp (e : Enc) : Statement (.intCmp e) := of_word rfl rfl
theorem lea (e : Enc) : Statement (.lea e) := of_word rfl rfl
theorem perm (e : Enc) : Statement (.perm e) := of_word rfl rfl
theorem shf (e : Enc) : Statement (.shf e) := of_word rfl rfl
theorem fpAdd (e : Enc) : Statement (.fpAdd e) := of_word rfl rfl
theorem fpSub (e : Enc) : Statement (.fpSub e) := of_word rfl rfl
theorem fpMul (e : Enc) : Statement (.fpMul e) := of_word rfl rfl
theorem fma (e : Enc) : Statement (.fma e) := of_word rfl rfl
theorem fpMin (e : Enc) : Statement (.fpMin e) := of_word rfl rfl
theorem fpMax (e : Enc) : Statement (.fpMax e) := of_word rfl rfl
theorem fpAbs (e : Enc) : Statement (.fpAbs e) := of_word rfl rfl
theorem fpNeg (e : Enc) : Statement (.fpNeg e) := of_word rfl rfl
theorem fpCmp (e : Enc) : Statement (.fpCmp e) := of_word rfl rfl
theorem classOp (e : Enc) : Statement (.classOp e) := of_word rfl rfl
theorem rcp (e : Enc) : Statement (.rcp e) := of_word rfl rfl
theorem rsq (e : Enc) : Statement (.rsq e) := of_word rfl rfl
theorem sqe (e : Enc) : Statement (.sqe e) := of_word rfl rfl
theorem exp2 (e : Enc) : Statement (.exp2 e) := of_word rfl rfl
theorem log2 (e : Enc) : Statement (.log2 e) := of_word rfl rfl
theorem rnd (e : Enc) : Statement (.rnd e) := of_word rfl rfl
theorem cvt (e : Enc) : Statement (.cvt e) := of_word rfl rfl
theorem cvt2 (e : Enc) : Statement (.cvt2 e) := of_word rfl rfl
theorem pack (e : Enc) : Statement (.pack e) := of_word rfl rfl
theorem unpk (e : Enc) : Statement (.unpk e) := of_word rfl rfl
theorem dcd (e : Enc) : Statement (.dcd e) := of_word rfl rfl
theorem enc (e : Enc) : Statement (.enc e) := of_word rfl rfl
theorem sbx (e : Enc) : Statement (.sbx e) := of_word rfl rfl
theorem scl (e : Enc) : Statement (.scl e) := of_word rfl rfl
theorem quadXor (e : Enc) : Statement (.quadXor e) := of_word rfl rfl
theorem quadBc (e : Enc) : Statement (.quadBc e) := of_word rfl rfl
theorem shflIdx (e : Enc) : Statement (.shflIdx e) := of_word rfl rfl
theorem shflUp (e : Enc) : Statement (.shflUp e) := of_word rfl rfl
theorem shflDn (e : Enc) : Statement (.shflDn e) := of_word rfl rfl
theorem shflXor (e : Enc) : Statement (.shflXor e) := of_word rfl rfl
theorem wred (e : Enc) : Statement (.wred e) := of_word rfl rfl
theorem wscan (e : Enc) : Statement (.wscan e) := of_word rfl rfl
theorem ballot (e : Enc) : Statement (.ballot e) := of_word rfl rfl
theorem kop (e : Enc) : Statement (.kop e) := of_word rfl rfl
theorem kpopc (e : Enc) : Statement (.kpopc e) := of_word rfl rfl
theorem kffs (e : Enc) : Statement (.kffs e) := of_word rfl rfl
theorem matchOp (e : Enc) : Statement (.matchOp e) := of_word rfl rfl
theorem br (e : Enc) : Statement (.br e) := of_word rfl rfl
theorem split (e : Enc) : Statement (.split e) := of_word rfl rfl
theorem join (e : Enc) : Statement (.join e) := of_word rfl rfl
theorem loop (e : Enc) : Statement (.loop e) := of_word rfl rfl
theorem call (e : Enc) : Statement (.call e) := of_word rfl rfl
theorem ret (e : Enc) : Statement (.ret e) := of_word rfl rfl
theorem jmp (e : Enc) : Statement (.jmp e) := of_word rfl rfl
theorem nop (e : Enc) : Statement (.nop e) := of_word rfl rfl
theorem ldG (e : Enc) : Statement (.ldG e) := of_word rfl rfl
theorem stG (e : Enc) : Statement (.stG e) := of_word rfl rfl
theorem ldS (e : Enc) : Statement (.ldS e) := of_word rfl rfl
theorem stS (e : Enc) : Statement (.stS e) := of_word rfl rfl
theorem ldC (e : Enc) : Statement (.ldC e) := of_word rfl rfl
theorem tld (e : Enc) : Statement (.tld e) := of_word rfl rfl
theorem gatG (e : Enc) : Statement (.gatG e) := of_word rfl rfl
theorem sctG (e : Enc) : Statement (.sctG e) := of_word rfl rfl
theorem gatS (e : Enc) : Statement (.gatS e) := of_word rfl rfl
theorem sctS (e : Enc) : Statement (.sctS e) := of_word rfl rfl
theorem pf (e : Enc) : Statement (.pf e) := of_word rfl rfl
theorem commit (e : Enc) : Statement (.commit e) := of_word rfl rfl
theorem commitX (e : Enc) : Statement (.commitX e) := of_word rfl rfl
theorem abortOp (e : Enc) : Statement (.abortOp e) := of_word rfl rfl
theorem acq (e : Enc) : Statement (.acq e) := of_word rfl rfl
theorem barBlk (e : Enc) : Statement (.barBlk e) := of_word rfl rfl
theorem barArv (e : Enc) : Statement (.barArv e) := of_word rfl rfl
theorem barWt (e : Enc) : Statement (.barWt e) := of_word rfl rfl
theorem ownGive (e : Enc) : Statement (.ownGive e) := of_word rfl rfl
theorem ownTst (e : Enc) : Statement (.ownTst e) := of_word rfl rfl
theorem trapOp (e : Enc) : Statement (.trapOp e) := of_word rfl rfl
theorem rte (e : Enc) : Statement (.rte e) := of_word rfl rfl
theorem yieldOp (e : Enc) : Statement (.yieldOp e) := of_word rfl rfl
theorem modeOp (e : Enc) : Statement (.modeOp e) := of_word rfl rfl
theorem getm (e : Enc) : Statement (.getm e) := of_word rfl rfl
theorem rdpr (e : Enc) : Statement (.rdpr e) := of_word rfl rfl
theorem wrpr (e : Enc) : Statement (.wrpr e) := of_word rfl rfl
theorem bkpt (e : Enc) : Statement (.bkpt e) := of_word rfl rfl
theorem sleep (e : Enc) : Statement (.sleep e) := of_word rfl rfl
theorem atomAdd (e : Enc) : Statement (.atomAdd e) := of_word rfl rfl
theorem atomMin (e : Enc) : Statement (.atomMin e) := of_word rfl rfl
theorem atomMax (e : Enc) : Statement (.atomMax e) := of_word rfl rfl
theorem atomAnd (e : Enc) : Statement (.atomAnd e) := of_word rfl rfl
theorem atomOr (e : Enc) : Statement (.atomOr e) := of_word rfl rfl
theorem atomXor (e : Enc) : Statement (.atomXor e) := of_word rfl rfl
theorem atomExch (e : Enc) : Statement (.atomExch e) := of_word rfl rfl
theorem atomCas (e : Enc) : Statement (.atomCas e) := of_word rfl rfl
theorem atomInc (e : Enc) : Statement (.atomInc e) := of_word rfl rfl
theorem barClus (e : Enc) : Statement (.barClus e) := of_word rfl rfl
theorem barGrid (e : Enc) : Statement (.barGrid e) := of_word rfl rfl
theorem mbarInit (e : Enc) : Statement (.mbarInit e) := of_word rfl rfl
theorem mbarArv (e : Enc) : Statement (.mbarArv e) := of_word rfl rfl
theorem mbarWait (e : Enc) : Statement (.mbarWait e) := of_word rfl rfl
theorem blkGrow (e : Enc) : Statement (.blkGrow e) := of_word rfl rfl
theorem blkLeave (e : Enc) : Statement (.blkLeave e) := of_word rfl rfl
theorem role (e : Enc) : Statement (.role e) := of_word rfl rfl
theorem ctrg (e : Enc) : Statement (.ctrg e) := of_word rfl rfl
theorem isect (e : Enc) : Statement (.isect e) := of_word rfl rfl
theorem taskSpawn (e : Enc) : Statement (.taskSpawn e) := of_word rfl rfl
theorem taskJoin (e : Enc) : Statement (.taskJoin e) := of_word rfl rfl
theorem taskWait (e : Enc) : Statement (.taskWait e) := of_word rfl rfl
theorem tset (e : Enc) : Statement (.tset e) := of_word rfl rfl
theorem tget (e : Enc) : Statement (.tget e) := of_word rfl rfl
theorem cpPush (e : Enc) : Statement (.cpPush e) := of_word rfl rfl
theorem cpClose (e : Enc) : Statement (.cpClose e) := of_word rfl rfl
theorem cpWait (e : Enc) : Statement (.cpWait e) := of_word rfl rfl
theorem ringSet (e : Enc) : Statement (.ringSet e) := of_word rfl rfl
theorem ringAdv (e : Enc) : Statement (.ringAdv e) := of_word rfl rfl
theorem ringRd (e : Enc) : Statement (.ringRd e) := of_word rfl rfl
theorem mxRow (e : Enc) : Statement (.mxRow e) := of_word rfl rfl
theorem mxLdb (e : Enc) : Statement (.mxLdb e) := of_word rfl rfl
theorem mxResume (e : Enc) : Statement (.mxResume e) := of_word rfl rfl
theorem mxProg (e : Enc) : Statement (.mxProg e) := of_word rfl rfl
theorem accRd (e : Enc) : Statement (.accRd e) := of_word rfl rfl
theorem accWr (e : Enc) : Statement (.accWr e) := of_word rfl rfl
theorem accClr (e : Enc) : Statement (.accClr e) := of_word rfl rfl
theorem accOut (e : Enc) : Statement (.accOut e) := of_word rfl rfl
theorem sdaRun (e : Enc) : Statement (.sdaRun e) := of_word rfl rfl
theorem sdaStop (e : Enc) : Statement (.sdaStop e) := of_word rfl rfl
theorem sdaStat (e : Enc) : Statement (.sdaStat e) := of_word rfl rfl
theorem sdaLd (e : Enc) : Statement (.sdaLd e) := of_word rfl rfl
theorem gkHf (e : Enc) : Statement (.gkHf e) := of_word rfl rfl
theorem gkTbl (e : Enc) : Statement (.gkTbl e) := of_word rfl rfl
theorem gkIns (e : Enc) : Statement (.gkIns e) := of_word rfl rfl
theorem gkDel (e : Enc) : Statement (.gkDel e) := of_word rfl rfl
theorem gkProbe (e : Enc) : Statement (.gkProbe e) := of_word rfl rfl
theorem gkRehash (e : Enc) : Statement (.gkRehash e) := of_word rfl rfl
theorem gkEval (e : Enc) : Statement (.gkEval e) := of_word rfl rfl
theorem gkSeq (e : Enc) : Statement (.gkSeq e) := of_word rfl rfl
theorem gkStat (e : Enc) : Statement (.gkStat e) := of_word rfl rfl
theorem topkIns (e : Enc) : Statement (.topkIns e) := of_word rfl rfl
theorem topkMrg (e : Enc) : Statement (.topkMrg e) := of_word rfl rfl
theorem topkRd (e : Enc) : Statement (.topkRd e) := of_word rfl rfl
theorem topkClr (e : Enc) : Statement (.topkClr e) := of_word rfl rfl
theorem topkSum (e : Enc) : Statement (.topkSum e) := of_word rfl rfl
theorem asyncCauseTaken (w : Nat) : Statement (.asyncCauseTaken w) := of_event rfl
theorem loadDataReturn (w line : Nat) (clean : Bool) : Statement (.loadDataReturn w line clean) := of_event rfl
theorem ackArrival (w k : Nat) : Statement (.ackArrival w k) := of_event rfl
theorem crossDiePublish (w : Nat) : Statement (.crossDiePublish w) := of_event rfl
theorem launchPacket (part q : Nat) : Statement (.launchPacket part q) := of_event rfl
theorem taskDecrement (k : Nat) : Statement (.taskDecrement k) := of_event rfl
theorem sliceExpiry (grid : Nat) : Statement (.sliceExpiry grid) := of_event rfl
theorem ageingExpiry (grid : Nat) : Statement (.ageingExpiry grid) := of_event rfl
theorem preemptDeadlineExpiry (blk : Nat) : Statement (.preemptDeadlineExpiry blk) := of_event rfl
theorem blockSave (blk : Nat) : Statement (.blockSave blk) := of_event rfl
theorem blockRestore (blk : Nat) : Statement (.blockRestore blk) := of_event rfl
theorem partitionSwap (part : Nat) : Statement (.partitionSwap part) := of_event rfl
theorem partitionSwapIn (part : Nat) : Statement (.partitionSwapIn part) := of_event rfl
theorem sleepExpiry (w : Nat) : Statement (.sleepExpiry w) := of_event rfl
theorem watchdogExpiry (w : Nat) : Statement (.watchdogExpiry w) := of_event rfl
theorem profilerSample (part core : Nat) : Statement (.profilerSample part core) := of_event rfl
theorem tadpoleCheckpoint (part : Nat) : Statement (.tadpoleCheckpoint part) := of_event rfl
theorem tadpoleReplay (part : Nat) : Statement (.tadpoleReplay part) := of_event rfl
theorem tlbInvComplete (part : Nat) : Statement (.tlbInvComplete part) := of_event rfl
theorem copyPacket (part cq : Nat) : Statement (.copyPacket part cq) := of_event rfl
theorem copyFaultResume (cmd : Nat) : Statement (.copyFaultResume cmd) := of_event rfl
theorem copyPacketComplete (cmd : Nat) : Statement (.copyPacketComplete cmd) := of_event rfl
theorem mxKstep (cmd : Nat) : Statement (.mxKstep cmd) := of_event rfl
theorem accOutPerform (cmd : Nat) : Statement (.accOutPerform cmd) := of_event rfl
theorem regionPlacement (stack slot : Nat) : Statement (.regionPlacement stack slot) := of_event rfl
theorem peFiring (stack slot pad pe : Nat) : Statement (.peFiring stack slot pad pe) := of_event rfl
theorem streamInputToken (stack slot stream : Nat) : Statement (.streamInputToken stack slot stream) := of_event rfl
theorem streamOutputWrite (stack slot stream : Nat) : Statement (.streamOutputWrite stack slot stream) := of_event rfl
theorem updateApply (stack slot stream : Nat) : Statement (.updateApply stack slot stream) := of_event rfl
theorem configComplete (stack slot : Nat) : Statement (.configComplete stack slot) := of_event rfl
theorem drainRequest (stack slot : Nat) : Statement (.drainRequest stack slot) := of_event rfl
theorem regionQuiescence (stack slot : Nat) : Statement (.regionQuiescence stack slot) := of_event rfl
theorem regionRestore (stack slot : Nat) : Statement (.regionRestore stack slot) := of_event rfl
theorem compactionMove (stack slot : Nat) : Statement (.compactionMove stack slot) := of_event rfl
theorem gkStepPerform (stack table : Nat) : Statement (.gkStepPerform stack table) := of_event rfl
theorem gkReadPerform (stack k : Nat) : Statement (.gkReadPerform stack k) := of_event rfl
theorem idlePrecharge (b : HbmBank) : Statement (.idlePrecharge b) := of_event rfl
theorem refreshManagement (b : HbmBank) : Statement (.refreshManagement b) := of_event rfl
theorem ctCmdDone : Statement .ctCmdDone := of_event rfl
theorem ckptComplete (fabricError : Bool) : Statement (.ckptComplete fabricError) := of_event rfl
theorem sysTimeout (w k : Nat) : Statement (.sysTimeout w k) := of_event rfl
theorem partEnd (part : Nat) : Statement (.partEnd part) := of_event rfl
theorem heldFrameLanding (port prio : Nat) : Statement (.heldFrameLanding port prio) := of_event rfl
theorem netCmdDone : Statement .netCmdDone := of_event rfl
theorem spmAttest (o : Origin) : Statement (.spmAttest o) := of_event rfl
theorem spareCoreSwap (core : Nat) : Statement (.spareCoreSwap core) := of_event rfl
theorem rowSparing (b : HbmBank) (row : Nat) : Statement (.rowSparing b row) := of_event rfl
theorem pchRetirement (stack pch : Nat) : Statement (.pchRetirement stack pch) := of_event rfl
theorem hbmRecalibration (stack pch : Nat) : Statement (.hbmRecalibration stack pch) := of_event rfl
theorem padFrameRecalibration (stack pf : Nat) : Statement (.padFrameRecalibration stack pf) := of_event rfl
theorem plyLaneRetraining (port : Nat) : Statement (.plyLaneRetraining port) := of_event rfl
theorem d2dLaneRetraining : Statement .d2dLaneRetraining := of_event rfl
theorem portLinkRecovery (unit : LinkUnit) : Statement (.portLinkRecovery unit) := of_event rfl
theorem firmwareActivation (target : BitVec 16) : Statement (.firmwareActivation target) := of_event rfl
theorem securityBoot : Statement .securityBoot := of_event rfl
theorem d3hotRequest : Statement .d3hotRequest := of_event rfl
theorem switchTokenMove (stack slot : Nat) (mv : TokenMove) : Statement (.switchTokenMove stack slot mv) := of_event rfl
theorem accOutTranslationResume (cmd : Nat) : Statement (.accOutTranslationResume cmd) := of_event rfl
theorem serviceActionComplete (k : Nat) : Statement (.serviceActionComplete k) := of_event rfl
theorem powerLoss : Statement .powerLoss := of_event rfl
theorem tadCmdCkpt (part : Nat) (v : Dword) : Statement (.tadCmdCkpt part v) := of_event rfl
theorem dbgHalt (part : Nat) (v : Dword) : Statement (.dbgHalt part v) := of_event rfl
theorem tlbInvalidate (part : Nat) (v : Dword) : Statement (.tlbInvalidate part v) := of_event rfl
theorem qerrWrite (part : Nat) (v : Dword) : Statement (.qerrWrite part v) := of_event rfl
theorem cqerrWrite (part : Nat) (v : Dword) : Statement (.cqerrWrite part v) := of_event rfl
theorem gatewayReject (stack slot pf : Nat) (owner : BitVec 6) : Statement (.gatewayReject stack slot pf owner) := of_event rfl
theorem aclkWindow (stack q up down total : Nat) : Statement (.aclkWindow stack q up down total) := of_event rfl
theorem arrAssignWrite (stack half : Nat) (v : Dword) : Statement (.arrAssignWrite stack half v) := of_event rfl
theorem cfgcInvAddr (stack : Nat) (v : Dword) : Statement (.cfgcInvAddr stack v) := of_event rfl
theorem cfgcInvAll (stack : Nat) (v : Dword) : Statement (.cfgcInvAll stack v) := of_event rfl
theorem gkAssignWrite (stack : Nat) (v : Dword) : Statement (.gkAssignWrite stack v) := of_event rfl
theorem hbmRead (c : HbmCoord) (part line errs : Nat) : Statement (.hbmRead c part line errs) := of_event rfl
theorem hbmWrite (c : HbmCoord) (part line : Nat) (full : Bool) : Statement (.hbmWrite c part line full) := of_event rfl
theorem ctAdd (v : Dword) (granted : Bool) : Statement (.ctAdd v granted) := of_event rfl
theorem ctRelease (v : Dword) : Statement (.ctRelease v) := of_event rfl
theorem ctSetRetain (v : Dword) : Statement (.ctSetRetain v) := of_event rfl
theorem ctClearRetain (v : Dword) : Statement (.ctClearRetain v) := of_event rfl
theorem ckptStart (v : Dword) : Statement (.ckptStart v) := of_event rfl
theorem ckptRestore (v : Dword) : Statement (.ckptRestore v) := of_event rfl
theorem hostBar2Read (part : Nat) (off : Dword) (len : Nat) : Statement (.hostBar2Read part off len) := of_event rfl
theorem hostBar2Write (part : Nat) (off : Dword) (data : List Byte) : Statement (.hostBar2Write part off data) := of_event rfl
theorem hostAtomicop (part : Nat) (off : Dword) (op : HostAtomic) (wide : Bool) (x y : Dword) : Statement (.hostAtomicop part off op wide x y) := of_event rfl
theorem sysErrorResponse (w k : Nat) : Statement (.sysErrorResponse w k) := of_event rfl
theorem peerRequest (m : Nat) (o : Dword) (req : PeerReq) : Statement (.peerRequest m o req) := of_event rfl
theorem uetWrite (part region : Nat) (off : Dword) (data : List Byte) : Statement (.uetWrite part region off data) := of_event rfl
theorem ethFrame (f : Frame) : Statement (.ethFrame f) := of_event rfl
theorem netWriteFlow (v : Dword) : Statement (.netWriteFlow v) := of_event rfl
theorem netClearFlow (v : Dword) : Statement (.netClearFlow v) := of_event rfl
theorem netWriteKey (v : Dword) : Statement (.netWriteKey v) := of_event rfl
theorem netClearKey (v : Dword) : Statement (.netClearKey v) := of_event rfl
theorem spmLoadImage (o : Origin) : Statement (.spmLoadImage o) := of_event rfl
theorem spmServiceRequest (o : Origin) (kind : SvcKind) : Statement (.spmServiceRequest o kind) := of_event rfl
theorem spmSvnCommit (o : Origin) : Statement (.spmSvnCommit o) := of_event rfl
theorem spmWriteSecureReg (o : Origin) : Statement (.spmWriteSecureReg o) := of_event rfl
theorem coreFence (core : Nat) : Statement (.coreFence core) := of_event rfl
theorem cgWorldWrite (die : Nat) (v : Dword) : Statement (.cgWorldWrite die v) := of_event rfl
theorem secRangeWrite (n : Nat) (v : Dword) : Statement (.secRangeWrite n v) := of_event rfl
theorem powerWindow (watts : Nat) : Statement (.powerWindow watts) := of_event rfl
theorem thermalThrottle (die temp : Nat) : Statement (.thermalThrottle die temp) := of_event rfl
theorem thermalTrip (die temp : Nat) : Statement (.thermalTrip die temp) := of_event rfl
theorem registerWrite (o : Origin) (r : RegName) (v : Dword) : Statement (.registerWrite o r v) := of_event rfl
theorem uncorrectableError (w src : Nat) : Statement (.uncorrectableError w src) := of_event rfl
theorem periodicRefresh (b : HbmBank) : Statement (.periodicRefresh b) := of_event rfl

end Sys2Proof.Laws.Encoding
end

