-- ==== Sys2Proof/WellFormed.lean ====
section
/-! DEFINITION. Well-formed instructions: those that no condition of R103 stops in a wave with the largest allotment,
256 vector and 128 scalar registers (R28). An event, which has no word, is well-formed. -/

namespace Sys2Proof

/-- R103's two lists hold nothing against the instruction. -/
def WellFormed (i : Instr) : Bool := Machine.legalCode 256 128 i = none

end Sys2Proof
end

