-- ==== Sys2Proof/Tests/Slice0.lean ====
section
/-! SUPPORT. Tests and witnesses: the words of every family decode, an ill-formed term of each kind is refused, and states and
operands meet the hypotheses of every statement. -/

namespace Sys2Proof.Tests

set_option Elab.async false

open Sys2Proof Sys2Proof.Machine

/-! ## The machine of the tests -/

/-- A machine with one wave: the state that stands before its instruction, the wave on core 0 with 32 lanes, 256 vector and
128 scalar registers, one scratchpad tile, and a page table that maps the page at
0x10000; that page, the table's and the next lie on stack 0. -/
def tiny : State :=
  let s := State.reset.withFetchWord 64 0
  { s with agenda := [], cur := some 0, mem := { s.mem with
      hbm := [(0x1000, 0x01#8), (0x1001, 0x20#8), (0x2000, 0x01#8), (0x2001, 0x30#8), (0x3000, 0x01#8), (0x3001, 0x40#8), (0x4000, 0x01#8),
              (0x4001, 0x50#8), (0x5008, 0x1F#8), (0x500A, 0x01#8)]
      homeMap := [(0, 0), (1, 0), (2, 0)], tlb := [⟨false, 0, 0, 1, 16, 0x1001F#64⟩] } }

/-- `tiny` with the wave or its block changed. -/
def tinyW (f : Wave → Wave) : State := tiny.updWave 0 f
def tinyB (f : Block → Block) : State := tiny.updBlock 0 f

/-- The context that an instruction sees, when it reaches its meaning. -/
def testCx? (op : Nat) (e : Enc) (s : State) : Option Cx :=
  match s.cur with
  | none => none
  | some wid => match s.wave? wid with
  | none => none
  | some w => match s.block? w.blk with
  | none => none
  | some b => match s.grid? b.grid with
  | none => none
  | some g =>
    let sh := opShape op e
    if w.wordOk op sh e && modifierOk sh e && isPerformed op (isVector sh e) (laneOn w e) (w.k0 &&& laneOn w e) then
      match s.operandsNow w b g sh e with
      | .ok (some (iv, s')) =>
        some { s := s', w := w, b := b, g := g, op := op, e := e, sh := sh, vec := isVector sh e, lanes := laneOn w e, iv := iv }
      | _ => none
    else none

theorem issued_of {op : Nat} {e : Enc} {s : State} {c : Cx} (h : testCx? op e s = some c) : Issued op e s c := by
  simp only [testCx?] at h
  split at h; · cases h
  rename_i wid h1
  split at h; · cases h
  rename_i w h2
  split at h; · cases h
  rename_i b h3
  split at h; · cases h
  rename_i g h4
  split at h
  · rename_i hc
    simp only [Bool.and_eq_true] at hc
    obtain ⟨⟨h5, h6⟩, h7⟩ := hc
    split at h
    · rename_i iv s' h8
      exact ⟨wid, w, b, g, iv, s', h1, h2, h3, h4, h5, h6, h7, h8, by simpa using h.symm⟩
    · cases h
  · cases h

/-- An instruction reaches its meaning in `s` and `p` holds of what it sees. -/
theorem issued_with {op : Nat} {e : Enc} {s : State} {p : Cx → Bool} (h : (testCx? op e s).any p = true) :
    ∃ c, Issued op e s c ∧ p c = true := by
  cases hc : testCx? op e s with
  | none => rw [hc] at h; cases h
  | some c => rw [hc] at h; exact ⟨c, issued_of hc, h⟩

/-- An instruction reaches its meaning in `s`, and `p` holds of what it sees. -/
theorem meets {op : Nat} {e : Enc} {s : State} {p : Cx → Prop} [DecidablePred p]
    (h : (testCx? op e s).any (fun c => decide (p c)) = true) : ∃ c, Issued op e s c ∧ p c := by
  obtain ⟨c, h1, h2⟩ := issued_with h
  exact ⟨c, h1, of_decide_eq_true h2⟩

/-- The fields of a word without guard and extension: MOD, DST, A, B, C. -/
def en (mod dst a b c : Nat) : Enc := ⟨BitVec.ofNat 12 mod, 0#3, false, BitVec.ofNat 9 dst, BitVec.ofNat 10 a, BitVec.ofNat 10 b, BitVec.ofNat 10 c, none⟩

/-- s registers of the wave of `tiny` set to values. -/
def withS (xs : List (Nat × Nat)) (s : State) : State :=
  s.updWave 0 (fun w => { w with sregs := xs.foldl (fun r x => r.set x.1 (BitVec.ofNat 32 x.2)) w.sregs })
/-- Every lane of v registers of the wave of `tiny` set to values. -/
def withV (xs : List (Nat × List Nat)) (s : State) : State :=
  s.updWave 0 (fun w => { w with vregs := xs.foldl (fun r x => r.set x.1 (x.2.map (BitVec.ofNat 32))) w.vregs })
/-- The wave's commit buffer holding some lines, the rest of its entries free. -/
def withBuf (ls : List PLine) (s : State) : State :=
  s.updWave 0 (fun w => { w with buf := (ls.map some) ++ List.replicate (64 - ls.length) none })
/-- A pending line with every byte 0x55. -/
def line55 (scr : Bool) (l : Nat) : PLine := { scr := scr, line := l, data := List.replicate 64 0x55#8, mask := BitVec.allOnes 64 }

/-- A wave is current whose block and grid are there. -/
def placed (s : State) (p : Wave → Bool) : Bool :=
  match s.cur.bind s.wave? with
  | none => false
  | some w => match s.block? w.blk with
    | none => false
    | some b => (s.grid? b.grid).isSome && p w


/-- The address 0x10000 of the mapped page in s8-s9. -/
def atPage (s : State) : State := withS [(8, 0x10000), (9, 0)] s

/-- The state in which a commit inside an instruction is done, when it is done at once. -/
def committed (c : Cx) (lvl : Nat) : Option State :=
  if 8 ≤ c.w.stage then some c.s
  else if c.w.stage = 0 then
    match c.commitStart lvl with
    | .error _ => none
    | .ok s => match s.wave? c.wid with
      | none => none
      | some w => if lvl < 3 ∨ (lvl = 3 ∧ w.staged = [] ∧ w.sent.any Sent.ofCommit = false) then some s else none
  else none

theorem committed_eq {c : Cx} {lvl : Nat} {s : State} (h : committed c lvl = some s) : ∀ k, c.commit lvl k = k s := by
  intro k
  simp only [committed] at h
  simp only [Cx.commit]
  split at h
  · rename_i h8; cases h; rw [if_pos h8]
  · rename_i h8; rw [if_neg h8]
    split at h
    · rename_i h0; rw [if_pos h0]
      split at h
      · cases h
      · rename_i s0 hs
        split at h
        · cases h
        · rename_i w hw
          split at h
          · rename_i hl; cases h
            simp only [hs, Cx.commitRest, hw]
            rcases hl with hl | ⟨rfl, h1, h2⟩
            · rw [if_pos hl]
            · simp [h1, h2]
          · cases h
    · cases h

/-- An instruction reaches its meaning in `s`, its commit to `lvl` is done, leaving `s1`, and `p` holds of both. -/
theorem meets_commit {op : Nat} {e : Enc} {s : State} {lvl : Nat} {p : Cx → State → Prop} [∀ c s, Decidable (p c s)]
    (h : (testCx? op e s).any (fun c => (committed c lvl).any (fun s1 => decide (p c s1))) = true) :
    ∃ c s1, Issued op e s c ∧ (∀ k, c.commit lvl k = k s1) ∧ p c s1 := by
  obtain ⟨c, h1, h2⟩ := issued_with h
  cases hs : committed c lvl with
  | none => rw [hs] at h2; cases h2
  | some s1 => rw [hs] at h2; exact ⟨c, s1, h1, committed_eq hs, of_decide_eq_true h2⟩

/-- One global line of the mapped page and one scratchpad line in the buffer. -/
def buffered (s : State) : State := withBuf [line55 false 0x400, line55 true 63] s

def linesOk (ls : List PLine) : Bool :=
  decide (ls.Pairwise (fun p q => ¬(p.scr = q.scr ∧ p.line = q.line)) ∧ ∀ p ∈ ls, p.data.length = 64)

/-- Bytes of HBM that are not 0, above those that are listed already. -/
def cells (xs : List (Nat × Nat)) (s : State) : State :=
  { s with mem := { s.mem with hbm := s.mem.hbm ++ xs.map (fun x => (x.1, BitVec.ofNat 8 x.2)) } }
/-- An object at 0x10000: expected and pending counts, phase, and its word of flags. -/
def withObj (pending expect phase flags : Nat) (s : State) : State :=
  cells ((leBytes 4 expect ++ leBytes 4 pending ++ leBytes 8 phase ++ leBytes 8 flags).zipIdx.filterMap (fun x =>
    if x.1 = 0#8 then none else some (0x10000 + x.2, x.1.toNat))) s
/-- Neither logging nor replaying, memory canonical. -/
abbrev quietNow (c : Cx) (t : State) : Prop := (t.part c.part).dbgCtl.getLsbD 3 = false ∧ replayHead (t.part c.part) = none
  ∧ (t.part c.part).replayPh ≠ .running ∧ t.mem.wf


/-- No stack activates its firmware and no service action runs. -/
def calm (s : State) : Bool := !s.stks.any Stack.fwBusy && !s.hub.services.any Service.running
/-- A wave's stack 0 is held by an activation of its firmware. -/
def stackBusy (s : State) : State := s.updStack 0 (fun st => { st with fwBusy := true })

/-- Copy queue 0 of partition 0, its descriptor at 0x10000: 16 slots at 0x12000, WRITE and READ as given. -/
def withCq (ctl wr rd : Nat) (s : State) : State :=
  cells ([(0x10001, 0x20), (0x10002, 0x01), (0x10008, ctl), (0x10010, wr), (0x10018, rd)].filter (fun x => x.2 ≠ 0)) s
/-- A context descriptor at 0x10800, as R26 lays it out: the page table at 0x1000, the handler at 0x18000 and a save area of one
unit at 0x10000. -/
def withDesc (s : State) : State :=
  (cells [(0x10801, 0x10), (0x1080A, 0x01), (0x10812, 0x01), (0x10819, 0x80), (0x1081A, 0x01), (0x10822, 0x01), (0x10828, 1)] s).updPart 0
    (fun p => { p with ctxDesc := 0x10800#64 })
/-- A launch record at 0x11000 (R28): one block of one wave on core 0. -/
def withRecord (s : State) : State :=
  cells [(0x11002, 1), (0x11010, 1), (0x11014, 1), (0x11016, 1), (0x11019, 0x7C), (0x1101D, 1), (0x11020, 1)] (withDesc s)
/-- Launch queue 0, its descriptor at 0x13000 (`ctl` its second word), and the bytes of the packet in its first slot at 0x14000. -/
def withLq (ctl : Nat) (packet : List (Nat × Nat)) (s : State) : State :=
  (cells ((0x13001, 0x40) :: (0x13002, 1) :: (0x13008, ctl) :: (0x13010, 1) :: packet) (withRecord s)).updPart 0 (fun p => { p with lqBase := 0x13000#64 })

/-- A block of several members with barriers of each kind as given. -/
def inPhase (members : List Nat) (x : BarCount) (s : State) : State :=
  s.updBlock 0 (fun b => { b with members := members, bars := b.bars.set 15 x, cbars := b.cbars.set 3 x, gbars := b.gbars.set 3 x })


/-- A command of the wave, for the clauses in which one is there. -/
def aCmd : Cmd := { id := 5, wid := some 0, blk := 0, core := 0, reads := [], writes := [.ring 0 3 0 true], kind := .ldb ⟨0, [], 0, 1⟩ }

/-- ring 7 of one entry of one tile, its next sequence number as given. -/
def withRing (it tl : Nat) (s : State) : State := s.updBlock 0 (fun b => { b with
  rings := b.rings.set 7 { base := 0, count := 1, size := 1, tensor := 0, head := 0#32, tail := BitVec.ofNat 32 tl, ihead := 0#32, itail := BitVec.ofNat 32 it } })

/-- A tensor's entry: format, number of dimensions less one, its first two extents, elements at 0x15000. -/
def ten (ty ndim d0 d1 : Nat) : TEntry :=
  [0x15000, 0, 0, 0x8000 + 256 * ndim + ty, d0 + 2 ^ 32 * d1, 0, 1 + 2 ^ 32 * d1, 0].map (BitVec.ofNat 64)
/-- Stack 0 changed. -/
def withStack (f : Stack → Stack) (s : State) : State := s.updStack 0 f
/-- A load that still reads one system line. -/
def readFrom (sp : Space) (pline : Nat) : OutLoad :=
  ⟨.plain 6#5, 2#9, true, 1#32, 0#32, 4, [], [], [⟨false, 0, sp, pline, false⟩], false, false, 0#32, false, 0#64, false, 0#64⟩
/-- Bank 0 of stack 0, column 3 of row 5; its line lies on stack 0. -/
def aBank : HbmBank := ⟨0, 0, 0⟩

/-- Tensors 0 (one e4m3 element), 1 (one f32 line) and 2 (i32) in die 0's descriptor cache. -/
def withTensors (s : State) : State :=
  s.updDie 0 (fun d => { d with tcache := [(0, 0, ten 15 0 1 0), (0, 1, ten 12 1 1 1), (0, 2, ten 2 1 1 1)] })

/-! ## Every instruction of a wave reaches its meaning -/

def wordsInt : List (Nat × Enc) :=
  [(0x00, en 256 2 4 6 0), (0x01, en 256 2 4 6 0), (0x02, en 256 2 4 6 0), (0x03, en 256 2 4 6 0),
   (0x04, en 256 2 4 6 0), (0x05, en 256 2 4 6 0), (0x06, en 256 2 4 6 0), (0x07, en 256 2 4 0 0),
   (0x08, en 256 2 4 0 0), (0x09, en 1280 2 4 6 0), (0x0A, en 1280 2 4 6 0), (0x0B, en 1280 2 4 6 0),
   (0x0C, en 1280 2 4 0 0), (0x0D, en 1280 2 4 6 0), (0x0E, en 256 2 4 6 0), (0x0F, en 1280 2 4 6 0),
   (0x10, en 1280 2 4 0 0), (0x11, en 1280 2 4 0 0), (0x12, en 1280 2 4 0 0), (0x13, en 1280 2 4 0 0),
   (0x14, en 256 2 4 6 0), (0x15, en 1280 2 4 6 0), (0x16, en 1280 2 4 6 387), (0x17, en 1280 2 4 0 0),
   (0x18, en 256 386 4 6 0), (0x19, en 768 2 4 6 0), (0x1A, en 1280 2 4 6 0), (0x1B, en 1280 2 4 6 0)]

def wordsFloat : List (Nat × Enc) :=
  [(0x20, en 1536 2 4 6 0), (0x21, en 1536 2 4 6 0), (0x22, en 1536 2 4 6 0), (0x23, en 1536 2 4 6 0),
   (0x24, en 1536 2 4 6 0), (0x25, en 1536 2 4 6 0), (0x26, en 1536 2 4 0 0), (0x27, en 1536 2 4 0 0),
   (0x28, en 1536 386 4 6 0), (0x29, en 1536 386 4 6 0), (0x2A, en 1536 2 4 0 0), (0x2B, en 1536 2 4 0 0),
   (0x2C, en 1536 2 4 0 0), (0x2D, en 1536 2 4 0 0), (0x2E, en 1536 2 4 0 0), (0x2F, en 1536 2 4 0 0),
   (0x30, en 0 2 4 0 2), (0x31, en 1664 2 4 6 12), (0x32, en 1664 2 4 6 0), (0x33, en 1664 2 4 6 0),
   (0x34, en 2304 2 4 6 0), (0x35, en 2304 2 4 6 0), (0x36, en 2432 2 4 6 0), (0x37, en 1536 2 4 6 0)]

def wordsExchange : List (Nat × Enc) :=
  [(0x40, en 1280 2 4 6 0), (0x41, en 1280 2 4 6 0), (0x42, en 1280 2 4 6 0), (0x43, en 1280 2 4 6 0),
   (0x44, en 1280 2 4 6 0), (0x45, en 1280 2 4 6 0), (0x46, en 256 258 4 0 0), (0x47, en 256 2 4 0 0),
   (0x48, en 1280 258 4 0 0), (0x49, en 0 386 385 386 0), (0x4A, en 0 258 385 0 0), (0x4B, en 0 258 385 0 0),
   (0x4C, en 1280 386 4 0 0)]

def wordsControl : List (Nat × Enc) :=
  [(0x50, en 256 2 264 266 0), (0x51, en 0 2 385 0 0), (0x52, en 0 0 0 0 0), (0x53, en 0 2 264 0 0),
   (0x54, en 0 2 264 0 0), (0x55, en 0 0 264 0 0), (0x56, en 0 0 264 0 0), (0x57, en 0 0 0 0 0)]

def wordsMemory : List (Nat × Enc) :=
  [(0x60, en 0 2 4 6 0), (0x61, en 1024 511 4 6 0), (0x62, en 0 2 4 6 0), (0x63, en 1024 511 4 6 0),
   (0x64, en 0 2 448 6 0), (0x65, en 1280 2 264 6 0), (0x66, en 0 2 4 6 0), (0x67, en 1024 511 4 6 0),
   (0x68, en 0 2 4 6 0), (0x69, en 1024 511 4 6 0), (0x6A, en 0 511 4 6 0)]

def wordsLevels : List (Nat × Enc) :=
  [(0x70, en 0 511 0 0 0), (0x71, en 0 386 0 0 0), (0x72, en 0 511 0 0 0), (0x73, en 16 511 0 0 0),
   (0x74, en 0 511 0 0 0), (0x75, en 0 511 0 0 0), (0x76, en 0 511 0 0 0), (0x77, en 0 511 264 266 0),
   (0x78, en 0 386 264 266 0)]

def wordsSystem : List (Nat × Enc) :=
  [(0x80, en 0 511 264 0 0), (0x81, en 0 511 0 0 0), (0x82, en 0 511 0 0 0), (0x83, en 0 511 264 266 0),
   (0x84, en 0 258 0 0 0), (0x85, en 0 258 264 0 0), (0x86, en 0 511 264 266 0), (0x87, en 0 511 264 0 0),
   (0x88, en 0 511 264 0 0)]

def wordsSync : List (Nat × Enc) :=
  [(0x90, en 256 2 4 6 0), (0x91, en 256 2 4 6 0), (0x92, en 256 2 4 6 0), (0x93, en 1280 2 4 6 0),
   (0x94, en 1280 2 4 6 0), (0x95, en 1280 2 4 6 0), (0x96, en 1280 2 4 6 0), (0x97, en 1280 2 4 6 0),
   (0x98, en 768 2 4 6 0), (0x99, en 0 511 0 0 0), (0x9A, en 0 511 0 0 0), (0x9B, en 0 511 264 266 268),
   (0x9C, en 0 258 264 266 0), (0x9D, en 0 511 264 266 0), (0xA0, en 0 258 264 0 0), (0xA1, en 0 511 0 0 0),
   (0xA2, en 0 386 264 266 0), (0xA3, en 1280 2 4 6 0), (0xA4, en 768 2 4 6 268), (0xA5, en 0 511 264 266 0),
   (0xA6, en 0 511 264 266 0), (0xA7, en 0 511 264 0 0)]

def wordsEngines : List (Nat × Enc) :=
  [(0xB0, en 0 511 264 266 268), (0xB1, en 0 258 264 266 0), (0xB2, en 0 511 264 266 0), (0xB3, en 0 258 0 0 0),
   (0xB4, en 0 511 264 0 0), (0xB5, en 0 511 264 266 0), (0xB6, en 0 511 264 266 268), (0xB7, en 0 258 264 0 0),
   (0xB8, en 0 511 264 266 268), (0xB9, en 0 511 264 266 268), (0xBA, en 0 511 0 0 0), (0xBB, en 0 258 0 0 0),
   (0xBC, en 1280 2 264 266 0), (0xBD, en 1280 511 264 266 0), (0xBE, en 0 511 264 266 0), (0xBF, en 1536 511 264 266 268)]

def wordsUnits : List (Nat × Enc) :=
  [(0xC0, en 0 258 264 0 0), (0xC1, en 0 511 264 0 0), (0xC2, en 0 258 264 0 0), (0xC3, en 0 511 264 266 0),
   (0xD0, en 0 511 264 266 268), (0xD1, en 0 511 264 266 268), (0xD2, en 0 258 264 266 0), (0xD3, en 0 258 264 266 0),
   (0xD4, en 0 2 264 266 268), (0xD5, en 0 258 264 266 268), (0xD6, en 0 2 264 0 0), (0xD7, en 0 258 264 0 0),
   (0xD8, en 0 258 264 0 0), (0xD9, en 0 511 4 6 0), (0xDA, en 0 511 264 266 0), (0xDB, en 1280 2 264 0 0),
   (0xDC, en 0 511 264 0 0), (0xDD, en 0 258 0 0 0)]

theorem witness_Performs_int : ∀ x ∈ wordsInt, (testCx? x.1 x.2 tiny).isSome = true := by decide +kernel
theorem witness_Performs_float : ∀ x ∈ wordsFloat, (testCx? x.1 x.2 tiny).isSome = true := by decide +kernel
theorem witness_Performs_exchange : ∀ x ∈ wordsExchange, (testCx? x.1 x.2 tiny).isSome = true := by decide +kernel
theorem witness_Performs_control : ∀ x ∈ wordsControl, (testCx? x.1 x.2 tiny).isSome = true := by decide +kernel
theorem witness_Performs_memory : ∀ x ∈ wordsMemory, (testCx? x.1 x.2 tiny).isSome = true := by decide +kernel
theorem witness_Performs_levels : ∀ x ∈ wordsLevels, (testCx? x.1 x.2 tiny).isSome = true := by decide +kernel
theorem witness_Performs_system : ∀ x ∈ wordsSystem, (testCx? x.1 x.2 tiny).isSome = true := by decide +kernel
theorem witness_Performs_sync : ∀ x ∈ wordsSync, (testCx? x.1 x.2 tiny).isSome = true := by decide +kernel
theorem witness_Performs_engines : ∀ x ∈ wordsEngines, (testCx? x.1 x.2 tiny).isSome = true := by decide +kernel
theorem witness_Performs_units : ∀ x ∈ wordsUnits, (testCx? x.1 x.2 tiny).isSome = true := by decide +kernel

/-- Every SIMT constructor's opcode stands in the lists. -/
theorem words_cover_every_opcode :
    (List.range 256).all (fun op => (Instr.ofCode (BitVec.ofNat 8 op) (en 0 0 0 0 0)).isNone ||
      (wordsInt ++ wordsFloat ++ wordsExchange ++ wordsControl ++ wordsMemory ++ wordsLevels ++ wordsSystem ++ wordsSync
        ++ wordsEngines ++ wordsUnits).any (fun x => x.1 = op)) = true := by decide +kernel

/-! ## Witnesses: words, the step and reset -/

/-- add.n32 v0, s12, %lane, the word R85's fields give it. -/
def addEnc : Enc := ⟨0x300#12, 0#3, false, 0#9, 268#10, 392#10, 0#10, none⟩

theorem witness_EncodeDecode : (Instr.intAdd addEnc).code = some (0x00#8, addEnc) := rfl
theorem witness_WordsHaveOneMeaning : decode (leBytes 8 0x0030000010C62000 ++ [1#8]) = .ok (.intAdd addEnc, [1#8]) := by
  decide +kernel

/-- The hypotheses of StepRunsDecodedInstruction, for a wave whose word asks for an extension word or not. -/
theorem witness_StepRunsDecodedInstruction (long : Bool) :
    let i : Instr := .intAdd { addEnc with b := if long then 1023#10 else 392#10, ext := if long then some 0x100#64 else none }
    let op : BitVec 8 := 0x00#8
    let s := State.reset.withFetchWord 128 (leNat (encode i))
    ∃ (w : Wave) (bs more tail : List Byte) (e : Enc),
      s.agenda = [.issue 0] ∧ s.running = true ∧ s.wave? 0 = some w ∧ s.canRun w = true ∧ (s.part (s.partOfWave 0)).ending = false
        ∧ w.pend = [] ∧ w.yieldsAtWait = false ∧ w.rolePend = none ∧ w.pc.toNat % 8 = 0
        ∧ s.fetchBytes w (s.partOfWave w.wid) w.pc.toNat 8 = .ok bs
        ∧ (if wordX (BitVec.ofNat 64 (leNat bs)) then s.fetchBytes w (s.partOfWave w.wid) (w.pc.toNat + 8) 8 = .ok more else more = [])
        ∧ decode (bs ++ more) = .ok (i, tail) ∧ i.code = some (op, e) ∧ (w.stage = 0 → s.held w op.toNat e = false ∧ s.fetchLate w = false) := by
  cases long
  · exact ⟨_, leBytes 8 0x0030000010C62000, [], [], addEnc, rfl, by decide +kernel, rfl, by decide +kernel, by decide +kernel, rfl, by decide +kernel, rfl, by decide +kernel,
      by decide +kernel, by decide +kernel, by decide +kernel, rfl, by decide +kernel⟩
  · exact ⟨_, leBytes 8 0x0030080010CFFC00, leBytes 8 0x100, [], { addEnc with b := 1023#10, ext := some 0x100#64 }, rfl, by decide +kernel, rfl, by decide +kernel, by decide +kernel, rfl, by decide +kernel, rfl, by decide +kernel,
      by decide +kernel, by decide +kernel, by decide +kernel, rfl, by decide +kernel⟩

theorem witness_StepTakesTurns_events :
    ({ State.reset with agenda := [.event .securityBoot] } : State).agenda = .event .securityBoot :: []
      ∧ (State.reset.withFetchWord 64 0).agenda.head? = some (.issue 0) ∧ State.reset.agenda = [] := ⟨rfl, rfl, rfl⟩
theorem witness_StepTakesTurns_grids : tiny.blocks ≠ [] ∧ (∀ b ∈ tiny.blocks, (tiny.grid? b.grid).isSome = true) ∧ tiny.gridsThere := by decide +kernel
theorem witness_StepTakesTurns_stopped :
    State.reset.running = false ∧ State.reset.agenda.head? ≠ some (.event .securityBoot)
      ∧ State.reset.agenda.head? ≠ some (.event .powerLoss) ∧ ∃ t, step State.reset = .next t :=
  ⟨by decide +kernel, by decide +kernel, by decide +kernel, _, rfl⟩
theorem witness_StepTakesTurns_tripped : ({ tiny with hub := { tiny.hub with tripped := true } } : State).running = false := by decide +kernel
theorem witness_StepKeepsMemoryCanonical :
    tiny.wf ∧ (tiny.withFetchWord 64 0).wf ∧ tiny.mem.hbm ≠ [] ∧ ∃ t, step tiny = .next t :=
  ⟨by decide +kernel, by decide +kernel, by decide +kernel, _, rfl⟩

/-! ## Witnesses: registers, guards and legality -/

/-- Clause by clause of IllegalWordsTrapAndGuardedOffWordsPass: an illegal encoding (add to k1), an illegal modifier (add with RND
1), a word that its guard k1 = 0 turns off, and a wave with no lane. -/
theorem witness_IllegalWords_encoding : placed tiny (fun w => !w.wordOk 0x00 (opShape 0x00 (en 0x300 385 4 6 0)) (en 0x300 385 4 6 0)) = true := by
  decide +kernel
theorem witness_IllegalWords_modifier : placed tiny (fun w => w.wordOk 0x00 (opShape 0x00 (en 0x310 2 4 6 0)) (en 0x310 2 4 6 0)
    && !modifierOk (opShape 0x00 (en 0x310 2 4 6 0)) (en 0x310 2 4 6 0)) = true := by decide +kernel
theorem witness_IllegalWords_guardedOff :
    let e : Enc := { en 0x300 2 4 6 0 with gmask := 1#3 }
    placed tiny (fun w => w.wordOk 0x00 (opShape 0x00 e) e && modifierOk (opShape 0x00 e) e
      && !isPerformed 0x00 (isVector (opShape 0x00 e) e) (laneOn w e) (w.k0 &&& laneOn w e)) = true := by decide +kernel
theorem witness_IllegalWords_noLane :
    let e := en 0x300 2 4 6 0
    placed (tinyW fun w => { w with exec := 0#32 }) (fun w => w.wordOk 0x00 (opShape 0x00 e) e && modifierOk (opShape 0x00 e) e
      && w.exec = 0#32) = true
    ∧ placed (tinyW fun w => { w with exec := 0#32 }) (fun w => let r := en 256 258 264 0 0
      w.wordOk 0x46 (opShape 0x46 r) r && modifierOk (opShape 0x46 r) r && !isVector (opShape 0x46 r) r) = true := by decide +kernel

/-- A result for a v register or pair, for an s pair at the top, and for a k register. -/
theorem witness_ResultsReachRegisters_v : ∃ c, Issued 0x00 (en 0x300 255 4 6 0) tiny c ∧ c.s.wave? c.wid = some c.w ∧ c.vec = true
    ∧ Dst.of c.e.dst = .v 255 := meets (by decide +kernel)
theorem witness_ResultsReachRegisters_s : ∃ c, Issued 0x17 (en 0x580 (256 + 126) 264 0 0) tiny c ∧ c.s.wave? c.wid = some c.w ∧ c.vec = false
    ∧ Dst.of c.e.dst = .s 126 := meets (by decide +kernel)
theorem witness_ResultsReachRegisters_k : ∃ c, Issued 0x17 (en 0x500 391 264 0 0) tiny c ∧ c.s.wave? c.wid = some c.w ∧ c.vec = false
    ∧ Dst.of c.e.dst = .k 7 := meets (by decide +kernel)

theorem witness_FrameRegisterOnly_class : ∃ c, Issued 0x29 (en 0x600 386 4 6 0) (withV [(6, List.replicate 32 1023)] tiny) c
    ∧ ∀ l < 32, c.src (en 0x600 386 4 6 0).b .b32 l < 1024 := meets (by decide +kernel)
theorem witness_FrameRegisterOnly_isect : ∃ c, Issued 0xA4 (en 768 2 4 6 268) tiny c ∧ (0xA4#8 = 0xA3#8 ∨ 0xA4#8 = 0xA4#8) :=
  meets (by decide +kernel)

/-! ## Witnesses: arithmetic -/

theorem witness_IntegerArithmetic_field : (31 : Nat) < 32 ∧ 0 < 1 ∧ 1 ≤ 32 - 31 := by decide
theorem witness_ComparesWriteMasks_classIn : ∃ c, Issued 0x29 (en 0x600 386 4 6 0) (withV [(6, List.replicate 32 1023)] tiny) c
    ∧ c.vec = true ∧ ∀ l < 32, c.lanes.getLsbD l = true → c.src (en 0x600 386 4 6 0).b .b32 l < 1024 := meets (by decide +kernel)
theorem witness_ComparesWriteMasks_classOut : ∃ c, Issued 0x29 (en 0x600 386 4 6 0) (withV [(6, List.replicate 31 0 ++ [1024])] tiny) c
    ∧ c.vec = true ∧ ∃ l < 32, c.lanes.getLsbD l = true ∧ 1024 ≤ c.src (en 0x600 386 4 6 0).b .b32 l := meets (by decide +kernel)
theorem witness_ComparesWriteMasks_scalar : ∃ c, Issued 0x29 (en 0x600 386 264 266 0) (withS [(10, 1024)] tiny) c
    ∧ c.vec = false ∧ 1024 ≤ c.src (en 0x600 386 264 266 0).b .b32 c.lane0 := meets (by decide +kernel)
theorem witness_ComparesWriteMasks_conditions :
    (5 : Nat) < 6 ∧ Fmt.f32.value 0x7FC00000 = .nan ∧ Fmt.f32.value 0 ≠ .nan ∧ Fmt.f32.value 0x80000000 ≠ .nan := by decide +kernel
theorem witness_SignsExtremesAndIntegralValues_nans :
    Fmt.f16.value 0x7E00 = .nan ∧ Fmt.f16.value 0x3C00 ≠ .nan ∧ (Fmt.f16.value 0).isZero = true ∧ (Fmt.f16.value 0x8000).isZero = true
      ∧ (Fmt.f16.value 0).neg? ≠ (Fmt.f16.value 0x8000).neg? := by decide +kernel
theorem witness_RoundingAndSpecialCases :
    0xFF7FFFFF < 2 ^ (Fmt.f32.signBit + Fmt.f32.signed.toNat) ∧ Fmt.f32.value 0xFF7FFFFF ≠ .nan ∧ Fmt.f32.signed = true
      ∧ 0xFE < 2 ^ (Fmt.e8m0.signBit + Fmt.e8m0.signed.toNat) ∧ Fmt.e8m0.value 0xFE ≠ .nan ∧ (1 : Nat) ≠ 0 := by decide +kernel
theorem witness_ShufflesSelectSourceLanes : ∃ c, Issued 0x45 (en 1280 2 4 6 0) tiny c ∧ 0x40 ≤ 0x45 ∧ 0x45 ≤ 0x45 := meets (by decide +kernel)

/-! ## Witnesses: control flow -/

/-- loop s9: counter in s9 (A 265), offset in DST and C; and a word whose A is a v register. -/
theorem witness_LoopCountsDown_refused : ∀ n, Sel.of (en 0 511 4 0 1022).a ≠ .s n := by intro n h; cases h
theorem witness_LoopCountsDown_off :
    let e := en 0 511 265 0 1022
    placed (tinyW fun w => { w with exec := 0#32 }) (fun w => w.wordOk 0x53 (opShape 0x53 e) e && modifierOk (opShape 0x53 e) e
      && w.k0 &&& laneOn w e = 0#32) = true := by decide +kernel
theorem witness_LoopCountsDown_on :
    let e := en 0 511 265 0 1022
    placed tiny (fun w => w.wordOk 0x53 (opShape 0x53 e) e && modifierOk (opShape 0x53 e) e
      && decide (w.k0 &&& laneOn w e ≠ 0#32) && w.sregs.getD 9 0#32 - 1#32 ≠ 0#32) = true
    ∧ placed (withS [(9, 1)] tiny) (fun w => w.sregs.getD 9 0#32 - 1#32 = 0#32) = true := by decide +kernel

/-- split k1: at depth 8, with lanes left, with none left, and guarded off; join with and without an entry. -/
theorem witness_Split_full : ∃ c, Issued 0x51 (en 0 0 385 0 5) (tinyW fun w => { w with stack := List.replicate 8 (0#64, 0#32) }) c
    ∧ c.w.stack.length = 8 := meets (by decide +kernel)
theorem witness_Split_narrows : ∃ c, Issued 0x51 (en 0 0 385 0 5) (tinyW fun w => { w with
      stack := List.replicate 7 (0#64, 0#32), kregs := w.kregs.set 1 0x80000000#32 }) c
    ∧ c.w.stack.length < 8 ∧ c.w.exec &&& c.w.kregs.getD 1 0#32 ≠ 0#32 := meets (by decide +kernel)
theorem witness_Split_branches : ∃ c, Issued 0x51 (en 0 0 385 0 5) tiny c
    ∧ c.w.stack.length < 8 ∧ c.w.exec &&& c.w.kregs.getD 1 0#32 = 0#32 := meets (by decide +kernel)
theorem witness_Join_empty : ∃ c, Issued 0x52 (en 0 0 0 0 0) tiny c ∧ c.w.stack = [] := meets (by decide +kernel)
theorem witness_Join_pops : ∃ c, Issued 0x52 (en 0 0 0 0 0) (tinyW fun w => { w with stack := [(8#64, 5#32)] }) c
    ∧ c.w.stack = (8#64, 5#32) :: [] := meets (by decide +kernel)
theorem witness_Split_off :
    let e : Enc := { en 0 0 385 0 5 with gmask := 1#3 }
    placed tiny (fun w => w.wordOk 0x51 (opShape 0x51 e) e && modifierOk (opShape 0x51 e) e && laneOn w e = 0#32) = true := by
  decide +kernel
theorem witness_K0_userMode : ∃ w, tiny.wave? 0 = some w ∧ w.mode.getLsbD 8 = false := ⟨_, rfl, by decide +kernel⟩

theorem witness_Ret_aligned : ∃ c, Issued 0x55 (en 0 0 264 0 0) (withS [(8, 8)] tiny) c ∧ (c.w.spair 8).toNat % 8 = 0
    ∧ Sel.of (en 0 0 264 0 0).a = .s 8 := meets (by decide +kernel)
theorem witness_Jmp_misaligned : ∃ c, Issued 0x56 (en 0 0 264 0 0) (withS [(8, 4)] tiny) c ∧ (c.w.spair 8).toNat % 8 ≠ 0 := meets (by decide +kernel)

/-! ## Witnesses: loads and stores -/

/-- st.g.b32 [s8 + v6], v2 and its scratchpad, scatter and release forms (fields MOD, DST 511, A, B, C). -/
def stEnc : Enc := en 0x500 511 264 6 2
theorem witness_Stores_buffered : ∃ c, Issued 0x61 stEnc (atPage tiny) c ∧
    (let ps := (c.pieces false false).filter (fun q => !c.isHelper q.lane)
     let ls := storeLines false (ps.map (fun q => (q, c.src stEnc.c (tyOf stEnc) (c.readLane q.lane))))
     c.w.stage = 0 ∧ ordCode stEnc = 0 ∧ c.w.mode.getLsbD 8 = false ∧ (∀ q ∈ ps, c.cause false .store q = none)
       ∧ bufNeed c.w.buf ls ≤ bufFree c.w.buf) := meets (by decide +kernel)
theorem witness_Stores_scratchpad : ∃ c, Issued 0x69 stEnc tiny c ∧
    (let ps := (c.pieces true true).filter (fun q => !c.isHelper q.lane)
     let ls := storeLines true (ps.map (fun q => (q, c.src stEnc.c (tyOf stEnc) (c.readLane q.lane))))
     c.w.stage = 0 ∧ ordCode stEnc = 0 ∧ c.w.mode.getLsbD 8 = false ∧ (∀ q ∈ ps, c.cause true .store q = none)
       ∧ (∀ q ∈ ps, c.b.engineOwns (q.addr / 4096) = false) ∧ bufNeed c.w.buf ls ≤ bufFree c.w.buf) := meets (by decide +kernel)
/-- Beyond the allotment of one tile, 4,096 bytes: cause 21. -/
theorem witness_Stores_fault : ∃ c, Issued 0x63 stEnc (withS [(8, 4096)] tiny) c ∧ c.w.stage = 0
    ∧ ∃ q ∈ (c.pieces true false).filter (fun q => !c.isHelper q.lane), c.cause true .store q ≠ none := meets (by decide +kernel)
theorem witness_Stores_owned : ∃ c, Issued 0x63 stEnc (withS [(8, 4092)] (tinyB fun b => { b with engineOwned := [true] })) c ∧
    (let ps := (c.pieces true false).filter (fun q => !c.isHelper q.lane)
     (c.w.stage = 0 ∧ ∀ q ∈ ps, c.cause true .store q = none) ∧ c.w.mode.getLsbD 8 = false
       ∧ ∃ q ∈ ps, c.b.engineOwns (q.addr / 4096) = true) := meets (by decide +kernel)
/-- The buffer full, without and with AUTOC. -/
theorem witness_Stores_full (autoc : Bool) : ∃ c, Issued 0x61 stEnc
      (atPage (withBuf ((List.range 64).map (line55 false)) (tinyW fun w => { w with mode := if autoc then 2#32 else 0#32 }))) c ∧
    (let ps := (c.pieces false false).filter (fun q => !c.isHelper q.lane)
     let ls := storeLines false (ps.map (fun q => (q, c.src stEnc.c (tyOf stEnc) (c.readLane q.lane))))
     (c.w.stage = 0 ∧ ∀ q ∈ ps, c.cause false .store q = none) ∧ c.w.mode.getLsbD 8 = false
       ∧ ¬bufNeed c.w.buf ls ≤ bufFree c.w.buf ∧ c.w.mode.getLsbD 1 = autoc ∧ ordCode stEnc = 0) := by
  cases autoc <;> exact meets (by decide +kernel)
/-- ORD 2 at SCOPE blk: st.g.rel.blk. -/
theorem witness_Stores_release : ∃ c, Issued 0x61 (en 0x518 511 264 6 2) (atPage tiny) c ∧
    (let e := en 0x518 511 264 6 2
     let ps := (c.pieces false false).filter (fun q => !c.isHelper q.lane)
     let ls := storeLines false (ps.map (fun q => (q, c.src e.c (tyOf e) (c.readLane q.lane))))
     (c.w.stage = 0 ∧ ∀ q ∈ ps, c.cause false .store q = none) ∧ c.w.mode.getLsbD 8 = false
       ∧ bufNeed c.w.buf ls ≤ bufFree c.w.buf ∧ ordCode e = 2) := meets (by decide +kernel)
theorem witness_Stores_handler : ∃ c, Issued 0x63 stEnc (tinyW fun w => { w with mode := 0x100#32 }) c ∧
    (let ps := (c.pieces true false).filter (fun q => !c.isHelper q.lane)
     (c.w.stage = 0 ∧ ∀ q ∈ ps, c.cause true .store q = none) ∧ c.w.mode.getLsbD 8 = true
       ∧ ¬(∃ q ∈ ps, c.b.engineOwns (q.addr / 4096) = true) ∧ c.w.loads = [] ∧ ordCode stEnc = 0) := meets (by decide +kernel)

/-- ld.g.b32 v2, [s8 + v6] and its scratchpad and gather forms. -/
def ldEnc : Enc := en 0x500 2 264 6 0
/-- The hypotheses of Loadable, and those of AsksOnce for a line that the buffer does not hold. -/
abbrev loadableNow (c : Cx) (scr indexed : Bool) : Prop :=
  (∀ q ∈ c.pieces scr indexed, c.isHelper q.lane = false → c.cause scr .load q = none)
    ∧ (∀ q ∈ c.pieces scr indexed, c.b.engineOwns (q.addr / 4096) = false) ∧ (∀ q ∈ c.pieces scr indexed, c.cause scr .load q = none)
    ∧ c.w.mode.getLsbD 8 = false ∧ ∃ q ∈ c.pieces scr indexed, 0 < q.size ∧ bufByte c.w.buf scr q.addr = none
theorem witness_LoadsIssue_ldG : ∃ c, Issued 0x60 ldEnc (atPage tiny) c ∧ loadableNow c false false := meets (by decide +kernel)
theorem witness_LoadsIssue_gatG : ∃ c, Issued 0x66 ldEnc (atPage tiny) c ∧ loadableNow c false true := meets (by decide +kernel)
theorem witness_LoadsIssue_ldS : ∃ c, Issued 0x62 ldEnc (withS [(8, 4092)] tiny) c ∧ loadableNow c true false := meets (by decide +kernel)
theorem witness_LoadsIssue_gatS : ∃ c, Issued 0x68 ldEnc (withS [(8, 4092)] tiny) c ∧ loadableNow c true true := meets (by decide +kernel)
theorem witness_LoadsIssue_owned : ∃ c, Issued 0x62 ldEnc (tinyB fun b => { b with engineOwned := [true] }) c
    ∧ (∀ q ∈ c.pieces true false, c.isHelper q.lane = false → c.cause true .load q = none)
    ∧ (c.w.mode.getLsbD 8 && decide (c.w.phase ≠ .plain)) = false
    ∧ (∃ q ∈ c.pieces true false, c.cause true .load q = none ∧ c.b.engineOwns (q.addr / 4096) = true)
    ∧ (∀ q ∈ c.pieces true false, c.isHelper q.lane = false) ∧ c.w.stage = 0 := meets (by decide +kernel)
/-- Address 0 has no page: cause 16. -/
theorem witness_LoadsIssue_fault : ∃ c, Issued 0x60 ldEnc tiny c
    ∧ ∃ q ∈ c.pieces false false, c.isHelper q.lane = false ∧ c.cause false .load q ≠ none := meets (by decide +kernel)
/-- ld.c with window 0 at the mapped page, two words long: offset 4 is its last word, offset 8 beyond. -/
theorem witness_LoadsIssue_window :
    let s := (withV [(6, 4 :: List.replicate 31 8)] tiny).updGrid 0 (fun g => { g with launch := { g.launch with record := { g.launch.record with
      winBase := List.replicate 8 0x10000#64, winSize := List.replicate 8 2 } } })
    ∃ c, Issued 0x64 (en 0x500 2 448 6 0) s c ∧ c.window.1 % 4 = 0
      ∧ ∀ l ∈ c.accessLanes, c.isHelper l = false → c.windowOffset l % c.size = 0
        ∧ ∀ i < c.size, c.windowOffset l + i < 4 * c.window.2 →
          (c.s.translate c.w.core c.part .load (c.window.1 + 4 * ((c.windowOffset l + i) / 4))).toOption.isSome = true := meets (by decide +kernel)
/-- pf of one line, with hint 0 and 3, at the mapped page and at address 0, which has none. -/
theorem witness_LoadsIssue_pf (hn mapped : Bool) :
    let e := en (if hn then 3 else 0) 511 264 266 0
    ∃ c, Issued 0x6A e (if mapped then atPage tiny else tiny) c ∧ c.accessLanes = [0] ∧ hintCode e = (if hn then 3 else 0)
    ∧ (match c.s.translate c.w.core c.part .load (c.ea (c.readLane 0)) with
      | .ok pl => mapped && c.s.extentHere pl.space (pl.pa / 64) && !c.s.poisonedAt pl.space (pl.pa / 64)
      | .error _ => !mapped) = true := by cases hn <;> cases mapped <;> exact meets (by decide +kernel)
/-- tld of tensor 1 by the indices in v6 and v7, all 0: every lane's element lies in the mapped page. -/
theorem witness_LoadsIssue_tld : ∃ c, Issued 0x65 (en 1280 2 264 6 0) (withS [(8, 1)] (withV [(6, List.replicate 32 0), (7, List.replicate 32 0)] (withTensors tiny))) c
    ∧ c.n32 (en 1280 2 264 6 0).a = 1 ∧ (match c.tensor 1 with
      | .error _ => false
      | .ok (t0, _) => decide (6 + TEntry.ndim t0 + 1 ≤ c.w.vregs.length) && !TEntry.isNf4b t0 && (List.range 32).all (fun l => (c.tldIndex t0 6 l).any (fun ix =>
          (List.range 4).all (fun i => (c.s.translate c.w.core c.part .load ((TEntry.elemByte t0 ix).1 + i)).toOption.isSome)))) = true :=
  meets (by decide +kernel)

/-! ## Witnesses: commits -/

theorem witness_CommitsKeepTheWavesView (lvl : Fin 3) : ∃ c, Issued 0x70 (en (16 * lvl) 511 0 0 0) (buffered tiny) c ∧
    (c.commitStart lvl).toOption.any (fun t => (t.wave? c.wid).isSome && (t.block? c.w.blk).isSome) = true ∧ c.w.loads = []
      ∧ c.s.wave? c.wid = some c.w ∧ c.s.block? c.w.blk = some c.b ∧ (c.s.cluster? c.b).isSome = true
      ∧ linesOk (bufLines c.w.buf) = true ∧ linesOk c.b.lines = true ∧ linesOk (c.s.clusterLines c.b) = true ∧ (∀ p ∈ c.b.lines, p.scr = false)
      ∧ c.b.scr.wf := by
  match lvl with
  | 0 => exact meets (by decide +kernel)
  | 1 => exact meets (by decide +kernel)
  | 2 => exact meets (by decide +kernel)

theorem witness_Commit_moves (lvl : Fin 3) : ∃ c, Issued 0x70 (en (16 * lvl) 511 0 0 0) (buffered tiny) c ∧ c.w.stage = 0 ∧ c.w.loads = []
    ∧ c.s.block? c.w.blk = some c.b
    ∧ ((bufLines c.w.buf).filter (fun p => p.scr)).any (fun p => c.b.engineOwns (p.line / 64)) = false
    ∧ c.noRoom lvl (c.s.pathLines c.w c.b lvl) = false ∧ c.mayLog 1 = true ∧ (c.s.cluster? c.b).isSome = true := by
  match lvl with
  | 0 => exact meets (by decide +kernel)
  | 1 => exact meets (by decide +kernel)
  | 2 => exact meets (by decide +kernel)
theorem witness_Commit_held : ∃ c, Issued 0x70 (en 16 511 0 0 0) (buffered (tinyB fun b => { b with engineOwned := [true] })) c ∧ c.w.stage = 0
    ∧ c.w.loads = [] ∧ c.s.block? c.w.blk = some c.b
    ∧ ((bufLines c.w.buf).filter (fun p => p.scr)).any (fun p => c.b.engineOwns (p.line / 64)) = true := meets (by decide +kernel)
/-- 1,024 lines at block level and one more in the buffer. -/
theorem witness_Commit_noRoom : ∃ c, Issued 0x70 (en 0 511 0 0 0) (buffered (tinyB fun b => { b with
      lines := (List.range 1024).map (fun l => { line55 false 0 with line := 0x800 + l }) })) c ∧ c.w.stage = 0
    ∧ c.w.loads = [] ∧ c.s.block? c.w.blk = some c.b
    ∧ ((bufLines c.w.buf).filter (fun p => p.scr)).any (fun p => c.b.engineOwns (p.line / 64)) = false
    ∧ c.noRoom 0 (c.s.pathLines c.w c.b 0) = true := meets (by decide +kernel)
/-- commit.wave.x k2 with a byte of the buffer recorded as wave 7's, and without. -/
theorem witness_CommitX_clash : ∃ c, Issued 0x71 (en 0 386 0 0 0) (buffered (tinyB fun b => { b with owners := [(2 * 0x10000, 7)] })) c
    ∧ c.b.conflicts c.wid (bufLines c.w.buf) = true := meets (by decide +kernel)
theorem witness_CommitX_clear : ∃ c, Issued 0x71 (en 0 386 0 0 0) (buffered tiny) c ∧ c.b.conflicts c.wid (bufLines c.w.buf) = false
    ∧ c.w.stage = 0 ∧ (c.commitStart 0).toOption.any (fun s1 => (s1.wave? c.wid).isSome) = true := meets (by decide +kernel)
theorem witness_Abort (lvl : Fin 3) : ∃ c, Issued 0x72 (en (16 * lvl) 511 0 0 0) (buffered tiny) c ∧ c.mayLog 2 = true
    ∧ c.s.block? c.w.blk = some c.b ∧ (c.s.cluster? c.b).isSome = true := by
  match lvl with
  | 0 => exact meets (by decide +kernel)
  | 1 => exact meets (by decide +kernel)
  | 2 => exact meets (by decide +kernel)
/-- acq.dev with an L1 copy of line 0x400 to leave out. -/
theorem witness_Acq : ∃ c, Issued 0x73 (en 48 511 0 0 0) { tiny with mem := { tiny.mem with
      copies := [⟨true, 0, .hbm, false, 0x400, List.replicate 64 0#8, 0, none⟩] } } c ∧ c.s.wave? c.wid = some c.w
    ∧ (∃ x ∈ c.s.mem.copies, x.fill ≤ c.s.now) ∧ scopeCode (en 48 511 0 0 0) = 3 := meets (by decide +kernel)

/-! ## Witnesses: barriers -/

/-- Barrier 15 of the block: the only wave completes the phase; one of two arrives; a wave that attached in the phase is held. -/
theorem witness_BarBlk_completes : ∃ c s1, Issued 0x74 (en 15 511 0 0 0) tiny c ∧ (∀ k, c.commit 0 k = k s1) ∧
    ((s1.wave? c.wid).isSome = true ∧ c.w.stage ≠ 9 ∧ ∃ b1 ∈ s1.block? c.b.uid, 15 < b1.bars.length ∧ b1.members ≠ [] ∧ (b1.bar .blk 15).held = []
      ∧ c.wid ∉ (b1.bar .blk 15).arrived ∧ c.wid ∉ (b1.bar .blk 15).attached ∧ (b1.bar .blk 15).arrived.length + 1 = (b1.bar .blk 15).expect) :=
  meets_commit (by decide +kernel)
theorem witness_BarBlk_arrives : ∃ c s1, Issued 0x75 (en 15 511 0 0 0) (inPhase [0, 1] { expect := 2 } tiny) c ∧ (∀ k, c.commit 0 k = k s1) ∧
    ((s1.wave? c.wid).isSome = true ∧ c.w.stage ≠ 9 ∧ ∃ b1 ∈ s1.block? c.b.uid, 15 < b1.bars.length ∧ b1.members ≠ [] ∧ (b1.bar .blk 15).held = []
      ∧ c.wid ∉ (b1.bar .blk 15).arrived ∧ c.wid ∉ (b1.bar .blk 15).attached ∧ (b1.bar .blk 15).arrived.length + 1 < (b1.bar .blk 15).expect) :=
  meets_commit (by decide +kernel)
theorem witness_BarBlk_held : ∃ c s1, Issued 0x74 (en 15 511 0 0 0) (inPhase [0, 1] { expect := 1, attached := [0] } tiny) c ∧ (∀ k, c.commit 0 k = k s1) ∧
    ((s1.wave? c.wid).isSome = true ∧ c.w.stage ≠ 9 ∧ ∃ b1 ∈ s1.block? c.b.uid, 15 < b1.bars.length ∧ b1.members ≠ [] ∧ (b1.bar .blk 15).held = []
      ∧ (c.wid ∈ (b1.bar .blk 15).arrived ∨ c.wid ∈ (b1.bar .blk 15).attached) ∧ (b1.bar .blk 15).arrived.length < (b1.bar .blk 15).expect) :=
  meets_commit (by decide +kernel)
/-- Waiting for phase 1, while it is open and once it has passed. -/
theorem witness_BarBlk_waits (passed : Bool) : ∃ c s1, Issued 0x74 (en 15 511 0 0 0)
      (inPhase [0, 1] { expect := 2, phase := if passed then 2 else 1 } (tinyW fun w => { w with stage := 9, aux := 1 })) c ∧ (∀ k, c.commit 0 k = k s1) ∧
    (c.w.stage = 9 ∧ s1 = c.s ∧ ∃ b1 ∈ s1.block? c.b.uid, if passed then c.w.aux < (b1.bar .blk 15).phase else (b1.bar .blk 15).phase ≤ c.w.aux) := by
  have h : ∃ c, Issued 0x74 (en 15 511 0 0 0)
      (inPhase [0, 1] { expect := 2, phase := if passed then 2 else 1 } (tinyW fun w => { w with stage := 9, aux := 1 })) c ∧
      (c.w.stage = 9 ∧ ∃ b1 ∈ c.s.block? c.b.uid, if passed then c.w.aux < (b1.bar .blk 15).phase else (b1.bar .blk 15).phase ≤ c.w.aux) := by
    cases passed <;> exact meets (by decide +kernel)
  obtain ⟨c, h1, h2, h3⟩ := h
  exact ⟨c, c.s, h1, committed_eq (by simp [committed, h2]), h2, rfl, h3⟩
theorem witness_BarWt (arrived : Bool) : ∃ c s1, Issued 0x76 (en 15 511 0 0 0)
      (inPhase [0, 1] { expect := 2, arrived := if arrived then [0] else [] } tiny) c ∧ (∀ k, c.commit 0 k = k s1) ∧
    (s1.block? c.b.uid = some c.b ∧ if arrived then c.wid ∈ (c.b.bar .blk 15).arrived else c.wid ∉ (c.b.bar .blk 15).arrived) := by
  cases arrived <;> exact meets_commit (by decide +kernel)

/-- Cluster and grid barrier 3: arriving in a block of two, completing it and its cluster, and waiting. -/
theorem witness_BarClus_arrives : ∃ c s1, Issued 0x99 (en 3 511 0 0 0) (inPhase [0, 1] { expect := 2 } tiny) c ∧ (∀ k, c.commit 2 k = k s1) ∧
    (c.w.stage ≠ 9 ∧ (s1.wave? c.wid).isSome = true ∧ ∃ b1 ∈ s1.block? c.b.uid, 3 < b1.cbars.length ∧ b1.members ≠ [] ∧ c.wid ∉ (b1.bar .clus 3).arrived
      ∧ c.wid ∉ (b1.bar .clus 3).attached ∧ (b1.bar .clus 3).held = [] ∧ (b1.bar .clus 3).arrived.length + 1 < (b1.bar .clus 3).expect
      ∧ s1.phaseDone c.b.uid .clus 3 (b1.bar .clus 3).phase = false) := meets_commit (by decide +kernel)
theorem witness_BarClus_completes : ∃ c s1, Issued 0x99 (en 3 511 0 0 0) tiny c ∧ (∀ k, c.commit 2 k = k s1) ∧
    (c.w.stage ≠ 9 ∧ (s1.wave? c.wid).isSome = true ∧ ∃ b1 ∈ s1.block? c.b.uid, (s1.grid? b1.grid).isSome = true ∧ 3 < b1.cbars.length ∧ b1.members ≠ []
      ∧ c.wid ∉ (b1.bar .clus 3).arrived ∧ c.wid ∉ (b1.bar .clus 3).attached ∧ (b1.bar .clus 3).held = []
      ∧ (b1.bar .clus 3).arrived.length + 1 = (b1.bar .clus 3).expect
      ∧ ((s1.cluster? b1).bind (fun x => x.bars[3]?)).any (fun q => decide (q.held = [] ∧ q.phase = (b1.bar .clus 3).phase
        ∧ c.b.uid ∉ q.arrived ∧ q.arrived.length + 1 = q.expect)) = true) :=
  meets_commit (by decide +kernel)
theorem witness_BarGrid_completes : ∃ c s0, Issued 0x9A (en 3 511 0 0 0) tiny c ∧ (∀ k, c.commit 3 k = k s0) ∧
    (c.w.stage ≠ 9 ∧ ((s0.seUse c.g.launch.die ⟨.grid, c.g.uid⟩).bind (fun s => s.seUse c.g.launch.die ⟨.waiter, c.wid⟩)).any (fun s1 =>
      (s1.wave? c.wid).isSome && (s1.block? c.b.uid).any (fun b1 => decide (3 < b1.gbars.length ∧ b1.members ≠ []
      ∧ c.wid ∉ (b1.bar .grid 3).arrived ∧ c.wid ∉ (b1.bar .grid 3).attached ∧ (b1.bar .grid 3).held = []
      ∧ (b1.bar .grid 3).arrived.length + 1 = (b1.bar .grid 3).expect
      ∧ ((s1.grid? b1.grid).bind (fun g1 => g1.gbars[3]?)).any (fun q => decide (q.held = [] ∧ q.phase = (b1.bar .grid 3).phase
        ∧ c.b.uid ∉ q.arrived ∧ q.arrived.length + 1 = q.expect)) = true))) = true) :=
  meets_commit (by decide +kernel)
theorem witness_BarGrid_waits (passed : Bool) : ∃ c, Issued 0x9A (en 3 511 0 0 0) (tinyW fun w => { w with stage := 9, aux := if passed then 0 else 1 }) c
    ∧ c.w.stage = 9 ∧ c.s.phaseDone c.b.uid .grid 3 c.w.aux = passed ∧ (c.s.seUse c.g.launch.die ⟨.waiter, c.wid⟩).isSome = true := by
  cases passed <;> exact meets (by decide +kernel)

/-! ## Witnesses: memory-resident barriers and owner bits -/

theorem witness_MbarInit (sig : Bool) (count : Bool) : ∃ c, Issued 0x9B (en 0 511 264 266 268)
      (withS [(10, if count then 2 else 0), (12, if sig then 2 ^ 17 - 1 else 2 ^ 17)] (atPage tiny)) c
    ∧ (c.object (c.addr (en 0 511 264 266 268).a)).toOption.any (fun pl => (c.s.seUse (c.s.objDie pl) ⟨.object, pl.pa / 64⟩).isSome) = true
    ∧ c.mayLog 3 = true ∧ quietNow c c.s
    ∧ (if sig then c.n32 (en 0 511 264 266 268).c < 2 ^ 17 else 2 ^ 17 ≤ c.n32 (en 0 511 264 266 268).c)
    ∧ ((BitVec.ofNat 32 (c.n32 (en 0 511 264 266 268).b) = 0#32) ↔ count = false) := by
  cases sig <;> cases count <;> exact meets (by decide +kernel)
/-- Arrivals of count 1: at an object that is not valid, with nothing pending, with two pending and with one. -/
theorem witness_MbarArv (valid : Bool) (pending : Fin 3) : ∃ c s1, Issued 0x9C (en 0 258 264 266 0)
      (withObj pending 2 0 (if valid then 2 ^ 17 else 0) (withS [(10, 1)] (atPage tiny))) c ∧ (∀ k, c.commit 3 k = k s1) ∧
    ((c.object (c.addr (en 0 258 264 266 0).a)).toOption.any (fun pl => s1.mbarValid pl = valid && s1.mbarPending pl = BitVec.ofNat 32 pending
        && (s1.seUse (c.s.objDie pl) ⟨.object, pl.pa / 64⟩).isSome && !(s1.objWord pl 2).getLsbD 16) = true
      ∧ s1.mayStep c.part 3 (agentOf c.w) 16 = true ∧ quietNow c s1 ∧ (s1.wave? c.wid).isSome = true) := by
  cases valid <;> match pending with
    | 0 => exact meets_commit (by decide +kernel)
    | 1 => exact meets_commit (by decide +kernel)
    | 2 => exact meets_commit (by decide +kernel)
/-- Waits for phase 0 (s10-s11): not valid, with the phase at 1, at 0, and 2^63 ahead. -/
theorem witness_MbarWait (valid : Bool) (phase : Fin 3) : ∃ c, Issued 0x9D (en 0 511 264 266 0)
      (withObj 1 1 (if phase = 2 then 2 ^ 63 else phase) (if valid then 2 ^ 17 else 0) (atPage tiny)) c ∧ c.s.mem.wf ∧ c.w.stage ≠ 11
    ∧ (c.object (c.addr (en 0 511 264 266 0).a)).toOption.any (fun pl => c.s.mbarValid pl = valid
        && (c.s.objWord pl 1 - BitVec.ofNat 64 (c.uni (en 0 511 264 266 0).b .n64)).toNat = (if phase = 2 then 2 ^ 63 else phase.val)
        && ((c.s.seUse (c.s.objDie pl) ⟨.object, pl.pa / 64⟩).bind (fun s => s.seUse (c.s.objDie pl) ⟨.waiter, c.wid⟩)).isSome) = true := by
  cases valid <;> match phase with
    | 0 => exact meets (by decide +kernel)
    | 1 => exact meets (by decide +kernel)
    | 2 => exact meets (by decide +kernel)

/-- A wait for phase 0 that goes on, with the phase at 1 and at 0. -/
theorem witness_MbarWait_waits (phase : Fin 2) : ∃ c, Issued 0x9D (en 0 511 264 266 0)
      (withObj 1 1 phase (2 ^ 17) (atPage (tinyW fun w => { w with stage := 11, aux := 0x10000 }))) c ∧ c.s.mem.wf ∧ c.w.stage = 11
    ∧ (c.object (c.addr (en 0 511 264 266 0).a)).toOption.isSome = true
    ∧ (let q : Place := { space := .hbm, pa := c.w.aux, ss := false }
       (c.s.objWord q 1 - BitVec.ofNat 64 (c.uni (en 0 511 264 266 0).b .n64)).toNat = phase
       ∧ (c.s.seUse (c.s.objDie q) ⟨.waiter, c.wid⟩).isSome = true) := by
  match phase with
  | 0 => exact meets (by decide +kernel)
  | 1 => exact meets (by decide +kernel)

/-- own.give and own.tst of one tile of one: count 0, beyond the allotment, owned and free. -/
theorem witness_Own (op : Bool) (first count : Fin 2) (owned : Bool) :
    let e := if op then en 0 511 264 266 0 else en 0 386 264 266 0
    ∃ c, Issued (if op then 0x77 else 0x78) e (withS [(8, first), (10, count)] (buffered (tinyB fun b => { b with engineOwned := [owned] }))) c
    ∧ c.s.block? c.b.uid = some c.b ∧ c.b.uid = c.w.blk ∧ c.w.loads = [] ∧ c.w.stage = 0 ∧ c.mayLog 1 = true ∧ c.s.wave? c.wid = some c.w
    ∧ c.n32 e.a = first ∧ c.n32 e.b = count ∧ c.b.ntiles = 1 ∧ c.b.engineOwned.getD 0 false = owned := by
  cases op <;> cases owned <;> match first, count with
    | 0, 0 => exact meets (by decide +kernel)
    | 0, 1 => exact meets (by decide +kernel)
    | 1, 0 => exact meets (by decide +kernel)
    | 1, 1 => exact meets (by decide +kernel)

/-! ## Witnesses: exceptions and system instructions -/

theorem witness_Bkpt (debug : Bool) : ∃ c, Issued 0x87 (en 0 511 264 0 0) (tiny.updPart 0 fun p => { p with dbgCtl := if debug then 1#4 else 0#4 }) c
    ∧ (((c.s.part c.part).dbgCtl.getLsbD 0 = true ∧ c.w.mode.getLsbD 9 = false) ↔ debug = true) := by
  cases debug <;> exact meets (by decide +kernel)
theorem witness_Yield (preq hnd : Bool) : ∃ c, Issued 0x82 (en 0 511 0 0 0) (tinyW fun w => { w with preq := preq, mode := if hnd then 0x100#32 else 0#32 }) c
    ∧ ¬(c.w.mode.getLsbD 8 = true ∧ c.w.phase = .save) ∧ c.w.preq = preq ∧ c.w.mode.getLsbD 8 = hnd := by
  cases preq <;> cases hnd <;> exact meets (by decide +kernel)
theorem witness_Yield_saving (acks : Fin 2) : ∃ c, Issued 0x82 (en 0 511 0 0 0) (tinyW fun w => { w with mode := 0x300#32, phase := .save, acks := acks }) c
    ∧ (c.w.mode.getLsbD 8 = true ∧ c.w.phase = .save) ∧ c.w.acks = acks := by
  match acks with
  | 0 => exact meets (by decide +kernel)
  | 1 => exact meets (by decide +kernel)
/-- sleep s8: the count 0 and 1 at its start, and the wait before and at its end; and with a request. -/
theorem witness_Sleep (count : Fin 2) : ∃ c, Issued 0x88 (en 0 511 264 0 0) (withS [(8, count)] tiny) c ∧ c.w.preq = false ∧ c.w.stage = 0
    ∧ c.src (en 0 511 264 0 0).a .n32 c.lane0 = count := by
  match count with
  | 0 => exact meets (by decide +kernel)
  | 1 => exact meets (by decide +kernel)
theorem witness_Sleep_waits (done_ preq : Bool) : ∃ c, Issued 0x88 (en 0 511 264 0 0) (tinyW fun w => { w with
      stage := 9, preq := preq, sleepEnd := if done_ then 0#64 else 1#64 }) c ∧ c.w.preq = preq ∧ c.w.stage = 9 ∧ (c.w.sleepEnd.toNat ≤ c.s.dieClk c.w.core ↔ done_ = true) := by
  cases done_ <;> cases preq <;> exact meets (by decide +kernel)

theorem witness_Rte (hnd : Bool) (acks : Fin 2) : ∃ c, Issued 0x81 (en 0 511 0 0 0) (tinyW fun w => { w with mode := if hnd then 0x300#32 else 0#32, acks := acks }) c
    ∧ c.s.wave? c.wid = some c.w ∧ c.w.mode.getLsbD 8 = hnd ∧ c.w.acks = acks := by
  cases hnd <;> match acks with
    | 0 => exact meets (by decide +kernel)
    | 1 => exact meets (by decide +kernel)

theorem witness_ExceptionsEnterTheHandler (masked : Bool) :
    ((tinyW fun w => { w with mode := if masked then 0x200#32 else 0#32 }).wave? 0).any (fun w => w.loads = [] && w.mode.getLsbD 9 = masked) = true := by
  cases masked <;> decide +kernel
theorem witness_ExceptionsEnterTheHandler_record : ({ laneCause := List.replicate 32 4#6 } : TrapRec).laneCause.length = 32 := by decide

/-- mode s8, s10 with mask 3 (all it may name) and 4. -/
theorem witness_Mode_in : ∃ c, Issued 0x83 (en 0 511 264 266 0) (withS [(8, 3)] tiny) c
    ∧ ∀ i < 32, 2 ≤ i → (BitVec.ofNat 32 (c.src (en 0 511 264 266 0).a .b32 c.lane0)).getLsbD i = false := meets (by decide +kernel)
theorem witness_Mode_out : ∃ c, Issued 0x83 (en 0 511 264 266 0) (withS [(8, 4)] tiny) c
    ∧ ∃ i < 32, 2 ≤ i ∧ (BitVec.ofNat 32 (c.src (en 0 511 264 266 0).a .b32 c.lane0)).getLsbD i = true := meets (by decide +kernel)
/-- rdpr and wrpr outside the handler, and inside with ids at the table's edges: unreadable 25, 29, 48, 0x100A, 0x1400; readable 24,
28, 47, 0x1009, 0x13F9; writable at any time 16, 23, 25; in a restore only 0, 15, 19, 26, 31, 0x13F9. -/
theorem witness_Rdpr_user : ∃ c, Issued 0x85 (en 0 258 264 0 0) tiny c ∧ ¬c.w.mode.getLsbD 8 = true := meets (by decide +kernel)
theorem witness_Wrpr_user : ∃ c, Issued 0x86 (en 0 511 264 266 0) tiny c ∧ ¬c.w.mode.getLsbD 8 = true := meets (by decide +kernel)
theorem witness_Rdpr_ids : ∀ n ∈ [25, 29, 48, 0x100A, 0x1400, 0, 24, 26, 28, 30, 47, 0x1000, 0x1009, 0x13F9],
    (testCx? 0x85 (en 0 258 264 0 0) (withS [(8, n)] (tinyW fun w => { w with mode := 0x300#32 }))).any (fun c =>
      c.w.mode.getLsbD 8 && c.src (en 0 258 264 0 0).a .n32 c.lane0 = n
        && (c.s.readPriv c.w n).isSome = (n ≤ 24 ∨ (26 ≤ n ∧ n ≤ 28) ∨ (30 ≤ n ∧ n ≤ 47) ∨ (0x1000 ≤ n ∧ n < 0x1400 ∧ n % 16 < 10))) = true := by decide +kernel
theorem witness_Wrpr_ids : ∀ n ∈ [0, 15, 16, 17, 18, 19, 20, 23, 24, 25, 26, 31, 47, 0x13F9, 0x13FA],
    (testCx? 0x86 (en 0 511 264 266 0) (withS [(8, n)] (tinyW fun w => { w with mode := 0x300#32, phase := .restore }))).any (fun c =>
      c.w.mode.getLsbD 8 && c.src (en 0 511 264 266 0).a .n32 c.lane0 = n && c.w.phase = .restore) = true := by decide +kernel
theorem witness_Wrpr_notRestoring : ∃ c, Issued 0x86 (en 0 511 264 266 0) (withS [(8, 15)] (tinyW fun w => { w with mode := 0x300#32 })) c
    ∧ c.w.mode.getLsbD 8 = true ∧ c.src (en 0 511 264 266 0).a .n32 c.lane0 = 15 ∧ ¬c.w.phase = .restore := meets (by decide +kernel)

/-! ## Witnesses: commits to device level -/

/-- commit.dev (SCOPE 3) and commit.sys (SCOPE 4) with one line of the mapped page, homed in HBM on die 0. -/
theorem witness_CommitsToDeviceLevel_moves (sys : Bool) :
    let e := en (if sys then 64 else 48) 511 0 0 0
    ∃ c, Issued 0x70 e (buffered tiny) c ∧ c.s.wave? c.wid = some c.w ∧ c.s.block? c.w.blk = some c.b ∧ c.b.uid = c.w.blk
    ∧ scopeCode e = (if sys then 4 else 3) ∧ c.w.stage = 0
    ∧ (scrLines c.w).any (fun p => c.b.engineOwns (p.line / 64)) = false ∧ c.mayLog 1 = true
    ∧ (c.s.placeLines c.w.core c.part (c.s.pathLines c.w c.b (scopeCode e))).toOption.any (fun ls => ls.length = 1
        && ls.all (fun x => x.2.space = .hbm && c.s.homeDie .hbm (x.2.pa / 64) = dieOf c.w.core && !c.s.stackHeld .hbm (x.2.pa / 64))) = true
    ∧ (∀ q ∈ c.w.sent, q.ofCommit = false) ∧ c.w.acks = 0 ∧ c.w.staged = [] ∧ c.s.mem.sysL2 = [] ∧ logging (c.s.part c.part) = false
    ∧ (c.s.part c.part).dbgCtl.getLsbD 3 = false ∧ replayHead (c.s.part c.part) = none := by
  cases sys <;> exact meets (by decide +kernel)
/-- A line of an unmapped page. -/
theorem witness_CommitsToDeviceLevel_fault : ∃ c, Issued 0x70 (en 48 511 0 0 0) (withBuf [line55 false 0] tiny) c ∧ c.w.stage = 0 ∧ c.w.loads = []
    ∧ (scrLines c.w).any (fun p => c.b.engineOwns (p.line / 64)) = false ∧ c.mayLog 1 = true
    ∧ (c.s.placeLines c.w.core c.part (c.s.pathLines c.w c.b 3)).toOption = none := meets (by decide +kernel)
/-- The waits: for publication, for lines of the commit, for system lines and for every line sent, and their ends. -/
theorem witness_CommitsToDeviceLevel_waits (stage : Fin 3) (staged : Bool) (acks : Fin 2) (sysL2 : Bool) :
    ∃ c, Issued 0x70 (en 64 511 0 0 0)
      { (tinyW fun w => { w with stage := stage + 1, staged := if staged then [⟨0x400, List.replicate 64 0x55#8, 1#64, 1#64, 0#64, false, .hbm, 0x400, false⟩] else [], acks := acks, sent := if acks = 0 then [] else [⟨.host, 0, List.replicate 64 0x55#8, 1#64, true, 0#64, 0, true⟩] }) with
        mem := { tiny.mem with sysL2 := if sysL2 then [(.host, line55 false 0)] else [] } } c
    ∧ c.w.stage = stage + 1 ∧ (c.w.staged = [] ↔ staged = false) ∧ c.w.acks = acks ∧ ((∀ q ∈ c.w.sent, q.ofCommit = false) ↔ acks = 0) ∧ (c.s.mem.sysL2 = [] ↔ sysL2 = false) := by
  cases staged <;> cases sysL2 <;> match stage, acks with
    | 0, 0 => exact meets (by decide +kernel)
    | 0, 1 => exact meets (by decide +kernel)
    | 1, 0 => exact meets (by decide +kernel)
    | 1, 1 => exact meets (by decide +kernel)
    | 2, 0 => exact meets (by decide +kernel)
    | 2, 1 => exact meets (by decide +kernel)

/-! ## Witnesses: events of waves and blocks -/

/-- Line 0x400 sent to its home in HBM, and line 0 to host memory. -/
def sentTwo (s : State) : State :=
  s.updWave 0 (fun w => { w with
    acks := 2
    sent := [⟨.hbm, 0x400, List.replicate 64 0x55#8, 1#64, false, 0#64, 0, true⟩, ⟨.host, 0, List.replicate 64 0x55#8, 1#64, true, 0#64, 0, true⟩] })
theorem witness_AckArrival :
    ((sentTwo tiny).wave? 0).any (fun w => (w.sent[0]?).any (fun l => !l.sysWrite) && (w.sent[1]?).any (fun l => l.sysWrite
      && (sentTwo tiny).extentHere l.space l.pline && !(sentTwo tiny).linkWaits l.space l.pline && l.space ≠ .hbm)) = true := by decide +kernel
/-- A line of the capacity tier in an extent that is not there. -/
theorem witness_AckArrival_linkDown :
    (tiny.updHub (fun h => { h with services := [{ id := 0, kind := .linkRecovery .host, running := true, blks := [] }] })).linkWaits .host 0 = true := by
  decide +kernel
theorem witness_AckArrival_extentGone : tiny.extentHere .tier 0 = false := by decide +kernel
/-- The bytes that a commit sent, its lines acknowledged but for those of the handler, one of its own not, and the stack of their home held. -/
theorem witness_CrossDiePublish (own held : Bool) :
    let s := buffered (tinyW fun w => { w with
      staged := [⟨0x400, List.replicate 64 0x55#8, 1#64, 1#64, 0#64, false, .hbm, 0x400, false⟩]
      acks := 1, sent := [⟨.host, 0, List.replicate 64 0x55#8, 1#64, true, 0#64, 0, own⟩] })
    let s := if held then stackBusy s else s
    ((s.wave? 0).any (fun w => (s.block? w.blk).isSome && w.staged ≠ [] && (w.sent.any Sent.ofCommit = own) && s.mayStep (s.partOfWave 0) 1 (agentOf w) 16
      && (w.staged.any (fun x => !x.scr && s.stackHeld x.space x.pline) = held)
      && !(s.part (s.partOfWave 0)).dbgCtl.getLsbD 3 && (replayHead (s.part (s.partOfWave 0))).isNone && w.staged.all (fun x => x.space = .hbm))) = true := by
  cases own <;> cases held <;> decide +kernel

theorem witness_AsyncCauseTaken (code : Fin 2) :
    let k : BitVec 6 := if code = 0 then 25#6 else 63#6
    let s := tinyW fun w => { w with pend := [⟨k, {}⟩] }
    (s.wave? 0).any (fun w => s.canRun w && w.atBoundary && !w.mode.getLsbD 9 && w.loads = []
      && (firstPending w.pend).any (fun p => p.code = k)) = true := by
  match code with
  | 0 => decide +kernel
  | 1 => decide +kernel
theorem witness_UncorrectableError (again : Bool) :
    ((tinyW fun w => { w with pend := if again then [⟨63#6, {}⟩] else [] }).wave? 0).any (fun w => w.pend.any (fun p => p.code = 63#6)) = again := by
  cases again <;> decide +kernel
/-- A fault queue of 16 records in the mapped page, with `n` records not yet read, or none. -/
def fqState (there : Bool) (n : Nat) : State :=
  tiny.updPart 0 (fun p => { p with fqBase := if there then 0x10000#64 else 0#64, fqSize := 4#64, fqWrite := BitVec.ofNat 64 n })
theorem witness_PostFault (there : Bool) (full : Bool) : let s := fqState there (if full then 16 else 15)
    let x := s.part 0
    (0 < s.parts.length && !s.hub.ckptRun && x.fqHeld.isEmpty && (decide (x.fqBase ≠ 0#64 ∧ x.fqBase.toNat % 64 = 0 ∧ 4 ≤ x.fqSize.toNat ∧ x.fqSize.toNat ≤ 16) = there)
      && (decide (2 ^ x.fqSize.toNat ≤ (x.fqWrite - x.fqRead).toNat) = full) && decide s.mem.wf
      && (!there || (s.translateDie 0 0 .store (x.fqBase.toNat + 32 * (x.fqWrite.toNat % 2 ^ x.fqSize.toNat))).toOption.any (fun pl => pl.space = .hbm))) = true := by
  cases there <;> cases full <;> decide +kernel
theorem witness_SleepExpiry (passed preq : Bool) :
    let s := tinyW fun w => { w with wait := .sleep, sleepEnd := if passed then 0#64 else 1#64, preq := preq }
    (s.wave? 0).any (fun w => w.wait = .sleep && (w.sleepEnd.toNat ≤ s.dieClk w.core || w.preq) = (passed || preq)) = true := by
  cases passed <;> cases preq <;> decide +kernel
theorem witness_WatchdogExpiry (passed : Bool) :
    let s := { tiny with clk := if passed then 1024#64 else 1023#64 }.updPart 0 (fun p => { p with wdog := 1#32 })
    (s.wave? 0).any (fun w => (s.part (s.partOfWave 0)).wdog.toNat ≠ 0 && !w.stopped && !w.barked && w.pend.all (fun p => p.code ≠ 50#6)
      && (decide (1024 ≤ s.dieSince w.core w.lastIssue) = passed)) = true := by cases passed <;> decide +kernel
theorem witness_DbgHalt :
    (tiny.wave? 0).any (fun w => tiny.partOfBlock w.blk = 0 && 0 < tiny.parts.length && w.pend.all (fun q => q.code ≠ 51#6)
      && (tiny.waves.map Wave.wid).Nodup) = true := by decide +kernel

/-- A block asked to save since clock 0, its deadline of 20,000 clocks passed. -/
theorem witness_PreemptDeadlineExpiry :
    let s := { tiny with clk := 20000#64 }.updBlock 0 (fun b => { b with pre := some ⟨.slice, 0#64, false⟩ })
    (s.block? 0).any (fun b => b.pre.any (fun r => b.status = .resident && !r.expired
      && (s.part (s.partOfBlock 0)).preDl.toNat ≤ s.dieSince b.core r.since)
      && b.members.any (fun w => (s.wave? w).any (fun x => !x.stopped && x.phase ≠ .save))) = true := by decide +kernel
theorem witness_BlockSave :
    let s := (tinyW fun w => { w with stopped := true, saveDone := true }).updBlock 0 (fun b => { b with pre := some ⟨.slice, 0#64, false⟩ })
    (s.block? 0).any (fun b => b.pre.any (fun r => b.status = .resident && r.why ≠ .swap && r.why ≠ .tadpole && s.membersSaved b && !s.blockCopies 0
      && (s.recordRun (s.partOfBlock 0)
        ((s.recordBytes b ((s.core b.core).acc.filter (fun x => x.owner = 0)).length + 65535) / 65536)).any
          (fun us => us = [0] && s.recordFault b.core (s.partOfBlock 0) .store us = none)
      && (s.grid? b.grid).isSome && b.core < s.cores.length && decide s.mem.wf)) = true := by decide +kernel
theorem witness_BlockRestore :
    let s := (withDesc (tinyW fun w => { w with stopped := true, saveDone := true, phase := .save })).updBlock 0 (fun b => { b with status := .restoring, recUnits := [0] })
    (s.block? 0).any (fun b => b.status = .restoring && (s.readCtx (s.partOfBlock 0)).2 = (true, 0) && (s.readCtx (s.partOfBlock 0)).1.handler ≠ 0#64
      && s.partOfBlock 0 < s.parts.length && b.core < s.cores.length
      && (s.loadCtx (s.partOfBlock 0)).tickNow.recordFault b.core (s.partOfBlock 0) .load b.recUnits = none
      && b.members.any (fun w => (s.wave? w).any (fun x => x.phase = .save))) = true := by decide +kernel

/-- A block whose cluster has another block resident, and one whose cluster has none. -/
def twoBlocks (s : State) : State := { s with blocks := s.blocks ++ s.blocks.map (fun b => { b with uid := 1 }) }
theorem witness_BlockRecord (two : Bool) : let s := if two then twoBlocks tiny else tiny
    (s.block? 0).any (fun b => (s.blocks.any (fun x => x.grid = b.grid && x.uid ≠ b.uid && x.status ≠ .saved
      && (s.cluster? x).any (fun c => (s.cluster? b).any (fun d => c.num = d.num)))) = two) = true := by cases two <;> decide +kernel

/-! ## Witnesses: atomics -/

/-- All 32 lanes at one word of the mapped page, at each level. -/
theorem witness_AtomicsAreSerial (lvl : Fin 5) :
    let e := en (0x500 + 16 * lvl) 2 264 448 6
    ∃ c, Issued 0x96 e (atPage tiny) c ∧ scopeCode e = lvl ∧ c.s.mem.wf ∧ c.w.loads = [] ∧ c.w.stage = 0 ∧ ordCode e ≤ 1
    ∧ c.atomPieces.length = 32
    ∧ (∀ q ∈ c.atomPieces, q.addr / 64 = 0x400 ∧ q.addr % q.size = 0 ∧ c.atomCause q = none
      ∧ (c.s.translate c.w.core c.part .atomic q.addr).toOption = some ⟨.hbm, 64 * 0x400 + q.addr % 64, false⟩)
    ∧ c.s.poisonedAt .hbm 0x400 = false ∧ c.s.stackHeld .hbm 0x400 = false
    ∧ bufNeed c.w.buf (storeLines false (c.atomPieces.map (fun q => (q, 0)))) ≤ bufFree c.w.buf
    ∧ c.noRoom lvl (storeLines false (c.atomPieces.map (fun q => (q, 0)))) = false ∧ (c.s.cluster? c.b).isSome = true
    ∧ (c.s.part c.part).dbgCtl.getLsbD 3 = false ∧ (c.s.part c.part).replayPh ≠ .running
    ∧ (c.s.seUse (c.s.homeDie .hbm 0x400) ⟨.line, 0x400⟩).isSome = true := by
  match lvl with
  | 0 => exact meets (by decide +kernel)
  | 1 => exact meets (by decide +kernel)
  | 2 => exact meets (by decide +kernel)
  | 3 => exact meets (by decide +kernel)
  | 4 => exact meets (by decide +kernel)

/-- The same at device level with lane 0 done before. -/
theorem witness_AtomicsAreSerial_going :
    let e := en (0x500 + 16 * 3) 2 264 448 6
    ∃ c, Issued 0x96 e (atPage (tinyW fun w => { w with stage := 9, aux := 1 })) c ∧ c.s.mem.wf ∧ c.w.loads = [] ∧ c.w.stage = 9
    ∧ (let todo := c.atomPieces.filter (fun q => !(true && c.w.aux / 2 ^ q.lane % 2 = 1))
       todo.length = 31
       ∧ (∀ q ∈ todo, q.addr / 64 = 0x400 ∧ q.addr % q.size = 0 ∧ c.atomCause q = none
         ∧ (c.s.translate c.w.core c.part .atomic q.addr).toOption = some ⟨.hbm, 64 * 0x400 + q.addr % 64, false⟩)
       ∧ c.noRoom 3 (storeLines false (todo.map (fun q => (q, 0)))) = false)
    ∧ c.s.poisonedAt .hbm 0x400 = false ∧ c.s.stackHeld .hbm 0x400 = false ∧ (c.s.part c.part).dbgCtl.getLsbD 3 = false ∧ (c.s.part c.part).replayPh ≠ .running
    ∧ (c.s.seUse (c.s.homeDie .hbm 0x400) ⟨.line, 0x400⟩).isSome = true := meets (by decide +kernel)

/-- A load of HBM line 0x400, a handler's or not, waiting for its one line, whose bytes the block's level holds or not; the line poisoned or
not; and its lanes helper lanes or not. -/
theorem witness_LoadDataReturns (poisoned direct below helper : Bool) :
    let o : OutLoad := ⟨.plain 10#5, 2#9, true, 0xFFFFFFFF#32, 0#32, 4, List.replicate 32 (some 0x10000), [], [⟨false, 0x400, .hbm, 0x400, false⟩],
      direct, false, if helper then 0xFFFFFFFF#32 else 0#32, false, 0x10000#64, false, 0#64⟩
    let t := (tinyW fun w => { w with loads := [o] }).updBlock 0 (fun b => { b with lines := if below then [line55 false 0x400] else [] })
    let s := { t with mem := { t.mem with poison := if poisoned then [0x400] else [] } }
    (s.wave? 0).any (fun x => (s.block? x.blk).any (fun b => (b.lines = [] || below) && (s.clusterLines b).isEmpty) && x.loads = [o] && !o.poison
      && !s.homeHeld .hbm 0x400 && s.mayRead x false && s.poisonedAt .hbm 0x400 = poisoned && o.window = false
      && ((List.range 64).any (fun i => o.mainWants (64 * 0x400 + i)) = !helper) && (List.range 64).any (fun i => o.laneWants 0 (64 * 0x400 + i))
      && x.pend.all (fun p => p.code ≠ 20#6)) = true := by
  cases poisoned <;> cases direct <;> cases below <;> cases helper <;> decide +kernel

/-! ## Witnesses: membership, roles and tasks -/

/-- The wave names below the next fresh one, and the block, wave and grid as the state has them. -/
abbrev known (c : Cx) : Prop := (∀ w ∈ c.s.waves, w.wid < c.s.fresh) ∧ c.s.block? c.b.uid = some c.b ∧ c.s.wave? c.wid = some c.w
  ∧ c.s.grid? c.b.grid = some c.g
/-- A record with CEIL 3, ATTACH 0x10008, role 1 of `v + 1` registers at 0x10010 and role 2 without an entry. -/
def withRoles (v : Nat) (s : State) : State := s.updGrid 0 (fun g => { g with launch := { g.launch with record := { g.launch.record with
  attach := 0x10008#64, ceil := 3, vregs := 63, roles := [(0x10010#64, 1#2, v), (0#64, 0#2, 0), (0#64, 0#2, 0)] } } })

theorem witness_BlkGrow : ∃ c, Issued 0xA0 (en 0 269 264 0 0) (withS [(8, 3)] (withRoles 7 tiny)) c ∧ known c ∧ c.s.canAttach c.b c.g = true :=
  meets (by decide +kernel)
theorem witness_BlkLeave_waits (batch : Bool) : ∃ c, Issued 0xA1 (en 0 511 0 0 0) (tinyW fun w => { w with
      acks := 1, closed := if batch then [⟨1#32, [5], none⟩] else [] }) c ∧ known c ∧ c.w.opened = false ∧ (c.w.incomplete = [] ↔ batch = false)
    ∧ c.w.stage = 0 ∧ c.w.acks ≠ 0 := by cases batch <;> exact meets (by decide +kernel)
/-- One of two members leaves, with barriers that expect two. -/
theorem witness_BlkLeave : ∃ c s1, Issued 0xA1 (en 0 511 0 0 0) (inPhase [0, 1] { expect := 2 } tiny) c ∧ (∀ k, c.commit 0 k = k s1) ∧
    (known c ∧ c.w.opened = false ∧ c.w.incomplete = [] ∧ c.w.acks = 0 ∧ (s1.wave? c.wid).map Wave.blk = some c.w.blk ∧ c.b.uid = c.w.blk
      ∧ s1.mayStep c.part 1 (agentOf c.w) 16 = true ∧ c.b.members.length ≠ 1
      ∧ ∃ b1 ∈ s1.block? c.w.blk, b1.members.filter (fun w => w ≠ c.wid) ≠ [] ∧ 15 < b1.bars.length ∧ (b1.bar .blk 15).held = []
        ∧ c.wid ∉ (b1.bar .blk 15).arrived ∧ c.wid ∉ (b1.bar .blk 15).attached ∧ (b1.bar .blk 15).arrived.length + 1 < (b1.bar .blk 15).expect) :=
  meets_commit (by decide +kernel)
/-- The last member leaves, with a line at the block's level. -/
theorem witness_BlkLeave_last : ∃ c s1, Issued 0xA1 (en 0 511 0 0 0) (buffered tiny) c ∧ (∀ k, c.commit 0 k = k s1) ∧
    (known c ∧ c.w.opened = false ∧ c.w.incomplete = [] ∧ c.w.acks = 0 ∧ c.b.uid = c.w.blk ∧ s1.mayStep c.part 1 (agentOf c.w) 16 = true ∧ c.b.members.length = 1
      ∧ (s1.wave? c.wid).map Wave.blk = some c.w.blk
      ∧ (s1.block? c.w.blk).any (fun b1 => b1.lines ≠ [] && (s1.retireLines b1 c.g).2.all (fun pl => !s1.stackHeld pl.space (pl.pa / 64))) = true) :=
  meets_commit (by decide +kernel)
/-- role s8, s10: code 4; role 2 without an entry; roles 0 and 1 of the wave itself and of another mask. -/
theorem witness_Role_illegal (j : Nat) (h : j = 4 ∨ j = 2) : ∃ c, Issued 0xA2 (en 0 386 264 266 0) (withS [(8, j)] (withRoles 7 tiny)) c ∧ known c
    ∧ (3 < c.n32 (en 0 386 264 266 0).a ∨ (c.n32 (en 0 386 264 266 0).a ≠ 0 ∧ roleEntry c.lrec (c.n32 (en 0 386 264 266 0).a) = 0#64)) := by
  rcases h with rfl | rfl
  · exact meets (by decide +kernel)
  · exact meets (by decide +kernel)
theorem witness_Role_fits (self : Bool) : ∃ c, Issued 0xA2 (en 0 386 264 266 0) (withS [(8, 1), (10, if self then 1 else 2)] (withRoles 7 tiny)) c ∧ known c
    ∧ (let j := c.n32 (en 0 386 264 266 0).a
       let mask := BitVec.ofNat 32 (c.uni (en 0 386 264 266 0).b .b32)
       j ≤ 3 ∧ roleEntry c.lrec j ≠ 0#64 ∧ c.s.rolesFit c.w.core c.lrec (c.s.named c.b mask) j = true ∧ c.wid ∈ c.b.members
         ∧ mask.getLsbD c.w.windex = self ∧ c.w.hnd = false ∧ c.w.loads = [] ∧ c.w.claims = []) := by
  cases self <;> exact meets (by decide +kernel)
/-- 24 waves of 8 granules fill the core's 192; role 1 asks for 32. -/
theorem witness_Role_noRoom : ∃ c, Issued 0xA2 (en 0 386 264 266 0) (withS [(8, 1), (10, 1)]
      (let s := withRoles 255 tiny
       { s with
         waves := s.waves ++ (List.range 23).map (fun i => Wave.new (i + 1) 0 0 (i + 1) (i + 1) 0 32 1 1 0#2 2#2 0#64 0#32 0 0 0#64)
         blocks := s.blocks.map (fun b => { b with members := List.range 24 }), fresh := 24 })) c ∧ known c
    ∧ (let j := c.n32 (en 0 386 264 266 0).a
       j ≤ 3 ∧ roleEntry c.lrec j ≠ 0#64
         ∧ c.s.rolesFit c.w.core c.lrec (c.s.named c.b (BitVec.ofNat 32 (c.uni (en 0 386 264 266 0).b .b32))) j = false) := meets (by decide +kernel)

/-- task.spawn of the record at s8 (0x10040) with the join object at s10 (0x10000): a bad address; no object; COUNT at its top and below. -/
theorem witness_TaskSpawn_bad : ∃ c, Issued 0xA5 (en 0 511 264 266 0) (withS [(8, 0x10001), (10, 0)] tiny) c
    ∧ c.addr (en 0 511 264 266 0).b = 0 ∧ c.addr (en 0 511 264 266 0).a % 64 ≠ 0 := meets (by decide +kernel)
theorem witness_TaskSpawn (joins full : Bool) : ∃ c s1, Issued 0xA5 (en 0 511 264 266 0)
      (withObj 0 (if full then 0xFFFFFFFF else 0) 0 0 (withS [(8, 0x10040), (10, if joins then 0x10000 else 0)] tiny)) c ∧ (∀ k, c.commit 3 k = k s1) ∧
    (c.addr (en 0 511 264 266 0).a ≠ 0 ∧ c.addr (en 0 511 264 266 0).a % 64 = 0 ∧ (s1.die 0).spawns.length < 4096 ∧ 0 < s1.dies.length ∧ dieOf c.w.core = 0
      ∧ (c.addr (en 0 511 264 266 0).b = 0 ↔ joins = false) ∧ quietNow c s1
      ∧ (joins = true → (c.object (c.addr (en 0 511 264 266 0).b)).toOption.any (fun pl =>
          (s1.seUse (s1.objDie pl) ⟨.object, pl.pa / 64⟩).any (fun s2 => s2.dies.length = s1.dies.length)
            && (decide (s1.joinCount pl = 0xFFFFFFFF#32) = full)) = true)) := by
  cases joins <;> cases full <;> exact meets_commit (by decide +kernel)
theorem witness_TaskJoin (name : Nat) (zero : Bool) (h : name = 65535 ∨ name = 65536) : ∃ c, Issued 0xA6 (en 0 511 264 266 0)
      (withObj 0 (if zero then 0 else 1) 0 0 (withS [(8, 0x10000), (10, name)] tiny)) c
    ∧ c.n32 (en 0 511 264 266 0).b = name ∧ quietNow c c.s
    ∧ (c.object (c.addr (en 0 511 264 266 0).a)).toOption.any (fun pl =>
        (c.s.seUse (c.s.objDie pl) ⟨.object, pl.pa / 64⟩).isSome && (decide (c.s.joinCount pl = 0#32) = zero)) = true := by
  rcases h with rfl | rfl <;> cases zero <;> exact meets (by decide +kernel)
theorem witness_TaskWait (zero : Bool) : ∃ c, Issued 0xA7 (en 0 511 264 0 0) (withObj 0 (if zero then 0 else 1) 0 0 (atPage tiny)) c ∧ c.w.stage ≠ 11
    ∧ (c.object (c.addr (en 0 511 264 0 0).a)).toOption.any (fun pl =>
        ((c.s.seUse (c.s.objDie pl) ⟨.object, pl.pa / 64⟩).bind (fun u => u.seUse (c.s.objDie pl) ⟨.waiter, c.wid⟩)).isSome
          && (decide (c.s.joinCount pl = 0#32) = zero)) = true := by cases zero <;> exact meets (by decide +kernel)
theorem witness_TaskWait_waits (zero : Bool) : ∃ c, Issued 0xA7 (en 0 511 264 0 0)
      (withObj 0 (if zero then 0 else 1) 0 0 (atPage (tinyW fun w => { w with stage := 11, aux := 0x10000 }))) c ∧ c.w.stage = 11
    ∧ (let q : Place := { space := .hbm, pa := c.w.aux, ss := false }
       (c.s.seUse (c.s.objDie q) ⟨.waiter, c.wid⟩).isSome = true ∧ (c.s.joinCount q = 0#32 ↔ zero = true)) := by cases zero <;> exact meets (by decide +kernel)

/-! ## Witnesses: the scheduler -/

/-- A spawned child in die 0's scheduler, its record good. -/
theorem witness_LaunchPacket_spawn :
    let l : Launch := ⟨0, 0, none, emptyRecord, 2#2, 0#64, false, 0, 0, none⟩
    let s := (withRecord tiny).updDie 0 (fun d => { d with spawns := [(l, 0x11000#64)] })
    (0 < s.parts.length && !(s.part 0).ending && !(s.part 0).halted && 0 < s.dies.length && !(s.die 0).fwBusy && !s.unitHeld 6 0
      && (s.die 0).spawns.find? (fun x => x.1.part = 0) = some (l, 0x11000#64)
      && (match (s.loadCtx 0).readRecord 0 0 0x11000 0 with
        | .ok ws => (s.loadCtx 0).refusal 0 ws = none
        | .error _ => false)) = true := by decide +kernel

/-- What the clauses on a launch queue's packet ask for, up to the completion word or the record. -/
def packetMet (s : State) (reason : Nat) : Bool :=
  let s0 := s.loadCtx 0
  match s0.launchQueue 0 0 with
  | .error _ => false
  | .ok d =>
    let die := s0.queueDie 0 d.base
    !(s.part 0).ending && !(s.part 0).halted && !(s.part 0).qerr.getLsbD 0 && (s.part 0).ctxDesc ≠ 0#64 && d.enable && !d.malformed && !(s.die die).fwBusy
    && decide (d.read.toNat < d.write.toNat) && !s.unitHeld 6 die
    && (match s0.vread die 0 d.slotVa 64 with
      | .error _ => false
      | .ok bs =>
        let ws : List Dword := (List.range 8).map (fun i => BitVec.ofNat 64 (leNat ((bs.drop (8 * i)).take 8)))
        let w (i : Nat) : Dword := ws.getD i 0#64
        (w 0).extractLsb' 0 8 ≠ 0#8 && packetReason ws (fun n => (s.die die).tasks.any (fun x => x.name = n)) = reason
        && (match s0.vwrite die 0 d.slotVa (leBytes 8 0) with
          | .error _ => false
          | .ok s1 => match s1.vwrite die 0 (d.va + 24) (leBytes 8 (d.read + 1#64).toNat) with
            | .error _ => false
            | .ok s2 =>
              if reason ≠ 0 then (w 2).extractLsb' 0 3 = 0#3 && (w 2).extractLsb' 0 57 ≠ 0#57
                && (s2.vwrite die 0 ((w 2).extractLsb' 0 57).toNat (leBytes 8 (reason * 256 + 3))).toOption.isSome
              else match (s2.loadCtx 0).readRecord die 0 ((w 1).extractLsb' 0 57).toNat 0 with
                | .ok rs => (s2.loadCtx 0).refusal 0 rs = none
                | .error _ => false))
/-- A packet of TYPE 3 (REASON 1) with a completion word; a launch; a named task without and with dependences. -/
theorem witness_LaunchPacket_bad : packetMet (withLq 0x84 [(0x14000, 3), (0x14009, 0x10), (0x1400A, 1), (0x14011, 0x50), (0x14012, 1)] tiny) 1 = true := by decide +kernel
theorem witness_LaunchPacket_launch : packetMet (withLq 0x84 [(0x14000, 1), (0x14009, 0x10), (0x1400A, 1)] tiny) 0 = true := by decide +kernel
theorem witness_LaunchPacket_task :
    packetMet (withLq 0x84 [(0x14000, 2), (0x14002, 7), (0x14004, 0xFF), (0x14005, 0xFF), (0x14009, 0x10), (0x1400A, 1)] tiny) 0 = true := by
  decide +kernel
/-- SIZE 3 is below the least. -/
theorem witness_LaunchPacket_malformed :
    let s := withLq 0x83 [] tiny
    (match (s.loadCtx 0).launchQueue 0 0 with | .ok d => d.enable && d.malformed | .error _ => false) = true ∧ (s.part 0).qerr.getLsbD 0 = false
      ∧ (s.part 0).ctxDesc ≠ 0#64 := by decide +kernel
theorem witness_TaskDecrement (n : Nat) (h : n = 0 ∨ n = 1 ∨ n = 2) :
    let l : Launch := ⟨0, 0, none, emptyRecord, 2#2, 0#64, false, 0, 0, none⟩
    let s := { tiny with decrements := [(0, 7)] }.updDie 0 (fun d => { d with tasks := if n = 0 then [] else [⟨7, n, l⟩] })
    s.decrements[0]? = some (0, 7) ∧ (s.die 0).fwBusy = false ∧ s.unitHeld 6 0 = false ∧ 0 < s.dies.length
      ∧ ((s.die 0).tasks.find? (fun x => x.name = 7)).map Task.count = (if n = 0 then none else some n) := by
  rcases h with rfl | rfl | rfl <;> decide +kernel
/-- A grid of two blocks with one resident, its interval of 100 us passed and not. -/
theorem witness_SliceExpiry (passed : Bool) :
    let t := tiny.updGrid 0 (fun g => { g with launch := { g.launch with record := { g.launch.record with gx := 2 } } })
    let s := { t with clk := if passed then 140000#64 else 139999#64 }
    (s.grid? 0).any (fun g => (s.blocks.map Block.uid).Nodup && s.bothKinds g && !(s.part g.launch.part).swapping
      && (decide (1400 * ((s.part g.launch.part).sliceIvl.extractLsb' 0 20).toNat ≤ (s.clk - g.sliceFrom).toNat) = passed)) = true := by
  cases passed <;> decide +kernel
/-- Class 2 with its limit of 100 x 10 us. -/
theorem witness_AgeingExpiry (passed : Bool) :
    let t := tiny.updGrid 0 (fun g => { g with launch := { g.launch with record := { g.launch.record with gx := 2 } } })
    let s := { t with clk := if passed then 1400000#64 else 1399999#64 }
    (s.grid? 0).any (fun g => (s.head g).isSome && !g.aged && g.launch.cls = 2#2
      && (decide (((s.part g.launch.part).ageLimit.extractLsb' 16 16).toNat * 14000 ≤ (s.clk - g.headSince).toNat) = passed)) = true := by
  cases passed <;> decide +kernel

/-! ## Witnesses: tensor entries, rings and copies -/

/-- tset s8, s10, s12: id and word at and beyond their ends. -/
theorem witness_Tset_bad (id i : Nat) (h : (id = 1024 ∧ i = 0) ∨ (id = 0 ∧ i = 8)) : ∃ c, Issued 0xB0 (en 0 511 264 266 268) (withS [(8, id), (10, i)] tiny) c
    ∧ (1023 < c.n32 (en 0 511 264 266 268).a ∨ 7 < c.n32 (en 0 511 264 266 268).b) := by
  rcases h with ⟨rfl, rfl⟩ | ⟨rfl, rfl⟩
  · exact meets (by decide +kernel)
  · exact meets (by decide +kernel)
theorem witness_Tset_waits : ∃ c, Issued 0xB0 (en 0 511 264 266 268) { tiny with cmds := [aCmd] } c
    ∧ c.n32 (en 0 511 264 266 268).a ≤ 1023 ∧ c.n32 (en 0 511 264 266 268).b ≤ 7 ∧ ∃ k ∈ c.s.cmds, k.wid = some c.wid := meets (by decide +kernel)
theorem witness_Tset : ∃ c, Issued 0xB0 (en 0 511 264 266 268) (withS [(8, 1023), (10, 7)] tiny) c
    ∧ c.n32 (en 0 511 264 266 268).a ≤ 1023 ∧ c.n32 (en 0 511 264 266 268).b ≤ 7 ∧ (∀ k ∈ c.s.cmds, k.wid ≠ some c.wid)
    ∧ (c.s.part c.part).dbgCtl.getLsbD 3 = false ∧ (c.s.part c.part).replayPh ≠ .running
    ∧ (c.s.vwrite (dieOf c.w.core) c.part (c.s.ttBase c.part + 64 * c.n32 (en 0 511 264 266 268).a + 8 * c.n32 (en 0 511 264 266 268).b)
        (leBytes 8 (c.uni (en 0 511 264 266 268).c .b64))).toOption.isSome = true := meets (by decide +kernel)
theorem witness_Tget (cached : Bool) : ∃ c, Issued 0xB1 (en 0 258 264 266 0) (tiny.updDie 0 (fun d => { d with
      tcache := if cached then [(0, 0, List.replicate 8 0#64)] else [] })) c
    ∧ c.n32 (en 0 258 264 266 0).a ≤ 1023 ∧ c.n32 (en 0 258 264 266 0).b ≤ 7
    ∧ ((c.s.die (dieOf c.w.core)).tcache.find? (fun x => x.1 = c.part && x.2.1 = c.n32 (en 0 258 264 266 0).a)).isSome = cached
    ∧ (c.s.vread (dieOf c.w.core) c.part (c.s.ttBase c.part + 64 * c.n32 (en 0 258 264 266 0).a) 64).toOption.isSome = true := by
  cases cached <;> exact meets (by decide +kernel)

/-- ring.set s8, s10: a reserved bit; an id too large; two tiles of one; ring 3 named by a command; and good. -/
theorem witness_RingSet (geom id : Nat) (named : Bool) (h : (geom, id) ∈ [(2 ^ 21, 0), (0, 1024), (2 ^ 6, 0), (3 * 2 ^ 18, 1023)]) :
    ∃ c, Issued 0xB5 (en 0 511 264 266 0) (withS [(8, geom), (10, id)] { tiny with cmds := if named then [aCmd] else [] }) c
    ∧ c.s.block? c.b.uid = some c.b ∧ c.b.uid = c.w.blk ∧ c.n32 (en 0 511 264 266 0).a = geom ∧ c.n32 (en 0 511 264 266 0).b = id ∧ c.b.ntiles = 1
    ∧ c.s.ringNamed c.b.uid 3 = named := by
  simp only [List.mem_cons, Prod.mk.injEq, List.not_mem_nil, or_false] at h
  rcases h with ⟨rfl, rfl⟩ | ⟨rfl, rfl⟩ | ⟨rfl, rfl⟩ | ⟨rfl, rfl⟩ <;> cases named <;> exact meets (by decide +kernel)
/-- ring.adv s8, s10, s12 of ring 8, of 0 and 65 entries, of a ring not set, of one entry, and of one whose entry is not free. -/
theorem witness_RingAdv_bad (r n : Nat) (h : (r, n) ∈ [(8, 1), (7, 0), (7, 65), (6, 1)]) :
    ∃ c, Issued 0xB6 (en 0 511 264 266 268) (withS [(8, r), (10, n)] (withRing 0 0 tiny)) c ∧ c.s.block? c.b.uid = some c.b
    ∧ (7 < c.n32 (en 0 511 264 266 268).a ∨ c.n32 (en 0 511 264 266 268).b < 1 ∨ 64 < c.n32 (en 0 511 264 266 268).b
      ∨ (c.b.ring (c.n32 (en 0 511 264 266 268).a)).count = 0) := by
  simp only [List.mem_cons, Prod.mk.injEq, List.not_mem_nil, or_false] at h
  rcases h with ⟨rfl, rfl⟩ | ⟨rfl, rfl⟩ | ⟨rfl, rfl⟩ | ⟨rfl, rfl⟩ <;> exact meets (by decide +kernel)
theorem witness_RingAdv : ∃ c, Issued 0xB6 (en 0 511 264 266 268) (withS [(8, 7), (10, 1)] (withRing 0 0 tiny)) c ∧ c.s.block? c.b.uid = some c.b
    ∧ c.b.uid = c.w.blk ∧ c.n32 (en 0 511 264 266 268).a = 7 ∧ 7 < c.b.rings.length ∧ c.n32 (en 0 511 264 266 268).b = 1 ∧ 1 ≤ (c.b.ring 7).count
    ∧ c.w.stage = 0 ∧ c.w.loads = [] ∧ (c.b.ring 7).itail.toNat + 1 < 2 ^ 32 ∧ (c.b.ring 7).tail = (c.b.ring 7).itail ∧ (c.b.ring 7).filled = []
    ∧ (c.b.ring 7).drop = [] ∧ (c.b.ring 7).free ((c.b.ring 7).itail + 0#32) = true
    ∧ (∀ k ∈ (c.b.ring 7).tiles ((c.b.ring 7).itail + 0#32), c.b.engineOwned.getD k false = false)
    ∧ (c.s.part c.part).dbgCtl.getLsbD 3 = false ∧ (c.s.part c.part).replayPh ≠ .running ∧ c.s.wave? c.wid = some c.w := meets (by decide +kernel)
theorem witness_RingAdv_waits : ∃ c, Issued 0xB6 (en 0 511 264 266 268) (withS [(8, 7), (10, 64)] (withRing 1 1 tiny)) c ∧ c.s.block? c.b.uid = some c.b
    ∧ c.n32 (en 0 511 264 266 268).a ≤ 7 ∧ 7 < c.b.rings.length ∧ 1 ≤ c.n32 (en 0 511 264 266 268).b ∧ c.n32 (en 0 511 264 266 268).b ≤ 64
    ∧ (c.b.ring 7).count ≠ 0 ∧ c.w.stage = 0 ∧ (c.b.ring 7).free (c.b.ring 7).itail = false := meets (by decide +kernel)
theorem witness_RingRd (r : Nat) (h : r = 7 ∨ r = 8) : ∃ c, Issued 0xB7 (en 0 258 264 0 0) (withS [(8, r)] tiny) c ∧ c.n32 (en 0 258 264 0 0).a = r := by
  rcases h with rfl | rfl
  · exact meets (by decide +kernel)
  · exact meets (by decide +kernel)

/-- cp.push cq s8, s16-s31 with a KIND 1 packet of 16 bytes from 0x15000 to 0x16000, or an empty packet. -/
def withPacket (kind : Nat) (s : State) : State :=
  withS [(8, 0), (16, kind), (18, if kind = 0 then 0 else if kind = 2 then 1 else 16), (20, if kind = 1 ∨ kind = 3 then 0x15000 else 0), (22, if kind = 1 ∨ kind = 4 then 0x16000 else 0)] s
def packetOf (c : Cx) : List Dword := (List.range 8).map (fun j => c.w.sget (16 + 2 * j + 1) ++ c.w.sget (16 + 2 * j))
theorem witness_CpPush_badPacket : ∃ c, Issued 0xB2 (en 0 511 264 272 0) (withPacket 0 tiny) c ∧ c.s.wave? c.wid = some c.w
    ∧ Sel.of (en 0 511 264 272 0).b = .s 16 ∧ c.w.stage = 0 ∧ c.n32 (en 0 511 264 272 0).a ≤ 15
    ∧ ¬(pktOk (packetOf c) = true ∧ c.b.pktFits (packetOf c) = true) := meets (by decide +kernel)
/-- A queue that is not enabled, one with SIZE 3, and one whose CQERR bit is set. -/
theorem witness_CpPush_badQueue (ctl : Nat) (err : Bool) (h : (ctl, err) ∈ [(0x04, false), (0x83, false), (0x84, true)]) :
    ∃ c, Issued 0xB2 (en 0 511 264 272 0) (withPacket 1 (withCq ctl 0 0 (tiny.updPart 0 (fun p => { p with cqerr := if err then 1#16 else 0#16 })))) c
    ∧ c.w.stage = 0 ∧ pktOk (packetOf c) = true ∧ c.b.pktFits (packetOf c) = true
    ∧ (c.s.copyQueue (dieOf c.w.core) c.part 0).toOption.any (fun q => q.enable = false || q.malformed || (c.s.part c.part).cqerr.getLsbD 0) = true := by
  simp only [List.mem_cons, Prod.mk.injEq, List.not_mem_nil, or_false] at h
  rcases h with ⟨rfl, rfl⟩ | ⟨rfl, rfl⟩ | ⟨rfl, rfl⟩ <;> exact meets (by decide +kernel)
/-- The core's command queue with and without room; KIND 1, and slot 15 as the next one. -/
theorem witness_CpPush (full : Bool) : ∃ c, Issued 0xB2 (en 0 511 264 272 0) (withPacket 1 (withCq 0x84 15 0 { tiny with
      cmds := if full then (List.range 32).map (fun i => { aCmd with id := i }) else [] })) c
    ∧ calm c.s = true ∧ c.w.stage = 0 ∧ pktOk (packetOf c) = true ∧ c.b.pktFits (packetOf c) = true ∧ pktKind (packetOf c) = 1 ∧ c.s.queueFull c.w.core = full
    ∧ (c.s.part c.part).dbgCtl.getLsbD 3 = false ∧ (c.s.part c.part).replayPh ≠ .running
    ∧ (c.s.copyQueue (dieOf c.w.core) c.part 0).toOption.any (fun q => q.enable && !q.malformed && !(c.s.part c.part).cqerr.getLsbD 0
        && (match (c.s.translateDie 0 c.part .store (q.va + 16)).toOption.bind (fun pl =>
              (if pl.space = .hbm ∧ pl.ss = false then c.s.seUse (c.s.objDie pl) ⟨.line, pl.pa / 64⟩ else some c.s).bind (fun sa =>
                (sa.vwrite 0 c.part (q.va + 16) (leBytes 8 (q.write + 1#64).toNat)).toOption)) with
          | none => false
          | some s1 => (s1.copyQueue 0 c.part 0).toOption.any (fun q1 => decide (q.write.toNat - q1.read.toNat < 2 ^ q1.size)
              && (s1.vwrite 0 c.part (q1.base + 64 * (q.write.toNat % 2 ^ q1.size)) ((packetOf c).flatMap (fun w => leBytes 8 w.toNat))).toOption.isSome))) = true := by
  cases full <;> exact meets (by decide +kernel)
theorem witness_CpClose (full : Bool) : ∃ c, Issued 0xB3 (en 0 258 0 0 0) (tinyW fun w => { w with
      openBatch := [9], closed := if full then (List.range 16).map (fun i => ⟨BitVec.ofNat 32 i, [i], none⟩) else [] }) c
    ∧ (decide (16 ≤ c.w.incomplete.length) = full) ∧ c.w.openBatch ≠ [] := by cases full <;> exact meets (by decide +kernel)
/-- cp.wait s8 for batch 1: not complete, complete, and failed. -/
theorem witness_CpWait (st : Fin 3) : ∃ c, Issued 0xB4 (en 0 511 264 0 0) (withS [(8, 1)] (tinyW fun w => { w with
      closed := [⟨1#32, if st = 0 then [5] else [], if st = 2 then some ⟨0x15000#64, false, 17#6⟩ else none⟩] })) c
    ∧ (∀ b ∈ c.w.closed, (BitVec.ofNat 32 (c.n32 (en 0 511 264 0 0).a) - b.num).toNat < 2 ^ 31) ∧ (∀ b ∈ c.w.closed, b.cmds = [] ↔ st ≠ 0)
    ∧ (∀ b ∈ c.w.closed, b.failed.isSome = true ↔ st = 2) := by
  match st with
  | 0 => exact meets (by decide +kernel)
  | 1 => exact meets (by decide +kernel)
  | 2 => exact meets (by decide +kernel)

/-- The packet in slot 0 of copy queue 0, its command if a wave's, and what the clauses on the copy engine ask for. -/
def copyMet (s : State) (f : CopyQueue → List Dword → State → Bool) : Bool :=
  match s.copyQueue 0 0 0 with
  | .error _ => false
  | .ok q =>
    let die := s.queueDie 0 q.base
    !(s.part 0).cqerr.getLsbD 0 && (s.part 0).ctx.isSome && !(s.part 0).halted && !s.hub.ckptRun && q.enable && !(s.die die).fwBusy && !q.malformed
    && !s.unitHeld 1 die && calm s && !(s.part 0).dbgCtl.getLsbD 3 && decide ((s.part 0).replayPh ≠ .running) && decide (q.read.toNat < q.write.toNat)
    && (match s.vread die 0 (q.slotVa q.read.toNat) 64 with
      | .error _ => false
      | .ok bs => match s.vwrite die 0 (q.slotVa q.read.toNat) (leBytes 8 0) with
        | .error _ => false
        | .ok s1 => match s1.vwrite die 0 (q.va + 24) (leBytes 8 (q.read + 1#64).toNat) with
          | .error _ => false
          | .ok s2 => f q ((List.range 8).map (fun i => BitVec.ofNat 64 (leNat ((bs.drop (8 * i)).take 8)))) s2)
/-- A KIND 1 packet of 16 bytes from 0x15000 to 0x16000. -/
def packet1 : List Nat := [1, 16, 0x15000, 0x16000]
def inSlot (kind : Nat) (s : State) : State := cells [(0x12000, kind), (0x12008, 16), (0x12011, 0x50), (0x12012, 1), (0x12019, 0x60), (0x1201A, 1)] (withCq 0x84 1 0 s)
/-- The command of that packet, its words, position and wait as given. -/
def copyCmd (packet : List Nat) (started : Bool) (pos : Nat) (wait : Option Dword) : CopyCmd :=
  { part := 0, cq := 0, slot := 0, packet := (packet ++ List.replicate (8 - packet.length) 0).map (BitVec.ofNat 64), tens := [], seq := 0
    started := started, pos := pos, waitAt := wait, failed := none }
def cmdOf (k : CopyCmd) : Cmd := { id := 5, wid := some 0, blk := 0, core := 0, reads := [], writes := [], kind := .copy k }
theorem witness_CopyPacket_own : copyMet (inSlot 1 { tiny with cmds := [cmdOf (copyCmd packet1 false 0 none)] }) (fun q ws _ =>
    pktKind ws = 1 && q.read = 0#64) = true
    ∧ State.mayRun { tiny with cmds := [cmdOf (copyCmd packet1 false 0 none)] } (cmdOf (copyCmd packet1 false 0 none)) = true := by decide +kernel
theorem witness_CopyPacket_host : copyMet (inSlot 1 tiny) (fun _ ws _ => pktOk ws && pktKind ws = 1) = true ∧ tiny.cmds = [] := by decide +kernel
theorem witness_CopyPacket_bad : copyMet (inSlot 2 tiny) (fun q ws s2 => (!pktOk ws || decide (2 ≤ pktKind ws))
    && q.bad.toNat % 2 ^ 32 ≠ 2 ^ 32 - 1 && (s2.vwrite 0 0 (q.va + 32) (leBytes 8 (q.bad + 1#64).toNat)).toOption.isSome) = true := by decide +kernel
theorem witness_CopyPacket_malformed :
    let s := withCq 0x83 1 0 tiny
    (s.copyQueue 0 0 0).toOption.any (fun q => q.enable && q.malformed && !(s.part 0).cqerr.getLsbD 0 && (s.part 0).ctx.isSome && !(s.part 0).halted
      && !s.hub.ckptRun && !(s.die (s.queueDie 0 q.base)).fwBusy && !s.unitHeld 1 (s.queueDie 0 q.base)) = true := by decide +kernel

/-- A started copy of each kind at its first chunk: KIND 1, 3 into an engine's tile, 4 from one; with the tile a thread's; reading an
unmapped address; and at its end. -/
def copying (k : CopyCmd) (owned : Bool) : State := { (tinyB fun b => { b with engineOwned := [owned] }) with cmds := [cmdOf k] }
theorem witness_Copy_global :
    let k := copyCmd packet1 true 0 none
    let s := copying k false
    (s.cmd? 5 = some (cmdOf k) && k.started && !k.landed && calm s && !(s.part 0).halted && !s.unitHeld 1 (s.copyDie k) && decide (k.pos < k.total) && k.failed.isNone && pktKind k.packet = 1
      && !(s.part 0).dbgCtl.getLsbD 3 && (s.part 0).replayPh ≠ .running && (s.vread (s.copyDie k) 0 0x15000 16).toOption.any (fun bs =>
        (s.vwrite (s.copyDie k) 0 0x16000 bs).toOption.isSome)) = true := by decide +kernel
theorem witness_Copy_in (owned : Bool) :
    let k := copyCmd [3, 16, 0x15000, 4080] true 0 none
    let s := copying k owned
    (decide (k.pos < k.total) && pktKind k.packet = 3 && (s.block? 0).any (fun b => b.engineOwned.getD (4080 / 4096) false = owned && b.scr.wf)
      && (s.vread (s.copyDie k) 0 0x15000 16).toOption.isSome) = true := by cases owned <;> decide +kernel
theorem witness_Copy_out (owned : Bool) :
    let k := copyCmd [4, 16, 4080, 0x16000] true 0 none
    let s := copying k owned
    (decide (k.pos < k.total) && pktKind k.packet = 4 && (s.block? 0).any (fun b => b.engineOwned.getD (4080 / 4096) false = owned
      && (s.vwrite (s.copyDie k) 0 0x16000 (b.scr.readN 4080 16)).toOption.isSome)) = true := by cases owned <;> decide +kernel
theorem witness_Copy_fault :
    let k := copyCmd [1, 16, 0, 0x16000] true 0 none
    let s := copying k false
    (match s.vread (s.copyDie k) 0 0 16 with | .error (f, a) => f = 16#6 && k.waitAt ≠ some (BitVec.ofNat 64 a) | .ok _ => false) = true := by decide +kernel
theorem witness_Copy_faultOther :
    let k := copyCmd [1, 16, 0x15000, 0x16000] true 0 none
    let s := { copying k false with mem := { tiny.mem with poison := [0x15000 / 64] } }
    (match s.vread (s.copyDie k) 0 0x15000 16 with | .error (f, _) => f ≠ 16#6 | .ok _ => false) = true := by decide +kernel
theorem witness_Copy_end (kind : Nat) (h : kind = 1 ∨ kind = 3) :
    let k := copyCmd [kind, 16, 0x15000, if kind = 1 then 0x16000 else 4080] true 16 none
    let s := copying k true
    (s.cmd? 5 = some (cmdOf k) && k.waitAt.isNone && decide (k.total ≤ k.pos) && k.failed.isNone && !(k.packet.getD 0 0#64).getLsbD 12 && k.started
      && pktKind k.packet = kind && (s.block? 0).isSome && (s.wave? 0).isSome) = true := by rcases h with rfl | rfl <;> decide +kernel

/-! ## Witnesses: the accumulator store and the matrix engine -/

/-- Row 127 owned by a block. -/
def withRow (owner : Nat) (s : State) : State :=
  s.updCore 0 (fun c => { c with acc := [⟨127, owner, List.replicate 256 0#32, 0x3F80#16, List.replicate 4 0x3F80#16⟩] })
/-- A command that still writes row 127. -/
def rowCmd : Cmd := { aCmd with writes := [.row 127] }
def accWords : List (Nat × Enc) := [(0xBC, en 0x500 2 264 266 0), (0xBD, en 0x500 511 264 266 6), (0xBE, en 0 511 264 266 0)]

/-- Rows 128, 127 of another block, 127 busy, and 127 free, for the three instructions (acc.clr of s10 = 1 row). -/
theorem witness_Acc_beyond : ∀ x ∈ accWords, (testCx? x.1 x.2 (withS [(8, 128), (10, 1)] tiny)).any (fun c => c.n32 x.2.a = 128) = true := by
  decide +kernel
theorem witness_Acc_taken : ∀ x ∈ accWords, (testCx? x.1 x.2 (withS [(8, 127), (10, 1)] (withRow 9 tiny))).any (fun c => c.n32 x.2.a = 127
    && c.n32 x.2.b = 1 && (c.s.coreRows c.w.core).any (fun r => r.row = 127 && r.owner ≠ c.b.uid)) = true := by decide +kernel
/-- Row 127 is a block's that is being restored to the core. -/
theorem witness_Acc_takenRestoring : ∀ x ∈ accWords, (testCx? x.1 x.2 (withS [(8, 127), (10, 1)] { tiny with blocks := tiny.blocks ++ tiny.blocks.map (fun b => { b with
    uid := 9, status := .restoring, members := [], savedRows := [⟨127, 9, [], 0#16, []⟩] }) })).any (fun c => c.n32 x.2.a = 127
    && c.n32 x.2.b = 1 && (c.s.coreRows c.w.core).any (fun r => r.row = 127 && r.owner ≠ c.b.uid)) = true := by decide +kernel
theorem witness_Acc_busy : ∀ x ∈ accWords, (testCx? x.1 x.2 (withS [(8, 127), (10, 1)] { withRow 0 tiny with cmds := [rowCmd] })).any (fun c =>
    c.n32 x.2.a = 127 && (c.s.coreRows c.w.core).all (fun r => r.owner = c.b.uid) && c.s.rowsBusy c.w.core 127 1) = true := by decide +kernel
theorem witness_Acc_free : ∀ x ∈ accWords, (testCx? x.1 x.2 (withS [(8, 127), (10, 1)] (withRow 0 tiny))).any (fun c =>
    c.n32 x.2.a = 127 && (c.s.coreRows c.w.core).all (fun r => r.owner = c.b.uid) && !c.s.rowsBusy c.w.core 127 1 && c.w.core < c.s.cores.length
      && c.s.wave? c.wid = some c.w && (c.s.accRow c.w.core 127).cols.length = 256) = true := by decide +kernel
theorem witness_AccClr_count (n : Nat) (h : n = 0 ∨ n = 129) : ∃ c, Issued 0xBE (en 0 511 264 266 0) (withS [(10, n)] tiny) c
    ∧ (c.n32 (en 0 511 264 266 0).b < 1 ∨ 128 < c.n32 (en 0 511 264 266 0).b) := by
  rcases h with rfl | rfl
  · exact meets (by decide +kernel)
  · exact meets (by decide +kernel)
/-- acc.out.f32 s8, s10, s12 of one row: row 128; a tensor of another type; and row 127 to tensor 1. -/
theorem witness_AccOut (id row : Nat) (h : (id, row) ∈ [(1, 128), (2, 127), (1, 127)]) :
    ∃ c, Issued 0xBF (en 0x600 511 264 266 268) (withS [(8, id), (10, row), (12, 1)] (withTensors (withRow 0 tiny))) c
    ∧ c.n32 (en 0x600 511 264 266 268).a = id ∧ c.n32 (en 0x600 511 264 266 268).b = row ∧ c.n32 (en 0x600 511 264 266 268).c = 1
    ∧ (c.tensor id).toOption.any (fun x => TEntry.ndim x.1 = 1 && (decide (TEntry.ty x.1 = some .f32) = decide (id = 1)) && TEntry.layout x.1 = 0) = true
    ∧ c.s.queueFull c.w.core = false ∧ c.s.wave? c.wid = some c.w := by
  simp only [List.mem_cons, Prod.mk.injEq, List.not_mem_nil, or_false] at h
  rcases h with ⟨rfl, rfl⟩ | ⟨rfl, rfl⟩ | ⟨rfl, rfl⟩
  · exact meets (by decide +kernel)
  · exact meets (by decide +kernel)
  · exact meets (by decide +kernel)

/-- mx.row s8, ring 7 (tensor 0), tensor 0: one row at 127 with tags that agree; with a tag that differs; and at row 128. -/
def mxState (tag row : Nat) : State :=
  withS [(8, row), (10, 7), (12, 0)] (withTensors (withRing 1 1 (tinyB fun b => { b with tags := [BitVec.ofNat 2 tag] })))
theorem witness_MxRow (tag row : Nat) (h : (tag, row) ∈ [(0, 127), (1, 127), (0, 128)]) :
    let e := en 0 511 264 266 268
    ∃ c, Issued 0xB8 e (mxState tag row) c ∧ c.s.block? c.b.uid = some c.b ∧ c.s.wave? c.wid = some c.w ∧ c.n32 e.b = 7 ∧ c.n32 e.c = 0
    ∧ (match c.tensor (c.b.ring 7).tensor with
      | .error _ => false
      | .ok (ta, s1) => match ({ c with s := s1 } : Cx).tensor 0 with
        | .error _ => false
        | .ok (tb, _) => (c.b.tagDiffers ta 7 (c.b.ring 7).ihead.toNat 1 = (tag ≠ 0)) && (decide (c.mxBad ta tb 7 0 row 1 false = (if row = 128 then some 3 else none)))) = true
    ∧ c.s.queueFull c.w.core = false ∧ c.w.core < c.s.cores.length ∧ 7 < c.b.rings.length := by
  simp only [List.mem_cons, Prod.mk.injEq, List.not_mem_nil, or_false] at h
  rcases h with ⟨rfl, rfl⟩ | ⟨rfl, rfl⟩ | ⟨rfl, rfl⟩
  · exact meets (by decide +kernel)
  · exact meets (by decide +kernel)
  · exact meets (by decide +kernel)
theorem witness_MxLdb : ∃ c, Issued 0xB9 (en 0 511 264 266 268) (withS [(12, 2)] (withTensors tiny)) c ∧ c.n32 (en 0 511 264 266 268).a ≤ 1023
    ∧ c.n32 (en 0 511 264 266 268).c = 2 ∧ (c.tensor 0).toOption.isSome = true ∧ c.s.queueFull c.w.core = false := meets (by decide +kernel)

/-- A queued mx.row of one row at 127 in a state, reading ring 7 and tensor 0. -/
def mxCmd (state : Nat) : MxCmd :=
  { first := 127, rows := 1, z := true, flush := false, bring := false, rlx := false, aring := 7, bsel := 0, at_ := ten 15 0 1 0, bt := ten 15 0 1 0
    ha := 0, hb := 0, ksteps := 1, state := state, progress := 0, popA := 0, popB := 0 }
def mxQueued (state : Nat) : Cmd := { aCmd with writes := [.row 127], kind := .mx (mxCmd state) }
/-- mx.resume of a stopped and of a running command, both forms; mx.prog with a command and without. -/
theorem witness_MxResume (ab : Bool) : ∃ c, Issued 0xBA (en (if ab then 1 else 0) 511 0 0 0) { tiny with cmds := [mxQueued 2, { mxQueued 1 with id := 6 }] } c
    ∧ (c.s.cmds.map Cmd.id).Nodup ∧ (en (if ab then 1 else 0) 511 0 0 0).mod.getLsbD 0 = ab ∧ (∀ k ∈ c.s.cmds, k.wid = some c.wid) := by
  cases ab <;> exact meets (by decide +kernel)
theorem witness_MxProg (some_ : Bool) : ∃ c, Issued 0xBB (en 0 258 0 0 0) { tiny with cmds := if some_ then [mxQueued 1] else [] } c
    ∧ ((c.s.mxOf c.wid).head?.isSome = some_) := by cases some_ <;> exact meets (by decide +kernel)

/-- The command in state 1, its ring's entry 0 not filled, filled, and marked FAIL. -/
def kstepState (tl : Nat) (fail : Bool) : State :=
  { (withRing 1 tl (withTensors (tinyB fun b => { b with scr := [(0, 0x38#8)] }))).updBlock 0 (fun b => { b with
      rings := b.rings.modify 7 (fun r => { r with fail := if fail then [0] else [] }) }) with cmds := [mxQueued 1] }
theorem witness_MxKstep_waits : ((kstepState 0 false).cmd? 5 = some (mxQueued 1) && (kstepState 0 false).mayRun (mxQueued 1)
    && ((kstepState 0 false).block? 0).any (fun b => !(b.ring 7).ready 0#32)) = true := by decide +kernel
theorem witness_MxKstep_marked : ((kstepState 1 true).mayRun (mxQueued 1) && ((kstepState 1 true).wave? 0).any (fun x => x.pend.isEmpty)
    && ((kstepState 1 true).block? 0).any (fun b => (b.ring 7).ready 0#32 && (b.ring 7).head = 0#32 && (b.ring 7).failed 0#32)) = true := by decide +kernel
/-- The view that its k-step computes in, B from the device. -/
def kstepView (s : State) : MxView := { s := s, die := 0, part := 0, scr := [(0, 0x38#8)] }
def kstepColumns (s : State) : Except MxFault (List Word) :=
  (kstepView s).columns (mxCmd 1) (List.replicate 256 0#32) (.entry 0 0) .device 0 0 true
theorem witness_MxKstep : (calm (kstepState 1 false) && ((kstepState 1 false).block? 0).any (fun b => (b.ring 7).ready 0#32 && (b.ring 7).head = 0#32 && !(b.ring 7).failed 0#32
      && (b.ring 7).entryByte 0#32 = 0 && b.scr = [(0, 0x38#8)])
    && ((kstepState 1 false).core 0).stat.isEmpty && ((kstepView (kstepState 1 false)).bands (mxCmd 1) 0).toOption.isSome
    && (kstepColumns (kstepState 1 false)).toOption.isSome) = true := by decide +kernel
/-- B's page unmapped: cause 16. -/
theorem witness_MxKstep_fault :
    let s := { kstepState 1 false with mem := { tiny.mem with hbm := [], tlb := [] } }
    (calm s && (s.wave? 0).any (fun x => x.pend.all (fun p => p.code ≠ 37#6)) && ((kstepView s).bands (mxCmd 1) 0).toOption.isSome
      && (match kstepColumns s with | .error (f, _, _) => f = 16#6 | .ok _ => false)) = true := by decide +kernel
/-- A fetch of one k-tile of tensor 0. -/
theorem witness_Ldb :
    let k : LdbCmd := ⟨0, ten 15 0 1 0, 0, 1⟩
    let c : Cmd := { aCmd with kind := .ldb k }
    let s := { withTensors tiny with cmds := [c] }
    (s.cmd? 5 = some c && s.mayRun c && calm s && (TEntry.tileBytes k.tens 0).length = 1
      && (TEntry.tileBytes k.tens 0).all (fun a => (s.vread 0 0 a 1).toOption.isSome) && 0 < s.cores.length) = true := by decide +kernel
/-- acc.out of row 127 to tensor 1: its page mapped and not mapped. -/
theorem witness_AccOutPerform (mapped : Bool) :
    let k : AccOutCmd := ⟨ten 12 1 1 1, 1, 127, 1, 12#5, 0#3, false, false, 0#32, 0#32, 0, none⟩
    let c : Cmd := { aCmd with kind := .accOut k }
    let t := { withRow 0 tiny with cmds := [c] }
    let s := { t with mem := if mapped then t.mem else { t.mem with hbm := [], tlb := [] } }
    (s.cmd? 5 = some c && s.mayRun c && calm s && !s.unitHeld 7 0 && !(s.part 0).dbgCtl.getLsbD 3 && (s.part 0).replayPh ≠ .running && max 1 (k.run k.pos) = 1
      && (match s.vwrite 0 0 (k.addr 0) (leBytes (TEntry.w k.tens / 8) (s.outValue c k 0)) with
        | .ok _ => mapped
        | .error (f, a) => !mapped && f = 16#6 && k.waitAt ≠ some (BitVec.ofNat 64 a))) = true := by cases mapped <;> decide +kernel

/-! ## Witnesses: arrays -/

/-- A region of partition 0 in slot 0, waiting for its place. -/
def region0 : Region :=
  { slot := 0, gen := 1, part := 0, world := false, wid := some 0, seqAddr := 0x10000#64, images := [0x11000#64], npads := [1], mbar := 0#64
    param := 0#64, sigEn := false, sigDie := 0, sigTask := 0, step := false, state := 1, cfg := 0, failCause := 0#6, reserve := 1, frames := [], pads := []
    streams := [], drain := none, order := 1 }
def withRegion (r : Region) (s : State) : State :=
  withStack (fun st => { st with regions := [r], arrAssign0 := 0x8080808080808080#64, gens := List.replicate 16 1 }) s

/-- sda.run s2, s8: the address misaligned and beyond the address space. -/
theorem witness_SdaRun_misaligned : ∃ c, Issued 0xC0 (en 0 258 264 0 0) (withS [(8, 0x10001)] tiny) c
    ∧ c.addr (en 0 258 264 0 0).a % 64 ≠ 0 := meets (by decide +kernel)
theorem witness_SdaRun_untranslated : ∃ c, Issued 0xC0 (en 0 258 264 0 0) (withS [(9, 0x2000000)] tiny) c
    ∧ c.addr (en 0 258 264 0 0).a % 64 = 0 ∧ (c.s.translate c.w.core c.part .load (c.addr (en 0 258 264 0 0).a)).toOption.isSome = false :=
  meets (by decide +kernel)
/-- A descriptor that is poisoned, one with a reserved bit, every slot taken, and slot 0 taken or free. -/
def runState (kind : Nat) : State :=
  let s := atPage tiny
  match kind with
  | 0 => { s with mem := { s.mem with poison := [0x400] } }
  | 1 => cells [(0x10018, 0x10)] s
  | 2 => withStack (fun st => { st with regions := (List.range 16).map (fun n => { region0 with slot := n }) }) s
  | 3 => withRegion region0 s
  | _ => s
theorem witness_SdaRun (kind : Nat) (h : kind < 5) : ∃ c, Issued 0xC0 (en 0 258 264 0 0) (runState kind) c
    ∧ c.addr (en 0 258 264 0 0).a % 64 = 0
    ∧ (match c.s.translate c.w.core c.part .load (c.addr (en 0 258 264 0 0).a) with
      | .error _ => false
      | .ok pl =>
        let bad := c.s.poisonedAt pl.space (pl.pa / 64)
        let ws : List Dword := (List.range 8).map (fun i => BitVec.ofNat 64 (leNat (c.s.devBytes pl.space (pl.pa + 8 * i) 8)))
        let free (n : Nat) : Bool := (c.s.stack 0).regions.all (fun r => r.slot ≠ n || !r.holdsSlot)
        (bad = (kind = 0)) && (runBad ws = (kind = 1)) && ((ws.getD 3 0#64).extractLsb' 0 4 = 0#4 || kind = 1)
          && ((List.range 16).all (fun n => !free n) = (kind = 2)) && ((kind = 2) || (free 0 = (kind ≠ 3))) && (kind ≠ 3 || free 1)) = true
    ∧ 0 < c.s.stks.length ∧ (c.s.stack 0).gens.length = 16 ∧ c.s.wave? c.wid = some c.w := by
  match kind, h with
  | 0, _ => exact meets (by decide +kernel)
  | 1, _ => exact meets (by decide +kernel)
  | 2, _ => exact meets (by decide +kernel)
  | 3, _ => exact meets (by decide +kernel)
  | 4, _ => exact meets (by decide +kernel)

/-- A descriptor in an extent of the capacity tier that is gone. -/
theorem witness_SdaRun_gone : ∃ c, Issued 0xC0 (en 0 258 264 0 0) { atPage tiny with mem := { tiny.mem with tlb := [⟨false, 0, 0, 1, 16, 0x1021F#64⟩] } } c
    ∧ c.addr (en 0 258 264 0 0).a % 64 = 0
    ∧ (c.s.translate c.w.core c.part .load (c.addr (en 0 258 264 0 0).a)).toOption.any (fun pl => !c.s.extentHere pl.space (pl.pa / 64)) = true :=
  meets (by decide +kernel)
/-- sda.stop and sda.stat of the handle in s8: stale, of a region that is over, and of one that waits. -/
def handleState (gen state : Nat) : State := withS [(8, 256 * gen)] (withRegion { region0 with state := state } tiny)
theorem witness_SdaHandle (op gen state : Nat) (h : (op = 0xC1 ∨ op = 0xC2) ∧ (gen, state) ∈ [(2, 1), (1, 5), (1, 1)]) :
    ∃ c, Issued op (en 0 (if op = 0xC1 then 511 else 258) 264 0 0) (handleState gen state) c
      ∧ (match c.s.byHandle c.part (c.n32 (en 0 258 264 0 0).a) with | none => gen = 2 | some (_, r) => gen = 1 && r.state = state) = true := by
  obtain ⟨h1, h2⟩ := h
  simp only [List.mem_cons, Prod.mk.injEq, List.not_mem_nil, or_false] at h2
  rcases h1 with rfl | rfl <;> rcases h2 with ⟨rfl, rfl⟩ | ⟨rfl, rfl⟩ | ⟨rfl, rfl⟩ <;>
    exact meets (by decide +kernel)

def frameOf (kind index body : Nat) : BitVec 256 := BitVec.ofNat 256 (kind * 2 ^ 248 + index * 2 ^ 240 + body)
/-- An image of one pad and no stream, as the configuration cache holds it at 0x11000, and one with a stream. -/
def padFrames : List (BitVec 256) :=
  [frameOf 2 0 0] ++ (List.range 16).map (fun n => frameOf 3 n 0) ++ [frameOf 4 0 0x85000001, frameOf 4 1 0, frameOf 4 2 0, frameOf 4 3 0]
    ++ (List.range 25).map (fun n => frameOf 5 n 0)
def imageHeader (n : Nat) : BitVec 256 := 0x0100#16 ++ 0x4E57#16 ++ 0x01#8 ++ 0#4 ++ BitVec.ofNat 7 n ++ 0#13 ++ BitVec.ofNat 16 (47 + n) ++ 0#176
/-- A stream of tensor `id` with `total` elements, its direction and format, on channel 0 of pad 0. -/
def streamRecord (id dir ty total : Nat) : BitVec 256 :=
  0x0600#16 ++ BitVec.ofNat 10 id ++ BitVec.ofNat 2 dir ++ BitVec.ofNat 5 ty ++ 0#4 ++ 0#4 ++ 1#16 ++ 0#7 ++ 0#32 ++ BitVec.ofNat 32 total ++ 1#24 ++ 0#24
    ++ 0#24 ++ 0#24 ++ 1#16 ++ 1#16
def withImage (ags : List (BitVec 256)) (s : State) : State :=
  withStack (fun st => { st with cfgCache := [⟨0x11000, 0, 0, padFrames ++ imageHeader ags.length :: ags, false⟩] })
    (s.updDie 0 (fun d => { d with tcache := [(0, 1, ten 12 1 4 1), (0, 2, ten 6 1 4 1)] }))

/-- sda.ld of stack 12, of a sequence at 0x10000 that names the cached image, and of one that names none. -/
theorem witness_SdaLd_beyond : ∃ c, Issued 0xC3 (en 0 511 264 266 0) (withS [(10, 12)] tiny) c
    ∧ 11 < c.n32 (en 0 511 264 266 0).b := meets (by decide +kernel)
theorem witness_SdaLd (good : Bool) : ∃ c, Issued 0xC3 (en 0 511 264 266 0) (atPage (cells (if good then [(0x10009, 0x10), (0x1000A, 0x01)] else []) (withImage [] tiny))) c
    ∧ c.n32 (en 0 511 264 266 0).b ≤ 11 ∧ (match c.s.readSeq 0 c.part (c.addr (en 0 511 264 266 0).a) with
      | .error _ => !good
      | .ok imgs => good && imgs = [0x11000#64]) = true := by cases good <;> exact meets (by decide +kernel)
theorem witness_SdaLd_images : ((withImage [] tiny).loadAll 0 0 [0x11000#64]).toOption.isSome = true := by decide +kernel

/-- PE 0 of a pad: mov of type b32, i-th input at corner 0, output to corner 2. -/
def movPe (t : Token) : Pe :=
  { Pe.start (0x0300#16 ++ 1#6 ++ 0#5 ++ 0#5 ++ 0#8 ++ 0x8#4 ++ 0#4 ++ 0#4 ++ 0x4#4 ++ 0#200) 0#32 with corner := [[t], [], [], []] }
def aToken (kind : BitVec 2) : Token := ⟨7#128, region0.owner, kind, false, 3#6⟩
/-- A channel from attachment 0 to a forward to channel 1, and channel 1. -/
def aPad (kind : BitVec 2) : Pad :=
  { pes := [movPe (aToken kind)], switches := List.replicate 25 ⟨0#32, List.replicate 8 []⟩
    chans := [⟨0, 0, 0, 5, 0, 1, true, 1, [aToken 0#2], 0⟩, ⟨1, 0, 5, 0, 0, 0, false, 1, [], 0⟩] }
def running : Region := { region0 with state := 2, frames := [0], pads := [aPad 0#2] }
/-- The premises on a region of all its statements. -/
def regionThere (s : State) (r : Region) : Bool := (s.region? 0 0 = some r) && decide (0 < s.stks.length) && decide ((s.stack 0).regions.map Region.slot).Nodup

theorem witness_PeFiring : (regionThere (withRegion running tiny) running && (match (aPad 0#2).fire running.owner 0 (running.wanted 0 0) with | .ok _ => true | .error _ => false)
    && (match (aPad 3#2).fire running.owner 0 (running.wanted 0 0) with | .ok _ => false | .error _ => true)) = true := by decide +kernel
theorem witness_PeFiring_not : (regionThere (withRegion { running with state := 3 } tiny) { running with state := 3 }) = true := by decide +kernel
theorem witness_TokenForward : (((aPad 0#2).chan? 0).any (fun ch => ch.q = [aToken 0#2] && ch.tfwd && ch.dst = 5 && ch.tpad = 0 && ch.tchan = 1)
    && ((aPad 0#2).chan? 1).any Chan.room) = true := by decide +kernel
/-- Switch 6 with a token at input 0: no output takes it; output 5 sends it to PE 1's corner 3, free. -/
def aSwitch (sel : Word) : Pad :=
  { aPad 0#2 with
    pes := [movPe (aToken 0#2), Pe.start (0x0301#16 ++ 1#6 ++ 0#5 ++ 0#5 ++ 0#8 ++ 0xB#4 ++ 0#4 ++ 0#4 ++ 0x4#4 ++ 0#200) 0#32]
    switches := (aPad 0#2).switches.set 6 ⟨sel, [aToken 0#2] :: List.replicate 7 []⟩ }
theorem witness_SwitchMove (n : Bool) : (((aSwitch (if n then 0x800000#32 else 0#32)).switches[6]?).any (fun x => x.inbuf.getD 0 [] = [aToken 0#2]
      && ((List.range 8).filter (fun o => swSel x.sel o = some 0)).map (portTgt 6) = (if n then [.pe 1 3] else []))
    && (aSwitch 0#32).canTake (.pe 1 3)) = true := by cases n <;> decide +kernel

/-- A stream on channel 0 of tensor 1 (f32) or 2 (n32), its page cached as stream-shared. -/
def aStream (dir total : Nat) (asm : List Nat) (n32 : Bool) : Stream :=
  { Stream.start (streamRecord (if n32 then 2 else 1) dir (if n32 then 6 else 12) total) (ten (if n32 then 6 else 12) 1 4 1) with
    asm := asm, tlb := some (1, 16, 0x1003F#64) }
/-- A region with the stream, its channel holding some tokens. -/
def streaming (x : Stream) (q : List Token) : Region :=
  { running with streams := [x], pads := [{ aPad 0#2 with chans := [⟨0, 0, 5, 5, 0, 0, false, 1, q, 0⟩] }] }
def placeOk (x : Stream) (acc : Access) (s : State) : Bool :=
  match s.streamPlace (streaming x []) x acc (x.addr (x.offset x.elem)).1 with
  | .error _ => false
  | .ok (pl, _) => pl.space = .hbm && !s.poisonedAt pl.space (pl.pa / 64) && !s.stackHeld pl.space (pl.pa / 64)

/-- An input stream's element that completes its token (one element in all) and one that does not (two). -/
theorem witness_StreamInput (total : Nat) (h : total = 1 ∨ total = 2) :
    let x := aStream 0 total [] false
    let r := streaming x []
    (regionThere (withRegion r tiny) r && (r.boundChan x).any (aPad 0#2).mayReserve && !x.stopped && !(withRegion r tiny).unitHeld 4 0 && r.frames ≠ [] && strDir x.record = 0 && !x.done && x.mark.isNone && 0 ≤ x.offset x.elem
      && decide (x.offset x.elem < tensorExtent x.tens) && placeOk x .load (withRegion r tiny) && !strBurst x.record && decide (8 ≤ TEntry.w x.tens)
      && decide (x.perToken = 4) && decide (x.elem = 0) && decide (strTotal x.record = total)) = true := by
  rcases h with rfl | rfl <;> decide +kernel
/-- An output stream that writes an element, and one that takes a token. -/
theorem witness_StreamOutput (total : Nat) (h : total = 1 ∨ total = 2) :
    let x := aStream 1 total [5, 6] false
    let r := streaming x []
    (regionThere (withRegion r tiny) r && (r.boundChan x).isSome && !x.stopped && !(withRegion r tiny).unitHeld 4 0 && decide (withRegion r tiny).mem.hbm.wf && strDir x.record = 1 && x.mark.isNone && decide (0 ≤ x.offset x.elem)
      && decide (x.offset x.elem < tensorExtent x.tens) && placeOk x .store (withRegion r tiny) && !strBurst x.record && decide (8 ≤ TEntry.w x.tens)
      && !((withRegion r tiny).part 0).dbgCtl.getLsbD 3 && decide (((withRegion r tiny).part 0).replayPh ≠ .running)) = true := by
  rcases h with rfl | rfl <;> decide +kernel
theorem witness_StreamOutput_takes :
    let x := aStream 1 2 [] false
    let r := streaming x [aToken 0#2]
    ((r.boundChan x).any (fun ch => ch.q = [aToken 0#2]) && !x.done && !x.stopped && decide ((aToken 0#2).fill.toNat < x.perToken)) = true := by decide +kernel
/-- Update tokens of each operation: f32 addition to tensor 1, and the others to tensor 2. -/
theorem witness_UpdateApply (uop : Nat) (h : uop < 5) :
    let x := aStream 2 1 [] (uop ≠ 0)
    let tok : Token := ⟨BitVec.ofNat 128 (uop * 2 ^ 64 + 2), region0.owner, 2#2, true, 0#6⟩
    let r := streaming x [tok]
    ((r.boundChan x).any (fun ch => ch.q = [tok]) && strDir x.record = 2 && x.mark.isNone && !x.stopped && !(withRegion r tiny).unitHeld 4 0 && tok.kind = 2#2 && uopOk (tok.data.extractLsb' 64 3).toNat (strTy x.record)
      && decide ((tok.data.extractLsb' 0 32).toNat < tensorExtent x.tens)
      && (match (withRegion r tiny).streamPlace r x .atomic (x.addr 2).1 with | .error _ => false | .ok (pl, _) => pl.space = .hbm && !(withRegion r tiny).poisonedAt .hbm (pl.pa / 64) && !(withRegion r tiny).stackHeld .hbm (pl.pa / 64))) = true := by
  match uop, h with
  | 0, _ | 1, _ | 2, _ | 3, _ | 4, _ => decide +kernel
/-- A gateway that meets owner 5's token, that owner's region alone in slot 5. -/
theorem witness_GatewayReject :
    let q := { running with slot := 5, gen := 4, frames := [1] }
    let s := withStack (fun st => { st with regions := [running, q] }) tiny
    (regionThere s running && decide (0 ∈ running.frames) && decide (q.owner ≠ running.owner) && !q.over
      && (s.stack 0).regions.all (fun z => z.owner ≠ q.owner || z.over || z = q)) = true := by decide +kernel
/-- The same at the gateway of generator 3, and at one that none of the region's streams is on. -/
theorem witness_GatewayReject_generator (on : Bool) : let r := { running with streams := [{ aStream 0 1 [] false with ag := 3 }] }
    (regionThere (withRegion r tiny) r && (decide (r.frames ≠ [] ∧ ∃ x ∈ r.streams, x.ag = (if on then 19 else 20) - 16) = on)) = true := by cases on <;> decide +kernel
theorem witness_GatewayReject_own : ((7 ∉ running.frames) ∧ region0.owner = running.owner) := by decide +kernel

/-- A region that its images and a free frame let place; one that needs a frame that is not assigned. -/
theorem witness_Placement :
    let s := withImage [] (withRegion region0 tiny)
    (regionThere s region0 && !(s.part 0).swapping && !(s.stack 0).fwBusy && decide (1 ≤ ((List.range 16).filter ((s.stack 0).assigned 0 (s.world 0))).length)
      && (s.stack 0).regions.all (fun q => q.part ≠ 0 || q.state ≠ 1 || decide (1 ≤ q.order))
      && decide (pickFrames ((s.stack 0).freeFrames 0 (s.world 0)) 1 = some [0]) && s.agsFree 0 region0 (region0.streamsOf 0) && region0.images ≠ []) = true := by decide +kernel
theorem witness_Placement_fails :
    let s := withRegion { region0 with reserve := 9 } tiny
    decide (((List.range 16).filter ((s.stack 0).assigned 0 (s.world 0))).length < 9) = true := by decide +kernel
/-- A configuration that starts, with an input stream of tensor 1. -/
theorem witness_StartConfig :
    let s := withImage [streamRecord 1 0 12 2] (withRegion { region0 with state := 2, frames := [0] } tiny)
    (match s.loadImage 0 0 0x11000 with
      | .error _ => false
      | .ok (g, t2) => match t2.startPads 0 0 0 g.pads with
        | .error _ => false
        | .ok pads => match t2.checkStreams 0 0 pads g.ags 0 g.ags with
          | .error _ => false
          | .ok (_, t3) => g.ags.length = 1 && (pickAgs 1 ((List.range 32).map (t3.stack 0).agLoad)).isSome) = true := by decide +kernel
/-- A configuration that is complete, the last and one before the last. -/
def complete (n : Nat) : Region := { running with images := List.replicate n 0x11000#64, pads := [{ aPad 0#2 with pes := [] }] }
theorem witness_ConfigComplete (n : Nat) (h : n = 1 ∨ n = 2) :
    let s := withImage [] (withRegion (complete n) tiny)
    (regionThere s (complete n) && (complete n).configDone && !(complete n).drained && !(complete n).unstarted && (complete n).mbar = 0#64) = true := by
  rcases h with rfl | rfl <;> decide +kernel
/-- A placed region whose configuration found no generator slots. -/
theorem witness_ConfigComplete_unstarted : ({ running with pads := [] } : Region).unstarted = true ∧ running.unstarted = false := by decide +kernel
theorem witness_ConfigComplete_not : (running.state = 2 && !running.configDone) = true := by decide +kernel
/-- Drains asked for: each reason of a running region; quiescence of a drained one that fails, stops, and moves with room and without. -/
def drains (why : DrainWhy) (state : Nat) : Region := { running with drain := some why, state := state }
theorem witness_DrainRequest (why : DrainWhy) (area : Bool) : let s := (withRegion (drains why 2) tiny).updPart 0 (fun p => { p with arrSaveSize := if area then 1#32 else 0#32 })
    (regionThere s (drains why 2) && !(drains why 2).configDone && (decide ((s.part 0).arrSaveSize ≠ 0#32) = area)) = true := by
  cases why <;> cases area <;> decide +kernel
theorem witness_Quiescence (why : DrainWhy) (room : Bool) :
    let s := (withRegion (drains why 3) tiny).updPart 0 (fun p => { p with arrSaveSize := if room then 1#32 else 0#32 })
    (regionThere s (drains why 3) && (drains why 3).streams.all (fun x => x.asm = [] || x.mark.isSome || x.stopped) && (drains why 3).frames ≠ [] && (drains why 3).mbar = 0#64 && 0 < s.parts.length
      && (decide ((s.part 0).arrSaveUsed + (drains why 3).saveUnits ≤ (s.part 0).arrSaveSize.toNat) = room)) = true := by
  cases why <;> cases room <;> decide +kernel
theorem witness_Quiescence_not :
    let r := { drains .stop 3 with streams := [aStream 1 2 [5] false] }
    (regionThere (withRegion r tiny) r && r.frames ≠ [] && r.streams.any (fun x => x.asm ≠ [] && x.mark.isNone && !x.stopped)) = true := by decide +kernel
/-- A region that was saved for a move, or for a swap, and finds a frame, its input stream's record in the image. -/
theorem witness_Restore (swap : Bool) :
    let r := { streaming (aStream 0 2 [] false) [] with
      state := 3, frames := [], drain := some (if swap then .swap else .move), saveAt := [0] }
    let s := withImage [streamRecord 1 0 12 2] (withRegion r tiny)
    (regionThere s r && r.pads.length = 1 && decide (pickFrames ((s.stack 0).freeFrames 0 (s.world 0)) r.reserve = some [0]) && s.agsFree 0 r 1
      && (match s.loadImage 0 0 0x11000 with
        | .error _ => false
        | .ok (g, s1) => match (s1.startPads 0 0 0 g.pads).toOption.bind (fun fresh => (s1.checkStreams 0 0 fresh g.ags 0 g.ags).toOption) with
          | none => false
          | some (ts, s2) => ts.length = 1 && (pickAgs 1 ((List.range 32).map (s2.stack 0).agLoad)).isSome)) = true := by
  cases swap <;> decide +kernel

/-- Compaction of a region on frames 3 and 4, two free in one clock region, one move a millisecond allowed. -/
theorem witness_Compaction (on : Bool) :
    let r := { running with frames := [3, 4], reserve := 2 }
    let s := withStack (fun st => { st with chamCtl := if on then 0x10400#64 else 0x400#64 }) (withRegion r tiny)
    (((s.stack 0).chamCtl.getLsbD 16 = on) && regionThere s r && decide (∃ f ∈ r.frames, f / 4 ≠ (r.frames.getD 0 0) / 4)
      && decide (∃ q < 4, r.reserve ≤ (((s.stack 0).freeFrames r.part (s.world r.part)).filter (fun f => f / 4 = q)).length)
      && decide ((s.stack 0).compactions < ((s.stack 0).chamCtl.extractLsb' 8 8).toNat)) = true := by cases on <;> decide +kernel
/-- Clock region 0 with a region placed and clock region 1 without; the frequency fixed or not. -/
theorem witness_Aclk (fixed : Bool) :
    let s := withStack (fun st => { st with aclkCtl := if fixed then 0x10E1207400004#64 else st.aclkCtl }) (withRegion running tiny)
    (((s.stack 0).aclkCtl.getLsbD 48 = fixed) && decide (1 < (s.stack 0).aclkF.length) && decide (∃ r ∈ (s.stack 0).regions, ∃ x ∈ r.frames, x / 4 = 0)
      && decide (∀ r ∈ (s.stack 0).regions, ∀ x ∈ r.frames, x / 4 ≠ 1)) = true := by cases fixed <;> decide +kernel
/-- An invalidation in the queue that takes the cached translation of the page, and none. -/
theorem witness_TlbInv : let s := (withRegion { running with streams := [aStream 0 2 [] false], state := 3 } tiny).updPart 0 (fun p => { p with tlbQueue := [(0x10000#64, 1)] })
    (s.part 0).tlbQueue = [(0x10000#64, 1)] ∧ (∀ k < 12, ∀ r ∈ (s.stack k).regions, r.state ≠ 2) ∧ s.mem.tlb ≠ [] ∧ (tiny.part 0).tlbQueue = [] := by decide +kernel

/-! ## Witnesses: Gecko and top-k -/

/-- The mapped page stream-shared. -/
def shared (s : State) : State :=
  { s with mem := { s.mem with hbm := s.mem.hbm.map (fun x => if x.1 = 0x5008 then (x.1, 0x3F#8) else x) } }
/-- A table over family 0 with rows in tensor 1: one f32 element each. -/
def aTable : Table :=
  { family := 0, policy := 0#2, cap := 8, tens := ten 12 1 1 1, part := 0, buckets := [], newFamily := none, cursor := 0, newBuckets := [], seq := 0#32
    accepted := 0#32, evicts := 0#16, drops := 0#16, trunc := 0#16, spills := 0#16 }
/-- Group 0 of stack 0 assigned to partition 0, with families 0 and 1 of two bits, and tables as given. -/
def withGecko (tables : List (Nat × Table)) (s : State) : State :=
  (s.updStack 0 (fun st => { st with
    gkAssign := 0x80#64, families := (st.families.set 0 (some ⟨2, 1, 0#32⟩)).set 1 (some ⟨2, 1, 1#32⟩)
    tables := tables.foldl (fun ts x => ts.set x.1 (some x.2)) st.tables })).updDie 0 (fun d => { d with tcache := [(0, 1, ten 12 1 1 1)] })
/-- Family 2 has 16 bits, and table 1 over it takes the whole directory. -/
def dirTaken (s : State) : State :=
  s.updStack 0 (fun st => { st with families := st.families.set 2 (some ⟨16, 1, 0#32⟩), tables := st.tables.set 1 (some { aTable with family := 2, cap := 32 }) })
def owns (c : Cx) : Bool :=
  let v := (c.s.stack 0).gkAssign.extractLsb' 0 8
  v.getLsbD 7 && (v.extractLsb' 0 4).toNat = c.part && (v.getLsbD 6 = c.s.world c.part) && !(c.s.stack 0).fwBusy && decide (0 < c.s.stks.length)
    && (c.s.stack 0).families.length = 16 && (c.s.stack 0).tables.length = 64
def gkE (dst : Nat) : Enc := en 0 dst 264 266 268

/-- gk.hf: a handle of 192; a bad word; family 0 in use; family 3 free. -/
theorem witness_GkHf (h w : Nat) (hx : (h, w) ∈ [(192, 0), (0, 0), (0, 0x10001), (3, 0x10001)]) :
    ∃ c, Issued 0xD0 (gkE 511) (withS [(8, h), (10, w)] (withGecko [(0, aTable)] tiny)) c ∧ c.n32 (gkE 511).a = h ∧ c.n32 (gkE 511).b = w ∧ owns c = true
      ∧ (c.s.stack 0).famUsed 0 = true ∧ (c.s.stack 0).famUsed 3 = false := by
  simp only [List.mem_cons, Prod.mk.injEq, List.not_mem_nil, or_false] at hx
  rcases hx with ⟨rfl, rfl⟩ | ⟨rfl, rfl⟩ | ⟨rfl, rfl⟩ | ⟨rfl, rfl⟩ <;> exact meets (by decide +kernel)
/-- gk.tbl of table 0 over family 0: a bad word, a directory that is full, and one with room. -/
theorem witness_GkTbl (w : Nat) (full : Bool) (hx : (w, full) ∈ [(0x4001, false), (1, true), (1, false)]) :
    ∃ c, Issued 0xD1 (gkE 511) (withS [(12, w)] (let s := withGecko [] tiny; if full then dirTaken s else s)) c ∧ c.n32 (gkE 511).a = 0 ∧ c.n32 (gkE 511).b = 0
      ∧ c.n32 (gkE 511).c = w ∧ owns c = true ∧ (c.s.stack 0).family 0 = some ⟨2, 1, 0#32⟩ ∧ (c.gkTensor 1 1 matches .ok _) = true
      ∧ (c.s.stack 0).table 0 = none ∧ ((c.s.stack 0).dirFree < 2 ^ 2 * 8 * 4 ↔ full = true) := by
  simp only [List.mem_cons, Prod.mk.injEq, List.not_mem_nil, or_false] at hx
  rcases hx with ⟨rfl, rfl⟩ | ⟨rfl, rfl⟩ | ⟨rfl, rfl⟩ <;> exact meets (by decide +kernel)
/-- gk.ins and gk.del: a handle of 768, no table, a row beyond the rows, and row 0. -/
theorem witness_GkRow (op h row : Nat) (ho : op = 0xD2 ∨ op = 0xD3) (hx : (h, row) ∈ [(768, 0), (1, 0), (0, 1), (0, 0)]) :
    ∃ c, Issued op (en 0 258 264 266 0) (withS [(8, h), (10, row)] (withGecko [(0, aTable)] tiny)) c ∧ c.n32 (en 0 258 264 266 0).a = h ∧ c.n32 (en 0 258 264 266 0).b = row ∧ owns c = true
      ∧ (c.s.stack 0).table 1 = none ∧ (c.s.stack 0).table 0 = some aTable ∧ (((c.s.stack 0).view 0).any (fun v => gkRows v.tens = 1)) = true := by
  simp only [List.mem_cons, Prod.mk.injEq, List.not_mem_nil, or_false] at hx
  rcases ho with rfl | rfl <;> rcases hx with ⟨rfl, rfl⟩ | ⟨rfl, rfl⟩ | ⟨rfl, rfl⟩ | ⟨rfl, rfl⟩ <;> exact meets (by decide +kernel)
/-- gk.probe of table 0 with line 0 of tensor 1. -/
theorem witness_GkProbe : ∃ c, Issued 0xD4 (gkE 2) (withS [(10, 1)] (withGecko [(0, aTable)] tiny)) c ∧ c.n32 (gkE 2).a = 0 ∧ owns c = true
    ∧ (c.s.stack 0).table 0 = some aTable ∧ (c.gkInput (c.n32 (gkE 2).b) (TEntry.dim aTable.tens 0) matches .ok _) = true := meets (by decide +kernel)
/-- gk.rehash of table 0 to family 1: by no bucket, with a full directory, and with room. -/
theorem witness_GkRehash (n : Nat) (full : Bool) (hx : (n, full) ∈ [(0, false), (1, true), (1, false)]) :
    ∃ c, Issued 0xD5 (gkE 258) (withS [(10, 1), (12, n)] (let s := withGecko [(0, aTable)] tiny; if full then dirTaken s else s)) c
      ∧ c.n32 (gkE 258).a = 0 ∧ c.n32 (gkE 258).b = 1 ∧ c.n32 (gkE 258).c = n ∧ owns c = true ∧ (c.s.stack 0).family 1 = some ⟨2, 1, 1#32⟩
      ∧ (c.s.stack 0).table 0 = some aTable ∧ (((c.s.stack 0).view 0).any (fun v => v.family = 0 && v.newFamily.isNone && v.cap = 8)) = true
      ∧ ((c.s.stack 0).dirFree < 2 ^ 2 * 8 * 4 ↔ full = true) := by
  simp only [List.mem_cons, Prod.mk.injEq, List.not_mem_nil, or_false] at hx
  rcases hx with ⟨rfl, rfl⟩ | ⟨rfl, rfl⟩ | ⟨rfl, rfl⟩ <;> exact meets (by decide +kernel)
/-- gk.eval of the block in s8-s13: no table; TOPK without a list; table 0 with the input of tensor 1, without TOPK and with a list. -/
theorem witness_GkEval (n flag k : Nat) (hx : (n, flag, k) ∈ [(0, 0, 0), (5, 0, 0), (1, 1, 0), (1, 0, 0), (1, 1, 4)]) :
    ∃ c, Issued 0xD6 (en 0 2 264 0 0) (withS [(8, n), (9, 1), (10, flag)] ((withGecko [(0, aTable)] tiny).updWave 0 (fun w => { w with topk := { k := k } }))) c
      ∧ (c.w.sget 8).toNat = n ∧ (c.w.sget 10).toNat = flag ∧ (c.w.sget 11).toNat = 0 ∧ (c.w.sget 12).toNat = 0 ∧ c.w.topk.k = k ∧ c.w.ns ≥ 8 + 4 + 2 * n
      ∧ owns c = true ∧ (c.s.stack 0).table 0 = some aTable ∧ (c.gkInput (c.w.sget 9).toNat 1 matches .ok _) = true := by
  simp only [List.mem_cons, Prod.mk.injEq, List.not_mem_nil, or_false] at hx
  rcases hx with ⟨rfl, rfl, rfl⟩ | ⟨rfl, rfl, rfl⟩ | ⟨rfl, rfl, rfl⟩ | ⟨rfl, rfl, rfl⟩ | ⟨rfl, rfl, rfl⟩ <;> exact meets (by decide +kernel)
/-- gk.seq and gk.stat of table 0, no rehash open and one open at bucket 1. -/
theorem witness_GkSeq (op : Nat) (rehash : Bool) (ho : op = 0xD7 ∨ op = 0xD8) :
    ∃ c, Issued op (en 0 258 264 0 0) (withGecko [(0, { aTable with newFamily := if rehash then some 1 else none, cursor := if rehash then 1 else 0 })] tiny) c
      ∧ c.n32 (en 0 258 264 0 0).a = 0 ∧ owns c = true ∧ (((c.s.stack 0).table 0).any (fun r => r.family = 0 && (r.newFamily = if rehash then some 1 else none))) = true := by
  rcases ho with rfl | rfl <;> cases rehash <;> exact meets (by decide +kernel)

/-- The unit with one update of table 0 for the wave's s2, each bucket of the table with some ids. -/
def unitState (ids : List Nat) (policy : Nat) (op : GkOp) : State :=
  let bs := if ids = [] then [] else (List.range 4).map (fun b => (b, ({ ids := ids.map (BitVec.ofNat 32), chain := 0 } : Bucket)))
  (withGecko [(0, { aTable with policy := BitVec.ofNat 2 policy, buckets := bs, accepted := 1#32 })] (shared tiny)).updStack 0 (fun st => { st with
    updates := [⟨0, 1#32, 0, 0, 258#9, op⟩], spillSize := [1#64, 0#64, 0#64, 0#64] })
def unitOk (s : State) : Bool :=
  !(s.stack 0).fwBusy && calm s && !s.unitHeld 5 0 && !(s.part 0).dbgCtl.getLsbD 3 && decide ((s.part 0).replayPh ≠ .running) && decide ((s.stack 0).tables.length = 64)
    && ((s.stack 0).family 0 = some ⟨2, 1, 0#32⟩) && (s.gkRow 0 aTable.tens 0 matches .ok _)
    && ((s.stack 0).table 0).any (fun r => r.family = 0 && r.newFamily.isNone && r.buckets.all (fun b => b.2.chain = 0 && decide (b.2.ids.length ≤ r.cap)))
/-- An insert of row 0 that is there, that finds room, and that finds its bucket full under each policy; a delete; each form of a rehash. -/
theorem witness_GkUpdate_there : unitOk (unitState [0] 0 (.ins 0#32)) = true := by decide +kernel
theorem witness_GkUpdate_room : unitOk (unitState [] 0 (.ins 0#32)) = true := by decide +kernel
theorem witness_GkUpdate_full (policy : Nat) (h : policy < 3) : unitOk (unitState [1, 2, 3, 4, 5, 6, 7, 8] policy (.ins 0#32)) = true := by
  match policy, h with
  | 0, _ | 1, _ | 2, _ => decide +kernel
theorem witness_GkUpdate_spill :
    let s := unitState [1, 2, 3, 4, 5, 6, 7, 8] 2 (.ins 0#32)
    let st := s.stack 0
    (s.mem.hbm.wf ∧ spillAddr st 0 0 + 128 ≤ 720 * 2 ^ 30 ∧ (st.spillSize.getD 0 0#64).toNat % 2 ^ 32 ≠ 0 ∧ st.spillUsed.getD 0 [] = [] ∧ 0 < st.spillUsed.length ∧ st.spillNext.getD 0 none = none) := by decide +kernel
theorem witness_GkUpdate_del : unitOk (unitState [0] 0 (.del 0#32)) = true := by decide +kernel
theorem witness_GkUpdate_rehash (n : Nat) (h : n = 1 ∨ n = 4) : unitOk (unitState [] 0 (.rehash 1 n)) = true := by rcases h with rfl | rfl <;> decide +kernel
/-- Its row lies on a page that is not stream-shared. -/
theorem witness_GkUpdate_fault (del : Bool) :
    let s := { unitState [] 0 (if del then .del 0#32 else .ins 0#32) with mem := tiny.mem }
    ((match s.gkRow 0 aTable.tens 0 with | .error f => f = (33#6, 0x15000) | .ok _ => false) && (s.wave? 0).isSome) = true := by cases del <;> decide +kernel
/-- A read of table 0, its minimum reached or not, withdrawn or not, for v2 (and v3). -/
def aRead (eval topk : Bool) (min : Word) : GkRead := ⟨0, 0, 2#9, eval, topk, [(0, min)], 0, ten 12 1 1 1, false, false⟩
def readState (r : GkRead) : State := (unitState [0] 0 (.ins 0#32)).updStack 0 (fun st => { st with updates := [], reads := [r] })
theorem witness_GkRead_waits :
    (!(readState (aRead false false 1#32)).gkReady 0 (aRead false false 1#32) && ((readState { aRead false false 0#32 with withdrawn := true }).stack 0).reads.all GkRead.withdrawn) = true := by
  decide +kernel
theorem witness_GkRead (eval topk empty : Bool) :
    let r := { aRead eval topk 0#32 with empty := empty }
    let s := readState r
    (unitOk s && s.gkReady 0 r && (s.wave? 0).any (fun w => w.vregs.all (fun x => x.length = 32) && decide (3 < w.vregs.length))) = true := by
  cases eval <;> cases topk <;> cases empty <;> decide +kernel
theorem witness_GkAssign : (decide ((State.reset.stack 0).tables.length = 64) && decide ((State.reset.stack 0).families.length = 16)) = true := by decide +kernel

/-- topk.clr of 0, 65, 1 and 64. -/
theorem witness_TopkClr (k : Nat) (h : k ∈ [0, 65, 1, 64]) : ∃ c, Issued 0xDC (en 0 511 264 0 0) (withS [(8, k)] tiny) c ∧ c.n32 (en 0 511 264 0 0).a = k := by
  simp only [List.mem_cons, List.not_mem_nil, or_false] at h
  rcases h with rfl | rfl | rfl | rfl <;> exact meets (by decide +kernel)
/-- topk.ins of lane 0's pair (2.0, 7), or of none, into a list of `k` that holds (3.0, 1) and, when it is full, ranks the pair below. -/
def topkState (k : Nat) (some_ : Bool) (entries : List (Word × Word)) : State :=
  (withV [(4, List.replicate 32 0x40000000), (6, (if some_ then 7 else 0xFFFFFFFF) :: List.replicate 31 0xFFFFFFFF)] tiny).updWave 0 (fun w => { w with
    topk := { k := k, entries := entries, sel := 0#32, exc := 0#32 } })
theorem witness_TopkIns_none : ∃ c, Issued 0xD9 (en 0 511 4 6 0) (topkState 0 true []) c ∧ c.w.topk.k = 0 := meets (by decide +kernel)
theorem witness_TopkIns (k : Nat) (some_ : Bool) (h : k = 1 ∨ k = 2) : ∃ c, Issued 0xD9 (en 0 511 4 6 0) (topkState k some_ [(0x40400000#32, 1#32)]) c
    ∧ c.w.topk.k = k ∧ c.w.topk.entries.length ≤ c.w.topk.k ∧ c.w.topk.entries.Pairwise (fun a b => ranksAbove b a = false)
    ∧ ((lanesOf c.active).map (fun l => (BitVec.ofNat 32 (c.src (en 0 511 4 6 0).a .b32 l), BitVec.ofNat 32 (c.src (en 0 511 4 6 0).b .b32 l)))).filter (fun x => x.2 ≠ 0xFFFFFFFF#32)
        = (if some_ then [(0x40000000#32, 7#32)] else [])
    ∧ c.w.topk.entries.getLast?.all (fun z => !ranksAbove (0x40000000#32, 7#32) z) = true := by
  rcases h with rfl | rfl <;> cases some_ <;> exact meets (by decide +kernel)
theorem witness_TopkRd (h : Nat) (hx : h = 0 ∨ h = 2) (f32 : Bool) : let e := en (if f32 then 0x600 else 0x500) 2 264 0 0
    ∃ c, Issued 0xDB e (withS [(8, h)] (topkState 2 true [(0x40400000#32, 1#32)])) c ∧ c.n32 e.a = h
    ∧ 2 < c.w.vregs.length ∧ (∀ x ∈ c.w.vregs, x.length = 32) := by
  rcases hx with rfl | rfl <;> cases f32 <;> exact meets (by decide +kernel)
/-- The image of a list with `count` entries, all zero but its count. -/
def listImage (count : Nat) : List Byte := List.replicate 4 0#8 ++ leBytes 4 count ++ List.replicate 568 0#8
theorem witness_TopkMrg (image : List Byte) (h : image ∈ [[], listImage 65, listImage 1]) :
    ∃ c, Issued 0xDA (en 0 511 264 266 0) ((topkState 2 true [(0x40400000#32, 1#32)]).updWave 0 (fun w => { w with stage := 9, image := image })) c
    ∧ c.w.stage = 9 ∧ c.w.loads = [] ∧ c.w.image = image := by
  simp only [List.mem_cons, List.not_mem_nil, or_false] at h
  rcases h with rfl | rfl | rfl <;> exact meets (by decide +kernel)
theorem witness_TopkMrg_count : (imageWord (listImage 65) 1).toNat = 65 ∧ (imageWord (listImage 1) 1).toNat = 1 := by decide +kernel

/-! ## Witnesses: memory controllers, the capacity tier, the host, peers and frames -/

/-- The data column of line 0x80, which lies on stack 0. -/
def aCol : HbmCoord := tiny.mem.coordOf 0x80
theorem aCol_eq : aCol = columnNumber 0 (interleave 0x80) := by
  have h : tiny.mem.linePlace 0x80 = 0x80 := by decide +kernel
  simp only [aCol, Mem.coordOf, h]; rfl
/-- The clock at 1,400; its bank, with its open row and hits, the ACT of its row, poison and wrong columns as given. -/
def colState (o : Option Nat) (hits : Nat) (act : BitVec 16) (poison : List Nat) (columns : List BadColumn) : State :=
  { withStack (fun st => { st with banks := [⟨aCol.bank, o, 700, hits, none, [], 0, 0⟩], rows := [⟨aCol.bank, aCol.row, act⟩] }) tiny with
    clk := 1400#64, mem := { tiny.mem with poison := poison, columns := columns } }
theorem colState_stack (o : Option Nat) (hits : Nat) (act : BitVec 16) (poison : List Nat) (columns : List BadColumn) :
    (colState o hits act poison columns).stack 0 = { Stack.reset with
      banks := [⟨aCol.bank, o, 700, hits, none, [], 0, 0⟩], rows := [⟨aCol.bank, aCol.row, act⟩] } := rfl
theorem witness_Served (o : Option Nat) (hits : Nat) (act : BitVec 16) (poison : List Nat) (columns : List BadColumn) (write : Option Bool) (errs : Nat) :
    let s := colState o hits act poison columns
    let r : HbmReq := { coord := aCol, part := 0, line := 0x80, write := write, errs := errs }
    let k := r.coord.bank.stack
    (k < s.stks.length ∧ coordOk r.coord = true ∧ s.mem.coordOf r.line = r.coord ∧ s.bankHeld r.coord = false
      ∧ s.channelChoice (((s.stack k).join r).noteReq r.coord.bank.pch s.clk) (r.coord.bank.pch / 2) = some r) ∧ s.mem.wf
    ∧ (s.stack k).bankSt aCol.bank = ⟨aCol.bank, o, 700, hits, none, [], 0, 0⟩ ∧ (s.stack k).hbmRow aCol.bank aCol.row = ⟨aCol.bank, aCol.row, act⟩
    ∧ ((s.stack k).hbmCtl.extractLsb' 32 16).toNat = 4096 := by
  have hk : aCol.bank.stack = 0 := by rw [aCol_eq]; rfl
  have hs := colState_stack o hits act poison columns
  have hc : (colState o hits act poison columns).ctlClock = 800 := by simp [State.ctlClock, colState]
  simp only [hk, hs]
  have hb : ∀ st : Stack, st.banks = [⟨aCol.bank, o, 700, hits, none, [], 0, 0⟩] → st.bankSt aCol.bank = ⟨aCol.bank, o, 700, hits, none, [], 0, 0⟩ := by
    intro st h; simp [Stack.bankSt, h]
  have hl : 0 < (colState o hits act poison columns).stks.length := by
    simp only [colState, withStack, State.updStack, List.length_modify]; decide +kernel
  have hw : tiny.mem.wf := by decide +kernel
  refine ⟨⟨hl, ?_, rfl, ?_, ?_⟩, hw, ?_, ?_, ?_⟩
  · rw [aCol_eq]; exact columnNumber_ok (by decide) (interleave_lt (by decide))
  · show (_ || (State.stack _ aCol.bank.stack).fwBusy || _) = false
    rw [hk]; rfl
  · by_cases h : o = some aCol.row <;>
      simp [State.channelChoice, hc, State.qosPos, Stack.eligible, Stack.join, Stack.noteReq, Stack.reset, Stack.qosSlot, qosReg, bitsOf,
        Stack.bankChoice, hb, h, BankSt.isHit, BankSt.isConflict, BankSt.mayTurn]
  · exact hb _ rfl
  · simp [Stack.hbmRow]
  · decide

/-- A hit, an activation below the threshold and one that reaches it, poisoned and not, with a column that is no codeword and without. -/
theorem witness_Served_cases (o : Option Nat) (act : BitVec 16) (poison : List Nat) (columns : List BadColumn) (ha : act = 0#16 ∨ act = 4095#16) (hp : poison = [] ∨ poison = [0x80]) (hc : columns = [] ∨ columns = [⟨0x80, List.replicate 64 0#8, 1#32⟩]) :
    let s := colState o 0 act poison columns
    ((s.stack 0).bankSt aCol.bank).openRow = o ∧ min 65535 (((s.stack 0).hbmRow aCol.bank aCol.row).act.toNat + 1) = act.toNat + 1
      ∧ (0x80 ∈ s.mem.poison ↔ poison ≠ []) ∧ (s.mem.columns.find? (fun y => y.line = 0x80)).isSome = !columns.isEmpty := by
  have h1 : ∀ st : Stack, st.banks = [⟨aCol.bank, o, 700, 0, none, [], 0, 0⟩] → (st.bankSt aCol.bank).openRow = o := by intro st h; simp [Stack.bankSt, h]
  have h2 : ∀ st : Stack, st.rows = [⟨aCol.bank, aCol.row, act⟩] → (st.hbmRow aCol.bank aCol.row).act = act := by intro st h; simp [Stack.hbmRow, h]
  refine ⟨h1 _ rfl, ?_, ?_, ?_⟩
  · rw [h2 _ rfl]; rcases ha with rfl | rfl <;> decide
  · rcases hp with rfl | rfl <;> simp [colState]
  · rcases hc with rfl | rfl <;> simp [colState]

/-- Zeros under a CHECK that is wrong in one byte: corrected, but not with two bytes more read in error. -/
theorem witness_Column : (columnFix 2 (List.replicate 64 0#8) 1#32).isSome = true ∧ columnFix 0 (List.replicate 64 0#8) 1#32 = none := by
  constructor
  · simp only [columnFix, nearLists, List.cons_append, List.nil_append, List.find?_cons]
    rw [show (decide _ : Bool) = true from by decide +kernel]; rfl
  · decide +kernel

/-- The clock at 1,400; a bank's open row, hits, commands due and busy clock, and its stack's queue, as given. -/
def bankState (o : Option Nat) (hits : Nat) (due : List Nat) (busy : Nat) (q : List HbmReq) : State :=
  { withStack (fun st => { st with banks := [⟨aBank, o, 700, hits, some 700, due, busy, 0⟩], queue := q }) tiny with clk := 1400#64 }
def aReq (row : Nat) : HbmReq := ⟨⟨aBank, row, 3⟩, 0, row, none, 0⟩
/-- A channel chooses the oldest hit, the oldest request for another row once HIT_CAP hits have passed it, and a sole request. -/
theorem witness_Choice (row : Nat) (h : row = 5 ∨ row = 6) : let s := bankState (some 5) (if row = 5 then 0 else 64) [] 0 [aReq 6, aReq 5]
    s.channelChoice (s.stack 0) 0 = some (aReq row) := by rcases h with rfl | rfl <;> decide +kernel
theorem witness_Choice_sole (hit : Bool) : let s := bankState (some (if hit then 5 else 6)) 0 [] 0 [aReq 5]
    let st := s.stack 0
    let bk := st.bankSt aBank
    st.queue = [aReq 5] ∧ st.qosSlot 0 (s.ctlClock / 4 % 64) < 128 ∧ (0, s.ctlClock / 4) ∉ st.slotUsed ∧ bk.busy ≤ s.ctlClock ∧ bk.occupied ≤ s.ctlClock
      ∧ bk.due = [] ∧ bk.lastAct = some 700 ∧ 700 + 40 ≤ s.ctlClock ∧ (bk.openRow = some 5 ↔ hit = true) := by cases hit <;> decide +kernel
/-- An idle bank, one with a request, one that is closed. -/
theorem witness_IdlePrecharge (o : Option Nat) (h : o = some 5 ∨ o = none) (asked : Bool) : let s := bankState o 0 [] 0 (if asked then [aReq 5] else [])
    let bk := (s.stack 0).bankSt aBank
    bk.openRow = o ∧ bk.lastUse + ((s.stack 0).hbmCtl.extractLsb' 0 16).toNat ≤ s.ctlClock ∧ ((s.stack 0).queue = [] ↔ asked = false) := by
  rcases h with rfl | rfl <;> cases asked <;> decide +kernel
/-- A command due: the row closed; a request for another row alone, and after HIT_CAP hits; only hits waiting. -/
theorem witness_RefreshManagement (o : Option Nat) (hits : Nat) (rows : List Nat)
    (h : (o, hits, rows) ∈ [(none, 0, []), (some 6, 0, [5]), (some 6, 64, [6, 5]), (some 5, 0, [5])]) :
    let s := bankState o hits [5] 0 (rows.map aReq)
    let bk := (s.stack 0).bankSt aBank
    bk.due = [5] ∧ bk.busy ≤ s.ctlClock ∧ bk.occupied ≤ s.ctlClock ∧ bk.openRow = o ∧ bk.lastAct = some 700 ∧ 700 + 40 ≤ s.ctlClock
      ∧ (hits = 64 → ((s.stack 0).hbmCtl.extractLsb' 24 8).toNat ≤ bk.hits) ∧ (s.stack 0).queue = rows.map aReq := by
  simp only [List.mem_cons, Prod.mk.injEq, List.not_mem_nil, or_false] at h
  rcases h with ⟨rfl, rfl, rfl⟩ | ⟨rfl, rfl, rfl⟩ | ⟨rfl, rfl, rfl⟩ | ⟨rfl, rfl, rfl⟩ <;> decide +kernel
theorem witness_RefreshManagement_not : ((tiny.stack 0).bankSt aBank).due = [] ∧ bankOk aBank = true ∧ bankOk ⟨12, 0, 0⟩ = false := by decide +kernel
/-- A controller clock in which a command holds a bank, with a request to it and without. -/
theorem witness_HbmClock (asked : Bool) : let t := bankState none 0 [] 900 (if asked then [aReq 5] else [])
    tiny.ctlClock ≠ t.ctlClock ∧ 0 < t.stks.length ∧ ((t.stack 0).banks.map BankSt.bank).Nodup ∧ tiny.ctlClock < ((t.stack 0).bankSt aBank).busy
      ∧ ((t.stack 0).queue = [] ↔ asked = false) := by cases asked <;> decide +kernel

/-- Extents there, a command in progress, a checkpoint running. -/
def tierState (es : List Extent) (busy : Option CtPending) (run : Bool) : State := tiny.updHub (fun h => { h with extents := es, ctBusy := busy, ckptRun := run })
/-- A command of each kind starts or finds one pending, the extent there (retained or not) and not there. -/
theorem witness_CtStart (op : Nat) (busy : Bool) (es : List Extent) (ho : op ∈ [1, 2, 3, 4]) (he : es ∈ [[], [⟨7, 0#24, false⟩], [⟨7, 0#24, true⟩]]) :
    let s := tierState es (if busy then some ⟨1, 8, 0#24, 0#8⟩ else none) false
    let v : Dword := BitVec.ofNat 64 (op * 2 ^ 56 + 7)
    ((v.extractLsb' 56 8).toNat = op ∧ (v.extractLsb' 0 15).toNat = 7 ∧ s.hub.ctBusy.isSome = busy ∧ (s.hub.extents.map Extent.num).Nodup) := by
  simp only [List.mem_cons, List.not_mem_nil, or_false] at ho he
  rcases ho with rfl | rfl | rfl | rfl <;> rcases he with rfl | rfl | rfl <;> cases busy <;> decide +kernel
/-- A command that ends: refused, each one that takes effect, and a release whose extent is being read. -/
theorem witness_CtDone : ((tierState [⟨7, 0#24, false⟩] (some ⟨2, 7, 0#24, 0#8⟩) false).extentBusy 7 = false)
    ∧ (let s := (tierState [⟨7, 0#24, false⟩] (some ⟨2, 7, 0#24, 0#8⟩) false).updWave 0 (fun w => { w with
         loads := [readFrom .tier ((2 ^ 51 + 7 * 2 ^ 30) / 64)] })
       s.extentBusy 7 = true) := by decide +kernel
/-- A checkpoint that may start: partition 0 halted, the others without work, extents 0-767 retained; one that copies to the extents or back. -/
def ckptState (run back : Bool) : State :=
  let s := ((tierState ((List.range 768).map (fun e => ⟨e, 0#24, true⟩)) none run).updHub (fun h => { h with ckptBack := back })).updPart 0 (fun p => { p with halted := true })
  { s with mem := { s.mem with homeMap := [] } }
theorem witness_CkptStart_extents (e : Nat) (h : e < 768) :
    ∃ x, (ckptState false false).hub.extents.find? (fun x => x.num = e) = some x ∧ x.retain = true := by
  refine ⟨⟨e, 0#24, true⟩, ?_, rfl⟩
  simp [ckptState, tierState, State.updHub, State.updPart, List.find?_map, List.find?_range_eq_some, h]
  intro j hj; omega
theorem witness_CkptStart : let s := ckptState false false
    (∀ p < 16, (s.part p).halted = true ∨ (∀ b ∈ s.blocks, s.partOfBlock b.uid ≠ p)) ∧ s.cmds = [] ∧ (∀ st ∈ s.stks, st.regions = [] ∧ st.updates = [])
      ∧ s.mem.sysL2 = [] ∧ s.mem.wf ∧ s.hub.ckptRun = false := by decide +kernel
theorem witness_CkptStart_not : tiny.hub.extents = [] ∧ tiny.hub.ckptRun = false := by decide +kernel
theorem witness_CkptComplete (back : Bool) : let s := ckptState true back
    (∀ p < 16, (s.part p).fqHeld = []) ∧ s.mem.columns = [] ∧ s.hub.ckptRun = true ∧ s.hub.ckptBack = back ∧ s.stks.length = 12 ∧ s.mem.wf
      ∧ (∀ l, 64 * l < hbmBytes → coordOk (s.mem.coordOf l) = true ∧ s.mem.lineOf (s.mem.coordOf l) = l)
      ∧ ∀ c, coordOk c = true → 64 * s.mem.lineOf c < hbmBytes ∧ s.mem.coordOf (s.mem.lineOf c) = c := by
  have h : (ckptState true back).stks.length = 12 ∧ (ckptState true back).mem.wf := by cases back <;> decide +kernel
  exact ⟨by cases back <;> decide +kernel, rfl, rfl, rfl, h.1, h.2, fun l hl => lineOf_coordOf rfl hl, fun c hc => coordOf_lineOf rfl hc⟩

/-- The window's offset 0x10040 in the mapped page, and offset 0 that nothing maps. -/
theorem witness_HostUp : tiny.hub.hostUp = true ∧ tiny.hub.ckptRun = false ∧ tiny.hub.services = [] := by decide +kernel
theorem witness_HostByte (acc : Access) : (tiny.hostByte 0 acc 0).isNone = true ∧ (tiny.hostByte 0 acc 0x10040).any (fun pl => pl.space = .hbm && pl.pa % 8 = 0
    && !tiny.secured pl.pa && !tiny.stackHeld .hbm (pl.pa / 64) && (pl.ss || (tiny.seUse (tiny.objDie pl) ⟨.line, pl.pa / 64⟩).isSome)) = true := by cases acc <;> decide +kernel
/-- The same page homed at the host, in extent 0 of the capacity tier, and at a peer. -/
def homePage (h : Nat) : State := { tierState [⟨0, 0#24, false⟩] none false with mem := { tiny.mem with
  hbm := tiny.mem.hbm.map (fun x => if x.1 = 0x500A then (0x500A, if h = 2 then 0#8 else 1#8) else x) ++ (if h = 2 then [(0x500E, 8#8)] else [])
  tlb := [⟨false, 0, 0, 1, 16, BitVec.ofNat 64 ((if h = 3 then 12 * 2 ^ 48 + 2 ^ 40 else if h = 2 then 2 ^ 51 else 0x10000) + 0x1F + 256 * h)⟩] } }
theorem witness_HostHome (h : Nat) (hh : h = 1 ∨ h = 2 ∨ h = 3) : ((homePage h).hostByte 0 .atomic 0x10040).any (fun pl =>
    (pl.space = (if h = 1 then .host else if h = 2 then .tier else .peer)) && pl.pa % 8 = 0) = true := by rcases hh with rfl | rfl | rfl <;> decide +kernel
theorem witness_Quiet : (tiny.part 0).dbgCtl.getLsbD 3 = false ∧ (tiny.part 0).replayPh ≠ .running := by decide +kernel
theorem witness_HostDown : (tiny.updHub (fun h => { h with hostUp := false })).hub.hostUp ≠ true ∧ 2 ^ 36 ≤ (0x1000000000#64).toNat := by decide +kernel
/-- A wave with a load to the host, in a system atomic, with a line of a commit.sys not acknowledged, and with none. -/
def sysState (loads : Bool) (atom sent : Bool) : State :=
  State.updWave { tiny with clk := 1400000#64, cur := none } 0 (fun w => { w with
    loads := if loads then [readFrom .host 0] else []
    wait := if atom then .sysAtom else .no, acks := 1
    sent := if sent then [⟨.host, 0, List.replicate 64 0#8, 1#64, true, 0#64, 0, true⟩] else [] })
/-- What ends without an answer: a load, a system atomic, an acknowledgement, and nothing; late by SYS_TMO = 1 ms. -/
theorem witness_SysFail (loads atom sent : Bool) :
    let s := sysState loads atom sent
    (s.wave? 0).any (fun x => (x.loads.head?.any (fun o => (o.remain[0]?).any (fun r => r.space ≠ .hbm && !r.scr)) = loads) && ((x.wait = .sysAtom) = (atom = true))
      && ((x.sent[0]?).any (fun q => q.sysWrite && q.space ≠ .hbm) = sent)
      && decide (1400 * (s.part (s.partOfWave 0)).sysTmo.toNat ≤ (s.clk - 0#64).toNat)) = true := by
  cases loads <;> cases atom <;> cases sent <;> decide +kernel
/-- END of partition 0: its wave between two instructions, and inside one. -/
theorem witness_PartEnd (inside : Bool) : let s := tinyW fun w => { w with stage := if inside then 1 else 0 }
    (s.waves.all (fun w => s.partOfBlock w.blk ≠ 0 || w.stopped || w.stage = 0 || (decide (w.wait ∉ [.no, .commit, .atom, .sysAtom]) && !(w.wait = .slot && w.stage = 9))) = !inside) := by cases inside <;> decide +kernel

/-- PLY_EXP(1) admits every access of the first two GiB; PLY_EXP(2) none. -/
def peerState : State := tiny.updHub (fun h => { h with plyExp := [(1, 0xF000000000000400#64)] })
theorem witness_PeerAllowed (rd wr at_ : Bool) : peerState.peerAllowed 1 0x10040 4 rd wr at_ = true ∧ peerState.peerAllowed 2 0x10040 4 true false false = false := by
  cases rd <;> cases wr <;> cases at_ <;> decide +kernel
theorem witness_Peer : (calm peerState = true ∧ peerState.hub.ckptRun = false ∧ peerState.loggersOf 0x10040 = [] ∧ peerState.parts.length ≤ 16
    ∧ (peerState.seUse (peerState.homeDie .hbm (0x10040 / 64)) ⟨.line, 0x10040 / 64⟩).isSome = true) := by decide +kernel
/-- Region 0 at 0x10100, of 64 bytes, valid and writable; region 1 neither. -/
def uetState : State := (cells [(0x10001, 1), (0x10002, 1), (0x10008, 0x40), (0x1000F, 0xC0)] tiny).updPart 0 (fun p => { p with uetRt := 0x10000#64 })
theorem witness_Uet (bad : Bool) : (match uetState.vread 0 0 (0x10000 + 16 * (if bad then 1 else 0)) 16 with
    | .error _ => false
    | .ok bs => let w1 := leNat (bs.drop 8); (w1.testBit 63 && w1.testBit 62 && decide (0 + 2 ≤ w1 % 2 ^ 40)) = !bad) = true
    ∧ calm uetState = true ∧ uetState.hub.ckptRun = false ∧ (uetState.translateDie 0 0 .store 0x10100 matches .ok _) = true := by cases bad <;> decide +kernel

/-- A frame of 20 bytes of head and none of payload to UDP port 7, and its flow: ring 0 of partition 0 without a key. -/
def aFrame : Sys2Proof.Frame := ⟨0, false, 5#64, 0#64, 7#16, none, 64, List.replicate 20 1#8, [], 0#64⟩
def aFlow : Flow := ⟨0, 9, 5#64, 0#64, 0x8000000700000000#64⟩
/-- Ring 0's descriptor at 0x18000: four slots of 2 KiB at 0x10000, `held` of them full. -/
def netState (backPressure : Bool) (full : Nat) (held : Bool) : State :=
  ((cells ([(0x18002, 1), (0x18008, 0x62), (0x18009, if backPressure then 0x61 else 0x41), (0x18010, full)].filter (fun x => x.2 ≠ 0)) tiny).updPart 0 (fun p => { p with
    irBase := 0x18000#64 })).updHub (fun h => { h with
      flows := [aFlow], held := if held then [⟨0, 0, 9, 0, 0, 64, List.replicate 20 2#8, 0#64, false⟩] else [] })
theorem witness_Flow : flowOf ((netState false 0 false).hub.tablesOf aFrame).1 aFrame = some aFlow ∧ flowOf (tiny.hub.tablesOf aFrame).1 aFrame = none
    ∧ (netState false 0 false).hub.linkDown (.eth 0) = false ∧ aFrame.wireLen ≤ 9216
    ∧ aFlow.w2.getLsbD 60 = false ∧ (aFlow.w2.extractLsb' 28 4).toNat = 0 ∧ (aFlow.w2.extractLsb' 22 6).toNat = 0 := by decide +kernel
/-- A frame of 24 bytes of payload, a flow with key 0, and that key, replay watched or not, last IV 0: a key that is not there, a stale
IV, and one that is not. -/
theorem witness_Landed (there replay : Bool) :
    let f := { aFrame with payload := List.replicate 24 0#8 }
    let x := { aFlow with w2 := 0x9000000700000000#64 }
    let h := (tiny.updHub (fun h => { h with keys := if there then [⟨0, 0, [0#64, 0#64, 0#64, 0#64], 0#32, replay, some 0⟩] else [] })).hub
    x.w2.getLsbD 60 = true ∧ 24 ≤ f.payload.length ∧ beNat (f.payload.take 8) ≤ 0
      ∧ ((h.tablesOf f).2.find? (fun k => k.port = f.port && k.index = (x.w2.extractLsb' 0 12).toNat && k.index ≠ 4095)).map KeyEntry.replay
        = (if there then some replay else none) := by cases there <;> cases replay <;> decide +kernel
/-- The ring free or full, with back-pressure or without, a frame held before it or not. -/
theorem witness_Frame (bp full held : Bool) : let s := netState bp (if full then 4 else 0) held
    ((s.ingest 0 0).any (fun r => r.lands && (r.full = full) && (r.backPressure = bp) && r.prio = 0 && decide (20 ≤ 2 ^ r.slotLog - 16)
        && (match s.translateDie 0 0 .store (r.w 0 + r.w 2 % 2 ^ r.size * 2 ^ r.slotLog) with
          | .error _ => false
          | .ok pl => pl.space = .hbm && decide (pl.pa + 2 ^ r.slotLog ≤ r.pa ∨ r.pa + 64 ≤ pl.pa)))
      && decide (s.hub.headroomUsed 0 + 64 ≤ 2 * 2 ^ 20) && (s.hub.held.any (fun y => y.port = 0 && y.prio = 0) = held) && ((s.hub.landed aFlow aFrame).map Prod.fst = some (aFrame.head ++ []))) = true := by
  cases bp <;> cases full <;> cases held <;> decide +kernel
/-- A held frame that is lost, and one whose ring has no descriptor that lets it land. -/
theorem witness_HeldFrame_lost (lost : Bool) : let t := netState true 0 true
    let s := t.updHub (fun h => { h with held := h.held.map (fun y => { y with lost := lost }) })
    (s.hub.held.find? (fun x => x.port = 0 && x.prio = 0)).any (fun x => x.lost = lost && (s.ingest x.part x.ring).isSome) = true := by cases lost <;> decide +kernel
theorem witness_Frame_noLand : (((cells [(0x18002, 1)] tiny).updPart 0 (fun p => { p with irBase := 0x18000#64 })).ingest 0 0).any (fun r => !r.lands) = true := by
  decide +kernel
/-- Flow and key commands: accepted, lost for a command in progress, a key index that is not there. -/
theorem witness_NetStart (op : Nat) (h : op ∈ [1, 2, 3, 4]) (busy : Bool) : let s := tiny.updHub (fun h => { h with netBusy := if busy then some (0#64, []) else none })
    let v : Dword := BitVec.ofNat 64 (op * 2 ^ 56)
    ((v.extractLsb' 56 8).toNat = op ∧ s.hub.netBusy.isSome = busy ∧ (v.extractLsb' 0 14).toNat < 4095) := by
  simp only [List.mem_cons, List.not_mem_nil, or_false] at h
  rcases h with rfl | rfl | rfl | rfl <;> cases busy <;> decide +kernel
/-- A frame that began before a command ends, and no older tables that it could have started with. -/
theorem witness_NetDone : aFrame.began.toNat ≤ tiny.clk.toNat ∧ tiny.hub.netPast = [] := by decide +kernel

/-! ## Witnesses: the security processor, service, swaps, registers and power -/

/-- Boot before and after. -/
theorem witness_Boot (b : Bool) : (tiny.updHub (fun h => { h with booted := b })).hub.booted = b := by cases b <;> rfl
/-- The mailbox of an origin, busy or not, its arguments as given, and firmware 0x10 with minimum SVN 3. -/
def spmState (busy : Bool) (arg0 arg1 : Nat) : State :=
  (tiny.updHub (fun h => { h with
    mbox := ⟨BitVec.ofNat 64 arg0, BitVec.ofNat 64 arg1, 0#8, busy⟩, firmware := [⟨0x10#16, 1#32, 4#16, 3#16, 0#256⟩] })).updPart 0 (fun p => { p with
      mbox := ⟨BitVec.ofNat 64 arg0, BitVec.ofNat 64 arg1, 0#8, busy⟩ })
theorem witness_Mailbox (busy : Bool) (vf : Bool) : let o : Origin := if vf then .vf 0 else .pf0
    (((spmState busy 0x10000 0).mailbox o).any (fun m => m.busy = busy && m.arg0 = 0x10000#64)) = true := by cases busy <;> cases vf <;> decide +kernel
/-- An image at 0x10000 of target 0x10, whose form stands and whose SVN is 2 or 3, or whose magic does not. Whether its signature
verifies is a free value: the premises on it are met on one side or the other. -/
def imageState (magic : Bool) (svn : Nat) : State :=
  cells (([(0x10000, if magic then 0x53 else 0), (0x10001, 0x48), (0x10002, 0x46), (0x10003, 0x57), (0x10004, 0x10), (0x1000C, svn)] : List (Nat × Nat)).filter (fun x => x.2 ≠ 0))
    (spmState false 0x10000 0)
theorem witness_Image (magic : Bool) (svn : Nat) (h : svn = 2 ∨ svn = 3) : let s := imageState magic svn
    let w (i : Nat) : Dword := BitVec.ofNat 64 (leNat (((s.mem.hbm.readN 0x10000 64).drop (8 * i)).take 8))
    (((w 0).extractLsb' 0 32 = 0x57464853#32) = (magic = true)) ∧ (w 0).extractLsb' 48 16 = 0#16 ∧ (w 1).extractLsb' 48 16 = 0#16 ∧ (w 2) = 0#64
    ∧ (∀ i < 5, w (3 + i) = 0#64) ∧ (w 0).extractLsb' 32 16 = 0x10#16 ∧ (w 1).extractLsb' 32 16 = BitVec.ofNat 16 svn
    ∧ ((s.hub.fw? 0x10#16).any (fun x => x.minSvn = 3#16)) = true := by rcases h with rfl | rfl <;> cases magic <;> decide +kernel
theorem witness_Signature (rom : BitVec 256) (image sig : List Byte) : Config.xmssVerify rom image sig = false ∨ Config.xmssVerify rom image sig = true := by
  cases Config.xmssVerify rom image sig <;> simp
/-- A commit of a target that is there and of one that is not; a service that is asked for already and one that is not. -/
theorem witness_SvnCommit : ((spmState false 0x10 0).hub.fw? 0x10#16).isSome = true ∧ (spmState false 0x10 0).hub.fw? 0x33#16 = none := by decide +kernel
def asked (k : SvcKind) (running : Bool) : State := tiny.updHub (fun h => { h with services := [⟨3, k, running, []⟩], nextService := 4 })
theorem witness_ServiceRequest : (∃ x ∈ (asked .d2dRetrain false).hub.services, x.kind = .d2dRetrain)
    ∧ (∀ x ∈ (asked .d2dRetrain false).hub.services, x.kind ≠ .coreSwap 0) := by decide +kernel
/-- An attestation whose nonce cannot be read, whose key is exhausted, and that goes on; and one that waits for its release. -/
theorem witness_Attest (vf : Bool) : let s := (spmState false (if vf then 0 else 0x10000) 0).updHub (fun h => { h with keyIndex := if vf then 0 else 2 ^ 20 })
    s.hub.reports = [] ∧ (s.mboxRead (if vf then .vf 0 else .pf0) (if vf then 0 else 0x10000) 32).isSome = !vf
    ∧ (decide (2 ^ 20 ≤ s.hub.keyIndex) = !vf) := by cases vf <;> decide +kernel
theorem witness_Attest_goes_on : (spmState false 0x10000 0).hub.keyIndex < 2 ^ 20 ∧ ((spmState false 0x10000 0).mboxRead (.vf 0) 0x10000 32).isSome = true := by decide +kernel
/-- PF 0's report reaches its output, and leaves its mailbox as it is. -/
theorem witness_Attest_release (out : List Byte) (ho : out.length ≤ hbmBytes - 0x10000) : let s := (spmState true 0x10000 0x10000).updHub (fun h => { h with reports := [(.pf0, 0, [1#8])] })
    s.hub.reports.find? (fun x => x.1 = .pf0) = some (.pf0, 0, [1#8]) ∧ ∃ s1, s.mboxWrite .pf0 0x10000 out = some s1 ∧ s1.mailbox .pf0 = s.mailbox .pf0 :=
  ⟨rfl, _, if_pos (by have : 0x10000 ≤ hbmBytes := by decide
                      omega), by simp only [State.mailbox, State.peerWrite_hub]⟩
/-- A write that only the secure world makes; the partition's world secure or not. -/
theorem witness_SecureWrite (w : Bool) : let s := tiny.updPart 0 (fun p => { p with ctx := p.ctx.map (fun c => { c with world := w }) })
    s.world 0 = w ∧ secureWrite (.registerWrite .secure (.shadow 0) 0#64) = true ∧ secureWrite (.cgWorldWrite 0 0#64) = true := by
  cases w <;> decide +kernel

/-- An action asked for on its unit that may start and that may not, one that runs, and one that may end and that may not. -/
theorem witness_ServiceStart (k : SvcKind) (h : k ∈ [.coreSwap 0, .rowSpare aBank 3, .pchRetire 0 1, .hbmRecal 0 1, .padRecal 0 2, .plyRetrain 0, .d2dRetrain,
    .linkRecovery .host, .firmware 0x10#16, .firmware 0x22#16]) : ((asked k false).hub.services.find? (fun y => y.kind = k && !y.running)).any (fun a => (asked k false).svcMayStart a) = true
    ∧ ((asked k true).hub.services.any (fun y => y.running && svcUnit y.kind = svcUnit k)) = true := by
  simp only [List.mem_cons, List.not_mem_nil, or_false] at h
  rcases h with rfl | rfl | rfl | rfl | rfl | rfl | rfl | rfl | rfl | rfl <;> decide +kernel
theorem witness_ServiceStart_not : ((asked (.coreSwap 0) false).updDie 0 (fun d => { d with spareCores := 0 })).svcPossible (.coreSwap 0) = false
    ∧ (asked (.coreSwap 0) false).svcPossible (.coreSwap 0) = true ∧ (asked .d2dRetrain false).svcMayStart ⟨3, .d2dRetrain, false, []⟩ = true := by decide +kernel
/-- A pseudo-channel with a request queued, and one that had a request less than 10 us ago. -/
theorem witness_HbmRecal (queued : Bool) : let s := { (withStack (fun st => { st with
      queue := if queued then [⟨⟨⟨0, 1, 0⟩, 5, 3⟩, 0, 0, none, 0⟩] else [], lastReq := if queued then [] else [(1, 0#64)] }) tiny) with clk := 13999#64 }
    (decide (∃ r ∈ (s.stack 0).queue, r.coord.bank.pch = 1) = queued)
      ∧ ((s.stack 0).lastReq.find? (fun y => y.1 = 1)).any (fun y => decide ((s.clk - y.2).toNat < 14000)) = !queued := by cases queued <;> decide +kernel
theorem witness_ServiceEnd (ready : Bool) : let s := if ready then asked .d2dRetrain true else asked (.coreSwap 0) true
    ((s.hub.services.find? (fun x => x.id = 3 && x.running)).any (fun x => s.svcReady x = ready)) = true := by cases ready <;> decide +kernel
theorem witness_ServiceEnd_swap : let s := (asked (.coreSwap 0) true).updBlock 0 (fun b => { b with status := .saved })
    s.svcReady ⟨3, .coreSwap 0, true, []⟩ = true ∧ (∀ b ∈ s.blocks, b.core = 0 → b.status = .saved) := by decide +kernel
theorem witness_CoreFence (none_ : Bool) : ((tiny.updDie 0 (fun d => { d with spareCores := if none_ then 0 else 2 })).die (dieOf 5)).spareCores = if none_ then 0 else 2 := by
  cases none_ <;> decide +kernel
theorem witness_ServiceSwap_block : ((asked (.coreSwap 0) false).block? 0).any (fun b => b.core = 0 && b.status = .resident && b.pre.isNone) = true
    ∧ (∀ p < 16, (tiny.part p).preDl ≠ 0#32) := by decide +kernel

/-- A swap of partition 0: asked for, ready, halted and back. -/
def stoppedState (why : PreWhy) : State :=
  (tinyW fun w => { w with stopped := true }).updBlock 0 (fun b => { b with pre := some ⟨why, 0#64, false⟩ })
theorem witness_Swap (ready : Bool) : let s := if ready then stoppedState .swap else tiny
    (s.requestHalt 0 .swap).haltReady 0 .swap = ready ∧ (s.part 0).ckptReq = false ∧ (s.part 0).halted = false := by cases ready <;> decide +kernel
theorem witness_SwapIn (room : Bool) : let s := (stoppedState .swap).halt 0
    let t := if room then s else s.updCore 0 (fun c => { c with acc := [⟨127, 9, [], 0#16, []⟩] })
    let t := t.updBlock 0 (fun b => { b with savedRows := [⟨127, 0, [], 0#16, []⟩] })
    (t.part 0).halted = true ∧ (t.tickNow.bringAll (t.part 0).swapped).isSome = room := by cases room <;> decide +kernel
/-- A checkpoint of partition 0 that is due: not ready, and ready with its image fitting or not. -/
def tadState (ready : Bool) (size : Word) (s : State) : State :=
  ({ (if ready then (s.updWave 0 (fun w => { w with stopped := true })).updBlock 0 (fun b => { b with pre := some ⟨.tadpole, 0#64, false⟩ }) else s) with clk := 1400#64 }).updPart 0 (fun p => { p with
    dbgCtl := 8#4, tadIvl := 1#32, tadSize := size })
theorem witness_Checkpoint (ready fits : Bool) : let s := tadState ready (if fits then 1#32 else 0#32) tiny
    let x := s.part 0
    let s1 := (s.requestHalt 0 .tadpole).updPart 0 (fun x => { x with ckptReq := true })
    (x.dbgCtl.getLsbD 3 ∧ x.dbgCtl.getLsbD 2 = false ∧ x.tadIvl ≠ 0#32 ∧ 1400 * x.tadIvl.toNat ≤ (s.clk - x.ckptAt).toNat ∧ x.swapping = false ∧ x.halted = false ∧ s.unitHeld 3 0 = false
    ∧ s1.haltReady 0 .tadpole = ready ∧ (ready = true → (decide (((s1.halt 0).imageOf 0).bytes ≤ x.tadSize.toNat * 65536) = fits))) := by
  cases ready <;> cases fits <;> decide +kernel
/-- A replay: not started with a checkpoint and without, at its stop, at the end of its log, at an outside write and another step, and done. -/
def replayState (ph : ReplayPhase) (ckpt : Bool) (stop : Nat) (log : List LogEntry) : State :=
  tiny.updPart 0 (fun p => { p with
    dbgCtl := 4#4, replayPh := ph, ckpt := if ckpt then some (tiny.imageOf 0) else none, tadStop := BitVec.ofNat 64 stop, replay := log })
theorem witness_Replay (ph : ReplayPhase) (ckpt : Bool) (stop : Nat) (kind : Nat) (h : (stop = 0 ∨ stop = 9) ∧ (kind = 1 ∨ kind = 5)) :
    let s := replayState ph ckpt stop [⟨BitVec.ofNat 8 kind, 3#8, 2#16, 0#32, 0#32, 0#32, [0x10000#64, 7#64]⟩]
    (s.part 0).dbgCtl.getLsbD 2 = true ∧ (s.part 0).dbgCtl.getLsbD 3 = false ∧ s.mem.wf ∧ (0x10000#64).toNat < 2 ^ 56 ∧ (s.part 0).replayPh = ph ∧ (s.part 0).ckpt.isSome = ckpt ∧ (s.part 0).swapping = false
    ∧ (decide ((s.part 0).tadPos = (s.part 0).tadStop) = decide (stop = 0)) := by
  obtain ⟨h1, h2⟩ := h
  rcases h1 with rfl | rfl <;> rcases h2 with rfl | rfl <;> cases ph <;> cases ckpt <;> decide +kernel
/-- A profiler sample of core 0's only wave into the mapped page, and into one that is not. -/
theorem witness_Profiler (mapped : Bool) : let s := tiny.updPart 0 (fun p => { p with profCtl := 0x0800000001#64, profBase := if mapped then 0x10000#64 else 16#64 })
    ((s.part 0).profCtl.extractLsb' 0 32 ≠ 0#32 ∧ (s.part 0).dbgCtl.getLsbD 3 = false ∧ (s.part 0).replayPh ≠ .running ∧ 0 < s.cores.length ∧ (s.waves.filter (fun y => y.core = 0)).length = 1
    ∧ s.waves.all (fun w => decide (w.slot < 48) && s.partOfBlock w.blk = 0 && (s.block? w.blk).any (fun b => b.status = .resident)) = true
    ∧ (s.vwrite 0 0 (if mapped then 0x10000 else 16) [1#8]).toOption.isSome = mapped) := by cases mapped <;> decide +kernel

/-- Registers that an origin may write and may not. -/
theorem witness_RegAllowed : regAllowed .pf0 (.lqBase 3) = true ∧ regAllowed (.vf 3) (.lqBase 3) = true ∧ regAllowed (.vf 2) (.lqBase 3) = false
    ∧ regAllowed .pf0 (.ctxDesc 3) = true ∧ regAllowed .secure (.shadow 3) = true ∧ regAllowed .pf0 (.shadow 3) = false ∧ regAllowed (.vf 3) (.tlbInv 3) = true
    ∧ regAllowed .pf0 (.hostErr 3) = true ∧ regAllowed .pf0 (.sysTmo 3) = true ∧ regAllowed .pf0 (.sliceIvl 3) = true := by decide +kernel
/-- A group of cores that leaves its world, holding a block (core 0's) and holding none. -/
theorem witness_CgWorld : (tiny.die 0).cgWorld.getLsbD 0 ≠ (1#64).getLsbD 0 ∧ (∃ b ∈ tiny.blocks, groupOf b.core = 0 ∧ b.status ≠ .saved)
    ∧ (tiny.die 0).cgWorld.getLsbD 1 ≠ (2#64).getLsbD 1 ∧ (∀ b ∈ tiny.blocks, groupOf b.core ≠ 1) := by decide +kernel
/-- A secure range that an access has passed, and none; one that was valid. -/
def secState (past : Bool) (valid : Bool) : State :=
  (tinyW fun w => { w with loads := if past then [readFrom .hbm 0x400] else [] }).updHub (fun h => { h with secRanges := h.secRanges.set 2 ⟨valid, 0#31, 0#31⟩ })
theorem witness_SecRange (past valid : Bool) : (secState past valid).hub.secRanges[2]? = some ⟨valid, 0#31, 0#31⟩
    ∧ (secState past valid).pastCheck 0 (2 ^ 21 - 1) = past ∧ (secState past valid).mem.wf := by cases past <;> cases valid <;> decide +kernel
/-- A write that waits until no access is past its check. -/
theorem witness_SecWait : let s := (secState false false).updHub (fun h => { h with secWait := [(2, 0#31)] })
    s.hub.secWait = [(2, 0#31)] ∧ s.pastCheck 0 (2 ^ 21 - 1) = false ∧ s.hub.secRanges[2]? = some ⟨false, 0#31, 0#31⟩ := by decide +kernel
/-- More power than PWR_CAP, a clock region's MAX above its MIN, and a trip before and after. -/
theorem witness_Power : tiny.hub.pwrCap.toNat < 3000 ∧ 8 ≤ ((tiny.stack 0).aclkCtl.extractLsb' 32 8).toNat ∧ (tiny.stack 0).aclkCtl.extractLsb' 24 8 < (tiny.stack 0).aclkCtl.extractLsb' 32 8
    ∧ (tiny.stack 0).aclkCtl.getLsbD 48 = false ∧ tiny.hub.tripped = false ∧ (tiny.updHub (fun h => { h with tripped := true })).hub.tripped = true
    ∧ State.reset.blocks = [] ∧ State.reset.cmds = [] ∧ (∀ st ∈ State.reset.stks, st.regions = [] ∧ st.updates = []) ∧ tiny.blocks ≠ []
    ∧ (tiny.die 0).freq = 28 ∧ (tiny.die 0).slowed = [] := by decide +kernel

/-! ## Witnesses: further clauses of those statements -/

/-- Every partition has a deadline for saves. -/
theorem witness_preDl (q : Nat) : (tiny.part q).preDl ≠ 0#32 := by
  simp only [State.part, List.getD_eq_getElem?_getD]
  have h : ∀ p ∈ tiny.parts, p.preDl ≠ 0#32 := by decide +kernel
  cases hq : tiny.parts[q]? with
  | none => decide
  | some p => exact h p (List.mem_of_getElem? hq)

/-- st.g of a handler: to the mapped page, and to a page that is not. -/
theorem witness_Stores_handlerGlobal (mapped : Bool) : ∃ c, Issued 0x61 stEnc
      ((if mapped then atPage else id) (tinyW fun w => { w with mode := 0x100#32 })) c ∧
    (let ps := (c.pieces false false).filter (fun q => !c.isHelper q.lane)
     let ls := storeLines false (ps.map (fun q => (q, c.src stEnc.c (tyOf stEnc) (c.readLane q.lane))))
     c.w.stage = 0 ∧ c.w.mode.getLsbD 8 = true ∧ ordCode stEnc = 0 ∧ c.mayLog 1 = true ∧ ((∀ q ∈ ps, c.cause false .store q = none) ↔ mapped = true)
       ∧ (c.s.placeLines c.w.core c.part ls).toOption.any (fun ps => ps.all (fun q => q.2.space = .hbm && !c.s.stackHeld .hbm (q.2.pa / 64))) = mapped
       ∧ c.s.wave? c.wid = some c.w ∧ logging (c.s.part c.part) = false ∧ replayHead (c.s.part c.part) = none) := by
  cases mapped <;> exact meets (by decide +kernel)

/-- A conversion whose source is a NaN, an infinity, a zero or finite: f32 codes, to a format with and without infinity, E3M5, E8M0 and i32. -/
theorem witness_Conversions : Fmt.f32.value 0x7FC00000 = .nan ∧ Fmt.f32.value 0xFF800000 = .inf true ∧ (Fmt.f32.value 0x80000000).isZero = true
    ∧ (Fmt.f32.value 0xBF800000).neg? = true ∧ Ty.f16.fmt.any Fmt.hasInf = true ∧ Ty.e4m3.fmt.any (fun f => !f.hasInf && decide (f ≠ .e3m5) && decide (f ≠ .e8m0)) = true
    ∧ Ty.e3m5.fmt = some .e3m5 ∧ Ty.e8m0.fmt = some .e8m0 ∧ Ty.i32.fmt = none ∧ Ty.f32.fmt = some .f32
    ∧ Fp.isZero (.fin false 0 0) = true := by decide +kernel

/-- pf of every lane, each at its own word of the mapped page, whose translation agrees with the tables. -/
theorem witness_LoadsIssue_pfLanes : ∃ c, Issued 0x6A (en 0 511 264 6 0) (atPage (withV [(6, (List.range 32).map (fun l => 64 * l))] { tiny with mem := { tiny.mem with tlb := [] } })) c
    ∧ c.accessLanes.length = 32 ∧ (∀ x ∈ c.s.mem.tlb, x.part ≠ c.part) ∧ hintCode (en 0 511 264 6 0) ≠ 3
    ∧ ∀ l ∈ c.accessLanes, (c.s.translate c.w.core c.part .load (c.ea (c.readLane l))).toOption.any (fun pl =>
        !c.s.homeHeld pl.space (pl.pa / 64) && !c.s.poisonedAt pl.space (pl.pa / 64)) = true := meets (by decide +kernel)

/-- topk.mrg's first stage: an image at 0x10000, misaligned, and at an unmapped address; with a list and without. -/
theorem witness_TopkMrg_first (at_ k : Nat) (h : at_ ∈ [0x10000, 0x10004, 0] ∧ k ∈ [0, 2]) :
    ∃ c, Issued 0xDA (en 0 511 264 266 0) (withS [(8, at_)] (topkState k true [])) c ∧ c.w.stage = 0 ∧ c.w.topk.k = k ∧ c.s.wave? c.wid = some c.w
    ∧ (let base := (c.addr (en 0 511 264 266 0).a + c.offset (en 0 511 264 266 0).b c.lane0) % 2 ^ 64
       (base % 64 = 0 ↔ at_ ≠ 0x10004) ∧ ((∀ i < 9, (c.s.translate c.w.core c.part .load (base + 64 * i)).toOption.isSome = true) ↔ at_ ≠ 0)) := by
  obtain ⟨h1, h2⟩ := h
  simp only [List.mem_cons, List.not_mem_nil, or_false] at h1 h2
  rcases h1 with rfl | rfl | rfl <;> rcases h2 with rfl | rfl <;> exact meets (by decide +kernel)

/-- A load to the host whose bytes a lane reads, and one of two lines whose first only helper lanes read. -/
theorem witness_SysFail_helper (helper : Bool) :
    let o : OutLoad := ⟨.plain 10#5, 2#9, true, 3#32, 0#32, 4, [some 0, some 64], [], [⟨false, 0, .host, 0, false⟩, ⟨false, 1, .host, 1, false⟩],
      false, false, if helper then 1#32 else 0#32, false, 0#64, false, 0#64⟩
    let s := { (tinyW fun w => { w with loads := [o] }) with clk := 1400000#64 }
    (s.wave? 0).any (fun x => x.loads = [o] && (o.remain[0]?).any (fun r => r.space ≠ .hbm && !r.scr && r.line = 0)
      && ((List.range 64).any (fun a => o.mainWants a) = !helper) && decide (1 < o.remain.length)) = true := by cases helper <;> decide +kernel

/-- A service action that its unit's counters ask for: listed already, not listed, and one that is not possible. -/
theorem witness_ServiceStart_listed (listed possible : Bool) :
    let s := (if listed then asked (.coreSwap 0) false else tiny).updDie 0 (fun d => { d with spareCores := if possible then 8 else 0 })
    (∃ y ∈ s.hub.services, y.kind = .coreSwap 0) = listed ∧ s.svcPossible (.coreSwap 0) = possible := by
  cases listed <;> cases possible <;> simp [asked] <;> decide +kernel

/-- A swap in of a block whose core is leaving, and of one whose core is not. -/
theorem witness_SwapIn_leaving (swapping fenced : Bool) :
    let s := ((stoppedState .swap).halt 0).updHub (fun h => { h with services := if swapping then [⟨3, .coreSwap 0, true, []⟩] else [] })
    let s := s.updCore 0 (fun c => { c with fenced := fenced })
    (s.part 0).halted = true ∧ (s.part 0).swapped = [0] ∧ (s.tickNow.bringAll [0]).isSome = true
      ∧ (s.block? 0).any (fun b => (s.hub.services.any (fun y => y.running && y.kind = .coreSwap b.core) = swapping) && (s.core b.core).fenced = fenced) = true := by
  cases swapping <;> cases fenced <;> decide +kernel

/-- The fault queue's registers written while a record is held. -/
theorem witness_FqWrite (held : Bool) : let s := (fqState true 16).updPart 0 (fun p => { p with fqHeld := if held then [⟨1, 0, List.replicate 4 0#64⟩] else [] })
    regAllowed (.vf 0) (.fqBase 0) = true ∧ regAllowed .pf0 (.fqSize 0) = true ∧ ((s.part 0).fqHeld = [] ↔ held = false) := by cases held <;> decide +kernel

/-- A die at 104 C and at 105 C: clock regions whose MAX is above their MIN. -/
theorem witness_Thermal : (104 : Nat) < 105 ∧ 0 < tiny.stks.length ∧ 8 ≤ ((tiny.stack 0).aclkCtl.extractLsb' 32 8).toNat
    ∧ (tiny.stack 0).aclkCtl.extractLsb' 24 8 < (tiny.stack 0).aclkCtl.extractLsb' 32 8 ∧ 0 / 6 = 0 := by decide +kernel

/-- A set of the memory-side cache with 16 lines, the oldest of them dirty. -/
theorem witness_Msc : let m : Mem := { tiny.mem with msc := (List.range 16).map (fun i => ⟨i, i = 15, 0⟩) }
    (∀ x ∈ m.msc, x.line ≠ 99) ∧ ((m.msc.filter (fun x => m.mscPlace x.line = m.mscPlace 99)).length ≤ 16) := by
  refine ⟨by decide +kernel, ?_⟩
  exact Nat.le_trans (List.length_filter_le _ _) (by simp)

/-- Frames: the ring of partition 0 with a held frame of it from another port, one of this port and priority, and none; full with those or not. -/
def heldState (n : Nat) (port : Nat) (lost : Bool) : State :=
  (netState true 3 false).updHub (fun h => { h with held := (List.range n).map (fun _ => ⟨port, 0, 9, 0, 0, 64, List.replicate 20 2#8, 0#64, lost⟩) })
theorem witness_Frame_held (n port : Nat) (lost : Bool) (h : n < 2 ∧ (port = 0 ∨ port = 1)) : let s := heldState n port lost
    calm s = true ∧ s.hub.ckptRun = false ∧ (s.ingest 0 0).any (fun r => r.full = false && r.backPressure
      && (r.fullAfter (s.hub.held.filter (fun y => !y.lost && y.part = 0 && y.ring = 0)).length = (decide (n = 1) && !lost))) = true := by
  obtain ⟨h1, h2⟩ := h
  match n, h1 with
  | 0, _ => rcases h2 with rfl | rfl <;> cases lost <;> decide +kernel
  | 1, _ => rcases h2 with rfl | rfl <;> cases lost <;> decide +kernel
/-- A held frame that is alone and the first of its ring, and one behind another port's. -/
theorem witness_HeldFrame (behind : Bool) :
    let x : HeldFrame := ⟨0, 0, 9, 0, 0, 64, List.replicate 20 2#8, 0#64, false⟩
    let s := (netState true 0 false).updHub (fun h => { h with held := (if behind then [{ x with port := 1 }] else []) ++ [x] })
    s.hub.held.find? (fun x => x.port = 0 && x.prio = 0) = some x ∧ (s.ingest x.part x.ring).any (fun r => r.lands && !r.full) = true ∧ calm s = true ∧ s.hub.ckptRun = false
      ∧ ((∀ y ∈ s.hub.held.takeWhile (fun y => y ≠ x), ¬(y.lost = false ∧ y.part = x.part ∧ y.ring = x.ring)) ↔ behind = false)
      ∧ (∀ y ∈ s.hub.held, y.port = 0 → y.prio = 0 → y.lost = true → y = x) := by cases behind <;> decide +kernel

/-- The mailbox's image at the end of the usable HBM and beyond it. -/
theorem witness_Image_bound : 0x10000 + 64 + 0 + 2820 ≤ hbmBytes ∧ hbmBytes < hbmBytes - 64 + 64 + 0 + 2820 := by decide +kernel

/-! ## A word of each family, field by field as R85 lays it out: OP, MOD, X, GMASK, GINV, DST, A, B, C -/

def wordOf (op : BitVec 8) (mod : BitVec 12) (x : BitVec 1) (gmask : BitVec 3) (ginv : BitVec 1) (dst : BitVec 9) (a b c : BitVec 10) : BitVec 64 :=
  op ++ mod ++ x ++ gmask ++ ginv ++ dst ++ a ++ b ++ c
/-- add.n32 v0, s12, %lane -/
theorem test_word_int : decodeWords (wordOf 0x00#8 0x300#12 0#1 0#3 0#1 0#9 268#10 392#10 0#10) 0#64
    = .ok (.intAdd ⟨0x300#12, 0#3, false, 0#9, 268#10, 392#10, 0#10, none⟩) := by decide +kernel
/-- fma.f32.rn v1, v4, v8, v2 -/
theorem test_word_float : decodeWords (wordOf 0x23#8 0x600#12 0#1 0#3 0#1 1#9 4#10 8#10 2#10) 0#64
    = .ok (.fma ⟨0x600#12, 0#3, false, 1#9, 4#10, 8#10, 2#10, none⟩) := by decide +kernel
/-- cvt.f32.e4m3 v5, v4 -/
theorem test_word_convert : decodeWords (wordOf 0x30#8 0x600#12 0#1 0#3 0#1 5#9 4#10 0#10 15#10) 0#64
    = .ok (.cvt ⟨0x600#12, 0#3, false, 5#9, 4#10, 0#10, 15#10, none⟩) := by decide +kernel
/-- wred.add.f32.rn s4, v4 -/
theorem test_word_exchange : decodeWords (wordOf 0x46#8 0x600#12 0#1 0#3 0#1 260#9 4#10 0#10 0#10) 0#64
    = .ok (.wred ⟨0x600#12, 0#3, false, 260#9, 4#10, 0#10, 0#10, none⟩) := by decide +kernel
/-- split k1, fin -/
theorem test_word_control : decodeWords (wordOf 0x51#8 0x000#12 0#1 0#3 0#1 0#9 385#10 0#10 5#10) 0#64
    = .ok (.split ⟨0x000#12, 0#3, false, 0#9, 385#10, 0#10, 5#10, none⟩) := by decide +kernel
/-- st.g.b32 [s0 + v1], v2 -/
theorem test_word_memory : decodeWords (wordOf 0x61#8 0x500#12 0#1 0#3 0#1 511#9 256#10 1#10 2#10) 0#64
    = .ok (.stG ⟨0x500#12, 0#3, false, 511#9, 256#10, 1#10, 2#10, none⟩) := by decide +kernel
/-- commit.dev -/
theorem test_word_level : decodeWords (wordOf 0x70#8 0x030#12 0#1 0#3 0#1 511#9 0#10 0#10 0#10) 0#64
    = .ok (.commit ⟨0x030#12, 0#3, false, 511#9, 0#10, 0#10, 0#10, none⟩) := by decide +kernel
/-- atom.cas.b32.dev v5, [v2], v3, v4 -/
theorem test_word_atomic : decodeWords (wordOf 0x97#8 0x530#12 0#1 0#3 0#1 5#9 2#10 3#10 4#10) 0#64
    = .ok (.atomCas ⟨0x530#12, 0#3, false, 5#9, 2#10, 3#10, 4#10, none⟩) := by decide +kernel
/-- blk.grow s13, 7 -/
theorem test_word_block : decodeWords (wordOf 0xA0#8 0x000#12 0#1 0#3 0#1 269#9 455#10 0#10 0#10) 0#64
    = .ok (.blkGrow ⟨0x000#12, 0#3, false, 269#9, 455#10, 0#10, 0#10, none⟩) := by decide +kernel
/-- mx.row.z 0, ra, t1 -/
theorem test_word_tensor : decodeWords (wordOf 0xB8#8 0x070#12 0#1 0#3 0#1 511#9 448#10 448#10 449#10) 0#64
    = .ok (.mxRow ⟨0x070#12, 0#3, false, 511#9, 448#10, 448#10, 449#10, none⟩) := by decide +kernel
/-- sda.run s20, [s10] -/
theorem test_word_array : decodeWords (wordOf 0xC0#8 0x000#12 0#1 0#3 0#1 276#9 266#10 0#10 0#10) 0#64
    = .ok (.sdaRun ⟨0x000#12, 0#3, false, 276#9, 266#10, 0#10, 0#10, none⟩) := by decide +kernel
/-- gk.rehash s13, s5, s4, 4 -/
theorem test_word_gecko : decodeWords (wordOf 0xD5#8 0x000#12 0#1 0#3 0#1 269#9 261#10 260#10 452#10) 0#64
    = .ok (.gkRehash ⟨0x000#12, 0#3, false, 269#9, 261#10, 260#10, 452#10, none⟩) := by decide +kernel
/-- ?!k1 mov.b32 v4, 0 (its guard inverted), and add.n32 v2, v0, 0x100 with its extension word of KIND 0 -/
theorem test_word_guard : decodeWords (wordOf 0x17#8 0x500#12 0#1 1#3 1#1 4#9 448#10 0#10 0#10) 0#64
    = .ok (.mov ⟨0x500#12, 1#3, true, 4#9, 448#10, 0#10, 0#10, none⟩) := by decide +kernel
theorem test_word_extension : decodeWords (wordOf 0x00#8 0x300#12 1#1 0#3 0#1 2#9 0#10 1023#10 0#10) 0x100#64
    = .ok (.intAdd ⟨0x300#12, 0#3, false, 2#9, 0#10, 1023#10, 0#10, some 0x100#64⟩) := by decide +kernel
/-- OP 0x1C is not allocated, and a short list of bytes holds no word. -/
theorem test_word_refused : decodeWords (wordOf 0x1C#8 0#12 0#1 0#3 0#1 0#9 0#10 0#10 0#10) 0#64 = .error (.unallocated 0x1C#8) := by decide +kernel

/-! ## Ill-formed terms, one for each check of R103 -/

def ill (mod : Nat) (gmask : BitVec 3) (ginv : Bool) (dst a b c : Nat) (ext : Option Dword) : Enc := { en mod dst a b c with gmask := gmask, ginv := ginv, ext := ext }
/-- The inverted guard ?!k0, a guard where none may stand, a selector 1023 without an extension word, an extension word without a
selector, its reserved bits, its KIND 3, and an address immediate where none is taken. -/
theorem test_ill_guard : WellFormed (.intAdd (ill 0x300 0#3 true 2 4 6 0 none)) = false ∧ WellFormed (.join (ill 0 1#3 false 0 0 0 0 none)) = false := by decide +kernel
theorem test_ill_extension : WellFormed (.intAdd (ill 0x300 0#3 false 2 4 1023 0 none)) = false ∧ WellFormed (.intAdd (ill 0x300 0#3 false 2 4 6 0 (some 0#64))) = false
    ∧ WellFormed (.intAdd (ill 0x300 0#3 false 2 4 1023 0 (some 0x100000000#64))) = false ∧ WellFormed (.intAdd (ill 0x300 0#3 false 2 4 1023 0 (some 0xC000000000000000#64))) = false
    ∧ WellFormed (.intAdd (ill 0x300 0#3 false 2 4 1023 0 (some 0x8000000000000000#64))) = false := by decide +kernel
/-- A destination of another kind, an odd pair, an operand of another kind, a selector that names nothing, an unused field that is not
0, a scalar destination with a vector source, an unused destination, and a branch class's unused bits. -/
theorem test_ill_destination : WellFormed (.intAdd (ill 0x300 0#3 false 386 4 6 0 none)) = false ∧ WellFormed (.intAdd (ill 0x180 0#3 false 257 264 266 0 none)) = false
    ∧ WellFormed (.stG (ill 0x500 0#3 false 2 256 1 2 none)) = false ∧ WellFormed (.intAdd (ill 0x300 0#3 false 258 4 6 0 none)) = false := by decide +kernel
theorem test_ill_operand : WellFormed (.kop (ill 0 0#3 false 386 4 386 0 none)) = false ∧ WellFormed (.intAdd (ill 0x300 0#3 false 2 512 6 0 none)) = false
    ∧ WellFormed (.intAdd (ill 0x300 0#3 false 2 4 6 1 none)) = false ∧ WellFormed (.join (ill 0 0#3 false 0 0 0 1 none)) = false := by decide +kernel
/-- A type that the entry does not list, and a modifier bit that it does not have. -/
theorem test_ill_modifier : WellFormed (.intAdd (ill 0x600 0#3 false 2 4 6 0 none)) = false ∧ WellFormed (.intAdd (ill 0x301 0#3 false 2 4 6 0 none)) = false := by decide +kernel
/-- Registers beyond a wave's allotment: trap 1 in a wave of 8 vector registers. -/
theorem test_ill_allotment : legalCode 8 128 (.intAdd (ill 0x300 0#3 false 8 4 6 0 none)) = some 1#6 ∧ legalCode 256 8 (.intAdd (ill 0x300 0#3 false 2 264 6 0 none)) = some 1#6 := by decide +kernel
theorem test_wellFormed : WellFormed (.intAdd (ill 0x300 0#3 false 2 4 6 0 none)) = true ∧ WellFormed .ctCmdDone = true := by decide +kernel

/-! ## The spec's worked examples -/

/-- What an instruction leaves of the wave. -/
def left {α : Type} (o : Host.Outcome State Fault Refusal) (f : Wave → α) : Option α := match o with | .next t => (t.wave? 0).map f | _ => none
/-- R129, R130: 2^24 and three 1.0 in a wave of four real lanes. -/
def fourLanes : State := withV [(4, [0x4B800000, 0x3F800000, 0x3F800000, 0x3F800000] ++ List.replicate 28 0x40000000)] (tinyW fun w => { w with real := 0xF#32 })
theorem test_wred_tree : left (exec (.wred (en 0x600 260 4 0 0)) fourLanes) (fun w => w.sget 4) = some 0x4B800001#32 := by decide +kernel
theorem test_wscan_sequence : left (exec (.wscan (en 0x600 5 4 0 0)) fourLanes) (fun w => (w.vget 5 0, w.vget 5 3)) = some (0x4B800000#32, 0x4B800000#32) := by decide +kernel
/-- R125: element 1 of 0xC3 under block scale 0.625 and band scale 2.0 is -2.5, and enc gives its code again; a stream element. -/
def elems : State := withV [(1, List.replicate 32 0xC3), (2, List.replicate 32 0xC0200000), (3, List.replicate 32 0x40000048), (5, List.replicate 32 0x18A), (6, List.replicate 32 1)] tiny
theorem test_dcd : left (exec (.dcd (en 2304 2 1 3 449)) elems) (fun w => w.vget 2 0) = some 0xC0200000#32 := by decide +kernel
theorem test_enc : left (exec (.enc (en 2304 4 2 3 0)) elems) (fun w => w.vget 4 0) = some 0xC#32 := by decide +kernel
theorem test_sbx : left (exec (.sbx (en 2432 4 6 5 448)) elems) (fun w => w.vget 4 0) = some 0x40800000#32 := by decide +kernel
/-- R225: the smallest E2M1 element under band scale 2^-126, which FLUSH takes to 0. -/
theorem test_dcd_flush : left (exec (.dcd (en 2304 2 6 7 448)) (withV [(7, List.replicate 32 0x00800001)] elems)) (fun w => w.vget 2 0) = some 0x00008000#32
    ∧ left (exec (.dcd (en 2304 2 6 7 448)) ((withV [(7, List.replicate 32 0x00800001)] elems).updWave 0 (fun w => { w with mode := w.mode ||| 1#32 }))) (fun w => w.vget 2 0) = some 0#32 := by
  decide +kernel
/-- R227: the five k-steps, their pairs of BF16 codes in blocks of two. -/
def kblocks (xs : List (List (Nat × Nat))) : List KBlock :=
  xs.map (fun b => ⟨b.map (fun p => (Fmt.bf16.value p.1, Fmt.bf16.value p.2)), Fmt.bf16.value 0x3F80, Fmt.bf16.value 0x3F80⟩)
theorem test_kstep_tie : kstepColumn false 0 (kblocks [[(0x3F80, 0x3F80), (0x3380, 0x3F80)]]) = 0x3F800000 := by decide +kernel
theorem test_kstep_lost : kstepColumn false 0 (kblocks [[(0x3F80, 0x3F80), (0x3380, 0x3F80)], [(0x2B80, 0x2B80)]]) = 0x3F800001
    ∧ kstepColumn false 0 (kblocks [[(0x3F80, 0x3F80), (0x3380, 0x3F80)], [(0xAB80, 0x2B80)]]) = 0x3F800001
    ∧ kstepColumn false 0 (kblocks [[(0xBF80, 0x3F80), (0xB380, 0x3F80)], [(0xAB80, 0x2B80)]]) = 0xBF800001 := by decide +kernel
theorem test_kstep_cancels : kstepColumn false 0x3F800000 (kblocks [[(0x5880, 0x5880)], [(0xD880, 0x5880)]]) = 0 := by decide +kernel
/-- R372: four inserts and a merge. -/
def insert4 : TopK := (((TopK.insert { k := 2 } 0x40400000#32 7#32).insert 0x40400000#32 2#32).insert 0x3F800000#32 9#32).insert 0x40A00000#32 4#32
theorem test_topk_insert : insert4 = { k := 2, entries := [(0x40A00000#32, 4#32), (0x40400000#32, 2#32)], sel := 0x41000000#32, exc := 0x40800000#32 } := by decide +kernel
def mergeImage : List Byte := leBytes 4 2 ++ leBytes 4 2 ++ leBytes 4 0x40A00000 ++ leBytes 4 0x3F000000 ++ List.replicate 48 0#8
  ++ leBytes 4 0x40400000 ++ leBytes 4 0x40000000 ++ List.replicate 248 0#8 ++ leBytes 4 2 ++ leBytes 4 6 ++ List.replicate 248 0#8
theorem test_topk_merge : insert4.merge mergeImage = { insert4 with sel := 0x41000000#32, exc := 0x40D00000#32 } := by decide +kernel
/-- The hashes of the retrieval program: a unit vector in column j under hf0-hf2, and x. -/
def unitRow (j : Nat) : List Fp := (List.range 8).map (fun i => .fin false (if i = j then 1 else 0) 0)
def retrievalX : List Fp := [(true, 1), (false, 4), (false, 1), (true, 1), (false, 0), (false, 1), (true, 1), (false, 0)].map (fun x => .fin x.1 x.2 0)
theorem test_hash_rows : (List.range 8).map (fun j => (Family.mk 3 8 0#32).hash (unitRow j)) = [6, 1, 7, 4, 2, 7, 4, 4]
    ∧ (List.range 8).map (fun j => (Family.mk 3 8 0x10#32).hash (unitRow j)) = [1, 6, 5, 1, 2, 5, 1, 3] := by decide +kernel
theorem test_hash_x : [0#32, 0x10#32, 8#32].map (fun s => (Family.mk 3 8 s).hash retrievalX) = [1, 6, 4] := by decide +kernel

end Sys2Proof.Tests
end

/-! SUPPORT. Register writes, worlds, secure ranges, power and invalidations (R9, R275, R286, R386, R402-R405, R410, R416): what each
leaves of the state, one lemma for each kind of write or event, and from them the statement O60. -/

namespace Sys2Proof.Machine

open Sys2Proof

/-! ## A record found after its update -/

section
variable (s : State)

@[simp] theorem State.part_updPart_same {p : Nat} (h : p < s.parts.length) (f : Partition → Partition) : (s.updPart p f).part p = f (s.part p) := by
  simp [State.part, List.getD_eq_getElem?_getD, h]
@[simp] theorem State.part_updPart_other {p q : Nat} (h : q ≠ p) (f : Partition → Partition) : (s.updPart p f).part q = s.part q := by
  simp [State.part, List.getD_eq_getElem?_getD, h.symm]
theorem State.part_updPart_ge {p q : Nat} (h : s.parts.length ≤ p) (f : Partition → Partition) : (s.updPart p f).part q = s.part q := by
  simp [State.part, State.updPart, List.modify_eq_self h]
/-- A field that an update leaves alone. -/
theorem State.updPart_field {α : Type} {g : Partition → α} {f : Partition → Partition} (h : ∀ x, g (f x) = g x) (p : Nat) :
    g ((s.updPart p f).part p) = g (s.part p) := by
  by_cases hp : p < s.parts.length
  · rw [s.part_updPart_same hp, h]
  · rw [s.part_updPart_ge (Nat.le_of_not_lt hp)]
theorem State.lt_of_part_ne {p : Nat} (h : s.part p ≠ Partition.reset) : p < s.parts.length := by
  by_contra hp
  exact h (by simp [State.part, List.getD_eq_getElem?_getD, Nat.le_of_not_lt hp])
@[simp] theorem State.die_updDie_same {d : Nat} (h : d < s.dies.length) (f : Die → Die) : (s.updDie d f).die d = f (s.die d) := by
  simp [State.die, List.getD_eq_getElem?_getD, h]
@[simp] theorem State.die_updDie_other {d n : Nat} (h : n ≠ d) (f : Die → Die) : (s.updDie d f).die n = s.die n := by
  simp [State.die, List.getD_eq_getElem?_getD, h.symm]
@[simp] theorem State.stack_updStack_same {k : Nat} (h : k < s.stks.length) (f : Stack → Stack) : (s.updStack k f).stack k = f (s.stack k) := by
  simp [State.stack, List.getD_eq_getElem?_getD, h]

/-- An update of a partition is told by what it makes of that one partition. -/
theorem State.updPart_congr {p : Nat} {f g : Partition → Partition} (h : f (s.part p) = g (s.part p)) : s.updPart p f = s.updPart p g := by
  simp only [State.updPart, State.mk.injEq, true_and, and_true]
  refine List.ext_getElem (by simp) fun i h1 h2 => ?_
  simp only [List.length_modify] at h1
  by_cases hi : p = i
  · subst hi
    simpa [State.part, List.getD_eq_getElem?_getD, h1] using h
  · simp [hi]
theorem State.updPart_self {p : Nat} {f : Partition → Partition} (h : f (s.part p) = s.part p) : s.updPart p f = s := by
  rw [State.updPart_congr s (g := id) h]
  simp [State.updPart]
theorem State.updPart_updPart (p : Nat) (f g : Partition → Partition) : (s.updPart p f).updPart p g = s.updPart p (g ∘ f) := by
  simp only [State.updPart, List.modify_modify_eq]
end

/-! ## Fields of a register -/

theorem bitsOf_toNat (v : Dword) (hi lo : Nat) : bitsOf v.toNat hi lo = (v.extractLsb' lo (hi + 1 - lo)).toNat := by
  simp [bitsOf, BitVec.extractLsb'_toNat, Nat.shiftRight_eq_div_pow]

theorem bit_toNat (v : Dword) (i : Nat) : bit v.toNat i = v.getLsbD i := by
  simp [bit, BitVec.getLsbD, Nat.testBit_eq_decide_div_mod_eq]

/-- A field in place has the value's bits inside it and 0 elsewhere. -/
theorem getLsbD_fieldOf (v : Dword) {hi lo : Nat} (h : hi < 64) (i : Nat) :
    (fieldOf v hi lo).getLsbD i = (decide (lo ≤ i ∧ i ≤ hi) && v.getLsbD i) := by
  simp only [fieldOf, dword, bitsOf, BitVec.getLsbD_ofNat, Nat.testBit_mul_two_pow, Nat.testBit_mod_two_pow, Nat.testBit_div_two_pow]
  by_cases h1 : lo ≤ i <;> by_cases h2 : i ≤ hi
  · have : i - lo + lo = i := by omega
    simp [h1, h2, this, BitVec.getLsbD, show i < 64 by omega, show i - lo < hi + 1 - lo by omega]
  · simp [h1, h2, show ¬ i - lo < hi + 1 - lo by omega]
  all_goals simp [h1]

/-- A field in place is found again where it stands. -/
theorem extractLsb'_fieldOf (v : Dword) (hi lo a n : Nat) (h : hi < 64) (ha : lo ≤ a) (hn : a + n ≤ hi + 1) :
    (fieldOf v hi lo).extractLsb' a n = v.extractLsb' a n := by
  refine BitVec.eq_of_getLsbD_eq fun i hi' => ?_
  simp [getLsbD_fieldOf v h, hi', show lo ≤ a + i ∧ a + i ≤ hi by omega]
/-- Bits outside a field in place are 0. -/
theorem extractLsb'_fieldOf_outside (v : Dword) (hi lo a n : Nat) (h : hi < 64) (ha : a + n ≤ lo ∨ hi < a) :
    (fieldOf v hi lo).extractLsb' a n = 0#n := by
  refine BitVec.eq_of_getLsbD_eq fun i hi' => ?_
  simp [getLsbD_fieldOf v h, show ¬(lo ≤ a + i ∧ a + i ≤ hi) by omega]

/-- HBM_CTL as written (R376): a cap of 0 is raised to 1. -/
def hbmCtlWrite (v : Dword) : Dword :=
  fieldOf v 47 32 ||| (if bitsOf v.toNat 31 24 = 0 then dword (2 ^ 24) else fieldOf v 31 24) ||| fieldOf v 15 0

theorem writeReg_hbmCtl (st : Stack) (k : Nat) (v : Dword) : (st.writeReg (.hbmCtl k) v).hbmCtl = hbmCtlWrite v := rfl

theorem hbmCtlWrite_fields (v : Dword) :
    (hbmCtlWrite v).extractLsb' 32 16 = v.extractLsb' 32 16 ∧ (hbmCtlWrite v).extractLsb' 0 16 = v.extractLsb' 0 16
    ∧ (hbmCtlWrite v).extractLsb' 24 8 = (if v.extractLsb' 24 8 = 0#8 then 1#8 else v.extractLsb' 24 8)
    ∧ (hbmCtlWrite v).extractLsb' 16 8 = 0#8 := by
  have hz : bitsOf v.toNat 31 24 = 0 ↔ v.extractLsb' 24 8 = 0#8 := by
    rw [bitsOf_toNat, ← BitVec.toNat_inj]; rfl
  have hor (a b : Dword) (i n : Nat) : (a ||| b).extractLsb' i n = a.extractLsb' i n ||| b.extractLsb' i n :=
    BitVec.extractLsb'_or
  simp only [hbmCtlWrite, hor, hz]
  split <;> simp [extractLsb'_fieldOf, extractLsb'_fieldOf_outside, dword]

/-- FIX of ACLK_CTL stays as it is written. -/
theorem aclkWrite_fix (old v : Dword) (h : v.getLsbD 48 = true) : (aclkWrite old v).getLsbD 48 = true := by
  have hf : (fieldOf v 48 48).getLsbD 48 = true := by rw [getLsbD_fieldOf v (by decide), h]; rfl
  simp only [aclkWrite, BitVec.getLsbD_or, hf, Bool.true_or]

theorem aclkBound_fixed {ctl : Dword} (h : ctl.getLsbD 48 = true) (f : Nat) : aclkBound ctl f = (ctl.extractLsb' 40 8).toNat := by
  simp [aclkBound, bit_toNat, h, bitsOf_toNat]

/-! ## The fault queue -/

/-- What a step of partition `p`'s fault queue keeps: the waves, the hub, the other partitions, and where the queue lies. -/
structure FqFrame (p : Nat) (s t : State) : Prop where
  waves : t.waves = s.waves
  hub : t.hub = s.hub
  others : ∀ q, q ≠ p → t.part q = s.part q
  base : (t.part p).fqBase = (s.part p).fqBase
  size : (t.part p).fqSize = (s.part p).fqSize

theorem FqFrame.refl (p : Nat) (s : State) : FqFrame p s s := ⟨rfl, rfl, fun _ _ => rfl, rfl, rfl⟩
theorem FqFrame.trans {p : Nat} {s t u : State} (h : FqFrame p s t) (k : FqFrame p t u) : FqFrame p s u :=
  ⟨k.waves.trans h.waves, k.hub.trans h.hub, fun q hq => (k.others q hq).trans (h.others q hq), k.base.trans h.base, k.size.trans h.size⟩

theorem FqFrame.foldl {α : Type} {p : Nat} {f : State → α → State} (h : ∀ s x, FqFrame p s (f s x)) (xs : List α) (s : State) :
    FqFrame p s (xs.foldl f s) :=
  List.foldlRecOn (motive := FqFrame p s) xs f (FqFrame.refl p s) fun t ht x _ => ht.trans (h t x)

/-- An update of the partition that leaves its queue where it lies. -/
theorem FqFrame.updPart (s : State) (p : Nat) {f : Partition → Partition} (hb : ∀ x, (f x).fqBase = x.fqBase)
    (hs : ∀ x, (f x).fqSize = x.fqSize) : FqFrame p s (s.updPart p f) :=
  ⟨rfl, rfl, fun _ hq => s.part_updPart_other hq f, s.updPart_field hb p, s.updPart_field hs p⟩

theorem State.saveUndo_fqFrame (s : State) (p : Nat) (sp : Space) (l : Nat) : FqFrame p s (s.saveUndo p sp l) := by
  simp only [State.saveUndo]
  split
  · exact FqFrame.updPart s p (fun _ => rfl) (fun _ => rfl)
  · exact FqFrame.refl p s

theorem State.devWrite_fqFrame (s : State) (p : Nat) (sp : Space) (l : Nat) (d : List Byte) (m : BitVec 64) :
    FqFrame p s (s.devWrite p sp l d m) := by
  obtain ⟨hw, hh, ho, hb, hs⟩ := s.saveUndo_fqFrame p sp l
  simp only [State.devWrite]
  split <;> exact ⟨hw, hh, ho, hb, hs⟩

theorem State.vwrite_fqFrame {s t : State} {die p va : Nat} {bs : List Byte} (h : s.vwrite die p va bs = .ok t) : FqFrame p s t := by
  simp only [State.vwrite] at h
  split at h
  · cases h
  · split at h
    · cases h
    cases h
    refine FqFrame.foldl (fun u x => ?_) _ s
    split
    · exact FqFrame.refl p u
    · exact FqFrame.foldl (fun u l => State.devWrite_fqFrame u p _ _ _ _) _ u

theorem State.drainFq_fqFrame (p fuel : Nat) : ∀ s : State, FqFrame p s (s.drainFq p fuel) := by
  induction fuel with
  | zero => exact FqFrame.refl p
  | succ n ih =>
    intro s
    simp only [State.drainFq]
    split
    · exact FqFrame.refl p s
    split
    · exact FqFrame.trans (by exact FqFrame.updPart s p (fun _ => rfl) fun _ => rfl) (ih _)
    split
    · exact FqFrame.refl p s
    · refine FqFrame.trans (FqFrame.trans ?_ (by exact FqFrame.updPart _ p (fun _ => rfl) fun _ => rfl)) (ih _)
      split
      next t ht => exact State.vwrite_fqFrame ht
      next => exact FqFrame.refl p s

/-- Every waiting record of a partition is dropped, and signalled on vector 0. -/
def Partition.dropFaults (x : Partition) : Partition := { x with fqHeld := [], irq0 := x.irq0 + x.fqHeld.length }
theorem Partition.dropFaults_of_none {x : Partition} (h : x.fqHeld = []) : x.dropFaults = x := by
  cases x; subst h; rfl

/-- Without a fault queue the waiting records are dropped, each signalled; with none waiting that changes nothing. -/
theorem State.drainFq_drops (p fuel : Nat) : ∀ s : State, ((s.part p).fqHeld = [] ∨ fqExists (s.part p) = false) →
    (s.part p).fqHeld.length < fuel → s.drainFq p fuel = s.updPart p Partition.dropFaults := by
  induction fuel with
  | zero => exact fun _ _ h => absurd h (Nat.not_lt_zero _)
  | succ n ih =>
    intro s hq hn
    simp only [State.drainFq]
    split
    next hx => exact (s.updPart_self (Partition.dropFaults_of_none hx)).symm
    next r rest hx =>
      have he : fqExists (s.part p) = false := hq.resolve_left (by simp [hx])
      have hp : p < s.parts.length := s.lt_of_part_ne (fun e => by simp [e, Partition.reset] at hx)
      have hpart := s.part_updPart_same hp (fun y => { y with fqHeld := rest, irq0 := y.irq0 + 1 })
      rw [if_pos (by simp [he]), ih _ (.inr ?_) ?_, State.updPart_updPart]
      · refine s.updPart_congr ?_
        simp only [Function.comp, Partition.dropFaults, hx, List.length_cons]
        rw [Nat.add_assoc, Nat.add_comm 1]
      · rw [hpart]; exact he
      · rw [hpart]; simp only [hx, List.length_cons] at hn; exact Nat.lt_of_succ_lt_succ hn

/-! ## Who may write a register (R9, R386, R402) -/

theorem registerWrite_refused {o : Origin} {r : RegName} (h : regAllowed o r = false) (v : Dword) (s : State) :
    exec (.registerWrite o r v) s = .next s := by simp [execRegisterWrite, h]
theorem registerWrite_allowed {o : Origin} {r : RegName} (h : regAllowed o r = true) (v : Dword) (s : State) :
    exec (.registerWrite o r v) s = .next (s.writeReg r v) := by simp [execRegisterWrite, h]

theorem regAllowed_vf {q : Nat} {r : RegName} (h : regAllowed (.vf q) r = true) : regPart r = some q ∧ secureReg r = false := by
  simp only [regAllowed, Bool.and_eq_true, Bool.not_eq_true', decide_eq_true_eq] at h
  obtain ⟨⟨⟨hsec, -⟩, hpart⟩, -⟩ := h
  exact ⟨hpart, hsec⟩
theorem regAllowed_pf0 {r : RegName} (h : regAllowed .pf0 r = true) : secureReg r = false := by simpa [regAllowed] using h

/-! ## Registers of a partition -/

/-- A register that a partition alone holds: the write reaches no other partition, and nothing else of the module. -/
theorem partRegister_write {s : State} {o : Origin} {r : RegName} {v w : Dword} {p : Nat} {g : Partition → Dword} (hp : p < s.parts.length)
    (hr : s.writeReg r v = s.updPart p (fun x => x.writeReg r v)) (hg : ∀ x : Partition, g (x.writeReg r v) = w) (ho : regAllowed o r = true) :
    ∃ t, exec (.registerWrite o r v) s = .next t ∧ g (t.part p) = w ∧ (∀ q, q ≠ p → t.part q = s.part q)
      ∧ t.mem = s.mem ∧ t.waves = s.waves ∧ t.hub = s.hub ∧ t.stks = s.stks ∧ t.dies = s.dies := by
  refine ⟨_, registerWrite_allowed ho v s, ?_, fun q hq => ?_, ?_⟩
  · rw [hr, s.part_updPart_same hp, hg]
  · rw [hr, s.part_updPart_other hq]
  · rw [hr]; exact ⟨rfl, rfl, rfl, rfl, rfl⟩

/-- A register of a partition whose write is told by what it makes of the partition. -/
theorem partRegister_updates {s : State} {o : Origin} {r : RegName} {v : Dword} {p : Nat} {f : Partition → Partition}
    (hr : s.writeReg r v = s.updPart p (fun x => x.writeReg r v)) (hf : (s.part p).writeReg r v = f (s.part p)) (ho : regAllowed o r = true) :
    exec (.registerWrite o r v) s = .next (s.updPart p f) := by
  rw [registerWrite_allowed ho, hr, s.updPart_congr hf]

theorem writeReg_addresses (s : State) (o : Origin) (v : Dword) {p : Nat} (hp : p < s.parts.length) :
    ∀ z ∈ [(RegName.lqBase p, Partition.lqBase, fieldOf v 56 0), (.hwinVa p, Partition.hwinVa, fieldOf v 56 16), (.irBase p, Partition.irBase, fieldOf v 56 0),
        (.uetRt p, Partition.uetRt, fieldOf v 56 0), (.ctxDesc p, Partition.ctxDesc, fieldOf v 51 6), (.ageLimit p, Partition.ageLimit, fieldOf v 47 0),
        (.profBase p, Partition.profBase, fieldOf v 56 0), (.tadBase p, Partition.tadBase, fieldOf v 51 16), (.tadLog p, Partition.tadLog, fieldOf v 51 16),
        (.tadStop p, Partition.tadStop, v), (.arrSaveBase p, Partition.arrSaveBase, fieldOf v 51 16),
        (.distCtl p, Partition.distCtl, fieldOf v 39 24 ||| fieldOf v 19 16), (.tlbInv p, Partition.tlbInv, fieldOf v 56 16 ||| fieldOf v 1 1)],
      regAllowed o z.1 = true → ∃ t, exec (.registerWrite o z.1 v) s = .next t ∧ z.2.1 (t.part p) = z.2.2 ∧ (∀ q, q ≠ p → t.part q = s.part q)
        ∧ t.mem = s.mem ∧ t.waves = s.waves ∧ t.hub = s.hub ∧ t.stks = s.stks ∧ t.dies = s.dies := by
  intro z hz
  simp only [List.mem_cons, List.not_mem_nil, or_false] at hz
  rcases hz with rfl | rfl | rfl | rfl | rfl | rfl | rfl | rfl | rfl | rfl | rfl | rfl | rfl <;>
    exact partRegister_write hp rfl fun _ => rfl

/-- A partition with FQ_BASE or FQ_SIZE 0 has no fault queue (R276). -/
theorem fqExists_zero {x : Partition} (h : x.fqBase = 0#64 ∨ x.fqSize = 0#64) : fqExists x = false := by
  rcases h with h | h <;> simp [fqExists, h]

/-- A write of where the fault queue lies: the records that wait go into it, or are dropped when there is none. -/
theorem fqRegister_write {s : State} {o : Origin} {r : RegName} {v : Dword} {p : Nat} {g : Partition → Dword} (hp : p < s.parts.length)
    (hr : s.writeReg r v = (s.updPart p (fun x => x.writeReg r v)).drainFq p ((s.part p).fqHeld.length + 1))
    (hgv : ∀ x : Partition, g (x.writeReg r v) = v) (hg : ∀ x y : Partition, x.fqBase = y.fqBase → x.fqSize = y.fqSize → g x = g y)
    (hz : ∀ x, g x = 0#64 → fqExists x = false)
    (hf : ∀ x : Partition, (x.writeReg r v).fqHeld = x.fqHeld ∧ (x.writeReg r v).irq0 = x.irq0 ∧ (x.writeReg r v).fqWrite = x.fqWrite)
    (ho : regAllowed o r = true) :
    ∃ t, exec (.registerWrite o r v) s = .next t ∧ g (t.part p) = v ∧ (∀ q, q ≠ p → t.part q = s.part q) ∧ t.hub = s.hub
      ∧ ((s.part p).fqHeld = [] ∨ v = 0#64 → (t.part p).fqHeld = [] ∧ (t.part p).irq0 = (s.part p).irq0 + (s.part p).fqHeld.length
        ∧ (t.part p).fqWrite = (s.part p).fqWrite ∧ t.mem = s.mem ∧ t.waves = s.waves) := by
  obtain ⟨hheld, hirq, hwr⟩ := hf (s.part p)
  have hpart := s.part_updPart_same hp (fun x => x.writeReg r v)
  have hfr := State.drainFq_fqFrame p ((s.part p).fqHeld.length + 1) (s.updPart p (fun x => x.writeReg r v))
  refine ⟨_, (registerWrite_allowed ho v s).trans (by rw [hr]), ?_, fun q hq => ?_, hfr.hub, fun hnone => ?_⟩
  · rw [hg _ _ hfr.base hfr.size, hpart, hgv]
  · rw [hfr.others q hq, s.part_updPart_other hq]
  · have hdrop : ((s.part p).writeReg r v).fqHeld = [] ∨ fqExists ((s.part p).writeReg r v) = false := by
      rw [hheld]; exact hnone.imp_right fun h0 => hz _ ((hgv _).trans h0)
    rw [State.drainFq_drops p _ _ (by rwa [hpart]) (by rw [hpart, hheld]; exact Nat.lt_succ_self _), State.updPart_updPart, s.part_updPart_same hp]
    exact ⟨rfl, by simp only [Function.comp, Partition.dropFaults, hirq, hheld], hwr, rfl, rfl⟩

theorem fqRegisters_write (s : State) (o : Origin) (v : Dword) {p : Nat} (hp : p < s.parts.length) :
    ∀ z ∈ [(RegName.fqBase p, Partition.fqBase), (.fqSize p, Partition.fqSize)], regAllowed o z.1 = true →
      ∃ t, exec (.registerWrite o z.1 v) s = .next t ∧ z.2 (t.part p) = v ∧ (∀ q, q ≠ p → t.part q = s.part q) ∧ t.hub = s.hub
        ∧ ((s.part p).fqHeld = [] ∨ v = 0#64 → (t.part p).fqHeld = [] ∧ (t.part p).irq0 = (s.part p).irq0 + (s.part p).fqHeld.length
          ∧ (t.part p).fqWrite = (s.part p).fqWrite ∧ t.mem = s.mem ∧ t.waves = s.waves) := by
  intro z hz
  simp only [List.mem_cons, List.not_mem_nil, or_false] at hz
  rcases hz with rfl | rfl
  · exact fqRegister_write (g := Partition.fqBase) hp rfl (fun _ => rfl) (fun _ _ hb _ => hb) (fun _ h => fqExists_zero (.inl h)) fun _ => ⟨rfl, rfl, rfl⟩
  · exact fqRegister_write (g := Partition.fqSize) hp rfl (fun _ => rfl) (fun _ _ _ hs => hs) (fun _ h => fqExists_zero (.inr h)) fun _ => ⟨rfl, rfl, rfl⟩

/-- SYS_TMO is raised to its least, 1 (R389). -/
theorem sysTmo_least (v : Dword) : (if v.extractLsb' 0 16 = 0#16 then 1#16 else v.extractLsb' 0 16) = BitVec.ofNat 16 (max 1 (v.extractLsb' 0 16).toNat) := by
  split
  next h => rw [h]; rfl
  next h =>
    have : (v.extractLsb' 0 16).toNat ≠ 0 := fun h0 => h (BitVec.eq_of_toNat_eq h0)
    rw [max_eq_right (by omega), BitVec.ofNat_toNat, BitVec.setWidth_eq]

/-- SLICE_IVL is raised to its least, 10 (R57). -/
theorem sliceIvl_least (v : Dword) : (dword (max 10 (bitsOf v.toNat 19 0))).toNat = max 10 (v.extractLsb' 0 20).toNat := by
  rw [bitsOf_toNat]
  have h : (v.extractLsb' 0 (19 + 1 - 0)).toNat < 2 ^ 20 := BitVec.isLt _
  simp only [dword, BitVec.toNat_ofNat]
  exact Nat.mod_eq_of_lt (by omega)

theorem sliceIvl_write (s : State) {o : Origin} (v : Dword) {p : Nat} (hp : p < s.parts.length) (ho : regAllowed o (.sliceIvl p) = true) :
    ∃ t, exec (.registerWrite o (.sliceIvl p) v) s = .next t ∧ (t.part p).sliceIvl.toNat = max 10 (v.extractLsb' 0 20).toNat ∧ t.mem = s.mem := by
  obtain ⟨t, ht, hw, -, hm, -⟩ := partRegister_write (g := Partition.sliceIvl) (r := .sliceIvl p) (v := v)
    (w := dword (max 10 (bitsOf v.toNat 19 0))) hp rfl (fun _ => rfl) ho
  exact ⟨t, ht, by rw [hw, sliceIvl_least], hm⟩

theorem shadow_write (s : State) (v : Dword) (p : Nat) : exec (.registerWrite .secure (.shadow p) v) s
    = .next (s.updPart p (fun y => { y with shadow := if (v.extractLsb' 0 7).toNat ≤ 80 then v.extractLsb' 0 7 else (s.part p).shadow })) := by
  refine partRegister_updates rfl ?_ rfl
  simp only [Partition.writeReg, bitsOf_toNat]

/-! ## Registers of stacks and of the hub -/

/-- A stack's register, which only the secure world writes. -/
theorem stackRegister_write {s : State} {r : RegName} {v : Dword} {k : Nat} {P : Stack → Prop} (hk : k < s.stks.length)
    (hr : s.writeReg r v = s.updStack k (fun x => x.writeReg r v)) (hP : P ((s.stack k).writeReg r v)) (ho : regAllowed .secure r = true) :
    ∃ t, exec (.registerWrite .secure r v) s = .next t ∧ t.mem = s.mem ∧ P (t.stack k) := by
  refine ⟨_, registerWrite_allowed ho v s, by rw [hr]; rfl, ?_⟩
  rw [hr, s.stack_updStack_same hk]
  exact hP

theorem hbmCtl_write (s : State) (v : Dword) {k : Nat} (hk : k < s.stks.length) :
    ∃ t, exec (.registerWrite .secure (.hbmCtl k) v) s = .next t ∧ t.mem = s.mem
      ∧ (t.stack k).hbmCtl.extractLsb' 32 16 = v.extractLsb' 32 16 ∧ (t.stack k).hbmCtl.extractLsb' 0 16 = v.extractLsb' 0 16
      ∧ (t.stack k).hbmCtl.extractLsb' 24 8 = (if v.extractLsb' 24 8 = 0#8 then 1#8 else v.extractLsb' 24 8)
      ∧ (t.stack k).hbmCtl.extractLsb' 16 8 = 0#8 :=
  stackRegister_write (P := fun x => x.hbmCtl.extractLsb' 32 16 = v.extractLsb' 32 16 ∧ x.hbmCtl.extractLsb' 0 16 = v.extractLsb' 0 16
    ∧ x.hbmCtl.extractLsb' 24 8 = (if v.extractLsb' 24 8 = 0#8 then 1#8 else v.extractLsb' 24 8) ∧ x.hbmCtl.extractLsb' 16 8 = 0#8)
    hk rfl (by simpa only [writeReg_hbmCtl] using hbmCtlWrite_fields v) rfl

theorem eccStat_write (s : State) (v : Dword) {k : Nat} (hk : k < s.stks.length) :
    ∃ t, exec (.registerWrite .secure (.eccStat k) v) s = .next t ∧ (t.stack k).corr = (s.stack k).corr &&& ~~~(v.extractLsb' 32 32)
      ∧ (t.stack k).uncorr = (s.stack k).uncorr &&& ~~~(v.extractLsb' 0 32) := by
  obtain ⟨t, ht, -, hc⟩ := stackRegister_write (r := .eccStat k) (v := v)
    (P := fun x => x.corr = w1c32 (s.stack k).corr v 32 ∧ x.uncorr = w1c32 (s.stack k).uncorr v 0) hk rfl ⟨rfl, rfl⟩ rfl
  exact ⟨t, ht, hc⟩

theorem aclkCtl_write_fixed (s : State) {v : Dword} {k : Nat} (hk : k < s.stks.length) (hv : v.getLsbD 48 = true) :
    ∃ t, exec (.registerWrite .secure (.aclkCtl k) v) s = .next t ∧ t.mem = s.mem
      ∧ ∀ f ∈ (t.stack k).aclkF, f = ((t.stack k).aclkCtl.extractLsb' 40 8).toNat := by
  refine stackRegister_write (P := fun x => ∀ f ∈ x.aclkF, f = (x.aclkCtl.extractLsb' 40 8).toNat) hk rfl ?_ rfl
  intro f hf
  obtain ⟨f', -, rfl⟩ := List.mem_map.1 hf
  exact aclkBound_fixed (aclkWrite_fix _ v hv) f'

theorem pwrCap_write (s : State) (v : Dword) : ∃ t, exec (.registerWrite .pf0 .pwrCap v) s = .next t
    ∧ t.hub.pwrCap = (if 500 ≤ (v.extractLsb' 0 12).toNat ∧ (v.extractLsb' 0 12).toNat ≤ 2900 then v.extractLsb' 0 12 else s.hub.pwrCap) := by
  refine ⟨_, registerWrite_allowed rfl v s, ?_⟩
  simp only [State.writeReg, State.updHub_hub, bitsOf_toNat, Bool.and_eq_true, decide_eq_true_eq]
  split <;> rfl

theorem secLim_write (s : State) (v : Dword) {i : Nat} {r : SecRange} (h : s.hub.secRanges[i]? = some r) :
    ∃ t, exec (.registerWrite .secure (.secLim i) v) s = .next t ∧ t.hub.secRanges[i]? = some { r with lim := v.extractLsb' 0 31 } := by
  refine ⟨_, registerWrite_allowed rfl v s, ?_⟩
  simp only [State.writeReg, State.updHub_hub, List.getElem?_modify_eq, h]
  rfl

/-! ## Groups that change their world (R405) -/

/-- One group takes its new world, and its cores' L1 copies go. -/
def State.settleGroup (s : State) (n : Nat) : State :=
  (s.updDie (n / 12) (fun d => { d with cgWorld := d.cgWorld ^^^ (1#12 <<< (n % 12)), cgEmptying := d.cgEmptying &&& ~~~(1#12 <<< (n % 12)) })).updMem
    (fun m => { m with copies := m.copies.filter (fun c => !(c.l1 && groupOf c.unit = n)) })
/-- The groups that are being emptied and hold no block. -/
def State.readyGroups (s : State) : List Nat :=
  (List.range 24).filter (fun n => (s.die (n / 12)).cgEmptying.getLsbD (n % 12) && !s.blocks.any (fun b => groupOf b.core = n && b.status ≠ .saved))
theorem State.settleWorlds_eq (s : State) : s.settleWorlds = s.readyGroups.foldl State.settleGroup s := rfl

theorem State.readyGroups_nodup (s : State) : s.readyGroups.Nodup := List.nodup_range.filter _
theorem State.mem_readyGroups {s : State} {d i : Nat} (hd : d < 2) (hi : i < 12) : 12 * d + i ∈ s.readyGroups ↔
    (s.die d).cgEmptying.getLsbD i = true ∧ ∀ b ∈ s.blocks, groupOf b.core = 12 * d + i → b.status = .saved := by
  have h1 : (12 * d + i) / 12 = d := by omega
  have h2 : (12 * d + i) % 12 = i := by omega
  simp only [State.readyGroups, List.mem_filter, List.mem_range, h1, h2, show 12 * d + i < 24 by omega, true_and, Bool.and_eq_true,
    Bool.not_eq_true', List.any_eq_false, decide_eq_true_eq, not_and, not_not]

theorem getLsbD_one_shl {i : Nat} (hi : i < 12) (k : Nat) : (1#12 <<< k).getLsbD i = decide (k = i) := by
  rw [BitVec.getLsbD_shiftLeft, BitVec.getLsbD_one]
  by_cases h : k = i
  · simp [h, hi]
  · simp [h, hi]; omega

/-- A group that settles toggles its bit of CG_WORLD, and is no longer emptied. -/
theorem State.settleGroup_bits {s : State} {d i : Nat} (hd : d < s.dies.length) (hi : i < 12) (n : Nat) :
    ((s.settleGroup n).die d).cgWorld.getLsbD i = ((s.die d).cgWorld.getLsbD i ^^ decide (n = 12 * d + i))
    ∧ ((s.settleGroup n).die d).cgEmptying.getLsbD i = ((s.die d).cgEmptying.getLsbD i && !decide (n = 12 * d + i)) := by
  by_cases hdn : n / 12 = d
  · subst hdn
    have hn : n = 12 * (n / 12) + i ↔ n % 12 = i := by omega
    rw [show (s.settleGroup n).die (n / 12) = _ from s.die_updDie_same hd _]
    simp only [BitVec.getLsbD_xor, BitVec.getLsbD_and, BitVec.getLsbD_not, getLsbD_one_shl hi, hi, decide_true, Bool.true_and, hn, and_self]
  · have hn : n ≠ 12 * d + i := by omega
    rw [show (s.settleGroup n).die d = s.die d from s.die_updDie_other (Ne.symm hdn) _]
    simp [hn]

/-- As groups settle one by one, each toggles its own bit of CG_WORLD, and no other. -/
theorem State.settleGroups_bits {d i : Nat} (hi : i < 12) (ns : List Nat) : ∀ s : State, d < s.dies.length → ns.Nodup →
    ((ns.foldl State.settleGroup s).die d).cgWorld.getLsbD i = ((s.die d).cgWorld.getLsbD i ^^ decide (12 * d + i ∈ ns))
    ∧ ((ns.foldl State.settleGroup s).die d).cgEmptying.getLsbD i = ((s.die d).cgEmptying.getLsbD i && !decide (12 * d + i ∈ ns)) := by
  induction ns with
  | nil => intro s _ _; simp
  | cons n ns ih =>
    intro s hd hn
    obtain ⟨hnot, hn⟩ := List.nodup_cons.1 hn
    obtain ⟨h1, h2⟩ := ih (s.settleGroup n) (by simpa [State.settleGroup] using hd) hn
    obtain ⟨h3, h4⟩ := State.settleGroup_bits hd hi n
    rw [List.foldl_cons, h1, h2, h3, h4]
    by_cases hin : n = 12 * d + i
    · subst hin; simp [hnot]
    · simp [hin, Ne.symm hin]

/-- A settled group keeps no L1 copy, and no copy is made. -/
theorem State.settleGroups_copies (ns : List Nat) : ∀ (s : State), ∀ c ∈ (ns.foldl State.settleGroup s).mem.copies,
    c ∈ s.mem.copies ∧ ∀ n ∈ ns, ¬(c.l1 = true ∧ groupOf c.unit = n) := by
  induction ns with
  | nil => exact fun _ _ hc => ⟨hc, fun _ h => absurd h List.not_mem_nil⟩
  | cons n ns ih =>
    intro s c hc
    obtain ⟨h1, h2⟩ := ih (s.settleGroup n) c hc
    obtain ⟨h3, h4⟩ := List.mem_filter.1 (show c ∈ s.mem.copies.filter (fun c => !(c.l1 && groupOf c.unit = n)) from h1)
    exact ⟨h3, List.forall_mem_cons.2 ⟨by simpa [imp_iff_not_or] using h4, h2⟩⟩

/-! ### What a request for pre-emption leaves alone -/

/-- Where a block is, which decides whether its group is empty. -/
def State.places (s : State) : List (Nat × BlkStatus) := s.blocks.map (fun b => (b.core, b.status))

/-- No block is elsewhere or has another status, and the dies are as they were. -/
structure SamePlaces (s t : State) : Prop where
  places : t.places = s.places
  dies : t.dies = s.dies

theorem SamePlaces.refl (s : State) : SamePlaces s s := ⟨rfl, rfl⟩
theorem SamePlaces.trans {s t u : State} (h : SamePlaces s t) (k : SamePlaces t u) : SamePlaces s u :=
  ⟨k.places.trans h.places, k.dies.trans h.dies⟩
theorem SamePlaces.foldl {α : Type} {f : State → α → State} (h : ∀ s x, SamePlaces s (f s x)) (xs : List α) (s : State) :
    SamePlaces s (xs.foldl f s) :=
  List.foldlRecOn (motive := SamePlaces s) xs f (SamePlaces.refl s) fun t ht x _ => ht.trans (h t x)

theorem SamePlaces.updWave (s : State) (w : Nat) (f : Wave → Wave) : SamePlaces s (s.updWave w f) := ⟨rfl, rfl⟩
theorem SamePlaces.updBlock (s : State) (u : Nat) (f : Block → Block) (h : ∀ b, (f b).core = b.core ∧ (f b).status = b.status) :
    SamePlaces s (s.updBlock u f) := by
  refine ⟨?_, rfl⟩
  simp only [State.places, State.updBlock_blocks, List.map_map]
  refine List.map_congr_left fun b _ => ?_
  simp only [Function.comp]
  split
  · rw [(h b).1, (h b).2]
  · rfl

theorem State.forceSave_places (s : State) (u : Nat) : SamePlaces s (s.forceSave u) := by
  simp only [State.forceSave]
  split
  · exact SamePlaces.refl s
  · refine SamePlaces.trans ?_ (SamePlaces.foldl (fun t w => ?_) _ _)
    · exact SamePlaces.updBlock s u _ fun _ => ⟨rfl, rfl⟩
    split
    · exact SamePlaces.refl t
    · split
      · exact SamePlaces.refl t
      · exact SamePlaces.updWave t _ _

theorem State.requestPre_places (s : State) (u : Nat) (why : PreWhy) : SamePlaces s (s.requestPre u why) := by
  simp only [State.requestPre]
  split
  · exact SamePlaces.refl s
  split
  · exact SamePlaces.refl s
  have hreq (t : State) (ms : List Nat) (f : Wave → Wave) : SamePlaces t (ms.foldl (fun s w => s.updWave w f) t) :=
    SamePlaces.foldl (fun t w => SamePlaces.updWave t w f) ms t
  have hblk := (SamePlaces.updBlock s u (fun b => { b with pre := some { why := why, since := s.clk, expired := false } }) fun _ => ⟨rfl, rfl⟩)
  split
  · exact (hblk.trans (hreq _ _ _)).trans (State.forceSave_places _ u)
  · exact hblk.trans (hreq _ _ _)

theorem SamePlaces.block {s t : State} (h : SamePlaces s t) {b : Block} (hb : b ∈ s.blocks) :
    ∃ b' ∈ t.blocks, b'.core = b.core ∧ b'.status = b.status := by
  have hm : (b.core, b.status) ∈ t.places := h.places ▸ List.mem_map_of_mem hb
  obtain ⟨b', hb', he⟩ := List.mem_map.1 hm
  exact ⟨b', hb', congrArg Prod.fst he, congrArg Prod.snd he⟩

/-! ### CG_WORLD_WRITE -/

/-- The groups of a die whose world changes start to be emptied. -/
def State.beginWorld (s : State) (die : Nat) (v : Dword) : State :=
  s.updDie die (fun d => { d with cgEmptying := d.cgWorld ^^^ v.extractLsb' 0 12 })
/-- The resident blocks of the groups that are being emptied. -/
def State.inEmptying (s : State) (die : Nat) : List Block :=
  s.blocks.filter (fun b => dieOf b.core = die && (s.die die).cgEmptying.getLsbD (groupInDie b.core) && b.status = .resident)
theorem execCgWorldWrite_eq {die : Nat} (h : die < 2) (v : Dword) (s : State) : execCgWorldWrite die v s
    = .next (((s.beginWorld die v).inEmptying die).foldl (fun s b => s.requestPre b.uid .world) (s.beginWorld die v)).settleWorlds := by
  rw [execCgWorldWrite, if_neg (by omega)]
  rfl

/-- A group's bit is emptied just when its world changes. -/
theorem State.beginWorld_emptying {s : State} {die n : Nat} (hd : die < s.dies.length) (v : Dword) (hn : n < 12) :
    ((s.beginWorld die v).die die).cgEmptying.getLsbD n = true ↔ (s.die die).cgWorld.getLsbD n ≠ v.getLsbD n := by
  rw [State.beginWorld, s.die_updDie_same hd]
  simp [hn]
theorem State.beginWorld_world {s : State} {die : Nat} (hd : die < s.dies.length) (v : Dword) :
    ((s.beginWorld die v).die die).cgWorld = (s.die die).cgWorld := by
  rw [State.beginWorld, s.die_updDie_same hd]

/-- The group's world changes with a write of CG_WORLD. -/
def Leaves (s : State) (die : Nat) (v : Dword) (n : Nat) : Prop := n < 12 ∧ (s.die die).cgWorld.getLsbD n ≠ v.getLsbD n
/-- The group holds a block. -/
def GroupHeld (s : State) (die n : Nat) : Prop := ∃ b ∈ s.blocks, groupOf b.core = 12 * die + n ∧ b.status ≠ .saved

theorem inEmptying_none {s : State} {die : Nat} {v : Dword} (hd : die < s.dies.length) (he : ∀ n, Leaves s die v n → ¬GroupHeld s die n) :
    (s.beginWorld die v).inEmptying die = [] := by
  refine List.filter_eq_nil_iff.2 fun b hb => ?_
  simp only [Bool.and_eq_true, decide_eq_true_eq, not_and]
  rintro ⟨hdie, hg⟩ hres
  have hn : groupInDie b.core < 12 := by simp only [groupInDie]; omega
  refine he _ ⟨hn, (State.beginWorld_emptying hd v hn).1 hg⟩ ⟨b, hb, ?_, by rw [hres]; decide⟩
  simp only [dieOf, groupOf, groupInDie] at *; omega

theorem mem_readyGroups_beginWorld {s : State} {die n : Nat} {v : Dword} (h2 : die < 2) (hd : die < s.dies.length) (hn : n < 12)
    (he : Leaves s die v n → ¬GroupHeld s die n) : 12 * die + n ∈ (s.beginWorld die v).readyGroups ↔ (s.die die).cgWorld.getLsbD n ≠ v.getLsbD n := by
  rw [State.mem_readyGroups h2 hn, State.beginWorld_emptying hd v hn, and_iff_left_iff_imp]
  intro hne b hb hg
  by_contra hs
  exact he ⟨hn, hne⟩ ⟨b, hb, hg, hs⟩

/-- When every group whose world changes is empty, the worlds are as written at once. -/
theorem cgWorldWrite_empty {s : State} {die : Nat} {v : Dword} (h2 : die < 2) (hd : die < s.dies.length)
    (he : ∀ n, Leaves s die v n → ¬GroupHeld s die n) :
    ∃ t, exec (.cgWorldWrite die v) s = .next t ∧ (t.die die).cgWorld = v.extractLsb' 0 12 ∧ (t.die die).cgEmptying = 0#12 ∧ t.mem.hbm = s.mem.hbm
      ∧ ∀ n, Leaves s die v n → ∀ c ∈ t.mem.copies, ¬(c.l1 = true ∧ groupOf c.unit = 12 * die + n) := by
  have hready (n : Nat) (hn : n < 12) := mem_readyGroups_beginWorld h2 hd hn (he n)
  have hbits (n : Nat) (hn : n < 12) := State.settleGroups_bits (d := die) hn (s.beginWorld die v).readyGroups (s.beginWorld die v)
    (by simpa [State.beginWorld] using hd) (State.readyGroups_nodup _)
  refine ⟨(s.beginWorld die v).settleWorlds, (execCgWorldWrite_eq h2 v s).trans (by rw [inEmptying_none hd he]; rfl), ?_, ?_, ?_, ?_⟩
  · refine BitVec.eq_of_getLsbD_eq fun n hn => ?_
    rw [State.settleWorlds_eq, (hbits n hn).1, State.beginWorld_world hd]
    simp only [hready n hn]
    cases h : (s.die die).cgWorld.getLsbD n <;> simp [hn]
  · refine BitVec.eq_of_getLsbD_eq fun n hn => ?_
    rw [State.settleWorlds_eq, (hbits n hn).2]
    simp only [hready n hn, ← State.beginWorld_emptying hd v hn]
    simp
  · exact List.foldlRecOn (motive := fun t : State => t.mem.hbm = s.mem.hbm) _ _ rfl fun t ht n _ => ht
  · intro n hn c hc
    exact (State.settleGroups_copies _ _ c hc).2 _ ((hready n hn.1).2 hn.2)

/-- A group that holds a block keeps its world, and is being emptied if that is to change. -/
theorem cgWorldWrite_held {s : State} {die : Nat} {v : Dword} (h2 : die < 2) (hd : die < s.dies.length) :
    ∃ t, exec (.cgWorldWrite die v) s = .next t
      ∧ ∀ n, n < 12 → GroupHeld s die n → (t.die die).cgWorld.getLsbD n = (s.die die).cgWorld.getLsbD n
        ∧ ((t.die die).cgEmptying.getLsbD n = true ↔ Leaves s die v n) := by
  refine ⟨_, execCgWorldWrite_eq h2 v s, fun n hn hheld => ?_⟩
  obtain ⟨b, hb, hg, hs⟩ := hheld
  have hsame := SamePlaces.foldl (fun t b => State.requestPre_places t b.uid .world) ((s.beginWorld die v).inEmptying die) (s.beginWorld die v)
  generalize ((s.beginWorld die v).inEmptying die).foldl (fun s b => s.requestPre b.uid .world) (s.beginWorld die v) = u at hsame ⊢
  have hdie : u.die die = (s.beginWorld die v).die die := by rw [State.die, hsame.dies]; rfl
  obtain ⟨b', hb', hc, hs'⟩ := hsame.block (b := b) hb
  have hnot : 12 * die + n ∉ u.readyGroups := fun h => hs (hs' ▸ ((State.mem_readyGroups h2 hn).1 h).2 b' hb' (hc ▸ hg))
  obtain ⟨hw, hemp⟩ := State.settleGroups_bits (d := die) hn u.readyGroups u (by rw [hsame.dies]; simpa [State.beginWorld] using hd) (State.readyGroups_nodup u)
  rw [State.settleWorlds_eq, hw, hemp, hdie, State.beginWorld_world hd]
  simp only [hnot, decide_false, Bool.xor_false, Bool.not_false, Bool.and_true, State.beginWorld_emptying hd v hn, Leaves, hn, true_and]

/-! ## Secure ranges (R404, R405) -/

/-- A byte that is not among those taken out of a memory reads as it did. -/
theorem Memory.read_filter_kept {m : Memory} (h : m.wf) {p : Host.Cell → Bool} {a : Nat} (ha : ∀ b, p (a, b) = true) :
    Memory.read (m.filter p) a = m.read a := by
  induction m with
  | nil => rfl
  | cons x m ih =>
    obtain ⟨hlt, -, hm⟩ := Memory.wf_cons.1 h
    by_cases hx : x.1 = a
    · obtain ⟨y, b⟩ := x
      subst hx
      rw [List.filter_cons_of_pos (ha b)]
      exact (Memory.read_cons_eq _ _).trans (Memory.read_cons_eq _ _).symm
    · rw [Memory.read_cons_ne hlt hx, ← ih hm, List.filter_cons]
      split
      · exact Memory.read_cons_ne (fun y hy => hlt y (List.mem_of_mem_filter hy)) hx
      · rfl

/-- A byte that is not listed reads as unlisted. -/
theorem Memory.read_not_listed {m : Memory} {a : Nat} (h : ∀ y ∈ m, y.1 ≠ a) : m.read a = Memory.unlisted := by
  induction m with
  | nil => rfl
  | cons x m ih =>
    obtain ⟨hx, hm⟩ := List.forall_mem_cons.1 h
    simp only [Memory.read, hx, if_false, ih hm, ite_self]

/-- The bytes of a memory whose listed bytes in a range are taken out. -/
theorem Memory.read_zeroed (m : Memory) {lo hi a : Nat} (h1 : lo ≤ a) (h2 : a ≤ hi) :
    Memory.read (m.filter (fun x => !(decide (lo ≤ x.1) && decide (x.1 ≤ hi)))) a = 0#8 := by
  refine Memory.read_not_listed fun y hy hya => ?_
  have := (List.mem_filter.1 hy).2
  simp [hya, h1, h2] at this

theorem State.zeroRange_reads (s : State) {lo hi a : Nat} (h1 : lo ≤ a) (h2 : a ≤ hi) :
    (s.zeroRange lo hi).mem.hbm.read a = 0#8 ∧ (s.zeroRange lo hi).mem.tier.read a = 0#8 :=
  ⟨Memory.read_zeroed _ h1 h2, Memory.read_zeroed _ h1 h2⟩
theorem State.zeroRange_outside {s : State} (hm : s.mem.wf) {lo hi a : Nat} (ha : ¬(lo ≤ a ∧ a ≤ hi)) :
    (s.zeroRange lo hi).mem.hbm.read a = s.mem.hbm.read a := by
  obtain ⟨hhbm, -⟩ := hm
  refine Memory.read_filter_kept hhbm fun _ => ?_
  rw [← Bool.decide_and, decide_eq_false ha]; rfl
theorem State.zeroRange_past (s : State) (lo hi : Nat) : ∀ y ∈ (s.zeroRange lo hi).mem.past, y.space ≠ .host → ¬(lo ≤ 64 * y.line ∧ 64 * y.line ≤ hi) := by
  intro y hy hs hin
  have := (List.mem_filter.1 hy).2
  simp [hs, hin] at this
theorem State.zeroRange_poison (s : State) (lo hi : Nat) : ∀ l ∈ (s.zeroRange lo hi).mem.poison, ¬(lo ≤ 64 * l ∧ 64 * l ≤ hi) := by
  intro l hl hin
  have := (List.mem_filter.1 hl).2
  simp [hin] at this

/-- A write of SEC_BASE(i) that takes effect: the range stands as written, and no write of it waits. -/
def State.setRange (s : State) (i : Nat) (x : SecRange) : State :=
  s.updHub (fun h => { h with secWait := h.secWait.filter (fun y => y.1 ≠ i), secRanges := h.secRanges.set i x })
/-- The ranges of `t` are those of `s` with range `i` replaced. -/
def RangeSet (s t : State) (i : Nat) (x : SecRange) : Prop :=
  t.hub.secRanges[i]? = some x ∧ (∀ j, j ≠ i → t.hub.secRanges[j]? = s.hub.secRanges[j]?) ∧ t.hub.secWait = s.hub.secWait.filter (fun y => y.1 ≠ i)

section
variable {s : State} {i : Nat} {r : SecRange}

theorem rangeSet_setRange (h : s.hub.secRanges[i]? = some r) {u : State} (hu : u.hub = s.hub) (x : SecRange) : RangeSet s (u.setRange i x) i x := by
  simp only [RangeSet, State.setRange, State.updHub_hub, hu]
  exact ⟨List.getElem?_set_self (List.getElem?_eq_some_iff.1 h).1, fun _ hj => List.getElem?_set_ne hj.symm, trivial⟩

/-- The write of VALID that must wait. -/
theorem secureRange_waits (h : s.hub.secRanges[i]? = some r) {base : BitVec 31} (hp : s.pastCheck (SecRange.lo base) r.hi = true) :
    s.secureRange i base = s.updHub (fun h => { h with secWait := s.hub.secWait.filter (fun x => x.1 ≠ i) ++ [(i, base)] }) := by
  simp only [State.secureRange, h]
  exact if_pos hp
/-- The write of VALID that takes effect. -/
theorem secureRange_takes (h : s.hub.secRanges[i]? = some r) {base : BitVec 31} (hp : s.pastCheck (SecRange.lo base) r.hi = false) :
    s.secureRange i base = s.setRange i { r with valid := true, base := base } := by
  simp only [State.secureRange, h]
  exact if_neg (ne_true_of_eq_false hp)

theorem secRangeWrite_valid (h : s.hub.secRanges[i]? = some r) {v : Dword} (hv : v.getLsbD 63 = true) :
    exec (.secRangeWrite i v) s = .next (s.secureRange i (v.extractLsb' 0 31)) := by
  simp only [exec_secRangeWrite, execSecRangeWrite, h, hv, if_true]
theorem secRangeWrite_clear (h : s.hub.secRanges[i]? = some r) {v : Dword} (hv : v.getLsbD 63 = false) : exec (.secRangeWrite i v) s
    = .next ((if r.valid then s.zeroRange (SecRange.lo r.base) r.hi else s).setRange i { r with valid := false, base := v.extractLsb' 0 31 }) := by
  simp only [exec_secRangeWrite, execSecRangeWrite, h, hv, Bool.false_eq_true, if_false]
  rfl

theorem settleRanges_takes (h : s.hub.secRanges[i]? = some r) {base : BitVec 31} (hw : s.hub.secWait = [(i, base)])
    (hp : s.pastCheck (SecRange.lo base) r.hi = false) :
    s.settleRanges.hub.secWait = [] ∧ s.settleRanges.hub.secRanges[i]? = some { r with valid := true, base := base } := by
  have hs : s.settleRanges = s.secureRange i base := by rw [State.settleRanges, hw]; rfl
  rw [hs, secureRange_takes h hp]
  obtain ⟨hi, -, hwait⟩ := rangeSet_setRange h rfl { r with valid := true, base := base }
  exact ⟨by rw [hwait, hw]; simp, hi⟩

theorem secRangeWrite_secures (h : s.hub.secRanges[i]? = some r) {v : Dword} (hv : v.getLsbD 63 = true)
    (hp : s.pastCheck (SecRange.lo (v.extractLsb' 0 31)) r.hi = false) :
    ∃ t, (exec (.secRangeWrite i v) s = .next t ∧ RangeSet s t i { r with valid := v.getLsbD 63, base := v.extractLsb' 0 31 }) ∧ t.mem = s.mem := by
  rw [secRangeWrite_valid h hv, secureRange_takes h hp, hv]
  exact ⟨_, ⟨rfl, rangeSet_setRange h rfl _⟩, rfl⟩

theorem secRangeWrite_unsecured (h : s.hub.secRanges[i]? = some r) {v : Dword} (hv : v.getLsbD 63 = false) (hr : r.valid = false) :
    ∃ t, (exec (.secRangeWrite i v) s = .next t ∧ RangeSet s t i { r with valid := v.getLsbD 63, base := v.extractLsb' 0 31 }) ∧ t.mem = s.mem := by
  rw [secRangeWrite_clear h hv, hr, hv]
  exact ⟨_, ⟨rfl, rangeSet_setRange h rfl _⟩, rfl⟩

theorem secRangeWrite_zeroes (h : s.hub.secRanges[i]? = some r) {v : Dword} (hv : v.getLsbD 63 = false) (hr : r.valid = true) (hm : s.mem.wf) :
    ∃ t, (exec (.secRangeWrite i v) s = .next t ∧ RangeSet s t i { r with valid := v.getLsbD 63, base := v.extractLsb' 0 31 })
      ∧ (∀ a, SecRange.lo r.base ≤ a → a ≤ r.hi → t.mem.hbm.read a = 0#8 ∧ t.mem.tier.read a = 0#8)
      ∧ (∀ y ∈ t.mem.past, y.space ≠ .host → ¬(SecRange.lo r.base ≤ 64 * y.line ∧ 64 * y.line ≤ r.hi))
      ∧ (∀ a, ¬(SecRange.lo r.base ≤ a ∧ a ≤ r.hi) → t.mem.hbm.read a = s.mem.hbm.read a)
      ∧ ∀ l ∈ t.mem.poison, ¬(SecRange.lo r.base ≤ 64 * l ∧ 64 * l ≤ r.hi) := by
  rw [secRangeWrite_clear h hv, hr, hv, if_pos rfl]
  exact ⟨_, ⟨rfl, rangeSet_setRange h rfl _⟩, fun _ h1 h2 => s.zeroRange_reads h1 h2, s.zeroRange_past _ _,
    fun _ ha => State.zeroRange_outside hm ha, s.zeroRange_poison _ _⟩

end

/-! ## Power and temperature (R416) -/

/-- A fall of the clock at moment `m` leaves every count of clocks up to `m` as it was. -/
theorem countClocks_append {t : Nat} {m : Dword} (h : t ≤ m.toNat) (f f' : Nat) (xs : List (Dword × Nat)) :
    ∀ a, countClocks f' t a (xs ++ [(m, f)]) = countClocks f t a xs := by
  induction xs with
  | nil => exact fun a => if_pos h
  | cons x xs ih => intro a; simp only [List.cons_append, countClocks, ih]

theorem Die.slow_clocksTo (d : Die) (now : Dword) : (d.slow now).clocksTo now = d.clocksTo now := by
  simp only [Die.clocksTo, Die.slow]
  split
  next h => rw [h]
  next => exact countClocks_append le_rfl _ _ _ _

/-- A clock that never fell from 1.40 GHz counts the timebase. -/
theorem Die.clocksTo_full {d : Die} (hf : d.freq = 28) (hs : d.slowed = []) (t : Dword) : d.clocksTo t = t.toNat := by
  simp only [Die.clocksTo, hf, hs, countClocks, clocksIn]
  omega

/-- ACLK_CTL with its MAX one step lower. -/
theorem lowerMax_fields {st : Stack} (h8 : 8 ≤ (st.aclkCtl.extractLsb' 32 8).toNat)
    (hlt : st.aclkCtl.extractLsb' 24 8 < st.aclkCtl.extractLsb' 32 8) :
    st.lowerMax.aclkCtl.extractLsb' 32 8 = st.aclkCtl.extractLsb' 32 8 - 1#8
    ∧ (st.aclkCtl.getLsbD 48 = false → ∀ f ∈ st.lowerMax.aclkF, f ≤ (st.lowerMax.aclkCtl.extractLsb' 32 8).toNat) := by
  have hmin : bitsOf st.aclkCtl.toNat 31 24 = (st.aclkCtl.extractLsb' 24 8).toNat := bitsOf_toNat ..
  have hmax : bitsOf st.aclkCtl.toNat 39 32 = (st.aclkCtl.extractLsb' 32 8).toNat := bitsOf_toNat ..
  have hlt' : (st.aclkCtl.extractLsb' 24 8).toNat < (st.aclkCtl.extractLsb' 32 8).toNat := hlt
  have hmx : max (bitsOf st.aclkCtl.toNat 31 24) (max 7 (bitsOf st.aclkCtl.toNat 39 32 - 1)) = (st.aclkCtl.extractLsb' 32 8).toNat - 1 := by omega
  have hctl : (st.lowerMax.aclkCtl.extractLsb' 32 8).toNat = (st.aclkCtl.extractLsb' 32 8).toNat - 1 := by
    have hc : st.lowerMax.aclkCtl = dword (st.aclkCtl.toNat - (st.aclkCtl.extractLsb' 32 8).toNat * 2 ^ 32
        + ((st.aclkCtl.extractLsb' 32 8).toNat - 1) * 2 ^ 32) := by rw [← hmx, ← hmax]; rfl
    have hlt64 := st.aclkCtl.isLt
    rw [← bitsOf_toNat st.lowerMax.aclkCtl 39 32, hc]
    simp only [dword, BitVec.toNat_ofNat, bitsOf] at hmax ⊢
    omega
  refine ⟨?_, fun h48 f hf => ?_⟩
  · refine BitVec.eq_of_toNat_eq (hctl.trans ?_)
    rw [BitVec.toNat_sub_of_le]
    · rfl
    · exact BitVec.le_def.2 (by rw [show (1#8).toNat = 1 from rfl]; omega)
  · obtain ⟨g, -, rfl⟩ := List.mem_map.1 hf
    rw [hctl, bit_toNat, h48, hmx]
    exact min_le_right _ _

/-- A state whose dies have slowed down at this moment, or not, counts the same clocks. -/
theorem dieClk_kept {s t : State} (hc : t.clk = s.clk) (h : ∀ d, t.die d = s.die d ∨ t.die d = (s.die d).slow s.clk) (core : Nat) :
    t.dieClk core = s.dieClk core := by
  rcases h (dieOf core) with h | h
  · rw [State.dieClk, State.dieClk, h, hc]
  · rw [State.dieClk, State.dieClk, h, hc, Die.slow_clocksTo]

/-! ### POWER_WINDOW -/

/-- Every clock of the module falls by one step. -/
def State.slowAll (s : State) : State := { s with dies := s.dies.map (fun d => d.slow s.clk), stks := s.stks.map Stack.lowerMax }

theorem State.slowAll_die {s : State} {d : Nat} (h : d < s.dies.length) : s.slowAll.die d = (s.die d).slow s.clk := by
  simp [State.die, State.slowAll, List.getD_eq_getElem?_getD, h]
theorem State.slowAll_die_ge {s : State} {d : Nat} (h : s.dies.length ≤ d) : s.slowAll.die d = s.die d := by
  simp [State.die, State.slowAll, List.getD_eq_getElem?_getD, h]
theorem State.slowAll_stack {s : State} {k : Nat} (h : k < s.stks.length) : s.slowAll.stack k = (s.stack k).lowerMax := by
  simp [State.stack, State.slowAll, List.getD_eq_getElem?_getD, h]
theorem State.slowAll_dieClk (s : State) (core : Nat) : s.slowAll.dieClk core = s.dieClk core :=
  dieClk_kept (s := s) (t := s.slowAll) rfl (fun d => (Nat.lt_or_ge d s.dies.length).symm.imp State.slowAll_die_ge State.slowAll_die) core

/-- A power window sets PWR_STAT. -/
def State.setWatts (s : State) (watts : Nat) : State := s.updHub (fun h => { h with pwrWatts := BitVec.ofNat 12 (min 4095 watts) })

theorem powerWindow_within {s : State} {watts : Nat} (h : watts ≤ s.hub.pwrCap.toNat) : exec (.powerWindow watts) s = .next (s.setWatts watts) := by
  rw [exec_powerWindow, execPowerWindow]
  exact if_pos h
theorem powerWindow_over {s : State} {watts : Nat} (h : s.hub.pwrCap.toNat < watts) :
    exec (.powerWindow watts) s = .next (s.setWatts watts).slowAll := by
  rw [exec_powerWindow, execPowerWindow]
  exact if_neg (Nat.not_le.2 h)
theorem setWatts_pwrWatts (s : State) (watts : Nat) : (s.setWatts watts).hub.pwrWatts.toNat = min 4095 watts := by
  simp only [State.setWatts, State.updHub_hub, BitVec.toNat_ofNat]
  exact Nat.mod_eq_of_lt (by omega)

theorem powerWindow_lowers (s : State) (watts : Nat) :
    ∃ t, exec (.powerWindow watts) s = .next t ∧ t.hub.pwrWatts.toNat = min 4095 watts ∧ t.mem = s.mem ∧ t.waves = s.waves
      ∧ (watts ≤ s.hub.pwrCap.toNat → t.dies = s.dies ∧ t.stks = s.stks) ∧ (∀ core, t.dieClk core = s.dieClk core)
      ∧ (s.hub.pwrCap.toNat < watts → (∀ d < s.dies.length, (t.die d).freq = max 14 ((s.die d).freq - 1))
        ∧ ∀ k < s.stks.length, 8 ≤ ((s.stack k).aclkCtl.extractLsb' 32 8).toNat → (s.stack k).aclkCtl.extractLsb' 24 8 < (s.stack k).aclkCtl.extractLsb' 32 8 →
          (t.stack k).aclkCtl.extractLsb' 32 8 = (s.stack k).aclkCtl.extractLsb' 32 8 - 1#8
          ∧ ((s.stack k).aclkCtl.getLsbD 48 = false → ∀ f ∈ (t.stack k).aclkF, f ≤ ((t.stack k).aclkCtl.extractLsb' 32 8).toNat)) := by
  rcases Nat.lt_or_ge s.hub.pwrCap.toNat watts with h | h
  · refine ⟨_, powerWindow_over h, setWatts_pwrWatts s watts, rfl, rfl, fun hle => absurd hle (Nat.not_le.2 h),
      (s.setWatts watts).slowAll_dieClk, fun _ => ⟨fun d hd => ?_, fun k hk h8 hlt => ?_⟩⟩
    · rw [State.slowAll_die (s := s.setWatts watts) hd]; rfl
    · rw [State.slowAll_stack (s := s.setWatts watts) hk]; exact lowerMax_fields h8 hlt
  · exact ⟨_, powerWindow_within h, setWatts_pwrWatts s watts, rfl, rfl, fun _ => ⟨rfl, rfl⟩, fun _ => rfl, fun hlt => absurd h (Nat.not_le.2 hlt)⟩

/-! ### THERMAL_THROTTLE -/

/-- A die's clock and the array clocks of its stacks fall by one step. -/
def State.slowDie (s : State) (d : Nat) : State :=
  { s.updDie d (fun x => x.slow s.clk) with stks := s.stks.zipIdx.map (fun (x : Stack × Nat) => if x.2 / 6 = d then x.1.lowerMax else x.1) }

theorem State.slowDie_stack {s : State} {k : Nat} (hk : k < s.stks.length) (d : Nat) :
    (s.slowDie d).stack k = if k / 6 = d then (s.stack k).lowerMax else s.stack k := by
  simp [State.stack, State.slowDie, List.getD_eq_getElem?_getD, hk]
theorem State.slowDie_die {s : State} {d : Nat} (h : d < s.dies.length) : (s.slowDie d).die d = (s.die d).slow s.clk := s.die_updDie_same h _
theorem State.slowDie_die_other (s : State) {d n : Nat} (h : n ≠ d) : (s.slowDie d).die n = s.die n := s.die_updDie_other h _
theorem State.slowDie_die_ge {s : State} {d : Nat} (h : s.dies.length ≤ d) : (s.slowDie d).die d = s.die d := by
  simp [State.die, State.slowDie, List.modify_eq_self h]
theorem State.slowDie_dieClk (s : State) (d core : Nat) : (s.slowDie d).dieClk core = s.dieClk core := by
  refine dieClk_kept (s := s) (t := s.slowDie d) rfl (fun n => ?_) core
  by_cases hn : n = d
  · subst hn
    exact (Nat.lt_or_ge n s.dies.length).symm.imp State.slowDie_die_ge State.slowDie_die
  · exact .inl (s.slowDie_die_other hn)

theorem tmaxWith_toNat (s : State) (temp : Nat) : (s.tmaxWith temp).toNat = min 255 (max temp s.hottestCore) := by
  simp only [State.tmaxWith, BitVec.toNat_ofNat]
  exact Nat.mod_eq_of_lt (by omega)

/-- A measurement sets TMAX. -/
def State.setTmax (s : State) (temp : Nat) : State := s.updHub (fun h => { h with tmax := s.tmaxWith temp })

theorem thermalThrottle_cool {temp : Nat} (h : temp < 105) (s : State) (d : Nat) : exec (.thermalThrottle d temp) s = .next (s.setTmax temp) := by
  rw [exec_thermalThrottle, execThermalThrottle, State.throttle]
  exact congrArg _ (if_pos h)
theorem thermalThrottle_hot {temp : Nat} (h : 105 ≤ temp) (s : State) (d : Nat) :
    exec (.thermalThrottle d temp) s = .next ((s.setTmax temp).slowDie d) := by
  rw [exec_thermalThrottle, execThermalThrottle, State.throttle]
  exact congrArg _ (if_neg (Nat.not_lt.2 h))

theorem thermalThrottle_lowers (s : State) (d temp : Nat) :
    ∃ t, exec (.thermalThrottle d temp) s = .next t ∧ t.hub.tmax.toNat = min 255 (max temp s.hottestCore) ∧ t.mem = s.mem ∧ t.waves = s.waves
      ∧ (d < s.dies.length → (t.die d).freq = (if temp < 105 then (s.die d).freq else max 14 ((s.die d).freq - 1))) ∧ (∀ n, n ≠ d → t.die n = s.die n)
      ∧ (∀ k < s.stks.length, temp < 105 ∨ k / 6 ≠ d → t.stack k = s.stack k)
      ∧ (∀ k < s.stks.length, 105 ≤ temp → k / 6 = d → 8 ≤ ((s.stack k).aclkCtl.extractLsb' 32 8).toNat →
        (s.stack k).aclkCtl.extractLsb' 24 8 < (s.stack k).aclkCtl.extractLsb' 32 8 →
        (t.stack k).aclkCtl.extractLsb' 32 8 = (s.stack k).aclkCtl.extractLsb' 32 8 - 1#8)
      ∧ ∀ core, t.dieClk core = s.dieClk core := by
  rcases Nat.lt_or_ge temp 105 with h | h
  · refine ⟨_, thermalThrottle_cool h s d, tmaxWith_toNat s temp, rfl, rfl, fun _ => ?_, fun _ _ => rfl, fun _ _ _ => rfl,
      fun _ _ hge => absurd h (Nat.not_lt.2 hge), fun _ => rfl⟩
    rw [if_pos h]; rfl
  · refine ⟨_, thermalThrottle_hot h s d, tmaxWith_toNat s temp, rfl, rfl, fun hd => ?_, fun n hn => State.slowDie_die_other _ hn,
      fun k hk hor => ?_, fun k hk _ hkd h8 hlt => ?_, State.slowDie_dieClk _ d⟩
    · rw [State.slowDie_die (s := s.setTmax temp) hd, if_neg (Nat.not_lt.2 h)]; rfl
    · rw [State.slowDie_stack (s := s.setTmax temp) hk, if_neg (hor.resolve_left (Nat.not_lt.2 h))]; rfl
    · rw [State.slowDie_stack (s := s.setTmax temp) hk, if_pos hkd]; exact (lowerMax_fields h8 hlt).1

/-- At 1.40 GHz a die's clock is %clk. -/
theorem dieClk_full {s : State} {core : Nat} (hf : (s.die (dieOf core)).freq = 28) (hs : (s.die (dieOf core)).slowed = []) :
    s.dieClk core = s.clk.toNat := Die.clocksTo_full hf hs s.clk

/-! ### THERMAL_TRIP -/

/-- A wave stops for a machine check (R261). -/
def Wave.stopChecked (r : TrapRec) (y : Wave) : Wave := { y with stopped := true, mcheck := true, stall := 1#4, trec := r.checked.words }
/-- It has stopped for one. -/
def Wave.Checked (y : Wave) : Prop := y.stopped = true ∧ y.mcheck = true

theorem State.postFault_waves (s : State) (p source : Nat) (cause : BitVec 6) (addr : Dword) (agent unit : Nat) :
    (s.postFault p source cause addr agent unit).waves = s.waves := (State.drainFq_fqFrame _ _ _).waves

/-- A wave is found after an update of waves that keeps their names. -/
theorem State.wave?_updWave {s : State} {v : Nat} {x : Wave} (hx : s.wave? v = some x) (w : Nat) {f : Wave → Wave} (hf : ∀ y, (f y).wid = y.wid) :
    (s.updWave w f).wave? v = some (if v = w then f x else x) := by
  have hv : x.wid = v := by simpa using List.find?_some hx
  have hname : (fun y => decide (y.wid = v)) ∘ (fun y => if y.wid = w then f y else y) = fun y : Wave => decide (y.wid = v) := by
    funext y
    simp only [Function.comp]
    split
    · rw [hf]
    · rfl
  rw [State.wave?, State.updWave_waves, List.find?_map, hname, show s.waves.find? (fun y => y.wid = v) = some x from hx, ← hv]
  rfl

theorem State.machineCheck_wave {s : State} {v : Nat} {x : Wave} (hx : s.wave? v = some x) (w : Nat) (r : TrapRec) (addr : Dword) :
    (s.machineCheck w r addr).wave? v = some (if v = w then x.stopChecked r else x) := by
  simp only [State.machineCheck]
  split
  next hnone =>
    rw [if_neg (by rintro rfl; simp [hx] at hnone)]
    exact hx
  next =>
    rw [State.wave?, State.postFault_waves]
    exact State.wave?_updWave hx w (f := Wave.stopChecked r) (fun _ => rfl)

/-- Every wave of a list takes its machine check and stays where it is. -/
theorem machineChecks_wave (f : State → Wave → TrapRec) (v : Nat) (ws : List Wave) : ∀ (s : State) (x : Wave), s.wave? v = some x →
    ∃ y, (ws.foldl (fun s w => s.machineCheck w.wid (f s w) 0#64) s).wave? v = some y ∧ y.pc = x.pc
      ∧ (x.Checked ∨ (∃ w ∈ ws, w.wid = v) → y.Checked) := by
  induction ws with
  | nil => exact fun s x hx => ⟨x, hx, rfl, fun h => h.resolve_right (by simp)⟩
  | cons w ws ih =>
    intro s x hx
    obtain ⟨y, hy, hpc, hchk⟩ := ih _ _ (State.machineCheck_wave hx w.wid (f s w) 0#64)
    refine ⟨y, hy, hpc.trans (by split <;> rfl), fun h => hchk ?_⟩
    by_cases hvw : v = w.wid
    · rw [if_pos hvw]; exact .inl ⟨rfl, rfl⟩
    · rw [if_neg hvw]
      exact h.imp_right fun ⟨u, hu, huv⟩ => ⟨u, (List.mem_cons.1 hu).resolve_left (by rintro rfl; exact hvw huv.symm), huv⟩

theorem thermalTrip_no {s : State} {d temp : Nat} (h : temp < 115 ∨ s.hub.tripped = true) : exec (.thermalTrip d temp) s = .next s := by
  rw [exec_thermalTrip, execThermalTrip, State.trip, if_pos (by simpa using h)]

/-- At 115 degrees every wave stops, and the host port is down. -/
theorem thermalTrip_stops {s : State} {d temp : Nat} (h : 115 ≤ temp) (hn : s.hub.tripped = false) :
    ∃ t, exec (.thermalTrip d temp) s = .next t ∧ t.hub.tripped = true ∧ t.hub.hostUp = false
      ∧ ∀ w x, s.wave? w = some x → ∃ y, t.wave? w = some y ∧ y.stopped = true ∧ y.mcheck = true ∧ y.pc = x.pc := by
  refine ⟨_, by rw [exec_thermalTrip, execThermalTrip, State.trip, if_neg (by simp [hn, h])], rfl, rfl, fun w x hx => ?_⟩
  obtain ⟨y, hy, hpc, hchk⟩ := machineChecks_wave (fun s w => { asyncRec s w 63#6 0#64 with async := true }) w s.waves s x hx
  obtain ⟨hstop, hm⟩ := hchk (.inr ⟨x, List.mem_of_find?_eq_some hx, by simpa using List.find?_some hx⟩)
  exact ⟨y, hy, hstop, hm, hpc⟩

/-! ### D3HOT_REQUEST and POWER_LOSS (R410) -/

/-- A command of a partition is in progress. -/
def State.cmdBusy (s : State) (p : Nat) (c : Cmd) : Bool :=
  match c.kind with
  | .copy k => k.part = p && k.started
  | _ => s.partOfBlock c.blk = p && c.began
/-- A region or a Gecko step of a partition runs on a stack. -/
def Stack.busyFor (st : Stack) (p : Nat) : Bool :=
  st.regions.any (fun r => r.part = p && (r.drain.isSome || (decide (1 ≤ r.state) && decide (r.state ≤ 3)))) || st.updates.any (fun u => u.part = p)
theorem hasWork_eq (s : State) (p : Nat) :
    s.hasWork p = (!(s.residentsOf p).isEmpty || s.cmds.any (s.cmdBusy p) || s.stks.any (fun st => st.busyFor p)) := rfl

theorem residents_none {s : State} {p : Nat} : (s.residentsOf p).isEmpty = true ↔ ∀ b ∈ s.blocks, s.partOfBlock b.uid = p → b.status = .saved := by
  simp [State.residentsOf]
theorem cmdBusy_eq_false {s : State} {p : Nat} {c : Cmd} : s.cmdBusy p c = false
    ↔ (∀ k, c.kind = .copy k → k.part = p → k.started = false) ∧ ((∀ k, c.kind ≠ .copy k) → s.partOfBlock c.blk = p → c.began = false) := by
  cases h : c.kind <;> simp [State.cmdBusy, h]
theorem Stack.busyFor_eq_false {st : Stack} {p : Nat} : st.busyFor p = false
    ↔ (∀ r ∈ st.regions, r.part = p → r.drain = none ∧ (r.state < 1 ∨ 3 < r.state)) ∧ ∀ u ∈ st.updates, u.part ≠ p := by
  simp [Stack.busyFor, imp_iff_not_or]
theorem hasWork_eq_false {s : State} {p : Nat} : s.hasWork p = false ↔ NoWork s p := by
  simp only [hasWork_eq, NoWork, Bool.or_eq_false_iff, Bool.not_eq_false', residents_none, List.any_eq_false, Bool.not_eq_true, cmdBusy_eq_false,
    Stack.busyFor_eq_false, and_assoc]

theorem d3hotRequest_cases (s : State) :
    (s.blocks = [] ∧ (∀ st ∈ s.stks, st.regions = []) ∧ (∀ p < 16, NoWork s p) → exec .d3hotRequest s = .next (s.updHub (fun h => { h with d3hot := true })))
    ∧ (¬(s.blocks = [] ∧ (∀ st ∈ s.stks, st.regions = []) ∧ ∀ p < 16, NoWork s p) → exec .d3hotRequest s = .next s) := by
  have hc : (s.blocks.isEmpty && s.stks.all (fun st => st.regions.isEmpty) && (List.range 16).all (fun p => !s.hasWork p)) = true
      ↔ s.blocks = [] ∧ (∀ st ∈ s.stks, st.regions = []) ∧ ∀ p < 16, NoWork s p := by
    simp only [Bool.and_eq_true, List.isEmpty_iff, List.all_eq_true, List.mem_range, Bool.not_eq_true', hasWork_eq_false, and_assoc]
  rw [← hc, exec_d3hotRequest, execD3hotRequest]
  exact ⟨fun h => if_pos h, fun h => if_neg h⟩

theorem powerLoss_keeps (s : State) : ∃ t, exec .powerLoss s = .next t ∧ t.waves = [] ∧ t.blocks = [] ∧ t.grids = [] ∧ t.mem.hbm = []
    ∧ t.parts = State.reset.parts ∧ t.dies = State.reset.dies ∧ t.stks = State.reset.stks
    ∧ t.hub.keyIndex = s.hub.keyIndex ∧ t.hub.keyGen = s.hub.keyGen ∧ t.hub.keyCert = s.hub.keyCert ∧ t.hub.reports = []
    ∧ t.hub.booted = false ∧ t.hub.keys = [] ∧ t.hub.flows = []
    ∧ t.hub.firmware.map (fun x => (x.target, x.minSvn)) = s.hub.firmware.map (fun x => (x.target, x.minSvn)) := by
  refine ⟨_, rfl, rfl, rfl, rfl, rfl, rfl, rfl, rfl, rfl, rfl, rfl, rfl, rfl, rfl, rfl, ?_⟩
  simp only [List.map_map]
  rfl

/-! ## Invalidation of translations (R275, R286) -/

theorem tlbInvalidate_queues (s : State) (p : Nat) (v : Dword) : exec (.tlbInvalidate p v) s
    = .next (s.updPart p (fun x => { x with tlbBusy := true, tlbQueue := x.tlbQueue ++ [(x.tlbInv, (v.extractLsb' 0 32).toNat)] })) := by
  rw [exec_tlbInvalidate, execTlbInvalidate, BitVec.extractLsb'_toNat, Nat.shiftRight_zero]

theorem tlbInvComplete_idle {s : State} {p : Nat} (h : (s.part p).tlbQueue = []) : exec (.tlbInvComplete p) s = .next s := by
  rw [exec_tlbInvComplete, execTlbInvComplete, h]

/-- What an invalidation makes of a region: the streams of its partition forget translations in range. -/
def Region.invalidate (p : Nat) (inv : Dword) (pages : Nat) (r : Region) : Region :=
  if r.part = p then { r with streams := r.streams.map (Stream.invalidate inv pages) } else r

theorem Region.invalidate_other {p : Nat} {r : Region} (h : r.part ≠ p) (inv : Dword) (pages : Nat) : r.invalidate p inv pages = r := if_neg h
theorem Region.invalidate_slot (p : Nat) (inv : Dword) (pages : Nat) (r : Region) : (r.invalidate p inv pages).slot = r.slot := by
  rw [Region.invalidate]; split <;> rfl
theorem Region.invalidate_state (p : Nat) (inv : Dword) (pages : Nat) (r : Region) : (r.invalidate p inv pages).state = r.state := by
  rw [Region.invalidate]; split <;> rfl
theorem Region.invalidate_length (p : Nat) (inv : Dword) (pages : Nat) (r : Region) : (r.invalidate p inv pages).streams.length = r.streams.length := by
  rw [Region.invalidate]; split
  · exact List.length_map _
  · rfl
theorem Region.invalidate_stream {p : Nat} {r : Region} (h : r.part = p) (inv : Dword) (pages i : Nat) :
    (r.invalidate p inv pages).streams[i]? = r.streams[i]?.map (Stream.invalidate inv pages) := by
  rw [Region.invalidate, if_pos h]; exact List.getElem?_map

theorem Stream.invalidate_pos (inv : Dword) (pages : Nat) (t : Stream) : (t.invalidate inv pages).pos = t.pos := by
  simp only [Stream.invalidate]
  split
  · split <;> rfl
  · rfl
/-- With ALL set every translation and every mark goes. -/
theorem Stream.invalidate_all {inv : Dword} (h : inv.getLsbD 1 = true) (pages : Nat) (t : Stream) :
    (t.invalidate inv pages).mark = none ∧ (t.invalidate inv pages).tlb = none := by
  cases hm : t.mark <;> cases ht : t.tlb <;> simp [Stream.invalidate, invTouches, invCovers, h, hm, ht]

theorem invTouches_iff (inv : Dword) (pages lo hi : Nat) : invTouches inv pages lo hi = true ↔
    inv.getLsbD 1 = true ∨ ((inv.extractLsb' 16 41).toNat * 65536 < hi ∧ lo < (inv.extractLsb' 16 41).toNat * 65536 + pages * 65536) := by
  simp only [invTouches, Bool.or_eq_true, Bool.and_eq_true, decide_eq_true_eq, bitsOf_toNat, Nat.add_mul]

/-- The translations of a partition that an invalidation drops. -/
def invHits (p : Nat) (inv : Dword) (pages : Nat) (e : TlbEntry) : Bool :=
  e.part = p && invTouches inv pages (e.vpage * 2 ^ e.size) ((e.vpage + 1) * 2 ^ e.size)

/-- The state in which the first invalidation has completed, before the streams whose marks it cleared walk again. -/
def State.invalidated (s : State) (p : Nat) (inv : Dword) (pages : Nat) (rest : List (Dword × Nat)) : State :=
  let s := s.updPart p (fun x => { x with tlbQueue := rest, tlbBusy := !rest.isEmpty })
  let s := s.updMem (fun m => { m with tlb := m.tlb.filter (fun e => !invHits p inv pages e) })
  { s with stks := s.stks.map (fun (st : Stack) => { st with regions := st.regions.map (Region.invalidate p inv pages) }) }

theorem State.invalidated_regions (s : State) (p : Nat) (inv : Dword) (pages : Nat) (rest : List (Dword × Nat)) (k : Nat) :
    ((s.invalidated p inv pages rest).stack k).regions = (s.stack k).regions.map (Region.invalidate p inv pages) := by
  simp only [State.stack, State.invalidated, List.getD_eq_getElem?_getD, List.getElem?_map, State.updMem_stks, State.updPart_stks]
  cases s.stks[k]? <;> rfl

theorem State.invalidated_region? {s : State} {k slot : Nat} {r : Region} (h : s.region? k slot = some r) (p : Nat) (inv : Dword) (pages : Nat)
    (rest : List (Dword × Nat)) : (s.invalidated p inv pages rest).region? k slot = some (r.invalidate p inv pages) := by
  have hslot : (fun x => decide (x.slot = slot)) ∘ Region.invalidate p inv pages = fun x : Region => decide (x.slot = slot) :=
    funext fun x => by rw [Function.comp, Region.invalidate_slot]
  rw [State.region?, State.invalidated_regions, List.find?_map, hslot, show (s.stack k).regions.find? (fun x => x.slot = slot) = some r from h]
  rfl

/-- A stream of a region that does not run is not walked again. -/
theorem State.rewalk_still {s : State} (h : ∀ k, ∀ r ∈ (s.stack k).regions, r.state ≠ 2) (k slot i : Nat) : s.rewalk k slot i = s := by
  simp only [State.rewalk]
  split
  · rfl
  next r hr =>
    have h2 : r.state ≠ 2 := h k r (List.mem_of_find?_eq_some hr)
    split
    · rfl
    · rw [if_pos (by simp [h2])]

theorem State.invalidated_still {s : State} (h : ∀ k, ∀ r ∈ (s.stack k).regions, r.state ≠ 2) (p : Nat) (inv : Dword) (pages : Nat)
    (rest : List (Dword × Nat)) : ∀ k, ∀ r ∈ ((s.invalidated p inv pages rest).stack k).regions, r.state ≠ 2 := by
  intro k r hr
  rw [State.invalidated_regions] at hr
  obtain ⟨r0, hr0, rfl⟩ := List.mem_map.1 hr
  rw [Region.invalidate_state]
  exact h k r0 hr0

/-- With no region running, an invalidation completes by dropping what it drops, and nothing else. -/
theorem tlbInvComplete_still {s : State} {p pages : Nat} {inv : Dword} {rest : List (Dword × Nat)} (hq : (s.part p).tlbQueue = (inv, pages) :: rest)
    (h : ∀ k, ∀ r ∈ (s.stack k).regions, r.state ≠ 2) : exec (.tlbInvComplete p) s = .next (s.invalidated p inv pages rest) := by
  rw [exec_tlbInvComplete, execTlbInvComplete, hq]
  refine congrArg Host.Outcome.next (List.foldlRecOn (motive := fun t => t = s.invalidated p inv pages rest) _ _ rfl fun t ht x _ => ?_)
  rw [ht]
  exact State.rewalk_still (State.invalidated_still h p inv pages rest) _ _ _

theorem tlbInvComplete_drops {s : State} {p pages : Nat} {inv : Dword} {rest : List (Dword × Nat)} (hp : p < s.parts.length)
    (hq : (s.part p).tlbQueue = (inv, pages) :: rest) (h : ∀ k, ∀ r ∈ (s.stack k).regions, r.state ≠ 2) :
    ∃ t, exec (.tlbInvComplete p) s = .next t ∧ (t.part p).tlbQueue = rest ∧ (t.part p).tlbBusy = !rest.isEmpty ∧ t.mem.hbm = s.mem.hbm ∧ t.waves = s.waves
      ∧ (∀ e, e ∈ t.mem.tlb ↔ e ∈ s.mem.tlb ∧ ¬(e.part = p ∧ (inv.getLsbD 1 = true
          ∨ ((inv.extractLsb' 16 41).toNat * 65536 < (e.vpage + 1) * 2 ^ e.size ∧ e.vpage * 2 ^ e.size < (inv.extractLsb' 16 41).toNat * 65536 + pages * 65536))))
      ∧ (∀ k slot r, s.region? k slot = some r → ∃ r', t.region? k slot = some r' ∧ r'.state = r.state ∧ r'.streams.length = r.streams.length
          ∧ (r.part ≠ p → r' = r)
          ∧ (r.part = p → ∀ (i : Nat) (y z : Stream), r'.streams[i]? = some y → r.streams[i]? = some z →
            y.pos = z.pos ∧ (inv.getLsbD 1 = true → y.mark = none ∧ y.tlb = none))) := by
  have hpart : (s.invalidated p inv pages rest).part p = { s.part p with tlbQueue := rest, tlbBusy := !rest.isEmpty } := s.part_updPart_same hp _
  refine ⟨_, tlbInvComplete_still hq h, by rw [hpart], by rw [hpart], rfl, rfl, fun e => ?_, fun k slot r hr => ?_⟩
  · refine List.mem_filter.trans (and_congr_right fun _ => ?_)
    rw [Bool.not_eq_true', ← Bool.not_eq_true, invHits, Bool.and_eq_true, decide_eq_true_eq, invTouches_iff]
  · refine ⟨_, State.invalidated_region? hr p inv pages rest, Region.invalidate_state .., Region.invalidate_length ..,
      fun hne => Region.invalidate_other hne inv pages, fun heq i y z hy hz => ?_⟩
    rw [Region.invalidate_stream heq, hz] at hy
    obtain rfl := Option.some.inj hy
    exact ⟨Stream.invalidate_pos .., fun hall => Stream.invalidate_all hall pages z⟩

end Sys2Proof.Machine

namespace Sys2Proof.Proofs

open Sys2Proof Sys2Proof.Machine

/-- Settles O60, clause by clause: each write, power event and invalidation by the lemma that says what it does. -/
theorem registerWritesWorldsAndPower : Obligations.RegisterWritesWorldsAndPower := by
  unfold Obligations.RegisterWritesWorldsAndPower
  refine ⟨fun s o v p _ hp => ⟨?_, ?_, ?_, ?_, ?_, ?_, ?_, ?_, ?_, ?_, ?_, ?_, ?_, ?_, ?_, ?_⟩, fun s => ⟨?_, ?_, ?_, ?_, ?_, ?_, ?_, ?_, ?_⟩,
    fun s p hp => ⟨?_, ?_, ?_⟩⟩
  · exact fun r h => registerWrite_refused h v s
  · exact fun r q h => regAllowed_vf h
  · exact fun r h => regAllowed_pf0 h
  · exact fun r => rfl
  · exact writeReg_addresses s o v hp
  · exact fqRegisters_write s o v hp
  · exact partRegister_updates rfl rfl
  · exact partRegister_updates rfl (by simp only [Partition.writeReg, sysTmo_least])
  · exact sliceIvl_write s v hp
  · exact shadow_write s v p
  · exact fun d _ => registerWrite_allowed rfl v s
  · exact fun k hk => hbmCtl_write s v hk
  · exact fun k hk => eccStat_write s v hk
  · exact fun k hk hv => aclkCtl_write_fixed s hk hv
  · exact pwrCap_write s v
  · exact fun i r h => secLim_write s v h
  · exact fun die v h => if_pos h
  · exact fun die v h2 hd => ⟨cgWorldWrite_empty h2 hd, fun _ => cgWorldWrite_held h2 hd⟩
  · exact fun i r v h => ⟨fun hv hp => (secRangeWrite_valid h hv).trans (congrArg _ (secureRange_waits h hp)), settleRanges_takes h,
      secRangeWrite_secures h, secRangeWrite_unsecured h, secRangeWrite_zeroes h⟩
  · exact powerWindow_lowers s
  · exact thermalThrottle_lowers s
  · exact fun core hf hs => dieClk_full hf hs
  · exact fun d temp => ⟨thermalTrip_no, thermalTrip_stops⟩
  · exact d3hotRequest_cases s
  · exact powerLoss_keeps s
  · exact tlbInvalidate_queues s p
  · exact tlbInvComplete_idle
  · exact fun inv pages rest hq h => tlbInvComplete_drops hp hq h

end Sys2Proof.Proofs

/-! SUPPORT. A wave's turn that runs the instruction at its pc (R65, R86, R103, R258) and the state that reset leaves (R52, R57, R92,
R266, R280, R340, R356, R376, R413, R415, R416): the lemmas of O4 and O8. -/

namespace Sys2Proof.Machine

open Sys2Proof

/-! ## A turn that runs an instruction (R65, R86) -/

theorem firstPending_nil : firstPending [] = none := rfl

/-- No wave waits for the fetch of an instruction that has issued. -/
theorem State.fetchLate_of_stage {w : Wave} (h : w.stage ≠ 0) (s : State) : s.fetchLate w = false := by
  simp [State.fetchLate, h]

/-- The fetch answers the instruction that the bytes at the pc decode to, an extension word read where the base word asks for one (R86). -/
theorem State.fetch_of_decode {s : State} {w : Wave} {bs more tail : List Byte} {i : Instr} (ha : w.pc.toNat % 8 = 0)
    (hbs : s.fetchBytes w (s.partOfWave w.wid) w.pc.toNat 8 = .ok bs)
    (hmore : if wordX (BitVec.ofNat 64 (leNat bs)) then s.fetchBytes w (s.partOfWave w.wid) (w.pc.toNat + 8) 8 = .ok more else more = [])
    (hi : decode (bs ++ more) = .ok (i, tail)) : s.fetch w = .ok i := by
  have hext : (if wordX (BitVec.ofNat 64 (leNat bs)) then s.fetchBytes w (s.partOfWave w.wid) (w.pc.toNat + 8) 8 else .ok []) = .ok more := by
    split at hmore
    next hx => rw [if_pos hx, hmore]
    next hx => rw [if_neg hx, hmore]
  simp only [State.fetch, ha, ne_eq, not_true_eq_false, if_false, hbs, hext, hi]

/-- A wave that may run, with no cause, save or role switch due before its next instruction (R39, R258). -/
structure State.Unhindered (s : State) (w : Wave) : Prop where
  runs : s.canRun w = true
  going : (s.part (s.partOfWave w.wid)).ending = false
  noCause : w.pend = []
  noSave : w.yieldsAtWait = false
  noSwitch : w.rolePend = none

theorem Wave.switchDue_none {w : Wave} (h : w.rolePend = none) : w.switchDue = none := by
  simp [Wave.switchDue, h]

/-- With nothing before it, and neither its fetch nor the scoreboard holding it, the turn runs the instruction fetched. -/
theorem State.turnOf_run {s : State} {wid : Nat} {w : Wave} {i : Instr} {op : BitVec 8} {e : Enc} (hw : s.wave? wid = some w)
    (hu : s.Unhindered w) (hlate : s.fetchLate w = false) (hi : s.fetch w = .ok i) (hop : i.code = some (op, e))
    (hheld : w.stage = 0 → s.held w op.toNat e = false) : s.turnOf wid = .run i s := by
  obtain ⟨hrun, hgo, hpend, hsave, hrole⟩ := hu
  have hwid : w.wid = wid := by simpa using List.find?_some hw
  have hsb : (decide (w.stage = 0) && s.held w op.toNat e) = false := by simpa using hheld
  rw [hwid] at hgo
  simp [State.turnOf, hw, hrun, hgo, hpend, firstPending_nil, hsave, Wave.switchDue_none hrole, hlate, hi, hop, hsb]

/-! ## The state after a turn (R61) -/

/-- The step at the turn of a wave that runs an instruction. -/
theorem step_issue_run {s : State} {wid : Nat} {rest : List Turn} {i : Instr} (ha : s.agenda = .issue wid :: rest) (hr : s.running = true)
    (ht : ({ s with agenda := rest } : State).turnOf wid = .run i { s with agenda := rest }) :
    step s = ({ s with agenda := rest } : State).afterTurn wid (exec i { s with agenda := rest, cur := some wid }) := by
  simp [step, ha, hr, ht]

/-- After a wave's instruction its counts start again, unless the instruction had issued before or still waits before its issue (R61, R277). -/
theorem State.afterTurn_next {s : State} {wid : Nat} {w : Wave} (hw : s.wave? wid = some w) (t : State) :
    s.afterTurn wid (.next t) = .next { (if w.stage = 0 ∧ t.stays wid = false then t.issuedNow wid else t) with cur := none } := by
  simp only [State.afterTurn, State.before, hw, Bool.and_eq_true, decide_eq_true_eq, Bool.not_eq_true']

/-! ## Reset (R52, R57, R415) -/

theorem State.reset_core (c : Nat) : State.reset.core c = Core.reset c := by
  by_cases hc : c < 192 <;> simp [State.core, State.reset, List.getD_eq_getElem?_getD, hc]
theorem State.reset_die (d : Nat) : State.reset.die d = Die.reset := List.getElem?_getD_replicate_default_eq _ 2 d
theorem State.reset_stack (k : Nat) : State.reset.stack k = Stack.reset := List.getElem?_getD_replicate_default_eq _ 12 k
theorem State.reset_part (p : Nat) : State.reset.part p = Partition.reset := List.getElem?_getD_replicate_default_eq _ 16 p

/-- No table of a stack is defined after reset. -/
theorem Stack.reset_table (t : Nat) : Stack.reset.table t = none := List.getElem?_getD_replicate_default_eq _ 64 t
theorem Stack.reset_tabHeld (t : Nat) : Stack.reset.tabHeld t = 0 := by
  rw [Stack.tabHeld, Stack.reset_table]
/-- With no table defined the whole directory is free (R356). -/
theorem Stack.reset_dirFree : Stack.reset.dirFree = 0x800000 := by
  have hnone (ts : List Nat) : ts.foldl (fun n t => n + Stack.reset.tabHeld t) 0 = 0 := by
    simp only [Stack.reset_tabHeld, Nat.add_zero, List.foldl_fixed]
  rw [Stack.dirFree, hnone]

theorem State.reset_svcSpares (d : Nat) : State.reset.readSvcSpares d = 8#64 := by
  rw [State.readSvcSpares, State.reset_die]
  rfl

end Sys2Proof.Machine

namespace Sys2Proof.Proofs

open Sys2Proof Sys2Proof.Machine

/-- Settles O4: nothing comes before the wave's next instruction, so its turn runs the one that its bytes decode to, and what the
turn leaves is said by what follows every instruction. -/
theorem stepRunsDecodedInstruction : Obligations.StepRunsDecodedInstruction := by
  unfold Obligations.StepRunsDecodedInstruction
  intro s wid rest w bs more tail i op e ha hr hw u hrun hgo hpend hsave hrole hpc hbs hmore hi hop hfree
  have hwid : w.wid = wid := by simpa using List.find?_some hw
  have hu : u.Unhindered w := ⟨hrun, hwid ▸ hgo, hpend, hsave, hrole⟩
  have hlate : u.fetchLate w = false := by
    by_cases hst : w.stage = 0
    · exact (hfree hst).2
    · exact State.fetchLate_of_stage hst u
  have hfetch : u.fetch w = .ok i := State.fetch_of_decode hpc hbs hmore hi
  have hturn : u.turnOf wid = .run i u := State.turnOf_run hw hu hlate hfetch hop fun hst => (hfree hst).1
  rw [step_issue_run ha hr hturn]
  cases exec i { u with cur := some wid } with
  | next t => exact State.afterTurn_next (s := u) hw t
  | fault r => rfl
  | refused r => rfl

/-- Settles O8: each core, die, stack and partition after reset is the one its reset names, and the registers are read off it. -/
theorem resetState : Obligations.ResetState := by
  unfold Obligations.ResetState
  refine ⟨rfl, rfl, rfl, rfl, rfl, rfl, rfl, rfl, rfl, fun c _ => ?_, fun p _ => ?_, fun k _ => ?_, fun d _ => ?_, rfl, rfl, rfl, rfl⟩
  · rw [State.reset_core]
    exact ⟨rfl, rfl⟩
  · rw [State.reset_part]
    exact ⟨rfl, rfl, rfl, rfl, rfl, rfl, rfl, rfl, rfl, rfl⟩
  · rw [State.reset_stack]
    exact ⟨rfl, rfl, rfl, rfl, rfl, Stack.reset_dirFree⟩
  · rw [State.reset_die]
    exact ⟨State.reset_svcSpares d, rfl, rfl, rfl⟩

end Sys2Proof.Proofs

/-! SUPPORT. The levels on a wave's path (R68, R71, R148): a byte of a list of pending lines after a merge, what a wave's levels hold
after each step of a commit, and that the move of a commit keeps what they read as: the lemmas of O28. -/

namespace Sys2Proof.Machine

open Sys2Proof

/-! ## A byte of a list of pending lines (R140, R148) -/

/-- The byte that a pending line holds at an offset. -/
def PLine.byte? (p : PLine) (off : Nat) : Option Byte := if p.has off then some (p.data.getD off 0#8) else none

/-- The byte that a list of pending lines holds at an address. -/
def byteIn (ls : List PLine) (scr : Bool) (a : Nat) : Option Byte :=
  match findLine ls scr (a / 64) with
  | some p => p.byte? (a % 64)
  | none => none

/-- An update that does not change what is looked for does not change where it is found. -/
theorem find?_map_of_keeps {α : Type} {f : α → α} {P : α → Bool} (h : ∀ x, P (f x) = P x) (xs : List α) :
    (xs.map f).find? P = (xs.find? P).map f := by
  rw [List.find?_map, show P ∘ f = P from funext h]

theorem findLine_cons (p : PLine) (ls : List PLine) (scr : Bool) (l : Nat) :
    findLine (p :: ls) scr l = if p.scr = scr ∧ p.line = l then some p else findLine ls scr l := by
  by_cases h : p.scr = scr ∧ p.line = l
  · simp [findLine, h]
  · rw [if_neg h]
    exact List.find?_cons_of_neg (by simpa using h)

/-- A line is found among those of its space. -/
theorem findLine_filter_space {f : PLine → Bool} {scr : Bool} (hf : ∀ p : PLine, p.scr = scr → f p = true) (ls : List PLine) (l : Nat) :
    findLine (ls.filter f) scr l = findLine ls scr l := by
  rw [findLine, List.find?_filter]
  congr 1
  funext p
  by_cases h : p.scr = scr
  · simp [h, hf p h]
  · simp [h]

/-- A line that no entry of the list names is not found. -/
theorem findLine_eq_none {ls : List PLine} {scr : Bool} {l : Nat} (h : ∀ p ∈ ls, ¬(p.scr = scr ∧ p.line = l)) : findLine ls scr l = none :=
  List.find?_eq_none.2 fun p hp => by simpa using h p hp

/-- What a merge makes of the entry of a line. -/
theorem findLine_mergeLine (ls : List PLine) (p : PLine) (scr : Bool) (l : Nat) :
    findLine (mergeLine ls p) scr l =
      if p.scr = scr ∧ p.line = l then some (((findLine ls scr l).map (fun q => q.merge p)).getD p) else findLine ls scr l := by
  by_cases hany : ls.any (fun q => q.scr = p.scr && q.line = p.line)
  · have hmap : findLine (mergeLine ls p) scr l =
        (findLine ls scr l).map (fun q => if q.scr = p.scr && q.line = p.line then q.merge p else q) := by
      rw [mergeLine, if_pos hany]
      exact find?_map_of_keeps (fun q => by split <;> rfl) ls
    rw [hmap]
    cases hq : findLine ls scr l with
    | none =>
      rw [if_neg]
      · rfl
      · rintro ⟨rfl, rfl⟩
        obtain ⟨q, hq', hname⟩ := List.any_eq_true.1 hany
        exact List.find?_eq_none.1 hq q hq' hname
    | some q =>
      obtain ⟨rfl, rfl⟩ : q.scr = scr ∧ q.line = l := by simpa using List.find?_some hq
      by_cases h : p.scr = q.scr ∧ p.line = q.line
      · simp [h]
      · have hother : ¬(q.scr = p.scr ∧ q.line = p.line) := fun h' => h ⟨h'.1.symm, h'.2.symm⟩
        simp [h, hother]
  · rw [mergeLine, if_neg hany, findLine, List.find?_append]
    change (findLine ls scr l).or (findLine [p] scr l) = _
    rw [findLine_cons]
    split
    next h =>
      obtain ⟨rfl, rfl⟩ := h
      have hnone : findLine ls p.scr p.line = none := List.find?_eq_none.2 fun q hq hname => hany (List.any_eq_true.2 ⟨q, hq, hname⟩)
      rw [hnone]
      rfl
    next => exact Option.or_none

/-- The newer line's bytes over the older line's. -/
theorem PLine.byte?_merge (old new : PLine) {off : Nat} (h : off < 64) : (old.merge new).byte? off = (new.byte? off).or (old.byte? off) := by
  have hmask : (old.merge new).has off = (old.has off || new.has off) := BitVec.getLsbD_or
  have hdata : (old.merge new).data.getD off 0#8 = if new.has off then new.data.getD off 0#8 else old.data.getD off 0#8 := by
    simp [PLine.merge, List.getD_eq_getElem?_getD, h]
  rw [PLine.byte?, hmask, hdata, PLine.byte?, PLine.byte?]
  cases new.has off <;> cases old.has off <;> rfl

theorem byteIn_nil (scr : Bool) (a : Nat) : byteIn [] scr a = none := rfl

theorem byteIn_cons (p : PLine) (ls : List PLine) (scr : Bool) (a : Nat) :
    byteIn (p :: ls) scr a = if p.scr = scr ∧ p.line = a / 64 then p.byte? (a % 64) else byteIn ls scr a := by
  rw [byteIn, byteIn, findLine_cons]
  by_cases h : p.scr = scr ∧ p.line = a / 64
  · rw [if_pos h, if_pos h]
  · rw [if_neg h, if_neg h]

/-- A byte is found among the lines of its space. -/
theorem byteIn_filter_space {f : PLine → Bool} {scr : Bool} (hf : ∀ p : PLine, p.scr = scr → f p = true) (ls : List PLine) (a : Nat) :
    byteIn (ls.filter f) scr a = byteIn ls scr a := by
  rw [byteIn, findLine_filter_space hf, byteIn]

/-- What a list of lines holds after one is merged into it. -/
theorem byteIn_mergeLine (ls : List PLine) (p : PLine) (scr : Bool) (a : Nat) :
    byteIn (mergeLine ls p) scr a =
      if p.scr = scr ∧ p.line = a / 64 then (p.byte? (a % 64)).or (byteIn ls scr a) else byteIn ls scr a := by
  rw [byteIn, findLine_mergeLine, byteIn]
  by_cases h : p.scr = scr ∧ p.line = a / 64
  · rw [if_pos h, if_pos h]
    cases findLine ls scr (a / 64) with
    | none => exact Option.or_none.symm
    | some q => exact PLine.byte?_merge q p (Nat.mod_lt a (by decide))
  · rw [if_neg h, if_neg h]

/-! ## Lists that hold each line once -/

theorem linesOk_nil : LinesOk [] := ⟨List.Pairwise.nil, by simp⟩

theorem linesOk_cons {p : PLine} {ls : List PLine} :
    LinesOk (p :: ls) ↔ (∀ q ∈ ls, ¬(p.scr = q.scr ∧ p.line = q.line)) ∧ p.data.length = 64 ∧ LinesOk ls := by
  simp only [LinesOk, List.pairwise_cons, List.forall_mem_cons]
  tauto

theorem linesOk_filter {ls : List PLine} (h : LinesOk ls) (f : PLine → Bool) : LinesOk (ls.filter f) :=
  ⟨h.1.filter f, fun p hp => h.2 p (List.mem_of_mem_filter hp)⟩

/-- A line of the list's head is none of its rest's. -/
theorem byteIn_tail_of_linesOk {p : PLine} {ls : List PLine} (h : LinesOk (p :: ls)) {scr : Bool} {a : Nat} (hp : p.scr = scr ∧ p.line = a / 64) :
    byteIn ls scr a = none := by
  obtain ⟨rfl, hline⟩ := hp
  rw [byteIn, findLine_eq_none fun q hq hname => (linesOk_cons.1 h).1 q hq ⟨hname.1.symm, hline.trans hname.2.symm⟩]

/-- What a list of lines holds after a newer list is merged into it. -/
theorem byteIn_mergeLines {new : List PLine} (h : LinesOk new) (ls : List PLine) (scr : Bool) (a : Nat) :
    byteIn (mergeLines ls new) scr a = (byteIn new scr a).or (byteIn ls scr a) := by
  induction new generalizing ls with
  | nil => rfl
  | cons p new ih =>
    rw [show mergeLines ls (p :: new) = mergeLines (mergeLine ls p) new from rfl, ih (linesOk_cons.1 h).2.2, byteIn_cons, byteIn_mergeLine]
    split
    next hp => rw [byteIn_tail_of_linesOk h hp, Option.none_or]
    next => rfl

theorem PLine.merge_data_length (old new : PLine) : (old.merge new).data.length = 64 := by simp [PLine.merge]

/-- A merged line joins its own entry, or a new one. -/
theorem linesOk_mergeLine {ls : List PLine} (h : LinesOk ls) {p : PLine} (hp : p.data.length = 64) : LinesOk (mergeLine ls p) := by
  obtain ⟨hdist, hlen⟩ := h
  rw [mergeLine]
  split
  next =>
    refine ⟨?_, fun q hq => ?_⟩
    · refine List.pairwise_map.2 (hdist.imp fun {q r} hqr => ?_)
      have hname (x : PLine) : (if x.scr = p.scr && x.line = p.line then x.merge p else x).scr = x.scr
          ∧ (if x.scr = p.scr && x.line = p.line then x.merge p else x).line = x.line := by split <;> exact ⟨rfl, rfl⟩
      rwa [(hname q).1, (hname q).2, (hname r).1, (hname r).2]
    · obtain ⟨r, hr, rfl⟩ := List.mem_map.1 hq
      split
      · exact PLine.merge_data_length r p
      · exact hlen r hr
  next hnew =>
    refine ⟨List.pairwise_append.2 ⟨hdist, List.pairwise_singleton _ _, fun q hq r hr hname => hnew ?_⟩, fun q hq => ?_⟩
    · obtain rfl := List.mem_singleton.1 hr
      exact List.any_eq_true.2 ⟨q, hq, by simpa using hname⟩
    · rcases List.mem_append.1 hq with hq | hq
      · exact hlen q hq
      · rwa [List.mem_singleton.1 hq]

theorem linesOk_mergeLines {ls new : List PLine} (h : LinesOk ls) (hnew : ∀ p ∈ new, p.data.length = 64) : LinesOk (mergeLines ls new) := by
  induction new generalizing ls with
  | nil => exact h
  | cons p new ih =>
    obtain ⟨hp, hnew⟩ := List.forall_mem_cons.1 hnew
    exact ih (linesOk_mergeLine h hp) hnew

/-! ## Scratchpad lines in their tiles (R68) -/

/-- A memory after the lines of a list were written, each byte that its mask selects. -/
def Memory.writeLines (m : Memory) (ls : List PLine) : Memory := ls.foldl (fun m p => m.writeLine p.line p.data p.mask) m

theorem Memory.writeLines_cons (m : Memory) (p : PLine) (ls : List PLine) :
    m.writeLines (p :: ls) = (m.writeLine p.line p.data p.mask).writeLines ls := rfl

/-- What a tile reads as after scratchpad lines entered it. -/
theorem Memory.read_writeLines {ls : List PLine} (h : LinesOk ls) (hscr : ∀ p ∈ ls, p.scr = true) {m : Memory} (hm : m.wf) (a : Nat) :
    (m.writeLines ls).read a = (byteIn ls true a).getD (m.read a) := by
  induction ls generalizing m with
  | nil => rfl
  | cons p ls ih =>
    obtain ⟨-, hlen, hls⟩ := linesOk_cons.1 h
    obtain ⟨hp, hscr⟩ := List.forall_mem_cons.1 hscr
    rw [Memory.writeLines_cons, ih hls hscr (Memory.writeLine_wf hm _ _ _), Memory.read_writeLine hm _ hlen, byteIn_cons]
    by_cases hline : p.line = a / 64
    · rw [byteIn_tail_of_linesOk h ⟨hp, hline⟩, if_pos (show p.scr = true ∧ p.line = a / 64 from ⟨hp, hline⟩), PLine.byte?, PLine.has]
      cases hmask : p.mask.getLsbD (a % 64) <;> simp [hline, Memory.unlisted]
    · rw [if_neg (fun hc => hline hc.1.symm), if_neg (fun hc => hline hc.2)]

/-! ## What the levels of a wave hold (R71, R141) -/

/-- What a wave finds before device level: its buffer, its block's level and tiles, and its cluster's level. -/
structure Levels where
  buf : List PLine
  lines : List PLine
  tiles : Memory
  cluster : List PLine

def State.levels (s : State) (w : Wave) (b : Block) : Levels := ⟨bufLines w.buf, b.lines, b.scr, s.clusterLines b⟩

/-- The newest byte at an address. -/
def Levels.read (v : Levels) (scr : Bool) (a : Nat) : Option Byte :=
  (byteIn v.buf scr a).or (if scr then some (v.tiles.read a) else (byteIn v.lines scr a).or (byteIn v.cluster scr a))

/-- The levels whose lines a commit moves list each line once, and the tiles are in canonical form. -/
structure Levels.Ok (v : Levels) : Prop where
  buf : LinesOk v.buf
  lines : LinesOk v.lines
  tiles : v.tiles.wf

/-- The tiles after the buffer's scratchpad lines entered them. -/
def Levels.tilesIn (v : Levels) : Memory := v.tiles.writeLines (v.buf.filter (fun p => p.scr))
/-- The global lines of the buffer. -/
def Levels.glob (v : Levels) : List PLine := v.buf.filter (fun p => !p.scr)
/-- The buffer moved to block level. -/
def Levels.toBlock (v : Levels) : Levels := { v with buf := [], lines := mergeLines v.lines v.glob, tiles := v.tilesIn }
/-- The buffer and block level moved to cluster level. -/
def Levels.toCluster (v : Levels) : Levels :=
  { buf := [], lines := [], tiles := v.tilesIn, cluster := mergeLines v.cluster (mergeLines (mergeLines [] v.lines) v.glob) }

theorem ownView_eq_read (s : State) (w : Wave) (b : Block) (scr : Bool) (a : Nat) : ownView s w b scr a = (s.levels w b).read scr a := by
  have hview : ownView s w b scr a = match byteIn (bufLines w.buf) scr a with
      | some x => some x
      | none => if scr then some (b.scr.read a) else match byteIn b.lines scr a with
        | some x => some x
        | none => byteIn (s.clusterLines b) scr a := rfl
  rw [hview, Levels.read, State.levels]
  cases byteIn (bufLines w.buf) scr a with
  | some x => rfl
  | none =>
    cases byteIn b.lines scr a <;> rfl

theorem Levels.Ok.glob {v : Levels} (h : v.Ok) : LinesOk v.glob := linesOk_filter h.buf _

theorem Levels.byteIn_glob (v : Levels) (a : Nat) : byteIn v.glob false a = byteIn v.buf false a :=
  byteIn_filter_space (fun p hp => by simp [hp]) _ a

/-- A tile reads as the buffer's byte, or as before where it has none. -/
theorem Levels.Ok.read_tilesIn {v : Levels} (h : v.Ok) (a : Nat) : v.tilesIn.read a = (byteIn v.buf true a).getD (v.tiles.read a) := by
  rw [Levels.tilesIn, Memory.read_writeLines (linesOk_filter h.buf _) (fun p hp => (List.mem_filter.1 hp).2) h.tiles,
    byteIn_filter_space (fun p hp => hp)]

/-- Scratchpad bytes read the same once they are in their tiles. -/
theorem Levels.Ok.read_scr {v u : Levels} (h : v.Ok) (hbuf : u.buf = []) (htiles : u.tiles = v.tilesIn) (a : Nat) :
    u.read true a = v.read true a := by
  rw [Levels.read, Levels.read, hbuf, htiles, h.read_tilesIn]
  cases byteIn v.buf true a <;> rfl

/-- A move to block level keeps what the levels read as. -/
theorem Levels.Ok.read_toBlock {v : Levels} (h : v.Ok) : v.toBlock.read = v.read := by
  funext scr a
  cases scr with
  | true => exact h.read_scr rfl rfl a
  | false =>
    change (byteIn (mergeLines v.lines v.glob) false a).or (byteIn v.cluster false a) = _
    rw [byteIn_mergeLines h.glob, v.byteIn_glob, Option.or_assoc]
    rfl

/-- A move to cluster level keeps what the levels read as. -/
theorem Levels.Ok.read_toCluster {v : Levels} (h : v.Ok) : v.toCluster.read = v.read := by
  funext scr a
  cases scr with
  | true => exact h.read_scr rfl rfl a
  | false =>
    have hmid : LinesOk (mergeLines [] v.lines) := linesOk_mergeLines linesOk_nil h.lines.2
    have hpath : LinesOk (mergeLines (mergeLines [] v.lines) v.glob) := linesOk_mergeLines hmid h.glob.2
    change byteIn (mergeLines v.cluster (mergeLines (mergeLines [] v.lines) v.glob)) false a = _
    rw [byteIn_mergeLines hpath, byteIn_mergeLines h.glob, byteIn_mergeLines h.lines, byteIn_nil, Option.or_none, v.byteIn_glob,
      Option.or_assoc]
    rfl

/-! ## Where the levels stand in a state -/

/-- The wave and its block are found, the block in the same cluster, and their levels hold `v`. -/
def State.Stands (s : State) (wid : Nat) (home : Block) (v : Levels) : Prop :=
  ∃ w b, s.wave? wid = some w ∧ s.block? home.uid = some b ∧ b.grid = home.grid ∧ b.lin = home.lin ∧ s.levels w b = v

/-- Nothing of the levels changes from one state to the other. -/
structure State.SameLevels (s t : State) : Prop where
  bufs : t.waves.map (fun x => (x.wid, x.buf)) = s.waves.map (fun x => (x.wid, x.buf))
  blocks : t.blocks = s.blocks
  clusters : t.clusters = s.clusters
  grids : t.grids = s.grids

theorem State.SameLevels.refl (s : State) : s.SameLevels s := ⟨rfl, rfl, rfl, rfl⟩
theorem State.SameLevels.trans {s t u : State} (h : s.SameLevels t) (h' : t.SameLevels u) : s.SameLevels u :=
  ⟨h'.bufs.trans h.bufs, h'.blocks.trans h.blocks, h'.clusters.trans h.clusters, h'.grids.trans h.grids⟩

/-- A block's cluster is found by its grid and its place there. -/
theorem State.cluster?_congr {s t : State} {b c : Block} (hg : t.grids = s.grids) (hc : t.clusters = s.clusters) (hgrid : b.grid = c.grid)
    (hlin : b.lin = c.lin) : t.cluster? b = s.cluster? c := by
  simp only [State.cluster?, State.grid?, hg, hc, hgrid, hlin]

theorem State.clusterLines_congr {s t : State} {b c : Block} (hg : t.grids = s.grids) (hc : t.clusters = s.clusters) (hgrid : b.grid = c.grid)
    (hlin : b.lin = c.lin) : t.clusterLines b = s.clusterLines c := by
  rw [State.clusterLines, State.cluster?_congr hg hc hgrid hlin, State.clusterLines]

theorem State.SameLevels.wave? {s t : State} (h : s.SameLevels t) {k : Nat} {x : Wave} (hx : s.wave? k = some x) :
    ∃ y, t.wave? k = some y ∧ y.buf = x.buf := by
  have hfind (ws : List Wave) : (ws.map (fun x => (x.wid, x.buf))).find? (fun z => decide (z.1 = k)) =
      (ws.find? (fun x => decide (x.wid = k))).map (fun x => (x.wid, x.buf)) := List.find?_map
  have heq : (t.wave? k).map (fun x => (x.wid, x.buf)) = some (x.wid, x.buf) := by
    rw [State.wave?, ← hfind, h.bufs, hfind, ← State.wave?, hx]
    rfl
  obtain ⟨y, hy, hxy⟩ := Option.map_eq_some_iff.1 heq
  exact ⟨y, hy, congrArg Prod.snd hxy⟩

theorem State.SameLevels.stands {s t : State} (h : s.SameLevels t) {wid : Nat} {home : Block} {v : Levels} (hv : s.Stands wid home v) :
    t.Stands wid home v := by
  obtain ⟨w, b, hw, hb, hgrid, hlin, rfl⟩ := hv
  obtain ⟨y, hy, hbuf⟩ := h.wave? hw
  refine ⟨y, b, hy, ?_, hgrid, hlin, ?_⟩
  · rw [State.block?, h.blocks]
    exact hb
  · rw [State.levels, State.levels, hbuf, State.clusterLines_congr h.grids h.clusters rfl rfl]

/-! ## What changes no level -/

theorem State.tickNow_sameLevels (s : State) : s.SameLevels s.tickNow := ⟨rfl, rfl, rfl, rfl⟩

theorem State.dropOwn_sameLevels (s : State) (w : Wave) (ls : List PLine) : s.SameLevels (s.dropOwn w ls) := by
  rw [State.dropOwn]
  generalize ls.filter (fun p => !p.scr) = gs
  induction gs generalizing s with
  | nil => exact .refl s
  | cons p gs ih =>
    refine .trans ?_ (ih _)
    beta_reduce
    split
    · exact ⟨rfl, rfl, rfl, rfl⟩
    · exact .refl s

/-- An update of all waves that keeps their names and buffers. -/
theorem State.mapWaves_sameLevels (s : State) {f : Wave → Wave} (hwid : ∀ x, (f x).wid = x.wid) (hbuf : ∀ x, (f x).buf = x.buf) :
    s.SameLevels { s with waves := s.waves.map f } :=
  ⟨by simp only [List.map_map, Function.comp_def, hwid, hbuf], rfl, rfl, rfl⟩

theorem State.unstage_sameLevels (s : State) (w : Wave) (ls : List PLine) : s.SameLevels (s.unstage w ls) :=
  s.mapWaves_sameLevels (fun x => by split <;> rfl) (fun x => by split <;> rfl)

theorem State.unstageCluster_sameLevels (s : State) (b : Block) (size : Nat) (buf : List PLine) :
    s.SameLevels (s.unstageCluster b size buf) :=
  s.mapWaves_sameLevels (fun x => by split <;> rfl) (fun x => by split <;> rfl)

theorem State.logEntry_sameLevels (s : State) (p : Nat) (e : LogEntry) : s.SameLevels (s.logEntry p e) := by
  simp only [State.logEntry]
  split
  · split
    · exact ⟨rfl, rfl, rfl, rfl⟩
    · exact .refl s
  · split
    · exact .refl s
    · exact ⟨rfl, rfl, rfl, rfl⟩

theorem State.logBlock_sameLevels (s : State) (w : Wave) (kind count : Nat) : s.SameLevels (s.logBlock w kind count) := by
  rw [State.logBlock]
  split
  · exact .refl s
  · exact s.logEntry_sameLevels _ _

theorem State.logCluster_sameLevels (s : State) (w : Wave) (kind count : Nat) : s.SameLevels (s.logCluster w kind count) := by
  rw [State.logCluster]
  split
  · exact .refl s
  · split
    · exact .refl s
    · exact s.logEntry_sameLevels _ _

/-! ## What an update makes of the levels -/

section
variable {s : State} {wid : Nat} {home : Block} {v : Levels}

theorem State.Stands.updWave (h : s.Stands wid home v) {f : Wave → Wave} (hwid : ∀ x, (f x).wid = x.wid) {g : List PLine → List PLine}
    (hbuf : ∀ x, bufLines (f x).buf = g (bufLines x.buf)) : (s.updWave wid f).Stands wid home { v with buf := g v.buf } := by
  obtain ⟨w, b, hw, hb, hgrid, hlin, rfl⟩ := h
  refine ⟨f w, b, ?_, hb, hgrid, hlin, ?_⟩
  · simpa using State.wave?_updWave hw wid hwid
  · simp only [State.levels, hbuf]
    rfl

/-- A block is found after an update of it that keeps its name. -/
theorem State.block?_updBlock_same {k : Nat} {b : Block} (hb : s.block? k = some b) {f : Block → Block} (hf : ∀ x, (f x).uid = x.uid) :
    (s.updBlock k f).block? k = some (f b) := by
  have hk : b.uid = k := by simpa using List.find?_some hb
  rw [State.block?, State.updBlock_blocks, find?_map_of_keeps (fun x => by split <;> simp [hf]), ← State.block?, hb, Option.map_some, if_pos hk]

theorem State.Stands.updBlock (h : s.Stands wid home v) {f : Block → Block}
    (hname : ∀ x, (f x).uid = x.uid ∧ (f x).grid = x.grid ∧ (f x).lin = x.lin)
    {g : List PLine → List PLine} (hlines : ∀ x, (f x).lines = g x.lines) {m : Memory → Memory} (htiles : ∀ x, (f x).scr = m x.scr) :
    (s.updBlock home.uid f).Stands wid home { v with lines := g v.lines, tiles := m v.tiles } := by
  obtain ⟨w, b, hw, hb, hgrid, hlin, rfl⟩ := h
  obtain ⟨-, hfg, hfl⟩ := hname b
  refine ⟨w, f b, hw, State.block?_updBlock_same hb (fun x => (hname x).1), hfg.trans hgrid, hfl.trans hlin, ?_⟩
  simp only [State.levels, hlines, htiles]
  rw [State.clusterLines_congr (State.updBlock_grids s _ f) (State.updBlock_clusters s _ f) hfg hfl]

/-- The lines of a cluster after an update of it that keeps its name. -/
theorem State.clusterLines_updCluster {b : Block} (hb : (s.cluster? b).isSome = true) {f : Cluster → Cluster}
    (hname : ∀ x, (f x).grid = x.grid ∧ (f x).num = x.num) {g : List PLine → List PLine} (hlines : ∀ x, (f x).lines = g x.lines) :
    (s.updCluster b f).clusterLines b = g (s.clusterLines b) := by
  obtain ⟨c, hc⟩ := Option.isSome_iff_exists.1 hb
  have hupd : (s.updCluster b f).cluster? b = some (f c) := by
    rw [State.updCluster, hc]
    revert hc
    simp only [State.cluster?, State.grid?]
    split
    · simp
    · intro hc
      rw [find?_map_of_keeps (fun x => by split <;> simp [hname]), hc]
      simp
  simp only [State.clusterLines, hupd, hc, hlines]

theorem State.updCluster_frame (s : State) (b : Block) (f : Cluster → Cluster) :
    (s.updCluster b f).waves = s.waves ∧ (s.updCluster b f).blocks = s.blocks ∧ (s.updCluster b f).grids = s.grids := by
  rw [State.updCluster]
  split <;> exact ⟨rfl, rfl, rfl⟩

theorem State.Stands.updCluster (h : s.Stands wid home v) (hc : (s.cluster? home).isSome = true) {f : Cluster → Cluster}
    (hname : ∀ x, (f x).grid = x.grid ∧ (f x).num = x.num) {g : List PLine → List PLine} (hlines : ∀ x, (f x).lines = g x.lines) :
    (s.updCluster home f).Stands wid home { v with cluster := g v.cluster } := by
  obtain ⟨w, b, hw, hb, hgrid, hlin, rfl⟩ := h
  obtain ⟨hwaves, hblocks, -⟩ := s.updCluster_frame home f
  refine ⟨w, b, by rwa [State.wave?, hwaves], by rwa [State.block?, hblocks], hgrid, hlin, ?_⟩
  simp only [State.levels]
  rw [State.clusterLines_congr rfl rfl hgrid hlin, State.clusterLines_updCluster hc hname hlines, State.clusterLines_congr rfl rfl hgrid hlin]
end

/-! ## The move of a commit (R148) -/

/-- The lines that leave a buffer are those that the test selects. -/
theorem Wave.bufLines_dropLines (w : Wave) (f : PLine → Bool) : bufLines (w.dropLines f).buf = (bufLines w.buf).filter (fun p => !f p) := by
  simp only [Wave.dropLines, bufLines]
  induction w.buf with
  | nil => rfl
  | cons x xs ih =>
    cases x with
    | none => simpa using ih
    | some p => cases hf : f p <;> simpa [hf] using ih

theorem bufLines_replicate_none (n : Nat) : bufLines (List.replicate n none) = [] := by
  induction n with
  | zero => rfl
  | succ n ih => exact ih

theorem Wave.wid_dropLines (w : Wave) (f : PLine → Bool) : (w.dropLines f).wid = w.wid := rfl

/-- A block whose level takes the lines of one of its waves (R149). -/
def Block.takes (wid : Nat) (ls : List PLine) (b : Block) : Block :=
  let moved := { b.toTiles (ls.filter (fun p => p.scr)) with lines := mergeLines b.lines (ls.filter (fun p => !p.scr)), seq := b.seq + 1 }
  if b.conflicts wid ls then { moved.record wid ls with bconf := bconfConflict b.bconf } else moved.record wid ls

theorem State.toBlockLevel_eq (s : State) (w : Wave) (ls : List PLine) : s.toBlockLevel w ls =
    ((((s.tickNow).dropOwn w ls).unstage w ls).updBlock w.blk (Block.takes w.wid ls)).updWave w.wid
      (fun x => x.dropLines (fun p => ls.any (fun q => q.scr = p.scr && q.line = p.line))) := rfl

theorem Block.takes_name (wid : Nat) (ls : List PLine) (b : Block) :
    (b.takes wid ls).uid = b.uid ∧ (b.takes wid ls).grid = b.grid ∧ (b.takes wid ls).lin = b.lin := by
  rw [Block.takes]
  split <;> exact ⟨rfl, rfl, rfl⟩

theorem Block.takes_lines (wid : Nat) (ls : List PLine) (b : Block) :
    (b.takes wid ls).lines = mergeLines b.lines (ls.filter (fun p => !p.scr)) := by
  rw [Block.takes]
  split <;> rfl

theorem Block.takes_scr (wid : Nat) (ls : List PLine) (b : Block) :
    (b.takes wid ls).scr = b.scr.writeLines (ls.filter (fun p => p.scr)) := by
  rw [Block.takes]
  split <;> rfl

/-- A wave's whole buffer reaches block level. -/
theorem State.Stands.toBlockLevel {s : State} {w : Wave} {home : Block} {v : Levels} (h : s.Stands w.wid home v) (hblk : w.blk = home.uid) :
    (s.toBlockLevel w v.buf).Stands w.wid home v.toBlock := by
  have hbefore : s.SameLevels (((s.tickNow).dropOwn w v.buf).unstage w v.buf) :=
    s.tickNow_sameLevels.trans ((State.dropOwn_sameLevels _ _ _).trans (State.unstage_sameLevels _ _ _))
  have hdropped : v.buf.filter (fun p => !v.buf.any (fun q => q.scr = p.scr && q.line = p.line)) = [] :=
    List.filter_eq_nil_iff.2 fun p hp => by simpa using ⟨p, hp, rfl, rfl⟩
  have hmoved := ((hbefore.stands h).updBlock (Block.takes_name w.wid v.buf) (g := fun ls => mergeLines ls v.glob)
    (Block.takes_lines w.wid v.buf) (m := fun m => m.writeLines (v.buf.filter (fun p => p.scr))) (Block.takes_scr w.wid v.buf)).updWave
    (fun x => x.wid_dropLines _) (fun x => x.bufLines_dropLines (fun p => v.buf.any (fun q => q.scr = p.scr && q.line = p.line)))
  simp only [hdropped] at hmoved
  rw [State.toBlockLevel_eq, hblk]
  exact hmoved

/-- A commit to wave or block level of `n` lines. -/
def Cx.bufferMoved (c : Cx) (n : Nat) : State :=
  if n = 0 then c.s else (c.s.toBlockLevel c.w (bufLines c.w.buf)).logBlock c.w 1 n

/-- A new interval of a block, with CFLAG clear. -/
def Block.reopened (bconf : Word) (b : Block) : Block := { b.newInterval with bconf := bconfClear bconf }

/-- A block whose level moves up, with scratchpad lines in its tiles. -/
def Block.emptied (scr : List PLine) (b : Block) : Block := { (b.toTiles scr).newInterval with lines := [] }

/-- A cluster whose level takes the lines of a path. -/
def Cluster.takes (path : List PLine) (x : Cluster) : Cluster := { x with lines := mergeLines x.lines path, seq := x.seq + 1 }

/-- A wave whose buffer is empty. -/
def Wave.emptied (w : Wave) : Wave := { w with buf := List.replicate 64 none }

/-- A commit to cluster level, before it is logged. -/
def Cx.pathMoved (c : Cx) : State :=
  let path := c.s.pathLines c.w c.b 2
  ((((((c.s.tickNow).dropOwn c.w path).unstageCluster c.b (c.lrec.cluster + 1) (globLines c.w)).updBlock c.w.blk
    (Block.emptied (scrLines c.w))).updCluster c.b (Cluster.takes path)).updWave c.w.wid Wave.emptied)

/-- What a commit to wave, block or cluster level does where it does not wait and no trap stops it. -/
theorem Cx.commitStart_ok {c : Cx} {lvl : Nat} {t : State} (hlvl : lvl ≤ 2) (ht : c.commitStart lvl = .ok t) : ∃ n,
    (lvl = 0 ∧ t = c.bufferMoved n) ∨ (lvl = 1 ∧ t = (c.bufferMoved n).updBlock c.w.blk (Block.reopened c.b.bconf))
      ∨ (lvl = 2 ∧ t = if n = 0 then c.pathMoved else c.pathMoved.logCluster c.w 1 n) := by
  unfold Cx.commitStart at ht
  extract_lets w path scr n at ht
  split at ht
  · cases ht
  split at ht
  · cases ht
  split at ht
  · cases ht
  refine ⟨n, ?_⟩
  obtain rfl | rfl | rfl : lvl = 0 ∨ lvl = 1 ∨ lvl = 2 := by omega
  · exact .inl ⟨rfl, (Except.ok.inj ht).symm⟩
  · exact .inr (.inl ⟨rfl, (Except.ok.inj ht).symm⟩)
  · exact .inr (.inr ⟨rfl, (Except.ok.inj ht).symm⟩)

section
variable {c : Cx} (h : c.s.Stands c.w.wid c.b (c.s.levels c.w c.b)) (hblk : c.w.blk = c.b.uid)
include h hblk

theorem Cx.bufferMoved_keepsRead (hv : (c.s.levels c.w c.b).Ok) (n : Nat) :
    ∃ u, (c.bufferMoved n).Stands c.w.wid c.b u ∧ u.read = (c.s.levels c.w c.b).read := by
  rw [Cx.bufferMoved]
  split
  · exact ⟨_, h, rfl⟩
  · exact ⟨_, (State.logBlock_sameLevels _ _ _ _).stands (h.toBlockLevel hblk), hv.read_toBlock⟩

theorem Cx.pathMoved_stands (hclus : (c.s.cluster? c.b).isSome = true) : c.pathMoved.Stands c.w.wid c.b (c.s.levels c.w c.b).toCluster := by
  rw [Cx.pathMoved, hblk]
  have hbefore : c.s.SameLevels (((c.s.tickNow).dropOwn c.w (c.s.pathLines c.w c.b 2)).unstageCluster c.b (c.lrec.cluster + 1) (globLines c.w)) :=
    c.s.tickNow_sameLevels.trans ((State.dropOwn_sameLevels _ _ _).trans (State.unstageCluster_sameLevels _ _ _ _))
  have hblock := (hbefore.stands h).updBlock (f := Block.emptied (scrLines c.w)) (fun _ => ⟨rfl, rfl, rfl⟩) (g := fun _ => []) (fun _ => rfl)
    (m := fun m => m.writeLines (scrLines c.w)) (fun _ => rfl)
  refine (hblock.updCluster ?_ (f := Cluster.takes (c.s.pathLines c.w c.b 2)) (fun _ => ⟨rfl, rfl⟩)
    (g := fun ls => mergeLines ls (c.s.pathLines c.w c.b 2)) (fun _ => rfl)).updWave
    (f := Wave.emptied) (fun _ => rfl) (g := fun _ => []) (fun _ => bufLines_replicate_none 64)
  rwa [State.cluster?_congr ((State.updBlock_grids _ _ _).trans hbefore.grids) ((State.updBlock_clusters _ _ _).trans hbefore.clusters) rfl rfl]

/-- The move of a commit to wave, block or cluster level keeps what the wave's levels read as. -/
theorem Cx.commitStart_keepsRead {lvl : Nat} {t : State} (hlvl : lvl ≤ 2) (ht : c.commitStart lvl = .ok t)
    (hv : (c.s.levels c.w c.b).Ok) (hclus : lvl = 2 → (c.s.cluster? c.b).isSome = true) :
    ∃ u, t.Stands c.w.wid c.b u ∧ u.read = (c.s.levels c.w c.b).read := by
  obtain ⟨n, ⟨-, rfl⟩ | ⟨-, rfl⟩ | ⟨rfl, rfl⟩⟩ := Cx.commitStart_ok hlvl ht
  · exact Cx.bufferMoved_keepsRead h hblk hv n
  · obtain ⟨u, hu, hread⟩ := Cx.bufferMoved_keepsRead h hblk hv n
    rw [hblk]
    exact ⟨u, hu.updBlock (f := Block.reopened c.b.bconf) (fun _ => ⟨rfl, rfl, rfl⟩) (g := id) (fun _ => rfl) (m := id) (fun _ => rfl),
      hread⟩
  · have hmoved := Cx.pathMoved_stands h hblk (hclus rfl)
    refine ⟨_, ?_, hv.read_toCluster⟩
    split
    · exact hmoved
    · exact (State.logCluster_sameLevels _ _ _ _).stands hmoved
end

end Sys2Proof.Machine

namespace Sys2Proof.Proofs

open Sys2Proof Sys2Proof.Machine

/-- Settles O28: what the levels hold after the move reads as before, and merging lists each line once. -/
theorem commitsKeepTheWavesView : Obligations.CommitsKeepTheWavesView := by
  unfold Obligations.CommitsKeepTheWavesView
  refine ⟨fun c lvl t y b hlvl ht hw hb hy htb hclus hbuf hlines _ _ htiles scr a => ?_, fun ls new hls hnew => linesOk_mergeLines hls hnew.2⟩
  have hwid : c.w.wid = c.wid := by simpa using List.find?_some hw
  have hblk : c.b.uid = c.w.blk := by simpa using List.find?_some hb
  have hstands : c.s.Stands c.w.wid c.b (c.s.levels c.w c.b) := ⟨c.w, c.b, hwid ▸ hw, hblk ▸ hb, rfl, rfl, rfl⟩
  obtain ⟨u, ⟨y', b', hy', hb', -, -, rfl⟩, hread⟩ :=
    Cx.commitStart_keepsRead hstands hblk.symm hlvl ht ⟨hbuf, hlines, htiles⟩ hclus
  rw [hwid, hy] at hy'
  rw [hblk, htb] at hb'
  cases hy'
  cases hb'
  rw [ownView_eq_read, ownView_eq_read, hread]

end Sys2Proof.Proofs

/-! SUPPORT. Words and bytes (R8, R85-R87, R101): the opcode map read in both directions, the fields of a base word as parts of a
number, little-endian bytes, and what the decoder answers on the bytes of one word or two: the lemmas of O1 and O2. -/

namespace Sys2Proof

/-! ## The opcode map (R101) -/

/-- No two constructors share an opcode. -/
theorem Instr.ofCode_of_code {i : Instr} {op : BitVec 8} {e : Enc} (h : i.code = some (op, e)) : Instr.ofCode op e = some i := by
  cases i <;> cases h <;> rfl

/-- Whether an opcode is allocated does not depend on the other fields. -/
theorem Instr.exists_ofCode_of_code {i : Instr} {op : BitVec 8} {e : Enc} (h : i.code = some (op, e)) (e' : Enc) :
    ∃ j, Instr.ofCode op e' = some j := by
  cases i <;> cases h <;> exact ⟨_, rfl⟩

theorem Instr.code_of_ofCode {i : Instr} {op : BitVec 8} {e : Enc} (h : Instr.ofCode op e = some i) : i.code = some (op, e) := by
  unfold Instr.ofCode at h
  split at h <;> cases h
  all_goals exact congrArg (fun o => some (o, e)) (BitVec.eq_of_toNat_eq (Eq.symm ‹_›))

/-! ## The fields of a base word (R85) -/

theorem toNat_append_eq_add {m n : Nat} (x : BitVec m) (y : BitVec n) : (x ++ y).toNat = x.toNat * 2 ^ n + y.toNat := by
  rw [BitVec.toNat_append, ← Nat.shiftLeft_add_eq_or_of_lt y.isLt, Nat.shiftLeft_eq]

theorem toNat_extractLsb' {n : Nat} (w : BitVec n) (i k : Nat) : (w.extractLsb' i k).toNat = w.toNat / 2 ^ i % 2 ^ k := by
  rw [BitVec.extractLsb'_toNat, Nat.shiftRight_eq_div_pow]

theorem toNat_getLsbD {n : Nat} (w : BitVec n) (i : Nat) : (w.getLsbD i).toNat = w.toNat / 2 ^ i % 2 := by
  rw [← BitVec.testBit_toNat, Nat.toNat_testBit]

theorem bool_eq_of_toNat_eq : ∀ {a b : Bool}, a.toNat = b.toNat → a = b := by decide

/-- The base word as a number: each field times its place. -/
theorem toNat_baseWord (op : BitVec 8) (e : Enc) : (baseWord op e).toNat =
    op.toNat * 2 ^ 56 + e.mod.toNat * 2 ^ 44 + e.ext.isSome.toNat * 2 ^ 43 + e.gmask.toNat * 2 ^ 40 + e.ginv.toNat * 2 ^ 39
      + e.dst.toNat * 2 ^ 30 + e.a.toNat * 2 ^ 20 + e.b.toNat * 2 ^ 10 + e.c.toNat := by
  show (op ++ e.mod ++ BitVec.ofBool e.ext.isSome ++ e.gmask ++ BitVec.ofBool e.ginv ++ e.dst ++ e.a ++ e.b ++ e.c).toNat = _
  simp only [toNat_append_eq_add, BitVec.toNat_ofBool]
  omega

theorem opcode_baseWord (op : BitVec 8) (e : Enc) : (baseWord op e).extractLsb' 56 8 = op := by
  have := e.ext.isSome.toNat_le
  have := e.ginv.toNat_le
  apply BitVec.eq_of_toNat_eq
  rw [toNat_extractLsb', toNat_baseWord]
  omega

theorem wordX_baseWord (op : BitVec 8) (e : Enc) : wordX (baseWord op e) = e.ext.isSome := by
  have := e.ext.isSome.toNat_le
  have := e.ginv.toNat_le
  apply bool_eq_of_toNat_eq
  rw [wordX, toNat_getLsbD, toNat_baseWord]
  omega

theorem fieldsOf_baseWord (op : BitVec 8) (e : Enc) {ext : Dword} (h : ∀ x ∈ e.ext, ext = x) : fieldsOf (baseWord op e) ext = e := by
  have := e.ext.isSome.toNat_le
  have := e.ginv.toNat_le
  have hext : (if e.ext.isSome then some ext else none) = e.ext := by
    cases hx : e.ext <;> simp_all
  have hginv : (baseWord op e).getLsbD 39 = e.ginv := by
    apply bool_eq_of_toNat_eq
    rw [toNat_getLsbD, toNat_baseWord]
    omega
  rw [fieldsOf, wordX_baseWord, hext, hginv]
  congr <;> apply BitVec.eq_of_toNat_eq <;> rw [toNat_extractLsb', toNat_baseWord] <;> omega

theorem ext_isSome_fieldsOf (w ext : Dword) : (fieldsOf w ext).ext.isSome = wordX w := by
  unfold fieldsOf
  split <;> simp_all

/-- The fields of a word are all of it. -/
theorem baseWord_fieldsOf (w ext : Dword) : baseWord (w.extractLsb' 56 8) (fieldsOf w ext) = w := by
  apply BitVec.eq_of_toNat_eq
  rw [toNat_baseWord, ext_isSome_fieldsOf]
  simp only [fieldsOf, wordX, toNat_extractLsb', toNat_getLsbD]
  omega

/-! ## Little-endian bytes (R8) -/

theorem leBytes_length (n x : Nat) : (leBytes n x).length = n := by
  induction n generalizing x with
  | zero => rfl
  | succ n ih => simp [leBytes, ih]

theorem leNat_leBytes (n x : Nat) : leNat (leBytes n x) = x % 256 ^ n := by
  induction n generalizing x with
  | zero => simp [leBytes, leNat, Nat.mod_one]
  | succ n ih => rw [leBytes, leNat, ih, BitVec.toNat_ofNat, pow_succ' 256 n, Nat.mod_mul]

theorem leBytes_leNat (bs : List Byte) : leBytes bs.length (leNat bs) = bs := by
  induction bs with
  | nil => rfl
  | cons b bs ih =>
    have htail : (b.toNat + 256 * leNat bs) / 256 = leNat bs := by omega
    have hhead : BitVec.ofNat 8 (b.toNat + 256 * leNat bs) = b := BitVec.eq_of_toNat_eq (by simp; omega)
    simp only [List.length_cons, leBytes, leNat, htail, hhead, ih]

theorem leNat_lt (bs : List Byte) : leNat bs < 256 ^ bs.length := by
  rw [← leBytes_leNat bs, leNat_leBytes, leBytes_length]
  exact Nat.mod_lt _ (by positivity)

theorem ofNat_leNat_leBytes (w : Dword) : BitVec.ofNat 64 (leNat (leBytes 8 w.toNat)) = w := by
  rw [leNat_leBytes]
  exact BitVec.eq_of_toNat_eq (by simp; omega)

theorem leBytes_ofNat_leNat {bs : List Byte} (h : bs.length = 8) : leBytes 8 (BitVec.ofNat 64 (leNat bs)).toNat = bs := by
  have hlt := leNat_lt bs
  rw [h] at hlt
  rw [BitVec.toNat_ofNat, Nat.mod_eq_of_lt (by omega), ← h, leBytes_leNat]

/-- Eight bytes or more start with the bytes of a word. -/
theorem exists_leBytes_append {bs : List Byte} (h : 8 ≤ bs.length) : ∃ (w : Dword) (rest : List Byte), bs = leBytes 8 w.toNat ++ rest :=
  ⟨BitVec.ofNat 64 (leNat (bs.take 8)), bs.drop 8, by rw [leBytes_ofNat_leNat (by simp; omega), List.take_append_drop]⟩

/-! ## The decoder on words (R85-R87) -/

theorem decodeWords_baseWord {i : Instr} {op : BitVec 8} {e : Enc} {ext : Dword} (hc : i.code = some (op, e))
    (h : ∀ x ∈ e.ext, ext = x) : decodeWords (baseWord op e) ext = .ok i := by
  rw [decodeWords, opcode_baseWord, fieldsOf_baseWord op e h, Instr.ofCode_of_code hc]

theorem code_of_decodeWords {w ext : Dword} {i : Instr} (h : decodeWords w ext = .ok i) :
    i.code = some (w.extractLsb' 56 8, fieldsOf w ext) := by
  unfold decodeWords at h
  split at h
  next hi => cases h; exact Instr.code_of_ofCode hi
  next => exact nomatch h

theorem decodeWords_unallocated_iff (w ext : Dword) : decodeWords w ext = .error (.unallocated (w.extractLsb' 56 8)) ↔
    ∀ (i : Instr) (e : Enc), i.code ≠ some (w.extractLsb' 56 8, e) := by
  constructor
  · intro h i e hc
    obtain ⟨j, hj⟩ := Instr.exists_ofCode_of_code hc (fieldsOf w ext)
    rw [decodeWords, hj] at h
    exact nomatch h
  · intro h
    unfold decodeWords
    split
    next i hi => exact absurd (Instr.code_of_ofCode hi) (h i _)
    next => rfl

/-! ## The decoder on bytes (R86) -/

theorem decode_short {bs : List Byte} (h : bs.length < 8) : decode bs = .error .short := by
  rw [decode, if_pos h]

/-- A base word that asks for an extension word is too short alone. -/
theorem decode_short_ext {w : Dword} {bs : List Byte} (hx : wordX w = true) (h : bs.length < 8) :
    decode (leBytes 8 w.toNat ++ bs) = .error .short := by
  have hl := leBytes_length 8 w.toNat
  have h8 : ¬(leBytes 8 w.toNat ++ bs).length < 8 := by simp [hl]
  have h16 : (leBytes 8 w.toNat ++ bs).length < 16 := by simp [hl]; omega
  simp only [decode, if_neg h8, List.take_left' hl, ofNat_leNat_leBytes, hx, if_true, if_pos h16]

theorem decode_word {w : Dword} (hx : wordX w = false) (rest : List Byte) :
    decode (leBytes 8 w.toNat ++ rest) = (decodeWords w 0#64).map (fun i => (i, rest)) := by
  have hl := leBytes_length 8 w.toNat
  have h8 : ¬(leBytes 8 w.toNat ++ rest).length < 8 := by simp [hl]
  simp only [decode, if_neg h8, List.take_left' hl, List.drop_left' hl, ofNat_leNat_leBytes, hx, Bool.false_eq_true, if_false]

theorem decode_word_ext {w : Dword} (hx : wordX w = true) (ext : Dword) (rest : List Byte) :
    decode (leBytes 8 w.toNat ++ (leBytes 8 ext.toNat ++ rest)) = (decodeWords w ext).map (fun i => (i, rest)) := by
  have hl := leBytes_length 8 w.toNat
  have hl' := leBytes_length 8 ext.toNat
  have h8 : ¬(leBytes 8 w.toNat ++ (leBytes 8 ext.toNat ++ rest)).length < 8 := by simp [hl]
  have h16 : ¬(leBytes 8 w.toNat ++ (leBytes 8 ext.toNat ++ rest)).length < 16 := by simp [hl, hl']; omega
  have hdrop : (leBytes 8 w.toNat ++ (leBytes 8 ext.toNat ++ rest)).drop 16 = rest := by
    rw [← List.append_assoc]
    exact List.drop_left' (by simp [hl, hl'])
  simp only [decode, if_neg h8, if_neg h16, List.take_left' hl, List.drop_left' hl, List.take_left' hl', ofNat_leNat_leBytes, hx, if_true,
    hdrop]

theorem encode_of_code {i : Instr} {op : BitVec 8} {e : Enc} (h : i.code = some (op, e)) :
    encode i = leBytes 8 (baseWord op e).toNat ++ e.ext.toList.flatMap (fun w => leBytes 8 w.toNat) := by
  simp [encode, encodeWords, h]

theorem encode_of_decodeWords {w ext : Dword} {i : Instr} (h : decodeWords w ext = .ok i) :
    encode i = leBytes 8 w.toNat ++ if wordX w then leBytes 8 ext.toNat else [] := by
  rw [encode_of_code (code_of_decodeWords h), baseWord_fieldsOf]
  cases hx : wordX w <;> simp [fieldsOf, hx]

theorem decode_encode {i : Instr} {op : BitVec 8} {e : Enc} (hc : i.code = some (op, e)) (rest : List Byte) :
    decode (encode i ++ rest) = .ok (i, rest) := by
  rw [encode_of_code hc, List.append_assoc]
  cases hx : e.ext with
  | none =>
    have hX : wordX (baseWord op e) = false := by rw [wordX_baseWord, hx]; rfl
    exact (decode_word hX rest).trans (by rw [decodeWords_baseWord hc (by simp [hx])]; rfl)
  | some x =>
    have hX : wordX (baseWord op e) = true := by rw [wordX_baseWord, hx]; rfl
    rw [Option.toList_some, List.flatMap_singleton]
    exact (decode_word_ext hX x rest).trans (by rw [decodeWords_baseWord hc (by simp [hx])]; rfl)

theorem decodeWords_of_map_ok {i : Instr} {w ext : Dword} {bs rest : List Byte}
    (h : (decodeWords w ext).map (fun i => (i, bs)) = .ok (i, rest)) : decodeWords w ext = .ok i ∧ bs = rest := by
  cases hw : decodeWords w ext <;> rw [hw] at h <;> cases h
  exact ⟨rfl, rfl⟩

theorem encode_decode {bs rest : List Byte} {i : Instr} (h : decode bs = .ok (i, rest)) : encode i ++ rest = bs := by
  by_cases h8 : bs.length < 8
  · rw [decode_short h8] at h
    exact nomatch h
  obtain ⟨w, bs, rfl⟩ := exists_leBytes_append (Nat.le_of_not_lt h8)
  cases hx : wordX w with
  | false =>
    rw [decode_word hx bs] at h
    obtain ⟨hi, rfl⟩ := decodeWords_of_map_ok h
    simp [encode_of_decodeWords hi, hx]
  | true =>
    by_cases h16 : bs.length < 8
    · rw [decode_short_ext hx h16] at h
      exact nomatch h
    obtain ⟨ext, bs, rfl⟩ := exists_leBytes_append (Nat.le_of_not_lt h16)
    rw [decode_word_ext hx ext bs] at h
    obtain ⟨hi, rfl⟩ := decodeWords_of_map_ok h
    simp [encode_of_decodeWords hi, hx]

end Sys2Proof

namespace Sys2Proof.Proofs

open Sys2Proof Sys2Proof.Machine

/-- Settles O1: the fields are parts of the base word as a number, and no two constructors share an opcode. -/
theorem encodeDecode : Obligations.EncodeDecode := by
  unfold Obligations.EncodeDecode
  intro i op e rest hc
  exact decode_encode hc rest

/-- Settles O2: the fields of a word are all of it, and whether an opcode is allocated does not depend on them. -/
theorem wordsHaveOneMeaning : Obligations.WordsHaveOneMeaning := by
  unfold Obligations.WordsHaveOneMeaning
  exact ⟨fun bs rest i => encode_decode, decodeWords_unallocated_iff⟩

/-- Settles O3: each word is decoded. -/
theorem sampleWordsDecode : Obligations.SampleWordsDecode := by
  unfold Obligations.SampleWordsDecode
  decide

end Sys2Proof.Proofs

/-! SUPPORT. Words that R103 finds illegal and instructions that R95 does not perform, in the frame of every instruction of a wave: the
lemmas of O9. -/

namespace Sys2Proof.Machine

open Sys2Proof

/-! ## The check of R103 and the guard of R95 in the frame of every instruction -/

section
variable {op : Nat} {e : Enc} {s : State} {wid : Nat} {w : Wave} {b : Block} {g : Grid}
  (hcur : s.cur = some wid) (hw : s.wave? wid = some w) (hb : s.block? w.blk = some b) (hg : s.grid? b.grid = some g)
include hcur hw hb hg

/-- Trap 1, and nothing else (R103). -/
theorem simt_badWord (hok : w.wordOk op (opShape op e) e = false) (body : Cx → Res) :
    simt op e s body = .next (s.raise wid (laneOn w e) { code := 1#6, lanes := w.exec }) := by
  simp only [simt, hcur, hw, hb, hg, hok, Bool.not_false, if_true]

/-- Trap 2 of a legal encoding, and nothing else (R103). -/
theorem simt_badModifier (hok : w.wordOk op (opShape op e) e = true) (hmod : modifierOk (opShape op e) e = false) (body : Cx → Res) :
    simt op e s body = .next (s.raise wid (laneOn w e) { code := 2#6, lanes := w.exec }) := by
  simp only [simt, hcur, hw, hb, hg, hok, hmod, Bool.not_true, Bool.not_false, Bool.false_eq_true, if_false, if_true]

/-- An instruction that is not performed takes its words (R95). -/
theorem simt_guardedOff (hok : w.wordOk op (opShape op e) e = true) (hmod : modifierOk (opShape op e) e = true)
    (hoff : isPerformed op (isVector (opShape op e) e) (laneOn w e) (w.k0 &&& laneOn w e) = false) (body : Cx → Res) :
    simt op e s body = .next (s.advance wid (nextPc w e)) := by
  simp only [simt, hcur, hw, hb, hg, hok, hmod, hoff, Bool.not_true, Bool.not_false, Bool.false_eq_true, if_false, if_true]

end

/-! ## What is performed with no lane on (R95) -/

/-- A lane that an instruction acts in is a lane of %exec. -/
theorem laneOn_of_exec_zero {w : Wave} (h : w.exec = 0#32) (e : Enc) : laneOn w e = 0#32 := by
  simp only [laneOn, h, BitVec.zero_and, ite_self]

theorem isPerformed_join (vec : Bool) (lanes active : LaneMask) : isPerformed 0x52 vec lanes active = true := rfl
theorem isPerformed_rte (vec : Bool) (lanes active : LaneMask) : isPerformed 0x81 vec lanes active = true := rfl

/-- Only ballot, match and a wred of a vector source write a whole result when no lane is on (R129, R131). -/
theorem wholeForm_eq_false {op : BitVec 8} {vec : Bool} (hmask : ¬(op = 0x48#8 ∨ op = 0x4C#8)) (hred : ¬(op = 0x46#8 ∧ vec = true)) :
    wholeForm op.toNat vec = false := by
  simp only [← BitVec.toNat_inj, BitVec.reduceToNat, not_or, not_and, Bool.not_eq_true] at hmask hred
  simpa [wholeForm] using ⟨hmask, hred⟩

/-- With no lane on, an instruction that has neither to be performed nor to write a whole result is not performed (R95). -/
theorem isPerformed_noLane {op : BitVec 8} {vec : Bool} (hjoin : op ≠ 0x52#8) (hrte : op ≠ 0x81#8)
    (hwhole : wholeForm op.toNat vec = false) : isPerformed op.toNat vec 0#32 0#32 = false := by
  simp only [ne_eq, ← BitVec.toNat_inj, BitVec.reduceToNat] at hjoin hrte
  simp [isPerformed, hjoin, hrte, hwhole]

end Sys2Proof.Machine

namespace Sys2Proof.Proofs

open Sys2Proof Sys2Proof.Machine

/-- Settles O9: every instruction of a wave runs in the one frame, which checks its word and its guard before its meaning. -/
theorem illegalWordsTrapAndGuardedOffWordsPass : Obligations.IllegalWordsTrapAndGuardedOffWordsPass := by
  unfold Obligations.IllegalWordsTrapAndGuardedOffWordsPass
  constructor
  · intro i op e s wid w b g hc hcur hw hb hg sh
    obtain ⟨body, hx⟩ := exec_simt hc
    rw [hx]
    exact ⟨fun hok => simt_badWord hcur hw hb hg hok body, fun hok hmod => simt_badModifier hcur hw hb hg hok hmod body⟩
  · intro i op e s wid w b g hc hcur hw hb hg sh hok hmod
    obtain ⟨body, hx⟩ := exec_simt hc
    rw [hx]
    refine ⟨fun hoff => ⟨?_, ?_, simt_guardedOff hcur hw hb hg hok hmod hoff body⟩, fun hexec hjoin hrte hmask hred => ?_⟩
    · rintro rfl
      exact nomatch (isPerformed_join _ _ _).symm.trans hoff
    · rintro rfl
      exact nomatch (isPerformed_rte _ _ _).symm.trans hoff
    · refine simt_guardedOff hcur hw hb hg hok hmod ?_ body
      rw [laneOn_of_exec_zero hexec, BitVec.and_zero]
      exact isPerformed_noLane hjoin hrte (wholeForm_eq_false hmask hred)

end Sys2Proof.Proofs

/-! SUPPORT. What a write of results makes of a wave and of the machine (R95, R108, R110, R224): the registers of its destination in the
lanes that it acts in, and the lanes' draw counters: the lemmas of O11. -/

namespace Sys2Proof.Machine

open Sys2Proof

/-! ## Writing registers of a wave (R108, R110) -/

/-- From `w` to `x` a wave changes in nothing but registers out of `regs`, numbered as DST numbers them, v registers only in `lanes`, and
the lanes' draw counters. -/
structure Wave.OnlyRegs (regs : List Nat) (lanes : LaneMask) (w x : Wave) : Prop where
  rest : x = { w with vregs := x.vregs, sregs := x.sregs, kregs := x.kregs, scnt := x.scnt }
  vregs : ∀ n, n ∉ regs → x.vregs[n]? = w.vregs[n]?
  sregs : ∀ n, 256 + n ∉ regs → x.sregs[n]? = w.sregs[n]?
  kregs : ∀ n, 384 + n ∉ regs → x.kregs[n]? = w.kregs[n]?
  off : ∀ n l, lanes.getLsbD l = false → x.vget n l = w.vget n l

section
variable {regs : List Nat} {lanes : LaneMask} {w x y : Wave}

theorem Wave.OnlyRegs.refl (w : Wave) : w.OnlyRegs regs lanes w :=
  ⟨rfl, fun _ _ => rfl, fun _ _ => rfl, fun _ _ => rfl, fun _ _ _ => rfl⟩

theorem Wave.OnlyRegs.trans (h : w.OnlyRegs regs lanes x) (h' : x.OnlyRegs regs lanes y) : w.OnlyRegs regs lanes y where
  rest := by rw [h'.rest, h.rest]
  vregs n hn := (h'.vregs n hn).trans (h.vregs n hn)
  sregs n hn := (h'.sregs n hn).trans (h.sregs n hn)
  kregs n hn := (h'.kregs n hn).trans (h.kregs n hn)
  off n l hl := (h'.off n l hl).trans (h.off n l hl)

theorem Wave.OnlyRegs.wid (h : w.OnlyRegs regs lanes x) : x.wid = w.wid := by rw [h.rest]

/-- A lane's place in its stream is no register. -/
theorem Wave.onlyRegs_scnt (w : Wave) (cnt : List Word) : w.OnlyRegs regs lanes { w with scnt := cnt } :=
  ⟨rfl, fun _ _ => rfl, fun _ _ => rfl, fun _ _ => rfl, fun _ _ _ => rfl⟩

theorem Wave.onlyRegs_drew (w : Wave) (l : Nat) (yes : Bool) : w.OnlyRegs regs lanes (w.drew l yes) := by
  unfold Wave.drew
  split
  · exact w.onlyRegs_scnt _
  · exact .refl w

theorem Wave.onlyRegs_vset {n l : Nat} (hn : n ∈ regs) (hl : lanes.getLsbD l = true) (w : Wave) (v : Word) :
    w.OnlyRegs regs lanes (w.vset n l v) where
  rest := rfl
  vregs m hm := List.getElem?_modify_ne _ _ (by rintro rfl; exact hm hn)
  sregs _ _ := rfl
  kregs _ _ := rfl
  off m k hk := by
    have hkl : l ≠ k := by rintro rfl; simp [hl] at hk
    simp only [Wave.vget, Wave.vset, List.getD_eq_getElem?_getD, List.getElem?_modify]
    cases w.vregs[m]? with
    | none => rfl
    | some r => by_cases hnm : n = m <;> simp [hnm, List.getElem?_set_ne hkl]

theorem Wave.onlyRegs_sset {n : Nat} (hn : 256 + n ∈ regs) (w : Wave) (v : Word) : w.OnlyRegs regs lanes (w.sset n v) where
  rest := rfl
  vregs _ _ := rfl
  sregs m hm := List.getElem?_set_ne (by rintro rfl; exact hm hn)
  kregs _ _ := rfl
  off _ _ _ := rfl

theorem Wave.onlyRegs_kset {n : Nat} (hn : 384 + n ∈ regs) (w : Wave) (v : Word) : w.OnlyRegs regs lanes (w.kset n v) := by
  unfold Wave.kset
  split
  · exact .refl w
  · exact ⟨rfl, fun _ _ => rfl, fun _ _ => rfl, fun m hm => List.getElem?_set_ne (by rintro rfl; exact hm hn), fun _ _ _ => rfl⟩

/-- A result written for a lane reaches the registers of its destination, a v register only in that lane (R108). -/
theorem Wave.onlyRegs_write {d : BitVec 9} {wide : Bool} {l : Nat} (hregs : dstRegs (if wide then 2 else 1) d ⊆ regs)
    (hl : ∀ n, Dst.of d = .v n → lanes.getLsbD l = true) (w : Wave) (v : Nat) : w.OnlyRegs regs lanes (w.write d wide l v) := by
  unfold Wave.write
  unfold dstRegs at hregs
  cases hd : Dst.of d with
  | v n =>
    have hl := hl n hd
    cases wide <;> simp [hd, List.range_succ] at hregs ⊢
    · exact w.onlyRegs_vset hregs hl _
    · exact (w.onlyRegs_vset hregs.1 hl _).trans (Wave.onlyRegs_vset hregs.2 hl _ _)
  | s n =>
    cases wide <;> simp [hd, List.range_succ] at hregs ⊢
    · exact w.onlyRegs_sset hregs _
    · exact (w.onlyRegs_sset hregs.1 _).trans (Wave.onlyRegs_sset hregs.2 _ _)
  | k n =>
    simp [hd] at hregs
    exact w.onlyRegs_kset hregs _
  | bad => exact .refl w
  | discard => exact .refl w

theorem Wave.onlyRegs_foldl {α : Type} {f : Wave → α → Wave} {xs : List α} (h : ∀ a ∈ xs, ∀ w : Wave, w.OnlyRegs regs lanes (f w a)) (w : Wave) :
    w.OnlyRegs regs lanes (xs.foldl f w) :=
  List.foldlRecOn xs f (.refl w) fun y hy a ha => hy.trans (h a ha y)

end

/-! ## Lanes (R21, R95) -/

theorem mem_lanesOf {m : LaneMask} {l : Nat} : l ∈ lanesOf m ↔ l < 32 ∧ m.getLsbD l = true := by simp [lanesOf]

/-- The lanes of k0 with lane_on are lanes with lane_on. -/
theorem Cx.getLsbD_lanes_of_active {c : Cx} {l : Nat} (h : c.active.getLsbD l = true) : c.lanes.getLsbD l = true := by
  simp only [Cx.active, BitVec.getLsbD_and, Bool.and_eq_true] at h
  exact h.2

theorem Cx.lane0_lt (c : Cx) : c.lane0 < 32 := by
  unfold Cx.lane0 lowestLane
  cases h : lanesOf c.active with
  | nil => simp
  | cons l ls => simpa using (mem_lanesOf.mp (h ▸ List.mem_cons_self)).1

/-! ## What an instruction sees at its issue (R92, R94, R103) -/

theorem State.logEntry_waves (s : State) (p : Nat) (e : LogEntry) : (s.logEntry p e).waves = s.waves := by
  simp only [State.logEntry]
  split
  · split <;> rfl
  · split <;> rfl

theorem State.operandsNow_waves {s s' : State} {w : Wave} {b : Block} {g : Grid} {sh : Shape} {e : Enc} {iv : AtIssue}
    (h : s.operandsNow w b g sh e = .ok (some (iv, s'))) : s'.waves = s.waves := by
  unfold State.operandsNow at h
  split at h
  · cases h; rfl
  · unfold State.takeOperands at h
    split at h
    · cases h
    · dsimp only at h
      by_cases hwait : (readsClk sh e && !s.mayStep g.launch.part 6 (agentOf w) 32) = true
      · rw [if_pos hwait] at h
        cases h
      · rw [if_neg hwait] at h
        cases hclk : readsClk sh e <;> rw [hclk] at h <;> cases h
        · rfl
        · exact State.logEntry_waves _ _ _

/-- What the context of an instruction that reaches its meaning holds. -/
structure SeenAt (op : Nat) (e : Enc) (c : Cx) : Prop where
  enc : c.e = e
  form : c.vec = isVector (opShape op e) e
  wave : c.s.wave? c.wid = some c.w
  word : encodingOk c.w.nv c.w.ns (opShape op e) e = true

theorem seenAt_of_issued {op : Nat} {e : Enc} {s : State} {c : Cx} (h : Issued op e s c) : SeenAt op e c := by
  obtain ⟨wid, w, b, g, iv, s', -, hw, -, -, hword, -, -, hop, rfl⟩ := h
  have hwid : w.wid = wid := by simpa using List.find?_some hw
  simp only [Wave.wordOk, Bool.and_eq_true] at hword
  refine ⟨rfl, rfl, ?_, hword.1⟩
  rw [State.wave?, State.operandsNow_waves hop, show Cx.wid _ = w.wid from rfl, hwid]
  exact hw

section
variable {op : Nat} {e : Enc} {c : Cx}

theorem SeenAt.dstOk (h : SeenAt op e c) (hbr : (opShape op e).branch = false) :
    dstOk c.w.nv c.w.ns (opShape op e).dst e.dst = true := by
  have hword := h.word
  simp only [encodingOk, hbr, Bool.and_eq_true, Bool.false_eq_true, if_false] at hword
  exact hword.1.1.1.1.1.2

/-- A scalar form has no v destination (R90). -/
theorem SeenAt.dst_ne_v (h : SeenAt op e c) (hbr : (opShape op e).branch = false) (hvec : c.vec = false) (n : Nat) : Dst.of e.dst ≠ .v n := by
  intro hd
  rw [h.form] at hvec
  simp [isVector, hbr, hd] at hvec

/-- A destination that takes an s or a k register holds no v register (R89). -/
theorem SeenAt.dst_ne_v_of_kind (h : SeenAt op e c) (hbr : (opShape op e).branch = false)
    (hkind : (opShape op e).dst ∈ [DstKind.s, .k, .kOrS]) (n : Nat) : Dst.of e.dst ≠ .v n := by
  intro hd
  have hok := h.dstOk hbr
  simp only [List.mem_cons, List.not_mem_nil, or_false] at hkind
  rcases hkind with hk | hk | hk <;> simp [Machine.dstOk, hk, hd] at hok

end

/-! ## The register-only instructions -/

/-- `t` is the context's state with nothing changed but the wave, and of it only registers out of `regs` and draw counters. -/
def Cx.RegsOnly (c : Cx) (regs : List Nat) (t : State) : Prop :=
  ∃ f : Wave → Wave, t = c.s.updWave c.wid f ∧ ∀ w : Wave, w.OnlyRegs regs c.lanes (f w)

section
variable {c : Cx} {regs : List Nat}

theorem Cx.regsOnly_writeLanes {wide : Bool} (hregs : dstRegs (if wide then 2 else 1) c.e.dst ⊆ regs)
    (hscalar : c.vec = false → ∀ n, Dst.of c.e.dst ≠ .v n) (f : Nat → Nat) : c.RegsOnly regs (c.writeLanes wide f) := by
  unfold Cx.writeLanes
  cases hvec : c.vec with
  | true =>
    exact ⟨_, rfl, Wave.onlyRegs_foldl fun l hl w => w.onlyRegs_write hregs (fun _ _ => (mem_lanesOf.mp hl).2) _⟩
  | false =>
    exact ⟨_, rfl, fun w => w.onlyRegs_write hregs (fun n hn => absurd hn (hscalar hvec n)) _⟩

theorem Cx.regsOnly_writeRounded {wide : Bool} (hregs : dstRegs (if wide then 2 else 1) c.e.dst ⊆ regs)
    (hscalar : c.vec = false → ∀ n, Dst.of c.e.dst ≠ .v n) (f : Nat → Nat → Rounded) : c.RegsOnly regs (c.writeRounded wide f) := by
  unfold Cx.writeRounded
  cases hvec : c.vec with
  | true =>
    exact ⟨_, rfl, Wave.onlyRegs_foldl fun l hl w =>
      (w.onlyRegs_write hregs (fun _ _ => (mem_lanesOf.mp hl).2) _).trans (Wave.onlyRegs_drew _ _ _)⟩
  | false =>
    exact ⟨_, rfl, fun w => (w.onlyRegs_write hregs (fun n hn => absurd hn (hscalar hvec n)) _).trans (Wave.onlyRegs_drew _ _ _)⟩

/-- A compare writes its k register, or nothing (R115). -/
theorem cmpResult_regsOnly (hregs : dstRegs 1 c.e.dst ⊆ regs) (f : Nat → Bool) : ∃ t, cmpResult c f = .done t ∧ c.RegsOnly regs t := by
  unfold cmpResult
  unfold dstRegs at hregs
  split
  next n hd =>
    simp [hd] at hregs
    exact ⟨_, rfl, _, rfl, fun w => w.onlyRegs_kset hregs _⟩
  next =>
    refine ⟨_, rfl, id, ?_, Wave.OnlyRegs.refl⟩
    simp [State.updWave]

/-- A mask instruction writes its result whole: to an s or a k register (R131). -/
theorem Cx.regsOnly_write0 (hregs : dstRegs 1 c.e.dst ⊆ regs) (hdst : ∀ n, Dst.of c.e.dst ≠ .v n) (v : Nat) :
    c.RegsOnly regs (c.s.updWave c.wid (fun w => w.write c.e.dst false 0 v)) :=
  ⟨_, rfl, fun w => w.onlyRegs_write hregs (fun n hn => absurd hn (hdst n)) v⟩

end

/-- Wherever `i` reaches its meaning, with a class set within its 10 bits, it is performed and writes only its result registers. -/
def WritesRegs (i : Instr) : Prop :=
  ∀ (op : BitVec 8) (e : Enc) (s : State) (c : Cx), i.code = some (op, e) → Issued op.toNat e s c →
    (op = 0x29#8 → ∀ l < 32, c.src e.b .b32 l < 1024) →
    ∃ t, exec i s = .next (c.after t) ∧ c.RegsOnly (resultRegs op.toNat e) t

section
variable {i : Instr} {op : BitVec 8} {e : Enc} {body : Cx → Res}

theorem writesRegs_of (hc : i.code = some (op, e)) (hx : ∀ s, exec i s = simt op.toNat e s body)
    (hb : ∀ c, SeenAt op.toNat e c → (op = 0x29#8 → ∀ l < 32, c.src e.b .b32 l < 1024) →
      ∃ t, body c = .done t ∧ c.RegsOnly (resultRegs op.toNat e) t) : WritesRegs i := by
  intro op' e' s c hc' hi hclass
  cases hc.symm.trans hc'
  obtain ⟨t, hd, ht⟩ := hb c (seenAt_of_issued hi) hclass
  exact ⟨t, by rw [hx, simt_done hi hd], ht⟩

theorem writesRegs_lanes {wide : Enc → Bool} {f : Cx → Nat → Nat} (hc : i.code = some (op, e)) (hx : ∀ s, exec i s = simt op.toNat e s body)
    (hb : ∀ c, body c = .done (c.writeLanes (wide c.e) (f c))) (hbr : (opShape op.toNat e).branch = false)
    (hregs : dstRegs (if wide e then 2 else 1) e.dst ⊆ dstKindRegs (opShape op.toNat e).dst e.dst) : WritesRegs i := by
  refine writesRegs_of hc hx fun c hs _ => ⟨_, hb c, ?_⟩
  obtain rfl := hs.enc
  exact Cx.regsOnly_writeLanes (List.subset_append_of_subset_left _ hregs) (hs.dst_ne_v hbr) _

theorem writesRegs_rounded {wide : Enc → Bool} {f : Cx → Nat → Nat → Rounded} (hc : i.code = some (op, e))
    (hx : ∀ s, exec i s = simt op.toNat e s body) (hb : ∀ c, body c = .done (c.writeRounded (wide c.e) (f c)))
    (hbr : (opShape op.toNat e).branch = false)
    (hregs : dstRegs (if wide e then 2 else 1) e.dst ⊆ dstKindRegs (opShape op.toNat e).dst e.dst) : WritesRegs i := by
  refine writesRegs_of hc hx fun c hs _ => ⟨_, hb c, ?_⟩
  obtain rfl := hs.enc
  exact Cx.regsOnly_writeRounded (List.subset_append_of_subset_left _ hregs) (hs.dst_ne_v hbr) _

theorem writesRegs_write0 {f : Cx → Nat} (hc : i.code = some (op, e)) (hx : ∀ s, exec i s = simt op.toNat e s body)
    (hb : ∀ c, body c = .done (c.s.updWave c.wid (fun w => w.write c.e.dst false 0 (f c))))
    (hbr : (opShape op.toNat e).branch = false) (hkind : (opShape op.toNat e).dst ∈ [DstKind.s, .k, .kOrS]) : WritesRegs i := by
  refine writesRegs_of hc hx fun c hs _ => ⟨_, hb c, ?_⟩
  have hregs : dstRegs 1 e.dst ⊆ dstKindRegs (opShape op.toNat e).dst e.dst := by
    simp only [List.mem_cons, List.not_mem_nil, or_false] at hkind
    rcases hkind with hk | hk | hk <;> rw [hk] <;> exact List.Subset.refl _
  obtain rfl := hs.enc
  exact Cx.regsOnly_write0 (List.subset_append_of_subset_left _ hregs) (hs.dst_ne_v_of_kind hbr hkind) _

end

theorem dstRegs_one_subset (n : Bool) (d : BitVec 9) : dstRegs 1 d ⊆ dstRegs (if n then 2 else 1) d := by
  cases n
  · exact List.Subset.refl _
  · unfold dstRegs
    split <;> simp [List.range_succ]

/-- A result register is one of the destination field (R108). -/
theorem dst_subset_resultRegs {op : Nat} {e : Enc} {rs : List Nat} (h : rs ⊆ dstKindRegs (opShape op e).dst e.dst) : rs ⊆ resultRegs op e :=
  List.subset_append_of_subset_left _ h

theorem writesRegs_cmp {i : Instr} {op : BitVec 8} {e : Enc} {body : Cx → Res} {f : Cx → Nat → Bool} (hc : i.code = some (op, e))
    (hx : ∀ s, exec i s = simt op.toNat e s body) (hb : ∀ c, body c = cmpResult c (f c))
    (hregs : dstRegs 1 e.dst ⊆ dstKindRegs (opShape op.toNat e).dst e.dst) : WritesRegs i := by
  refine writesRegs_of hc hx fun c hs _ => ?_
  obtain rfl := hs.enc
  rw [hb]
  exact cmpResult_regsOnly (dst_subset_resultRegs hregs) _

/-- No set of an acting lane has a bit above 9, so no class raises trap 2 (R119). -/
theorem classOp_writesRegs (e : Enc) : WritesRegs (.classOp e) := by
  refine writesRegs_of rfl (exec_classOp e) fun c hs hclass => ?_
  obtain rfl := hs.enc
  have hsmall : (if c.vec then lanesOf c.lanes else [c.lane0]).any (fun l => decide (1024 ≤ c.src c.e.b .b32 l)) = false := by
    rw [List.any_eq_false]
    intro l hl
    have hl32 : l < 32 := by
      split at hl
      · exact (mem_lanesOf.mp hl).1
      · exact List.mem_singleton.mp hl ▸ c.lane0_lt
    simpa using hclass rfl l hl32
  dsimp only
  rw [hsmall]
  exact cmpResult_regsOnly (dst_subset_resultRegs (List.Subset.refl _)) _

/-- Each lane writes once and draws twice (R124). -/
theorem cvt2_writesRegs (e : Enc) : WritesRegs (.cvt2 e) := by
  refine writesRegs_of rfl (exec_cvt2 e) fun c hs _ => ⟨_, rfl, _, rfl, Wave.onlyRegs_foldl fun l hl w => ?_⟩
  obtain rfl := hs.enc
  have hwrite (w : Wave) (v : Nat) : w.OnlyRegs (resultRegs 0x31 c.e) c.lanes (w.write c.e.dst false l v) :=
    w.onlyRegs_write (dst_subset_resultRegs (List.Subset.refl _)) (fun _ _ => (mem_lanesOf.mp hl).2) v
  exact ((Wave.onlyRegs_drew _ _ _).trans (hwrite _ _)).trans (Wave.onlyRegs_drew _ _ _)

/-- Draws are counted only under .rs (R224). -/
theorem Wave.onlyRegs_ite_scnt {regs : List Nat} {lanes : LaneMask} {w x : Wave} {p : Prop} [Decidable p] (h : w.OnlyRegs regs lanes x)
    (cnt : List Word) : w.OnlyRegs regs lanes (if p then { x with scnt := cnt } else x) := by
  split
  · exact h.trans (x.onlyRegs_scnt cnt)
  · exact h

/-- A reduction writes its s register whole, and its draws are counted in one lane (R129). -/
theorem wred_writesRegs (e : Enc) : WritesRegs (.wred e) := by
  refine writesRegs_of rfl (exec_wred e) fun c hs _ => ⟨_, rfl, _, rfl, fun w => ?_⟩
  have hdst := hs.dst_ne_v_of_kind rfl (by simp [opShape, exchangeShape])
  obtain rfl := hs.enc
  have hwrite (v : Nat) : w.OnlyRegs (resultRegs 0x46 c.e) c.lanes (w.write c.e.dst false 0 v) :=
    w.onlyRegs_write (dst_subset_resultRegs (List.Subset.refl _)) (fun n hn => absurd hn (hdst n)) v
  exact Wave.onlyRegs_ite_scnt (hwrite _) _

/-- A scan whose steps leave the wave or write a result for a lane of `lanes`. -/
theorem Wave.onlyRegs_scan {α : Type} {regs : List Nat} {lanes : LaneMask} {d : BitVec 9} {f : Wave × α → Nat → Wave × α} {ls : List Nat}
    (hregs : dstRegs 1 d ⊆ regs)
    (hf : ∀ p l, (f p l).1 = p.1 ∨ lanes.getLsbD l = true ∧ ∃ v, (f p l).1 = p.1.write d false l v) (p : Wave × α) :
    p.1.OnlyRegs regs lanes (ls.foldl f p).1 :=
  List.foldlRecOn (motive := fun q => p.1.OnlyRegs regs lanes q.1) ls f (.refl _) fun q hq l _ => by
    rcases hf q l with h | ⟨hl, v, h⟩ <;> rw [h]
    · exact hq
    · exact hq.trans (q.1.onlyRegs_write hregs (fun _ _ => hl) v)

/-- A lane with lane_on writes the scan so far (R130). -/
theorem wscan_writesRegs (e : Enc) : WritesRegs (.wscan e) := by
  refine writesRegs_of rfl (exec_wscan e) fun c hs _ => ⟨_, rfl, _, rfl, fun w => ?_⟩
  obtain rfl := hs.enc
  dsimp only
  refine Wave.onlyRegs_ite_scnt (Wave.onlyRegs_scan (dst_subset_resultRegs (List.Subset.refl _)) (fun p l => ?_) (w, _, 0)) _
  by_cases hl : c.lanes.getLsbD l = true
  · exact .inr ⟨hl, _, if_pos hl⟩
  · exact .inl (if_neg hl)

/-- The lanes of k0 write their matches, and the advance register takes both counts (R202). -/
theorem isect_writesRegs (e : Enc) : WritesRegs (.isect e) := by
  refine writesRegs_of rfl (exec_isect e) fun c hs _ => ?_
  obtain rfl := hs.enc
  dsimp only
  split
  · exact ⟨_, rfl, id, by simp [State.updWave], Wave.OnlyRegs.refl⟩
  · refine ⟨_, rfl, _, rfl, fun w => ?_⟩
    have hlanes (d : Nat → Nat) : w.OnlyRegs (resultRegs 0xA4 c.e) c.lanes
        ((lanesOf c.active).foldl (fun w l => w.write c.e.dst false l (d l)) w) :=
      Wave.onlyRegs_foldl (fun l hl w => w.onlyRegs_write (dst_subset_resultRegs (List.Subset.refl _))
        (fun _ _ => Cx.getLsbD_lanes_of_active (mem_lanesOf.mp hl).2) _) w
    split
    next n hn => exact (hlanes _).trans (Wave.onlyRegs_sset (by simp [resultRegs, selRegs, hn]) _ _)
    next => exact hlanes _

/-- Every register-only instruction is performed and writes only its result registers (R95, R110, R224). -/
theorem writesRegs_of_registerOnly {i : Instr} {op : BitVec 8} {e : Enc} (hc : i.code = some (op, e))
    (hop : op.toNat < 0x50 ∨ op = 0xA3#8 ∨ op = 0xA4#8) : WritesRegs i := by
  cases i with
  | intAdd e => exact writesRegs_lanes (wide := wideType) rfl (exec_intAdd e) (fun _ => rfl) rfl (List.Subset.refl _)
  | intSub e => exact writesRegs_lanes (wide := wideType) rfl (exec_intSub e) (fun _ => rfl) rfl (List.Subset.refl _)
  | intMul e => exact writesRegs_lanes (wide := wideType) rfl (exec_intMul e) (fun _ => rfl) rfl (List.Subset.refl _)
  | mulhi e => exact writesRegs_lanes (wide := wideType) rfl (exec_mulhi e) (fun _ => rfl) rfl (List.Subset.refl _)
  | mad e => exact writesRegs_lanes (wide := wideType) rfl (exec_mad e) (fun _ => rfl) rfl (List.Subset.refl _)
  | intMin e => exact writesRegs_lanes (wide := wideType) rfl (exec_intMin e) (fun _ => rfl) rfl (List.Subset.refl _)
  | intMax e => exact writesRegs_lanes (wide := wideType) rfl (exec_intMax e) (fun _ => rfl) rfl (List.Subset.refl _)
  | intAbs e => exact writesRegs_lanes (wide := wideType) rfl (exec_intAbs e) (fun _ => rfl) rfl (List.Subset.refl _)
  | intNeg e => exact writesRegs_lanes (wide := wideType) rfl (exec_intNeg e) (fun _ => rfl) rfl (List.Subset.refl _)
  | andOp e => exact writesRegs_lanes (wide := wideType) rfl (exec_andOp e) (fun _ => rfl) rfl (List.Subset.refl _)
  | orOp e => exact writesRegs_lanes (wide := wideType) rfl (exec_orOp e) (fun _ => rfl) rfl (List.Subset.refl _)
  | xorOp e => exact writesRegs_lanes (wide := wideType) rfl (exec_xorOp e) (fun _ => rfl) rfl (List.Subset.refl _)
  | notOp e => exact writesRegs_lanes (wide := wideType) rfl (exec_notOp e) (fun _ => rfl) rfl (List.Subset.refl _)
  | shl e => exact writesRegs_lanes (wide := wideType) rfl (exec_shl e) (fun _ => rfl) rfl (List.Subset.refl _)
  | shr e => exact writesRegs_lanes (wide := wideType) rfl (exec_shr e) (fun _ => rfl) rfl (List.Subset.refl _)
  | rot e => exact writesRegs_lanes (wide := wideType) rfl (exec_rot e) (fun _ => rfl) rfl (List.Subset.refl _)
  | popc e => exact writesRegs_lanes (wide := wideType) rfl (exec_popc e) (fun _ => rfl) rfl (List.Subset.refl _)
  | clz e => exact writesRegs_lanes (wide := wideType) rfl (exec_clz e) (fun _ => rfl) rfl (List.Subset.refl _)
  | ctz e => exact writesRegs_lanes (wide := wideType) rfl (exec_ctz e) (fun _ => rfl) rfl (List.Subset.refl _)
  | brev e => exact writesRegs_lanes (wide := wideType) rfl (exec_brev e) (fun _ => rfl) rfl (List.Subset.refl _)
  | bfe e => exact writesRegs_lanes (wide := wideType) rfl (exec_bfe e) (fun _ => rfl) rfl (List.Subset.refl _)
  | bfi e => exact writesRegs_lanes (wide := wideType) rfl (exec_bfi e) (fun _ => rfl) rfl (List.Subset.refl _)
  | sel e => exact writesRegs_lanes (wide := wideType) rfl (exec_sel e) (fun _ => rfl) rfl (List.Subset.refl _)
  | mov e => exact writesRegs_lanes (wide := wideType) rfl (exec_mov e) (fun _ => rfl) rfl (List.Subset.refl _)
  | intCmp e => exact writesRegs_cmp rfl (exec_intCmp e) (fun _ => rfl) (List.Subset.refl _)
  | lea e => exact writesRegs_lanes (wide := wideType) rfl (exec_lea e) (fun _ => rfl) rfl (List.Subset.refl _)
  | perm e => exact writesRegs_lanes (wide := fun _ => false) rfl (exec_perm e) (fun _ => rfl) rfl (dstRegs_one_subset _ _)
  | shf e => exact writesRegs_lanes (wide := fun _ => false) rfl (exec_shf e) (fun _ => rfl) rfl (dstRegs_one_subset _ _)
  | fpAdd e => exact writesRegs_rounded (wide := fun _ => false) rfl (exec_fpAdd e) (fun _ => rfl) rfl (List.Subset.refl _)
  | fpSub e => exact writesRegs_rounded (wide := fun _ => false) rfl (exec_fpSub e) (fun _ => rfl) rfl (List.Subset.refl _)
  | fpMul e => exact writesRegs_rounded (wide := fun _ => false) rfl (exec_fpMul e) (fun _ => rfl) rfl (List.Subset.refl _)
  | fma e => exact writesRegs_rounded (wide := fun _ => false) rfl (exec_fma e) (fun _ => rfl) rfl (List.Subset.refl _)
  | fpMin e => exact writesRegs_lanes (wide := fun _ => false) rfl (exec_fpMin e) (fun _ => rfl) rfl (List.Subset.refl _)
  | fpMax e => exact writesRegs_lanes (wide := fun _ => false) rfl (exec_fpMax e) (fun _ => rfl) rfl (List.Subset.refl _)
  | fpAbs e => exact writesRegs_lanes (wide := fun _ => false) rfl (exec_fpAbs e) (fun _ => rfl) rfl (List.Subset.refl _)
  | fpNeg e => exact writesRegs_lanes (wide := fun _ => false) rfl (exec_fpNeg e) (fun _ => rfl) rfl (List.Subset.refl _)
  | fpCmp e => exact writesRegs_cmp rfl (exec_fpCmp e) (fun _ => rfl) (List.Subset.refl _)
  | classOp e => exact classOp_writesRegs e
  | rcp e => exact writesRegs_rounded (wide := fun _ => false) rfl (exec_rcp e) (fun _ => rfl) rfl (List.Subset.refl _)
  | rsq e => exact writesRegs_rounded (wide := fun _ => false) rfl (exec_rsq e) (fun _ => rfl) rfl (List.Subset.refl _)
  | sqe e => exact writesRegs_rounded (wide := fun _ => false) rfl (exec_sqe e) (fun _ => rfl) rfl (List.Subset.refl _)
  | exp2 e => exact writesRegs_rounded (wide := fun _ => false) rfl (exec_exp2 e) (fun _ => rfl) rfl (List.Subset.refl _)
  | log2 e => exact writesRegs_rounded (wide := fun _ => false) rfl (exec_log2 e) (fun _ => rfl) rfl (List.Subset.refl _)
  | rnd e => exact writesRegs_rounded (wide := fun _ => false) rfl (exec_rnd e) (fun _ => rfl) rfl (List.Subset.refl _)
  | cvt e => exact writesRegs_rounded (wide := wideType) rfl (exec_cvt e) (fun _ => rfl) rfl (List.Subset.refl _)
  | cvt2 e => exact cvt2_writesRegs e
  | pack e => exact writesRegs_rounded (wide := fun _ => false) rfl (exec_pack e) (fun _ => rfl) rfl (List.Subset.refl _)
  | unpk e => exact writesRegs_lanes (wide := fun _ => false) rfl (exec_unpk e) (fun _ => rfl) rfl (List.Subset.refl _)
  | dcd e => exact writesRegs_lanes (wide := fun _ => false) rfl (exec_dcd e) (fun _ => rfl) rfl (List.Subset.refl _)
  | enc e => exact writesRegs_rounded (wide := fun _ => false) rfl (exec_enc e) (fun _ => rfl) rfl (List.Subset.refl _)
  | sbx e => exact writesRegs_rounded (wide := fun _ => false) rfl (exec_sbx e) (fun _ => rfl) rfl (List.Subset.refl _)
  | scl e => exact writesRegs_rounded (wide := fun _ => false) rfl (exec_scl e) (fun _ => rfl) rfl (List.Subset.refl _)
  | quadXor e => exact writesRegs_lanes (wide := fun _ => false) rfl (exec_quadXor e) (fun _ => rfl) rfl (List.Subset.refl _)
  | quadBc e => exact writesRegs_lanes (wide := fun _ => false) rfl (exec_quadBc e) (fun _ => rfl) rfl (List.Subset.refl _)
  | shflIdx e => exact writesRegs_lanes (wide := fun _ => false) rfl (exec_shflIdx e) (fun _ => rfl) rfl (List.Subset.refl _)
  | shflUp e => exact writesRegs_lanes (wide := fun _ => false) rfl (exec_shflUp e) (fun _ => rfl) rfl (List.Subset.refl _)
  | shflDn e => exact writesRegs_lanes (wide := fun _ => false) rfl (exec_shflDn e) (fun _ => rfl) rfl (List.Subset.refl _)
  | shflXor e => exact writesRegs_lanes (wide := fun _ => false) rfl (exec_shflXor e) (fun _ => rfl) rfl (List.Subset.refl _)
  | wred e => exact wred_writesRegs e
  | wscan e => exact wscan_writesRegs e
  | ballot e => exact writesRegs_write0 rfl (exec_ballot e) (fun _ => rfl) rfl (by simp [opShape, exchangeShape])
  | kop e => exact writesRegs_write0 rfl (exec_kop e) (fun _ => rfl) rfl (by simp [opShape, exchangeShape])
  | kpopc e => exact writesRegs_write0 rfl (exec_kpopc e) (fun _ => rfl) rfl (by simp [opShape, exchangeShape])
  | kffs e => exact writesRegs_write0 rfl (exec_kffs e) (fun _ => rfl) rfl (by simp [opShape, exchangeShape])
  | matchOp e => exact writesRegs_write0 rfl (exec_matchOp e) (fun _ => rfl) rfl (by simp [opShape, exchangeShape])
  | ctrg e => exact writesRegs_lanes (wide := fun _ => false) rfl (exec_ctrg e) (fun _ => rfl) rfl (List.Subset.refl _)
  | isect e => exact isect_writesRegs e
  | _ => cases hc <;> exact absurd hop (by decide)

/-! ## The frame of a register-only instruction (R95, R110) -/

/-- An update of one wave leaves every other wave found as before. -/
theorem State.wave?_updWave_other {s : State} {v w : Nat} (h : v ≠ w) {f : Wave → Wave} (hf : ∀ y, (f y).wid = y.wid) :
    (s.updWave w f).wave? v = s.wave? v := by
  simp only [State.wave?, State.updWave_waves]
  induction s.waves with
  | nil => rfl
  | cons x xs ih =>
    have hname : (if x.wid = w then f x else x).wid = x.wid := by split <;> simp [hf]
    rw [List.map_cons, List.find?_cons, List.find?_cons, hname, ih]
    by_cases hx : x.wid = v
    · simp [hx, h]
    · simp [hx]

/-- The wave at the next instruction: its place inside the one it performed is cleared. -/
def Wave.goesOn (w : Wave) (pc clk : Dword) : Wave :=
  { w with pc := pc, stage := 0, aux := 0, issued := none, wait := .no, stall := 0#4, starved := 0, lastIssue := clk, barked := false }

theorem Wave.wid_goesOn (w : Wave) (pc clk : Dword) : (w.goesOn pc clk).wid = w.wid := rfl

theorem Cx.after_updWave (c : Cx) (f : Wave → Wave) : c.after (c.s.updWave c.wid f)
    = (c.s.updWave c.wid f).updWave c.wid (fun w => w.goesOn (nextPc c.w c.e) c.s.clk) := rfl

/-- A performed instruction that only writes registers leaves its wave with them at the next instruction, and every other wave as it was. -/
theorem Cx.RegsOnly.after {c : Cx} {regs : List Nat} {t : State} (ht : c.RegsOnly regs t) (hw : c.s.wave? c.wid = some c.w) :
    c.after t = { c.s with waves := (c.after t).waves } ∧ (∀ k, k ≠ c.wid → (c.after t).wave? k = c.s.wave? k)
      ∧ ∃ y, c.w.OnlyRegs regs c.lanes y ∧ (c.after t).wave? c.wid = some (y.goesOn (nextPc c.w c.e) c.s.clk) := by
  obtain ⟨f, rfl, hf⟩ := ht
  have hwid (y : Wave) : (f y).wid = y.wid := (hf y).wid
  have hgo (y : Wave) := y.wid_goesOn (nextPc c.w c.e) c.s.clk
  rw [Cx.after_updWave]
  refine ⟨rfl, fun k hk => ?_, f c.w, hf c.w, ?_⟩
  · rw [State.wave?_updWave_other hk hgo, State.wave?_updWave_other hk hwid]
  · rw [State.wave?_updWave (State.wave?_updWave hw c.wid hwid) c.wid hgo, if_pos rfl, if_pos rfl]

end Sys2Proof.Machine

namespace Sys2Proof.Proofs

open Sys2Proof Sys2Proof.Machine

/-- Settles O11: each register-only instruction writes its result registers, v registers in its lanes alone, and the wave goes on. -/
theorem frameRegisterOnly : Obligations.FrameRegisterOnly := by
  unfold Obligations.FrameRegisterOnly
  intro i op e s c hc hop hi hclass
  obtain ⟨t, hexec, ht⟩ := writesRegs_of_registerOnly hc hop op e s c hc hi hclass
  have hseen := seenAt_of_issued hi
  obtain ⟨hrest, hother, y, hy, hwave⟩ := ht.after hseen.wave
  obtain rfl := hseen.enc
  exact ⟨_, _, hexec, hrest, hwave, hother, congrArg (Wave.goesOn · (nextPc c.w c.e) c.s.clk) hy.rest, hy.vregs, hy.sregs, hy.kregs, hy.off⟩

end Sys2Proof.Proofs

/-! SUPPORT. Values on the grid of a format (R109, R213, R214): what a code holds, that a value of the grid is its own lower neighbour,
and the exact results of the special functions at their special cases (R120): the lemmas of O17. -/

namespace Sys2Proof.Machine

open Sys2Proof

/-! ## The grid of a format (R213, R214) -/

/-- The exponent of the lowest place of a format. -/
def Fmt.umin (F : Fmt) : Int := 1 - F.bias - F.mbits

/-- The sign that a format reads in a code. -/
def Fmt.negOf (F : Fmt) (code : Nat) : Bool := F.signed && code / 2 ^ F.signBit % 2 = 1

/-- `m * 2^e` lies on the grid of a format: its mantissa is full, or stands at the lowest place. -/
structure Fmt.OnGrid (F : Fmt) (m : Nat) (e : Int) : Prop where
  lt : m < 2 ^ (F.mbits + 1)
  place : F.umin ≤ e
  full : 2 ^ F.mbits ≤ m ∨ e = F.umin

/-- The magnitude of a code: its exponent field above its mantissa field. -/
theorem Fmt.mag_eq (F : Fmt) (code : Nat) :
    code % 2 ^ F.signBit = code % 2 ^ F.mbits + code / 2 ^ F.mbits % 2 ^ F.ebits * 2 ^ F.mbits := by
  rw [Fmt.signBit, Nat.add_comm F.ebits, Nat.pow_add, Nat.mod_mul, Nat.mul_comm]

/-- A magnitude that stands neither for an infinity nor for a NaN is at most the largest finite one. -/
theorem Fmt.mag_le_maxCode {F : Fmt} {E M : Nat} (hE : E < 2 ^ F.ebits) (hM : M < 2 ^ F.mbits)
    (hinf : ¬(F.hasInf = true ∧ E = 2 ^ F.ebits - 1)) (hnan : ¬((F = .e4m3 ∧ E = 15) ∧ M = 7)) (hF : F ≠ .e8m0) :
    M + E * 2 ^ F.mbits ≤ F.maxCode := by
  cases F <;> simp [Fmt.ebits, Fmt.mbits, Fmt.hasInf, Fmt.maxCode] at * <;> omega

/-- What a format reads in a code: a NaN, an infinity, or a value on its grid up to its largest. -/
theorem Fmt.value_cases {F : Fmt} (hF : F ≠ .e8m0) (code : Nat) : F.value code = .nan
    ∨ (F.value code = .inf (F.negOf code) ∧ F.hasInf = true ∧ code % 2 ^ F.signBit = F.infCode)
    ∨ ∃ m e, F.value code = .fin (F.negOf code) m e ∧ F.OnGrid m e
        ∧ code % 2 ^ F.signBit = m + (e - F.umin).toNat * 2 ^ F.mbits ∧ code % 2 ^ F.signBit ≤ F.maxCode := by
  have hM : code % 2 ^ F.mbits < 2 ^ F.mbits := Nat.mod_lt _ (by positivity)
  have hE : code / 2 ^ F.mbits % 2 ^ F.ebits < 2 ^ F.ebits := Nat.mod_lt _ (by positivity)
  rw [F.mag_eq code]
  simp only [Fmt.value, if_neg hF, Bool.and_eq_true, decide_eq_true_eq]
  generalize code % 2 ^ F.mbits = M at *
  generalize code / 2 ^ F.mbits % 2 ^ F.ebits = E at *
  split
  next hinf =>
    split
    next hM0 => exact .inr (.inl ⟨rfl, hinf.1, by rw [hM0, hinf.2, Fmt.infCode, Nat.zero_add]⟩)
    next => exact .inl rfl
  next hinf =>
    split
    next => exact .inl rfl
    next hnan =>
      have hmax := Fmt.mag_le_maxCode hE hM hinf hnan hF
      have hpow : 2 ^ (F.mbits + 1) = 2 ^ F.mbits + 2 ^ F.mbits := by omega
      split
      next hE0 => exact .inr (.inr ⟨M, _, rfl, ⟨by omega, le_refl _, .inr rfl⟩, by simp [hE0, Fmt.umin], hmax⟩)
      next hE0 =>
        obtain ⟨E, rfl⟩ := Nat.exists_eq_succ_of_ne_zero hE0
        refine .inr (.inr ⟨_, _, rfl, ⟨by omega, by unfold Fmt.umin; omega, .inl (by omega)⟩, ?_, hmax⟩)
        rw [show ((E.succ : Int) - F.bias - F.mbits - F.umin).toNat = E by unfold Fmt.umin; omega, Nat.succ_mul]
        omega

/-- A code is its sign and its magnitude. -/
theorem Fmt.withSign_negOf {F : Fmt} {code : Nat} (h : code < 2 ^ (F.signBit + F.signed.toNat)) :
    F.withSign (F.negOf code) (code % 2 ^ F.signBit) = code := by
  have hdiv := Nat.div_add_mod' code (2 ^ F.signBit)
  cases hs : F.signed with
  | false =>
    rw [hs, Bool.toNat_false, Nat.add_zero] at h
    simp [Fmt.withSign, hs, Nat.mod_eq_of_lt h]
  | true =>
    rw [hs, Bool.toNat_true, Nat.pow_succ, Nat.mul_comm] at h
    have hlt : code / 2 ^ F.signBit < 2 := Nat.div_lt_of_lt_mul (by omega)
    rcases Nat.le_one_iff_eq_zero_or_eq_one.mp (Nat.le_of_lt_succ hlt) with hq | hq
    all_goals
      rw [hq] at hdiv
      simp [Fmt.withSign, Fmt.negOf, hs, hq]
      omega

/-- The code of the negated value. -/
theorem Fmt.withSign_not_negOf {F : Fmt} {code : Nat} (hs : F.signed = true) (h : code < 2 ^ (F.signBit + F.signed.toNat)) :
    F.withSign (!F.negOf code) (code % 2 ^ F.signBit)
      = if bit code F.signBit then code - 2 ^ F.signBit else code + 2 ^ F.signBit := by
  have hcode := Fmt.withSign_negOf h
  have hbit : F.negOf code = bit code F.signBit := by simp [Fmt.negOf, bit, hs]
  rw [hbit] at hcode ⊢
  cases hb : bit code F.signBit <;> simp [Fmt.withSign, hs, hb] at hcode ⊢ <;> omega

/-! ## Rounding a value of the grid (R109) -/

theorem floorLog2_one {n : Nat} (h : n ≠ 0) : floorLog2 n 1 = n.log2 := by
  have hself := Nat.log2_self_le h
  have hone : Nat.log2 1 = 0 := by decide
  simp [floorLog2, hself, hone]

theorem Fmt.neighbour_of_onGrid {F : Fmt} {m : Nat} {e : Int} (hF : F ≠ .e8m0) (h0 : m ≠ 0) (h : F.OnGrid m e) :
    F.neighbour m 1 e = (m + (e - F.umin).toNat * 2 ^ F.mbits, 0, 1) := by
  have hlog : m.log2 < F.mbits + 1 := (Nat.log2_lt h0).mpr h.lt
  have hplace : max ((m.log2 : Int) + e - F.mbits) F.umin = e := by
    have := h.place
    rcases h.full with hm | he
    · have : F.mbits ≤ m.log2 := (Nat.le_log2 h0).mpr hm
      omega
    · omega
  simp only [Fmt.neighbour, if_neg hF, floorLog2_one h0]
  rw [show (1 - F.bias - F.mbits : Int) = F.umin from rfl, hplace]
  simp [Nat.mod_one]

theorem Fmt.roundMag_of_neighbour {F : Fmt} {n d lo den : Nat} {e : Int} (h : F.neighbour n d e = (lo, 0, den)) (hlo : lo ≤ F.maxCode)
    (m : Rnd) (draw : Nat) (neg : Bool) : F.roundMag m draw neg n d e = ⟨F.withSign neg lo, false⟩ := by
  simp [Fmt.roundMag, h, Nat.not_lt.mpr hlo]

/-- A value of the grid up to the largest rounds to its code, whatever sign it is given. -/
theorem Fmt.roundExact_of_onGrid {F : Fmt} {p : Nat} {e : Int} (hF : F ≠ .e8m0) (h : F.OnGrid p e)
    (hmax : p + (e - F.umin).toNat * 2 ^ F.mbits ≤ F.maxCode) (m : Rnd) (draw : Nat) (n : Bool) :
    F.roundExact m draw (Fp.fin n p e).exact = ⟨F.withSign n (p + (e - F.umin).toNat * 2 ^ F.mbits), false⟩ := by
  cases p with
  | zero =>
    have hp : 0 < 2 ^ F.mbits := by positivity
    have he : e = F.umin := h.full.resolve_left (by omega)
    simp [Fp.exact, Fmt.roundExact, he]
  | succ p => exact Fmt.roundMag_of_neighbour (Fmt.neighbour_of_onGrid hF (Nat.succ_ne_zero p) h) hmax m draw n

/-- E8M0 holds the powers of two from 2^-127. -/
theorem e8m0_neighbour (c : Nat) : Fmt.e8m0.neighbour 1 1 ((c : Int) - 127) = (c, 0, 1) := by
  have hone : floorLog2 1 1 = 0 := by decide
  have hk : ¬((c : Int) - 127 < -127) := by omega
  simp [Fmt.neighbour, hone, hk]

theorem e8m0_roundExact_value {code : Nat} (h : code < 256) (hnan : Fmt.e8m0.value code ≠ .nan) (m : Rnd) (draw : Nat) :
    Fmt.e8m0.roundExact m draw (Fmt.e8m0.value code).exact = ⟨code, false⟩ := by
  have hmod : code % 256 = code := Nat.mod_eq_of_lt h
  simp only [Fmt.value, if_true, hmod] at hnan ⊢
  split at hnan
  next => exact absurd rfl hnan
  next hmax =>
    rw [if_neg hmax]
    exact Fmt.roundMag_of_neighbour (e8m0_neighbour code) (by simp [Fmt.maxCode]; omega) m draw false

/-- A value that a format holds rounds to its own magnitude under its own sign, and its negation under the other one. -/
theorem Fmt.roundExact_value {F : Fmt} {code : Nat} (hF : F ≠ .e8m0) (hnan : F.value code ≠ .nan) (m : Rnd) (draw : Nat) :
    F.roundExact m draw (F.value code).exact = ⟨F.withSign (F.negOf code) (code % 2 ^ F.signBit), false⟩
      ∧ F.roundExact m draw (F.value code).negate.exact = ⟨F.withSign (!F.negOf code) (code % 2 ^ F.signBit), false⟩ := by
  rcases Fmt.value_cases hF code with hv | ⟨hv, hinf, hmag⟩ | ⟨p, e, hv, hgrid, hmag, hmax⟩
  · exact absurd hv hnan
  · rw [hv, hmag]
    simp [Fp.negate, Fp.exact, Fmt.roundExact, hinf]
  · rw [hmag] at hmax
    rw [hv, hmag]
    exact ⟨Fmt.roundExact_of_onGrid hF hgrid hmax m draw _, Fmt.roundExact_of_onGrid hF hgrid hmax m draw _⟩

/-! ## Rounding into f32 (R120) -/

theorem f32_roundExact_nan (m : Rnd) (draw : Nat) : (Fmt.f32.roundExact m draw .nan).code = 0x7FC00000 := rfl
theorem f32_roundExact_inf (m : Rnd) (draw : Nat) (n : Bool) :
    (Fmt.f32.roundExact m draw (.inf n)).code = 0x7F800000 + if n then 2 ^ 31 else 0 := by cases n <;> rfl
theorem f32_roundExact_zero (m : Rnd) (draw : Nat) (n : Bool) :
    (Fmt.f32.roundExact m draw (.zero n)).code = if n then 2 ^ 31 else 0 := by cases n <;> rfl
theorem f32_roundExact_one (m : Rnd) (draw : Nat) : (Fmt.f32.roundExact m draw (.real false 1 1 0)).code = 0x3F800000 := by
  have hone : Fmt.f32.neighbour 1 1 0 = (0x3F800000, 0, 1) := by decide
  exact congrArg Rounded.code (Fmt.roundMag_of_neighbour hone (by decide) m draw false)

end Sys2Proof.Machine

namespace Sys2Proof.Proofs

open Sys2Proof Sys2Proof.Machine

/-- Settles O17: a code holds a value of its format's grid, which is its own lower neighbour; each special case of R120 is a NaN, an
infinity, a zero or a one before its rounding. -/
theorem roundingAndSpecialCases : Obligations.RoundingAndSpecialCases := by
  unfold Obligations.RoundingAndSpecialCases
  refine ⟨fun F m draw code hcode hnan => ?_, fun m draw n k x hx => ?_⟩
  · by_cases hF : F = .e8m0
    · subst hF
      exact ⟨e8m0_roundExact_value hcode hnan m draw, fun hs => nomatch hs⟩
    · obtain ⟨hown, hneg⟩ := Fmt.roundExact_value hF hnan m draw
      exact ⟨hown.trans (by rw [Fmt.withSign_negOf hcode]), fun hs => hneg.trans (by rw [Fmt.withSign_not_negOf hs hcode])⟩
  · obtain ⟨x, rfl⟩ := Nat.exists_eq_succ_of_ne_zero hx
    have hnan := f32_roundExact_nan m draw
    have hinf := f32_roundExact_inf m draw
    have hzero := f32_roundExact_zero m draw
    refine ⟨hnan, hnan, hnan, hnan, hnan, hinf n, hinf n, hzero n, f32_roundExact_one m draw, hinf true, hzero n, ?_, ?_, ?_, ?_,
      hnan, hnan, hnan, hzero false⟩
    all_goals cases n
    · exact hzero false
    · exact hnan
    · exact hinf false
    · exact hnan
    · exact hinf false
    · exact hzero false
    · exact hinf false
    · exact hnan

end Sys2Proof.Proofs

/-! SUPPORT. A scale whose A is an inline constant (R91, R125): the counterexample of O18. -/

namespace Sys2Proof.Machine

open Sys2Proof

/-- A machine whose one wave, with every lane on, is about to perform its instruction. -/
def sclState : State := { State.reset.withFetchWord 64 0 with cur := some 0 }

/-- The fields of `scl.f32 v2, 1, 0`, whose sources are the inline constants 1 and 0. -/
def sclOne : Enc := ⟨0x600#12, 0#3, false, 2#9, 449#10, 448#10, 0#10, none⟩

/-- What that instruction sees. -/
def sclCx : Cx :=
  let w := sclState.waves.head (List.cons_ne_nil _ _)
  { s := sclState, w := w, b := sclState.blocks.head (List.cons_ne_nil _ _), g := sclState.grids.head (List.cons_ne_nil _ _)
    op := 0x37, e := sclOne, sh := opShape 0x37 sclOne, vec := isVector (opShape 0x37 sclOne) sclOne, lanes := laneOn w sclOne
    iv := { win := 0#64, clk := sclState.clk, preq := w.preq, bconf := 0#32, acks := w.acks, nwaves := 1 } }

theorem sclCx_issued : Issued 0x37 sclOne sclState sclCx :=
  ⟨0, _, _, _, _, _, rfl, rfl, rfl, rfl, by decide +kernel, by decide +kernel, by decide +kernel, rfl, rfl⟩

/-- The destination in lane 0 after a step. -/
def lane0OfV2 (r : Host.Outcome State Fault Refusal) : Option Word :=
  match r with
  | .next t => (t.wave? 0).map (fun (w : Wave) => w.vget 2 0)
  | _ => none

/-- 1.0 scaled by 2^0 is 1.0. -/
theorem exec_sclOne : lane0OfV2 (exec (.scl sclOne) sclState) = some 0x3F800000#32 := by decide +kernel

end Sys2Proof.Machine

namespace Sys2Proof.Proofs

open Sys2Proof Sys2Proof.Machine

/-- Refutes O18: the statement reads the f32 operands of cvt2, pack, enc and scl at b32, where an inline integer constant supplies its bits
and not the code of its value (R91): `scl.f32 v2, 1, 0` writes 1.0, and the statement says 2^-149. -/
theorem not_conversionsAndElements : ¬ Obligations.ConversionsAndElements := by
  unfold Obligations.ConversionsAndElements
  rintro ⟨hperforms, -⟩
  obtain ⟨-, -, -, -, -, -, -, hscl⟩ := hperforms sclOne
  have hexec := congrArg lane0OfV2 (hscl 0x37#8 sclOne sclState sclCx rfl sclCx_issued)
  rw [exec_sclOne] at hexec
  exact absurd hexec (by decide +kernel)

end Sys2Proof.Proofs

/-! SUPPORT. What a result makes of the registers that it is written to (R110): a v register or pair lane by lane, an s pair half by half:
the lemmas of O10. -/

namespace Sys2Proof.Machine

open Sys2Proof

/-! ## A result in v registers (R110) -/

/-- What a lane of register `m` holds after a result `v` for register `n`, or for the pair from it. -/
def resultIn (wide : Bool) (n m v : Nat) (old : Word) : Word :=
  if m = n then word v else if wide && m = n + 1 then word (v / 2 ^ 32) else old

/-- A result written twice is written once. -/
theorem resultIn_resultIn (wide : Bool) (n m v : Nat) (old : Word) :
    resultIn wide n m v (resultIn wide n m v old) = resultIn wide n m v old := by
  unfold resultIn
  split
  · rfl
  · split <;> rfl

theorem set_eq_mapIdx (r : Lanes) (l : Nat) (v : Word) : r.set l v = r.mapIdx (fun i x => if i = l then v else x) := by
  refine List.ext_getElem? fun i => ?_
  rw [List.getElem?_mapIdx, List.getElem?_set]
  by_cases h : l = i
  · subst h
    by_cases hl : l < r.length <;> simp [hl]
  · simp [h, Ne.symm h]

/-- Two changes of the lanes of a register, where it is there, are one. -/
theorem map_mapIdx_map_mapIdx {o : Option Lanes} {f g k : Nat → Word → Word} (h : ∀ i x, g i (f i x) = k i x) :
    (o.map (List.mapIdx f)).map (List.mapIdx g) = o.map (List.mapIdx k) := by
  obtain rfl : (fun i x => g i (f i x)) = k := funext₂ h
  cases o with
  | none => rfl
  | some r => exact congrArg some List.mapIdx_mapIdx

theorem mapIdx_id : List.mapIdx (fun _ x => x) = (id : Lanes → Lanes) := funext fun r => by simp [List.mapIdx_eq_zipIdx_map]

theorem Wave.vregs_vset (w : Wave) (n l : Nat) (v : Word) (m : Nat) :
    (w.vset n l v).vregs[m]? = w.vregs[m]?.map (List.mapIdx fun i x => if i = l ∧ m = n then v else x) := by
  simp only [Wave.vset, List.getElem?_modify, set_eq_mapIdx]
  by_cases h : n = m
  · simp [h]
  · simp [h, Ne.symm h, mapIdx_id]

section
variable {d : BitVec 9} {n : Nat} (hd : Dst.of d = .v n)
include hd

theorem Wave.vregs_write (w : Wave) (wide : Bool) (l v m : Nat) :
    (w.write d wide l v).vregs[m]? = w.vregs[m]?.map (List.mapIdx fun i x => if i = l then resultIn wide n m v x else x) := by
  cases wide with
  | false => simp [Wave.write, hd, Wave.vregs_vset, resultIn, ite_and]
  | true =>
    simp only [Wave.write, hd, if_true, Wave.vregs_vset]
    refine map_mapIdx_map_mapIdx fun i x => ?_
    by_cases hm : m = n <;> simp [hm, resultIn, ite_and]

theorem Wave.vregs_foldl_write (wide : Bool) (f : Nat → Nat) (m : Nat) (ls : List Nat) (w : Wave) :
    (ls.foldl (fun w l => w.write d wide l (f l)) w).vregs[m]?
      = w.vregs[m]?.map (List.mapIdx fun i x => if i ∈ ls then resultIn wide n m (f i) x else x) := by
  induction ls generalizing w with
  | nil => simp [mapIdx_id]
  | cons l ls ih =>
    rw [List.foldl_cons, ih, Wave.vregs_write hd]
    refine map_mapIdx_map_mapIdx fun i x => ?_
    by_cases h : i = l
    · subst h
      by_cases hi : i ∈ ls <;> simp [hi, resultIn_resultIn]
    · simp [h]

/-- Results for a v register change no other field of the wave. -/
theorem Wave.foldl_write_eq_vregs (wide : Bool) (f : Nat → Nat) (ls : List Nat) (w : Wave) :
    ls.foldl (fun w l => w.write d wide l (f l)) w = { w with vregs := (ls.foldl (fun w l => w.write d wide l (f l)) w).vregs } := by
  refine List.foldlRecOn (motive := fun y : Wave => y = { w with vregs := y.vregs }) ls _ rfl fun y hy l _ => ?_
  rw [hy]
  cases wide <;> simp [Wave.write, hd, Wave.vset]

end

/-! ## A result in an s pair (R90, R110) -/

theorem extractLsb'_dword_low (v : Nat) : (dword v).extractLsb' 0 32 = word v :=
  BitVec.eq_of_toNat_eq (by simp [dword, word, BitVec.extractLsb'_toNat])

theorem extractLsb'_dword_high (v : Nat) : (dword v).extractLsb' 32 32 = word (v / 2 ^ 32) :=
  BitVec.eq_of_toNat_eq (by simp [dword, word, BitVec.extractLsb'_toNat, Nat.shiftRight_eq_div_pow]; omega)

/-! ## The wave that results were written for -/

theorem Wave.wid_write (w : Wave) (d : BitVec 9) (wide : Bool) (l v : Nat) : (w.write d wide l v).wid = w.wid := by
  unfold Wave.write Wave.kset
  split
  · cases wide <;> rfl
  · cases wide <;> rfl
  · split <;> rfl
  · rfl

theorem Cx.wave?_writeLanes {c : Cx} (hw : c.s.wave? c.wid = some c.w) (wide : Bool) (f : Nat → Nat) :
    (c.writeLanes wide f).wave? c.wid = some (if c.vec then (lanesOf c.lanes).foldl (fun w l => w.write c.e.dst wide l (f l)) c.w
      else c.w.write c.e.dst wide 0 (f c.lane0)) := by
  unfold Cx.writeLanes
  cases c.vec with
  | true =>
    exact (State.wave?_updWave hw c.wid fun y => List.foldlRecOn (motive := fun x : Wave => x.wid = y.wid) _ _ rfl
      fun x hx l _ => (x.wid_write ..).trans hx).trans (congrArg some (if_pos rfl))
  | false => exact (State.wave?_updWave hw c.wid fun y => y.wid_write ..).trans (congrArg some (if_pos rfl))

end Sys2Proof.Machine

namespace Sys2Proof.Proofs

open Sys2Proof Sys2Proof.Machine

/-- Settles O10: each kind of destination in its form, a v register by induction over the lanes that are on. -/
theorem resultsReachRegisters : Obligations.ResultsReachRegisters := by
  unfold Obligations.ResultsReachRegisters
  intro c wide f hw
  refine ⟨_, Cx.wave?_writeLanes hw wide f, ?_⟩
  split
  next n hd hvec =>
    rw [if_pos hvec]
    refine ⟨Wave.foldl_write_eq_vregs hd _ _ _ _, fun m => (Wave.vregs_foldl_write hd wide f m _ _).trans ?_⟩
    have hmem (l : Nat) : l ∈ lanesOf c.lanes ↔ c.lanes.getLsbD l = true := mem_lanesOf.trans (and_iff_right_of_imp BitVec.lt_of_getLsbD)
    simp only [hmem, resultIn]
    congr! 4 with i x
    cases c.lanes.getLsbD i <;> simp [word]
  next n hd hvec =>
    rw [if_neg (by simp [hvec])]
    cases wide <;> simp [Wave.write, hd, Wave.setSpair, Wave.sset, extractLsb'_dword_low, extractLsb'_dword_high, word]
  next n hd hvec =>
    intro hn
    rw [if_neg (by simp [hvec])]
    simp [Wave.write, hd, Wave.kset, hn, word]
  next => trivial

end Sys2Proof.Proofs

/-! SUPPORT. Integer results as bits (R108, R111): wrapping, shifts, rotation, counts and the reversal of bits, and that an operand read at
an integer or raw type lies in its width: the lemmas of O12 and O13. -/

namespace Sys2Proof.Machine

open Sys2Proof

theorem bit_eq_testBit (x i : Nat) : bit x i = x.testBit i := Nat.testBit_eq_decide_div_mod_eq.symm

/-! ## Wrapping (R108) -/

theorem Ty.width_pos (t : Ty) : 0 < t.width := by cases t <;> decide

theorem wrapBits_natCast (t : Ty) (n : Nat) : wrapBits t n = n % 2 ^ t.width := by
  rw [wrapBits, ← Int.natCast_mod, Int.toNat_natCast]

/-- Integers that differ by a multiple of the modulus wrap alike. -/
theorem wrapBits_congr {t : Ty} {x y : Int} (h : x % (2 ^ t.width : Nat) = y % (2 ^ t.width : Nat)) : wrapBits t x = wrapBits t y := by
  rw [wrapBits, wrapBits, h]

theorem wrapBits_ofInt {t : Ty} {w : Nat} (ht : t.width = w) (x : Int) : wrapBits t x = (BitVec.ofInt w x).toNat := by
  rw [BitVec.toNat_ofInt, ← ht, wrapBits]

/-- The value of bits in a type's range: the bits, less the modulus when the type reads their top bit as a sign (R108). -/
theorem Ty.toInt_eq {t : Ty} {a : Nat} (ha : a < 2 ^ t.width) :
    t.toInt a = if t.isSigned && bit a (t.width - 1) then (a : Int) - (2 ^ t.width : Nat) else a := by
  obtain ⟨n, hn⟩ := Nat.exists_eq_succ_of_ne_zero t.width_pos.ne'
  have htop : bit a n = decide (2 ^ (n + 1) ≤ 2 * a) := by
    rw [hn, Nat.pow_succ] at ha
    have hdiv : a / 2 ^ n < 2 := Nat.div_lt_of_lt_mul ha
    rw [bit, Nat.mod_eq_of_lt hdiv, Nat.pow_succ, decide_eq_decide]
    constructor
    · intro h
      have := Nat.div_mul_le_self a (2 ^ n)
      rw [h] at this
      omega
    · intro h
      have := (Nat.le_div_iff_mul_le (x := 1) (y := a) (by positivity : 0 < 2 ^ n)).mpr (by omega)
      omega
  simp only [Ty.toInt, Nat.mod_eq_of_lt ha]
  rw [hn, Nat.succ_sub_one, htop]

/-- The value of an operand and its bits differ by a multiple of the modulus. -/
theorem Ty.toInt_emod (t : Ty) (x : Nat) : t.toInt x % (2 ^ t.width : Nat) = (x : Int) % (2 ^ t.width : Nat) := by
  simp only [Ty.toInt]
  split <;> simp

/-- Clamping commutes (R108). -/
theorem satInt_eq (t : Ty) (x : Int) : satInt t x = max t.minInt (min x t.maxInt) := by rw [satInt, min_comm]

/-! ## Shifts and rotation (R111) -/

/-- A left shift acts on the bits. -/
theorem wrapBits_shlInt {t : Ty} {x : Int} {a : Nat} (h : x % (2 ^ t.width : Nat) = (a : Int) % (2 ^ t.width : Nat)) (n : Nat) :
    wrapBits t (shlInt t x n) = (if t.width ≤ n then 0 else a * 2 ^ n) % 2 ^ t.width := by
  rw [← wrapBits_natCast]
  refine wrapBits_congr ?_
  unfold shlInt
  split
  · rfl
  · rw [Nat.cast_mul, Int.mul_emod, h, ← Int.mul_emod]

/-- A right shift by the width or more leaves the sign alone, as a division by so much does. -/
theorem shrInt_eq_ediv {t : Ty} {x : Int} (hlo : -(2 ^ t.width : Nat) ≤ x) (hhi : x < (2 ^ t.width : Nat)) (n : Nat) :
    shrInt t x n = x / (2 ^ n : Nat) := by
  unfold shrInt
  split
  next hn =>
    have hpow : 2 ^ t.width ≤ 2 ^ n := Nat.pow_le_pow_right (by decide) hn
    split
    next hneg => exact (Int.ediv_eq_neg_one_of_neg_of_le hneg (by omega)).symm
    next hneg => exact (Int.ediv_eq_zero_of_lt (by omega) (by omega)).symm
  next => rfl

/-- A right shift of a signed type fills with its sign, one of any other type with zeros. -/
theorem wrapBits_shrInt {t : Ty} {a : Nat} (ha : a < 2 ^ t.width) (n : Nat) :
    wrapBits t (shrInt t (t.toInt a) n) = (if t.isSigned && bit a (t.width - 1) then
      (if t.width ≤ n then 2 ^ t.width - 1 else (a + (2 ^ n - 1) * 2 ^ t.width) / 2 ^ n) else (if t.width ≤ n then 0 else a / 2 ^ n)) % 2 ^ t.width := by
  have hw : 0 < 2 ^ t.width := by positivity
  have hn : 0 < 2 ^ n := by positivity
  rw [Ty.toInt_eq ha, ← wrapBits_natCast]
  refine wrapBits_congr ?_
  unfold shrInt
  cases t.isSigned && bit a (t.width - 1) with
  | false =>
    have hnonneg : ¬ (a : Int) < 0 := by omega
    simp only [Bool.false_eq_true, if_false, hnonneg]
    split <;> rfl
  | true =>
    have hneg : (a : Int) - (2 ^ t.width : Nat) < 0 := by omega
    simp only [if_true, hneg]
    split
    next =>
      rw [Nat.cast_sub hw, Nat.cast_one, ← Int.add_emod_right]
      congr 1
    next =>
      have hbits : ((a + (2 ^ n - 1) * 2 ^ t.width : Nat) : Int) = (a - (2 ^ t.width : Nat)) + (2 ^ n : Nat) * (2 ^ t.width : Nat) := by
        rw [Nat.cast_add, Nat.cast_mul, Nat.cast_sub hn]
        ring
      rw [Int.natCast_div, hbits, Int.add_mul_ediv_left _ _ (by omega), Int.add_emod_right]

section
variable {w a k : Nat}

/-- A rotation's two parts lie side by side. -/
theorem rotated_lt (hk : k ≤ w) (ha : a < 2 ^ w) : a / 2 ^ k < 2 ^ (w - k) :=
  Nat.div_lt_of_lt_mul (by rwa [← Nat.pow_add, Nat.add_sub_cancel' hk])

theorem mul_two_pow_mod (hk : k ≤ w) : a * 2 ^ (w - k) % 2 ^ w = 2 ^ (w - k) * (a % 2 ^ k) := by
  rw [← Nat.mul_mod_mul_left, ← Nat.pow_add, Nat.sub_add_cancel hk, Nat.mul_comm]

/-- The bits that a rotation takes off the low end come in at the high end. -/
theorem rotBits_eq (hw : 0 < w) (ha : a < 2 ^ w) (n : Nat) : rotBits w a n = (a + a * 2 ^ w) / 2 ^ (n % w) % 2 ^ w := by
  have hk : n % w ≤ w := (Nat.mod_lt n hw).le
  simp only [rotBits]
  generalize n % w = k at *
  have hlow : a % 2 ^ k < 2 ^ k := Nat.mod_lt _ (by positivity)
  have hhigh := rotated_lt hk ha
  have hpow : 2 ^ w = 2 ^ (w - k) * 2 ^ k := by rw [← Nat.pow_add, Nat.sub_add_cancel hk]
  have hsum : a / 2 ^ k + 2 ^ (w - k) * (a % 2 ^ k) < 2 ^ w := by
    calc a / 2 ^ k + 2 ^ (w - k) * (a % 2 ^ k) < 2 ^ (w - k) * (a % 2 ^ k + 1) := by rw [Nat.mul_succ]; omega
      _ ≤ 2 ^ w := hpow ▸ Nat.mul_le_mul_left _ hlow
  have hdiv : (a + a * 2 ^ w) / 2 ^ k = a / 2 ^ k + a * 2 ^ (w - k) := by
    rw [hpow, ← Nat.mul_assoc, Nat.add_mul_div_right _ _ (by positivity)]
  rw [hdiv, Nat.add_mod, mul_two_pow_mod hk, Nat.mod_eq_of_lt (hhigh.trans_le (Nat.pow_le_pow_right (by decide) (Nat.sub_le _ _))),
    Nat.mod_eq_of_lt hsum, Nat.mul_comm (2 ^ (w - k))]

end

/-! ## The reversal of bits (R111) -/

/-- The reversal of the low `k` bits, at their places among `w`. -/
def reversedLow (w a k : Nat) : Nat := (List.range k).foldl (fun acc i => if bit a i then acc + 2 ^ (w - 1 - i) else acc) 0

theorem reversedLow_succ (w a k : Nat) :
    reversedLow w a (k + 1) = if bit a k then reversedLow w a k + 2 ^ (w - 1 - k) else reversedLow w a k := by
  rw [reversedLow, List.range_succ, List.foldl_append]
  rfl

/-- Each bit comes in below those before it. -/
theorem testBit_reversedLow {w a k : Nat} (hk : k ≤ w) : 2 ^ (w - k) ∣ reversedLow w a k
    ∧ ∀ i, (reversedLow w a k).testBit i = (decide (w - k ≤ i ∧ i < w) && a.testBit (w - 1 - i)) := by
  induction k with
  | zero => exact ⟨dvd_zero _, fun i => by simp [reversedLow]⟩
  | succ k ih =>
    obtain ⟨⟨q, hq⟩, hbits⟩ := ih (by omega)
    have hplace : w - k = w - 1 - k + 1 := by omega
    have hor : reversedLow w a k + 2 ^ (w - 1 - k) = reversedLow w a k ||| 2 ^ (w - 1 - k) := by
      rw [hq]
      exact Nat.two_pow_add_eq_or_of_lt (Nat.pow_lt_pow_right (by decide) (by omega)) q
    have hdvd : 2 ^ (w - (k + 1)) ∣ reversedLow w a k := hq ▸ Dvd.dvd.mul_right (Nat.pow_dvd_pow 2 (by omega)) q
    have hat (i : Nat) (hi : w - 1 - k ≠ i) : (w - (k + 1) ≤ i ∧ i < w) = (w - k ≤ i ∧ i < w) := by
      rw [eq_iff_iff]
      omega
    have hself : w - 1 - (w - 1 - k) = k := by omega
    rw [reversedLow_succ, bit_eq_testBit]
    refine ⟨?_, fun i => ?_⟩
    · split
      · exact (Nat.dvd_add_right hdvd).mpr (Nat.pow_dvd_pow 2 (by omega))
      · exact hdvd
    · have hset : (if a.testBit k then reversedLow w a k + 2 ^ (w - 1 - k) else reversedLow w a k).testBit i
          = ((reversedLow w a k).testBit i || a.testBit k && decide (w - 1 - k = i)) := by
        cases a.testBit k <;> simp [hor, Nat.testBit_two_pow]
      rw [hset, hbits]
      by_cases hi : w - 1 - k = i
      · subst hi
        cases hb : a.testBit k <;> simp [hself, hb]
        omega
      · simp only [hi, hat i hi, decide_false, Bool.and_false, Bool.or_false]

theorem bit_reverseBits {w a i : Nat} (hi : i < w) : bit (reverseBits w a) i = a.testBit (w - 1 - i) := by
  rw [bit_eq_testBit, show reverseBits w a = reversedLow w a w from rfl, (testBit_reversedLow le_rfl).2]
  simp [hi]

/-! ## 32-bit words (R111) -/

section
variable (x : Word)

theorem wrapBits_sub_n32 (y : Word) : wrapBits .n32 ((x.toNat : Int) - y.toNat) = (x - y).toNat := by
  have hy := y.isLt
  rw [BitVec.toNat_sub]
  simp only [wrapBits, Ty.width]
  omega

theorem wrapBits_mulHigh_i32 (y : Word) :
    wrapBits .i32 (mulHigh .i32 x.toInt y.toInt) = ((x.signExtend 64 * y.signExtend 64).extractLsb' 32 32).toNat := by
  rw [BitVec.signExtend, BitVec.signExtend, ← BitVec.ofInt_mul, BitVec.extractLsb'_toNat, BitVec.toNat_ofInt, Nat.shiftRight_eq_div_pow]
  unfold wrapBits mulHigh
  simp only [Ty.width]
  generalize x.toInt * y.toInt = z
  omega

theorem wrapBits_shlInt_n32 (n : Nat) : wrapBits .n32 (shlInt .n32 x.toNat n) = (x <<< n).toNat := by
  rw [wrapBits_shlInt rfl, BitVec.toNat_shiftLeft, Nat.shiftLeft_eq]
  split
  next hn => exact (Nat.mod_eq_zero_of_dvd (Dvd.dvd.mul_left (Nat.pow_dvd_pow 2 hn) _)).symm
  next => rfl

theorem wrapBits_shrInt_n32 (n : Nat) : wrapBits .n32 (shrInt .n32 x.toNat n) = (x >>> n).toNat := by
  rw [shrInt_eq_ediv (le_trans (by simp) (Int.natCast_nonneg _)) (by exact_mod_cast x.isLt), ← Int.natCast_div, wrapBits_natCast, BitVec.toNat_ushiftRight, Nat.shiftRight_eq_div_pow]
  exact Nat.mod_eq_of_lt ((Nat.div_le_self _ _).trans_lt x.isLt)

theorem wrapBits_shrInt_i32 (n : Nat) : wrapBits .i32 (shrInt .i32 x.toInt n) = (x.sshiftRight n).toNat := by
  have hlo := x.le_toInt
  have hhi := x.toInt_lt
  have hwidth : Ty.i32.width = 32 := rfl
  rw [shrInt_eq_ediv (by rw [hwidth]; omega) (by rw [hwidth]; omega), wrapBits_ofInt hwidth, BitVec.sshiftRight, Int.shiftRight_eq_div_pow]

theorem rotBits_32 (n : Nat) : rotBits 32 x.toNat n = (x.rotateRight n).toNat := by
  have hk : n % 32 ≤ 32 := (Nat.mod_lt n (by decide)).le
  rw [BitVec.toNat_rotateRight, Nat.shiftLeft_eq, mul_two_pow_mod hk, Nat.shiftRight_eq_div_pow, Nat.or_comm,
    ← Nat.two_pow_add_eq_or_of_lt (rotated_lt hk x.isLt), rotBits, Nat.add_comm, Nat.mul_comm]

theorem leadZeros_32 : leadZeros 32 x.toNat = x.clz.toNat := by
  unfold leadZeros
  split
  next h0 =>
    obtain rfl : x = 0#32 := BitVec.eq_of_toNat_eq h0
    decide
  next h0 =>
    have hx : x ≠ 0#32 := fun h => h0 (by rw [h]; rfl)
    have hlow := BitVec.two_pow_sub_clz_le_toNat_of_ne_zero (by decide) hx
    have hhigh := x.toNat_lt_two_pow_sub_clz
    have hclz : x.clz.toNat < 32 := BitVec.clz_lt_iff_ne_zero.mpr hx
    rw [(Nat.log2_eq_iff h0).mpr ⟨hlow, by convert hhigh using 2; omega⟩]
    omega

theorem bfeBits_n32 {p n : Nat} (hp : p < 32) (hn : 0 < n) (hfit : n ≤ 32 - p) : bfeBits .n32 x.toNat p n = (x.extractLsb' p n).toNat := by
  have hwidth : fieldWidth 32 p n = n := by simp only [fieldWidth, if_neg (Nat.not_le.mpr hp), Nat.min_eq_left hfit]
  have hn0 : n ≠ 0 := hn.ne'
  have htop : p + n - 1 + 1 - p = n := by omega
  simp [bfeBits, Ty.width, Ty.isSigned, hwidth, hn0, bitsOf, htop, BitVec.extractLsb'_toNat, Nat.shiftRight_eq_div_pow]

end

end Sys2Proof.Machine

namespace Sys2Proof.Proofs

open Sys2Proof Sys2Proof.Machine

/-- Settles O12: each instruction's last step is R111's, and the wrapped result of each operation on words is that of BitVec. -/
theorem integerArithmetic : Obligations.IntegerArithmetic := by
  unfold Obligations.IntegerArithmetic
  constructor
  · intro e
    have habs (a : Int) : (if a < 0 then -a else a) = a.natAbs := by split <;> omega
    simp only [← satInt_eq, ← min_def, ← max_def, habs]
    exact ⟨performs_of rfl (exec_intAdd e) fun _ h => h ▸ rfl, performs_of rfl (exec_intSub e) fun _ h => h ▸ rfl,
      performs_of rfl (exec_intMul e) fun _ h => h ▸ rfl, performs_of rfl (exec_mulhi e) fun _ h => h ▸ rfl,
      performs_of rfl (exec_mad e) fun _ h => h ▸ rfl, performs_of rfl (exec_intMin e) fun _ h => h ▸ rfl,
      performs_of rfl (exec_intMax e) fun _ h => h ▸ rfl, performs_of rfl (exec_intAbs e) fun _ h => h ▸ rfl,
      performs_of rfl (exec_intNeg e) fun _ h => h ▸ rfl⟩
  · intro x y n
    exact ⟨(wrapBits_natCast .n32 (x.toNat + y.toNat)).trans (BitVec.toNat_add x y).symm, wrapBits_sub_n32 x y,
      (wrapBits_natCast .n32 (x.toNat * y.toNat)).trans (BitVec.toNat_mul x y).symm, wrapBits_mulHigh_i32 x y, wrapBits_shlInt_n32 x n,
      wrapBits_shrInt_n32 x n, wrapBits_shrInt_i32 x n, rotBits_32 x n, BitVec.toNat_not.symm, fun p w => bfeBits_n32 x, leadZeros_32 x,
      fun i hi => bit_reverseBits hi⟩

end Sys2Proof.Proofs

/-! SUPPORT. What the check of R103 says of an instruction's type, and that an operand read at an integer or raw type lies in its width
(R88-R92, R102, R108): the lemmas of O13, O19 and O21. -/

namespace Sys2Proof.Machine

open Sys2Proof

/-! ## What is known of an instruction that reaches its meaning -/

/-- As `performs_of`, where what the meaning answers follows from the checks of R95 and R103. -/
theorem performs_of_issued {i : Instr} {op : BitVec 8} {e : Enc} {f : Cx → State} {body : Cx → Res} (hc : i.code = some (op, e))
    (hx : ∀ s, exec i s = simt op.toNat e s body) (hb : ∀ s c, Issued op.toNat e s c → body c = .done (f c)) : Performs i f := by
  intro op' e' s c h hi
  cases hc.symm.trans h
  rw [hx, simt_done hi (hb s c hi)]

/-- The type of a word that R103 lets pass is one that its opcode allows (R102). -/
theorem typeOf_of_modifierOk {sh : Shape} {e : Enc} (h : modifierOk sh e = true) (htypes : sh.types ≠ []) :
    typeOf e = some (tyOf e) ∧ tyOf e ∈ sh.types ++ sh.scalar := by
  have hempty : sh.types.isEmpty = false := by simpa using htypes
  simp only [modifierOk, hempty, Bool.false_and, Bool.false_or, Bool.and_eq_true] at h
  cases ht : typeOf e with
  | none => simp [ht] at h
  | some t =>
    simp only [ht, Bool.or_eq_true, Bool.and_eq_true, List.contains_iff_mem] at h
    simp only [tyOf, ht, Option.getD_some, true_and, List.mem_append]
    exact h.2.imp_right And.left

theorem typeOf_of_issued {op : Nat} {e : Enc} {s : State} {c : Cx} (h : Issued op e s c) (htypes : (opShape op e).types ≠ []) :
    typeOf e = some (tyOf e) ∧ tyOf e ∈ (opShape op e).types ++ (opShape op e).scalar := by
  obtain ⟨_, _, _, _, _, _, -, -, -, -, -, hmod, -, -, -⟩ := h
  exact typeOf_of_modifierOk hmod htypes

/-- Two ways of saying each lane's result. -/
theorem Cx.done_writeLanes_congr (c : Cx) (wide : Bool) {f g : Nat → Nat} (h : ∀ l, f l = g l) :
    Res.done (c.writeLanes wide f) = .done (c.writeLanes wide g) := by rw [funext h]

/-! ## Operands of integer and raw types (R88, R90-R92) -/

theorem mod_two_pow_lt (x n : Nat) : x % 2 ^ n < 2 ^ n := Nat.mod_lt _ (by positivity)

section
variable {t : Ty} (ht : t.fmt = none)
include ht

theorem inlineBits_lt (x : Sel) : inlineBits t x < 2 ^ t.width := by
  unfold inlineBits
  split
  next i =>
    simp only [ht]
    have := Int.emod_nonneg i (b := (2 ^ t.width : Nat)) (by positivity)
    have := Int.emod_lt_of_pos i (b := (2 ^ t.width : Nat)) (by positivity)
    omega
  next n =>
    simp only [ht]
    exact mod_two_pow_lt _ _
  next => positivity

theorem Cx.extBits_lt (c : Cx) : c.extBits t < 2 ^ t.width := by
  unfold Cx.extBits
  split
  next => positivity
  next =>
    split
    · dsimp only
      split
      next h => subst h; exact BitVec.isLt _
      next => exact mod_two_pow_lt _ _
    · split
      next h => rw [h]; exact BitVec.isLt _
      next => exact mod_two_pow_lt _ _
    · exact mod_two_pow_lt _ _

theorem Cx.src_lt (c : Cx) (x : BitVec 10) (l : Nat) : c.src x t l < 2 ^ t.width := by
  unfold Cx.src
  dsimp only
  split
  next n _ =>
    split
    next h =>
      rw [h]
      have := (c.w.vget (n + 1) l).isLt
      have := (c.w.vget n l).isLt
      omega
    next => exact mod_two_pow_lt _ _
  next n =>
    split
    next h => rw [h]; exact BitVec.isLt _
    next => exact mod_two_pow_lt _ _
  next => exact mod_two_pow_lt _ _
  next => exact mod_two_pow_lt _ _
  next => exact c.extBits_lt ht
  next => exact inlineBits_lt ht _

end

end Sys2Proof.Machine

namespace Sys2Proof.Proofs

open Sys2Proof Sys2Proof.Machine

/-- Settles O13: shifts and rotations act on the operands' bits, and the other instructions are R111's to R114's as they stand. -/
theorem logicShiftsAndFields : Obligations.LogicShiftsAndFields := by
  unfold Obligations.LogicShiftsAndFields
  refine ⟨fun e => ?_, fun e => ?_⟩
  · have hint : ∀ t ∈ [Ty.b32, .n32, .i32, .b64, .n64, .i64], t.fmt = none := by decide
    have hraw : ∀ t ∈ [Ty.b32, .b64], t.fmt = none := by decide
    refine ⟨performs_of rfl (exec_andOp e) fun _ h => h ▸ rfl, performs_of rfl (exec_orOp e) fun _ h => h ▸ rfl,
      performs_of rfl (exec_xorOp e) fun _ h => h ▸ rfl, performs_of rfl (exec_notOp e) fun _ h => h ▸ rfl, ?shl, ?shr, ?rot, ?popc,
      performs_of rfl (exec_clz e) fun _ h => h ▸ rfl, performs_of rfl (exec_ctz e) fun _ h => h ▸ rfl,
      performs_of rfl (exec_brev e) fun _ h => h ▸ rfl⟩
    case shl =>
      refine performs_of rfl (exec_shl e) ?_
      rintro c rfl
      exact c.done_writeLanes_congr _ fun l => wrapBits_shlInt (Ty.toInt_emod _ _) _
    case shr =>
      refine performs_of_issued rfl (exec_shr e) fun s c h => ?_
      have hfmt := hint _ (typeOf_of_issued h (List.cons_ne_nil _ _)).2
      obtain rfl := issued_e h
      exact c.done_writeLanes_congr _ fun l => wrapBits_shrInt (c.src_lt hfmt _ _) _
    case rot =>
      refine performs_of_issued rfl (exec_rot e) fun s c h => ?_
      have hfmt := hraw _ (typeOf_of_issued h (List.cons_ne_nil _ _)).2
      obtain rfl := issued_e h
      exact c.done_writeLanes_congr _ fun l => rotBits_eq (Ty.width_pos _) (c.src_lt hfmt _ _) _
    case popc =>
      refine performs_of rfl (exec_popc e) ?_
      rintro c rfl
      exact c.done_writeLanes_congr _ fun l => congrArg (· % _) List.countP_eq_length_filter
  · refine ⟨performs_of rfl (exec_bfe e) fun _ h => h ▸ rfl, ?bfi, ?sel,
      performs_of rfl (exec_mov e) fun _ h => h ▸ rfl, performs_of rfl (exec_lea e) fun _ h => h ▸ rfl,
      performs_of rfl (exec_perm e) fun _ h => h ▸ rfl, performs_of rfl (exec_shf e) fun _ h => h ▸ rfl⟩
    case bfi =>
      refine performs_of rfl (exec_bfi e) ?_
      rintro c rfl
      refine c.done_writeLanes_congr _ fun l => ?_
      simp [bitsOf]
    case sel =>
      refine performs_of rfl (exec_sel e) ?_
      rintro c rfl
      refine c.done_writeLanes_congr _ fun l => ?_
      change (if (if c.vec then (c.kreg c.e.c).getLsbD l = true else c.kreg c.e.c &&& c.w.k0 ≠ 0#32) then _ else _) = _
      beta_reduce
      cases c.vec <;> simp

end Sys2Proof.Proofs

/-! SUPPORT. Compares and class (R115, R119, R121): what a compare makes of its k register, and the conditions as the order of their
operands: the lemmas of O14. -/

namespace Sys2Proof.Machine

open Sys2Proof

/-- What a compare leaves: in vector form the lanes with lane_on have taken their conditions, in scalar form the register is all ones or 0. -/
def Cx.compared (c : Cx) (f : Nat → Bool) : State :=
  match Dst.of c.e.dst with
  | .k n => c.s.updWave c.wid (fun w => w.kset n
      (if c.vec then (c.w.kget n &&& ~~~c.lanes) ||| (c.lanes &&& laneMask f) else if f c.lane0 then 0xFFFFFFFF#32 else 0#32))
  | _ => c.s

theorem cmpResult_eq (c : Cx) (f : Nat → Bool) : cmpResult c f = .done (c.compared f) := by
  unfold cmpResult Cx.compared
  cases Dst.of c.e.dst <;> simp only [maskInsert, BitVec.and_comm (laneMask f)]

/-- The lanes whose sets class reads (R119). -/
def Cx.acting (c : Cx) : List Nat := if c.vec then lanesOf c.lanes else [c.lane0]

theorem Cx.mem_acting {c : Cx} {l : Nat} :
    l ∈ c.acting ↔ (if c.vec then decide (l < 32) && c.lanes.getLsbD l else decide (l = c.lane0)) = true := by
  unfold Cx.acting
  cases c.vec <;> simp [mem_lanesOf]

theorem condInt_iff {c : Nat} (hc : c < 6) (x y : Int) : condInt c x y = true ↔
    (c = 0 ∧ x = y) ∨ (c = 1 ∧ x ≠ y) ∨ (c = 2 ∧ x < y) ∨ (c = 3 ∧ x ≤ y) ∨ (c = 4 ∧ x > y) ∨ (c = 5 ∧ x ≥ y) := by
  interval_cases c <;> simp [condInt]

theorem condFp_nan {x y : Fp} (h : x = .nan ∨ y = .nan) (c : Nat) : condFp c x y = true ↔ c = 1 ∨ c = 6 := by
  have hnan : (decide (x = .nan) || decide (y = .nan)) = true := by simpa using h
  simp [condFp, hnan]

/-- Without a NaN, values are equal when neither lies below the other (R121). -/
theorem Fp.eq_of_ne_nan {x y : Fp} (hx : x ≠ .nan) (hy : y ≠ .nan) : Fp.eq x y = (!Fp.lt x y && !Fp.lt y x) := by
  cases x with
  | nan => exact absurd rfl hx
  | _ => cases y with
    | nan => exact absurd rfl hy
    | _ => rfl

end Sys2Proof.Machine

namespace Sys2Proof.Proofs

open Sys2Proof Sys2Proof.Machine

/-- Settles O14: cmp and class write a k register alike, class after a check of its acting lanes' sets. -/
theorem comparesWriteMasks : Obligations.ComparesWriteMasks := by
  unfold Obligations.ComparesWriteMasks
  refine ⟨fun e => ⟨?intCmp, ?fpCmp, ?classIn, ?classOut⟩, fun c x y hc => condInt_iff hc x y, fun c x y h => condFp_nan h c,
    fun x y hx hy => ?_, by decide +kernel⟩
  case intCmp => exact performs_of rfl (exec_intCmp e) fun c h => h ▸ cmpResult_eq c _
  case fpCmp => exact performs_of rfl (exec_fpCmp e) fun c h => h ▸ cmpResult_eq c _
  case classIn =>
    refine ends_of rfl (exec_classOp e) ?_
    rintro c rfl hin
    have hsmall : c.acting.any (fun l => decide (1024 ≤ c.src c.e.b .b32 l)) = false :=
      List.any_eq_false.mpr fun l hl => by simpa using hin l (Cx.mem_acting.mp hl)
    exact (if_neg (ne_true_of_eq_false hsmall)).trans (cmpResult_eq c _)
  case classOut =>
    refine ends_of rfl (exec_classOp e) ?_
    rintro c rfl ⟨l, hl, hbig⟩
    have hany : c.acting.any (fun l => decide (1024 ≤ c.src c.e.b .b32 l)) = true :=
      List.any_eq_true.mpr ⟨l, Cx.mem_acting.mpr hl, decide_eq_true hbig⟩
    exact if_pos hany
  · simp +contextual [condFp, hx, hy, Fp.eq_of_ne_nan]

end Sys2Proof.Proofs

/-! SUPPORT. Floating arithmetic, and min and max on codes (R117, R118): a NaN in a sum of a product, the order of values and which operand
min and max take: the lemmas of O15 and O16. -/

namespace Sys2Proof.Machine

open Sys2Proof

/-! ## fma (R117) -/

theorem Fp.mul_nan (a : Fp) : Fp.mul a .nan = .nan := by cases a <;> rfl
theorem Fp.add_nan (m : Rnd) (a : Fp) : Fp.add m a .nan = .nan := by cases a <;> rfl

/-- A NaN passes through a product and a sum, so fma needs no case for it. -/
theorem fpFma_eq_add (m : Rnd) (a b x : Fp) : fpFma m a b x = Fp.add m (Fp.mul a b) x := by
  cases x with
  | nan => rw [Fp.add_nan]; cases a <;> cases b <;> rfl
  | _ =>
    cases b with
    | nan => rw [Fp.mul_nan]; cases a <;> rfl
    | _ => cases a <;> rfl

/-! ## The order of values (R118) -/

/-- A sum of one number and the negation of another is the negation of the sum the other way round. -/
theorem Dy.add_neg_m (x y : Dy) : (x.add ⟨-y.m, y.e⟩).m = -(y.add ⟨-x.m, x.e⟩).m := by
  unfold Dy.add
  by_cases hx : x.m = 0
  · by_cases hy : y.m = 0 <;> simp [hx, hy]
  · by_cases hy : y.m = 0
    · simp [hx, hy]
    · simp only [hx, hy, Int.neg_eq_zero, if_false]
      split
      next hle =>
        split
        next hge =>
          obtain h : x.e = y.e := le_antisymm hle hge
          simp [h]
        next => simp
      next hlt =>
        rw [if_pos (by omega)]
        ring

theorem Dy.lt_asymm {x y : Dy} (h : Dy.lt x y = true) : Dy.lt y x = false := by
  simp only [Dy.lt, decide_eq_true_eq, decide_eq_false_iff_not] at h ⊢
  rw [Dy.add_neg_m] at h
  omega

theorem Fp.lt_asymm {a b : Fp} (h : Fp.lt a b = true) : Fp.lt b a = false := by
  cases a with
  | nan => cases h
  | inf n => cases b with
    | nan => rfl
    | inf k => cases n <;> cases k <;> simp_all [Fp.lt]
    | fin k q f => cases n <;> simp_all [Fp.lt]
  | fin n p e => cases b with
    | nan => rfl
    | inf k => cases k <;> simp_all [Fp.lt]
    | fin k q f => exact Dy.lt_asymm h

theorem Fp.lt_irrefl (a : Fp) : Fp.lt a a = false := by
  cases h : Fp.lt a a with
  | false => rfl
  | true => exact h.symm.trans (Fp.lt_asymm h)

theorem Fp.lt_of_isZero {a b : Fp} (ha : a.isZero = true) (hb : b.isZero = true) : Fp.lt a b = false := by
  unfold Fp.isZero at ha hb
  split at ha
  next n e =>
    split at hb
    next k f => cases n <;> cases k <;> simp [Fp.lt, Dy.lt, Fp.dy, Dy.add]
    next => cases hb
  next => cases ha

theorem Fp.ne_nan_of_isZero {a : Fp} (ha : a.isZero = true) : a ≠ .nan := by rintro rfl; cases ha

/-! ### Ranking with the signs of zeros (R118) -/

/-- `b` ranks beyond `a`: above it for max, below it for min. -/
def Fp.beyond (hi : Bool) (a b : Fp) : Bool := if hi then Fp.below a b else Fp.below b a

section
variable {hi : Bool} {a b : Fp}

/-- Of two zeros the negative one ranks lower. -/
theorem Fp.below_of_isZero (ha : a.isZero = true) (hb : b.isZero = true) : Fp.below a b = (a.neg? && !b.neg?) := by
  simp [Fp.below, Fp.lt_of_isZero, Fp.eq_of_ne_nan, Fp.ne_nan_of_isZero, ha, hb]

theorem Fp.beyond_of_isZero (ha : a.isZero = true) (hb : b.isZero = true) : Fp.beyond hi a b = (a.neg? == hi && b.neg? == !hi) := by
  cases hi <;> simp [Fp.beyond, Fp.below_of_isZero, ha, hb, Bool.and_comm]

theorem Fp.lt_of_below (ha : a ≠ .nan) (hb : b ≠ .nan) (h : Fp.below a b = true) : Fp.lt b a = false := by
  simp only [Fp.below, Fp.eq_of_ne_nan ha hb, Bool.or_eq_true, Bool.and_eq_true, Bool.not_eq_true'] at h
  rcases h with hlt | ⟨⟨⟨⟨⟨-, hba⟩, -⟩, -⟩, -⟩, -⟩
  · exact Fp.lt_asymm hlt
  · exact hba

theorem Fp.lt_of_not_below (h : Fp.below a b = false) : Fp.lt a b = false := by
  simp only [Fp.below, Bool.or_eq_false_iff] at h
  exact h.1

/-- A value beyond another has it not beyond itself. -/
theorem Fp.lt_of_beyond (ha : a ≠ .nan) (hb : b ≠ .nan) (h : Fp.beyond hi a b = true) :
    (if hi then Fp.lt b a else Fp.lt a b) = false := by
  cases hi with
  | false => exact Fp.lt_of_below hb ha h
  | true => exact Fp.lt_of_below ha hb h

theorem Fp.lt_of_not_beyond (h : Fp.beyond hi a b = false) : (if hi then Fp.lt a b else Fp.lt b a) = false := by
  cases hi with
  | false => exact Fp.lt_of_not_below h
  | true => exact Fp.lt_of_not_below h

end

/-! ## min and max on codes (R118) -/

section
variable {F : Fmt} {hi : Bool} {a b : Nat}

theorem Fmt.minMax_nan_nan (ha : F.value a = .nan) (hb : F.value b = .nan) : F.minMax hi a b = F.canonNan := by
  simp only [Fmt.minMax, ha, hb]

theorem Fmt.minMax_nan_left (ha : F.value a = .nan) (hb : F.value b ≠ .nan) : F.minMax hi a b = b := by
  simp only [Fmt.minMax, ha]

theorem Fmt.minMax_nan_right (ha : F.value a ≠ .nan) (hb : F.value b = .nan) : F.minMax hi a b = a := by
  simp only [Fmt.minMax, hb]

/-- Between values the second is taken when it ranks beyond the first. -/
theorem Fmt.minMax_of_ne_nan (ha : F.value a ≠ .nan) (hb : F.value b ≠ .nan) : F.minMax hi a b
    = if Fp.beyond hi (F.value a) (F.value b) then b else a := by
  unfold Fmt.minMax
  split
  next hx _ => exact absurd hx ha
  next hx _ => exact absurd hx ha
  next hy _ => exact absurd hy hb
  next => cases hi <;> rfl

end

end Sys2Proof.Machine

namespace Sys2Proof.Proofs

open Sys2Proof Sys2Proof.Machine

/-- Settles O15: each meaning rounds its exact result once, fma's being the sum of an exact product. -/
theorem floatingArithmetic : Obligations.FloatingArithmetic := by
  unfold Obligations.FloatingArithmetic
  intro e
  simp only [← fpFma_eq_add]
  exact ⟨performs_of rfl (exec_fpAdd e) fun _ h => h ▸ rfl, performs_of rfl (exec_fpSub e) fun _ h => h ▸ rfl,
    performs_of rfl (exec_fpMul e) fun _ h => h ▸ rfl, performs_of rfl (exec_fma e) fun _ h => h ▸ rfl,
    performs_of rfl (exec_rcp e) fun _ h => h ▸ rfl, performs_of rfl (exec_rsq e) fun _ h => h ▸ rfl,
    performs_of rfl (exec_sqe e) fun _ h => h ▸ rfl, performs_of rfl (exec_exp2 e) fun _ h => h ▸ rfl,
    performs_of rfl (exec_log2 e) fun _ h => h ▸ rfl⟩

/-- Settles O16: the signs and the integral values as they stand; min and max by the ranking, which is asymmetric. -/
theorem signsExtremesAndIntegralValues : Obligations.SignsExtremesAndIntegralValues := by
  unfold Obligations.SignsExtremesAndIntegralValues
  refine ⟨fun e => ⟨performs_of rfl (exec_fpMin e) fun _ h => h ▸ rfl, performs_of rfl (exec_fpMax e) fun _ h => h ▸ rfl,
    performs_of rfl (exec_fpAbs e) fun _ h => h ▸ rfl, performs_of rfl (exec_fpNeg e) fun _ h => h ▸ rfl,
    performs_of rfl (exec_rnd e) fun _ h => h ▸ rfl⟩,
    fun F hi a b => ⟨Fmt.minMax_nan_nan, Fmt.minMax_nan_left, Fmt.minMax_nan_right, fun ha hb => ?_⟩⟩
  dsimp only
  rw [Fmt.minMax_of_ne_nan ha hb]
  have hself (x : Nat) : (if hi then Fp.lt (F.value x) (F.value x) else Fp.lt (F.value x) (F.value x)) = false := by
    rw [ite_self, Fp.lt_irrefl]
  cases hbeyond : Fp.beyond hi (F.value a) (F.value b) with
  | true =>
    rw [if_pos rfl]
    refine ⟨.inr rfl, List.forall_mem_cons.mpr ⟨Fp.lt_of_beyond ha hb hbeyond, List.forall_mem_singleton.mpr (hself b)⟩, fun hza hzb hne => ?_⟩
    rw [Fp.beyond_of_isZero hza hzb, Bool.and_eq_true, beq_iff_eq, beq_iff_eq] at hbeyond
    exact hbeyond.2
  | false =>
    rw [if_neg Bool.false_ne_true]
    refine ⟨.inl rfl, List.forall_mem_cons.mpr ⟨hself a, List.forall_mem_singleton.mpr (Fp.lt_of_not_beyond hbeyond)⟩, fun hza hzb hne => ?_⟩
    rw [Fp.beyond_of_isZero hza hzb] at hbeyond
    revert hbeyond hne
    generalize (F.value a).neg? = x, (F.value b).neg? = y
    clear hself
    revert hi x y
    decide

end Sys2Proof.Proofs

/-! SUPPORT. Shuffles, masks, the generator and the merge step (R127, R128, R131, R201, R202): the lanes of a mask as a list, and that a merge
step has a lane to act in: the lemmas of O19 and O21. -/

namespace Sys2Proof.Machine

open Sys2Proof

/-- A source lane out of range, or out of %exec, supplies nothing (R127). -/
theorem shuffle_eq (c : Cx) (source : Nat → Nat → Int) : shuffle c source = .done (c.writeLanes false (fun l =>
    let j := source l (c.src c.e.b .n32 l)
    if 0 ≤ j ∧ j < 32 ∧ c.w.exec.getLsbD j.toNat = true then c.src c.e.a .b32 j.toNat else c.src c.e.a .b32 l)) := by
  simp only [shuffle, Bool.and_eq_true, decide_eq_true_eq, and_assoc]

theorem popCount_32 (x : Word) : popCount 32 x.toNat = ((List.range 32).filter (fun i => x.getLsbD i)).length := by
  simp only [popCount, List.countP_eq_length_filter, bit_eq_testBit, BitVec.testBit_toNat]

theorem trailZeros_32 (x : Word) : trailZeros 32 x.toNat = ((List.range 32).find? (fun i => x.getLsbD i)).getD 32 := by
  simp only [trailZeros, bit_eq_testBit, BitVec.testBit_toNat]

theorem lowestLane_eq (m : LaneMask) : lowestLane m = (List.range 32).find? (fun l => m.getLsbD l) := by
  rw [lowestLane, lanesOf, List.head?_filter]

theorem lanesOf_ne_nil {m : LaneMask} (h : m ≠ 0#32) : lanesOf m ≠ [] := by
  contrapose! h
  refine BitVec.eq_of_getLsbD_eq fun l hl => ?_
  have hnot : l ∉ lanesOf m := h ▸ List.not_mem_nil
  simpa [mem_lanesOf, hl] using hnot

theorem getLast?_of_ne_nil {ls : List Nat} (h : ls ≠ []) : ls.getLast? = some (ls.getLastD 0) := by
  rw [List.getLastD_eq_getLast?, List.getLast?_eq_some_getLast h]
  rfl

/-- An instruction that is performed whole has a lane of k0 to act in (R95). -/
theorem active_ne_zero_of_issued {op : Nat} {e : Enc} {s : State} {c : Cx} (h : Issued op e s c) (halways : op ≠ 0x52 ∧ op ≠ 0x81 ∧ op ≠ 0x51)
    (hwhole : ∀ vec, wholeForm op vec = false) (hlane : laneForm op = false) : c.active ≠ 0#32 := by
  obtain ⟨_, _, _, _, _, _, -, -, -, -, -, -, hp, -, rfl⟩ := h
  simpa [isPerformed, halways, hwhole, hlane, Cx.active] using hp

/-- The null value matches nothing, as a lane without a match does (R202). -/
theorem matched_eq (a : Nat) (lane : Option Nat) : (if a = 0xFFFFFFFF then 0xFFFFFFFF else lane.getD 0xFFFFFFFF)
    = match lane with | some j => if a = 0xFFFFFFFF then 0xFFFFFFFF else j | none => 0xFFFFFFFF := by
  cases lane <;> simp

theorem ctrgFloat_eq (c k : Word) : ctrgFloat c k = (Fmt.f32.roundExact .rn 0
    (if (ctrgWord c k).toNat / 256 = 0 then .zero false else .real false ((ctrgWord c k).toNat / 256) 1 (-24))).code := by
  unfold ctrgFloat
  dsimp only
  split <;> rfl

end Sys2Proof.Machine

namespace Sys2Proof.Proofs

open Sys2Proof Sys2Proof.Machine

/-- Settles O19: the check of R103 fixes the type, and every shuffle takes its source lane alike. -/
theorem shufflesSelectSourceLanes : Obligations.ShufflesSelectSourceLanes := by
  unfold Obligations.ShufflesSelectSourceLanes
  intro e
  dsimp only
  refine ⟨fun op s c hlo hhi h => ?_, performs_of rfl (exec_quadXor e) fun c h => h ▸ shuffle_eq c _,
    performs_of rfl (exec_quadBc e) fun c h => h ▸ shuffle_eq c _, performs_of rfl (exec_shflIdx e) fun c h => h ▸ shuffle_eq c _,
    performs_of rfl (exec_shflUp e) fun c h => h ▸ shuffle_eq c _, performs_of rfl (exec_shflDn e) fun c h => h ▸ shuffle_eq c _,
    performs_of rfl (exec_shflXor e) fun c h => h ▸ shuffle_eq c _⟩
  have htypes : (opShape op e).types = [.b32] ∧ (opShape op e).scalar = [] := by interval_cases op <;> exact ⟨rfl, rfl⟩
  obtain ⟨ht, hmem⟩ := typeOf_of_issued h (by simp [htypes])
  simp only [htypes, List.append_nil, List.mem_singleton] at hmem
  rw [ht, hmem]
/-- Settles O21: the masks lane by lane; a merge step that is performed has a lane, so it has a last one. -/
theorem masksGeneratorAndMergeStep : Obligations.MasksGeneratorAndMergeStep := by
  unfold Obligations.MasksGeneratorAndMergeStep
  refine ⟨fun e => ?_, fun e => ?_⟩
  · dsimp only
    refine ⟨fun s c h => ?ballot, ?kop, ?kpopc, ?kffs, ?matchOp⟩
    case ballot =>
      obtain rfl := issued_e h
      exact (exec_ballot _ s).trans (simt_done h rfl)
    case kop => exact performs_of rfl (exec_kop e) fun _ h => h ▸ rfl
    case kpopc =>
      simp only [← popCount_32]
      exact performs_of rfl (exec_kpopc e) fun _ h => h ▸ rfl
    case kffs =>
      simp only [← trailZeros_32]
      exact performs_of rfl (exec_kffs e) fun _ h => h ▸ rfl
    case matchOp =>
      refine performs_of rfl (exec_matchOp e) ?_
      rintro c rfl
      rw [lowestLane_eq]
      cases (List.range 32).find? (fun l => c.active.getLsbD l) <;> rfl
  · dsimp only
    refine ⟨?ctrg, ?isect⟩
    case ctrg =>
      simp only [← ctrgFloat_eq]
      exact performs_of rfl (exec_ctrg e) fun _ h => h ▸ rfl
    case isect =>
      refine performs_of_issued rfl (exec_isect e) fun s c h => ?_
      have hlast := getLast?_of_ne_nil (lanesOf_ne_nil (active_ne_zero_of_issued h (by decide) (fun _ => rfl) rfl))
      obtain rfl := issued_e h
      dsimp only
      rw [hlast]
      simp only [matched_eq, List.countP_eq_length_filter]
      rfl

end Sys2Proof.Proofs

/-! SUPPORT. Control flow (R132-R135): that a loop has an s register and no extension word, and what split and br make of the mask and the
place in the program: the lemmas of O22, O23 and O24. -/

namespace Sys2Proof.Machine

open Sys2Proof

/-! ## The word of a loop (R88, R103, R134) -/

/-- The selectors of the s registers (R90). -/
theorem sel_s_iff {x : BitVec 10} {n : Nat} : Sel.of x = .s n ↔ x.toNat = 256 + n ∧ n < 128 := by
  simp only [Sel.of]
  constructor
  · intro h
    split_ifs at h
    injection h
    omega
  · rintro ⟨h, hn⟩
    rw [if_neg (by omega), if_pos (by omega), h, Nat.add_sub_cancel_left]

theorem ne_of_sel_s {x y : BitVec 10} {n : Nat} (h : Sel.of x = .s n) (hy : 384 ≤ y.toNat) : x ≠ y := by
  obtain ⟨hx, hn⟩ := sel_s_iff.mp h
  rintro rfl
  omega

/-- A field that takes an s register holds one. -/
theorem sel_of_srcOk_s {nv ns : Nat} {e : Enc} {x : BitVec 10} (h : srcOk nv ns e .s x = true) : ∃ n, Sel.of x = .s n := by
  cases hx : Sel.of x with
  | s n => exact ⟨n, rfl⟩
  | _ => simp [srcOk, hx] at h

theorem opShape_loop (e : Enc) : opShape 0x53 e = { branch := true, offset := true, a := .s, modOk := zeroMod e } := rfl

/-- What R103 says of the operands A and B, and of the extension word. -/
theorem Wave.operands_of_wordOk {w : Wave} {op : Nat} {sh : Shape} {e : Enc} (h : w.wordOk op sh e = true) :
    srcOk w.nv w.ns e sh.a e.a = true ∧ srcOk w.nv w.ns e sh.b e.b = true ∧ extAgrees sh e = true := by
  simp only [Wave.wordOk, encodingOk, Bool.and_eq_true] at h
  obtain ⟨⟨⟨⟨⟨⟨⟨⟨⟨-, hext⟩, -⟩, -⟩, ha⟩, hb⟩, -⟩, -⟩, -⟩, -⟩ := h
  exact ⟨ha, hb, hext⟩

section
variable {w : Wave} {e : Enc} (h : w.wordOk 0x53 (opShape 0x53 e) e = true)
include h

theorem sel_of_loop : ∃ n, Sel.of e.a = .s n := sel_of_srcOk_s (Wave.operands_of_wordOk h).1

/-- Neither of a loop's operands names an extension word. -/
theorem ext_of_loop : e.ext = none := by
  obtain ⟨n, hn⟩ := sel_of_loop h
  obtain ⟨-, hb, hext⟩ := Wave.operands_of_wordOk h
  have ha : e.a ≠ 1023#10 := ne_of_sel_s hn (by decide)
  have hb : e.b = 0#10 := by simpa [opShape_loop, srcOk] using hb
  simpa [opShape_loop, extAgrees, ha, hb] using hext

end

theorem readsClk_loop {e : Enc} {n : Nat} (h : Sel.of e.a = .s n) : readsClk (opShape 0x53 e) e = false := by
  have ha : e.a ≠ 404#10 := ne_of_sel_s h (by decide)
  simp [opShape_loop, readsClk, ha]

/-- As `ends_of`, for two ends that make the same of the machine. -/
theorem ends_of_finish {i : Instr} {op : BitVec 8} {e : Enc} {p : Cx → Prop} {f body : Cx → Res} (hc : i.code = some (op, e))
    (hx : ∀ s, exec i s = simt op.toNat e s body) (hb : ∀ c, c.e = e → p c → (body c).finish c = (f c).finish c) : Ends i p f := by
  intro op' e' s c h hi hp
  cases hc.symm.trans h
  rw [hx, simt_issued hi, hb c (issued_e hi) hp]

/-- A branch that is not taken leads to the next instruction (R86). -/
theorem Cx.finish_branch (c : Cx) (p : Prop) [Decidable p] (s : State) (target : Dword) :
    (if p then Res.jump s target else .done s).finish c = (Res.jump s (if p then target else nextPc c.w c.e)).finish c := by
  split <;> rfl

/-! ## Jumps to a pair (R135) -/

section
variable {c : Cx} {n : Nat} (hn : Sel.of c.e.a = .s n)
include hn

theorem jumpPair_aligned (h : (c.w.spair n).toNat % 8 = 0) : jumpPair c = .jump c.s (c.w.spair n) := by
  simp [jumpPair, hn, h]

theorem jumpPair_misaligned (h : (c.w.spair n).toNat % 8 ≠ 0) :
    jumpPair c = .trap { code := 4#6, lanes := c.w.exec, addr := c.w.spair n } := by
  simp [jumpPair, hn, h, Cx.all]

end

/-! ## Operands taken at once (R92, R94) -/

/-- An instruction without an extension word that reads no clock takes its operands at once, and changes nothing by it (R92, R94). -/
theorem State.operandsNow_eq {e : Enc} {sh : Shape} (hext : e.ext = none) (hclk : readsClk sh e = false) (s : State) (w : Wave) (b : Block) (g : Grid) :
    ∃ iv, s.operandsNow w b g sh e = .ok (some (iv, s)) := by
  unfold State.operandsNow
  cases w.issued with
  | some iv => exact ⟨iv, rfl⟩
  | none => exact ⟨_, by simp [State.takeOperands, windowWords, State.windowOperand, hext, hclk]; rfl⟩

end Sys2Proof.Machine

namespace Sys2Proof.Proofs

open Sys2Proof Sys2Proof.Machine

/-- Settles O22: a loop's word holds an s register and no extension word, so it takes its operands at once and counts down. -/
theorem loopCountsDown : Obligations.LoopCountsDown := by
  unfold Obligations.LoopCountsDown
  intro e s wid w b g hcur hw hb hg
  refine ⟨fun hsel => ?_, fun hok hmod => ⟨fun hoff => ?_, fun hon => ?_⟩⟩
  · have hbad : w.wordOk 0x53 (opShape 0x53 e) e = false := Bool.eq_false_iff.mpr fun hok => (sel_of_loop hok).elim hsel
    exact (exec_loop e s).trans (simt_badWord hcur hw hb hg hbad _)
  · exact (exec_loop e s).trans (simt_guardedOff hcur hw hb hg hok hmod (by rw [hoff]; rfl) _)
  · obtain ⟨n, hn⟩ := sel_of_loop hok
    obtain ⟨iv, hiv⟩ := State.operandsNow_eq (ext_of_loop hok) (readsClk_loop hn) s w b g
    have hwid : w.wid = wid := by simpa using List.find?_some hw
    have hi : Issued 0x53 e s ⟨s, w, b, g, 0x53, e, opShape 0x53 e, isVector (opShape 0x53 e) e, laneOn w e, iv⟩ :=
      ⟨wid, w, b, g, iv, s, hcur, hw, hb, hg, hok, hmod, decide_eq_true hon, hiv, rfl⟩
    refine ⟨n, hn, (sel_s_iff.mp hn).2, (exec_loop e s).trans ((simt_issued hi _).trans ?_)⟩
    subst hwid
    simp only [hn, Wave.sget]
    by_cases hx : w.sregs.getD n 0#32 - 1#32 = 0#32
    · simp only [hx, ne_eq, not_true_eq_false, if_true, if_false]
      rfl
    · simp only [hx, ne_eq, not_false_eq_true, if_true, if_false]
      rfl

/-- Settles O23: each clause is a branch of split or join; a split that is off does not reach its meaning. -/
theorem splitAndJoinKeepTheStack : Obligations.SplitAndJoinKeepTheStack := by
  unfold Obligations.SplitAndJoinKeepTheStack
  intro e
  refine ⟨ends_of rfl (exec_split e) ?full, ends_of rfl (exec_split e) ?narrows, ends_of rfl (exec_split e) ?branches,
    ends_of rfl (exec_join e) ?empty, fun target mask rest => ends_of rfl (exec_join e) ?pops, ?off, ?k0⟩
  case full => exact fun c _ h => if_pos h.ge
  case narrows =>
    rintro c rfl ⟨hdepth, hleft⟩
    have hleft : c.w.exec &&& c.kreg c.e.a ≠ 0#32 := hleft
    simp only [hdepth.not_ge, hleft, if_false]
    rfl
  case branches =>
    rintro c rfl ⟨hdepth, hnone⟩
    have hnone : c.w.exec &&& c.kreg c.e.a = 0#32 := hnone
    simp only [hdepth.not_ge, hnone, if_false, if_true]
  case empty => exact fun c _ h => by rw [h]; rfl
  case pops => exact fun c _ h => by rw [h]
  case off =>
    intro s wid w b g hcur hw hb hg hok hmod hoff
    exact (exec_split e s).trans (simt_guardedOff hcur hw hb hg hok hmod (by rw [hoff]; rfl) _)
  case k0 => exact fun w h => if_neg (ne_true_of_eq_false h)

/-- Settles O24: a branch that is not taken goes on at the next instruction, and a jump goes by the alignment of its pair. -/
theorem branchesCallsAndReturns : Obligations.BranchesCallsAndReturns := by
  unfold Obligations.BranchesCallsAndReturns
  intro e
  refine ⟨?br, fun n hn => ⟨?call, fun i hi => ?jumps⟩, performs_of rfl (exec_nop e) fun _ _ => rfl⟩
  case br => 
    refine ends_of_finish rfl (exec_br e) ?_
    rintro c rfl -
    exact c.finish_branch _ _ _
  case call =>
    refine ends_of rfl (exec_call e) ?_
    rintro c rfl -
    rw [hn]
    rfl
  case jumps =>
    simp only [List.mem_cons, List.not_mem_nil, or_false] at hi
    rcases hi with rfl | rfl
    · exact ⟨ends_of rfl (exec_ret e) fun c h => jumpPair_aligned (h ▸ hn), ends_of rfl (exec_ret e) fun c h => jumpPair_misaligned (h ▸ hn)⟩
    · exact ⟨ends_of rfl (exec_jmp e) fun c h => jumpPair_aligned (h ▸ hn), ends_of rfl (exec_jmp e) fun c h => jumpPair_misaligned (h ▸ hn)⟩

end Sys2Proof.Proofs

/-! SUPPORT. Reductions and scans (R129, R130): a level of wred's tree node by node, and a scan that writes each lane as it goes as a scan
whose values are written afterwards: the lemmas of O20. -/

namespace Sys2Proof.Machine

open Sys2Proof

/-! ## The tree of wred (R129) -/

section
variable (f : Nat → Nat → Nat → Rounded) (draw : Nat → Nat)

/-- One level of the tree, its nodes from the lowest pair up; `q` holds the nodes so far and counts the draws. -/
def treeNodes (xs : List (Option Nat)) (q : List (Option Nat) × Nat) (k : Nat) : List (Option Nat) × Nat :=
  (List.range k).foldl (fun q j =>
    let r := treeNode f draw q.2 (xs.getD (2 * j) none) (xs.getD (2 * j + 1) none)
    (q.1 ++ [r.1], r.2)) q

/-- A level from the level below and the draws so far. -/
def treeLevel (p : List (Option Nat) × Nat) : List (Option Nat) × Nat := treeNodes f draw p.1 ([], p.2) (p.1.length / 2)

theorem redLevel_cons_cons (x y : Option Nat) (rest : List (Option Nat)) (n : Nat) : redLevel f draw (x :: y :: rest) n =
    ((treeNode f draw n x y).1 :: (redLevel f draw rest (treeNode f draw n x y).2).1, (redLevel f draw rest (treeNode f draw n x y).2).2) := by
  cases x <;> cases y <;> rfl

/-- The first node comes from the first pair, the others from the rest. -/
theorem treeNodes_cons_cons (x y : Option Nat) (rest : List (Option Nat)) (q : List (Option Nat) × Nat) (k : Nat) :
    treeNodes f draw (x :: y :: rest) q (k + 1)
      = treeNodes f draw rest (q.1 ++ [(treeNode f draw q.2 x y).1], (treeNode f draw q.2 x y).2) k := by
  simp only [treeNodes, List.range_succ_eq_map, List.foldl_cons, List.foldl_map]
  rfl

/-- A level of `2 * k` places gives `k` nodes, those of the model's level. -/
theorem treeNodes_eq_redLevel (k : Nat) (xs : List (Option Nat)) (hlen : xs.length = 2 * k) (acc : List (Option Nat)) (n : Nat) :
    treeNodes f draw xs (acc, n) k = (acc ++ (redLevel f draw xs n).1, (redLevel f draw xs n).2)
      ∧ (redLevel f draw xs n).1.length = k := by
  induction k generalizing xs acc n with
  | zero =>
    obtain rfl := List.length_eq_zero_iff.mp hlen
    simp [treeNodes, redLevel]
  | succ k ih =>
    match xs, hlen with
    | x :: y :: rest, hlen =>
      have hrest : rest.length = 2 * k := by simp only [List.length_cons] at hlen; omega
      obtain ⟨hnodes, hk⟩ := ih rest hrest (acc ++ [(treeNode f draw n x y).1]) (treeNode f draw n x y).2
      rw [treeNodes_cons_cons, redLevel_cons_cons, hnodes]
      simp [hk]

theorem treeLevel_eq {k : Nat} {p : List (Option Nat) × Nat} (h : p.1.length = 2 * k) :
    treeLevel f draw p = redLevel f draw p.1 p.2 ∧ (treeLevel f draw p).1.length = k := by
  obtain ⟨hnodes, hk⟩ := treeNodes_eq_redLevel f draw k p.1 h [] p.2
  have hlevel : treeLevel f draw p = redLevel f draw p.1 p.2 := by
    rw [treeLevel, h, Nat.mul_div_cancel_left k (by decide), hnodes]
    rfl
  exact ⟨hlevel, hlevel ▸ hk⟩

/-- The whole tree over `2 ^ k` leaves. -/
theorem treeLevel_iterate (k : Nat) (p : List (Option Nat) × Nat) (h : p.1.length = 2 ^ k) :
    (treeLevel f draw)^[k] p = (List.range k).foldl (fun p _ => redLevel f draw p.1 p.2) p := by
  rw [List.foldl_const, List.length_range]
  induction k generalizing p with
  | zero => rfl
  | succ k ih =>
    obtain ⟨hlevel, hk⟩ := treeLevel_eq f draw (h.trans (Nat.pow_succ'))
    rw [Function.iterate_succ_apply, Function.iterate_succ_apply, ih _ hk, hlevel]

end

/-! ## Scans (R130) -/

section
variable {W : Type} (on : Nat → Bool) (next : Nat → Nat × Nat → Nat × Nat) (put : W → Nat → Nat → W)

/-- The values of a scan over the first `k` lanes, and where it stands: its latest value and the draws so far. -/
def scanned (q : Nat × Nat) (k : Nat) : List Nat × Nat × Nat :=
  (List.range k).foldl (fun p l => (p.1 ++ [(next l p.2).1], next l p.2)) ([], q)

theorem scanned_succ (q : Nat × Nat) (k : Nat) : scanned next q (k + 1)
    = ((scanned next q k).1 ++ [(next k (scanned next q k).2).1], next k (scanned next q k).2) := by
  rw [scanned, List.range_succ, List.foldl_append]
  rfl

theorem length_scanned (q : Nat × Nat) (k : Nat) : (scanned next q k).1.length = k := by
  induction k with
  | zero => rfl
  | succ k ih => rw [scanned_succ, List.length_append, ih, List.length_singleton]

/-- Writing each lane as the scan reaches it is writing the scan's values afterwards. -/
theorem foldl_scan (q : Nat × Nat) (w : W) (k : Nat) :
    (List.range k).foldl (fun (p : W × Nat × Nat) l => (if on l then put p.1 l (next l p.2).1 else p.1, next l p.2)) (w, q)
      = (((List.range k).filter on).foldl (fun w l => put w l ((scanned next q k).1.getD l 0)) w, (scanned next q k).2) := by
  induction k with
  | zero => rfl
  | succ k ih =>
    have hkept : ((List.range k).filter on).foldl (fun w l => put w l ((scanned next q (k + 1)).1.getD l 0)) w
        = ((List.range k).filter on).foldl (fun w l => put w l ((scanned next q k).1.getD l 0)) w := by
      refine List.foldl_ext _ _ _ fun w l hl => ?_
      have hlt : l < k := List.mem_range.mp (List.mem_filter.mp hl).1
      rw [scanned_succ, List.getD_append _ _ _ _ (by rwa [length_scanned])]
    have hlast : (scanned next q (k + 1)).1.getD k 0 = (next k (scanned next q k).2).1 := by
      rw [scanned_succ, List.getD_append_right _ _ _ _ (length_scanned ..).le, length_scanned, Nat.sub_self]
      rfl
    have hnow : (scanned next q (k + 1)).2 = next k (scanned next q k).2 := by rw [scanned_succ]
    rw [List.range_succ, List.foldl_append, ih, List.filter_append, List.foldl_append, hkept, hnow]
    cases hon : on k <;> simp only [List.filter_cons, hon, if_true, Bool.false_eq_true, if_false, List.filter_nil, List.foldl_cons, List.foldl_nil, hlast]

end

/-! ## What wred and wscan make of their wave (R129, R130, R224) -/

/-- A lane has drawn so often, if at all. -/
def Wave.drewIf (p : Prop) [Decidable p] (w : Wave) (lane draws : Nat) : Wave :=
  if p then { w with scnt := w.scnt.modify lane (· + word draws) } else w

theorem Wave.drewIf_decide (p : Prop) [Decidable p] (w : Wave) (lane draws : Nat) :
    w.drewIf (decide p = true) lane draws = w.drewIf p lane draws := by simp only [Wave.drewIf, decide_eq_true_eq]

section
variable (c : Cx)

/-- The operation that an instruction combines with. -/
def Cx.combination : Nat → Nat → Nat → Rounded := combine (tyOf c.e) (subCode c.e) (rndOf c.e) c.w.flush

/-- The leaves of wred's tree, no draw taken. -/
def Cx.leaves : List (Option Nat) × Nat :=
  ((List.range 32).map (fun l => if c.active.getLsbD l then some (redLeaf (tyOf c.e) c.w.flush (c.src c.e.a (tyOf c.e) l)) else none), 0)

/-- One lane of a scan: a lane of k0 with lane_on combines its value and may draw, any other passes the scan on. -/
def Cx.scanLane (l : Nat) (q : Nat × Nat) : Nat × Nat :=
  if c.active.getLsbD l then
    let r := c.combination (c.w.drawAt c.lane0 q.2) q.1 (c.src c.e.a (tyOf c.e) l)
    (r.code, if r.inexact then q.2 + 1 else q.2)
  else q

/-- The same lane as the model takes it, written in passing. -/
def Cx.scanWrite (p : Wave × Nat × Nat) (l : Nat) : Wave × Nat × Nat :=
  let (w, acc, n) := p
  let r : Rounded := if c.active.getLsbD l then c.combination (c.w.drawAt c.lane0 n) acc (c.src c.e.a (tyOf c.e) l) else ⟨acc, false⟩
  (if c.lanes.getLsbD l then w.write c.e.dst false l r.code else w, r.code, if r.inexact then n + 1 else n)

theorem Cx.scanWrite_eq (p : Wave × Nat × Nat) (l : Nat) : c.scanWrite p l
    = (if c.lanes.getLsbD l then p.1.write c.e.dst false l (c.scanLane l p.2).1 else p.1, c.scanLane l p.2) := by
  unfold Cx.scanWrite Cx.scanLane
  cases c.active.getLsbD l <;> rfl

/-- The same lane as the statement takes it, its value kept in a list. -/
def Cx.scanValue (p : List Nat × Nat × Nat) (l : Nat) : List Nat × Nat × Nat :=
  if c.active.getLsbD l then
    let r := c.combination (c.w.drawAt c.lane0 p.2.2) p.2.1 (c.src c.e.a (tyOf c.e) l)
    (p.1 ++ [r.code], r.code, if r.inexact then p.2.2 + 1 else p.2.2)
  else (p.1 ++ [p.2.1], p.2)

theorem Cx.scanValue_eq (p : List Nat × Nat × Nat) (l : Nat) : c.scanValue p l = (p.1 ++ [(c.scanLane l p.2).1], c.scanLane l p.2) := by
  unfold Cx.scanValue Cx.scanLane
  cases c.active.getLsbD l <;> rfl

theorem Cx.foldl_scanWrite (q : Nat × Nat) (w : Wave) : (List.range 32).foldl c.scanWrite (w, q)
    = ((lanesOf c.lanes).foldl (fun w l => w.write c.e.dst false l (((List.range 32).foldl c.scanValue ([], q)).1.getD l 0)) w,
      ((List.range 32).foldl c.scanValue ([], q)).2) := by
  rw [funext₂ c.scanWrite_eq, funext₂ c.scanValue_eq]
  exact foldl_scan c.lanes.getLsbD c.scanLane (fun w l v => w.write c.e.dst false l v) q w 32

/-! ### The wave that each leaves, as the model has it and as the statement does -/

/-- The value of a tree's top in its register (R129). -/
def Cx.writeTop (top : Option Nat) (w : Wave) : Wave :=
  w.write c.e.dst false 0 (redResult (tyOf c.e) (top.getD (redIdentity (tyOf c.e) (subCode c.e))))

/-- The tree as the model builds it, an absent operand giving way level by level. -/
def Cx.reducedByModel (w : Wave) : Wave :=
  let top := (List.range 5).foldl (fun p _ => redLevel c.combination (c.w.drawAt c.lane0) p.1 p.2) c.leaves
  (c.writeTop (top.1.getD 0 none) w).drewIf (rndOf c.e = .rs) c.lane0 top.2

/-- A tree's top is written, and its draws are counted. -/
def Cx.reducedTo (top : List (Option Nat) × Nat) (w : Wave) : Wave :=
  (c.writeTop (top.1.headD none) w).drewIf (decide (rndOf c.e = .rs) = true) c.lane0 top.2

theorem Cx.reducedByModel_eq {level : List (Option Nat) × Nat → List (Option Nat) × Nat}
    (hlevel : level = treeLevel c.combination (c.w.drawAt c.lane0)) :
    c.reducedByModel = c.reducedTo (level (level (level (level (level c.leaves))))) := by
  funext w
  have htree := treeLevel_iterate c.combination (c.w.drawAt c.lane0) 5 c.leaves (by simp [Cx.leaves])
  simp only [Function.iterate_succ_apply, Function.iterate_zero_apply, ← hlevel] at htree
  have hhead (xs : List (Option Nat)) : xs.headD none = xs.getD 0 none := by cases xs <;> rfl
  rw [Cx.reducedByModel, Cx.reducedTo, Wave.drewIf_decide, htree, hhead]

end

end Sys2Proof.Machine

namespace Sys2Proof.Proofs

open Sys2Proof Sys2Proof.Machine

/-- Settles O20: five levels of the tree are the model's, and a scan may write its lanes as it goes. -/
theorem reductionsAndScans : Obligations.ReductionsAndScans := by
  unfold Obligations.ReductionsAndScans
  intro e
  refine ⟨performs_of rfl (exec_wred e) ?wred, performs_of rfl (exec_wscan e) ?wscan⟩
  case wred =>
    rintro c rfl
    refine Eq.trans (b := Res.done (c.s.updWave c.wid c.reducedByModel)) rfl ?_
    extract_lets leaves level top
    have hleaves : (leaves, 0) = c.leaves := rfl
    have hlevel : level = treeLevel c.combination (c.w.drawAt c.lane0) := rfl
    have htop : top = level (level (level (level (level (leaves, 0))))) := rfl
    clear_value top level leaves
    rw [c.reducedByModel_eq hlevel, ← hleaves, ← htop]
    rfl
  case wscan =>
    rintro c rfl
    refine congrArg (fun g => Res.done (c.s.updWave c.wid g)) (funext fun w => ?_)
    have hscan := c.foldl_scanWrite (redIdentity (tyOf c.e) (subCode c.e), 0) w
    generalize hwritten : List.foldl (_ : Wave × Nat × Nat → Nat → Wave × Nat × Nat) _ (List.range 32) = written
    generalize hvalues : List.foldl (_ : List Nat × Nat × Nat → Nat → List Nat × Nat × Nat) _ (List.range 32) = values
    rw [show List.foldl c.scanWrite _ _ = written from hwritten, show List.foldl c.scanValue _ _ = values from hvalues] at hscan
    rw [hscan]
    exact (Wave.drewIf_decide (rndOf c.e = .rs) _ c.lane0 values.2.2).symm

end Sys2Proof.Proofs

/-! SUPPORT. The canonical form of everything that the machine keeps byte by address (R8, R139; log entry 3), function by function: each
function that makes a state from another keeps it, in the order of the model, up to the instructions, the events and the step: the
lemmas of O6 and O7. Bytes change only through a write, a filter of addresses, or a copy of what a checkpoint holds, and each keeps the form;
every other update of a record leaves the bytes alone (`State.Canonical.frame`). -/

namespace Sys2Proof.Machine

set_option Elab.async false

open Sys2Proof

/-! ## The canonical form of each kind of record that holds bytes by address -/

/-- The memories behind the four homes are in canonical form. -/
def Mem.Canonical (m : Mem) : Prop := m.wf
/-- The tiles of some blocks are in canonical form. -/
def BlocksCanonical (bs : List Block) : Prop := ∀ b ∈ bs, b.scr.wf
/-- The tiles that the checkpoint of a partition holds are in canonical form. -/
def Partition.Canonical (x : Partition) : Prop := ∀ i ∈ x.ckpt, BlocksCanonical i.blocks
def PartsCanonical (ps : List Partition) : Prop := ∀ x ∈ ps, x.Canonical
/-- The tiles in the stationary buffer of a core are in canonical form. -/
def Core.Canonical (c : Core) : Prop := ∀ t ∈ c.stat, t.bytes.wf
def CoresCanonical (cs : List Core) : Prop := ∀ c ∈ cs, c.Canonical

/-- Everything that the machine keeps byte by address is in canonical form: `State.wf`, part by part. -/
structure State.Canonical (s : State) : Prop where
  mem : s.mem.Canonical
  blocks : BlocksCanonical s.blocks
  parts : PartsCanonical s.parts
  cores : CoresCanonical s.cores

theorem State.canonical_iff (s : State) : s.Canonical ↔ s.wf := by
  refine ⟨fun ⟨h1, h2, h3, h4⟩ => ⟨h1, h2, fun x hx i hi => h3 x hx i (by simpa using hi), h4⟩,
    fun ⟨h1, h2, h3, h4⟩ => ⟨h1, h2, fun x hx i hi => h3 x hx i (by simpa using hi), h4⟩⟩

namespace State.Canonical

variable {s t : State}

/-- A state that keeps its bytes as they are is as canonical as it was. -/
theorem frame (h : s.Canonical) (hm : t.mem = s.mem := by rfl) (hb : t.blocks = s.blocks := by rfl) (hp : t.parts = s.parts := by rfl)
    (hc : t.cores = s.cores := by rfl) : t.Canonical := ⟨hm ▸ h.mem, hb ▸ h.blocks, hp ▸ h.parts, hc ▸ h.cores⟩

theorem ite {p : Prop} [Decidable p] (hs : s.Canonical) (ht : t.Canonical) : (if p then s else t).Canonical := by split <;> assumption

/-- A fold of steps that each keep the canonical form keeps it. -/
theorem foldl {α : Type} {f : State → α → State} {xs : List α} (h : s.Canonical)
    (hf : ∀ {s x}, s.Canonical → (f s x).Canonical) : (xs.foldl f s).Canonical :=
  List.foldlRecOn xs f h fun _ h _ _ => hf h

/-! ## The updates of one record -/

theorem updWave {n : Nat} {f : Wave → Wave} (h : s.Canonical) : (s.updWave n f).Canonical := h.frame
theorem updGrid {n : Nat} {f : Grid → Grid} (h : s.Canonical) : (s.updGrid n f).Canonical := h.frame
theorem updCmd {n : Nat} {f : Cmd → Cmd} (h : s.Canonical) : (s.updCmd n f).Canonical := h.frame
theorem updDie {n : Nat} {f : Die → Die} (h : s.Canonical) : (s.updDie n f).Canonical := h.frame
theorem updStack {n : Nat} {f : Stack → Stack} (h : s.Canonical) : (s.updStack n f).Canonical := h.frame
theorem updHub {f : Hub → Hub} (h : s.Canonical) : (s.updHub f).Canonical := h.frame
theorem tickNow (h : s.Canonical) : s.tickNow.Canonical := h.frame
theorem newName (h : s.Canonical) {n : Nat} (ht : s.newName = (n, t)) : t.Canonical := by cases ht; exact h.frame

theorem updBlockOf {n : Nat} {f : Block → Block} (h : s.Canonical) (hf : ∀ b, b.scr.wf → (f b).scr.wf) :
    (s.updBlock n f).Canonical := by
  refine ⟨h.mem, fun b hb => ?_, h.parts, h.cores⟩
  obtain ⟨x, hx, rfl⟩ := List.mem_map.1 hb
  split
  · exact hf x (h.blocks x hx)
  · exact h.blocks x hx

theorem modify {α : Type} {P : α → Prop} {f : α → α} (hf : ∀ x, P x → P (f x)) {xs : List α} (h : ∀ x ∈ xs, P x) (n : Nat) :
    ∀ x ∈ xs.modify n f, P x := by
  intro x hx
  obtain ⟨i, hi⟩ := List.mem_iff_getElem?.1 hx
  rw [List.getElem?_modify] at hi
  obtain ⟨y, hy, rfl⟩ := Option.map_eq_some_iff.1 hi
  have := h y (List.mem_of_getElem? hy)
  split
  · exact hf y this
  · exact this

theorem updPartOf {n : Nat} {f : Partition → Partition} (h : s.Canonical) (hf : ∀ x, x.Canonical → (f x).Canonical) :
    (s.updPart n f).Canonical := ⟨h.mem, h.blocks, modify hf h.parts n, h.cores⟩
theorem updCoreOf {n : Nat} {f : Core → Core} (h : s.Canonical) (hf : ∀ x, x.Canonical → (f x).Canonical) :
    (s.updCore n f).Canonical := ⟨h.mem, h.blocks, h.parts, modify hf h.cores n⟩
theorem updMemOf {f : Mem → Mem} (h : s.Canonical) (hf : ∀ m, m.Canonical → (f m).Canonical) : (s.updMem f).Canonical :=
  ⟨hf _ h.mem, h.blocks, h.parts, h.cores⟩

/-! An update that leaves the bytes of its record alone. -/

theorem updBlock {n : Nat} {f : Block → Block} (h : s.Canonical) (hf : ∀ b, (f b).scr = b.scr := by exact fun _ => rfl) :
    (s.updBlock n f).Canonical := h.updBlockOf fun b hb => hf b ▸ hb
theorem updPart {n : Nat} {f : Partition → Partition} (h : s.Canonical) (hf : ∀ x, (f x).ckpt = x.ckpt := by exact fun _ => rfl) :
    (s.updPart n f).Canonical := h.updPartOf fun x hx i hi => hx i (hf x ▸ hi)
theorem updCore {n : Nat} {f : Core → Core} (h : s.Canonical) (hf : ∀ c, (f c).stat = c.stat := by exact fun _ => rfl) :
    (s.updCore n f).Canonical := h.updCoreOf fun c hc t ht => hc t (hf c ▸ ht)
theorem updMem {f : Mem → Mem} (h : s.Canonical)
    (hf : ∀ m, (f m).hbm = m.hbm ∧ (f m).host = m.host ∧ (f m).tier = m.tier ∧ (f m).peer = m.peer := by
      exact fun _ => ⟨rfl, rfl, rfl, rfl⟩) : (s.updMem f).Canonical := by
  refine h.updMemOf fun m hm => ?_
  obtain ⟨h1, h2, h3, h4⟩ := hf m
  simpa only [Mem.Canonical, Mem.wf, h1, h2, h3, h4] using hm
/-- Memories that are in canonical form take the place of those that were there. -/
theorem withMem (h : s.Canonical) (hm : t.mem.Canonical) (hb : t.blocks = s.blocks := by rfl) (hp : t.parts = s.parts := by rfl)
    (hc : t.cores = s.cores := by rfl) : t.Canonical := ⟨hm, hb ▸ h.blocks, hp ▸ h.parts, hc ▸ h.cores⟩
theorem withHbm (h : s.Canonical) {m : Memory} (hm : m.wf) : ({ s with mem := { s.mem with hbm := m } } : State).Canonical :=
  h.withMem ⟨hm, h.mem.2⟩
theorem dropTensors {p : Nat} {f : Nat → Bool} (h : s.Canonical) : (s.dropTensors p f).Canonical := by
  refine ⟨h.mem, h.blocks, h.parts, fun c hc => ?_⟩
  obtain ⟨x, hx, rfl⟩ := List.mem_map.1 hc
  exact fun t ht => h.cores x hx t (List.mem_filter.1 ht).1

end State.Canonical

theorem BlocksCanonical.filter {bs : List Block} {p : Block → Bool} (h : BlocksCanonical bs) : BlocksCanonical (bs.filter p) :=
  fun b hb => h b (List.mem_filter.1 hb).1
theorem BlocksCanonical.map {bs : List Block} {f : Block → Block} (h : BlocksCanonical bs) (hf : ∀ b, (f b).scr = b.scr) :
    BlocksCanonical (bs.map f) := by
  intro b hb
  obtain ⟨x, hx, rfl⟩ := List.mem_map.1 hb
  exact hf x ▸ h x hx
theorem BlocksCanonical.append {bs cs : List Block} (h : BlocksCanonical bs) (hc : BlocksCanonical cs) : BlocksCanonical (bs ++ cs) :=
  fun b hb => (List.mem_append.1 hb).elim (h b) (hc b)
theorem CoresCanonical.map {cs : List Core} {f : Core → Core} (h : CoresCanonical cs) (hf : ∀ c, (f c).stat = c.stat) :
    CoresCanonical (cs.map f) := by
  intro c hc
  obtain ⟨x, hx, rfl⟩ := List.mem_map.1 hc
  exact fun t ht => h x hx t (hf x ▸ ht)
theorem State.Canonical.rebuild {s t : State} (h : s.Canonical) (hb : BlocksCanonical t.blocks) (hc : CoresCanonical t.cores)
    (hm : t.mem = s.mem := by rfl) (hp : t.parts = s.parts := by rfl) : t.Canonical := ⟨hm ▸ h.mem, hb, hp ▸ h.parts, hc⟩
theorem State.Canonical.withBlocks {s t : State} (h : s.Canonical) (hb : BlocksCanonical t.blocks) (hm : t.mem = s.mem := by rfl)
    (hp : t.parts = s.parts := by rfl) (hc : t.cores = s.cores := by rfl) : t.Canonical := h.rebuild hb (hc ▸ h.cores) hm hp
/-- Either branch of a choice leads to a state in canonical form. -/
theorem State.Canonical.ofIte {α : Type} {x y z : α} {p : Prop} [Decidable p] {t : State} (ht : (if p then x else y) = z)
    (hx : x = z → t.Canonical) (hy : y = z → t.Canonical) : t.Canonical := by
  split at ht
  · exact hx ht
  · exact hy ht
theorem foldl_fst_canonical {α β : Type} {f : State × β → α → State × β} {xs : List α} {x : State × β} (hx : x.1.Canonical)
    (hf : ∀ {x a}, x.1.Canonical → (f x a).1.Canonical) : (xs.foldl f x).1.Canonical :=
  List.foldlRecOn xs f (motive := fun x => x.1.Canonical) hx fun _ hx _ _ => hf hx
theorem Mem.Canonical.set {m : Mem} (h : m.Canonical) {x : Memory} (hx : x.wf) {sp : Space} : (m.set sp x).Canonical := by
  obtain ⟨h1, h2, h3, h4⟩ := h
  cases sp
  · exact ⟨hx, h2, h3, h4⟩
  · exact ⟨h1, hx, h3, h4⟩
  · exact ⟨h1, h2, hx, h4⟩
  · exact ⟨h1, h2, h3, hx⟩
theorem Mem.Canonical.get {m : Mem} (h : m.Canonical) {sp : Space} : (m.get sp).wf := by
  obtain ⟨h1, h2, h3, h4⟩ := h
  cases sp <;> assumption

/-- Every state that a meaning's end carries is in canonical form. -/
def Res.Canonical : Res → Prop
  | .done s | .jump s _ | .trapAt s _ | .wait s _ _ _ _ | .gone s => s.Canonical
  | .trap _ => True

theorem Res.canonical_ite {p : Prop} [Decidable p] {x y : Res} (hx : x.Canonical) (hy : y.Canonical) : (if p then x else y).Canonical := by
  split <;> assumption

namespace State.Canonical

variable {s t : State}

/-! ## Device level (R161-R164) -/

theorem keepPast {sp : Space} {l : Nat} (h : s.Canonical) : (s.keepPast sp l).Canonical := h.withMem h.mem
theorem saveUndo {p : Nat} {sp : Space} {l : Nat} (h : s.Canonical) : (s.saveUndo p sp l).Canonical := by
  unfold State.saveUndo
  exact h.updPart.ite h
theorem devWrite {p : Nat} {sp : Space} {l : Nat} {d : List Byte} {k : BitVec 64} (h : s.Canonical) : (s.devWrite p sp l d k).Canonical := by
  have hs : ((s.saveUndo p sp l).tickNow.keepPast sp l).Canonical := h.saveUndo.tickNow.keepPast
  unfold State.devWrite
  generalize (s.saveUndo p sp l).tickNow.keepPast sp l = u at hs ⊢
  cases sp
  · exact hs.withMem ⟨Memory.writeLine_wf hs.mem.1 _ _ _, hs.mem.2⟩
  all_goals exact hs.withMem hs.mem
theorem overtake {sp : Space} {l : Nat} {k : BitVec 64} {n : Nat} (h : s.Canonical) : (s.overtake sp l k n).Canonical := h.frame
theorem homeWrite {p : Nat} {sp : Space} {l : Nat} {d : List Byte} {k : BitVec 64} (h : s.Canonical) : (s.homeWrite p sp l d k).Canonical := by
  have hs : ((s.saveUndo p sp l).tickNow.keepPast sp l).Canonical := h.saveUndo.tickNow.keepPast
  unfold State.homeWrite
  generalize (s.saveUndo p sp l).tickNow.keepPast sp l = u at hs ⊢
  have hm : ((u.overtake sp l k u.now).mem.copiesGone sp l u.now).Canonical := hs.mem
  exact hs.withMem (hm.set (Memory.writeLine_wf hm.get _ _ _))
theorem devWriteBytes {p : Nat} {sp : Space} {a : Nat} {bs : List Byte} (h : s.Canonical) : (s.devWriteBytes p sp a bs).Canonical :=
  h.foldl fun h => h.devWrite
theorem scrawl {p : Nat} {ps : List (Space × Nat)} (h : s.Canonical) : (s.scrawl p ps).Canonical := h.foldl fun h => h.devWrite.frame
theorem fillTlb {core p : Nat} {vas : List Nat} (h : s.Canonical) : (s.fillTlb core p vas).Canonical := by
  refine h.foldl fun h => ?_
  split
  · exact h
  · exact h.updMem
theorem vwrite {die p va : Nat} {bs : List Byte} (h : s.Canonical) (ht : s.vwrite die p va bs = .ok t) : t.Canonical := by
  simp only [State.vwrite] at ht
  split at ht
  · cases ht
  split at ht
  · cases ht
  cases ht
  refine h.foldl fun h => ?_
  split
  · exact h
  · exact h.devWriteBytes

/-! ## The fault queue and the order log (R276, R278) -/

theorem drainFq {p fuel : Nat} (h : s.Canonical) : (s.drainFq p fuel).Canonical := by
  induction fuel generalizing s with
  | zero => exact h
  | succ n ih =>
    unfold State.drainFq
    dsimp only
    split
    · exact h
    split
    · exact ih h.updPart
    split
    · exact h
    refine ih (updPart ?_)
    split
    · exact h.vwrite ‹_›
    · exact h
theorem postFault {p source : Nat} {cause : BitVec 6} {addr : Dword} {agent unit : Nat} (h : s.Canonical) :
    (s.postFault p source cause addr agent unit).Canonical := h.updPart.drainFq
theorem logEntry {p : Nat} {e : LogEntry} (h : s.Canonical) : (s.logEntry p e).Canonical := by
  unfold State.logEntry
  dsimp only
  split
  · exact h.updPart.ite h
  split
  · exact h
  refine updPart (h.withHbm ?_)
  split
  · exact h.mem.1
  · refine Memory.foldl_wf (fun m x hm => ?_) _ h.mem.1
    split
    · exact Memory.write_wf hm _ _
    · exact hm

end State.Canonical

section

variable {s : State}

/-! ## Loads that come back, causes, entry into a handler and return -/

theorem State.Canonical.fillCopies {w : Wave} {r : LineRef} (h : s.Canonical) : (s.fillCopies w r).Canonical := by
  unfold State.fillCopies
  refine h.updMemOf fun m (hm : m.wf) => ?_
  extract_lets m'
  split <;> exact hm

theorem State.Canonical.logFull {p : Nat} (h : s.Canonical) : (s.logFull p).Canonical := by
  unfold State.logFull
  split
  · exact h
  · exact h.updPart.postFault

theorem State.Canonical.logDev {p kind level count agent : Nat} (h : s.Canonical) : (s.logDev p kind level count agent).Canonical := by
  unfold State.logDev
  extract_lets +onlyGivenNames s1
  have hs1 : s1.Canonical := h.updPart
  exact hs1.logEntry

theorem State.Canonical.updCluster {b : Block} {f : Cluster → Cluster} (h : s.Canonical) : (s.updCluster b f).Canonical := by
  unfold State.updCluster
  split
  · exact h
  · exact h.frame

theorem State.Canonical.pendCause {w : Nat} {code : BitVec 6} {r : TrapRec} (h : s.Canonical) : (s.pendCause w code r).Canonical :=
  h.updWave

theorem State.Canonical.finishLoad {w : Nat} {o : OutLoad} (h : s.Canonical) : (s.finishLoad w o).Canonical := by
  unfold State.finishLoad
  split
  · exact h
  split
  · exact h.pendCause
  · exact h.updWave

theorem State.Canonical.observe {x : Wave} {scr : Bool} (h : s.Canonical) : (s.observe x scr).Canonical := by
  unfold State.observe
  extract_lets +onlyGivenNames p
  split
  · exact h
  · exact h.foldl fun h => h.logEntry.updWave

theorem State.Canonical.returnLine {w k : Nat} {clean : Bool} (h : s.Canonical) : (s.returnLine w k clean).Canonical := by
  unfold State.returnLine
  split
  · exact h
  split
  · exact h
  split
  · split
    · exact h.updWave.finishLoad
    · exact h
  extract_lets +onlyGivenNames open_ rd news bad o' o'1 s1
  have hs1 : s1.Canonical := h.observe
  extract_lets +onlyGivenNames s2
  have hs2 : s2.Canonical := .ite hs1.updWave hs1
  extract_lets +onlyGivenNames s3
  have hs3 : s3.Canonical := .ite hs2.fillCopies hs2
  extract_lets +onlyGivenNames s4
  have hs4 : s4.Canonical := hs3.updWave
  split
  · exact hs4.finishLoad
  · exact hs4

theorem State.Canonical.failLoad {w k : Nat} (h : s.Canonical) : (s.failLoad w k).Canonical := by
  unfold State.failLoad
  split
  · exact h
  split
  · exact h
  split
  · exact h
  extract_lets +onlyGivenNames as
  split
  · extract_lets +onlyGivenNames a
    exact h.updWave.pendCause
  extract_lets +onlyGivenNames o' o'1 s1
  have hs1 : s1.Canonical := h.updWave
  split
  · exact hs1.finishLoad
  · exact hs1

theorem State.Canonical.endLine {w k : Nat} (h : s.Canonical) : (s.endLine w k).Canonical := by
  unfold State.endLine
  split
  · split
    · exact h.returnLine
    · exact h.failLoad
  · exact h.returnLine

theorem State.Canonical.drainLoads {w : Nat} (h : s.Canonical) : (s.drainLoads w).Canonical := by
  unfold State.drainLoads
  split
  · exact h
  extract_lets +onlyGivenNames n
  exact h.foldl fun h => h.endLine

theorem State.Canonical.drainWaits {w : Nat} (h : s.Canonical) : (s.drainWaits w).Canonical := by
  unfold State.drainWaits
  split
  · exact h
  · exact h.logFull

theorem State.Canonical.machineCheck {w : Nat} {r : TrapRec} {addr : Dword} (h : s.Canonical) : (s.machineCheck w r addr).Canonical := by
  unfold State.machineCheck
  split
  · exact h
  · exact h.updWave.postFault

theorem State.Canonical.enterHandler {w : Nat} {r : TrapRec} {ph : Phase} {us ua : Nat} (h : s.Canonical) :
    (s.enterHandler w r ph us ua).Canonical := by
  unfold State.enterHandler
  extract_lets +onlyGivenNames s1
  have hs1 : s1.Canonical := h.drainLoads
  extract_lets +onlyGivenNames h1
  exact hs1.updWave

theorem State.Canonical.waitDrain {w : Nat} (h : s.Canonical) : (s.waitDrain w).Canonical := by
  unfold State.waitDrain
  split
  · exact h
  · exact h.drainWaits.updWave

theorem State.Canonical.raise {w : Nat} {guard : LaneMask} {t : Trap} (h : s.Canonical) : (s.raise w guard t).Canonical := by
  unfold State.raise
  split
  · exact h
  extract_lets +onlyGivenNames r
  split
  · exact h.machineCheck
  split
  · exact h.waitDrain
  · exact h.enterHandler

theorem State.Canonical.gkMark {w : Nat} {b : Bool} (h : s.Canonical) : (s.gkMark w b).Canonical :=
  h.frame

theorem State.Canonical.gkWithdraw {w : Nat} (h : s.Canonical) : (s.gkWithdraw w).Canonical := by
  unfold State.gkWithdraw
  extract_lets +onlyGivenNames ds
  split
  · exact h
  · exact h.gkMark.updWave

theorem State.Canonical.gkResend {w : Nat} (h : s.Canonical) : (s.gkResend w).Canonical := by
  unfold State.gkResend
  extract_lets +onlyGivenNames rs
  split
  · exact h
  · exact h.gkMark.updWave

theorem State.Canonical.returnFromHandler {w : Nat} (h : s.Canonical) : (s.returnFromHandler w).Canonical := by
  unfold State.returnFromHandler
  extract_lets +onlyGivenNames s1
  have hs1 : s1.Canonical := by
    dsimp only [s1]
    split
    · split
      · exact h.gkResend
      · exact h
    · exact h
  exact hs1.updWave

/-! ## The frame of an instruction of a wave -/

theorem State.Canonical.advance {w : Nat} {pc : Dword} (h : s.Canonical) : (s.advance w pc).Canonical := h.updWave

theorem State.Canonical.keepIssue {w : Nat} {iv : AtIssue} (h : s.Canonical) : (s.keepIssue w iv).Canonical := h.updWave

theorem State.Canonical.after8 {w : Nat} {iv : AtIssue} (h : s.Canonical) : (s.after8 w iv).Canonical := .ite h h.keepIssue.updWave

theorem State.Canonical.stallWave {w : Nat} {why : Wait} {reason stage aux : Nat} (h : s.Canonical) :
    (s.stallWave w why reason stage aux).Canonical := h.updWave

/-- How an instruction ends keeps the canonical form. -/

theorem Res.finish_canonical {c : Cx} (hc : c.s.Canonical) : {r : Res} → r.Canonical → (r.finish c).Canonical
  | .done _, h | .jump _ _, h => h.advance
  | .trap _, _ => hc.raise
  | .trapAt _ _, h => State.Canonical.raise h.after8
  | .wait _ _ _ _ _, h => (State.Canonical.ite h h.keepIssue).stallWave
  | .gone _, h => h

theorem State.Canonical.clockRead {w : Wave} {p : Nat} {v : Dword} {t : State} (h : s.Canonical) (ht : s.clockRead w p = (v, t)) :
    t.Canonical := by
  cases ht; exact h.logEntry

theorem State.Canonical.operandsNow {w : Wave} {b : Block} {g : Grid} {sh : Shape} {e : Enc} {iv : AtIssue} {t : State} (h : s.Canonical)
    (ht : s.operandsNow w b g sh e = .ok (some (iv, t))) : t.Canonical := by
  unfold State.operandsNow at ht
  split at ht
  · cases ht; exact h
  simp only [State.takeOperands] at ht
  split at ht
  · cases ht
  split at ht
  · cases ht
  split at ht
  · cases ht; exact h.clockRead rfl
  · cases ht; exact h

/-- An instruction of a wave keeps the canonical form when its meaning does. -/

theorem simt_canonical {op : Nat} {e : Enc} {t : State} {body : Cx → Res} (h : s.Canonical)
    (hb : ∀ {c}, c.s.Canonical → (body c).Canonical) (ht : simt op e s body = .next t) : t.Canonical := by
  simp only [simt] at ht
  iterate 4 (split at ht; · cases ht)
  split at ht
  · cases ht; exact h.raise
  split at ht
  · cases ht; exact h.raise
  split at ht
  · cases ht; exact h.advance
  split at ht
  · split at ht
    · cases ht; exact h.pendCause.advance
    · cases ht; exact h.raise
  · cases ht; exact h.logFull.stallWave
  · next hnow => cases ht; exact Res.finish_canonical (h.operandsNow hnow) (hb (h.operandsNow hnow))

/-! ## What the meanings of the register instructions end with -/

theorem Cx.on_canonical {c : Cx} (h : s.Canonical) : (c.on s).s.Canonical := by
  unfold Cx.on
  split <;> exact h

theorem Memory.writeLines_wf {m : Memory} (h : m.wf) (ls : List PLine) : (ls.foldl
    (fun m p => Memory.writeLine m p.line p.data p.mask) m).wf :=
  Memory.foldl_wf (fun _ p hm => Memory.writeLine_wf hm p.line p.data p.mask) ls h

theorem Mem.Canonical.dropCopies {m : Mem} (h : m.Canonical) {f : Bool → Nat → Bool} {sp : Space} {l : Nat} :
    (m.dropCopies f sp l).Canonical := h

theorem State.Canonical.toBlockLevel {w : Wave} {ls : List PLine} (h : s.Canonical) : (s.toBlockLevel w ls).Canonical := by
  have hs : (((s.tickNow).dropOwn w ls).unstage w ls).Canonical := by
    refine State.Canonical.frame (State.Canonical.foldl h.tickNow fun h => ?_)
    split
    · exact h.updMem
    · exact h
  refine updWave (hs.updBlockOf fun b hb => ?_)
  dsimp only
  split <;> exact Memory.writeLines_wf hb _

theorem State.Canonical.homeDeliver {sp : Space} {l : Nat} {d : List Byte} {k : BitVec 64} {n : Nat} (h : s.Canonical) :
    (s.homeDeliver sp l d k n).Canonical := by
  have hs : ((s.overtake sp l k n).tickNow.keepPast sp l).Canonical := h.overtake.tickNow.keepPast
  unfold State.homeDeliver
  generalize (s.overtake sp l k n).tickNow.keepPast sp l = u at hs ⊢
  have hm : (u.mem.copiesGone sp l u.now).Canonical := hs.mem
  exact hs.withMem (hm.set (Memory.writeLine_wf hm.get _ _ _))

theorem Cx.writeLanes_canonical {c : Cx} {wide : Bool} {f : Nat → Nat} (hc : c.s.Canonical) : (c.writeLanes wide f).Canonical := by
  unfold Cx.writeLanes
  split
  · exact hc.updWave
  · exact hc.updWave

theorem intResult_canonical {c : Cx} {f : Int → Int → Int → Int} {sat : Bool} (hc : c.s.Canonical) : (intResult c f sat).Canonical := by
  unfold intResult
  extract_lets +onlyGivenNames t v
  exact Cx.writeLanes_canonical hc

theorem bitResult_canonical {c : Cx} {f : (w : Nat) → Nat → Nat → Nat} (hc : c.s.Canonical) : (bitResult c f).Canonical := by
  unfold bitResult
  extract_lets +onlyGivenNames t
  exact Cx.writeLanes_canonical hc

theorem shiftResult_canonical {c : Cx} {f : (t : Ty) → Int → Nat → Int} (hc : c.s.Canonical) : (shiftResult c f).Canonical := by
  unfold shiftResult
  extract_lets +onlyGivenNames t
  exact Cx.writeLanes_canonical hc

theorem cmpResult_canonical {c : Cx} {f : Nat → Bool} (hc : c.s.Canonical) : (cmpResult c f).Canonical := by
  unfold cmpResult
  split
  · extract_lets +onlyGivenNames x
    exact hc.updWave
  · exact hc

theorem Cx.writeRounded_canonical {c : Cx} {wide : Bool} {f : Nat → Nat → Rounded} (hc : c.s.Canonical) :
    (c.writeRounded wide f).Canonical := by
  unfold Cx.writeRounded
  extract_lets +onlyGivenNames rs one
  split
  · exact hc.updWave
  · exact hc.updWave

theorem fpResult_canonical {c : Cx} {f : Rnd → Fp → Fp → Fp → Exact} (hc : c.s.Canonical) : (fpResult c f).Canonical := by
  unfold fpResult
  extract_lets +onlyGivenNames fmt m
  exact Cx.writeRounded_canonical hc

theorem fpPick_canonical {c : Cx} {pickMax : Bool} (hc : c.s.Canonical) : (fpPick c pickMax).Canonical := by
  unfold fpPick
  extract_lets +onlyGivenNames fmt v
  exact Cx.writeLanes_canonical hc

theorem fpSign_canonical {c : Cx} {f : Nat → Nat → Nat} (hc : c.s.Canonical) : (fpSign c f).Canonical :=
  Cx.writeLanes_canonical hc

theorem shuffle_canonical {c : Cx} {source : Nat → Nat → Int} (hc : c.s.Canonical) : (shuffle c source).Canonical :=
  Cx.writeLanes_canonical hc

/-! ## Commits to each level -/

theorem State.Canonical.dropOwn {w : Wave} {ls : List PLine} (h : s.Canonical) : (s.dropOwn w ls).Canonical := by
  unfold State.dropOwn
  refine h.foldl fun h => ?_
  split
  · exact h.updMem
  · exact h

theorem State.Canonical.unstage {w : Wave} {ls : List PLine} (h : s.Canonical) : (s.unstage w ls).Canonical :=
  h.frame

theorem State.Canonical.unstageBytes {b : Block} {size : Nat} {ls : List PLine} (h : s.Canonical) : (s.unstageBytes b size ls).Canonical :=
  h.frame

theorem State.Canonical.unstageCluster {b : Block} {size : Nat} {buf : List PLine} (h : s.Canonical) :
    (s.unstageCluster b size buf).Canonical :=
  h.frame

theorem Block.toTiles_wf {b : Block} (h : b.scr.wf) {ls : List PLine} : (b.toTiles ls).scr.wf := Memory.writeLines_wf h ls

theorem State.Canonical.logBlock {w : Wave} {kind count : Nat} (h : s.Canonical) : (s.logBlock w kind count).Canonical := by
  unfold State.logBlock
  split
  · exact h
  · exact h.logEntry

theorem State.Canonical.logCluster {w : Wave} {kind count : Nat} (h : s.Canonical) : (s.logCluster w kind count).Canonical := by
  unfold State.logCluster
  split
  · exact h
  split
  · exact h
  · exact h.logEntry

theorem State.Canonical.publish {p core : Nat} {clusterHeld : Nat → Bool} {ls : List (PLine × Place)} (h : s.Canonical) :
    (s.publish p core clusterHeld ls).Canonical := by
  unfold State.publish
  refine h.foldl fun h => ?_
  extract_lets +onlyGivenNames f
  exact h.devWrite.updMem

theorem State.Canonical.clearPath {w : Wave} {line : Nat} {m mb mc : BitVec 64} (h : s.Canonical) :
    (s.clearPath w line m mb mc).Canonical := by
  unfold State.clearPath
  split
  · exact h
  · exact h.updWave.updCluster.updBlock

theorem State.Canonical.sendSystem {wid : Nat} (h : s.Canonical) : (s.sendSystem wid).Canonical := by
  unfold State.sendSystem
  extract_lets +onlyGivenNames s1
  have hs1 : s1.Canonical := h.tickNow
  exact hs1.updWave

theorem Cx.waitOwner_canonical {c : Cx} (hc : c.s.Canonical) : c.waitOwner.Canonical :=
  hc

theorem Cx.waitLog_canonical {c : Cx} (hc : c.s.Canonical) : c.waitLog.Canonical :=
  hc.logFull

theorem Cx.commitDevice_canonical {c : Cx} {lvl : Nat} {ls : List (PLine × Place)} (hc : c.s.Canonical) :
    (c.commitDevice lvl ls).Canonical := by
  unfold Cx.commitDevice
  extract_lets +onlyGivenNames w s
  have hs : s.Canonical := hc.tickNow
  extract_lets +onlyGivenNames away sent s1
  have hs1 : s1.Canonical := hs.updWave
  split
  · extract_lets +onlyGivenNames glob scr
    exact hs1.updWave
  extract_lets +onlyGivenNames s2
  have hs2 : s2.Canonical := hs1.updBlockOf fun _ hb => Block.toTiles_wf hb
  extract_lets +onlyGivenNames s3
  have hs3 : s3.Canonical := hs2.updWave
  extract_lets +onlyGivenNames held s4
  have hs4 : s4.Canonical := hs3.publish
  extract_lets +onlyGivenNames s5
  have hs5 : s5.Canonical := hs4.foldl fun h => h.clearPath
  extract_lets +onlyGivenNames s6
  have hs6 : s6.Canonical := hs5.updBlock
  split
  · exact hs6
  · exact hs6.logDev

theorem Cx.commitStart_canonical {c : Cx} {lvl : Nat} (hc : c.s.Canonical) {t : State} (ht : c.commitStart lvl = .ok t) : t.Canonical := by
  unfold Cx.commitStart at ht
  extract_lets +onlyGivenNames w path scr n at ht
  split at ht
  · cases ht
  split at ht
  · cases ht
  split at ht
  · cases ht
  split at ht
  · cases ht
    split
    · exact hc
    · exact hc.toBlockLevel.logBlock
  split at ht
  · extract_lets +onlyGivenNames s at ht
    have hs : s.Canonical := .ite hc hc.toBlockLevel.logBlock
    cases ht; exact hs.updBlock
  split at ht
  · extract_lets +onlyGivenNames s at ht
    have hs : s.Canonical := hc.tickNow.dropOwn.unstageCluster
    extract_lets +onlyGivenNames s1 at ht
    have hs1 : s1.Canonical := hs.updBlockOf fun _ hb => Block.toTiles_wf hb
    extract_lets +onlyGivenNames s2 at ht
    have hs2 : s2.Canonical := hs1.updCluster
    extract_lets +onlyGivenNames s3 at ht
    have hs3 : s3.Canonical := hs2.updWave
    cases ht
    split
    · exact hs3
    · exact hs3.logCluster
  split at ht
  · cases ht
  split at ht
  · cases ht
  split at ht
  · split at ht
    · cases ht
    cases ht; exact Cx.commitDevice_canonical hc.observe.fillTlb
  split at ht
  · cases ht
  cases ht; exact Cx.commitDevice_canonical hc.fillTlb

theorem Cx.commitStart_error_canonical {c : Cx} {lvl : Nat} (hc : c.s.Canonical) {r : Res}
    (ht : c.commitStart lvl = .error r) : r.Canonical := by
  unfold Cx.commitStart at ht
  extract_lets +onlyGivenNames w path scr n at ht
  split at ht
  · cases ht; exact Cx.waitOwner_canonical hc
  split at ht
  · cases ht; exact trivial
  split at ht
  · cases ht; exact Cx.waitLog_canonical hc
  split at ht
  · cases ht
  split at ht
  · extract_lets +onlyGivenNames s at ht
    have hs : s.Canonical := .ite hc hc.toBlockLevel.logBlock
    cases ht
  split at ht
  · extract_lets +onlyGivenNames s at ht
    have hs : s.Canonical := hc.tickNow.dropOwn.unstageCluster
    extract_lets +onlyGivenNames s1 at ht
    have hs1 : s1.Canonical := hs.updBlockOf fun _ hb => Block.toTiles_wf hb
    extract_lets +onlyGivenNames s2 at ht
    have hs2 : s2.Canonical := hs1.updCluster
    extract_lets +onlyGivenNames s3 at ht
    have hs3 : s3.Canonical := hs2.updWave
    cases ht
  split at ht
  · cases ht; exact trivial
  split at ht
  · cases ht; exact hc
  split at ht
  · split at ht
    · cases ht; exact Cx.waitLog_canonical hc
    · cases ht
  split at ht
  · cases ht; exact Cx.waitLog_canonical hc
  · cases ht

theorem Cx.commitRest_canonical {c : Cx} {lvl : Nat} {k : State → Res} (h : s.Canonical) (hk : ∀ {t : State}, t.Canonical →
    (k t).Canonical) :
    (c.commitRest lvl s k).Canonical := by
  unfold Cx.commitRest
  split
  · exact h
  split
  · exact hk h
  split
  · exact h
  split
  · exact h
  split
  · exact hk h
  extract_lets u
  have hu : u.Canonical := .ite h h.sendSystem
  split
  · exact hu
  split
  · exact hu
  · exact hk hu

theorem Cx.commit_canonical {c : Cx} {lvl : Nat} {k : State → Res} (hc : c.s.Canonical) (hk : ∀ {t : State}, t.Canonical →
    (k t).Canonical) :
    (c.commit lvl k).Canonical := by
  unfold Cx.commit
  split
  · exact hk hc
  split
  · split
    · exact Cx.commitStart_error_canonical hc ‹_›
    · exact Cx.commitRest_canonical (Cx.commitStart_canonical hc ‹_›) hk
  · exact Cx.commitRest_canonical hc hk

theorem State.Canonical.publishStaged {wid : Nat} (h : s.Canonical) : (s.publishStaged wid).Canonical := by
  unfold State.publishStaged
  split
  · exact h
  split
  · exact h
  extract_lets +onlyGivenNames held line glob scr p s1
  have hs1 : s1.Canonical := h.publish
  extract_lets +onlyGivenNames s2
  have hs2 : s2.Canonical := hs1.foldl fun h => h.clearPath
  extract_lets +onlyGivenNames s3
  have hs3 : s3.Canonical := hs2.updBlockOf fun _ hb => Block.toTiles_wf hb
  extract_lets +onlyGivenNames s4
  have hs4 : s4.Canonical := hs3.updWave
  exact hs4.logDev

theorem State.Canonical.abortBlock {w : Wave} (h : s.Canonical) : (s.abortBlock w).Canonical :=
  h.tickNow.updBlock

theorem State.Canonical.abortCluster {b : Block} (h : s.Canonical) : (s.abortCluster b).Canonical :=
  h.tickNow.updCluster

theorem State.Canonical.acquire {wid lvl : Nat} (h : s.Canonical) : (s.acquire wid lvl).Canonical := by
  unfold State.acquire
  split
  · exact h
  extract_lets +onlyGivenNames s1
  have hs1 : s1.Canonical := h.tickNow
  exact hs1.updWave

/-! ## Loads and stores -/

theorem Cx.issueLoad_canonical {c : Cx} {scr : Bool} {known : List (Piece × BitVec 6)} {ps : List Piece} {pre : List (Nat × Byte)}
    {o : OutLoad} {acqLvl : Nat} (hc : c.s.Canonical) : (c.issueLoad scr known ps pre o acqLvl).Canonical := by
  unfold Cx.issueLoad
  extract_lets +onlyGivenNames bad
  split
  · exact trivial
  extract_lets +onlyGivenNames dropped ps1
  split
  · exact Cx.waitOwner_canonical hc
  extract_lets +onlyGivenNames need own got open_ lines refs o1 s
  have hs : s.Canonical := .ite hc hc.fillTlb
  extract_lets +onlyGivenNames s1
  have hs1 : s1.Canonical := hs.acquire
  extract_lets +onlyGivenNames s2
  have hs2 : s2.Canonical := hs1.updWave
  exact .ite hs2.returnLine hs2

theorem Cx.plainLoad_canonical {c : Cx} {scr indexed : Bool} (hc : c.s.Canonical) : (c.plainLoad scr indexed).Canonical := by
  unfold Cx.plainLoad
  extract_lets +onlyGivenNames addr zeros
  exact Cx.issueLoad_canonical hc

theorem Cx.handlerStore_canonical {c : Cx} {scr : Bool} {ls : List PLine} (hc : c.s.Canonical) : (c.handlerStore scr ls).Canonical := by
  unfold Cx.handlerStore
  split
  · exact hc.updBlockOf fun _ hb => Block.toTiles_wf hb
  split
  · exact Cx.waitLog_canonical hc
  split
  · exact trivial
  split
  · exact hc
  extract_lets +onlyGivenNames s
  have hs : s.Canonical := hc.publish
  extract_lets +onlyGivenNames s1
  have hs1 : s1.Canonical := hs.updWave
  exact hs1.logDev

theorem State.Canonical.intoBuffer {wid : Nat} {ls : List PLine} (h : s.Canonical) : (s.intoBuffer wid ls).Canonical :=
  h.updWave

theorem Cx.issueStore_canonical {c : Cx} {scr indexed : Bool} (hc : c.s.Canonical) : (c.issueStore scr indexed).Canonical := by
  unfold Cx.issueStore
  extract_lets +onlyGivenNames ps rel
  have hrel : ∀ {d : Cx}, d.s.Canonical → (rel d).Canonical := by
    intro d hd
    dsimp only [rel]
    split
    · exact Cx.commit_canonical hd fun h => h
    · exact hd
  split
  · exact hrel hc
  split
  · trivial
  split
  · exact Cx.waitOwner_canonical hc
  extract_lets +onlyGivenNames ls fill
  have hfill : ∀ {t : State}, t.Canonical → (fill t).Canonical := fun h => .ite h h.fillTlb
  split
  · have hstore := Cx.handlerStore_canonical (scr := scr) (ls := ls) hc
    split
    · next hr =>
      split at hr
      · exact Cx.commitStart_error_canonical hc hr
      · cases hr
    · next hs =>
      rw [hs] at hstore
      exact hrel (Cx.on_canonical (hfill hstore))
    · exact hstore
  extract_lets +onlyGivenNames put
  have hput : ∀ {d : Cx}, d.s.Canonical → (put d).Canonical := fun hd => hrel (Cx.on_canonical (hfill hd.intoBuffer))
  split
  · exact hput hc
  split
  · trivial
  split
  · exact Cx.commitStart_error_canonical hc ‹_›
  · exact hput (Cx.on_canonical (Cx.commitStart_canonical hc ‹_›))

/-! ## The hardware save and a pending cause -/

theorem State.Canonical.waitSave {w : Nat} (h : s.Canonical) : (s.waitSave w).Canonical :=
  h.updWave

theorem State.Canonical.enterSave {w : Nat} {cause : BitVec 6} {pc : Dword} {keep : Nat × Nat} (h : s.Canonical) :
    (s.enterSave w cause pc keep).Canonical := by
  unfold State.enterSave
  split
  · exact h
  split
  · exact h.waitDrain
  extract_lets +onlyGivenNames s1
  have hs1 : s1.Canonical := h.drainLoads
  split
  · exact hs1.waitSave
  extract_lets +onlyGivenNames s2
  have hs2 : s2.Canonical := hs1.gkWithdraw
  split
  · exact hs2.updWave
  extract_lets +onlyGivenNames p r r1 unit
  clear_value unit
  split
  · exact hs2.updWave.machineCheck
  · exact hs2.updWave.enterHandler

theorem State.Canonical.hardwareSave {w : Nat} {pc : Dword} {keep : Nat × Nat} (h : s.Canonical) :
    (s.hardwareSave w pc keep).Canonical := by
  unfold State.hardwareSave
  split
  · exact h
  split
  · exact h.waitDrain
  extract_lets +onlyGivenNames s1
  have hs1 : s1.Canonical := h.drainLoads
  split
  · exact hs1.waitSave
  · exact hs1.gkWithdraw.updWave

theorem State.Canonical.takeAsync {w : Nat} {p : Pending} (h : s.Canonical) : (s.takeAsync w p).Canonical := by
  unfold State.takeAsync
  split
  · exact h
  split
  · exact h.updWave.machineCheck
  split
  · exact h.enterSave
  split
  · exact h.waitDrain
  extract_lets +onlyGivenNames r r1
  exact h.updWave.enterHandler

/-! ## Blocks: residence, offers, pre-emption, retirement -/

theorem State.Canonical.seUse {die : Nat} {x : SeSlot} (h : s.Canonical) {t : State} (ht : s.seUse die x = some t) : t.Canonical := by
  unfold State.seUse at ht
  extract_lets +onlyGivenNames d d1 put at ht
  split at ht
  · cases ht
  split at ht
  · cases ht; exact h.updDie
  rw [Option.map_eq_some_iff] at ht
  obtain ⟨x, hx, rfl⟩ := ht
  exact h.updDie

theorem State.Canonical.seTry {die : Nat} {x : SeSlot} {who : Nat × Nat} (h : s.Canonical) {t : State}
    (ht : s.seTry die x who = .ok t) : t.Canonical := by
  unfold State.seTry at ht
  split at ht
  · cases ht
    split
    · exact (h.seUse ‹_›).updDie
    · exact h.seUse ‹_›
  · cases ht

theorem State.Canonical.seTry_error {die : Nat} {x : SeSlot} {who : Nat × Nat} (h : s.Canonical) {r : State}
    (ht : s.seTry die x who = .error r) : r.Canonical := by
  unfold State.seTry at ht
  split at ht
  · cases ht
  cases ht
  split
  · exact h
  · exact h.updDie

theorem State.Canonical.upperBar {b : Block} {k : BarKind} {n : Nat} {f : BlockBar → BlockBar} (h : s.Canonical) :
    (s.upperBar b k n f).Canonical := by
  unfold State.upperBar
  split
  · exact h
  split
  · exact h
  · exact h.updCluster
  · exact h.updGrid

theorem Block.setBar_scr {b : Block} {k : BarKind} {n : Nat} {x : BarCount} : (b.setBar k n x).scr = b.scr := by
  cases k <;> rfl

theorem State.Canonical.barUpdate {u : Nat} {k : BarKind} {n : Nat} {f : BarCount → BarCount} (h : s.Canonical) :
    (s.barUpdate u k n f).Canonical := by
  unfold State.barUpdate
  split
  · exact h
  next b _ =>
    have hb : (s.updBlock u fun b' => b'.setBar k n ((f (b.bar k n)).settled b.members.length)).Canonical :=
      h.updBlock fun _ => Block.setBar_scr
    exact hb.foldl fun h => h.upperBar

theorem State.Canonical.arrive {u : Nat} {k : BarKind} {n wid : Nat} (h : s.Canonical) {t : State} {r : Nat}
    (ht : s.arrive u k n wid = (t, r)) : t.Canonical := by
  unfold State.arrive at ht
  split at ht
  · cases ht; exact h
  cases ht; exact h.barUpdate

theorem State.Canonical.barAll {u : Nat} {f : BarCount → BarCount} (h : s.Canonical) : (s.barAll u f).Canonical :=
  h.foldl fun h => (h.foldl fun h => h.barUpdate)

theorem State.Canonical.addWave {b : Block} {g : Grid} {windex n : Nat} {role : BitVec 2} {pc : Dword} {mark : Nat}
    (h : s.Canonical) : (s.addWave b g windex n role pc mark).Canonical := by
  unfold State.addWave
  extract_lets +onlyGivenNames r
  split
  extract_lets +onlyGivenNames slot w w1
  exact (h.newName ‹_›).frame.updBlock

theorem State.Canonical.admitFresh {g : Grid} {lin core : Nat} (h : s.Canonical) : (s.admitFresh g lin core).Canonical := by
  unfold State.admitFresh
  extract_lets +onlyGivenNames r s1
  split
  next uid s2 hs =>
  have hs2 : s2.Canonical := h.tickNow.newName hs
  extract_lets +onlyGivenNames bar b num s3 s4
  have hs3 : s3.Canonical := by
    dsimp only [s3]
    split
    · exact hs2
    · exact hs2.frame
  have hs4 : s4.Canonical := hs3.withBlocks (hs3.blocks.append fun _ hb => List.mem_singleton.1 hb ▸ Memory.wf_nil)
  exact hs4.foldl fun h => h.addWave

theorem State.Canonical.placeSaved {b : Block} {core : Nat} (h : s.Canonical) : (s.placeSaved b core).Canonical := by
  unfold State.placeSaved
  extract_lets +onlyGivenNames s1
  have hs1 : s1.Canonical := h.updBlock
  extract_lets +onlyGivenNames s2
  have hs2 : s2.Canonical := hs1.frame
  extract_lets +onlyGivenNames s3
  have hs3 : s3.Canonical := hs2.updCluster
  refine hs3.foldl fun h => ?_
  extract_lets +onlyGivenNames slot
  split
  exact (h.newName ‹_›).updWave

theorem State.Canonical.setPtr {g : Nat} {ptr : Nat} {sk : List (Nat × Nat)} (h : s.Canonical) : (s.setPtr g ptr sk).Canonical :=
  h.updGrid

theorem State.Canonical.popHead {g : Nat} (h : s.Canonical) : (s.popHead g).Canonical :=
  h.updGrid

theorem State.Canonical.placeRanks {gid : Nat} {cores : List Nat} {left lin : Nat} (h : s.Canonical) :
    (s.placeRanks gid cores left lin).Canonical := by
  induction left generalizing s lin with
  | zero => exact h
  | succ n ih =>
    unfold State.placeRanks
    split
    · exact h
    split
    · exact h
    · exact ih h.admitFresh.setPtr

theorem State.Canonical.tryHead {g : Grid} (h : s.Canonical) {t : State} (ht : s.tryHead g = some t) : t.Canonical := by
  unfold State.tryHead at ht
  extract_lets +onlyGivenNames p r cores order at ht
  split at ht
  · cases ht
  · rw [Option.map_eq_some_iff] at ht
    obtain ⟨x, hx, rfl⟩ := ht
    exact h.placeSaved.setPtr.popHead
  split at ht
  · rw [Option.map_eq_some_iff] at ht
    obtain ⟨x, hx, rfl⟩ := ht
    exact h.admitFresh.setPtr.popHead
  rw [Option.map_eq_some_iff] at ht
  obtain ⟨x, hx, rfl⟩ := ht
  extract_lets +onlyGivenNames group s1
  have hs1 : s1.Canonical := h.setPtr.placeRanks
  extract_lets +onlyGivenNames last
  exact hs1.updGrid.popHead

theorem State.Canonical.offerHeads {fav : Option Nat} {fuel : Nat} (h : s.Canonical) : (s.offerHeads fav fuel).Canonical := by
  induction fuel generalizing s with
  | zero => exact h
  | succ n ih =>
    unfold State.offerHeads
    split
    · exact h
    next hx =>
      obtain ⟨g, -, hg⟩ := List.exists_of_findSome?_eq_some hx
      exact ih (h.tryHead hg)

theorem State.Canonical.forceSave {u : Nat} (h : s.Canonical) : (s.forceSave u).Canonical := by
  unfold State.forceSave
  split
  · exact h
  extract_lets +onlyGivenNames s1
  have hs1 : s1.Canonical := h.updBlock
  refine hs1.foldl fun h => ?_
  split
  · exact h
  split
  · exact h
  · exact h.pendCause

theorem State.Canonical.requestPre {u : Nat} {why : PreWhy} (h : s.Canonical) : (s.requestPre u why).Canonical := by
  unfold State.requestPre
  split
  · exact h
  split
  · exact h
  extract_lets +onlyGivenNames s1
  have hs1 : s1.Canonical := h.updBlock
  extract_lets +onlyGivenNames s2
  have hs2 : s2.Canonical := hs1.foldl fun h => h.updWave
  split
  · exact hs2.forceSave
  · exact hs2

theorem State.Canonical.without {us : List Nat} (h : s.Canonical) : (s.without us).Canonical :=
  h.rebuild (h.blocks.map fun b => by split <;> rfl) (h.cores.map fun _ => rfl)

theorem State.Canonical.prioPreempt {g : Grid} (h : s.Canonical) : (s.prioPreempt g).Canonical := by
  unfold State.prioPreempt
  extract_lets +onlyGivenNames cores out
  split
  · exact h
  split
  · exact h
  · exact h.foldl fun h => h.requestPre

theorem State.Canonical.attachWave {u : Nat} (h : s.Canonical) : (s.attachWave u).Canonical := by
  unfold State.attachWave
  split
  · exact h
  split
  · exact h
  extract_lets +onlyGivenNames ix s'
  have hs' : s'.Canonical := h.addWave
  exact hs'.barAll

theorem State.Canonical.growBlock {u n k : Nat} {t : State} (h : s.Canonical) (ht : s.growBlock u n = (k, t)) : t.Canonical := by
  induction n generalizing s k t with
  | zero => cases ht; exact h
  | succ n ih =>
    unfold State.growBlock at ht
    split at ht
    · cases ht; exact h
    split at ht
    · cases ht; exact h
    split at ht
    · split at ht
      cases ht; exact ih h.attachWave ‹_›
    cases ht; exact h

theorem State.Canonical.offerWaves {core : Nat} {fuel : Nat} (h : s.Canonical) : (s.offerWaves core fuel).Canonical := by
  induction fuel generalizing s with
  | zero => exact h
  | succ n ih =>
    unfold State.offerWaves
    split
    · exact h
    · exact ih h.attachWave

theorem State.Canonical.markBoth {old : State} (h : s.Canonical) : (old.markBoth s).Canonical := h.frame

theorem State.Canonical.distribute {fav : Option Nat} (h : s.Canonical) : (s.distribute fav).Canonical :=
  (h.offerHeads.foldl fun h => h.prioPreempt).markBoth

theorem State.Canonical.offerAll (h : s.Canonical) : s.offerAll.Canonical := by
  unfold State.offerAll
  extract_lets +onlyGivenNames cores
  exact h.foldl fun h => (.ite h h.offerWaves)

theorem State.Canonical.decrement {die task : Nat} (h : s.Canonical) : (s.decrement die task).Canonical :=
  h.frame

theorem State.Canonical.writeStatus {l : Launch} {code reason : Nat} (h : s.Canonical) : (s.writeStatus l code reason).Canonical := by
  unfold State.writeStatus
  split
  · exact h
  split
  · exact h.vwrite ‹_›
  · exact h.postFault

theorem State.Canonical.joinStep {die p : Nat} {j : Dword} {refused first : Bool} (h : s.Canonical) :
    (s.joinStep die p j refused first).Canonical := by
  unfold State.joinStep
  split
  · exact h
  extract_lets +onlyGivenNames home stay
  have hstay : ∀ {u : State}, u.Canonical → (stay u).Canonical := fun h => h.updDie
  split
  · exact hstay h.logFull
  split
  · exact hstay (.ite h.updDie h)
  extract_lets +onlyGivenNames w0 w1 count failed fire w1' s1
  have hs1 : s1.Canonical := (h.seUse ‹_›).devWriteBytes
  extract_lets +onlyGivenNames s2
  have hs2 : s2.Canonical := hs1.logDev
  split
  · exact hs2.decrement
  · exact hs2

theorem State.Canonical.childDone {l : Launch} {refused : Bool} (h : s.Canonical) : (s.childDone l refused).Canonical := by
  unfold State.childDone
  split
  · exact h
  · exact h.joinStep

theorem State.Canonical.settleJoins (h : s.Canonical) : s.settleJoins.Canonical := by
  unfold State.settleJoins
  refine h.foldl fun h => ?_
  extract_lets +onlyGivenNames js
  split
  · exact h
  · exact h.updDie.foldl fun h => h.joinStep

theorem State.Canonical.refuse {l : Launch} {reason : Nat} (h : s.Canonical) : (s.refuse l reason).Canonical :=
  h.writeStatus.childDone

theorem State.Canonical.completeGrid {g : Grid} {code : Nat} {signal : Bool} (h : s.Canonical) :
    (s.completeGrid g code signal).Canonical := by
  unfold State.completeGrid
  extract_lets +onlyGivenNames s1
  have hs1 : s1.Canonical := h.tickNow.updMem
  extract_lets +onlyGivenNames s2
  have hs2 : s2.Canonical := hs1.dropTensors
  extract_lets +onlyGivenNames s3
  have hs3 : s3.Canonical := hs2.frame
  extract_lets +onlyGivenNames s4
  have hs4 : s4.Canonical := hs3.writeStatus
  extract_lets +onlyGivenNames s5
  have hs5 : s5.Canonical := .ite hs4.decrement hs4
  exact hs5.childDone

theorem State.Canonical.endGrids {gs : List Grid} {code : Nat} (h : s.Canonical) : (s.endGrids gs code).Canonical := by
  unfold State.endGrids
  extract_lets us bs s1
  have hs1 : s1.Canonical := h.rebuild h.blocks.filter (h.cores.map fun _ => rfl)
  exact (hs1.foldl fun h => h.completeGrid).distribute

theorem State.Canonical.settleMasks (h : s.Canonical) : s.settleMasks.Canonical := by
  unfold State.settleMasks
  extract_lets +onlyGivenNames bare s1
  have hs1 : s1.Canonical := h.foldl fun h => h.endGrids
  exact hs1.foldl fun h => h.frame.refuse

theorem State.Canonical.settleWorlds (h : s.Canonical) : s.settleWorlds.Canonical := by
  unfold State.settleWorlds
  extract_lets +onlyGivenNames ready
  exact h.foldl fun h => h.updDie.updMem

theorem State.Canonical.enterGrid {l : Launch} (h : s.Canonical) : (s.enterGrid l).Canonical := by
  unfold State.enterGrid
  split
  extract_lets +onlyGivenNames total g
  exact (h.newName ‹_›).frame.distribute

theorem State.Canonical.publishLines {core p : Nat} {ls : List PLine} {agent : Nat} (h : s.Canonical) :
    (s.publishLines core p ls agent).Canonical := by
  unfold State.publishLines
  extract_lets +onlyGivenNames ok s1
  have hs1 : s1.Canonical := h.publish
  split
  · exact hs1
  · exact hs1.logDev

theorem State.Canonical.retireBlock {u agent : Nat} (h : s.Canonical) : (s.retireBlock u agent).Canonical := by
  unfold State.retireBlock
  split
  · exact h
  split
  · exact h
  extract_lets +onlyGivenNames p s1 s2 s3
  have hs1 : s1.Canonical := h.tickNow.unstageBytes
  have hs2 : s2.Canonical := hs1.updCluster
  have hs3 : s3.Canonical := by
    dsimp only [s3]
    split
    · exact hs2
    split
    · exact hs2.publishLines.updCluster
    split
    · exact hs2
    · exact hs2.logEntry
  clear_value s3
  extract_lets +onlyGivenNames s4 s5 s6 s7 s8
  have hs5 : s5.Canonical := hs3.updGrid.foldl fun h => h.upperBar.upperBar
  have hs6 : s6.Canonical := hs5.updCore
  clear_value s6
  have hs8 : s8.Canonical := (hs6.withBlocks hs6.blocks.filter : s7.Canonical).frame
  clear_value s8
  split
  · exact hs8
  · exact (State.Canonical.ite hs8.completeGrid hs8).distribute

theorem State.Canonical.detachWave {wid : Nat} (h : s.Canonical) : (s.detachWave wid).Canonical := by
  unfold State.detachWave
  split
  · exact h
  extract_lets +onlyGivenNames s1
  have hs1 : s1.Canonical := h.frame
  extract_lets +onlyGivenNames now s2
  have hs2 : s2.Canonical := hs1.updBlock
  split
  · exact hs2
  split
  · exact hs2.retireBlock
  · exact hs2.barAll.distribute

theorem Cx.fails_canonical {c : Cx} {t : Trap} (hc : c.s.Canonical) : (c.fails t).Canonical := by
  unfold Cx.fails
  split
  · exact hc.pendCause
  · exact trivial

theorem Cx.failsAt_canonical {s : State} {c : Cx} {t : Trap} (_ : c.s.Canonical) (h : s.Canonical) : (c.failsAt s t).Canonical := by
  unfold Cx.failsAt
  split
  · exact h.pendCause
  · exact h

/-! ## Objects in memory and launch records -/

theorem Cx.waitSlot_canonical {s : State} {c : Cx} {die stage aux : Nat} (hc : c.s.Canonical) (h : s.Canonical) :
    (c.waitSlot s die stage aux).Canonical :=
  .ite h h.updDie

theorem State.Canonical.setObj {p : Nat} {pl : Place} {i : Nat} {ws : List Dword} (h : s.Canonical) : (s.setObj p pl i ws).Canonical :=
  h.devWriteBytes

theorem State.Canonical.mbarArrive {p : Nat} {pl : Place} {n : Word} (h : s.Canonical) : (s.mbarArrive p pl n).Canonical := by
  unfold State.mbarArrive
  extract_lets +onlyGivenNames w0 w2 pending expect
  split
  · extract_lets +onlyGivenNames s1
    have hs1 : s1.Canonical := h.setObj
    split
    · exact hs1.decrement
    · exact hs1
  · exact h.setObj

theorem State.Canonical.engineArrive {die p : Nat} {wid : Option Nat} {a : Nat} {agent : Nat} {who : Nat × Nat} (h : s.Canonical)
    {t : State} (ht : s.engineArrive die p wid a agent who = .ok t) : t.Canonical := by
  unfold State.engineArrive at ht
  split at ht
  · cases ht; exact h
  split at ht
  · cases ht
  split at ht
  · cases ht
  split at ht
  · cases ht; exact (h.seTry ‹_›).mbarArrive.logDev
  extract_lets +onlyGivenNames s1 at ht
  have hs1 : s1.Canonical := (h.seTry ‹_›).updDie
  split at ht
  · injection ht with ht
    rw [← ht]
    exact hs1
  cases ht; exact hs1.pendCause

theorem State.Canonical.engineArrive_error {die p : Nat} {wid : Option Nat} {a : Nat} {agent : Nat} {who : Nat × Nat}
    (h : s.Canonical) {r : State} (ht : s.engineArrive die p wid a agent who = .error r) : r.Canonical := by
  unfold State.engineArrive at ht
  split at ht
  · cases ht
  split at ht
  · cases ht; exact h.logFull
  split at ht
  · cases ht; exact h.seTry_error ‹_›
  split at ht
  · cases ht
  extract_lets +onlyGivenNames s1 at ht
  have hs1 : s1.Canonical := (h.seTry ‹_›).updDie
  split at ht
  · cases ht
  · cases ht

theorem State.Canonical.loadCtx {p : Nat} (h : s.Canonical) : (s.loadCtx p).Canonical := by
  unfold State.loadCtx
  split
  split
  · exact h.updPart
  · exact h

theorem State.Canonical.readRecord_error {die p a agent : Nat} (h : s.Canonical) {r : State}
    (ht : s.readRecord die p a agent = .error r) : r.Canonical := by
  unfold State.readRecord at ht
  split at ht
  · cases ht; exact h.postFault
  · cases ht

theorem State.Canonical.takeRecord {l : Launch} {addr floor : Nat} (h : s.Canonical) {t : State} {r : Option Launch}
    (ht : s.takeRecord l addr floor = (t, r)) : t.Canonical := by
  unfold State.takeRecord at ht
  extract_lets +onlyGivenNames s1 at ht
  have hs1 : s1.Canonical := h.loadCtx
  split at ht
  · cases ht; exact (hs1.readRecord_error ‹_›).refuse
  split at ht
  · cases ht; exact hs1.refuse
  extract_lets +onlyGivenNames r1 at ht
  injection ht with ht _
  rw [← ht]
  exact hs1

theorem Cx.setK_canonical {s : State} {c : Cx} {x : Word} (hc : c.s.Canonical) (h : s.Canonical) : (c.setK s x).Canonical :=
  h.updWave

/-! ## Commits, barriers and waits as instructions -/

theorem execCommit_canonical {e : Enc} (h : s.Canonical) {t : State} (ht : execCommit e s = .next t) : t.Canonical := by
  unfold execCommit at ht
  refine simt_canonical h (fun hc => ?_) ht
  refine Cx.commit_canonical hc fun h => ?_
  exact h

theorem execCommitX_canonical {e : Enc} (h : s.Canonical) {t : State} (ht : execCommitX e s = .next t) : t.Canonical := by
  unfold execCommitX at ht
  refine simt_canonical h (fun hc => ?_) ht
  split
  · exact Cx.setK_canonical hc hc.updWave
  refine Cx.commit_canonical hc fun h => ?_
  exact Cx.setK_canonical hc h

theorem execAbortOp_canonical {e : Enc} (h : s.Canonical) {t : State} (ht : execAbortOp e s = .next t) : t.Canonical := by
  unfold execAbortOp at ht
  refine simt_canonical h (fun hc => ?_) ht
  split
  · exact hc.updWave
  · split
    · exact hc.abortBlock.logBlock
    · exact Cx.waitLog_canonical hc
  split
  · exact hc.abortCluster.logCluster
  · exact Cx.waitLog_canonical hc

theorem execAcq_canonical {e : Enc} (h : s.Canonical) {t : State} (ht : execAcq e s = .next t) : t.Canonical := by
  unfold execAcq at ht
  refine simt_canonical h (fun hc => ?_) ht
  exact hc.acquire

theorem Cx.awaitPhase_canonical {s : State} {c : Cx} {k : BarKind} {acqLvl p : Nat} (hc : c.s.Canonical) (h : s.Canonical) :
    (c.awaitPhase s k acqLvl p).Canonical := by
  unfold Cx.awaitPhase
  split
  · exact h.acquire
  · exact h

theorem Cx.barrier_canonical {c : Cx} {k : BarKind} {commitLvl acqLvl : Nat} (hc : c.s.Canonical) :
    (c.barrier k commitLvl acqLvl).Canonical := by
  unfold Cx.barrier
  refine Cx.commit_canonical hc fun h => ?_
  split
  · exact Cx.awaitPhase_canonical hc hc
  split
  exact Cx.awaitPhase_canonical hc (h.arrive ‹_›)

theorem execBarBlk_canonical {e : Enc} (h : s.Canonical) {t : State} (ht : execBarBlk e s = .next t) : t.Canonical :=
  simt_canonical h (fun hc => Cx.barrier_canonical hc) ht

theorem execBarArv_canonical {e : Enc} (h : s.Canonical) {t : State} (ht : execBarArv e s = .next t) : t.Canonical := by
  unfold execBarArv at ht
  refine simt_canonical h (fun hc => ?_) ht
  refine Cx.commit_canonical hc fun h => ?_
  exact h.arrive rfl

theorem execBarWt_canonical {e : Enc} (h : s.Canonical) {t : State} (ht : execBarWt e s = .next t) : t.Canonical := by
  unfold execBarWt at ht
  refine simt_canonical h (fun hc => ?_) ht
  split
  · exact hc.acquire
  · exact hc

theorem execBarClus_canonical {e : Enc} (h : s.Canonical) {t : State} (ht : execBarClus e s = .next t) : t.Canonical :=
  simt_canonical h (fun hc => Cx.barrier_canonical hc) ht

theorem execBarGrid_canonical {e : Enc} (h : s.Canonical) {t : State} (ht : execBarGrid e s = .next t) : t.Canonical := by
  unfold execBarGrid at ht
  refine simt_canonical h (fun hc => ?_) ht
  refine Cx.commit_canonical hc fun h => ?_
  extract_lets die
  split
  · split
    · exact Cx.awaitPhase_canonical hc hc
    split
    · exact Cx.waitSlot_canonical hc hc
    · exact Cx.awaitPhase_canonical hc (hc.seUse ‹_›)
  split
  · exact Cx.waitSlot_canonical hc h
  · obtain ⟨u, hu, hs⟩ := Option.bind_eq_some_iff.1 ‹_›
    split
    exact Cx.awaitPhase_canonical hc (((h.seUse hu).seUse hs).arrive ‹_›)

theorem execOwnGive_canonical {e : Enc} (h : s.Canonical) {t : State} (ht : execOwnGive e s = .next t) : t.Canonical := by
  unfold execOwnGive at ht
  refine simt_canonical h (fun hc => ?_) ht
  split
  extract_lets +onlyGivenNames inside
  split
  · exact hc
  split
  · exact trivial
  split
  · exact Cx.waitOwner_canonical hc
  extract_lets +onlyGivenNames ls
  split
  · exact Cx.waitLog_canonical hc
  extract_lets +onlyGivenNames s1
  have hs1 : s1.Canonical := .ite hc hc.toBlockLevel.logBlock
  extract_lets +onlyGivenNames setTag tag
  exact hs1.updBlock

theorem execOwnTst_canonical {e : Enc} (h : s.Canonical) {t : State} (ht : execOwnTst e s = .next t) : t.Canonical := by
  unfold execOwnTst at ht
  refine simt_canonical h (fun hc => ?_) ht
  split
  split
  · exact Cx.setK_canonical hc hc
  split
  · exact trivial
  · exact Cx.setK_canonical hc hc

theorem execMbarInit_canonical {e : Enc} (h : s.Canonical) {t : State} (ht : execMbarInit e s = .next t) : t.Canonical := by
  unfold execMbarInit at ht
  refine simt_canonical h (fun hc => ?_) ht
  extract_lets +onlyGivenNames a expect sig
  split
  · exact trivial
  split
  · exact trivial
  extract_lets +onlyGivenNames die
  split
  · exact trivial
  split
  · exact Cx.waitLog_canonical hc
  split
  · exact Cx.waitSlot_canonical hc hc
  extract_lets +onlyGivenNames s1
  have hs1 : s1.Canonical := (hc.seUse ‹_›).setObj
  exact hs1.logDev

theorem execMbarArv_canonical {e : Enc} (h : s.Canonical) {t : State} (ht : execMbarArv e s = .next t) : t.Canonical := by
  unfold execMbarArv at ht
  refine simt_canonical h (fun hc => ?_) ht
  extract_lets +onlyGivenNames a n
  split
  · exact trivial
  extract_lets +onlyGivenNames die
  refine Cx.commit_canonical hc fun h => ?_
  split
  · exact h
  split
  · exact h
  split
  · exact h.logFull
  split
  · exact Cx.waitSlot_canonical hc h
  extract_lets +onlyGivenNames phase s1
  have hs1 : s1.Canonical := .ite (h.seUse ‹_›) (h.seUse ‹_›).mbarArrive.logDev
  exact hs1.updWave

theorem Cx.awaitObject_canonical {s : State} {c : Cx} {pl : Place} {why : Wait} {passed : State → Bool} (hc : c.s.Canonical)
    (h : s.Canonical) : (c.awaitObject s pl why passed).Canonical := by
  unfold Cx.awaitObject
  extract_lets +onlyGivenNames die
  split
  · exact h.acquire
  split
  · exact Cx.waitSlot_canonical hc h
  · exact h.seUse ‹_›

theorem execMbarWait_canonical {e : Enc} (h : s.Canonical) {t : State} (ht : execMbarWait e s = .next t) : t.Canonical := by
  unfold execMbarWait at ht
  refine simt_canonical h (fun {c} hc => ?_) ht
  extract_lets a ph wait
  have hwait : ∀ {u : State} {pl : Place}, u.Canonical → (wait u pl).Canonical := fun h => Cx.awaitObject_canonical hc h
  clear_value wait
  split
  · exact hwait hc
  split
  · exact trivial
  split
  · exact Cx.waitSlot_canonical hc hc
  split
  · exact hwait (hc.seUse ‹_›)
  · exact trivial

/-! ## Traps, return, the save, modes and sleep -/

theorem execTrapOp_canonical {e : Enc} (h : s.Canonical) {t : State} (ht : execTrapOp e s = .next t) : t.Canonical := by
  unfold execTrapOp at ht
  refine simt_canonical h (fun hc => ?_) ht
  exact trivial

theorem execRte_canonical {e : Enc} (h : s.Canonical) {t : State} (ht : execRte e s = .next t) : t.Canonical := by
  unfold execRte at ht
  refine simt_canonical h (fun hc => ?_) ht
  split
  · exact trivial
  split
  · exact hc
  · exact hc.returnFromHandler

theorem Cx.endSave_canonical {c : Cx} (hc : c.s.Canonical) : c.endSave.Canonical := by
  unfold Cx.endSave
  split
  · exact hc
  · exact hc.updWave

theorem execYieldOp_canonical {e : Enc} (h : s.Canonical) {t : State} (ht : execYieldOp e s = .next t) : t.Canonical := by
  unfold execYieldOp at ht
  refine simt_canonical h (fun hc => ?_) ht
  split
  · exact Cx.endSave_canonical hc
  split
  · exact hc
  split
  · exact hc.hardwareSave
  · exact hc.enterSave

theorem execModeOp_canonical {e : Enc} (h : s.Canonical) {t : State} (ht : execModeOp e s = .next t) : t.Canonical := by
  unfold execModeOp at ht
  refine simt_canonical h (fun hc => ?_) ht
  extract_lets +onlyGivenNames m v
  split
  · exact trivial
  · exact hc.updWave

theorem execGetm_canonical {e : Enc} (h : s.Canonical) {t : State} (ht : execGetm e s = .next t) : t.Canonical := by
  unfold execGetm at ht
  refine simt_canonical h (fun hc => ?_) ht
  exact hc.updWave

theorem execRdpr_canonical {e : Enc} (h : s.Canonical) {t : State} (ht : execRdpr e s = .next t) : t.Canonical := by
  unfold execRdpr at ht
  refine simt_canonical h (fun hc => ?_) ht
  split
  · exact trivial
  split
  · exact trivial
  · exact hc.updWave

theorem execWrpr_canonical {e : Enc} (h : s.Canonical) {t : State} (ht : execWrpr e s = .next t) : t.Canonical := by
  unfold execWrpr at ht
  refine simt_canonical h (fun hc => ?_) ht
  split
  · exact trivial
  extract_lets +onlyGivenNames id x
  split
  · exact trivial
  · exact hc.updWave

theorem execBkpt_canonical {e : Enc} (h : s.Canonical) {t : State} (ht : execBkpt e s = .next t) : t.Canonical := by
  unfold execBkpt at ht
  refine simt_canonical h (fun hc => ?_) ht
  split
  · exact hc.pendCause
  · exact trivial

theorem execSleep_canonical {e : Enc} (h : s.Canonical) {t : State} (ht : execSleep e s = .next t) : t.Canonical := by
  unfold execSleep at ht
  refine simt_canonical h (fun hc => ?_) ht
  extract_lets +onlyGivenNames n stay
  have hstay : ∀ {u : State}, u.Canonical → (stay u).Canonical := fun h => h
  clear_value stay
  split
  · exact hc
  split
  · split
    · exact hc
    · exact hstay hc
  split
  · exact hc
  · exact hstay hc.updWave

/-! ## Atomics -/

theorem Cx.atomWrite_canonical {s : State} {c : Cx} {q : Piece} {pl : Place} {v : Nat} (hc : c.s.Canonical) (h : s.Canonical) :
    (c.atomWrite s q pl v).Canonical := by
  unfold Cx.atomWrite
  extract_lets +onlyGivenNames ls
  split
  · exact h.intoBuffer
  · exact h.tickNow.unstage.updBlock.logBlock
  · exact h.tickNow.unstageBytes.updCluster.logCluster
  extract_lets +onlyGivenNames bs s1
  have hs1 : s1.Canonical := .ite h.devWriteBytes (h.foldl fun h => h.homeWrite)
  exact hs1.logDev

theorem Cx.atomLine_canonical {s : State} {c : Cx} {qs : List Piece} (hc : c.s.Canonical) (h : s.Canonical) {t : State} {r : List
    (Nat × Nat)} (ht : c.atomLine s qs = (t, r)) : t.Canonical := by
  unfold Cx.atomLine at ht
  split at ht
  · obtain rfl : _ = t := congrArg Prod.fst ht
    exact foldl_fst_canonical h fun hx => Cx.atomWrite_canonical hc hx
  · cases ht; exact h

theorem Cx.keepOlds_canonical {s : State} {c : Cx} {olds : List (Nat × Nat)} (hc : c.s.Canonical) (h : s.Canonical) :
    (c.keepOlds s olds).Canonical :=
  h.updWave

theorem Cx.atomEnd_canonical {s : State} {c : Cx} {olds : List (Nat × Nat)} (hc : c.s.Canonical) (h : s.Canonical) :
    (c.atomEnd s olds).Canonical := by
  unfold Cx.atomEnd
  extract_lets +onlyGivenNames wide s1
  have hs1 : s1.Canonical := h.updWave
  exact .ite hs1.acquire hs1

theorem Cx.atomSlot_canonical {s : State} {c : Cx} {q : Piece} (hc : c.s.Canonical) (h : s.Canonical) {t : State}
    (ht : c.atomSlot s q = some t) : t.Canonical := by
  unfold Cx.atomSlot at ht
  split at ht
  · cases ht; exact h
  split at ht
  · split at ht
    · exact h.seUse ‹_›
    cases ht; exact h
  cases ht; exact h

theorem Cx.atomRoom_canonical {s : State} {c : Cx} {qs : List Piece} (hc : c.s.Canonical) (h : s.Canonical) {t : State}
    (ht : c.atomRoom s qs = .ok t) : t.Canonical := by
  unfold Cx.atomRoom at ht
  extract_lets +onlyGivenNames ls c' at ht
  have hc' : c'.s.Canonical := Cx.on_canonical h
  split at ht
  · split at ht
    · cases ht; exact h
    split at ht
    · cases ht
    · exact Cx.commitStart_canonical hc' ‹_›
  split at ht
  · cases ht
  cases ht; exact h

theorem Cx.atomRoom_error_canonical {s : State} {c : Cx} {qs : List Piece} (hc : c.s.Canonical) (h : s.Canonical) {r : Res}
    (ht : c.atomRoom s qs = .error r) : r.Canonical := by
  unfold Cx.atomRoom at ht
  extract_lets +onlyGivenNames ls c' at ht
  have hc' : c'.s.Canonical := Cx.on_canonical h
  split at ht
  · split at ht
    · cases ht
    split at ht
    · cases ht; exact trivial
    · exact Cx.commitStart_error_canonical hc' ‹_›
  split at ht
  · cases ht; exact h
  · cases ht

theorem State.Canonical.pickLine {lines : List Nat} (h : s.Canonical) {n : Nat} {t : State} (ht : s.pickLine lines =
    (n, t)) : t.Canonical := by
  unfold State.pickLine at ht
  split at ht
  · cases ht; exact h
  cases ht; exact h.frame

theorem Cx.atomStep_canonical {s : State} {c : Cx} (hc : c.s.Canonical) (h : s.Canonical) : (c.atomStep s).Canonical := by
  unfold Cx.atomStep
  extract_lets +onlyGivenNames qs
  split
  · exact Cx.atomEnd_canonical hc h
  split
  · exact h
  split
  · split
    · exact h
    · exact h
  split
  extract_lets +onlyGivenNames now
  split
  · exact (h.pickLine ‹_›).logFull
  clear_value now
  split
  · exact Cx.atomEnd_canonical hc (h.pickLine ‹_›)
  split
  · exact Cx.waitSlot_canonical hc (h.pickLine ‹_›)
  split
  extract_lets +onlyGivenNames olds
  split
  · exact (Cx.atomEnd_canonical hc (Cx.atomLine_canonical hc (Cx.atomSlot_canonical hc (h.pickLine ‹_›) ‹_›) ‹_›))
  extract_lets +onlyGivenNames before left
  exact (Cx.keepOlds_canonical hc (Cx.atomLine_canonical hc (Cx.atomSlot_canonical hc (h.pickLine ‹_›) ‹_›) ‹_›))

theorem Cx.atomFailed_canonical {c : Cx} (hc : c.s.Canonical) : c.atomFailed.Canonical := by
  unfold Cx.atomFailed
  split
  · exact hc.pendCause
  · exact hc

theorem Cx.atomGo_canonical {s : State} {c : Cx} (hc : c.s.Canonical) (h : s.Canonical) : (c.atomGo s).Canonical := by
  unfold Cx.atomGo
  extract_lets +onlyGivenNames qs
  split
  · exact Cx.atomRoom_error_canonical hc h ‹_›
  extract_lets +onlyGivenNames places
  split
  · exact (Cx.atomRoom_canonical hc h ‹_›).pendCause
  · exact (Cx.atomStep_canonical (Cx.on_canonical (Cx.atomRoom_canonical hc h ‹_›)) (Cx.atomRoom_canonical hc h ‹_›))

theorem atomic_canonical {op : Nat} {e : Enc} (h : s.Canonical) {t : State} (ht : atomic op e s = .next t) : t.Canonical := by
  unfold atomic at ht
  refine simt_canonical h (fun hc => ?_) ht
  split
  · exact Cx.atomStep_canonical hc hc
  split
  · exact Cx.atomFailed_canonical hc
  split
  · exact trivial
  split
  · refine Cx.commit_canonical hc fun h => ?_
    exact Cx.atomGo_canonical hc h
  · exact Cx.atomGo_canonical hc hc

theorem execAtomAdd_canonical {e : Enc} (h : s.Canonical) {t : State} (ht : execAtomAdd e s = .next t) : t.Canonical :=
  atomic_canonical h ht

theorem execAtomMin_canonical {e : Enc} (h : s.Canonical) {t : State} (ht : execAtomMin e s = .next t) : t.Canonical :=
  atomic_canonical h ht

theorem execAtomMax_canonical {e : Enc} (h : s.Canonical) {t : State} (ht : execAtomMax e s = .next t) : t.Canonical :=
  atomic_canonical h ht

theorem execAtomAnd_canonical {e : Enc} (h : s.Canonical) {t : State} (ht : execAtomAnd e s = .next t) : t.Canonical :=
  atomic_canonical h ht

theorem execAtomOr_canonical {e : Enc} (h : s.Canonical) {t : State} (ht : execAtomOr e s = .next t) : t.Canonical :=
  atomic_canonical h ht

theorem execAtomXor_canonical {e : Enc} (h : s.Canonical) {t : State} (ht : execAtomXor e s = .next t) : t.Canonical :=
  atomic_canonical h ht

theorem execAtomExch_canonical {e : Enc} (h : s.Canonical) {t : State} (ht : execAtomExch e s = .next t) : t.Canonical :=
  atomic_canonical h ht

theorem execAtomCas_canonical {e : Enc} (h : s.Canonical) {t : State} (ht : execAtomCas e s = .next t) : t.Canonical :=
  atomic_canonical h ht

theorem execAtomInc_canonical {e : Enc} (h : s.Canonical) {t : State} (ht : execAtomInc e s = .next t) : t.Canonical :=
  atomic_canonical h ht

/-! ## Control -/

theorem execBr_canonical {e : Enc} (h : s.Canonical) {t : State} (ht : execBr e s = .next t) : t.Canonical := by
  unfold execBr at ht
  refine simt_canonical h (fun hc => ?_) ht
  extract_lets +onlyGivenNames t1 taken
  split
  · exact hc
  · exact hc

theorem execSplit_canonical {e : Enc} (h : s.Canonical) {t : State} (ht : execSplit e s = .next t) : t.Canonical := by
  unfold execSplit at ht
  refine simt_canonical h (fun hc => ?_) ht
  split
  · exact trivial
  extract_lets +onlyGivenNames label m s'
  have hs' : s'.Canonical := hc.updWave
  split
  · exact hs'
  · exact hs'

theorem execJoin_canonical {e : Enc} (h : s.Canonical) {t : State} (ht : execJoin e s = .next t) : t.Canonical := by
  unfold execJoin at ht
  refine simt_canonical h (fun hc => ?_) ht
  split
  · exact trivial
  · exact hc.updWave

theorem execLoop_canonical {e : Enc} (h : s.Canonical) {t : State} (ht : execLoop e s = .next t) : t.Canonical := by
  unfold execLoop at ht
  refine simt_canonical h (fun hc => ?_) ht
  split
  · extract_lets +onlyGivenNames x s'
    have hs' : s'.Canonical := hc.updWave
    split
    · exact hs'
    · exact hs'
  · exact hc

theorem execCall_canonical {e : Enc} (h : s.Canonical) {t : State} (ht : execCall e s = .next t) : t.Canonical := by
  unfold execCall at ht
  refine simt_canonical h (fun hc => ?_) ht
  split
  · exact hc.updWave
  · exact hc

theorem jumpPair_canonical {c : Cx} (hc : c.s.Canonical) : (jumpPair c).Canonical := by
  unfold jumpPair
  split
  · extract_lets +onlyGivenNames t
    split
    · exact trivial
    · exact hc
  · exact hc

theorem execRet_canonical {e : Enc} (h : s.Canonical) {t : State} (ht : execRet e s = .next t) : t.Canonical :=
  simt_canonical h (fun hc => Machine.jumpPair_canonical hc) ht

theorem execJmp_canonical {e : Enc} (h : s.Canonical) {t : State} (ht : execJmp e s = .next t) : t.Canonical :=
  simt_canonical h (fun hc => Machine.jumpPair_canonical hc) ht

theorem execNop_canonical {e : Enc} (h : s.Canonical) {t : State} (ht : execNop e s = .next t) : t.Canonical := by
  unfold execNop at ht
  refine simt_canonical h (fun hc => ?_) ht
  exact hc

/-! ## Roles, growth and tasks -/

theorem State.Canonical.performSwitch {w : Wave} {r : LaunchRec} {j : BitVec 2} (h : s.Canonical) : (s.performSwitch w r j).Canonical :=
  h.updWave.distribute

theorem execBlkGrow_canonical {e : Enc} (h : s.Canonical) {t : State} (ht : execBlkGrow e s = .next t) : t.Canonical := by
  unfold execBlkGrow at ht
  refine simt_canonical h (fun hc => ?_) ht
  split
  exact (hc.growBlock ‹_›).updWave

theorem execBlkLeave_canonical {e : Enc} (h : s.Canonical) {t : State} (ht : execBlkLeave e s = .next t) : t.Canonical := by
  unfold execBlkLeave at ht
  refine simt_canonical h (fun {c} hc => ?_) ht
  extract_lets c'
  have hc' : c'.s.Canonical := by
    dsimp only [c']
    split
    · exact hc
    · exact Cx.on_canonical hc.updWave
  clear_value c'
  split
  · exact hc'
  split
  · exact hc'
  have hcom : (c'.commit 0 .done).Canonical := Cx.commit_canonical hc' fun h => h
  generalize c'.commit 0 .done = r at hcom ⊢
  split
  · split
    split
    · exact hcom
    split
    · exact State.Canonical.logFull hcom
    · exact State.Canonical.detachWave hcom
  · exact hc'
  · exact hcom

theorem execRole_canonical {e : Enc} (h : s.Canonical) {t : State} (ht : execRole e s = .next t) : t.Canonical := by
  unfold execRole at ht
  refine simt_canonical h (fun hc => ?_) ht
  extract_lets +onlyGivenNames j mask
  split
  · exact trivial
  extract_lets +onlyGivenNames ws
  split
  · exact Cx.setK_canonical hc hc
  extract_lets +onlyGivenNames mark
  have hmark : ∀ {u : State} {a2}, u.Canonical → (mark u a2).Canonical := fun h => h.updWave
  clear_value mark
  extract_lets +onlyGivenNames s1
  have hs1 : s1.Canonical := by
    dsimp only [s1]
    refine (Cx.setK_canonical hc hc).foldl fun h => ?_
    exact hmark h
  split
  · exact hs1.performSwitch
  · exact hs1

theorem execTaskSpawn_canonical {e : Enc} (h : s.Canonical) {t : State} (ht : execTaskSpawn e s = .next t) : t.Canonical := by
  unfold execTaskSpawn at ht
  refine simt_canonical h (fun hc => ?_) ht
  extract_lets +onlyGivenNames rec_ j die child submit
  have hsubmit : ∀ {u : State}, u.Canonical → (submit u).Canonical := fun h => h.updDie
  clear_value submit
  split
  · exact trivial
  split
  · exact trivial
  refine Cx.commit_canonical hc fun h => ?_
  split
  · exact h
  split
  · exact hsubmit h
  split
  · exact h
  split
  · exact h.logFull
  split
  · exact Cx.waitSlot_canonical hc h
  · exact hsubmit (h.seUse ‹_›).setObj.logDev

theorem execTaskJoin_canonical {e : Enc} (h : s.Canonical) {t : State} (ht : execTaskJoin e s = .next t) : t.Canonical := by
  unfold execTaskJoin at ht
  refine simt_canonical h (fun hc => ?_) ht
  extract_lets +onlyGivenNames j t1
  split
  · exact trivial
  extract_lets +onlyGivenNames die
  split
  · exact trivial
  split
  · exact Cx.waitLog_canonical hc
  split
  · exact Cx.waitSlot_canonical hc hc
  extract_lets +onlyGivenNames w1 s'
  have hs' : s'.Canonical := .ite (hc.seUse ‹_›).setObj.decrement (hc.seUse ‹_›).setObj
  exact hs'.logDev

theorem execTaskWait_canonical {e : Enc} (h : s.Canonical) {t : State} (ht : execTaskWait e s = .next t) : t.Canonical := by
  unfold execTaskWait at ht
  refine simt_canonical h (fun hc => ?_) ht
  extract_lets +onlyGivenNames wait
  have hwait : ∀ {u : State} {a2}, u.Canonical → (wait u a2).Canonical := fun h => (Cx.awaitObject_canonical hc h)
  clear_value wait
  split
  · exact hwait hc
  split
  · exact trivial
  split
  · exact Cx.waitSlot_canonical hc hc
  · exact hwait (hc.seUse ‹_›)

theorem Block.drainDrops_scr {r n : Nat} {b : Block} : (Block.drainDrops r n b).scr = b.scr := by
  induction n generalizing b with
  | zero => rfl
  | succ n ih =>
    simp only [Block.drainDrops]
    split
    · exact ih
    · rfl

theorem Block.fills_scr {b : Block} {r : Nat} {es : List Word} : (b.fills r es).scr = b.scr := Block.drainDrops_scr

theorem Block.foldl_pop_scr {b : Block} {r : Nat} {es : List Word} : (es.foldl (fun b e => b.pop r e) b).scr = b.scr := by
  induction es generalizing b with
  | nil => rfl
  | cons e es ih => exact ih

theorem State.Canonical.copySlice {die n : Nat} {c : Cmd} {k : CopyCmd} {t : State} (h : s.Canonical)
    (ht : s.copySlice die c k = .moved t n) : t.Canonical := by
  unfold State.copySlice at ht
  split at ht
  · cases ht
  extract_lets r x e ts slice at ht
  split at ht
  · cases ht
  refine List.foldlRecOn _ _ (motive := fun u => ∀ v m, u = Unit1.moved v m → v.Canonical) (b := .moved s 1) (fun v m hv => ?_)
    (fun u hu y _ v m hv => ?_) _ _ ht
  · cases hv
    exact h
  · split at hv
    · extract_lets part at hv
      split at hv
      · cases hv
      · cases hv
        exact (hu _ _ rfl).updBlockOf fun _ hb => Memory.writeN_wf hb _ _
    · exact hu _ _ hv

theorem State.Canonical.copyChunk {die n : Nat} {c : Cmd} {k : CopyCmd} {t : State} (h : s.Canonical)
    (ht : s.copyChunk die c k = .moved t n) : t.Canonical := by
  unfold State.copyChunk at ht
  extract_lets +onlyGivenNames kind src dst m owned read at ht
  clear_value read
  split at ht
  · cases ht
  split at ht
  · cases ht
  split at ht
  · injection ht with ht
    exact ht ▸ h.updBlockOf fun _ hb => Memory.writeN_wf hb _ _
  split at ht
  · cases ht
  · injection ht with ht
    exact ht ▸ (h.vwrite ‹_›).logDev

/-! ## Tensors, rings and copy queues -/

theorem State.Canonical.tensorEntry {die p id : Nat} (h : s.Canonical) {r : TEntry} {t : State} (ht : s.tensorEntry die p id = .ok
    (r, t)) : t.Canonical := by
  unfold State.tensorEntry at ht
  split at ht
  · cases ht; exact h
  split at ht
  · cases ht
  extract_lets +onlyGivenNames t1 at ht
  injection ht with ht
  injection ht with _ ht
  rw [← ht]
  exact h.updDie

theorem Cx.tensor_canonical {c : Cx} {id : Nat} (hc : c.s.Canonical) {r : TEntry} {t : State} (ht : c.tensor id = .ok
    (r, t)) : t.Canonical := by
  unfold Cx.tensor at ht
  split at ht
  · cases ht
  split at ht
  · cases ht
  cases ht; exact hc.tensorEntry ‹_›

theorem execTset_canonical {e : Enc} (h : s.Canonical) {t : State} (ht : execTset e s = .next t) : t.Canonical := by
  unfold execTset at ht
  refine simt_canonical h (fun hc => ?_) ht
  extract_lets +onlyGivenNames id i
  split
  · exact trivial
  split
  · exact hc
  split
  · exact Cx.waitLog_canonical hc
  extract_lets +onlyGivenNames a
  split
  · exact Cx.fails_canonical hc
  · exact (hc.vwrite ‹_›).dropTensors.logDev

theorem execTget_canonical {e : Enc} (h : s.Canonical) {t : State} (ht : execTget e s = .next t) : t.Canonical := by
  unfold execTget at ht
  refine simt_canonical h (fun hc => ?_) ht
  extract_lets +onlyGivenNames id i
  split
  · exact trivial
  split
  · exact Cx.fails_canonical hc
  · exact (hc.tensorEntry ‹_›).updWave

theorem execTld_canonical {e : Enc} (h : s.Canonical) {t : State} (ht : execTld e s = .next t) : t.Canonical := by
  unfold execTld at ht
  refine simt_canonical h (fun hc => ?_) ht
  extract_lets +onlyGivenNames id
  split
  · exact trivial
  split
  · exact Cx.fails_canonical hc
  extract_lets +onlyGivenNames first
  split
  · exact trivial
  extract_lets +onlyGivenNames c
  have hc : c.s.Canonical := Cx.on_canonical (Cx.tensor_canonical hc ‹_›)
  extract_lets +onlyGivenNames nf idx at_ size addr scale band bytes ps kind
  exact Cx.issueLoad_canonical hc

theorem State.Canonical.begin {c : Cmd} (h : s.Canonical) : (s.begin c).Canonical :=
  h.frame

theorem State.Canonical.addCmd {c : Cmd} (h : s.Canonical) : (s.addCmd c).Canonical :=
  h.frame

theorem execRingSet_canonical {e : Enc} (h : s.Canonical) {t : State} (ht : execRingSet e s = .next t) : t.Canonical := by
  unfold execRingSet at ht
  refine simt_canonical h (fun hc => ?_) ht
  extract_lets +onlyGivenNames g t1 n z r
  split
  · exact trivial
  split
  · exact trivial
  split
  · exact hc
  · exact hc.updBlock

theorem Cx.ringFills_canonical {a1 : State} {c : Cx} {r : Nat} {first : Word} {n : Nat} {line : Word} {left i : Nat}
    (hc : c.s.Canonical) (h : a1.Canonical) : (c.ringFills r first n line left i a1).Canonical := by
  induction left generalizing a1 i with
  | zero => exact h
  | succ n ih =>
    unfold Cx.ringFills
    extract_lets +onlyGivenNames c' x e ts aux
    split
    · exact h
    split
    · exact h
    extract_lets +onlyGivenNames ls
    split
    · exact h.drainWaits
    extract_lets +onlyGivenNames u v w
    split
    · exact h.drainLoads.logFull
    have hv : v.Canonical := .ite h.drainLoads h.drainLoads.toBlockLevel.logBlock
    exact ih (hv.updBlock fun _ => Block.fills_scr)

theorem execRingAdv_canonical {e : Enc} (h : s.Canonical) {t : State} (ht : execRingAdv e s = .next t) : t.Canonical := by
  unfold execRingAdv at ht
  refine simt_canonical h (fun hc => ?_) ht
  extract_lets +onlyGivenNames r n l
  split
  · exact trivial
  split
  · exact trivial
  split
  · exact Cx.ringFills_canonical hc hc
  extract_lets +onlyGivenNames first
  exact Cx.ringFills_canonical hc hc.updBlock

theorem execRingRd_canonical {e : Enc} (h : s.Canonical) {t : State} (ht : execRingRd e s = .next t) : t.Canonical := by
  unfold execRingRd at ht
  refine simt_canonical h (fun hc => ?_) ht
  extract_lets +onlyGivenNames r
  split
  · exact trivial
  extract_lets +onlyGivenNames x
  exact hc.updWave

theorem State.Canonical.endCmd {c : Cmd} {fail : Option BatchFail} (h : s.Canonical) : (s.endCmd c fail).Canonical := by
  unfold State.endCmd
  extract_lets +onlyGivenNames s1
  have hs1 : s1.Canonical := h.frame
  split
  · exact hs1
  · exact hs1.updWave

theorem execCpClose_canonical {e : Enc} (h : s.Canonical) {t : State} (ht : execCpClose e s = .next t) : t.Canonical := by
  unfold execCpClose at ht
  refine simt_canonical h (fun hc => ?_) ht
  split
  · exact hc
  · exact hc.updWave

theorem execCpWait_canonical {e : Enc} (h : s.Canonical) {t : State} (ht : execCpWait e s = .next t) : t.Canonical := by
  unfold execCpWait at ht
  refine simt_canonical h (fun hc => ?_) ht
  extract_lets +onlyGivenNames n bs
  split
  · exact hc
  extract_lets +onlyGivenNames s1
  have hs1 : s1.Canonical := hc.acquire
  split
  · exact hs1
  · exact hs1

theorem Cx.pushPacket_canonical {s : State} {c : Cx} {cq : Nat} {ws : List Dword} {t : TEntry} {slot first : Nat}
    (hc : c.s.Canonical) (h : s.Canonical) : (c.pushPacket s cq ws t slot first).Canonical := by
  unfold Cx.pushPacket
  extract_lets +onlyGivenNames die
  split
  · exact Cx.failsAt_canonical hc h
  extract_lets +onlyGivenNames stay stay1
  have hstay1 : ∀ {u : State} {a2}, u.Canonical → (stay1 u a2).Canonical := fun h => h.updWave
  clear_value stay1
  split
  · exact hstay1 h
  split
  · exact hstay1 h
  split
  · exact hstay1 h.logFull
  split
  · exact Cx.failsAt_canonical hc h
  extract_lets +onlyGivenNames s1
  have hs1 : s1.Canonical := (h.vwrite ‹_›).logDev
  split
  split
  extract_lets +onlyGivenNames k s2
  have hs2 : s2.Canonical := (hs1.newName ‹_›).addCmd
  exact hs2.updWave

theorem State.Canonical.claimSlot {die p : Nat} {q : CopyQueue} (h : s.Canonical) {t : State}
    (ht : s.claimSlot die p q = .ok t) : t.Canonical := by
  unfold State.claimSlot at ht
  split at ht
  · cases ht
  split at ht
  · cases ht
  next u hu =>
  have hs : u.Canonical := .ofIte hu (fun hu => h.seUse hu) (fun hu => by cases hu; exact h)
  cases hw : u.vwrite die p (q.va + 16) (leBytes 8 (q.write + 1#64).toNat) with
  | error f => rw [hw] at ht; cases ht
  | ok v =>
    rw [hw] at ht
    cases ht; exact hs.vwrite hw

theorem execCpPush_canonical {e : Enc} (h : s.Canonical) {t : State} (ht : execCpPush e s = .next t) : t.Canonical := by
  unfold execCpPush at ht
  refine simt_canonical h (fun {c} hc => ?_) ht
  extract_lets +onlyGivenNames cq die m ws t38 bad ring
  split
  · exact Cx.pushPacket_canonical hc hc
  split
  · exact trivial
  split
  · exact trivial
  split
  · exact Cx.fails_canonical hc
  split
  · exact trivial
  extract_lets +onlyGivenNames r
  split
  · exact Cx.fails_canonical hc
  next t u hu =>
  have h1 : u.Canonical := .ofIte hu (fun hu => Cx.tensor_canonical hc hu) (fun hu => by cases hu; exact hc)
  extract_lets +onlyGivenNames n slice
  split
  · exact trivial
  split
  · exact hc
  split
  · exact Cx.waitLog_canonical hc
  split
  · exact Cx.fails_canonical hc
  · exact Cx.waitSlot_canonical hc hc
  · extract_lets +onlyGivenNames v w
    have hv : v.Canonical := (h1.claimSlot ‹_›).logDev
    clear_value v
    exact Cx.pushPacket_canonical hc (.ite hv.updBlock hv)

theorem State.Canonical.scramble {blk a n : Nat} (h : s.Canonical) : (s.scramble blk a n).Canonical :=
  (h.updBlockOf fun _ hb => Memory.foldl_wf (fun _ _ hm => Memory.write_wf hm _ _) _ hb).frame

theorem State.Canonical.undefine {blk r : Nat} {es : List Word} (h : s.Canonical) : (s.undefine blk r es).Canonical := by
  unfold State.undefine
  split
  · exact h
  · exact h.foldl fun h => h.scramble

theorem State.Canonical.copyStep {c : Cmd} {k : CopyCmd} {die : Nat} (h : s.Canonical) : (s.copyStep c k die).Canonical := by
  unfold State.copyStep
  extract_lets +onlyGivenNames set
  split
  · exact h
  split
  · exact h.logFull
  split
  · exact h
  next u n hu =>
    have hs : u.Canonical := .ofIte hu (fun hu => h.copySlice hu) (fun hu => h.copyChunk hu)
    exact hs.updCmd
  · split
    · split
      · exact h
      · exact State.Canonical.postFault h.updCmd
    · exact h.updCmd

theorem execCopyPacket_canonical {p cq : Nat} (h : s.Canonical) {t : State} (ht : execCopyPacket p cq s = .next t) : t.Canonical := by
  unfold execCopyPacket at ht
  extract_lets +onlyGivenNames stop at ht
  have hstop : stop.Canonical := h.updPart
  clear_value stop
  split at ht
  · cases ht; exact h
  split at ht
  · cases ht; exact hstop
  extract_lets +onlyGivenNames die at ht
  split at ht
  · cases ht; exact h
  split at ht
  · cases ht; exact hstop
  split at ht
  · cases ht; exact h
  extract_lets +onlyGivenNames slot at ht
  split at ht
  · cases ht; exact hstop
  extract_lets +onlyGivenNames ws agent put take at ht
  have hput : ∀ {u : State} {va n : Nat}, u.Canonical → (put u va n).Canonical := by
    intro u va n hu
    dsimp only [put]
    split
    · exact hu
    · exact (hu.vwrite ‹_›).logDev
  clear_value put
  have htake : ∀ {u : State}, u.Canonical → (take u).Canonical := fun hu => hput (hput hu)
  clear_value take
  split at ht
  · cases ht; exact h
  split at ht
  · cases ht; exact h.logFull
  split at ht
  · split at ht
    · split at ht
      · cases ht; exact h
      · cases ht; exact (htake h).updCmd.copyStep
    · cases ht; exact h
  split at ht
  · cases ht; exact hput (htake h)
  split at ht
  next id u hu =>
  cases ht; exact (htake (h.newName hu).addCmd).copyStep

theorem execCopyFaultResume_canonical {cmd : Nat} (h : s.Canonical) {t : State}
    (ht : execCopyFaultResume cmd s = .next t) : t.Canonical := by
  unfold execCopyFaultResume at ht
  split at ht
  · cases ht; exact h
  split at ht
  · cases ht
    split
    · exact h.copyStep
    · exact h
  cases ht; exact h

theorem State.Canonical.landTiles {c : Cmd} {k : CopyCmd} (h : s.Canonical) : (s.landTiles c k).Canonical := by
  unfold State.landTiles
  extract_lets +onlyGivenNames ws n
  split
  · extract_lets +onlyGivenNames r es line u
    have hu : u.Canonical := .ite h.undefine h
    exact hu.updBlock fun _ => Block.fills_scr
  · exact h.updBlock
  · exact h.updBlock
  · exact h

theorem State.Canonical.landCopy {c : Cmd} {k : CopyCmd} (h : s.Canonical) : (s.landCopy c k).Canonical := by
  unfold State.landCopy
  extract_lets +onlyGivenNames slotAddr s1
  have hs1 : s1.Canonical := h.landTiles.endCmd
  exact hs1.addCmd

theorem State.Canonical.leaveCopy {c : Cmd} {k : CopyCmd} (h : s.Canonical) : (s.leaveCopy c k).Canonical := by
  unfold State.leaveCopy
  extract_lets +onlyGivenNames ws ok
  split
  next u hu => exact .ofIte hu (fun hu => h.engineArrive_error hu) (fun hu => by cases hu)
  next u hu =>
    have hs : u.Canonical := .ofIte hu (fun hu => h.engineArrive hu) (fun hu => by cases hu; exact h)
    extract_lets +onlyGivenNames v
    have hv : v.Canonical := hs.frame
    exact .ite hv.decrement hv

theorem execCopyPacketComplete_canonical {cmd : Nat} (h : s.Canonical) {t : State}
    (ht : execCopyPacketComplete cmd s = .next t) : t.Canonical := by
  unfold execCopyPacketComplete at ht
  split at ht
  · cases ht; exact h
  split at ht
  · split at ht
    · cases ht; exact h
    split at ht
    · cases ht; exact h.leaveCopy
    split at ht
    · cases ht; exact h.landCopy.leaveCopy
    cases ht; exact h.copyStep
  cases ht; exact h

theorem execCqerrWrite_canonical {p : Nat} {v : Dword} (h : s.Canonical) {t : State}
    (ht : execCqerrWrite p v s = .next t) : t.Canonical := by
  unfold execCqerrWrite at ht
  cases ht; exact h.updPart

/-! ## The matrix unit -/

theorem State.Canonical.setAccRow {core : Nat} {r : AccRow} (h : s.Canonical) : (s.setAccRow core r).Canonical :=
  h.updCore

theorem State.Canonical.claimRows {core blk first n : Nat} (h : s.Canonical) : (s.claimRows core blk first n).Canonical :=
  h.updCore

theorem Cx.rowCheck_canonical {c : Cx} {first n : Nat} (hc : c.s.Canonical) {t : Res} (ht : c.rowCheck first n = some t) : t.Canonical := by
  unfold Cx.rowCheck at ht
  split at ht
  · cases ht; exact trivial
  split at ht
  · cases ht; exact trivial
  · cases ht

theorem Cx.rowWait_canonical {c : Cx} (hc : c.s.Canonical) : c.rowWait.Canonical :=
  hc

theorem execAccRd_canonical {e : Enc} (h : s.Canonical) {t : State} (ht : execAccRd e s = .next t) : t.Canonical := by
  unfold execAccRd at ht
  refine simt_canonical h (fun hc => ?_) ht
  extract_lets +onlyGivenNames row col
  split
  · exact Cx.rowCheck_canonical hc ‹_›
  split
  · exact Cx.rowWait_canonical hc
  extract_lets +onlyGivenNames r
  exact hc.updWave

theorem execAccWr_canonical {e : Enc} (h : s.Canonical) {t : State} (ht : execAccWr e s = .next t) : t.Canonical := by
  unfold execAccWr at ht
  refine simt_canonical h (fun hc => ?_) ht
  extract_lets +onlyGivenNames row col
  split
  · exact Cx.rowCheck_canonical hc ‹_›
  split
  · exact Cx.rowWait_canonical hc
  extract_lets +onlyGivenNames s1
  have hs1 : s1.Canonical := hc.claimRows
  extract_lets +onlyGivenNames r cols
  exact hs1.setAccRow

theorem execAccClr_canonical {e : Enc} (h : s.Canonical) {t : State} (ht : execAccClr e s = .next t) : t.Canonical := by
  unfold execAccClr at ht
  refine simt_canonical h (fun hc => ?_) ht
  extract_lets +onlyGivenNames row n
  split
  · exact trivial
  split
  · exact Cx.rowCheck_canonical hc ‹_›
  split
  · exact Cx.rowWait_canonical hc
  · exact (hc.foldl fun h => h.setAccRow).updWave

theorem execMxRow_canonical {e : Enc} (h : s.Canonical) {t : State} (ht : execMxRow e s = .next t) : t.Canonical := by
  unfold execMxRow at ht
  refine simt_canonical h (fun {c} hc => ?_) ht
  extract_lets +onlyGivenNames rows z rlx bring first aring bsel ar br
  refine Res.canonical_ite trivial ?_
  split
  · exact Cx.fails_canonical hc
  next at_ s1 hs1 =>
  have h1 : s1.Canonical := Cx.tensor_canonical hc hs1
  split
  · exact Cx.fails_canonical hc
  next bt s2 hs2 =>
  have h2 : s2.Canonical := Cx.tensor_canonical (c := { c with s := s1 }) h1 hs2
  extract_lets +onlyGivenNames ks
  split
  · exact trivial
  split
  · exact trivial
  split
  · exact h2
  split
  next id s3 hs3 =>
  extract_lets +onlyGivenNames blk s4 ha hb k reads s5
  have h4 : s4.Canonical := (h2.newName hs3).updBlock fun _ => by dsimp only; split <;> rfl
  clear_value s4
  exact h4.claimRows.addCmd.updWave

theorem execMxLdb_canonical {e : Enc} (h : s.Canonical) {t : State} (ht : execMxLdb e s = .next t) : t.Canonical := by
  unfold execMxLdb at ht
  refine simt_canonical h (fun hc => ?_) ht
  extract_lets +onlyGivenNames id n
  split
  · exact trivial
  split
  · exact Cx.fails_canonical hc
  split
  · exact Cx.tensor_canonical hc ‹_›
  split
  exact ((Cx.tensor_canonical hc ‹_›).newName ‹_›).addCmd

theorem State.Canonical.mxStop {c : Cmd} {k : MxCmd} {cause : BitVec 6} {addr : Nat} {tensor : Nat} (h : s.Canonical) :
    (s.mxStop c k cause addr tensor).Canonical := by
  unfold State.mxStop
  extract_lets +onlyGivenNames st s1
  have hs1 : s1.Canonical := h.updCmd
  split
  · exact hs1
  split
  · exact hs1
  · exact hs1.updWave.pendCause

theorem State.Canonical.mxEnd {c : Cmd} {st progress : Nat} (h : s.Canonical) : (s.mxEnd c st progress).Canonical := by
  unfold State.mxEnd
  extract_lets +onlyGivenNames s1
  have hs1 : s1.Canonical := by
    dsimp only [s1]
    split
    · exact h
    · exact h.updWave
  exact hs1.endCmd

theorem State.Canonical.popEntries {blk r : Nat} {es : List Word} (h : s.Canonical) : (s.popEntries blk r es).Canonical :=
  h.updBlock fun _ => by rw [Block.drainDrops_scr, Block.foldl_pop_scr]

theorem State.Canonical.kstep {c : Cmd} {k : MxCmd} (h : s.Canonical) : (s.kstep c k).Canonical := by
  unfold State.kstep
  split
  · exact h
  extract_lets +onlyGivenNames r kc ar br ea eb endRow endAll
  split
  · exact h
  split
  · exact h
  split
  · exact h
  split
  · exact h.mxStop
  split
  · exact h.mxStop
  extract_lets +onlyGivenNames part v line row stat bSrc
  split
  · exact h
  extract_lets +onlyGivenNames res
  clear_value res
  split
  · exact h.mxStop
  extract_lets +onlyGivenNames s1
  have hs1 : s1.Canonical := h.setAccRow
  extract_lets +onlyGivenNames k1 s2
  have hs2 : s2.Canonical := hs1.updCmd
  extract_lets +onlyGivenNames s3
  have hs3 : s3.Canonical := by
    dsimp only [s3]
    split
    · exact hs2.updWave
    · exact hs2
  extract_lets +onlyGivenNames s4
  have hs4 : s4.Canonical := .ite hs3.popEntries hs3
  split
  · extract_lets +onlyGivenNames s5
    have hs5 : s5.Canonical := .ite hs4.popEntries hs4
    exact hs5.mxEnd
  · exact hs4

theorem seqExcept_mem {α β : Type} {xs : List (Except α β)} {ys : List β} (h : seqExcept xs = .ok ys) :
    ∀ y ∈ ys, Except.ok y ∈ xs := by
  induction xs generalizing ys with
  | nil => cases h; simp
  | cons x xs ih =>
    unfold seqExcept at h
    split at h
    · cases h
    · cases h
    · cases h
      rename_i hxs
      simpa using fun y hy => Or.inr (ih hxs y hy)

theorem State.Canonical.ldbFetch {c : Cmd} {k : LdbCmd} (h : s.Canonical) : (s.ldbFetch c k).Canonical := by
  unfold State.ldbFetch
  extract_lets +onlyGivenNames part tiles fetch
  have hfetch : ∀ {kt : Nat} {x : StatTile}, fetch kt = .ok x → x.bytes.wf := by
    intro kt x hx
    dsimp only [fetch] at hx
    generalize seqExcept (List.map _ _) = r at hx
    cases r with
    | error f => cases hx
    | ok xs =>
      cases hx
      exact Memory.foldl_wf (fun _ _ hm => Memory.write_wf hm _ _) _ Memory.wf_nil
  split
  · exact h
  next ts hts =>
    refine h.updCoreOf fun x hx t ht => ?_
    obtain ht | ht := List.mem_append.1 (List.mem_of_mem_take ht)
    · obtain ⟨kt, -, hk⟩ := List.mem_map.1 (seqExcept_mem hts _ (List.mem_reverse.1 ht))
      exact hfetch hk
    · exact hx t (List.mem_filter.1 ht).1

theorem execMxKstep_canonical {cmd : Nat} (h : s.Canonical) {t : State} (ht : execMxKstep cmd s = .next t) : t.Canonical := by
  unfold execMxKstep at ht
  split at ht
  · cases ht; exact h
  split at ht
  · cases ht; exact h
  extract_lets +onlyGivenNames s1 at ht
  have hs1 : s1.Canonical := h.begin
  split at ht
  · cases ht
    split
    · exact hs1.kstep
    · exact hs1
  · cases ht
    split
    · exact hs1
    · exact hs1.ldbFetch.endCmd
  injection ht with ht
  rw [← ht]
  exact hs1

theorem State.Canonical.abandon {c : Cmd} {k : MxCmd} (h : s.Canonical) : (s.abandon c k).Canonical := by
  unfold State.abandon
  extract_lets +onlyGivenNames left bs s1
  have hs1 : s1.Canonical := h.updBlock
  extract_lets +onlyGivenNames s2
  have hs2 : s2.Canonical := .ite hs1.updBlock hs1
  extract_lets +onlyGivenNames s3
  have hs3 : s3.Canonical := hs2.popEntries
  extract_lets +onlyGivenNames s4
  have hs4 : s4.Canonical := .ite hs3.popEntries hs3
  exact hs4.mxEnd

theorem execMxResume_canonical {e : Enc} (h : s.Canonical) {t : State} (ht : execMxResume e s = .next t) : t.Canonical := by
  unfold execMxResume at ht
  refine simt_canonical h (fun hc => ?_) ht
  extract_lets +onlyGivenNames stopped
  split
  · exact hc.foldl fun h => h.abandon
  · exact hc.foldl fun h => h.updCmd.updWave

theorem execMxProg_canonical {e : Enc} (h : s.Canonical) {t : State} (ht : execMxProg e s = .next t) : t.Canonical := by
  unfold execMxProg at ht
  refine simt_canonical h (fun hc => ?_) ht
  split
  exact hc.updWave

theorem execAccOut_canonical {e : Enc} (h : s.Canonical) {t : State} (ht : execAccOut e s = .next t) : t.Canonical := by
  unfold execAccOut at ht
  refine simt_canonical h (fun hc => ?_) ht
  extract_lets +onlyGivenNames id first rows
  split
  · exact trivial
  split
  · exact Cx.fails_canonical hc
  split
  · exact Cx.rowCheck_canonical hc ‹_›
  split
  · exact trivial
  split
  · exact Cx.tensor_canonical hc ‹_›
  extract_lets +onlyGivenNames l k
  split
  extract_lets +onlyGivenNames s1
  have hs1 : s1.Canonical := ((Cx.tensor_canonical hc ‹_›).newName ‹_›).addCmd
  extract_lets +onlyGivenNames m
  exact hs1.updWave

theorem State.Canonical.outStep {c : Cmd} {k : AccOutCmd} (h : s.Canonical) : (s.outStep c k).Canonical := by
  unfold State.outStep
  extract_lets +onlyGivenNames p bytes n res
  have hres : ∀ {u}, res = .ok u → u.Canonical := by
    refine @fun _ => List.foldlRecOn _ _ (motive := fun r : Except (BitVec 6 × Nat) State => ∀ u, r = .ok u → u.Canonical) (b := .ok s)
      (fun u hu => Except.ok.inj hu ▸ h) (fun r hr i _ u hu => ?_) _
    split at hu
    · cases hu
    · exact (hr _ rfl).vwrite hu
  clear_value res
  split
  · split
    · split
      · exact h
      · exact h.updCmd.postFault
    · exact h.endCmd
  · extract_lets +onlyGivenNames u
    have hu : u.Canonical := (hres rfl).logDev
    split
    · exact hu.endCmd
    · exact hu.updCmd

theorem execAccOutPerform_canonical {cmd : Nat} (h : s.Canonical) {t : State} (ht : execAccOutPerform cmd s = .next t) : t.Canonical := by
  unfold execAccOutPerform at ht
  split at ht
  · cases ht; exact h
  split at ht
  · extract_lets +onlyGivenNames p at ht
    split at ht
    · cases ht; exact h
    split at ht
    · cases ht; exact h.logFull
    cases ht; exact h.begin.outStep
  cases ht; exact h

theorem execAccOutTranslationResume_canonical {cmd : Nat} (h : s.Canonical) {t : State}
    (ht : execAccOutTranslationResume cmd s = .next t) : t.Canonical := by
  unfold execAccOutTranslationResume at ht
  split at ht
  · cases ht; exact h
  split at ht
  · cases ht
    split
    · exact h.outStep
    · exact h
  cases ht; exact h

/-! ## Launch queues -/

theorem State.Canonical.stopQueue {p q : Nat} (h : s.Canonical) : (s.stopQueue p q).Canonical :=
  h.updPart

theorem State.Canonical.submit {l : Launch} {task : Option (Nat × Nat)} (h : s.Canonical) : (s.submit l task).Canonical := by
  unfold State.submit
  split
  · split
    · exact h.enterGrid
    · exact h.updDie
  · exact h.enterGrid

theorem State.Canonical.takePacket {p n : Nat} {q : LaunchQueue} {die : Nat} {ws : List Dword} (h : s.Canonical) :
    (s.takePacket p n q die ws).Canonical := by
  unfold State.takePacket
  extract_lets +onlyGivenNames f slotVa
  split
  · exact h.stopQueue.postFault
  split
  · exact h.stopQueue.postFault
  extract_lets +onlyGivenNames s1
  have hs1 : s1.Canonical := ((h.vwrite ‹_›).vwrite ‹_›).updDie
  extract_lets +onlyGivenNames l reason
  split
  · extract_lets +onlyGivenNames s2
    have hs2 : s2.Canonical := hs1.writeStatus
    split
    · exact hs2.postFault
    · exact hs2
  split
  · exact hs1.takeRecord ‹_›
  · exact (hs1.takeRecord ‹_›).submit

theorem execLaunchPacket_canonical {p q : Nat} (h : s.Canonical) {t : State} (ht : execLaunchPacket p q s = .next t) : t.Canonical := by
  unfold execLaunchPacket at ht
  split at ht
  · cases ht; exact h
  split at ht
  · extract_lets +onlyGivenNames die at ht
    split at ht
    · cases ht; exact h
    split at ht
    · cases ht; exact h
    extract_lets +onlyGivenNames s1 at ht
    have hs1 : s1.Canonical := h.updDie
    split at ht
    · cases ht; exact hs1.takeRecord ‹_›
    cases ht; exact (hs1.takeRecord ‹_›).submit
  split at ht
  · cases ht; exact h
  extract_lets +onlyGivenNames s1 at ht
  have hs1 : s1.Canonical := h.loadCtx
  split at ht
  · split at ht
    · injection ht with ht
      rw [← ht]
      exact hs1
    cases ht; exact hs1.stopQueue.postFault
  split at ht
  · injection ht with ht
    rw [← ht]
    exact hs1
  split at ht
  · cases ht; exact hs1.stopQueue
  split at ht
  · injection ht with ht
    rw [← ht]
    exact hs1
  extract_lets +onlyGivenNames die at ht
  split at ht
  · injection ht with ht
    rw [← ht]
    exact hs1
  split at ht
  · cases ht; exact hs1.stopQueue.postFault
  extract_lets +onlyGivenNames ws at ht
  split at ht
  · injection ht with ht
    rw [← ht]
    exact hs1
  cases ht; exact hs1.takePacket

theorem execQerrWrite_canonical {p : Nat} {v : Dword} (h : s.Canonical) {t : State} (ht : execQerrWrite p v s = .next t) : t.Canonical := by
  unfold execQerrWrite at ht
  cases ht; exact h.updPart

theorem State.Canonical.taskDown {die name : Nat} (h : s.Canonical) : (s.taskDown die name).Canonical := by
  unfold State.taskDown
  split
  · exact h.updDie
  split
  · exact h.updDie.enterGrid
  · exact h.updDie

theorem execTaskDecrement_canonical {k : Nat} (h : s.Canonical) {t : State} (ht : execTaskDecrement k s = .next t) : t.Canonical := by
  unfold execTaskDecrement at ht
  split at ht
  · cases ht; exact h
  split at ht
  · cases ht; exact h
  cases ht; exact h.frame.taskDown

theorem State.Canonical.slicePreempt {g : Grid} (h : s.Canonical) : (s.slicePreempt g).Canonical := by
  unfold State.slicePreempt
  extract_lets +onlyGivenNames options best s1
  have hs1 : s1.Canonical := h.updGrid
  clear_value best
  split
  · exact hs1
  · exact hs1.foldl fun h => h.requestPre

theorem execSliceExpiry_canonical {grid : Nat} (h : s.Canonical) {t : State} (ht : execSliceExpiry grid s = .next t) : t.Canonical := by
  unfold execSliceExpiry at ht
  split at ht
  · cases ht; exact h
  extract_lets +onlyGivenNames ivl at ht
  split at ht
  · cases ht; exact h.slicePreempt
  cases ht; exact h

theorem execAgeingExpiry_canonical {grid : Nat} (h : s.Canonical) {t : State} (ht : execAgeingExpiry grid s = .next t) : t.Canonical := by
  unfold execAgeingExpiry at ht
  split at ht
  · cases ht; exact h
  extract_lets +onlyGivenNames lim at ht
  split at ht
  · cases ht; exact h.updGrid.distribute
  cases ht; exact h

/-! ## Events of a wave and of a block, time and the debugger -/

theorem execAsyncCauseTaken_canonical {w : Nat} (h : s.Canonical) {t : State} (ht : execAsyncCauseTaken w s = .next t) : t.Canonical := by
  unfold execAsyncCauseTaken at ht
  split at ht
  · cases ht; exact h
  split at ht
  · cases ht; exact h
  split at ht
  · cases ht; exact h.takeAsync
  split at ht
  · cases ht; exact h.hardwareSave
  split at ht
  · cases ht; exact h.enterSave
  cases ht; exact h

theorem execLoadDataReturn_canonical {w line : Nat} {clean : Bool} (h : s.Canonical) {t : State}
    (ht : execLoadDataReturn w line clean s = .next t) : t.Canonical := by
  unfold execLoadDataReturn at ht
  split at ht
  · cases ht; exact h
  split at ht
  · cases ht; exact h
  extract_lets +onlyGivenNames scr held at ht
  split at ht
  · cases ht; exact h
  split at ht
  · cases ht; exact h.returnLine
  cases ht; exact h.logFull

theorem execAckArrival_canonical {w k : Nat} (h : s.Canonical) {t : State} (ht : execAckArrival w k s = .next t) : t.Canonical := by
  unfold execAckArrival at ht
  split at ht
  · cases ht; exact h
  split at ht
  · cases ht; exact h
  split at ht
  · cases ht; exact h
  extract_lets +onlyGivenNames s1 at ht
  have hs1 : s1.Canonical := .ite h.homeDeliver h
  cases ht; exact hs1.updWave

theorem execCrossDiePublish_canonical {w : Nat} (h : s.Canonical) {t : State} (ht : execCrossDiePublish w s = .next t) : t.Canonical := by
  unfold execCrossDiePublish at ht
  split at ht
  · cases ht; exact h
  split at ht
  · cases ht; exact h
  split at ht
  · cases ht; exact h.logFull
  cases ht; exact h.publishStaged

theorem execPreemptDeadlineExpiry_canonical {blk : Nat} (h : s.Canonical) {t : State}
    (ht : execPreemptDeadlineExpiry blk s = .next t) : t.Canonical := by
  unfold execPreemptDeadlineExpiry at ht
  split at ht
  · cases ht; exact h
  split at ht
  · cases ht; exact h
  extract_lets +onlyGivenNames dl at ht
  split at ht
  · cases ht; exact h.forceSave
  cases ht; exact h

theorem State.Canonical.recordCheck {b : Block} {a : Nat} (h : s.Canonical) : (s.recordCheck b a).Canonical := by
  unfold State.recordCheck
  split
  · exact h
  · exact h.machineCheck

theorem execBlockSave_canonical {blk : Nat} (h : s.Canonical) {t : State} (ht : execBlockSave blk s = .next t) : t.Canonical := by
  unfold execBlockSave at ht
  split at ht
  · cases ht; exact h
  split at ht
  · cases ht; exact h
  split at ht
  · cases ht; exact h
  extract_lets +onlyGivenNames p rows at ht
  split at ht
  · cases ht; exact h.recordCheck
  split at ht
  · cases ht; exact h.recordCheck
  extract_lets +onlyGivenNames t1 at ht
  have ht1 : t1.Canonical := h.scrawl
  extract_lets +onlyGivenNames t2 at ht
  have ht2 : t2.Canonical := ht1.updCore
  extract_lets +onlyGivenNames t3 at ht
  have ht3 : t3.Canonical := ht2.updBlock
  extract_lets +onlyGivenNames t4 at ht
  have ht4 : t4.Canonical := ht3.updGrid
  extract_lets +onlyGivenNames t5 at ht
  have ht5 : t5.Canonical := ht4.settleWorlds
  cases ht
  refine State.Canonical.markBoth ?_
  exact ht5.distribute

theorem State.Canonical.arrivalPre {u core : Nat} (h : s.Canonical) : (s.arrivalPre u core).Canonical := by
  unfold State.arrivalPre
  split
  · exact h.requestPre
  split
  · exact h.requestPre
  split
  · exact h.updHub.requestPre
  · exact h

theorem execBlockRestore_canonical {blk : Nat} (h : s.Canonical) {t : State} (ht : execBlockRestore blk s = .next t) : t.Canonical := by
  unfold execBlockRestore at ht
  split at ht
  · cases ht; exact h
  split at ht
  · cases ht; exact h
  extract_lets +onlyGivenNames p at ht
  split at ht
  extract_lets +onlyGivenNames s1 at ht
  have hs1 : s1.Canonical := h.loadCtx.tickNow
  extract_lets +onlyGivenNames h1 at ht
  split at ht
  · extract_lets +onlyGivenNames agent at ht
    cases ht; exact hs1.updBlock.postFault
  extract_lets +onlyGivenNames s2 at ht
  have hs2 : s2.Canonical := hs1.updCore
  extract_lets +onlyGivenNames s3 at ht
  have hs3 : s3.Canonical := hs2.updBlock
  extract_lets +onlyGivenNames s4 at ht
  have hs4 : s4.Canonical := hs3.frame
  cases ht
  refine State.Canonical.distribute ?_
  refine State.Canonical.arrivalPre ?_
  refine hs4.foldl fun h => ?_
  extract_lets +onlyGivenNames s5
  have hs5 : s5.Canonical := by
    dsimp only [s5]
    split
    · split
      · exact h.gkResend
      · exact h
    · exact h
  exact hs5.updWave

theorem execSleepExpiry_canonical {w : Nat} (h : s.Canonical) {t : State} (ht : execSleepExpiry w s = .next t) : t.Canonical := by
  unfold execSleepExpiry at ht
  split at ht
  · cases ht; exact h
  split at ht
  · cases ht; exact h.updWave
  cases ht; exact h

theorem execWatchdogExpiry_canonical {w : Nat} (h : s.Canonical) {t : State} (ht : execWatchdogExpiry w s = .next t) : t.Canonical := by
  unfold execWatchdogExpiry at ht
  split at ht
  · cases ht; exact h
  extract_lets +onlyGivenNames lim at ht
  split at ht
  · cases ht; exact h.updWave.pendCause
  cases ht; exact h

theorem State.Canonical.haltAll {p reason : Nat} (h : s.Canonical) : (s.haltAll p reason).Canonical :=
  h.foldl fun h => h.pendCause

theorem execDbgHalt_canonical {p : Nat} {v : Dword} (h : s.Canonical) {t : State} (ht : execDbgHalt p v s = .next t) : t.Canonical := by
  unfold execDbgHalt at ht
  extract_lets +onlyGivenNames s1 at ht
  have hs1 : s1.Canonical := h.updPart
  cases ht; exact hs1.haltAll

theorem execProfilerSample_canonical {p core : Nat} (h : s.Canonical) {t : State}
    (ht : execProfilerSample p core s = .next t) : t.Canonical := by
  unfold execProfilerSample at ht
  extract_lets +onlyGivenNames x ptr here at ht
  split at ht
  · cases ht; exact h
  split at ht
  · cases ht; exact h
  extract_lets +onlyGivenNames agent at ht
  split at ht
  · cases ht; exact h.logFull
  extract_lets +onlyGivenNames size va bs u at ht
  have hu : u.Canonical := by
    dsimp only [u]
    split
    · exact (h.vwrite ‹_›).logDev
    · exact h
  clear_value u
  cases ht; exact hu.updCore.updPart

theorem execUncorrectableError_canonical {w src : Nat} (h : s.Canonical) {t : State}
    (ht : execUncorrectableError w src s = .next t) : t.Canonical := by
  unfold execUncorrectableError at ht
  split at ht
  · cases ht; exact h
  cases ht; exact h.pendCause

/-! ## Regions of the array -/

theorem State.Canonical.updRegion {k slot : Nat} {f : Region → Region} (h : s.Canonical) : (s.updRegion k slot f).Canonical :=
  h.updStack

theorem State.Canonical.regionCause {k : Nat} {r : Region} {code : BitVec 6} {detail stream addr idx : Nat} (h : s.Canonical) :
    (s.regionCause k r code detail stream addr idx).Canonical := by
  unfold State.regionCause
  extract_lets +onlyGivenNames h1
  split
  · exact h.pendCause
  · exact h.postFault

theorem State.Canonical.endRegion {k slot state : Nat} (h : s.Canonical) : (s.endRegion k slot state).Canonical := by
  unfold State.endRegion
  split
  · exact h
  extract_lets +onlyGivenNames s1
  have hs1 : s1.Canonical := .ite h.updPart h
  exact hs1.updRegion.updStack

theorem State.Canonical.failRegion {k slot : Nat} {code : BitVec 6} {detail stream addr idx : Nat} (h : s.Canonical) :
    (s.failRegion k slot code detail stream addr idx).Canonical := by
  unfold State.failRegion
  split
  · exact h
  split
  · exact h
  extract_lets +onlyGivenNames s1
  have hs1 : s1.Canonical := h.regionCause
  split
  · exact hs1.endRegion.updRegion
  · exact hs1.updRegion

theorem State.Canonical.loadImage {k p a : Nat} (h : s.Canonical) {r : Image} {t : State} (ht : s.loadImage k p a = .ok
    (r, t)) : t.Canonical := by
  unfold State.loadImage at ht
  extract_lets +onlyGivenNames st die first at ht
  clear_value first
  split at ht
  · cases ht
  split at ht
  · cases ht
  extract_lets +onlyGivenNames rest at ht
  split at ht
  · cases ht
  extract_lets +onlyGivenNames pads g at ht
  split at ht
  · cases ht
  · injection ht with ht
    injection ht with _ ht
    exact ht ▸ h.updStack

theorem State.Canonical.loadAll {k p : Nat} {as : List Dword} {ns : List (Nat × Nat)} {t : State} (h : s.Canonical)
    (ht : s.loadAll k p as = .ok (ns, t)) : t.Canonical := by
  induction as generalizing s ns with
  | nil =>
    cases ht; exact h
  | cons a as ih =>
    unfold State.loadAll at ht
    split at ht
    · cases ht
    split at ht
    · cases ht
    · cases ht; exact ih (h.loadImage ‹_›) ‹_›

theorem State.Canonical.checkStream {die p : Nat} {pads : List Pad} {others : List Frame} {f : Frame} (h : s.Canonical) {r : TEntry}
    {t : State} (ht : s.checkStream die p pads others f = .ok (r, t)) : t.Canonical := by
  unfold State.checkStream at ht
  split at ht
  · cases ht
  split at ht
  · cases ht
  split at ht
  · cases ht
  split at ht
  · cases ht
  split at ht
  · cases ht
  cases ht; exact h.tensorEntry ‹_›

theorem State.Canonical.checkStreams {die p i : Nat} {pads : List Pad} {all fs : List Frame} {ts : List TEntry} {t : State}
    (h : s.Canonical) (ht : s.checkStreams die p pads all i fs = .ok (ts, t)) : t.Canonical := by
  induction fs generalizing s i ts with
  | nil =>
    cases ht; exact h
  | cons f fs ih =>
    unfold State.checkStreams at ht
    split at ht
    · cases ht
    split at ht
    · cases ht
    · cases ht; exact ih (h.checkStream ‹_›) ‹_›

theorem State.Canonical.startConfig {k slot c : Nat} (h : s.Canonical) : (s.startConfig k slot c).Canonical := by
  unfold State.startConfig
  split
  · exact h
  extract_lets +onlyGivenNames die fail
  have hfail : ∀ {u : State} {a2} {a3}, u.Canonical → (fail u a2 a3).Canonical := fun h => h.failRegion
  clear_value fail
  extract_lets +onlyGivenNames s1
  have hs1 : s1.Canonical := h.updRegion
  split
  · exact hfail hs1
  split
  · exact hfail (hs1.loadImage ‹_›)
  split
  · exact hfail (hs1.loadImage ‹_›)
  split
  · exact (hs1.loadImage ‹_›).checkStreams ‹_›
  extract_lets +onlyGivenNames strs
  exact ((hs1.loadImage ‹_›).checkStreams ‹_›).updRegion

theorem execRegionPlacement_canonical {k slot : Nat} (h : s.Canonical) {t : State}
    (ht : execRegionPlacement k slot s = .next t) : t.Canonical := by
  unfold execRegionPlacement at ht
  split at ht
  · cases ht; exact h
  split at ht
  · cases ht; exact h
  extract_lets +onlyGivenNames loaded at ht
  have hload : ∀ {u}, loaded = .ok u → u.Canonical := by
    intro u hu
    dsimp only [loaded] at hu
    split at hu
    · cases hu
      exact h
    split at hu
    · cases hu
    split at hu
    · cases hu
    · cases hu
      exact (h.loadAll ‹_›).updRegion
  clear_value loaded
  split at ht
  · cases ht; exact h.failRegion
  next u =>
  have hu : u.Canonical := hload rfl
  split at ht
  · cases ht; exact hu
  extract_lets +onlyGivenNames st world at ht
  split at ht
  · cases ht; exact hu.failRegion
  split at ht
  · cases ht; exact hu
  split at ht
  · cases ht; exact hu
  split at ht
  · cases ht; exact hu
  extract_lets +onlyGivenNames t1 at ht
  have ht1 : t1.Canonical := hu.updRegion.startConfig
  cases ht
  split
  · exact hu
  · exact ht1

theorem execSdaRun_canonical {e : Enc} (h : s.Canonical) {t : State} (ht : execSdaRun e s = .next t) : t.Canonical := by
  unfold execSdaRun at ht
  refine simt_canonical h (fun hc => ?_) ht
  extract_lets +onlyGivenNames a
  split
  · exact trivial
  split
  · exact trivial
  split
  · exact Cx.fails_canonical hc
  split
  · exact Cx.fails_canonical hc
  extract_lets +onlyGivenNames ws
  split
  · exact trivial
  extract_lets +onlyGivenNames f k st taken
  split
  · exact hc
  extract_lets +onlyGivenNames g0 gen
  split
  extract_lets +onlyGivenNames r s1
  have hs1 : s1.Canonical := (hc.newName ‹_›).updStack
  exact hs1.updWave

theorem execSdaStop_canonical {e : Enc} (h : s.Canonical) {t : State} (ht : execSdaStop e s = .next t) : t.Canonical := by
  unfold execSdaStop at ht
  refine simt_canonical h (fun hc => ?_) ht
  split
  · exact hc
  change State.Canonical _
  split
  · exact hc
  · exact hc.updRegion

theorem execSdaStat_canonical {e : Enc} (h : s.Canonical) {t : State} (ht : execSdaStat e s = .next t) : t.Canonical := by
  unfold execSdaStat at ht
  refine simt_canonical h (fun hc => ?_) ht
  extract_lets +onlyGivenNames v
  exact hc.updWave

theorem execSdaLd_canonical {e : Enc} (h : s.Canonical) {t : State} (ht : execSdaLd e s = .next t) : t.Canonical := by
  unfold execSdaLd at ht
  refine simt_canonical h (fun {c} hc => ?_) ht
  extract_lets +onlyGivenNames k
  split
  · exact trivial
  split
  · exact hc
  split
  · exact hc
  · exact hc.loadAll ‹_›

theorem execPeFiring_canonical {k slot pad pe : Nat} (h : s.Canonical) {t : State}
    (ht : execPeFiring k slot pad pe s = .next t) : t.Canonical := by
  unfold execPeFiring at ht
  split at ht
  · cases ht; exact h
  split at ht
  · cases ht; exact h
  split at ht
  · cases ht; exact h
  split at ht
  · cases ht; exact h.updRegion
  cases ht; exact h.failRegion

theorem State.Canonical.gatewayDrop {k : Nat} {r : Region} {pf : Option Nat} {owner : BitVec 6} (h : s.Canonical) :
    (s.gatewayDrop k r pf owner).Canonical := by
  unfold State.gatewayDrop
  extract_lets +onlyGivenNames s1
  have hs1 : s1.Canonical := h.updStack
  split
  · exact hs1
  · exact hs1.failRegion

theorem execSwitchTokenMove_canonical {k slot : Nat} {mv : TokenMove} (h : s.Canonical) {t : State}
    (ht : execSwitchTokenMove k slot mv s = .next t) : t.Canonical := by
  unfold execSwitchTokenMove at ht
  split at ht
  · cases ht; exact h
  split at ht
  · cases ht; exact h
  extract_lets +onlyGivenNames go at ht
  have hgo : ∀ {a1}, (go a1).Canonical := h.updRegion
  clear_value go
  split at ht
  · cases ht; exact hgo
  · cases ht; exact hgo
  split at ht
  · split at ht
    · cases ht; exact hgo
    cases ht; exact hgo.gatewayDrop
  cases ht; exact h

theorem execGatewayReject_canonical {k slot pf : Nat} {owner : BitVec 6} (h : s.Canonical) {t : State}
    (ht : execGatewayReject k slot pf owner s = .next t) : t.Canonical := by
  unfold execGatewayReject at ht
  split at ht
  · cases ht; exact h
  split at ht
  · cases ht; exact h
  split at ht
  · split at ht
    · cases ht; exact h.gatewayDrop
    cases ht; exact h
  cases ht
  split
  · exact h.gatewayDrop
  · exact h

theorem State.Canonical.regionArrive {k : Nat} {r : Region} (h : s.Canonical) {t : State}
    (ht : s.regionArrive k r = .ok t) : t.Canonical := by
  unfold State.regionArrive at ht
  split at ht
  · cases ht; exact h
  · exact h.engineArrive ‹_›

theorem State.Canonical.regionArrive_error {k : Nat} {r : Region} (h : s.Canonical) {res : State}
    (ht : s.regionArrive k r = .error res) : res.Canonical := by
  unfold State.regionArrive at ht
  split at ht
  · cases ht
  · exact h.engineArrive_error ‹_›

theorem execConfigComplete_canonical {k slot : Nat} (h : s.Canonical) {t : State}
    (ht : execConfigComplete k slot s = .next t) : t.Canonical := by
  unfold execConfigComplete at ht
  split at ht
  · cases ht; exact h
  extract_lets +onlyGivenNames last at ht
  split at ht
  · cases ht; exact h.startConfig
  split at ht
  · cases ht; exact h
  split at ht
  next u hu =>
    cases ht; exact .ofIte hu (fun hu => h.regionArrive_error hu) (fun hu => by cases hu)
  next u hu =>
    have hs : u.Canonical := .ofIte hu (fun hu => h.regionArrive hu) (fun hu => by cases hu; exact h)
    extract_lets +onlyGivenNames left s1 at ht
    have hs1 : s1.Canonical := hs.updStack
    split at ht
    · cases ht; exact hs1.startConfig
    extract_lets +onlyGivenNames s2 at ht
    have hs2 : s2.Canonical := .ite hs1.decrement hs1
    cases ht; exact hs2.endRegion

theorem execDrainRequest_canonical {k slot : Nat} (h : s.Canonical) {t : State}
    (ht : execDrainRequest k slot s = .next t) : t.Canonical := by
  unfold execDrainRequest at ht
  split at ht
  · cases ht; exact h
  extract_lets +onlyGivenNames kept at ht
  split at ht
  · cases ht; exact h
  cases ht; exact h.updRegion

theorem execRegionQuiescence_canonical {k slot : Nat} (h : s.Canonical) {t : State}
    (ht : execRegionQuiescence k slot s = .next t) : t.Canonical := by
  unfold execRegionQuiescence at ht
  split at ht
  · cases ht; exact h
  split at ht
  · cases ht; exact h
  split at ht
  · cases ht; exact h
  split at ht
  · cases ht; exact h.endRegion
  · split at ht
    · cases ht; exact h.regionArrive_error ‹_›
    cases ht; exact (h.regionArrive ‹_›).endRegion
  extract_lets +onlyGivenNames x at ht
  split at ht
  · cases ht; exact h
  extract_lets +onlyGivenNames us s1 at ht
  have hs1 : s1.Canonical := h.updPart.scrawl
  cases ht; exact hs1.updRegion.updStack

theorem execRegionRestore_canonical {k slot : Nat} (h : s.Canonical) {t : State}
    (ht : execRegionRestore k slot s = .next t) : t.Canonical := by
  unfold execRegionRestore at ht
  split at ht
  · cases ht; exact h
  split at ht
  · cases ht; exact h
  extract_lets +onlyGivenNames st at ht
  split at ht
  · cases ht; exact h
  refine .ofIte ht (fun ht => by cases ht; exact h) fun ht => ?_
  extract_lets +onlyGivenNames back at ht
  have hback : ∀ {u r}, State.Canonical u → (back u r).Canonical := fun hu => .ite hu.updPart.updStack hu.updPart
  clear_value back
  split at ht
  · cases ht; exact (hback h.updRegion).startConfig
  split at ht
  · cases ht; exact h.failRegion
  have h1 := h.loadImage ‹_›
  extract_lets +onlyGivenNames fresh at ht
  split at ht
  · cases ht; exact h1.failRegion
  have h2 := h1.checkStreams ‹_›
  split at ht
  · cases ht; exact h2
  · cases ht; exact hback h2.updRegion

theorem execCompactionMove_canonical {k slot : Nat} (h : s.Canonical) {t : State}
    (ht : execCompactionMove k slot s = .next t) : t.Canonical := by
  unfold execCompactionMove at ht
  split at ht
  · cases ht; exact h
  extract_lets +onlyGivenNames st free spans room at ht
  split at ht
  · cases ht; exact h
  cases ht; exact h.updStack.updRegion

theorem State.Canonical.moveForeign {k : Nat} (h : s.Canonical) : (s.moveForeign k).Canonical :=
  h.updStack

theorem execArrAssignWrite_canonical {k half : Nat} {v : Dword} (h : s.Canonical) {t : State}
    (ht : execArrAssignWrite k half v s = .next t) : t.Canonical := by
  unfold execArrAssignWrite at ht
  extract_lets +onlyGivenNames x at ht
  cases ht; exact h.updStack.moveForeign

theorem execCfgcInvAddr_canonical {k : Nat} {v : Dword} (h : s.Canonical) {t : State}
    (ht : execCfgcInvAddr k v s = .next t) : t.Canonical := by
  unfold execCfgcInvAddr at ht
  split at ht
  · cases ht; exact h
  extract_lets +onlyGivenNames a at ht
  cases ht; exact h.updStack

theorem execCfgcInvAll_canonical {k : Nat} {v : Dword} (h : s.Canonical) {t : State}
    (ht : execCfgcInvAll k v s = .next t) : t.Canonical := by
  unfold execCfgcInvAll at ht
  split at ht
  · cases ht; exact h
  cases ht; exact h.updStack

theorem execAclkWindow_canonical {k q up down total : Nat} (h : s.Canonical) {t : State}
    (ht : execAclkWindow k q up down total s = .next t) : t.Canonical := by
  unfold execAclkWindow at ht
  extract_lets +onlyGivenNames st c f hi lo thr placed f' at ht
  cases ht; exact h.updStack

/-! ## Streams -/

theorem State.Canonical.updStream {k slot i : Nat} {f : Stream → Stream} (h : s.Canonical) : (s.updStream k slot i f).Canonical :=
  h.updRegion

theorem State.Canonical.stopStream {k slot i : Nat} (h : s.Canonical) : (s.stopStream k slot i).Canonical :=
  h.updStream

theorem State.Canonical.streamFault {k slot i : Nat} {c : BitVec 6} {va e : Nat} (h : s.Canonical) :
    (s.streamFault k slot i c va e).Canonical := by
  unfold State.streamFault
  split
  · exact h
  split
  · exact h.stopStream.failRegion
  extract_lets +onlyGivenNames log s1
  have hs1 : s1.Canonical := h.updStream
  split
  · exact hs1.regionCause
  · exact hs1.regionCause

theorem State.Canonical.elemPlace {k slot i e : Nat} {r : Region} {t : Stream} {acc : Access} {off : Int} {pl : Place} {hi : Bool}
    {u : State} (h : s.Canonical) (ht : s.elemPlace k slot i r t acc off e = .ok (pl, hi, u)) : u.Canonical := by
  unfold State.elemPlace at ht
  split at ht
  · cases ht
  split at ht
  split at ht
  · cases ht
  split at ht
  · cases ht
  split at ht
  · cases ht
  · injection ht with ht
    injection ht with _ ht
    injection ht with _ ht
    exact ht ▸ h.updStream

theorem State.Canonical.elemPlace_error {k slot i : Nat} {r : Region} {t : Stream} {acc : Access} {off : Int} {e : Nat}
    (h : s.Canonical) {res : State} (ht : s.elemPlace k slot i r t acc off e = .error res) : res.Canonical := by
  unfold State.elemPlace at ht
  split at ht
  · cases ht; exact h.stopStream.failRegion
  split at ht
  split at ht
  · cases ht; exact h.streamFault
  split at ht
  · cases ht; exact h
  split at ht
  · cases ht; exact h.streamFault
  · cases ht

theorem State.Canonical.updBound {k slot : Nat} {t : Stream} {f : Chan → Chan} (h : s.Canonical) : (s.updBound k slot t f).Canonical :=
  h.updRegion

theorem State.Canonical.inputStep {k slot i : Nat} (h : s.Canonical) : (s.inputStep k slot i).Canonical := by
  unfold State.inputStep
  split
  · exact h
  split
  · exact h
  split
  · exact h
  extract_lets +onlyGivenNames room
  split
  · exact h
  extract_lets +onlyGivenNames e
  split
  · exact h.elemPlace_error ‹_›
  extract_lets +onlyGivenNames s1
  have hs1 : s1.Canonical := (h.elemPlace ‹_›).tickNow
  extract_lets +onlyGivenNames bs last
  split
  · split
    exact hs1.updStream.updBound
  extract_lets +onlyGivenNames v x asm
  split
  · extract_lets +onlyGivenNames tok
    exact hs1.updStream.updBound
  · exact hs1.updStream.updBound

theorem execStreamInputToken_canonical {k slot i : Nat} (h : s.Canonical) {t : State}
    (ht : execStreamInputToken k slot i s = .next t) : t.Canonical := by
  unfold execStreamInputToken at ht
  cases ht; exact h.inputStep

theorem State.Canonical.addLeftover {k n : Nat} (h : s.Canonical) : (s.addLeftover k n).Canonical :=
  h.updStack

theorem State.Canonical.tokenFault {k slot i : Nat} {t : Stream} {d : Nat} (h : s.Canonical) : (s.tokenFault k slot i t d).Canonical := by
  unfold State.tokenFault
  extract_lets +onlyGivenNames s1
  have hs1 : s1.Canonical := h.stopStream
  split
  · exact hs1.failRegion
  · exact hs1.failRegion

theorem State.Canonical.outputTake {k slot i : Nat} {r : Region} {t : Stream} {ch : Chan} (h : s.Canonical) :
    (s.outputTake k slot i r t ch).Canonical := by
  unfold State.outputTake
  split
  · exact h
  extract_lets +onlyGivenNames pop
  have hpop : ∀ {u : State}, u.Canonical → (pop u).Canonical := fun h => h.updBound
  clear_value pop
  extract_lets +onlyGivenNames n burst took
  have htook : ∀ {u : State} {a2}, u.Canonical → (took u a2).Canonical := fun h => h.updStream
  clear_value took
  split
  · exact (hpop h).gatewayDrop
  split
  · exact (hpop h).addLeftover
  split
  · exact h.tokenFault
  split
  · exact h.tokenFault
  split
  · split
    · exact h.tokenFault
    · exact htook (hpop h).updStream
  · exact htook (hpop h)

theorem State.Canonical.outputWrite {k slot i : Nat} {r : Region} {t : Stream} (h : s.Canonical) :
    (s.outputWrite k slot i r t).Canonical := by
  unfold State.outputWrite
  split
  · exact h
  extract_lets +onlyGivenNames e w
  split
  · exact h
  split
  · exact h.logFull
  split
  · exact h.elemPlace_error ‹_›
  extract_lets +onlyGivenNames bs bs1 s1
  have hs1 : s1.Canonical := (h.elemPlace ‹_›).devWriteBytes.logDev
  extract_lets +onlyGivenNames done s2
  have hs2 : s2.Canonical := .ite hs1.addLeftover hs1
  exact hs2.updStream

theorem execStreamOutputWrite_canonical {k slot i : Nat} (h : s.Canonical) {t : State}
    (ht : execStreamOutputWrite k slot i s = .next t) : t.Canonical := by
  unfold execStreamOutputWrite at ht
  split at ht
  · cases ht; exact h
  split at ht
  · cases ht; exact h
  split at ht
  · cases ht; exact h
  split at ht
  · cases ht; exact h
  split at ht
  · cases ht; exact h.outputTake
  cases ht; exact h.outputWrite

theorem execUpdateApply_canonical {k slot i : Nat} (h : s.Canonical) {t : State}
    (ht : execUpdateApply k slot i s = .next t) : t.Canonical := by
  unfold execUpdateApply at ht
  split at ht
  · cases ht; exact h
  split at ht
  · cases ht; exact h
  split at ht
  · cases ht; exact h
  split at ht
  · cases ht; exact h
  extract_lets +onlyGivenNames d uop idx at ht
  split at ht
  · cases ht; exact h
  split at ht
  · cases ht; exact h.updBound.gatewayDrop
  split at ht
  · cases ht; exact h.stopStream.failRegion
  split at ht
  · cases ht; exact h.logFull
  split at ht
  · cases ht; exact h.elemPlace_error ‹_›
  extract_lets +onlyGivenNames ty v s1 at ht
  have hs1 : s1.Canonical := (h.elemPlace ‹_›).devWriteBytes.logDev
  cases ht; exact hs1.updBound.updStream

theorem execTlbInvalidate_canonical {p : Nat} {v : Dword} (h : s.Canonical) {t : State}
    (ht : execTlbInvalidate p v s = .next t) : t.Canonical := by
  unfold execTlbInvalidate at ht
  cases ht; exact h.updPart

theorem State.Canonical.rewalk {k slot i : Nat} (h : s.Canonical) : (s.rewalk k slot i).Canonical := by
  unfold State.rewalk
  split
  · exact h
  split
  · exact h
  split
  · exact h
  extract_lets +onlyGivenNames e go
  have hgo : ∀ {acc off e}, (go acc off e).Canonical := by
    intro acc off e
    dsimp only [go]
    split
    · exact h.elemPlace_error ‹_›
    · exact h.elemPlace ‹_›
  clear_value go
  split
  · exact hgo
  · exact hgo
  split
  · exact hgo
  · exact h

theorem execTlbInvComplete_canonical {p : Nat} (h : s.Canonical) {t : State} (ht : execTlbInvComplete p s = .next t) : t.Canonical := by
  unfold execTlbInvComplete at ht
  split at ht
  · cases ht; exact h
  extract_lets +onlyGivenNames marked s1 at ht
  have hs1 : s1.Canonical := h.updPart
  extract_lets +onlyGivenNames s2 at ht
  have hs2 : s2.Canonical := hs1.updMem
  extract_lets +onlyGivenNames s3 at ht
  have hs3 : s3.Canonical := hs2.frame
  cases ht; exact hs3.foldl fun h => h.rewalk

/-! ## Tables -/

theorem State.Canonical.updTable {k t : Nat} {f : Table → Table} (h : s.Canonical) : (s.updTable k t f).Canonical :=
  h.updStack

theorem State.Canonical.writeChain {p k t n : Nat} {old : List Nat} {ids : List Word} {u : State} (h : s.Canonical)
    (ht : s.writeChain p k t old ids = some (n, u)) : u.Canonical := by
  unfold State.writeChain at ht
  extract_lets +onlyGivenNames st g need used more blocks at ht
  split at ht
  · cases ht
  extract_lets +onlyGivenNames v w at ht
  have hw : w.Canonical := State.Canonical.foldl h.updStack fun h => h.devWriteBytes
  clear_value w
  injection ht with ht
  injection ht with _ ht
  exact ht ▸ .ite hw hw.logDev

theorem State.Canonical.fillBucket {p k t cap : Nat} {b b' : Bucket} {ids : List Word} {u : State} (h : s.Canonical)
    (ht : s.fillBucket p k t cap b ids = some (b', u)) : u.Canonical := by
  unfold State.fillBucket at ht
  extract_lets +onlyGivenNames old at ht
  split at ht
  · cases ht; exact h
  · rw [Option.map_eq_some_iff] at ht
    obtain ⟨x, hx, hu⟩ := ht
    cases hu
    exact h.writeChain hx

theorem State.Canonical.gkAppend {k t : Nat} {nw : Bool} {h : Nat} {ids : List Word} {id : Word} (hs : s.Canonical) :
    (s.gkAppend k t nw h ids id).Canonical := by
  unfold State.gkAppend
  split
  · exact hs
  extract_lets +onlyGivenNames b put drop
  have hput : ∀ {u b}, State.Canonical u → (put u b).Canonical := fun hu => hu.updTable
  have hdrop : ∀ {u}, State.Canonical u → (drop u).Canonical := fun hu => hu.updTable
  clear_value put drop
  split
  · split
    · exact hput (hs.fillBucket ‹_›)
    · exact hdrop hs
  split
  · exact hdrop hs
  · split
    · exact (hput (hs.fillBucket ‹_›)).updTable
    · exact hs
  · split
    · exact (hput (hs.fillBucket ‹_›)).updTable
    · exact hdrop hs

theorem State.Canonical.gkRemove {k t : Nat} {nw : Bool} {h : Nat} {ids : List Word} {id : Word} (hs : s.Canonical) :
    (s.gkRemove k t nw h ids id).Canonical := by
  unfold State.gkRemove
  split
  · exact hs
  extract_lets +onlyGivenNames b
  split
  · exact (hs.fillBucket ‹_›).updTable
  · exact hs

theorem State.Canonical.freeChains {k t : Nat} (h : s.Canonical) : (s.freeChains k t).Canonical := by
  unfold State.freeChains
  split
  · exact h
  extract_lets +onlyGivenNames g
  refine h.foldl fun h => ?_
  split
  · exact h.updStack
  · exact h

theorem State.Canonical.gkCause {wid p handle : Nat} {f : GkFault} {detail : Nat} (h : s.Canonical) :
    (s.gkCause wid p handle f detail).Canonical := by
  unfold State.gkCause
  split
  · exact h.pendCause
  · exact h.postFault

theorem State.Canonical.gkResult {wid : Nat} {d : BitVec 9} {f : Wave → Wave} (h : s.Canonical) : (s.gkResult wid d f).Canonical :=
  h.updWave

theorem State.Canonical.gkEnter {k t h : Nat} {x : Table} {nw : Bool} {id : Word} {u : State} {fs : List (GkFault × Nat)}
    (hs : s.Canonical) (ht : s.gkEnter k t x nw h id = (u, fs)) : u.Canonical := by
  unfold State.gkEnter at ht
  split at ht
  · refine .ofIte ht (fun ht => ?_) fun ht => ?_
    · cases ht; exact hs
    · cases ht; exact hs.updTable
  · cases ht; exact .ite hs hs.gkAppend

theorem State.Canonical.gkMoveBucket {k t m : Nat} {nf : Family} {u : State} {fs : List (GkFault × Nat)}
    (h : s.Canonical) (ht : s.gkMoveBucket k t m nf = .ok (u, fs)) : u.Canonical := by
  unfold State.gkMoveBucket at ht
  split at ht
  · cases ht; exact h
  split at ht
  · cases ht
  extract_lets +onlyGivenNames step at ht
  split at ht
  · cases ht
  rename_i v gs hv
  have h1 : v.Canonical := by
    refine List.foldlRecOn (b := .ok (s, [])) _ step (motive := fun r => ∀ v gs, r = .ok (v, gs) → v.Canonical)
      (fun v gs hv => by cases hv; exact h) (fun r hr a _ v gs hv => ?_) _ _ hv
    dsimp only [step] at hv
    split at hv
    · cases hv
    split at hv
    · cases hv
    split at hv
    · cases hv
      exact hr _ _ rfl
    injection hv with hv
    injection hv with hv _
    exact hv ▸ (hr _ _ rfl).gkEnter rfl
  extract_lets +onlyGivenNames w at ht
  have h2 : w.Canonical := by
    dsimp only [w]
    split
    · split
      · exact h1.fillBucket ‹_›
      · exact h1
    · exact h1
  injection ht with ht
  injection ht with ht _
  exact ht ▸ h2.updTable

theorem State.Canonical.gkMoveAll {k t n m : Nat} {nf : Family} {u : State} {fs : List (GkFault × Nat)}
    (h : s.Canonical) (ht : s.gkMoveAll k t nf n m = .ok (u, fs)) : u.Canonical := by
  induction n generalizing s m fs with
  | zero =>
    cases ht; exact h
  | succ n ih =>
    unfold State.gkMoveAll at ht
    split at ht
    · cases ht
    split at ht
    · cases ht
    · cases ht; exact ih (h.gkMoveBucket ‹_›) ‹_›

theorem State.Canonical.gkUpdate {k t : Nat} {x : Table} {op : GkOp} {u : State} {fs : List (GkFault × Nat)}
    (h : s.Canonical) (ht : s.gkUpdate k t x op = .ok (u, fs)) : u.Canonical := by
  unfold State.gkUpdate at ht
  extract_lets +onlyGivenNames st fam at ht
  split at ht
  · extract_lets +onlyGivenNames v y named at ht
    injection ht with ht
    injection ht with ht _
    exact ht ▸ h.freeChains.updStack
  · split at ht
    · cases ht
    · split at ht
      exact h.gkEnter (Except.ok.inj ht)
  · split at ht
    · cases ht
    extract_lets +onlyGivenNames b at ht
    split at ht
    · cases ht
    · cases ht
    · injection ht with ht
      injection ht with ht _
      exact ht ▸ h.gkRemove
    · injection ht with ht
      injection ht with ht _
      exact ht ▸ h.gkRemove.gkRemove
  · extract_lets +onlyGivenNames old at ht
    split at ht
    · cases ht; exact h
    extract_lets +onlyGivenNames cur stop v at ht
    split at ht
    · cases ht
    next hm =>
      have hv : v.Canonical := h.updTable
      injection ht with ht
      injection ht with ht _
      exact ht ▸ (hv.gkMoveAll hm).updTable

theorem execGkStepPerform_canonical {k t : Nat} (h : s.Canonical) {u : State} (ht : execGkStepPerform k t s = .next u) : u.Canonical := by
  unfold execGkStepPerform at ht
  split at ht
  · cases ht; exact h
  extract_lets +onlyGivenNames steps at ht
  clear_value steps
  refine .ofIte ht (fun ht => by cases ht; exact h) fun ht => ?_
  split at ht
  · cases ht; exact h.logFull
  extract_lets +onlyGivenNames s1 at ht
  have h1 : s1.Canonical := h.updStack
  clear_value s1
  split at ht
  · cases ht; exact h1.gkResult
  extract_lets +onlyGivenNames s2 at ht
  have h2 : s2.Canonical := by
    dsimp only [s2]
    split
    · exact (h1.gkUpdate ‹_›).foldl fun h => h.gkCause
    · exact h1.gkCause
  clear_value s2
  extract_lets +onlyGivenNames s3 at ht
  have h3 : s3.Canonical := by
    dsimp only [s3]
    split
    · exact h2
    · exact h2.updTable.gkResult
  clear_value s3
  cases ht; exact h3.updStack

theorem State.Canonical.gkTrunc {k t n : Nat} (h : s.Canonical) : (s.gkTrunc k t n).Canonical := by
  unfold State.gkTrunc
  split
  · exact h.updTable
  · exact h

theorem execGkReadPerform_canonical {k n : Nat} (h : s.Canonical) {t : State} (ht : execGkReadPerform k n s = .next t) : t.Canonical := by
  unfold execGkReadPerform at ht
  split at ht
  · cases ht; exact h
  split at ht
  · cases ht; exact h
  extract_lets +onlyGivenNames s1 handle input at ht
  have h1 : s1.Canonical := h.updStack
  clear_value s1 input
  split at ht
  next v s2 hin =>
  have h2 : s2.Canonical := by
    split at hin
    · cases hin
      exact h1
    · cases hin
      exact h1.gkCause
  extract_lets +onlyGivenNames found s3 at ht
  have h3 : s3.Canonical := h2.foldl fun h => h.foldl fun h => h.gkCause
  clear_value s3
  extract_lets +onlyGivenNames ids fill at ht
  split at ht
  · extract_lets +onlyGivenNames row s4 at ht
    have h4 : s4.Canonical := h3.gkTrunc
    cases ht; exact h4.gkResult
  · extract_lets +onlyGivenNames tens evals s4 us s5 at ht
    have h4 : s4.Canonical := by
      refine h3.foldl fun h => ?_
      split
      · exact h.gkCause
      · exact h
    have h5 : s5.Canonical := h4.gkTrunc
    clear_value s4 s5
    cases ht; exact h5.gkResult.updWave

theorem Cx.groupOk_canonical {c : Cx} {k g : Nat} (hc : c.s.Canonical) {t : Res} (ht : c.groupOk k g = some t) : t.Canonical := by
  unfold Cx.groupOk at ht
  extract_lets +onlyGivenNames v at ht
  split at ht
  · cases ht; exact hc
  split at ht
  · cases ht; exact trivial
  split at ht
  · cases ht; exact trivial
  · cases ht

theorem Cx.gkTable_error_canonical {c : Cx} {h : Nat} (hc : c.s.Canonical) {r : Res} (ht : c.gkTable h = .error r) : r.Canonical := by
  unfold Cx.gkTable at ht
  split at ht
  · cases ht; exact trivial
  split at ht
  · cases ht; exact Cx.groupOk_canonical hc ‹_›
  · cases ht

theorem Cx.gkFamily_error_canonical {c : Cx} {h : Nat} (hc : c.s.Canonical) {r : Res} (ht : c.gkFamily h = .error r) : r.Canonical := by
  unfold Cx.gkFamily at ht
  split at ht
  · cases ht; exact trivial
  split at ht
  · cases ht; exact Cx.groupOk_canonical hc ‹_›
  · cases ht

theorem Cx.gkTensor_canonical {c : Cx} {id d : Nat} (hc : c.s.Canonical) {r : TEntry} {t : State} (ht : c.gkTensor id d = .ok
    (r, t)) : t.Canonical := by
  unfold Cx.gkTensor at ht
  split at ht
  · cases ht
  split at ht
  · cases ht
  cases ht; exact hc.tensorEntry ‹_›

theorem Cx.gkTensor_error_canonical {c : Cx} {id d : Nat} (hc : c.s.Canonical) {r : Res}
    (ht : c.gkTensor id d = .error r) : r.Canonical := by
  unfold Cx.gkTensor at ht
  split at ht
  · cases ht; exact Cx.fails_canonical hc
  split at ht
  · cases ht; exact trivial
  · cases ht

theorem Cx.gkAccept_canonical {s : State} {c : Cx} {k t : Nat} {op : GkOp} (hc : c.s.Canonical) (h : s.Canonical) :
    (c.gkAccept s k t op).Canonical := by
  unfold Cx.gkAccept
  extract_lets +onlyGivenNames num u s1
  have hs1 : s1.Canonical := h.updTable.updStack
  split
  · exact hs1.updWave
  · exact hs1

theorem Cx.gkSend_canonical {s : State} {c : Cx} {k : Nat} {r : GkRead} (hc : c.s.Canonical) (h : s.Canonical) :
    (c.gkSend s k r).Canonical :=
  h.updStack.updWave

theorem execGkHf_canonical {e : Enc} (h : s.Canonical) {t : State} (ht : execGkHf e s = .next t) : t.Canonical := by
  unfold execGkHf at ht
  refine simt_canonical h (fun hc => ?_) ht
  split
  · exact Cx.gkFamily_error_canonical hc ‹_›
  extract_lets +onlyGivenNames w b d
  split
  · exact trivial
  split
  · exact trivial
  · exact hc.updStack

theorem execGkTbl_canonical {e : Enc} (h : s.Canonical) {t : State} (ht : execGkTbl e s = .next t) : t.Canonical := by
  unfold execGkTbl at ht
  refine simt_canonical h (fun hc => ?_) ht
  extract_lets +onlyGivenNames th fh w
  split
  · exact trivial
  split
  · exact Cx.gkTable_error_canonical hc ‹_›
  · exact Cx.gkFamily_error_canonical hc ‹_›
  extract_lets +onlyGivenNames st
  split
  · exact trivial
  extract_lets +onlyGivenNames x spill
  split
  · exact trivial
  split
  · exact Cx.gkTensor_error_canonical hc ‹_›
  split
  · exact trivial
  split
  · extract_lets +onlyGivenNames u
    exact (Cx.gkTensor_canonical hc ‹_›).updTable.updStack
  extract_lets +onlyGivenNames y
  exact (Cx.gkTensor_canonical hc ‹_›).updStack

theorem Cx.gkRowOp_canonical {c : Cx} {op : Word → GkOp} (hc : c.s.Canonical) : (c.gkRowOp op).Canonical := by
  unfold Cx.gkRowOp
  split
  · exact Cx.gkTable_error_canonical hc ‹_›
  split
  · exact trivial
  extract_lets +onlyGivenNames row
  split
  · exact trivial
  · exact Cx.gkAccept_canonical hc hc

theorem execGkIns_canonical {e : Enc} (h : s.Canonical) {t : State} (ht : execGkIns e s = .next t) : t.Canonical :=
  simt_canonical h (fun hc => Cx.gkRowOp_canonical hc) ht

theorem execGkDel_canonical {e : Enc} (h : s.Canonical) {t : State} (ht : execGkDel e s = .next t) : t.Canonical :=
  simt_canonical h (fun hc => Cx.gkRowOp_canonical hc) ht

theorem Cx.gkInput_canonical {c : Cx} {w d : Nat} (hc : c.s.Canonical) {r : TEntry} {t : State} (ht : c.gkInput w d = .ok
    (r, t)) : t.Canonical := by
  unfold Cx.gkInput at ht
  split at ht
  · cases ht
  split at ht
  · cases ht
  cases ht; exact Cx.gkTensor_canonical hc ‹_›

theorem Cx.gkInput_error_canonical {c : Cx} {w d : Nat} (hc : c.s.Canonical) {r : Res} (ht : c.gkInput w d = .error r) : r.Canonical := by
  unfold Cx.gkInput at ht
  split at ht
  · cases ht; exact Cx.gkTensor_error_canonical hc ‹_›
  split at ht
  · cases ht; exact trivial
  · cases ht

theorem execGkProbe_canonical {e : Enc} (h : s.Canonical) {t : State} (ht : execGkProbe e s = .next t) : t.Canonical := by
  unfold execGkProbe at ht
  refine simt_canonical h (fun hc => ?_) ht
  split
  · exact Cx.gkTable_error_canonical hc ‹_›
  split
  · exact trivial
  extract_lets +onlyGivenNames w
  split
  · exact Cx.gkInput_error_canonical hc ‹_›
  · exact Cx.gkSend_canonical hc (Cx.gkInput_canonical hc ‹_›)

theorem execGkRehash_canonical {e : Enc} (h : s.Canonical) {t : State} (ht : execGkRehash e s = .next t) : t.Canonical := by
  unfold execGkRehash at ht
  refine simt_canonical h (fun hc => ?_) ht
  extract_lets +onlyGivenNames th fh n
  split
  · exact trivial
  split
  · exact Cx.gkTable_error_canonical hc ‹_›
  · exact Cx.gkFamily_error_canonical hc ‹_›
  extract_lets +onlyGivenNames st
  split
  · exact trivial
  · exact trivial
  extract_lets +onlyGivenNames d
  split
  · exact trivial
  split
  · exact trivial
  · exact Cx.gkAccept_canonical hc hc

theorem Cx.evalTables_error_canonical {c : Cx} {m : Nat} {n i : Nat} (hc : c.s.Canonical) {r : Res}
    (ht : c.evalTables m n i = .error r) : r.Canonical := by
  induction n generalizing i with
  | zero => cases ht
  | succ n ih =>
    unfold Cx.evalTables at ht
    split at ht
    · cases ht; exact Cx.gkTable_error_canonical hc ‹_›
    split at ht
    · cases ht; exact trivial
    split at ht
    · cases ht; exact ih ‹_›
    · cases ht

theorem execGkEval_canonical {e : Enc} (h : s.Canonical) {t : State} (ht : execGkEval e s = .next t) : t.Canonical := by
  unfold execGkEval at ht
  refine simt_canonical h (fun hc => ?_) ht
  extract_lets +onlyGivenNames m g n topk
  split
  · exact trivial
  split
  · exact trivial
  split
  · exact Cx.evalTables_error_canonical hc ‹_›
  split
  · exact trivial
  split
  · exact trivial
  split
  · exact Cx.gkInput_error_canonical hc ‹_›
  · exact Cx.gkSend_canonical hc (Cx.gkInput_canonical hc ‹_›)

theorem execGkSeq_canonical {e : Enc} (h : s.Canonical) {t : State} (ht : execGkSeq e s = .next t) : t.Canonical := by
  unfold execGkSeq at ht
  refine simt_canonical h (fun hc => ?_) ht
  split
  · exact Cx.gkTable_error_canonical hc ‹_›
  split
  · exact trivial
  extract_lets +onlyGivenNames hi
  exact hc.updWave

theorem execGkStat_canonical {e : Enc} (h : s.Canonical) {t : State} (ht : execGkStat e s = .next t) : t.Canonical := by
  unfold execGkStat at ht
  refine simt_canonical h (fun hc => ?_) ht
  split
  · exact Cx.gkTable_error_canonical hc ‹_›
  split
  · exact trivial
  · exact hc.updWave

theorem State.Canonical.gkReassign {k g : Nat} (h : s.Canonical) : (s.gkReassign k g).Canonical := by
  unfold State.gkReassign
  extract_lets +onlyGivenNames st of dead s1
  have hs1 : s1.Canonical := h.updStack
  extract_lets +onlyGivenNames s2
  have hs2 : s2.Canonical := hs1.foldl fun h => h.gkResult
  exact hs2.updStack

theorem execGkAssignWrite_canonical {k : Nat} {v : Dword} (h : s.Canonical) {t : State}
    (ht : execGkAssignWrite k v s = .next t) : t.Canonical := by
  unfold execGkAssignWrite at ht
  extract_lets +onlyGivenNames x old s1 at ht
  have hs1 : s1.Canonical := h.updStack
  cases ht; exact hs1.foldl fun h => (.ite h h.gkReassign)

/-! ## Top-k lists -/

theorem Cx.setTopK_canonical {c : Cx} {t : TopK} (hc : c.s.Canonical) : (c.setTopK t).Canonical :=
  hc.updWave

theorem execTopkIns_canonical {e : Enc} (h : s.Canonical) {t : State} (ht : execTopkIns e s = .next t) : t.Canonical := by
  unfold execTopkIns at ht
  refine simt_canonical h (fun hc => ?_) ht
  split
  · exact trivial
  · exact Cx.setTopK_canonical hc

theorem execTopkMrg_canonical {e : Enc} (h : s.Canonical) {t : State} (ht : execTopkMrg e s = .next t) : t.Canonical := by
  unfold execTopkMrg at ht
  refine simt_canonical h (fun {c} hc => ?_) ht
  extract_lets +onlyGivenNames base
  split
  · extract_lets +onlyGivenNames o c'
    have hc' : c'.s.Canonical := Cx.on_canonical hc.updWave
    have hl := Cx.issueLoad_canonical (c := c') (scr := false) (known := [])
      (ps := (List.range 9).map fun i => ⟨0, base + 64 * i, 64⟩) (pre := []) (o := o) (acqLvl := 0) hc'
    clear_value c'
    generalize c'.issueLoad _ _ _ _ _ _ = r at hl ⊢
    split
    · exact Res.canonical_ite trivial hl
    · exact hl
  split
  · exact hc
  split
  · exact hc
  split
  · exact trivial
  · exact Cx.setTopK_canonical hc

theorem execTopkRd_canonical {e : Enc} (h : s.Canonical) {t : State} (ht : execTopkRd e s = .next t) : t.Canonical := by
  unfold execTopkRd at ht
  refine simt_canonical h (fun hc => ?_) ht
  extract_lets +onlyGivenNames h1
  split
  · exact trivial
  extract_lets +onlyGivenNames get
  exact hc.updWave

theorem execTopkClr_canonical {e : Enc} (h : s.Canonical) {t : State} (ht : execTopkClr e s = .next t) : t.Canonical := by
  unfold execTopkClr at ht
  refine simt_canonical h (fun hc => ?_) ht
  extract_lets +onlyGivenNames k
  split
  · exact trivial
  · exact Cx.setTopK_canonical hc

theorem execTopkSum_canonical {e : Enc} (h : s.Canonical) {t : State} (ht : execTopkSum e s = .next t) : t.Canonical := by
  unfold execTopkSum at ht
  refine simt_canonical h (fun hc => ?_) ht
  exact hc.updWave

theorem State.Canonical.requestHalt {p : Nat} {why : PreWhy} (h : s.Canonical) : (s.requestHalt p why).Canonical := by
  unfold State.requestHalt
  extract_lets +onlyGivenNames s1
  have hs1 : s1.Canonical := h.updPart
  extract_lets +onlyGivenNames s2
  have hs2 : s2.Canonical := hs1.foldl fun h => h.requestPre
  exact hs2.frame

theorem State.Canonical.halt {p : Nat} (h : s.Canonical) : (s.halt p).Canonical := by
  unfold State.halt
  extract_lets +onlyGivenNames us units s1
  have hs1 : s1.Canonical := by
    dsimp only [s1]
    refine h.foldl fun h => ?_
    split
    · exact h
    · exact h.updCore.updBlock
  exact hs1.updMem.updPart

theorem State.Canonical.reslot {w : Nat} {core : Nat} (h : s.Canonical) : (s.reslot w core).Canonical := by
  unfold State.reslot
  split
  · exact h
  extract_lets +onlyGivenNames taken
  split
  · exact h.updWave
  · exact h

theorem State.Canonical.bringBack {u : Nat} (h : s.Canonical) : (s.bringBack u).Canonical := by
  unfold State.bringBack
  split
  · exact h
  extract_lets +onlyGivenNames s1
  have hs1 : s1.Canonical := h.updCore
  extract_lets +onlyGivenNames bs s2
  have hs2 : s2.Canonical := hs1.updBlock
  refine hs2.foldl fun h => ?_
  extract_lets +onlyGivenNames s3
  have hs3 : s3.Canonical := h.reslot
  extract_lets +onlyGivenNames s4
  have hs4 : s4.Canonical := by
    dsimp only [s4]
    split
    · split
      · exact hs3
      · exact hs3.gkResend
    · exact hs3
  exact hs4.updWave

theorem State.Canonical.bringAll {us : List Nat} {t : State} (h : s.Canonical) (ht : s.bringAll us = some t) : t.Canonical := by
  induction us generalizing s with
  | nil =>
    cases ht; exact h
  | cons u us ih =>
    unfold State.bringAll at ht
    split at ht
    · exact ih h ht
    split at ht
    · exact ih h.bringBack ht
    · cases ht

theorem State.Canonical.resume {p : Nat} (h : s.Canonical) {t : State} (ht : s.resume p = some t) : t.Canonical := by
  unfold State.resume at ht
  extract_lets +onlyGivenNames us at ht
  rw [Option.map_eq_some_iff] at ht
  obtain ⟨x, hx, rfl⟩ := ht
  extract_lets +onlyGivenNames s1
  have hs1 : s1.Canonical := (h.tickNow.bringAll ‹_›).updPart
  refine State.Canonical.distribute ?_
  refine hs1.foldl fun h => ?_
  split
  · exact h.arrivalPre
  · exact h

theorem execPartitionSwap_canonical {p : Nat} (h : s.Canonical) {t : State} (ht : execPartitionSwap p s = .next t) : t.Canonical := by
  unfold execPartitionSwap at ht
  split at ht
  · cases ht; exact h
  extract_lets +onlyGivenNames s1 at ht
  have hs1 : s1.Canonical := h.requestHalt
  cases ht
  split
  · exact hs1.halt
  · exact hs1

theorem State.Canonical.resumeOr {p : Nat} (h : s.Canonical) : ((s.resume p).getD s).Canonical := by
  cases hr : s.resume p with
  | none => exact h
  | some t => exact h.resume hr

theorem execPartitionSwapIn_canonical {p : Nat} (h : s.Canonical) {t : State} (ht : execPartitionSwapIn p s = .next t) : t.Canonical := by
  unfold execPartitionSwapIn at ht
  split at ht
  · cases ht; exact h
  · cases ht; exact h.resumeOr

theorem State.Canonical.checkpointStep {p : Nat} (h : s.Canonical) : (s.checkpointStep p).Canonical := by
  unfold State.checkpointStep
  extract_lets +onlyGivenNames s1
  have h1 : s1.Canonical := h.requestHalt.updPart
  clear_value s1
  split
  · exact h1
  extract_lets +onlyGivenNames s2 img s3 s4
  have h2 : s2.Canonical := h1.halt
  have hi : BlocksCanonical img.blocks := h2.blocks.filter
  have h3 : s3.Canonical := h2.updPart
  clear_value s3 img
  have h4 : s4.Canonical := .ite h3.postFault (h3.updPartOf fun x _ i hx => Option.some.inj hx ▸ hi)
  exact h4.resumeOr

theorem execTadpoleCheckpoint_canonical {p : Nat} (h : s.Canonical) {t : State}
    (ht : execTadpoleCheckpoint p s = .next t) : t.Canonical := by
  unfold execTadpoleCheckpoint at ht
  extract_lets +onlyGivenNames x due at ht
  split at ht
  · cases ht; exact h
  cases ht; exact h.checkpointStep

theorem execTadCmdCkpt_canonical {p : Nat} {v : Dword} (h : s.Canonical) {t : State}
    (ht : execTadCmdCkpt p v s = .next t) : t.Canonical := by
  unfold execTadCmdCkpt at ht
  extract_lets +onlyGivenNames x at ht
  split at ht
  · cases ht; exact h
  cases ht; exact h.checkpointStep

theorem Mem.Canonical.undoLine {m : Mem} {u : UndoLine} (h : m.Canonical) : (m.undoLine u).Canonical := by
  unfold Mem.undoLine
  split
  · exact ⟨Memory.writeN_wf h.1 _ _, h.2⟩
  · exact h.set (Memory.writeN_wf h.get _ _)

theorem State.Canonical.undoWrites {p : Nat} (h : s.Canonical) : (s.undoWrites p).Canonical := by
  unfold State.undoWrites
  refine (h.foldl fun h => ?_).updPart
  extract_lets +onlyGivenNames u
  have hu : u.Canonical := h.tickNow.keepPast
  exact hu.updMemOf fun m (hm : m.Canonical) => Mem.Canonical.undoLine (m := m.copiesGone _ _ _) hm

theorem State.Canonical.clearWork {p : Nat} (h : s.Canonical) : (s.clearWork p).Canonical :=
  h.rebuild h.blocks.filter (h.cores.map fun _ => rfl)

theorem State.Canonical.placeImage {p : Nat} {i : PartImage} (h : s.Canonical) (hi : BlocksCanonical i.blocks) :
    (s.placeImage p i).Canonical := by
  unfold State.placeImage
  extract_lets +onlyGivenNames s1 s2 s3
  have h1 : s1.Canonical := h.withBlocks (h.blocks.append hi)
  have h2 : s2.Canonical := h1.foldl fun h => h.updStack
  have h3 : s3.Canonical := h2.foldl fun h => h.updStack
  exact h3.updPart

theorem State.Canonical.startReplay {p : Nat} {i : PartImage} (h : s.Canonical) (hi : BlocksCanonical i.blocks) :
    (s.startReplay p i).Canonical := by
  unfold State.startReplay
  extract_lets +onlyGivenNames t clash
  have ht : t.Canonical := h.clearWork.undoWrites.placeImage hi
  split
  · exact h
  split
  · exact h
  · exact (ht.resume ‹_›).updPart

theorem State.Canonical.replayOutside {p : Nat} {e : LogEntry} (h : s.Canonical) : (s.replayOutside p e).Canonical := by
  unfold State.replayOutside
  extract_lets +onlyGivenNames s1
  have hs1 : s1.Canonical := by
    dsimp only [s1]
    split
    · exact h.devWriteBytes
    · exact h
  exact hs1.logEntry

theorem State.Canonical.part {p : Nat} (h : s.Canonical) : (s.part p).Canonical := by
  rw [State.part, List.getD_eq_getElem?_getD]
  cases hx : s.parts[p]? with
  | none => exact fun _ hi => nomatch hi
  | some x => exact h.parts x (List.mem_of_getElem? hx)

theorem execTadpoleReplay_canonical {p : Nat} (h : s.Canonical) {t : State} (ht : execTadpoleReplay p s = .next t) : t.Canonical := by
  unfold execTadpoleReplay at ht
  extract_lets +onlyGivenNames x at ht
  have hx : x.Canonical := h.part
  clear_value x
  split at ht
  · cases ht; exact h
  split at ht
  · cases ht
    split
    · exact .ite h (h.startReplay (hx _ ‹_›))
    · exact h
  · cases ht; exact h
  split at ht
  · cases ht; exact h.haltAll.updPart.postFault
  split at ht
  · cases ht; exact h.updPart
  · cases ht; exact .ite h.replayOutside h

theorem State.Canonical.hbmAccess {r : HbmReq} (h : s.Canonical) {t : State} {res : Bool} (ht : s.hbmAccess r =
    (t, res)) : t.Canonical := by
  unfold State.hbmAccess at ht
  extract_lets +onlyGivenNames k ch at ht
  split at ht
  · cases ht; exact h
  extract_lets +onlyGivenNames st at ht
  split at ht
  · cases ht; exact h.updStack
  split at ht
  extract_lets +onlyGivenNames s1 at ht
  have hs1 : s1.Canonical := h.updStack
  cases ht
  split
  · exact hs1.updHub
  · exact hs1

/-! ## HBM -/

theorem State.Canonical.poisonLine {line : Nat} (h : s.Canonical) : (s.poisonLine line).Canonical := by
  unfold State.poisonLine
  split
  · exact h
  · exact h.tickNow.updMem

theorem State.Canonical.checkColumnRead {k line errs : Nat} (h : s.Canonical) : (s.checkColumnRead k line errs).Canonical := by
  unfold State.checkColumnRead
  split
  · exact h
  split
  · exact h.updStack.updMem
  · exact h.updStack.poisonLine

theorem execHbmRead_canonical {c : HbmCoord} {part line errs : Nat} (h : s.Canonical) {t : State}
    (ht : execHbmRead c part line errs s = .next t) : t.Canonical := by
  unfold execHbmRead at ht
  split at ht
  · cases ht; exact h.hbmAccess ‹_›
  cases ht; exact (h.hbmAccess ‹_›).updStack.checkColumnRead.updMem

theorem execHbmWrite_canonical {c : HbmCoord} {part line : Nat} {full : Bool} (h : s.Canonical) {t : State}
    (ht : execHbmWrite c part line full s = .next t) : t.Canonical := by
  unfold execHbmWrite at ht
  split at ht
  · cases ht; exact h.hbmAccess ‹_›
  extract_lets +onlyGivenNames s1 at ht
  have hs1 : s1.Canonical := (h.hbmAccess ‹_›).updStack
  extract_lets +onlyGivenNames s2 at ht
  have hs2 : s2.Canonical := .ite hs1 hs1.checkColumnRead
  cases ht; exact hs2.updMem

theorem execIdlePrecharge_canonical {b : HbmBank} (h : s.Canonical) {t : State} (ht : execIdlePrecharge b s = .next t) : t.Canonical := by
  unfold execIdlePrecharge at ht
  extract_lets +onlyGivenNames st bk queued at ht
  split at ht
  · cases ht; exact h.updStack
  cases ht; exact h

theorem execRefreshManagement_canonical {b : HbmBank} (h : s.Canonical) {t : State}
    (ht : execRefreshManagement b s = .next t) : t.Canonical := by
  unfold execRefreshManagement at ht
  extract_lets +onlyGivenNames st bk now at ht
  split at ht
  · cases ht; exact h
  split at ht
  · cases ht; exact h
  cases ht; exact h.updStack

theorem execPeriodicRefresh_canonical {b : HbmBank} (h : s.Canonical) {t : State}
    (ht : execPeriodicRefresh b s = .next t) : t.Canonical := by
  unfold execPeriodicRefresh at ht
  split at ht
  · cases ht; exact h
  cases ht; exact h.updStack

theorem State.Canonical.hbmClock {old : State} (h : s.Canonical) : (old.hbmClock s).Canonical := by
  unfold State.hbmClock
  extract_lets +onlyGivenNames u
  have hu : u.Canonical := .ite h h.frame
  exact .ite hu.frame hu

theorem State.ctStart_canonical {op : Nat} {v : Dword} {result : Hub → Nat → Nat} (h : s.Canonical) {t : State}
    (ht : s.ctStart op v result = .next t) : t.Canonical := by
  unfold State.ctStart at ht
  split at ht
  · cases ht; exact h
  extract_lets +onlyGivenNames r at ht
  cases ht; exact h.updHub

theorem execCtAdd_canonical {v : Dword} {granted : Bool} (h : s.Canonical) {t : State}
    (ht : execCtAdd v granted s = .next t) : t.Canonical := by
  unfold execCtAdd at ht
  exact State.ctStart_canonical h ht

theorem execCtRelease_canonical {v : Dword} (h : s.Canonical) {t : State} (ht : execCtRelease v s = .next t) : t.Canonical := by
  unfold execCtRelease at ht
  exact State.ctStart_canonical h ht

theorem execCtSetRetain_canonical {v : Dword} (h : s.Canonical) {t : State} (ht : execCtSetRetain v s = .next t) : t.Canonical := by
  unfold execCtSetRetain at ht
  exact State.ctStart_canonical h ht

theorem execCtClearRetain_canonical {v : Dword} (h : s.Canonical) {t : State} (ht : execCtClearRetain v s = .next t) : t.Canonical := by
  unfold execCtClearRetain at ht
  exact State.ctStart_canonical h ht

theorem Memory.filter_wf {m : Memory} {p : Host.Cell → Bool} (h : m.wf) : Memory.wf (m.filter p) :=
  ⟨h.1.filter p, fun x hx => h.2 x (List.mem_filter.1 hx).1⟩

theorem State.Canonical.releaseExtent {e : Nat} (h : s.Canonical) : (s.releaseExtent e).Canonical :=
  h.withMem ⟨h.mem.1, h.mem.2.1, Memory.filter_wf h.mem.2.2.1, h.mem.2.2.2⟩

theorem execCtCmdDone_canonical (h : s.Canonical) {t : State} (ht : execCtCmdDone s = .next t) : t.Canonical := by
  unfold execCtCmdDone at ht
  split at ht
  · cases ht; exact h
  extract_lets +onlyGivenNames done at ht
  have hdone : ∀ {u}, State.Canonical u → done u = .next t → t.Canonical := fun hu ht => by
    cases ht; exact hu.updHub
  clear_value done
  split at ht
  · exact hdone h ht
  extract_lets +onlyGivenNames retain at ht
  have hretain : ∀ {b}, (retain b).Canonical := h.updHub
  clear_value retain
  split at ht
  · exact hdone h.updHub ht
  · split at ht
    · cases ht; exact h
    · exact hdone h.tickNow.releaseExtent ht
  · exact hdone hretain ht
  · exact hdone hretain ht

theorem State.Canonical.ckptWrite {v : Dword} (h : s.Canonical) : (s.ckptWrite v).Canonical := by
  unfold State.ckptWrite
  extract_lets +onlyGivenNames back held
  have hheld : held.Canonical := h.updHub
  split
  · exact hheld
  split
  · extract_lets +onlyGivenNames t
    have ht : t.Canonical := hheld.foldl fun h => h.homeDeliver
    exact ht.updMem.updHub
  · exact hheld.updHub

theorem execCkptStart_canonical {v : Dword} (h : s.Canonical) {t : State} (ht : execCkptStart v s = .next t) : t.Canonical := by
  unfold execCkptStart at ht
  split at ht
  · cases ht; exact h
  cases ht; exact h.ckptWrite

theorem execCkptRestore_canonical {v : Dword} (h : s.Canonical) {t : State} (ht : execCkptRestore v s = .next t) : t.Canonical := by
  unfold execCkptRestore at ht
  split at ht
  · cases ht; exact h
  cases ht; exact h.ckptWrite

theorem State.Canonical.toExtents_wf (h : s.Canonical) : s.toExtents.wf :=
  Memory.foldl_wf (fun _ _ hm => Memory.write_wf hm _ _) _ (Memory.filter_wf h.mem.2.2.1)

theorem Mem.Canonical.fromExtents {m : Mem} (h : m.Canonical) : m.fromExtents.Canonical := by
  refine ⟨Memory.foldl_wf (fun m x hm => ?_) _ (Memory.foldl_wf (fun _ _ hm => Memory.write_wf hm _ _) _ (Memory.filter_wf h.1)), h.2⟩
  split
  · exact Memory.writeLine_wf hm _ _ _
  · exact hm

theorem execCkptComplete_canonical {fabricError : Bool} (h : s.Canonical) {t : State}
    (ht : execCkptComplete fabricError s = .next t) : t.Canonical := by
  unfold execCkptComplete at ht
  extract_lets +onlyGivenNames ended at ht
  have hend : ∀ {u r}, State.Canonical u → (ended r u).Canonical := fun hu => hu.updHub.foldl fun h => h.drainFq
  clear_value ended
  split at ht
  · cases ht; exact h
  split at ht
  · cases ht; exact hend h
  extract_lets +onlyGivenNames u at ht
  have hu : u.Canonical := h.tickNow
  clear_value u
  split at ht
  · cases ht; exact hend (hu.withMem hu.mem.fromExtents)
  · cases ht; exact hend (hu.updMemOf fun _ hm => ⟨hm.1, hm.2.1, hu.toExtents_wf, hm.2.2.2⟩)

theorem State.Canonical.outsideWrite {p : Nat} {sp : Space} {pa : Nat} {bs : List Byte} (h : s.Canonical) :
    (s.outsideWrite p sp pa bs).Canonical := by
  unfold State.outsideWrite
  extract_lets +onlyGivenNames s1
  have hs1 : s1.Canonical := h.devWriteBytes.updPart
  exact hs1.logEntry

theorem State.Canonical.hostRefused {p : Nat} (h : s.Canonical) : (s.hostRefused p).Canonical :=
  h.updPart

theorem execHostBar2Read_canonical {p : Nat} {off : Dword} {len : Nat} (h : s.Canonical) {t : State}
    (ht : execHostBar2Read p off len s = .next t) : t.Canonical := by
  unfold execHostBar2Read at ht
  split at ht
  · cases ht; exact h
  cases ht
  split
  · exact h
  · exact h.hostRefused

theorem execHostBar2Write_canonical {p : Nat} {off : Dword} {data : List Byte} (h : s.Canonical) {t : State}
    (ht : execHostBar2Write p off data s = .next t) : t.Canonical := by
  unfold execHostBar2Write at ht
  split at ht
  · cases ht; exact h
  split at ht
  · cases ht; exact h.hostRefused
  split at ht
  · cases ht; exact h
  split at ht
  · cases ht; exact h.logFull
  cases ht; exact h.foldl fun h => h.outsideWrite

theorem State.Canonical.hostAtomic {p : Nat} {off : Dword} {op : HostAtomic} {wide : Bool} {x y : Dword} (h : s.Canonical)
    {t : State} {r : Option Nat} (ht : s.hostAtomic p off op wide x y = (t, r)) : t.Canonical := by
  unfold State.hostAtomic at ht
  split at ht
  · cases ht; exact h
  extract_lets +onlyGivenNames n at ht
  split at ht
  · cases ht; exact h.hostRefused
  split at ht
  · cases ht; exact h.hostRefused
  split at ht
  · cases ht; exact h
  split at ht
  next u hu =>
    cases ht; exact .ofIte hu (fun hu => h.seTry_error hu) (fun hu => by cases hu)
  next u hu =>
    have h1 : u.Canonical := .ofIte hu (fun hu => h.seTry hu) (fun hu => by cases hu; exact h)
    split at ht
    · cases ht; exact h1.logFull
    extract_lets +onlyGivenNames m old at ht
    split at ht
    extract_lets +onlyGivenNames bs at ht
    cases ht
    split
    · exact h1.outsideWrite
    extract_lets +onlyGivenNames s1
    have hs1 : s1.Canonical := h1.foldl fun h => h.homeWrite
    extract_lets +onlyGivenNames s2
    have hs2 : s2.Canonical := hs1.updPart
    exact hs2.logEntry

theorem execHostAtomicop_canonical {p : Nat} {off : Dword} {op : HostAtomic} {wide : Bool} {x y : Dword} (h : s.Canonical)
    {t : State} (ht : execHostAtomicop p off op wide x y s = .next t) : t.Canonical := by
  unfold execHostAtomicop at ht
  cases ht; exact h.hostAtomic rfl

theorem State.Canonical.sysFail {x : Wave} {k : Nat} {late : Dword → Bool} (h : s.Canonical) : (s.sysFail x k late).Canonical := by
  unfold State.sysFail
  extract_lets +onlyGivenNames w
  split
  · exact h.failLoad
  split
  · exact .ite h.updWave h
  split
  · exact h
  split
  · exact h
  extract_lets +onlyGivenNames bs s1 s2 s3
  have h1 : s1.Canonical := h.frame
  have h2 : s2.Canonical := h1.homeDeliver
  have h3 : s3.Canonical := h2.updMemOf fun _ hm => hm.set (Memory.writeLine_wf hm.get _ _ _)
  clear_value s3
  exact h3.updWave.pendCause

theorem execSysTimeout_canonical {w k : Nat} (h : s.Canonical) {t : State} (ht : execSysTimeout w k s = .next t) : t.Canonical := by
  unfold execSysTimeout at ht
  split at ht
  · cases ht; exact h
  extract_lets +onlyGivenNames tmo at ht
  cases ht; exact h.sysFail

theorem execSysErrorResponse_canonical {w k : Nat} (h : s.Canonical) {t : State}
    (ht : execSysErrorResponse w k s = .next t) : t.Canonical := by
  unfold execSysErrorResponse at ht
  split at ht
  · cases ht; exact h
  cases ht; exact h.sysFail

theorem execPartEnd_canonical {p : Nat} (h : s.Canonical) {t : State} (ht : execPartEnd p s = .next t) : t.Canonical := by
  unfold execPartEnd at ht
  split at ht
  · cases ht; exact h
  extract_lets +onlyGivenNames s1 at ht
  have hs1 : s1.Canonical := h.updPart
  split at ht
  · injection ht with ht
    rw [← ht]
    exact hs1
  extract_lets +onlyGivenNames s2 at ht
  have hs2 : s2.Canonical := hs1.endGrids
  extract_lets +onlyGivenNames s3 at ht
  have hs3 : s3.Canonical := hs2.frame
  cases ht; exact hs3.updPart

theorem State.Canonical.peerWrite {o : Nat} {bs : List Byte} (h : s.Canonical) : (s.peerWrite o bs).Canonical := by
  unfold State.peerWrite
  extract_lets +onlyGivenNames ps s1
  have hs1 : s1.Canonical := h.foldl fun h => (h.foldl fun h => h.saveUndo)
  extract_lets +onlyGivenNames s2
  have hs2 : s2.Canonical := hs1.devWriteBytes
  exact hs2.foldl fun h => h.updPart.logEntry

theorem State.Canonical.peerAtomic {m a k : Nat} {wide signed float : Bool} {x y : Dword} (h : s.Canonical) {t : State}
    {r : Option Nat} (ht : s.peerAtomic m a k wide signed float x y = (t, r)) : t.Canonical := by
  unfold State.peerAtomic at ht
  extract_lets +onlyGivenNames n at ht
  split at ht
  · cases ht; exact h
  split at ht
  · cases ht; exact h.seTry_error ‹_›
  extract_lets +onlyGivenNames old md at ht
  split at ht
  cases ht; exact (h.seTry ‹_›).peerWrite

theorem execPeerRequest_canonical {m : Nat} {o : Dword} {req : PeerReq} (h : s.Canonical) {t : State}
    (ht : execPeerRequest m o req s = .next t) : t.Canonical := by
  unfold execPeerRequest at ht
  extract_lets +onlyGivenNames a at ht
  split at ht
  · cases ht; exact h
  · cases ht
    split
    · exact h.peerWrite
    · exact h
  cases ht; exact h.peerAtomic rfl

theorem execLdG_canonical {e : Enc} (h : s.Canonical) {t : State} (ht : execLdG e s = .next t) : t.Canonical :=
  simt_canonical h (fun hc => Cx.plainLoad_canonical hc) ht

theorem execStG_canonical {e : Enc} (h : s.Canonical) {t : State} (ht : execStG e s = .next t) : t.Canonical :=
  simt_canonical h (fun hc => Cx.issueStore_canonical hc) ht

theorem execLdS_canonical {e : Enc} (h : s.Canonical) {t : State} (ht : execLdS e s = .next t) : t.Canonical :=
  simt_canonical h (fun hc => Cx.plainLoad_canonical hc) ht

theorem execStS_canonical {e : Enc} (h : s.Canonical) {t : State} (ht : execStS e s = .next t) : t.Canonical :=
  simt_canonical h (fun hc => Cx.issueStore_canonical hc) ht

theorem execLdC_canonical {e : Enc} (h : s.Canonical) {t : State} (ht : execLdC e s = .next t) : t.Canonical := by
  unfold execLdC at ht
  refine simt_canonical h (fun hc => ?_) ht
  split
  extract_lets +onlyGivenNames lanes known words ps pre o
  exact Cx.issueLoad_canonical hc

theorem execGatG_canonical {e : Enc} (h : s.Canonical) {t : State} (ht : execGatG e s = .next t) : t.Canonical :=
  simt_canonical h (fun hc => Cx.plainLoad_canonical hc) ht

theorem execSctG_canonical {e : Enc} (h : s.Canonical) {t : State} (ht : execSctG e s = .next t) : t.Canonical :=
  simt_canonical h (fun hc => Cx.issueStore_canonical hc) ht

theorem execGatS_canonical {e : Enc} (h : s.Canonical) {t : State} (ht : execGatS e s = .next t) : t.Canonical :=
  simt_canonical h (fun hc => Cx.plainLoad_canonical hc) ht

theorem execSctS_canonical {e : Enc} (h : s.Canonical) {t : State} (ht : execSctS e s = .next t) : t.Canonical :=
  simt_canonical h (fun hc => Cx.issueStore_canonical hc) ht

theorem execPf_canonical {e : Enc} (h : s.Canonical) {t : State} (ht : execPf e s = .next t) : t.Canonical := by
  unfold execPf at ht
  refine simt_canonical h (fun hc => ?_) ht
  change State.Canonical _
  refine hc.foldl fun h => ?_
  extract_lets +onlyGivenNames a
  split
  · exact h
  split
  · exact h
  extract_lets +onlyGivenNames r s1
  have hs1 : s1.Canonical := h.fillTlb
  split
  · exact hs1.fillCopies
  split
  · exact hs1.updMem
  · exact hs1

theorem State.Canonical.uetWrite {p region : Nat} {off : Dword} {data : List Byte} (h : s.Canonical) {t : State} {r : UetAnswer}
    (ht : s.uetWrite p region off data = (t, r)) : t.Canonical := by
  unfold State.uetWrite at ht
  split at ht
  · cases ht; exact h
  split at ht
  · cases ht; exact h
  extract_lets +onlyGivenNames base w1 at ht
  split at ht
  · cases ht; exact h
  extract_lets +onlyGivenNames va lines places size at ht
  split at ht
  · cases ht; exact h
  split at ht
  · cases ht; exact h
  split at ht
  · cases ht; exact h.logFull
  cases ht
  refine h.foldl fun h => ?_
  split
  · exact h
  extract_lets +onlyGivenNames lo hi
  exact h.outsideWrite

theorem execUetWrite_canonical {p region : Nat} {off : Dword} {data : List Byte} (h : s.Canonical) {t : State}
    (ht : execUetWrite p region off data s = .next t) : t.Canonical := by
  unfold execUetWrite at ht
  cases ht; exact h.uetWrite rfl

theorem State.Canonical.ringCount {p : Nat} {r : Ingest} {adds : List (Nat × Nat)} (h : s.Canonical) :
    (s.ringCount p r adds).Canonical := by
  unfold State.ringCount
  extract_lets +onlyGivenNames w
  exact h.outsideWrite

theorem State.Canonical.loseFrame {p : Nat} {r : Ingest} {wireLen : Nat} (h : s.Canonical) : (s.loseFrame p r wireLen).Canonical :=
  h.ringCount

theorem State.Canonical.landFrame {p : Nat} {r : Ingest} {flow wireLen : Nat} {clk : Dword} {bs : List Byte} (h : s.Canonical) :
    (s.landFrame p r flow wireLen clk bs).Canonical := by
  unfold State.landFrame
  extract_lets +onlyGivenNames va all
  split
  · exact h.loseFrame
  split
  · exact h.loseFrame
  extract_lets +onlyGivenNames s1
  have hs1 : s1.Canonical := h.outsideWrite
  extract_lets +onlyGivenNames s2
  have hs2 : s2.Canonical := hs1.ringCount
  split
  · exact hs2.updPart
  · exact hs2

theorem State.Canonical.frameWaits {p : Nat} {r : Ingest} (h : s.Canonical) : (s.frameWaits p r).Canonical := by
  unfold State.frameWaits
  split
  · exact h
  · exact h.logFull

theorem State.Canonical.dropFrame {r : Ingest} {x : HeldFrame} (h : s.Canonical) : (s.dropFrame r x).Canonical := by
  unfold State.dropFrame
  split
  · exact h.loseFrame
  · exact h.frameWaits.updHub

theorem State.Canonical.holdFrame {r : Ingest} {x : HeldFrame} (h : s.Canonical) : (s.holdFrame r x).Canonical := by
  unfold State.holdFrame
  split
  · exact h.dropFrame
  · exact h.updHub

theorem execEthFrame_canonical {f : Sys2Proof.Frame} (h : s.Canonical) {t : State} (ht : execEthFrame f s = .next t) : t.Canonical := by
  unfold execEthFrame at ht
  split at ht
  · cases ht; exact h
  split at ht
  · cases ht; exact h.updHub
  extract_lets +onlyGivenNames p ring at ht
  split at ht
  · cases ht; exact h
  extract_lets +onlyGivenNames held at ht
  split at ht
  · cases ht; exact h.dropFrame
  extract_lets +onlyGivenNames s1 at ht
  have hs1 : s1.Canonical := h.updHub
  extract_lets +onlyGivenNames mine full s2 at ht
  have hs2 : s2.Canonical := .ite hs1.updHub hs1
  split at ht
  · cases ht; exact hs2.dropFrame
  split at ht
  · cases ht; exact hs2.holdFrame
  split at ht
  · cases ht; exact hs2.frameWaits.holdFrame
  cases ht; exact hs2.landFrame

theorem State.Canonical.endPauses {port prio : Nat} (h : s.Canonical) : (s.endPauses port prio).Canonical := by
  unfold State.endPauses
  split
  · exact h
  extract_lets +onlyGivenNames ended
  exact h.updHub

theorem State.Canonical.countLost {port prio : Nat} (h : s.Canonical) : (s.countLost port prio).Canonical := by
  unfold State.countLost
  refine h.foldl fun h => ?_
  split
  · exact h.updHub
  split
  · exact h.updHub.loseFrame
  · exact h

theorem execHeldFrameLanding_canonical {port prio : Nat} (h : s.Canonical) {t : State}
    (ht : execHeldFrameLanding port prio s = .next t) : t.Canonical := by
  unfold execHeldFrameLanding at ht
  extract_lets +onlyGivenNames s1 at ht
  have hs1 : s1.Canonical := h.countLost
  split at ht
  · cases ht; exact hs1.endPauses
  extract_lets +onlyGivenNames leave at ht
  have hleave : ∀ {u : State}, u.Canonical → (leave u).Canonical := fun h => h.updHub.endPauses
  clear_value leave
  split at ht
  · cases ht; exact hleave hs1
  split at ht
  · injection ht with ht
    rw [← ht]
    exact hs1
  split at ht
  · cases ht
    split
    · exact hleave hs1.loseFrame
    · exact hs1
  split at ht
  · injection ht with ht
    rw [← ht]
    exact hs1
  cases ht; exact hleave hs1.landFrame

theorem State.netStart_canonical {op : Nat} {v : Dword} (h : s.Canonical) {t : State} (ht : s.netStart op v = .next t) : t.Canonical := by
  unfold State.netStart at ht
  split at ht
  · cases ht; exact h
  cases ht; exact h.updHub

theorem execNetWriteFlow_canonical {v : Dword} (h : s.Canonical) {t : State} (ht : execNetWriteFlow v s = .next t) : t.Canonical := by
  unfold execNetWriteFlow at ht
  exact State.netStart_canonical h ht

theorem execNetClearFlow_canonical {v : Dword} (h : s.Canonical) {t : State} (ht : execNetClearFlow v s = .next t) : t.Canonical := by
  unfold execNetClearFlow at ht
  exact State.netStart_canonical h ht

theorem execNetWriteKey_canonical {v : Dword} (h : s.Canonical) {t : State} (ht : execNetWriteKey v s = .next t) : t.Canonical := by
  unfold execNetWriteKey at ht
  exact State.netStart_canonical h ht

theorem execNetClearKey_canonical {v : Dword} (h : s.Canonical) {t : State} (ht : execNetClearKey v s = .next t) : t.Canonical := by
  unfold execNetClearKey at ht
  exact State.netStart_canonical h ht

theorem execNetCmdDone_canonical (h : s.Canonical) {t : State} (ht : execNetCmdDone s = .next t) : t.Canonical := by
  unfold execNetCmdDone at ht
  split at ht
  · cases ht; exact h
  extract_lets +onlyGivenNames kept at ht
  cases ht; exact h.updHub

theorem execCgWorldWrite_canonical {die : Nat} {v : Dword} (h : s.Canonical) {t : State}
    (ht : execCgWorldWrite die v s = .next t) : t.Canonical := by
  unfold execCgWorldWrite at ht
  split at ht
  · cases ht; exact h
  extract_lets +onlyGivenNames s1 at ht
  have hs1 : s1.Canonical := h.updDie
  extract_lets +onlyGivenNames bs at ht
  cases ht; exact (hs1.foldl fun h => h.requestPre).settleWorlds

theorem State.Canonical.zeroRange {lo hi : Nat} (h : s.Canonical) : (s.zeroRange lo hi).Canonical := by
  unfold State.zeroRange
  extract_lets +onlyGivenNames inside zero
  exact h.tickNow.updMemOf fun _ hm => ⟨Memory.filter_wf hm.1, hm.2.1, Memory.filter_wf hm.2.2.1, Memory.filter_wf hm.2.2.2⟩

theorem State.Canonical.secureRange {i : Nat} {base : BitVec 31} (h : s.Canonical) : (s.secureRange i base).Canonical := by
  unfold State.secureRange
  split
  · exact h
  extract_lets +onlyGivenNames s1
  have hs1 : s1.Canonical := h.updHub
  split
  · exact hs1.updHub
  · exact hs1.updHub

theorem execSecRangeWrite_canonical {i : Nat} {v : Dword} (h : s.Canonical) {t : State}
    (ht : execSecRangeWrite i v s = .next t) : t.Canonical := by
  unfold execSecRangeWrite at ht
  split at ht
  · cases ht; exact h
  split at ht
  · cases ht; exact h.secureRange
  extract_lets +onlyGivenNames s1 at ht
  have hs1 : s1.Canonical := .ite h.zeroRange h
  cases ht; exact hs1.updHub

theorem State.Canonical.settleRanges (h : s.Canonical) : s.settleRanges.Canonical :=
  h.foldl fun h => h.secureRange

theorem State.Canonical.setFwBusy {t : BitVec 16} {b : Bool} (h : s.Canonical) : (s.setFwBusy t b).Canonical := by
  unfold State.setFwBusy
  split
  · exact h.updDie
  split
  · exact h.updStack
  · exact h

theorem execSecurityBoot_canonical (h : s.Canonical) {t : State} (ht : execSecurityBoot s = .next t) : t.Canonical := by
  unfold execSecurityBoot at ht
  extract_lets +onlyGivenNames h1 bad start at ht
  split at ht
  · cases ht; exact h
  cases ht; exact (h.foldl fun h => h.setFwBusy).updHub

theorem State.Canonical.setMailbox {o : Origin} {f : Mailbox → Mailbox} (h : s.Canonical) : (s.setMailbox o f).Canonical := by
  unfold State.setMailbox
  split
  · exact h.updHub
  · exact h.updPart
  · exact h

theorem State.Canonical.mboxDone {o : Origin} {r : Nat} (h : s.Canonical) : (s.mboxDone o r).Canonical :=
  h.setMailbox

theorem State.Canonical.mboxWrite {o : Origin} {a : Nat} {bs : List Byte} (h : s.Canonical) {t : State}
    (ht : s.mboxWrite o a bs = some t) : t.Canonical := by
  unfold State.mboxWrite at ht
  split at ht
  · split at ht
    · cases ht; exact h.vwrite ‹_›
    · cases ht
  split at ht
  · cases ht; exact h.peerWrite
  · cases ht

theorem State.Canonical.loadFirmware {a : Nat} (h : s.Canonical) {t : State} {r : Nat} (ht : s.loadFirmware a = (t, r)) : t.Canonical := by
  unfold State.loadFirmware at ht
  extract_lets +onlyGivenNames head len image at ht
  split at ht
  · cases ht; exact h
  split at ht
  · cases ht; exact h.updHub
  cases ht; exact h

theorem execSpmLoadImage_canonical {o : Origin} (h : s.Canonical) {t : State} (ht : execSpmLoadImage o s = .next t) : t.Canonical := by
  unfold execSpmLoadImage at ht
  split at ht
  · cases ht; exact h
  split at ht
  · cases ht; exact h
  split at ht
  · cases ht; exact h.mboxDone
  split at ht
  cases ht; exact (h.loadFirmware ‹_›).mboxDone

theorem execSpmSvnCommit_canonical {o : Origin} (h : s.Canonical) {t : State} (ht : execSpmSvnCommit o s = .next t) : t.Canonical := by
  unfold execSpmSvnCommit at ht
  split at ht
  · cases ht; exact h
  split at ht
  · cases ht; exact h
  split at ht
  · cases ht; exact h.mboxDone
  cases ht; exact h.updHub.mboxDone

theorem execSpmAttest_canonical {o : Origin} (h : s.Canonical) {t : State} (ht : execSpmAttest o s = .next t) : t.Canonical := by
  unfold execSpmAttest at ht
  split at ht
  · cases ht; exact h
  split at ht
  · extract_lets +onlyGivenNames s1 at ht
    have hs1 : s1.Canonical := h.updHub
    split at ht
    · cases ht; exact hs1.mboxDone
    cases ht; exact (hs1.mboxWrite ‹_›).mboxDone
  split at ht
  · cases ht; exact h
  split at ht
  · cases ht; exact h.mboxDone
  split at ht
  · cases ht; exact h.mboxDone
  extract_lets +onlyGivenNames report at ht
  cases ht; exact h.updHub.setMailbox

theorem execSpmWriteSecureReg_canonical {o : Origin} (h : s.Canonical) {t : State}
    (ht : execSpmWriteSecureReg o s = .next t) : t.Canonical := by
  unfold execSpmWriteSecureReg at ht
  split at ht
  · cases ht; exact h
  extract_lets +onlyGivenNames secure at ht
  split at ht
  · cases ht; exact h
  split at ht
  · split at ht
    · cases ht
      extract_lets +onlyGivenNames __src
      have h__src : __src.Canonical := h.mboxDone
      exact h__src.frame
    cases ht; exact h.mboxDone
  cases ht; exact h.mboxDone

theorem State.Canonical.svcBegin {k : SvcKind} (h : s.Canonical) : (s.svcBegin k).Canonical := by
  unfold State.svcBegin
  split
  · exact h.foldl fun h => h.requestPre
  · exact h.updStack
  · exact h.frame
  · extract_lets +onlyGivenNames s1
    have hs1 : s1.Canonical := h.setFwBusy
    split
    · exact hs1.updStack
    · exact hs1
  · exact h

theorem State.Canonical.svcStart {k : SvcKind} (h : s.Canonical) : (s.svcStart k).Canonical := by
  unfold State.svcStart
  extract_lets +onlyGivenNames s1
  have hs1 : s1.Canonical := .ite h h.updHub
  split
  · exact hs1
  split
  · exact hs1
  extract_lets +onlyGivenNames y
  exact hs1.updHub.svcBegin

theorem execSpmServiceRequest_canonical {o : Origin} {kind : SvcKind} (h : s.Canonical) {t : State}
    (ht : execSpmServiceRequest o kind s = .next t) : t.Canonical := by
  unfold execSpmServiceRequest at ht
  split at ht
  · cases ht; exact h
  split at ht
  · cases ht; exact h
  split at ht
  · cases ht; exact h.mboxDone
  split at ht
  · cases ht; exact h.mboxDone
  cases ht; exact h.updHub.mboxDone

theorem execSpareCoreSwap_canonical {core : Nat} (h : s.Canonical) {t : State} (ht : execSpareCoreSwap core s = .next t) : t.Canonical := by
  unfold execSpareCoreSwap at ht
  cases ht; exact h.svcStart

theorem execRowSparing_canonical {b : HbmBank} {row : Nat} (h : s.Canonical) {t : State}
    (ht : execRowSparing b row s = .next t) : t.Canonical := by
  unfold execRowSparing at ht
  cases ht; exact h.svcStart

theorem execPchRetirement_canonical {k pch : Nat} (h : s.Canonical) {t : State}
    (ht : execPchRetirement k pch s = .next t) : t.Canonical := by
  unfold execPchRetirement at ht
  cases ht; exact h.svcStart

theorem execHbmRecalibration_canonical {k pch : Nat} (h : s.Canonical) {t : State}
    (ht : execHbmRecalibration k pch s = .next t) : t.Canonical := by
  unfold execHbmRecalibration at ht
  cases ht; exact h.svcStart

theorem execPadFrameRecalibration_canonical {k pf : Nat} (h : s.Canonical) {t : State}
    (ht : execPadFrameRecalibration k pf s = .next t) : t.Canonical := by
  unfold execPadFrameRecalibration at ht
  cases ht; exact h.svcStart

theorem execPlyLaneRetraining_canonical {port : Nat} (h : s.Canonical) {t : State}
    (ht : execPlyLaneRetraining port s = .next t) : t.Canonical := by
  unfold execPlyLaneRetraining at ht
  cases ht; exact h.svcStart

theorem execD2dLaneRetraining_canonical (h : s.Canonical) {t : State} (ht : execD2dLaneRetraining s = .next t) : t.Canonical := by
  unfold execD2dLaneRetraining at ht
  cases ht; exact h.svcStart

theorem execPortLinkRecovery_canonical {u : LinkUnit} (h : s.Canonical) {t : State}
    (ht : execPortLinkRecovery u s = .next t) : t.Canonical := by
  unfold execPortLinkRecovery at ht
  cases ht; exact h.svcStart

theorem execFirmwareActivation_canonical {t : BitVec 16} (h : s.Canonical) {u : State}
    (ht : execFirmwareActivation t s = .next u) : u.Canonical := by
  unfold execFirmwareActivation at ht
  split at ht
  · cases ht; exact h.svcStart
  cases ht; exact h

theorem execCoreFence_canonical {core : Nat} (h : s.Canonical) {t : State} (ht : execCoreFence core s = .next t) : t.Canonical := by
  unfold execCoreFence at ht
  split at ht
  · cases ht; exact h
  extract_lets +onlyGivenNames s1 at ht
  have hs1 : s1.Canonical := h.updCore
  cases ht; exact hs1.foldl fun h => h.requestPre

theorem State.Canonical.backOnSpare {core : Nat} {us : List Nat} (h : s.Canonical) : (s.backOnSpare core us).Canonical := by
  unfold State.backOnSpare
  refine h.foldl fun h => ?_
  split
  · exact h
  split
  · exact h
  split
  · exact h.placeSaved.updGrid
  · exact h

theorem State.Canonical.svcEnd {x : Service} (h : s.Canonical) : (s.svcEnd x).Canonical := by
  unfold State.svcEnd
  split
  · extract_lets +onlyGivenNames d s1
    have hs1 : s1.Canonical := h.updCore
    exact hs1.updDie.backOnSpare
  · exact h.updStack
  · extract_lets +onlyGivenNames s1
    have hs1 : s1.Canonical := h.updStack
    exact hs1.updDie
  · exact h.updStack
  · exact h.frame
  · exact h.setFwBusy
  · exact h

theorem execServiceActionComplete_canonical {k : Nat} (h : s.Canonical) {t : State}
    (ht : execServiceActionComplete k s = .next t) : t.Canonical := by
  unfold execServiceActionComplete at ht
  split at ht
  · cases ht; exact h
  split at ht
  · cases ht; exact h
  extract_lets +onlyGivenNames s1 at ht
  have hs1 : s1.Canonical := h.updHub
  cases ht; exact hs1.svcEnd.distribute

theorem execPowerWindow_canonical {watts : Nat} (h : s.Canonical) {t : State} (ht : execPowerWindow watts s = .next t) : t.Canonical := by
  unfold execPowerWindow at ht
  extract_lets +onlyGivenNames s1 at ht
  have hs1 : s1.Canonical := h.updHub
  split at ht
  · injection ht with ht
    rw [← ht]
    exact hs1
  cases ht; exact hs1.frame

theorem State.Canonical.throttle {die temp : Nat} (h : s.Canonical) : (s.throttle die temp).Canonical := by
  unfold State.throttle
  extract_lets +onlyGivenNames s1
  have hs1 : s1.Canonical := h.updHub
  split
  · exact hs1
  extract_lets +onlyGivenNames s2
  have hs2 : s2.Canonical := hs1.updDie
  exact hs2.frame

theorem State.Canonical.trip {temp : Nat} (h : s.Canonical) : (s.trip temp).Canonical := by
  unfold State.trip
  split
  · exact h
  extract_lets +onlyGivenNames s1
  have hs1 : s1.Canonical := h.foldl fun h => h.machineCheck
  exact hs1.updHub

theorem execThermalThrottle_canonical {die temp : Nat} (h : s.Canonical) {t : State}
    (ht : execThermalThrottle die temp s = .next t) : t.Canonical := by
  unfold execThermalThrottle at ht
  cases ht; exact h.throttle

theorem execThermalTrip_canonical {_die temp : Nat} (h : s.Canonical) {t : State}
    (ht : execThermalTrip _die temp s = .next t) : t.Canonical := by
  unfold execThermalTrip at ht
  cases ht; exact h.trip

theorem execD3hotRequest_canonical (h : s.Canonical) {t : State} (ht : execD3hotRequest s = .next t) : t.Canonical := by
  unfold execD3hotRequest at ht
  split at ht
  · cases ht; exact h.updHub
  cases ht; exact h

theorem State.reset_canonical : State.reset.Canonical := by
  refine State.Canonical.mk Mem.reset_wf (fun _ hb => absurd hb List.not_mem_nil) (fun x hx => ?_) fun c hc => ?_
  · cases List.eq_of_mem_replicate hx
    exact fun _ hi => nomatch hi
  · obtain ⟨n, -, rfl⟩ := List.mem_map.1 hc
    exact fun _ ht => nomatch ht

theorem execPowerLoss_canonical {t : State} (ht : execPowerLoss s = .next t) : t.Canonical := by
  injection ht with ht
  refine ht ▸ State.Canonical.mk Mem.reset_wf State.reset_canonical.blocks State.reset_canonical.parts fun c hc => ?_
  obtain ⟨x, -, rfl⟩ := List.mem_map.1 hc
  exact fun _ hi => nomatch hi

theorem Partition.writeReg_distCtl {x : Partition} {p : Nat} {v : Dword} :
    x.writeReg (.distCtl p) v = { x with distCtl := fieldOf v 39 24 ||| fieldOf v 19 16 } := rfl

theorem Partition.writeReg_ckpt {x : Partition} {r : RegName} {v : Dword} : (x.writeReg r v).ckpt = x.ckpt := by
  cases r with
  | distCtl p => rw [Partition.writeReg_distCtl]
  | _ => rfl

theorem State.Canonical.writeReg {r : RegName} {v : Dword} (h : s.Canonical) : (s.writeReg r v).Canonical := by
  unfold State.writeReg
  split
  · exact h.updHub
  · exact h.updHub
  · exact .ite h.updPart.haltAll h.updPart
  iterate 3 exact (h.updPart fun _ => Partition.writeReg_ckpt).drainFq
  iterate 4 exact h.updDie
  iterate 11 exact h.updStack
  iterate 6 exact h.updHub
  · split
    · exact h.updPart fun _ => Partition.writeReg_ckpt
    · exact h

theorem execRegisterWrite_canonical {o : Origin} {r : RegName} {v : Dword} (h : s.Canonical) {t : State}
    (ht : execRegisterWrite o r v s = .next t) : t.Canonical := by
  unfold execRegisterWrite at ht
  split at ht
  · cases ht; exact h.writeReg
  cases ht; exact h

theorem barWrite_canonical {p off : Nat} {v : Dword} (h : s.Canonical) {t : State} (ht : barWrite p off v s = .next t) : t.Canonical := by
  unfold barWrite at ht
  split at ht
  · exact execRegisterWrite_canonical h ht
  · exact execQerrWrite_canonical h ht
  · exact execCqerrWrite_canonical h ht
  · split at ht
    · exact execPartEnd_canonical h ht
    cases ht; exact h
  · exact execTlbInvalidate_canonical h ht
  · exact execTadCmdCkpt_canonical h ht
  · split at ht
    · exact execSpmLoadImage_canonical h ht
    · exact execSpmAttest_canonical h ht
    · cases ht
      split
      · exact h
      · exact h.mboxDone
    · exact execSpmSvnCommit_canonical h ht
    · exact execSpmWriteSecureReg_canonical h ht
    cases ht; exact h
  · cases ht; exact h
  · cases ht; exact h
  · cases ht; exact h
  · cases ht; exact h
  cases ht; exact h

theorem pf0Write_canonical {off : Nat} {v : Dword} {kind : SvcKind} (h : s.Canonical) {t : State}
    (ht : pf0Write off v kind s = .next t) : t.Canonical := by
  unfold pf0Write at ht
  split at ht
  · exact execRegisterWrite_canonical h ht
  · split at ht
    · exact execSpmLoadImage_canonical h ht
    · exact execSpmAttest_canonical h ht
    · exact execSpmServiceRequest_canonical h ht
    · exact execSpmSvnCommit_canonical h ht
    · exact execSpmWriteSecureReg_canonical h ht
    cases ht; exact h
  cases ht; exact h

theorem execIntAdd_canonical {e : Enc} (h : s.Canonical) {t : State} (ht : execIntAdd e s = .next t) : t.Canonical :=
  simt_canonical h (fun hc => Machine.intResult_canonical hc) ht

theorem execIntSub_canonical {e : Enc} (h : s.Canonical) {t : State} (ht : execIntSub e s = .next t) : t.Canonical :=
  simt_canonical h (fun hc => Machine.intResult_canonical hc) ht

theorem execIntMul_canonical {e : Enc} (h : s.Canonical) {t : State} (ht : execIntMul e s = .next t) : t.Canonical :=
  simt_canonical h (fun hc => Machine.intResult_canonical hc) ht

theorem execMulhi_canonical {e : Enc} (h : s.Canonical) {t : State} (ht : execMulhi e s = .next t) : t.Canonical :=
  simt_canonical h (fun hc => Machine.intResult_canonical hc) ht

theorem execMad_canonical {e : Enc} (h : s.Canonical) {t : State} (ht : execMad e s = .next t) : t.Canonical :=
  simt_canonical h (fun hc => Machine.intResult_canonical hc) ht

theorem execIntMin_canonical {e : Enc} (h : s.Canonical) {t : State} (ht : execIntMin e s = .next t) : t.Canonical :=
  simt_canonical h (fun hc => Machine.intResult_canonical hc) ht

theorem execIntMax_canonical {e : Enc} (h : s.Canonical) {t : State} (ht : execIntMax e s = .next t) : t.Canonical :=
  simt_canonical h (fun hc => Machine.intResult_canonical hc) ht

theorem execIntAbs_canonical {e : Enc} (h : s.Canonical) {t : State} (ht : execIntAbs e s = .next t) : t.Canonical :=
  simt_canonical h (fun hc => Machine.intResult_canonical hc) ht

theorem execIntNeg_canonical {e : Enc} (h : s.Canonical) {t : State} (ht : execIntNeg e s = .next t) : t.Canonical :=
  simt_canonical h (fun hc => Machine.intResult_canonical hc) ht

theorem execAndOp_canonical {e : Enc} (h : s.Canonical) {t : State} (ht : execAndOp e s = .next t) : t.Canonical :=
  simt_canonical h (fun hc => Machine.bitResult_canonical hc) ht

theorem execOrOp_canonical {e : Enc} (h : s.Canonical) {t : State} (ht : execOrOp e s = .next t) : t.Canonical :=
  simt_canonical h (fun hc => Machine.bitResult_canonical hc) ht

theorem execXorOp_canonical {e : Enc} (h : s.Canonical) {t : State} (ht : execXorOp e s = .next t) : t.Canonical :=
  simt_canonical h (fun hc => Machine.bitResult_canonical hc) ht

theorem execNotOp_canonical {e : Enc} (h : s.Canonical) {t : State} (ht : execNotOp e s = .next t) : t.Canonical :=
  simt_canonical h (fun hc => Machine.bitResult_canonical hc) ht

theorem execShl_canonical {e : Enc} (h : s.Canonical) {t : State} (ht : execShl e s = .next t) : t.Canonical :=
  simt_canonical h (fun hc => Machine.shiftResult_canonical hc) ht

theorem execShr_canonical {e : Enc} (h : s.Canonical) {t : State} (ht : execShr e s = .next t) : t.Canonical :=
  simt_canonical h (fun hc => Machine.shiftResult_canonical hc) ht

theorem execRot_canonical {e : Enc} (h : s.Canonical) {t : State} (ht : execRot e s = .next t) : t.Canonical := by
  unfold execRot at ht
  refine simt_canonical h (fun hc => ?_) ht
  extract_lets +onlyGivenNames t1
  exact Cx.writeLanes_canonical hc

theorem execPopc_canonical {e : Enc} (h : s.Canonical) {t : State} (ht : execPopc e s = .next t) : t.Canonical :=
  simt_canonical h (fun hc => Machine.bitResult_canonical hc) ht

theorem execClz_canonical {e : Enc} (h : s.Canonical) {t : State} (ht : execClz e s = .next t) : t.Canonical :=
  simt_canonical h (fun hc => Machine.bitResult_canonical hc) ht

theorem execCtz_canonical {e : Enc} (h : s.Canonical) {t : State} (ht : execCtz e s = .next t) : t.Canonical :=
  simt_canonical h (fun hc => Machine.bitResult_canonical hc) ht

theorem execBrev_canonical {e : Enc} (h : s.Canonical) {t : State} (ht : execBrev e s = .next t) : t.Canonical :=
  simt_canonical h (fun hc => Machine.bitResult_canonical hc) ht

theorem execBfe_canonical {e : Enc} (h : s.Canonical) {t : State} (ht : execBfe e s = .next t) : t.Canonical := by
  unfold execBfe at ht
  refine simt_canonical h (fun hc => ?_) ht
  extract_lets +onlyGivenNames t1
  exact Cx.writeLanes_canonical hc

theorem execBfi_canonical {e : Enc} (h : s.Canonical) {t : State} (ht : execBfi e s = .next t) : t.Canonical := by
  unfold execBfi at ht
  refine simt_canonical h (fun hc => ?_) ht
  extract_lets +onlyGivenNames t1
  exact Cx.writeLanes_canonical hc

theorem execSel_canonical {e : Enc} (h : s.Canonical) {t : State} (ht : execSel e s = .next t) : t.Canonical := by
  unfold execSel at ht
  refine simt_canonical h (fun hc => ?_) ht
  extract_lets +onlyGivenNames t1 k
  exact Cx.writeLanes_canonical hc

theorem execMov_canonical {e : Enc} (h : s.Canonical) {t : State} (ht : execMov e s = .next t) : t.Canonical := by
  unfold execMov at ht
  refine simt_canonical h (fun hc => ?_) ht
  extract_lets +onlyGivenNames t1
  exact Cx.writeLanes_canonical hc

theorem execIntCmp_canonical {e : Enc} (h : s.Canonical) {t : State} (ht : execIntCmp e s = .next t) : t.Canonical := by
  unfold execIntCmp at ht
  refine simt_canonical h (fun hc => ?_) ht
  extract_lets +onlyGivenNames t1
  exact Machine.cmpResult_canonical hc

theorem execLea_canonical {e : Enc} (h : s.Canonical) {t : State} (ht : execLea e s = .next t) : t.Canonical := by
  unfold execLea at ht
  refine simt_canonical h (fun hc => ?_) ht
  extract_lets +onlyGivenNames t1
  exact Cx.writeLanes_canonical hc

theorem execPerm_canonical {e : Enc} (h : s.Canonical) {t : State} (ht : execPerm e s = .next t) : t.Canonical := by
  unfold execPerm at ht
  refine simt_canonical h (fun hc => ?_) ht
  exact Cx.writeLanes_canonical hc

theorem execShf_canonical {e : Enc} (h : s.Canonical) {t : State} (ht : execShf e s = .next t) : t.Canonical := by
  unfold execShf at ht
  refine simt_canonical h (fun hc => ?_) ht
  exact Cx.writeLanes_canonical hc

theorem execFpAdd_canonical {e : Enc} (h : s.Canonical) {t : State} (ht : execFpAdd e s = .next t) : t.Canonical :=
  simt_canonical h (fun hc => Machine.fpResult_canonical hc) ht

theorem execFpSub_canonical {e : Enc} (h : s.Canonical) {t : State} (ht : execFpSub e s = .next t) : t.Canonical :=
  simt_canonical h (fun hc => Machine.fpResult_canonical hc) ht

theorem execFpMul_canonical {e : Enc} (h : s.Canonical) {t : State} (ht : execFpMul e s = .next t) : t.Canonical :=
  simt_canonical h (fun hc => Machine.fpResult_canonical hc) ht

theorem execFma_canonical {e : Enc} (h : s.Canonical) {t : State} (ht : execFma e s = .next t) : t.Canonical :=
  simt_canonical h (fun hc => Machine.fpResult_canonical hc) ht

theorem execFpMin_canonical {e : Enc} (h : s.Canonical) {t : State} (ht : execFpMin e s = .next t) : t.Canonical :=
  simt_canonical h (fun hc => Machine.fpPick_canonical hc) ht

theorem execFpMax_canonical {e : Enc} (h : s.Canonical) {t : State} (ht : execFpMax e s = .next t) : t.Canonical :=
  simt_canonical h (fun hc => Machine.fpPick_canonical hc) ht

theorem execFpAbs_canonical {e : Enc} (h : s.Canonical) {t : State} (ht : execFpAbs e s = .next t) : t.Canonical :=
  simt_canonical h (fun hc => Machine.fpSign_canonical hc) ht

theorem execFpNeg_canonical {e : Enc} (h : s.Canonical) {t : State} (ht : execFpNeg e s = .next t) : t.Canonical :=
  simt_canonical h (fun hc => Machine.fpSign_canonical hc) ht

theorem execFpCmp_canonical {e : Enc} (h : s.Canonical) {t : State} (ht : execFpCmp e s = .next t) : t.Canonical := by
  unfold execFpCmp at ht
  refine simt_canonical h (fun hc => ?_) ht
  extract_lets +onlyGivenNames t1
  exact Machine.cmpResult_canonical hc

theorem execClassOp_canonical {e : Enc} (h : s.Canonical) {t : State} (ht : execClassOp e s = .next t) : t.Canonical := by
  unfold execClassOp at ht
  refine simt_canonical h (fun hc => ?_) ht
  extract_lets +onlyGivenNames set acting
  split
  · exact trivial
  · exact Machine.cmpResult_canonical hc

theorem execRcp_canonical {e : Enc} (h : s.Canonical) {t : State} (ht : execRcp e s = .next t) : t.Canonical :=
  simt_canonical h (fun hc => Machine.fpResult_canonical hc) ht

theorem execRsq_canonical {e : Enc} (h : s.Canonical) {t : State} (ht : execRsq e s = .next t) : t.Canonical :=
  simt_canonical h (fun hc => Machine.fpResult_canonical hc) ht

theorem execSqe_canonical {e : Enc} (h : s.Canonical) {t : State} (ht : execSqe e s = .next t) : t.Canonical :=
  simt_canonical h (fun hc => Machine.fpResult_canonical hc) ht

theorem execExp2_canonical {e : Enc} (h : s.Canonical) {t : State} (ht : execExp2 e s = .next t) : t.Canonical :=
  simt_canonical h (fun hc => Machine.fpResult_canonical hc) ht

theorem execLog2_canonical {e : Enc} (h : s.Canonical) {t : State} (ht : execLog2 e s = .next t) : t.Canonical :=
  simt_canonical h (fun hc => Machine.fpResult_canonical hc) ht

theorem execRnd_canonical {e : Enc} (h : s.Canonical) {t : State} (ht : execRnd e s = .next t) : t.Canonical := by
  unfold execRnd at ht
  refine simt_canonical h (fun hc => ?_) ht
  extract_lets +onlyGivenNames f
  exact Cx.writeRounded_canonical hc

theorem execCvt_canonical {e : Enc} (h : s.Canonical) {t : State} (ht : execCvt e s = .next t) : t.Canonical := by
  unfold execCvt at ht
  refine simt_canonical h (fun hc => ?_) ht
  extract_lets +onlyGivenNames t1 src
  exact Cx.writeRounded_canonical hc

theorem execCvt2_canonical {e : Enc} (h : s.Canonical) {t : State} (ht : execCvt2 e s = .next t) : t.Canonical := by
  unfold execCvt2 at ht
  refine simt_canonical h (fun hc => ?_) ht
  extract_lets +onlyGivenNames t1 rs conv
  exact hc.updWave

theorem execPack_canonical {e : Enc} (h : s.Canonical) {t : State} (ht : execPack e s = .next t) : t.Canonical := by
  unfold execPack at ht
  refine simt_canonical h (fun hc => ?_) ht
  extract_lets +onlyGivenNames t1
  exact Cx.writeRounded_canonical hc

theorem execUnpk_canonical {e : Enc} (h : s.Canonical) {t : State} (ht : execUnpk e s = .next t) : t.Canonical := by
  unfold execUnpk at ht
  refine simt_canonical h (fun hc => ?_) ht
  extract_lets +onlyGivenNames t1
  exact Cx.writeLanes_canonical hc

theorem execDcd_canonical {e : Enc} (h : s.Canonical) {t : State} (ht : execDcd e s = .next t) : t.Canonical := by
  unfold execDcd at ht
  refine simt_canonical h (fun hc => ?_) ht
  exact Cx.writeLanes_canonical hc

theorem execEnc_canonical {e : Enc} (h : s.Canonical) {t : State} (ht : execEnc e s = .next t) : t.Canonical := by
  unfold execEnc at ht
  refine simt_canonical h (fun hc => ?_) ht
  exact Cx.writeRounded_canonical hc

theorem execSbx_canonical {e : Enc} (h : s.Canonical) {t : State} (ht : execSbx e s = .next t) : t.Canonical := by
  unfold execSbx at ht
  refine simt_canonical h (fun hc => ?_) ht
  extract_lets +onlyGivenNames t1
  exact Cx.writeRounded_canonical hc

theorem execScl_canonical {e : Enc} (h : s.Canonical) {t : State} (ht : execScl e s = .next t) : t.Canonical := by
  unfold execScl at ht
  refine simt_canonical h (fun hc => ?_) ht
  exact Cx.writeRounded_canonical hc

theorem execQuadXor_canonical {e : Enc} (h : s.Canonical) {t : State} (ht : execQuadXor e s = .next t) : t.Canonical :=
  simt_canonical h (fun hc => Machine.shuffle_canonical hc) ht

theorem execQuadBc_canonical {e : Enc} (h : s.Canonical) {t : State} (ht : execQuadBc e s = .next t) : t.Canonical :=
  simt_canonical h (fun hc => Machine.shuffle_canonical hc) ht

theorem execShflIdx_canonical {e : Enc} (h : s.Canonical) {t : State} (ht : execShflIdx e s = .next t) : t.Canonical :=
  simt_canonical h (fun hc => Machine.shuffle_canonical hc) ht

theorem execShflUp_canonical {e : Enc} (h : s.Canonical) {t : State} (ht : execShflUp e s = .next t) : t.Canonical :=
  simt_canonical h (fun hc => Machine.shuffle_canonical hc) ht

theorem execShflDn_canonical {e : Enc} (h : s.Canonical) {t : State} (ht : execShflDn e s = .next t) : t.Canonical :=
  simt_canonical h (fun hc => Machine.shuffle_canonical hc) ht

theorem execShflXor_canonical {e : Enc} (h : s.Canonical) {t : State} (ht : execShflXor e s = .next t) : t.Canonical :=
  simt_canonical h (fun hc => Machine.shuffle_canonical hc) ht

theorem execWred_canonical {e : Enc} (h : s.Canonical) {t : State} (ht : execWred e s = .next t) : t.Canonical := by
  unfold execWred at ht
  refine simt_canonical h (fun hc => ?_) ht
  extract_lets +onlyGivenNames t1 rs f leaves dr
  split
  extract_lets +onlyGivenNames r
  exact hc.updWave

theorem execWscan_canonical {e : Enc} (h : s.Canonical) {t : State} (ht : execWscan e s = .next t) : t.Canonical := by
  unfold execWscan at ht
  refine simt_canonical h (fun hc => ?_) ht
  extract_lets +onlyGivenNames t1 rs f
  exact hc.updWave

theorem execBallot_canonical {e : Enc} (h : s.Canonical) {t : State} (ht : execBallot e s = .next t) : t.Canonical := by
  unfold execBallot at ht
  refine simt_canonical h (fun hc => ?_) ht
  extract_lets +onlyGivenNames m
  exact hc.updWave

theorem execKop_canonical {e : Enc} (h : s.Canonical) {t : State} (ht : execKop e s = .next t) : t.Canonical := by
  unfold execKop at ht
  refine simt_canonical h (fun hc => ?_) ht
  extract_lets +onlyGivenNames a b r
  exact hc.updWave

theorem execKpopc_canonical {e : Enc} (h : s.Canonical) {t : State} (ht : execKpopc e s = .next t) : t.Canonical := by
  unfold execKpopc at ht
  refine simt_canonical h (fun hc => ?_) ht
  extract_lets +onlyGivenNames x
  exact hc.updWave

theorem execKffs_canonical {e : Enc} (h : s.Canonical) {t : State} (ht : execKffs e s = .next t) : t.Canonical := by
  unfold execKffs at ht
  refine simt_canonical h (fun hc => ?_) ht
  extract_lets +onlyGivenNames x
  exact hc.updWave

theorem execMatchOp_canonical {e : Enc} (h : s.Canonical) {t : State} (ht : execMatchOp e s = .next t) : t.Canonical := by
  unfold execMatchOp at ht
  refine simt_canonical h (fun hc => ?_) ht
  extract_lets +onlyGivenNames r
  exact hc.updWave

theorem execCtrg_canonical {e : Enc} (h : s.Canonical) {t : State} (ht : execCtrg e s = .next t) : t.Canonical := by
  unfold execCtrg at ht
  refine simt_canonical h (fun hc => ?_) ht
  exact Cx.writeLanes_canonical hc

theorem execIsect_canonical {e : Enc} (h : s.Canonical) {t : State} (ht : execIsect e s = .next t) : t.Canonical := by
  unfold execIsect at ht
  refine simt_canonical h (fun hc => ?_) ht
  extract_lets +onlyGivenNames ls a b
  split
  · exact hc
  extract_lets +onlyGivenNames m d adv
  exact hc.updWave

theorem exec_canonical {i : Instr} (h : s.Canonical) {t : State} (ht : exec i s = .next t) : t.Canonical := by
  cases i with
  | intAdd e => exact execIntAdd_canonical h ht
  | intSub e => exact execIntSub_canonical h ht
  | intMul e => exact execIntMul_canonical h ht
  | mulhi e => exact execMulhi_canonical h ht
  | mad e => exact execMad_canonical h ht
  | intMin e => exact execIntMin_canonical h ht
  | intMax e => exact execIntMax_canonical h ht
  | intAbs e => exact execIntAbs_canonical h ht
  | intNeg e => exact execIntNeg_canonical h ht
  | andOp e => exact execAndOp_canonical h ht
  | orOp e => exact execOrOp_canonical h ht
  | xorOp e => exact execXorOp_canonical h ht
  | notOp e => exact execNotOp_canonical h ht
  | shl e => exact execShl_canonical h ht
  | shr e => exact execShr_canonical h ht
  | rot e => exact execRot_canonical h ht
  | popc e => exact execPopc_canonical h ht
  | clz e => exact execClz_canonical h ht
  | ctz e => exact execCtz_canonical h ht
  | brev e => exact execBrev_canonical h ht
  | bfe e => exact execBfe_canonical h ht
  | bfi e => exact execBfi_canonical h ht
  | sel e => exact execSel_canonical h ht
  | mov e => exact execMov_canonical h ht
  | intCmp e => exact execIntCmp_canonical h ht
  | lea e => exact execLea_canonical h ht
  | perm e => exact execPerm_canonical h ht
  | shf e => exact execShf_canonical h ht
  | fpAdd e => exact execFpAdd_canonical h ht
  | fpSub e => exact execFpSub_canonical h ht
  | fpMul e => exact execFpMul_canonical h ht
  | fma e => exact execFma_canonical h ht
  | fpMin e => exact execFpMin_canonical h ht
  | fpMax e => exact execFpMax_canonical h ht
  | fpAbs e => exact execFpAbs_canonical h ht
  | fpNeg e => exact execFpNeg_canonical h ht
  | fpCmp e => exact execFpCmp_canonical h ht
  | classOp e => exact execClassOp_canonical h ht
  | rcp e => exact execRcp_canonical h ht
  | rsq e => exact execRsq_canonical h ht
  | sqe e => exact execSqe_canonical h ht
  | exp2 e => exact execExp2_canonical h ht
  | log2 e => exact execLog2_canonical h ht
  | rnd e => exact execRnd_canonical h ht
  | cvt e => exact execCvt_canonical h ht
  | cvt2 e => exact execCvt2_canonical h ht
  | pack e => exact execPack_canonical h ht
  | unpk e => exact execUnpk_canonical h ht
  | dcd e => exact execDcd_canonical h ht
  | enc e => exact execEnc_canonical h ht
  | sbx e => exact execSbx_canonical h ht
  | scl e => exact execScl_canonical h ht
  | quadXor e => exact execQuadXor_canonical h ht
  | quadBc e => exact execQuadBc_canonical h ht
  | shflIdx e => exact execShflIdx_canonical h ht
  | shflUp e => exact execShflUp_canonical h ht
  | shflDn e => exact execShflDn_canonical h ht
  | shflXor e => exact execShflXor_canonical h ht
  | wred e => exact execWred_canonical h ht
  | wscan e => exact execWscan_canonical h ht
  | ballot e => exact execBallot_canonical h ht
  | kop e => exact execKop_canonical h ht
  | kpopc e => exact execKpopc_canonical h ht
  | kffs e => exact execKffs_canonical h ht
  | matchOp e => exact execMatchOp_canonical h ht
  | br e => exact execBr_canonical h ht
  | split e => exact execSplit_canonical h ht
  | join e => exact execJoin_canonical h ht
  | loop e => exact execLoop_canonical h ht
  | call e => exact execCall_canonical h ht
  | ret e => exact execRet_canonical h ht
  | jmp e => exact execJmp_canonical h ht
  | nop e => exact execNop_canonical h ht
  | ldG e => exact execLdG_canonical h ht
  | stG e => exact execStG_canonical h ht
  | ldS e => exact execLdS_canonical h ht
  | stS e => exact execStS_canonical h ht
  | ldC e => exact execLdC_canonical h ht
  | tld e => exact execTld_canonical h ht
  | gatG e => exact execGatG_canonical h ht
  | sctG e => exact execSctG_canonical h ht
  | gatS e => exact execGatS_canonical h ht
  | sctS e => exact execSctS_canonical h ht
  | pf e => exact execPf_canonical h ht
  | commit e => exact execCommit_canonical h ht
  | commitX e => exact execCommitX_canonical h ht
  | abortOp e => exact execAbortOp_canonical h ht
  | acq e => exact execAcq_canonical h ht
  | barBlk e => exact execBarBlk_canonical h ht
  | barArv e => exact execBarArv_canonical h ht
  | barWt e => exact execBarWt_canonical h ht
  | ownGive e => exact execOwnGive_canonical h ht
  | ownTst e => exact execOwnTst_canonical h ht
  | trapOp e => exact execTrapOp_canonical h ht
  | rte e => exact execRte_canonical h ht
  | yieldOp e => exact execYieldOp_canonical h ht
  | modeOp e => exact execModeOp_canonical h ht
  | getm e => exact execGetm_canonical h ht
  | rdpr e => exact execRdpr_canonical h ht
  | wrpr e => exact execWrpr_canonical h ht
  | bkpt e => exact execBkpt_canonical h ht
  | sleep e => exact execSleep_canonical h ht
  | atomAdd e => exact execAtomAdd_canonical h ht
  | atomMin e => exact execAtomMin_canonical h ht
  | atomMax e => exact execAtomMax_canonical h ht
  | atomAnd e => exact execAtomAnd_canonical h ht
  | atomOr e => exact execAtomOr_canonical h ht
  | atomXor e => exact execAtomXor_canonical h ht
  | atomExch e => exact execAtomExch_canonical h ht
  | atomCas e => exact execAtomCas_canonical h ht
  | atomInc e => exact execAtomInc_canonical h ht
  | barClus e => exact execBarClus_canonical h ht
  | barGrid e => exact execBarGrid_canonical h ht
  | mbarInit e => exact execMbarInit_canonical h ht
  | mbarArv e => exact execMbarArv_canonical h ht
  | mbarWait e => exact execMbarWait_canonical h ht
  | blkGrow e => exact execBlkGrow_canonical h ht
  | blkLeave e => exact execBlkLeave_canonical h ht
  | role e => exact execRole_canonical h ht
  | ctrg e => exact execCtrg_canonical h ht
  | isect e => exact execIsect_canonical h ht
  | taskSpawn e => exact execTaskSpawn_canonical h ht
  | taskJoin e => exact execTaskJoin_canonical h ht
  | taskWait e => exact execTaskWait_canonical h ht
  | tset e => exact execTset_canonical h ht
  | tget e => exact execTget_canonical h ht
  | cpPush e => exact execCpPush_canonical h ht
  | cpClose e => exact execCpClose_canonical h ht
  | cpWait e => exact execCpWait_canonical h ht
  | ringSet e => exact execRingSet_canonical h ht
  | ringAdv e => exact execRingAdv_canonical h ht
  | ringRd e => exact execRingRd_canonical h ht
  | mxRow e => exact execMxRow_canonical h ht
  | mxLdb e => exact execMxLdb_canonical h ht
  | mxResume e => exact execMxResume_canonical h ht
  | mxProg e => exact execMxProg_canonical h ht
  | accRd e => exact execAccRd_canonical h ht
  | accWr e => exact execAccWr_canonical h ht
  | accClr e => exact execAccClr_canonical h ht
  | accOut e => exact execAccOut_canonical h ht
  | sdaRun e => exact execSdaRun_canonical h ht
  | sdaStop e => exact execSdaStop_canonical h ht
  | sdaStat e => exact execSdaStat_canonical h ht
  | sdaLd e => exact execSdaLd_canonical h ht
  | gkHf e => exact execGkHf_canonical h ht
  | gkTbl e => exact execGkTbl_canonical h ht
  | gkIns e => exact execGkIns_canonical h ht
  | gkDel e => exact execGkDel_canonical h ht
  | gkProbe e => exact execGkProbe_canonical h ht
  | gkRehash e => exact execGkRehash_canonical h ht
  | gkEval e => exact execGkEval_canonical h ht
  | gkSeq e => exact execGkSeq_canonical h ht
  | gkStat e => exact execGkStat_canonical h ht
  | topkIns e => exact execTopkIns_canonical h ht
  | topkMrg e => exact execTopkMrg_canonical h ht
  | topkRd e => exact execTopkRd_canonical h ht
  | topkClr e => exact execTopkClr_canonical h ht
  | topkSum e => exact execTopkSum_canonical h ht
  | asyncCauseTaken w => exact execAsyncCauseTaken_canonical h ht
  | loadDataReturn w line clean => exact execLoadDataReturn_canonical h ht
  | ackArrival w k => exact execAckArrival_canonical h ht
  | crossDiePublish w => exact execCrossDiePublish_canonical h ht
  | launchPacket part q => exact execLaunchPacket_canonical h ht
  | taskDecrement k => exact execTaskDecrement_canonical h ht
  | sliceExpiry grid => exact execSliceExpiry_canonical h ht
  | ageingExpiry grid => exact execAgeingExpiry_canonical h ht
  | preemptDeadlineExpiry blk => exact execPreemptDeadlineExpiry_canonical h ht
  | blockSave blk => exact execBlockSave_canonical h ht
  | blockRestore blk => exact execBlockRestore_canonical h ht
  | partitionSwap part => exact execPartitionSwap_canonical h ht
  | partitionSwapIn part => exact execPartitionSwapIn_canonical h ht
  | sleepExpiry w => exact execSleepExpiry_canonical h ht
  | watchdogExpiry w => exact execWatchdogExpiry_canonical h ht
  | profilerSample part core => exact execProfilerSample_canonical h ht
  | tadpoleCheckpoint part => exact execTadpoleCheckpoint_canonical h ht
  | tadCmdCkpt part v => exact execTadCmdCkpt_canonical h ht
  | tadpoleReplay part => exact execTadpoleReplay_canonical h ht
  | dbgHalt part v => exact execDbgHalt_canonical h ht
  | tlbInvalidate part v => exact execTlbInvalidate_canonical h ht
  | tlbInvComplete part => exact execTlbInvComplete_canonical h ht
  | qerrWrite part v => exact execQerrWrite_canonical h ht
  | cqerrWrite part v => exact execCqerrWrite_canonical h ht
  | copyPacket part cq => exact execCopyPacket_canonical h ht
  | copyFaultResume cmd => exact execCopyFaultResume_canonical h ht
  | copyPacketComplete cmd => exact execCopyPacketComplete_canonical h ht
  | mxKstep cmd => exact execMxKstep_canonical h ht
  | accOutPerform cmd => exact execAccOutPerform_canonical h ht
  | regionPlacement stack slot => exact execRegionPlacement_canonical h ht
  | peFiring stack slot pad pe => exact execPeFiring_canonical h ht
  | streamInputToken stack slot stream => exact execStreamInputToken_canonical h ht
  | streamOutputWrite stack slot stream => exact execStreamOutputWrite_canonical h ht
  | updateApply stack slot stream => exact execUpdateApply_canonical h ht
  | gatewayReject stack slot pf owner => exact execGatewayReject_canonical h ht
  | configComplete stack slot => exact execConfigComplete_canonical h ht
  | drainRequest stack slot => exact execDrainRequest_canonical h ht
  | regionQuiescence stack slot => exact execRegionQuiescence_canonical h ht
  | regionRestore stack slot => exact execRegionRestore_canonical h ht
  | compactionMove stack slot => exact execCompactionMove_canonical h ht
  | aclkWindow stack q up down total => exact execAclkWindow_canonical h ht
  | arrAssignWrite stack half v => exact execArrAssignWrite_canonical h ht
  | cfgcInvAddr stack v => exact execCfgcInvAddr_canonical h ht
  | cfgcInvAll stack v => exact execCfgcInvAll_canonical h ht
  | gkStepPerform stack table => exact execGkStepPerform_canonical h ht
  | gkReadPerform stack k => exact execGkReadPerform_canonical h ht
  | gkAssignWrite stack v => exact execGkAssignWrite_canonical h ht
  | hbmRead c part line errs => exact execHbmRead_canonical h ht
  | hbmWrite c part line full => exact execHbmWrite_canonical h ht
  | idlePrecharge b => exact execIdlePrecharge_canonical h ht
  | refreshManagement b => exact execRefreshManagement_canonical h ht
  | ctAdd v granted => exact execCtAdd_canonical h ht
  | ctRelease v => exact execCtRelease_canonical h ht
  | ctSetRetain v => exact execCtSetRetain_canonical h ht
  | ctClearRetain v => exact execCtClearRetain_canonical h ht
  | ctCmdDone => exact execCtCmdDone_canonical h ht
  | ckptStart v => exact execCkptStart_canonical h ht
  | ckptRestore v => exact execCkptRestore_canonical h ht
  | ckptComplete fabricError => exact execCkptComplete_canonical h ht
  | hostBar2Read part off len => exact execHostBar2Read_canonical h ht
  | hostBar2Write part off data => exact execHostBar2Write_canonical h ht
  | hostAtomicop part off op wide x y => exact execHostAtomicop_canonical h ht
  | sysTimeout w k => exact execSysTimeout_canonical h ht
  | sysErrorResponse w k => exact execSysErrorResponse_canonical h ht
  | partEnd part => exact execPartEnd_canonical h ht
  | peerRequest m o req => exact execPeerRequest_canonical h ht
  | uetWrite part region off data => exact execUetWrite_canonical h ht
  | ethFrame f => exact execEthFrame_canonical h ht
  | heldFrameLanding port prio => exact execHeldFrameLanding_canonical h ht
  | netWriteFlow v => exact execNetWriteFlow_canonical h ht
  | netClearFlow v => exact execNetClearFlow_canonical h ht
  | netWriteKey v => exact execNetWriteKey_canonical h ht
  | netClearKey v => exact execNetClearKey_canonical h ht
  | netCmdDone => exact execNetCmdDone_canonical h ht
  | spmLoadImage o => exact execSpmLoadImage_canonical h ht
  | spmAttest o => exact execSpmAttest_canonical h ht
  | spmServiceRequest o kind => exact execSpmServiceRequest_canonical h ht
  | spmSvnCommit o => exact execSpmSvnCommit_canonical h ht
  | spmWriteSecureReg o => exact execSpmWriteSecureReg_canonical h ht
  | spareCoreSwap core => exact execSpareCoreSwap_canonical h ht
  | coreFence core => exact execCoreFence_canonical h ht
  | rowSparing b row => exact execRowSparing_canonical h ht
  | pchRetirement stack pch => exact execPchRetirement_canonical h ht
  | hbmRecalibration stack pch => exact execHbmRecalibration_canonical h ht
  | padFrameRecalibration stack pf => exact execPadFrameRecalibration_canonical h ht
  | plyLaneRetraining port => exact execPlyLaneRetraining_canonical h ht
  | d2dLaneRetraining => exact execD2dLaneRetraining_canonical h ht
  | portLinkRecovery unit => exact execPortLinkRecovery_canonical h ht
  | firmwareActivation target => exact execFirmwareActivation_canonical h ht
  | cgWorldWrite die v => exact execCgWorldWrite_canonical h ht
  | secRangeWrite n v => exact execSecRangeWrite_canonical h ht
  | securityBoot => exact execSecurityBoot_canonical h ht
  | powerWindow watts => exact execPowerWindow_canonical h ht
  | thermalThrottle die temp => exact execThermalThrottle_canonical h ht
  | thermalTrip die temp => exact execThermalTrip_canonical (_die := die) h ht
  | d3hotRequest => exact execD3hotRequest_canonical h ht
  | registerWrite o r v => exact execRegisterWrite_canonical h ht
  | switchTokenMove stack slot mv => exact execSwitchTokenMove_canonical h ht
  | accOutTranslationResume cmd => exact execAccOutTranslationResume_canonical h ht
  | serviceActionComplete k => exact execServiceActionComplete_canonical h ht
  | uncorrectableError w src => exact execUncorrectableError_canonical h ht
  | powerLoss => exact execPowerLoss_canonical ht
  | periodicRefresh b => exact execPeriodicRefresh_canonical h ht

theorem State.Canonical.issuedNow {wid : Nat} (h : s.Canonical) : (s.issuedNow wid).Canonical :=
  h.updWave

theorem State.afterTurn_canonical {wid : Nat} {o : Host.Outcome State Fault Refusal} {t : State}
    (ho : ∀ u, o = .next u → u.Canonical) (ht : s.afterTurn wid o = .next t) : t.Canonical := by
  unfold State.afterTurn at ht
  split at ht
  next u =>
    injection ht with ht
    have hu := ho u rfl
    exact ht ▸ (State.Canonical.ite hu.issuedNow hu).frame
  · cases ht
  · cases ht

theorem State.Canonical.turnOf_used {wid : Nat} {t : State} (h : s.Canonical) (ht : s.turnOf wid = .used t) : t.Canonical := by
  unfold State.turnOf at ht
  split at ht
  · cases ht; exact h
  split at ht
  · cases ht; exact h
  split at ht
  · cases ht; exact h.takeAsync
  split at ht
  · cases ht; exact h.hardwareSave
  split at ht
  · cases ht; exact h.enterSave
  split at ht
  · cases ht
    split
    · exact h.performSwitch
    · exact h.stallWave
  split at ht
  · cases ht; exact h.stallWave
  split at ht
  · cases ht
    split
    · exact h.pendCause.stallWave
    · exact h.raise
  split at ht
  · cases ht; exact h
  split at ht
  · cases ht; exact h.stallWave
  · cases ht

theorem State.Canonical.turnOf_run {wid : Nat} {i : Instr} {t : State} (h : s.Canonical) (ht : s.turnOf wid = .run i t) : t.Canonical := by
  unfold State.turnOf at ht
  split at ht
  · cases ht
  split at ht
  · cases ht
  split at ht
  · cases ht
  split at ht
  · cases ht
  split at ht
  · cases ht
  split at ht
  · cases ht
  split at ht
  · cases ht
  split at ht
  · cases ht
  split at ht
  · cases ht
  split at ht
  · cases ht
  cases ht; exact h

theorem State.Canonical.retry {wid : Nat} (h : s.Canonical) : (s.retry wid).Canonical := by
  unfold State.retry
  split
  · exact h.turnOf_used ‹_›
  next i u hu =>
    have h1 : u.Canonical := h.turnOf_run hu
    split
    next v hv =>
      have h2 : v.Canonical := exec_canonical (s := { u with cur := some wid }) h1.frame hv
      exact .ite h2.frame h
    · exact h

theorem State.Canonical.schedulerClock {die : Nat} (h : s.Canonical) {t : State} {r : List Instr} (ht : s.schedulerClock die =
    (t, r)) : t.Canonical := by
  unfold State.schedulerClock at ht
  extract_lets +onlyGivenNames d spawn at ht
  split at ht
  · injection ht with ht _
    rw [← ht]
    exact h
  extract_lets +onlyGivenNames p q at ht
  cases ht; exact h.updDie

theorem Core.Canonical.sense {c : Core} {n : Nat} {now : Dword} (h : c.Canonical) : (c.sense n now).Canonical := by
  unfold Core.sense
  split <;> exact h

theorem State.Canonical.passTime (h : s.Canonical) : s.passTime.Canonical := by
  unfold State.passTime
  extract_lets +onlyGivenNames u
  have hu : u.Canonical := by
    refine State.Canonical.hbmClock (h.rebuild h.blocks fun c hc => ?_)
    obtain ⟨x, hx, rfl⟩ := List.mem_map.1 hc
    exact Core.Canonical.sense (h.cores _ (List.fst_mem_of_mem_zipIdx hx))
  clear_value u
  exact .ite hu.frame hu

theorem State.Canonical.passOver {ws : List Nat} (h : s.Canonical) : (s.passOver ws).Canonical :=
  h.foldl fun h => h.updWave

theorem State.Canonical.pickWaves {ws : List Nat} (h : s.Canonical) : (s.pickWaves ws).Canonical :=
  h.foldl fun h => h.updWave

theorem State.Canonical.coresClock (h : s.Canonical) {t : State} {r : List Turn} (ht : s.coresClock = (t, r)) : t.Canonical := by
  obtain rfl : _ = t := congrArg Prod.fst ht
  exact foldl_fst_canonical h fun h => h.updCore.pickWaves.passOver

theorem State.Canonical.heat (h : s.Canonical) : s.heat.Canonical :=
  h.throttle.throttle.trip

theorem State.Canonical.tick (h : s.Canonical) : s.tick.Canonical := by
  unfold State.tick
  split
  · exact h.frame
  extract_lets +onlyGivenNames s1 s2 s3 due
  have h1 : s1.Canonical := h.settleRanges.settleWorlds.settleJoins
  have h2 : s2.Canonical := .ite h1 h1.settleMasks
  have h3 : s3.Canonical := h2.offerAll.passTime.heat
  clear_value s3
  split
  next hc =>
  split
  next hd =>
  split
  next he =>
  exact (((h3.coresClock hc).schedulerClock hd).schedulerClock he).frame

theorem step_canonical (h : s.Canonical) {t : State} (ht : step s = .next t) : t.Canonical := by
  unfold step at ht
  split at ht
  · cases ht; exact h.tick
  · split at ht
    · exact exec_canonical (State.Canonical.frame h) ht
    · cases ht; exact h.frame
  · cases ht; exact .ite (State.Canonical.retry h.frame) h.frame
  · split at ht
    · cases ht; exact h.frame
    split at ht
    next hu =>
      cases ht; exact State.Canonical.turnOf_used (State.Canonical.frame h) hu
    next u hu =>
      have h1 : u.Canonical := State.Canonical.turnOf_run (State.Canonical.frame h) hu
      exact State.afterTurn_canonical (fun v hv => exec_canonical (State.Canonical.frame h1) hv) ht

end

end Sys2Proof.Machine

namespace Sys2Proof.Proofs

open Sys2Proof Sys2Proof.Machine

/-- Settles O6: each branch of a step is a tick, an event or a wave's turn, and each of these keeps the canonical form. -/
theorem stepKeepsMemoryCanonical : Obligations.StepKeepsMemoryCanonical := by
  unfold Obligations.StepKeepsMemoryCanonical
  intro s t hs ht
  exact (State.canonical_iff t).1 (step_canonical ((State.canonical_iff s).2 hs) ht)

/-- Settles O7: no memory lists anything, no block is resident, no checkpoint is taken and no tile is stationary. -/
theorem resetMemoryCanonical : Obligations.ResetMemoryCanonical := by
  unfold Obligations.ResetMemoryCanonical
  exact (State.canonical_iff _).1 State.reset_canonical

end Sys2Proof.Proofs

/-! SUPPORT. The instructions of R158 and R157: what a return makes of its wave and leaves alone, which privileged registers can be
read and written (R265): the lemmas of O32, O33 and O35. -/

namespace Sys2Proof.Machine

open Sys2Proof

/-! ## The return from a handler (R264) -/

/-- Sending a wave's withdrawn reads again adds to its claims, and changes the stacks alone besides. -/
theorem State.gkResend_eq (s : State) (w : Nat) :
    ∃ (u : State) (regs : List (BitVec 9)) (n : Nat), u.waves = s.waves ∧ u.mem = s.mem ∧ u.blocks = s.blocks
      ∧ s.gkResend w = u.updWave w (fun x => { x with claims := x.claims ++ regs, topkClaims := x.topkClaims + n }) := by
  unfold State.gkResend
  extract_lets rs
  split
  · exact ⟨s, [], 0, rfl, rfl, rfl, by simp [State.updWave]⟩
  · exact ⟨s.gkMark w false, _, _, rfl, rfl, rfl, rfl⟩

/-- An update of a wave that is there. -/
theorem State.wave?_updWave_self {s : State} {w : Nat} {x : Wave} (hx : s.wave? w = some x) {f : Wave → Wave}
    (hf : ∀ y, (f y).wid = y.wid := by exact fun _ => rfl) : (s.updWave w f).wave? w = some (f x) :=
  (State.wave?_updWave hx w hf).trans (congrArg some (if_pos rfl))

/-- An update of another wave. -/
theorem State.wave?_updWave_ne {s : State} {k w : Nat} (h : k ≠ w) {f : Wave → Wave} (hf : ∀ y, (f y).wid = y.wid := by exact fun _ => rfl) :
    (s.updWave w f).wave? k = s.wave? k := State.wave?_updWave_other h hf

/-- What the return makes of its wave: what entry set aside comes back. -/
theorem State.wave?_returnFromHandler {s : State} {w : Nat} {x : Wave} (hx : s.wave? w = some x) :
    ∃ y, (s.returnFromHandler w).wave? w = some y ∧ y.mode = x.emode ∧ y.exec = x.eexec ∧ y.stack = (x.estack.take x.edepth).reverse
      ∧ y.pc = x.epc ∧ y.vregs = x.vregs ∧ y.sregs = x.sregs ∧ y.kregs = x.kregs ∧ y.buf = x.buf ∧ y.hs = x.hs ∧ y.pend = x.pend := by
  obtain ⟨u, regs, n, hwaves, -, -, hre⟩ := s.gkResend_eq w
  have hu : u.wave? w = some x := by rw [State.wave?, hwaves]; exact hx
  unfold State.returnFromHandler
  simp only [hx]
  split
  · rw [hre]
    refine ⟨_, State.wave?_updWave_self (State.wave?_updWave_self hu), ?_⟩
    simp only [and_self]
  · refine ⟨_, State.wave?_updWave_self hx, ?_⟩
    simp only [and_self]

/-- The return leaves every other wave, the memories and the blocks as they are. -/
theorem State.returnFromHandler_frame (s : State) (w : Nat) : (s.returnFromHandler w).mem = s.mem ∧ (s.returnFromHandler w).blocks = s.blocks
    ∧ ∀ k, k ≠ w → (s.returnFromHandler w).wave? k = s.wave? k := by
  obtain ⟨u, regs, n, hwaves, hmem, hblocks, hre⟩ := s.gkResend_eq w
  have hu (k : Nat) : u.wave? k = s.wave? k := by rw [State.wave?, hwaves]; rfl
  unfold State.returnFromHandler
  split
  · split
    · rw [hre]
      exact ⟨hmem, hblocks, fun k hk =>
        (State.wave?_updWave_ne hk).trans ((State.wave?_updWave_ne hk).trans (hu k))⟩
    · exact ⟨rfl, rfl, fun k hk => State.wave?_updWave_ne hk⟩
  · exact ⟨rfl, rfl, fun k hk => State.wave?_updWave_ne hk⟩

/-! ## Operands of 32 bits (R97) -/

/-- No inline constant tells n32 from b32. -/
theorem Cx.src_n32 (c : Cx) (x : BitVec 10) (l : Nat) : c.src x .n32 l = c.src x .b32 l := by
  unfold Cx.src
  cases Sel.of x <;> rfl

/-! ## The mask of `mode` (R157) -/

theorem andNot3_ne_zero_iff (m : BitVec 32) : m &&& ~~~3#32 ≠ 0#32 ↔ ∃ i, 2 ≤ i ∧ m.getLsbD i = true := by
  have hbit (i : Nat) : (m &&& ~~~3#32).getLsbD i = (m.getLsbD i && decide (2 ≤ i)) := by
    by_cases hi : i < 32
    · have : (~~~3#32).getLsbD i = decide (2 ≤ i) := by interval_cases i <;> rfl
      rw [BitVec.getLsbD_and, this]
    · simp [BitVec.getLsbD_of_ge _ _ (Nat.le_of_not_lt hi)]
  constructor
  · intro h
    by_contra hno
    refine h (BitVec.eq_of_getLsbD_eq fun i _ => ?_)
    rw [hbit, BitVec.getLsbD_zero]
    by_cases h2 : 2 ≤ i
    · rw [Bool.eq_false_iff.2 fun hm => hno ⟨i, h2, hm⟩, Bool.false_and]
    · rw [decide_eq_false h2, Bool.and_false]
  · rintro ⟨i, h2, hm⟩ h0
    have := hbit i
    rw [h0, hm, decide_eq_true h2, BitVec.getLsbD_zero] at this
    exact Bool.noConfusion this

/-! ## Which privileged registers can be read and written (R265) -/

/-- The ids that rdpr reads. -/
def privReadable (n : Nat) : Prop := n ≤ 24 ∨ (26 ≤ n ∧ n ≤ 28) ∨ (30 ≤ n ∧ n ≤ 47) ∨ (0x1000 ≤ n ∧ n < 0x1400 ∧ n % 16 < 10)
/-- The ids that wrpr writes at any time in the handler. -/
def privFree (n : Nat) : Prop := (16 ≤ n ∧ n ≤ 18) ∨ (20 ≤ n ∧ n ≤ 23) ∨ n = 25
/-- The ids that wrpr writes in a restore alone. -/
def privRestoring (n : Nat) : Prop := n ≤ 15 ∨ n = 19 ∨ (26 ≤ n ∧ n ≤ 28) ∨ n = 31 ∨ (32 ≤ n ∧ n ≤ 47) ∨ (0x1000 ≤ n ∧ n < 0x1400 ∧ n % 16 < 10)

theorem isSome_ite {α : Type} {p : Prop} [Decidable p] {x : α} {y : Option α} (h : ¬p → y.isSome = true) :
    (if p then some x else y).isSome = true := by
  split
  · rfl
  · exact h ‹_›

theorem State.readPriv_isSome {s : State} {w : Wave} {n : Nat} (h : privReadable n) : (s.readPriv w n).isSome = true := by
  unfold State.readPriv
  unfold privReadable at h
  iterate 14 refine isSome_ite fun _ => ?_
  omega

theorem State.readPriv_eq_none {s : State} {w : Wave} {n : Nat} (h : ¬privReadable n) : s.readPriv w n = none := by
  unfold State.readPriv
  unfold privReadable at h
  iterate 14 rw [if_neg (by omega)]

theorem Wave.writePriv_eq_none {w : Wave} {n : Nat} {x : Dword} (h : ¬privFree n) : w.writePriv n x = none := by
  unfold Wave.writePriv
  unfold privFree at h
  iterate 5 rw [if_neg (by omega)]

theorem Wave.writeRestore_eq_none {w : Wave} {n : Nat} {x : Dword} (h : ¬privRestoring n) : w.writeRestore n x = none := by
  unfold Wave.writeRestore
  unfold privRestoring at h
  iterate 8 rw [if_neg (by omega)]

theorem Wave.writePriv_hs (w : Wave) {k : Nat} (h : k < 4) (x : Dword) : w.writePriv (20 + k) x = some { w with hs := w.hs.set k x } := by
  unfold Wave.writePriv
  rw [if_neg (by omega), if_neg (by omega), if_neg (by omega), if_pos (by omega), Nat.add_sub_cancel_left]

theorem Wave.writeRestore_trec (w : Wave) {k : Nat} (h : k < 16) (x : Dword) :
    w.writeRestore k x = some { w with trec := w.trec.set k (x &&& trecMask k) } := if_pos h

theorem trecMask_eq : ∀ k < 16, trecMask k = if k = 0 then 0x0000FFFF003FF83F#64 else if k = 1 then 0x1FFFFFFFFFFFFFF#64
    else if k < 11 then BitVec.allOnes 64 else 0#64 := by
  decide

/-! ## What rdpr and wrpr answer -/

section
variable {c : Cx}

theorem privOutside (h : ¬c.w.mode.getLsbD 8 = true) (r : Res) : (if !c.w.hnd then .trap (c.all 5#6) else r) = .trap (c.all 5#6) :=
  if_pos (by rw [Wave.hnd, Bool.eq_false_iff.2 h]; rfl)

theorem privInside (h : c.w.mode.getLsbD 8 = true) (r : Res) : (if !c.w.hnd then .trap (c.all 5#6) else r) = r :=
  if_neg (by rw [Wave.hnd, h]; decide)

/-- What wrpr does with an id and a value, inside the handler. -/
def Cx.writesPriv (c : Cx) (id : Nat) (x : Dword) : Res :=
  match (match c.w.writePriv id x with
    | some w => some w
    | none => if c.w.phase = .restore then c.w.writeRestore id x else none) with
  | none => .trap (c.all 2#6)
  | some w => .done (c.s.updWave c.wid (fun _ => w))

theorem wrpr_free {id : Nat} {x : Dword} {w : Wave} (h : c.w.writePriv id x = some w) :
    c.writesPriv id x = .done (c.s.updWave c.wid (fun _ => w)) := by
  rw [Cx.writesPriv, h]

theorem wrpr_restoring {id : Nat} {x : Dword} {w : Wave} (hf : ¬privFree id) (hp : c.w.phase = .restore)
    (h : c.w.writeRestore id x = some w) : c.writesPriv id x = .done (c.s.updWave c.wid (fun _ => w)) := by
  rw [Cx.writesPriv, Wave.writePriv_eq_none hf]
  simp only [if_pos hp, h]

theorem wrpr_refused {id : Nat} {x : Dword} (hf : ¬privFree id) (hr : ¬(privRestoring id ∧ c.w.phase = .restore)) :
    c.writesPriv id x = .trap (c.all 2#6) := by
  rw [Cx.writesPriv, Wave.writePriv_eq_none hf]
  by_cases hp : c.w.phase = .restore
  · simp only [if_pos hp, Wave.writeRestore_eq_none fun h => hr ⟨h, hp⟩]
  · simp only [if_neg hp]

end

theorem State.readPriv_hs {s : State} {w : Wave} {k : Nat} (h : k < 4) : s.readPriv w (20 + k) = some (w.hs.getD k 0#64) := by
  unfold State.readPriv
  iterate 5 rw [if_neg (by omega)]
  rw [if_pos (by omega), Nat.add_sub_cancel_left]

theorem State.readPriv_estack {s : State} {w : Wave} {k : Nat} (h : k < 8) :
    s.readPriv w (32 + 2 * k) = some (w.estack.getD k (0#64, 0#32)).1
      ∧ s.readPriv w (33 + 2 * k) = some ((w.estack.getD k (0#64, 0#32)).2.setWidth 64) := by
  unfold State.readPriv
  constructor
  · iterate 12 rw [if_neg (by omega)]
    rw [if_pos (by omega), show (32 + 2 * k - 32) / 2 = k by omega]
    exact congrArg some (if_pos (by omega))
  · iterate 12 rw [if_neg (by omega)]
    rw [if_pos (by omega), show (33 + 2 * k - 32) / 2 = k by omega]
    exact congrArg some (if_neg (by omega))

end Sys2Proof.Machine

namespace Sys2Proof.Proofs

open Sys2Proof Sys2Proof.Machine

/-- Settles O32: each clause is a branch of its instruction. -/
theorem softwareTrapsYieldAndSleep : Obligations.SoftwareTrapsYieldAndSleep := by
  unfold Obligations.SoftwareTrapsYieldAndSleep
  intro e arg debug saving
  refine ⟨ends_of rfl (exec_trapOp e) fun _ _ _ => rfl, ends_of rfl (exec_bkpt e) ?tag, ends_of rfl (exec_bkpt e) ?halts,
    ends_of rfl (exec_yieldOp e) ?idle, ends_of rfl (exec_yieldOp e) ?saves, ends_of rfl (exec_yieldOp e) ?hardware,
    ends_of rfl (exec_yieldOp e) ?stops, ends_of rfl (exec_yieldOp e) ?acks, ends_of rfl (exec_sleep e) ?wakes, ends_of rfl (exec_sleep e) ?starts,
    ends_of rfl (exec_sleep e) ?stays⟩
  case tag =>
    intro c _ h
    refine if_neg fun hd => h ?_
    simpa [debug, Wave.tmask] using hd
  case halts =>
    rintro c - ⟨hen, htm⟩
    have htm : c.w.tmask = false := htm
    exact if_pos (by rw [hen, htm]; rfl)
  case idle =>
    rintro c - ⟨hs, hp⟩
    have hs : ¬(c.w.hnd && decide (c.w.phase = .save)) = true := by simpa [saving, Wave.hnd] using hs
    rw [if_neg hs]
    simp [hp]
  case saves =>
    rintro c rfl ⟨hp, hh⟩
    have hh : c.w.hnd = false := hh
    simp [hh, hp]
  case hardware =>
    rintro c rfl ⟨hs, hp, hh⟩
    have hs : c.w.phase ≠ .save := fun h => hs ⟨hh, h⟩
    have hh : c.w.hnd = true := hh
    simp [hh, hp, hs]
  case stops =>
    rintro c - ⟨⟨hh, hs⟩, ha⟩
    have hh : c.w.hnd = true := hh
    simp [hh, hs, Cx.endSave, ha]
  case acks =>
    rintro c - ⟨⟨hh, hs⟩, ha⟩
    have hh : c.w.hnd = true := hh
    simp [hh, hs, Cx.endSave, ha]
  case wakes =>
    rintro c - (h | h | ⟨h, hn⟩ | ⟨h, hn⟩)
    · simp [h]
    · simp [h]
    · have hn : c.n32 e.a = 0 := hn
      simp [h, hn]
    · simp [h, hn]
  case starts =>
    rintro c - ⟨hp, h, hn⟩
    have hn : c.n32 e.a ≠ 0 := hn
    simp only [hp, h, hn]
    rfl
  case stays =>
    rintro c - ⟨hp, h, hn⟩
    simp [hp, h, hn.not_ge]

/-- Settles O33: a branch of rte each, the last one the return that undoes the entry. -/
theorem returnFromException : Obligations.ReturnFromException := by
  unfold Obligations.ReturnFromException
  intro e s c hi hw
  have hexec (r : Res) (hr : (if !c.w.hnd then .trap (c.all 5#6) else if c.w.acks ≠ 0 then .wait c.s .commit 8 0 0
      else .gone (c.s.returnFromHandler c.wid)) = r) : exec (.rte e) s = .next (r.finish c) :=
    hr ▸ (exec_rte e s).trans (simt_issued hi _)
  refine ⟨fun hh => ?_, fun hh ha => ?_, fun hh ha => ?_⟩
  · have hh : c.w.hnd = false := hh
    exact hexec (.trap _) (by rw [hh]; rfl)
  · have hh : c.w.hnd = true := hh
    exact hexec (.wait _ _ _ _ _) (by rw [hh]; exact if_pos ha)
  · have hh : c.w.hnd = true := hh
    obtain ⟨y, hy, hmode, hexec', hstack, hpc, hv, hs, hk, hbuf, hhs, hpend⟩ := State.wave?_returnFromHandler hw
    obtain ⟨hmem, hblocks, hother⟩ := c.s.returnFromHandler_frame c.wid
    exact ⟨_, y, hexec (.gone _) (by rw [hh]; exact if_neg (not_not.2 ha)), hy, hmode, hexec', hstack, hpc, hv, hs, hk, hbuf, hhs, hpend,
      hmem, hblocks, hother⟩

/-- Settles O35: mode by its mask, and each register by its id's row of R265's table. -/
theorem modeAndPrivilegedRegisters : Obligations.ModeAndPrivilegedRegisters := by
  unfold Obligations.ModeAndPrivilegedRegisters
  constructor
  · intro e mask value
    have hmask (c : Cx) : word (c.n32 e.a) = mask c := congrArg word (c.src_n32 e.a c.lane0)
    have hvalue (c : Cx) : word (c.n32 e.b) = value c := congrArg word (c.src_n32 e.b c.lane0)
    refine ⟨ends_of rfl (exec_modeOp e) fun c _ h => ?_, ends_of rfl (exec_modeOp e) fun c _ h => ?_, performs_of rfl (exec_getm e) fun _ _ => rfl⟩
    · simp only [hmask]
      exact if_pos ((andNot3_ne_zero_iff _).2 h)
    · simp only [hmask, hvalue]
      refine if_neg fun hbad => ?_
      obtain ⟨i, hi, hset⟩ := (andNot3_ne_zero_iff _).1 hbad
      exact Bool.noConfusion (hset.symm.trans (h i hi))
  · intro e id x hnd trap put readable free restoring
    refine ⟨ends_of rfl (exec_rdpr e) fun c _ h => privOutside h _, ends_of rfl (exec_wrpr e) fun c _ h => privOutside h _,
      ends_of rfl (exec_rdpr e) ?unreadable, ends_of rfl (exec_wrpr e) ?unwritable, fun v => ends_of rfl (exec_rdpr e) ?reads,
      ends_of rfl (exec_wrpr e) ?epc, ends_of rfl (exec_wrpr e) ?emode, ends_of rfl (exec_wrpr e) ?eexec, ends_of rfl (exec_wrpr e) ?done,
      fun k hk => ends_of rfl (exec_wrpr e) ?hs, fun k hk => ends_of rfl (exec_wrpr e) ?trec, fun s w => ?values⟩
    case unreadable =>
      rintro c - ⟨hh, hn⟩
      rw [privInside hh, show c.s.readPriv c.w (c.n32 e.a) = none from State.readPriv_eq_none hn]
      rfl
    case unwritable =>
      rintro c - ⟨hh, hf, hr⟩
      exact (privInside hh _).trans (wrpr_refused hf hr)
    case reads =>
      rintro c - ⟨hh, hv⟩
      rw [privInside hh, show c.s.readPriv c.w (c.n32 e.a) = some v from hv]
    case epc =>
      rintro c - ⟨hh, hid⟩
      exact (privInside hh _).trans (wrpr_free (by rw [show c.n32 e.a = 16 from hid]; rfl))
    case emode =>
      rintro c - ⟨hh, hid⟩
      exact (privInside hh _).trans (wrpr_free (by rw [show c.n32 e.a = 17 from hid]; rfl))
    case eexec =>
      rintro c - ⟨hh, hid⟩
      exact (privInside hh _).trans (wrpr_free (by rw [show c.n32 e.a = 18 from hid]; rfl))
    case done =>
      rintro c - ⟨hh, hid⟩
      exact (privInside hh _).trans (wrpr_free (by rw [show c.n32 e.a = 25 from hid]; rfl))
    case hs =>
      rintro c - ⟨hh, hid⟩
      exact (privInside hh _).trans (wrpr_free (by rw [show c.n32 e.a = 20 + k from hid]; exact c.w.writePriv_hs hk _))
    case trec =>
      rintro c - ⟨hh, hid, hph⟩
      have hid : c.n32 e.a = k := hid
      have hfree : ¬privFree (c.n32 e.a) := by
        unfold privFree
        omega
      refine (privInside hh _).trans ((wrpr_restoring hfree hph (by rw [hid]; exact c.w.writeRestore_trec hk _)).trans ?_)
      rw [trecMask_eq k hk]
      rfl
    case values =>
      refine ⟨fun n => State.readPriv_isSome, fun n => State.readPriv_eq_none, rfl, rfl, rfl, rfl, rfl, fun k hk => if_pos hk,
        fun k hk => State.readPriv_hs hk, fun k hk => State.readPriv_estack hk⟩

end Sys2Proof.Proofs

/-! SUPPORT. Accesses to memory (R137, R138, R141, R142): the trap of some faulting pieces, what a load that issues makes of its machine and
asks for, the lines of an access, and translation: the lemmas of O52, O25 and O26. -/

namespace Sys2Proof.Machine

open Sys2Proof

/-! ## Faults of an access (R137, R138) -/

/-- The smallest code of some, from a first one. -/
def lowCode (xs : List (Piece × BitVec 6)) (d : BitVec 6) : BitVec 6 := xs.foldl (fun m x => if x.2.toNat < m.toNat then x.2 else m) d

theorem lowCode_cons (x : Piece × BitVec 6) (xs : List (Piece × BitVec 6)) (d : BitVec 6) :
    lowCode (x :: xs) d = lowCode xs (if x.2.toNat < d.toNat then x.2 else d) := rfl

theorem lowCode_le (xs : List (Piece × BitVec 6)) (d : BitVec 6) :
    (lowCode xs d).toNat ≤ d.toNat ∧ ∀ x ∈ xs, (lowCode xs d).toNat ≤ x.2.toNat := by
  induction xs generalizing d with
  | nil => exact ⟨le_refl _, by simp⟩
  | cons x xs ih =>
    obtain ⟨hd, hxs⟩ := ih (if x.2.toNat < d.toNat then x.2 else d)
    rw [lowCode_cons]
    have hmin : (if x.2.toNat < d.toNat then x.2 else d).toNat ≤ d.toNat ∧ (if x.2.toNat < d.toNat then x.2 else d).toNat ≤ x.2.toNat := by
      split <;> omega
    refine ⟨hd.trans hmin.1, fun y hy => ?_⟩
    rcases List.mem_cons.1 hy with rfl | hy
    · exact hd.trans hmin.2
    · exact hxs y hy

theorem lowCode_mem (xs : List (Piece × BitVec 6)) (d : BitVec 6) : lowCode xs d = d ∨ ∃ x ∈ xs, x.2 = lowCode xs d := by
  induction xs generalizing d with
  | nil => exact .inl rfl
  | cons x xs ih =>
    rw [lowCode_cons]
    rcases ih (if x.2.toNat < d.toNat then x.2 else d) with h | ⟨y, hy, h⟩
    · rw [h]
      split
      · exact .inr ⟨x, List.mem_cons_self, rfl⟩
      · exact .inl rfl
    · exact .inr ⟨y, List.mem_cons_of_mem _ hy, h⟩

section
variable {c : Cx}

/-- Some faulting pieces give a trap with the smallest of their codes. -/
theorem Cx.faultOf_spec {bad : List (Piece × BitVec 6)} (h : bad ≠ []) :
    ∃ t, c.faultOf bad = some t ∧ (∃ x ∈ bad, x.2 = t.code) ∧ ∀ x ∈ bad, t.code.toNat ≤ x.2.toNat := by
  obtain ⟨b, bs, rfl⟩ := List.exists_cons_of_ne_nil h
  obtain ⟨-, hle⟩ := lowCode_le (b :: bs) b.2
  have hmem : ∃ x ∈ b :: bs, x.2 = lowCode (b :: bs) b.2 := by
    rcases lowCode_mem (b :: bs) b.2 with heq | hx
    · exact ⟨b, List.mem_cons_self, heq.symm⟩
    · exact hx
  cases hv : c.vec with
  | true => exact ⟨_, by simp only [Cx.faultOf, hv, if_true]; rfl, hmem, hle⟩
  | false => exact ⟨_, by simp only [Cx.faultOf, hv, Bool.false_eq_true, if_false]; rfl, hmem, hle⟩

/-- In scalar form the trap is the first piece with the smallest code. -/
theorem Cx.faultOf_scalar (hv : c.vec = false) {bad : List (Piece × BitVec 6)} {x : Piece × BitVec 6} (hmin : ∀ y ∈ bad, x.2.toNat ≤ y.2.toNat)
    (hfirst : bad.find? (fun y => y.2 = x.2) = some x) : c.faultOf bad = some { c.all x.2 with addr := dword x.1.addr } := by
  have hx : x ∈ bad := List.mem_of_find?_eq_some hfirst
  obtain ⟨b, bs, rfl⟩ := List.exists_cons_of_ne_nil (List.ne_nil_of_mem hx)
  have hlow : lowCode (b :: bs) b.2 = x.2 := by
    obtain ⟨-, hle⟩ := lowCode_le (b :: bs) b.2
    refine BitVec.eq_of_toNat_eq (le_antisymm (hle x hx) ?_)
    rcases lowCode_mem (b :: bs) b.2 with heq | ⟨y, hy, heq⟩
    · rw [heq]
      exact hmin b List.mem_cons_self
    · rw [← heq]
      exact hmin y hy
  simp only [Cx.faultOf, hv, Bool.false_eq_true, if_false]
  change some { c.all (lowCode (b :: bs) b.2) with
    addr := match (b :: bs).find? (fun y : Piece × BitVec 6 => y.2 = lowCode (b :: bs) b.2) with | some x => dword x.1.addr | none => 0#64 } = _
  rw [hlow, hfirst]

theorem Cx.mem_badPieces {scr : Bool} {acc : Access} {ps : List Piece} {x : Piece × BitVec 6} :
    x ∈ c.badPieces scr acc ps ↔ x.1 ∈ ps ∧ c.cause scr acc x.1 = some x.2 := by
  obtain ⟨q, k⟩ := x
  simp only [Cx.badPieces, List.mem_filterMap, Option.map_eq_some_iff, Prod.mk.injEq]
  constructor
  · rintro ⟨a, ha, b, hb, rfl, rfl⟩
    exact ⟨ha, hb⟩
  · rintro ⟨hq, hk⟩
    exact ⟨q, hq, k, hk, rfl, rfl⟩

theorem Cx.badPieces_eq_nil {scr : Bool} {acc : Access} {ps : List Piece} (h : ∀ q ∈ ps, c.cause scr acc q = none) :
    c.badPieces scr acc ps = [] :=
  List.eq_nil_iff_forall_not_mem.2 fun x hx => by
    obtain ⟨hq, hk⟩ := Cx.mem_badPieces.1 hx
    exact nomatch (h _ hq).symm.trans hk

/-! ## What a load asks for (R141, R145) -/

/-- A translation cached changes the caches alone. -/
theorem State.fillTlb_eq (s : State) (core p : Nat) (vas : List Nat) : ∃ tlb, s.fillTlb core p vas = { s with mem := { s.mem with tlb := tlb } } := by
  refine List.foldlRecOn (motive := fun t : State => ∃ tlb, t = { s with mem := { s.mem with tlb := tlb } }) vas _ ⟨s.mem.tlb, rfl⟩ ?_
  rintro _ ⟨tlb, rfl⟩ va -
  simp only
  split
  · exact ⟨tlb, rfl⟩
  · exact ⟨_, rfl⟩

/-- Two updates of a wave are one. -/
theorem State.updWave_updWave (s : State) (w : Nat) (f g : Wave → Wave) (hf : ∀ y, (f y).wid = y.wid := by exact fun _ => rfl) :
    (s.updWave w f).updWave w g = s.updWave w (fun y => g (f y)) := by
  simp only [State.updWave, List.map_map]
  congr 1
  refine List.map_congr_left fun y _ => ?_
  by_cases h : y.wid = w
  · simp [h, hf]
  · simp [h]

theorem OutLoad.writeBack_wid (o : OutLoad) (w : Wave) : (o.writeBack w).wid = w.wid := by
  unfold OutLoad.writeBack
  split
  · rfl
  · split
    · exact List.foldlRecOn (motive := fun x : Wave => x.wid = w.wid) _ _ rfl fun x hx l _ => (x.wid_write ..).trans hx
    · exact w.wid_write ..

/-- The pieces of a load whose lanes do not fault. -/
def keptPieces (c : Cx) (scr : Bool) (known : List (Piece × BitVec 6)) (ps : List Piece) : List Piece :=
  ps.filter (fun q => !(known ++ c.badPieces scr .load ps).any (fun x => x.1.lane = q.lane))

/-- The bytes that a load has at its issue: those given, and those of its wave's own buffer. -/
def gotAtIssue (c : Cx) (scr direct : Bool) (ps : List Piece) (pre : List (Nat × Byte)) : List (Nat × Byte) :=
  pre ++ if direct then [] else (bytesOf ps).filterMap (fun a => (bufByte c.w.buf scr a).map (fun b => (a, b)))

/-- The lines that a load reads: those with a byte that it has not at its issue. -/
def askedLines (c : Cx) (scr direct : Bool) (ps : List Piece) (pre : List (Nat × Byte)) : List Nat :=
  (linesOf ps).filter (fun l => ((bytesOf ps).filter (fun a => !(gotAtIssue c scr direct ps pre).any (fun g => g.1 = a))).any (fun a => a / 64 = l))

/-- How a load names a line: in its tile, or where it translates. -/
def lineRef (c : Cx) (scr : Bool) (l : Nat) : LineRef :=
  if scr then { scr := true, line := l, space := .hbm, pline := l, ss := false }
  else match c.s.translate c.w.core c.part .load (64 * l) with
    | .ok pl => { scr := false, line := l, space := pl.space, pline := pl.pa / 64, ss := pl.ss }
    | .error _ => { scr := false, line := l, space := .hbm, pline := l, ss := false }

/-- The load that is outstanding once `o` has issued. -/
def issuedLoad (c : Cx) (scr : Bool) (known : List (Piece × BitVec 6)) (ps : List Piece) (pre : List (Nat × Byte)) (o : OutLoad) : OutLoad :=
  let kept := keptPieces c scr known ps
  { o with
    got := gotAtIssue c scr o.direct kept pre
    remain := (askedLines c scr o.direct kept pre).map (lineRef c scr)
    zeros := laneMask (fun l => o.zeros.getLsbD l || (known ++ c.badPieces scr .load ps).any (fun x => x.1.lane = l))
    addr := match kept with | q :: _ => dword q.addr | [] => 0#64 }

/-- What the wave of an issued load becomes: it waits for the load's lines, or had every byte at hand as its only load. -/
def takesLoad (c : Cx) (o : OutLoad) (w : Wave) : Wave :=
  if o.remain.isEmpty && c.w.loads.isEmpty then o.writeBack { w with loads := [] } else { w with loads := w.loads ++ [o] }

theorem takesLoad_wid (o : OutLoad) (w : Wave) : (takesLoad c o w).wid = w.wid := by
  unfold takesLoad
  split
  · exact o.writeBack_wid _
  · rfl

/-- The state in which a load that issues takes its place: translations cached, clean copies older than an acquire out of the way. -/
def issuesFrom (c : Cx) (scr : Bool) (lines : List Nat) (lvl : Nat) : State :=
  (if scr then c.s else c.s.fillTlb c.w.core c.part (lines.map (fun l => 64 * l))).acquire c.wid lvl

/-- It is the machine with translations cached, the time and the wave's acquires apart. -/
theorem issuesFrom_frame (c : Cx) (scr : Bool) (lines : List Nat) (lvl : Nat) :
    ∃ tlb now f, issuesFrom c scr lines lvl = ({ c.s with now := now, mem := { c.s.mem with tlb := tlb } } : State).updWave c.wid f
      ∧ ∀ y, ∃ dev sys, f y = { y with acqDev := dev, acqSys := sys } := by
  obtain ⟨tlb, hs⟩ : ∃ tlb, (if scr then c.s else c.s.fillTlb c.w.core c.part (lines.map (fun l => 64 * l)))
      = { c.s with mem := { c.s.mem with tlb := tlb } } := by
    split
    · exact ⟨c.s.mem.tlb, rfl⟩
    · exact c.s.fillTlb_eq _ _ _
  rw [issuesFrom, hs]
  unfold State.acquire
  split
  · exact ⟨tlb, c.s.now, id, by simp [State.updWave], fun y => ⟨_, _, rfl⟩⟩
  · exact ⟨tlb, _, _, rfl, fun y => ⟨_, _, rfl⟩⟩

/-- A load that waits for no line returns. -/
theorem State.returnLine_empty {s : State} {w : Nat} {x : Wave} {o : OutLoad} (hw : s.wave? w = some x) (hx : x.loads = [o]) (ho : o.remain = [])
    (hpoison : o.poison = false) :
    s.returnLine w 0 false = s.updWave w (fun y => o.writeBack { y with loads := [] }) := by
  have hfin : (s.updWave w (fun y => { y with loads := [] })).wave? w = some { x with loads := [] } := State.wave?_updWave_self hw
  simp only [State.returnLine, hw, hx, ho, List.getElem?_nil, List.isEmpty_nil, if_true, State.finishLoad, hfin, hpoison, Bool.false_eq_true, if_false]
  exact State.updWave_updWave s w _ _

/-- A load of which no lane but helper lanes faults, and that no engine's tile holds, issues. -/
theorem issueLoad_issues {scr : Bool} {known : List (Piece × BitVec 6)} {ps : List Piece} {pre : List (Nat × Byte)} {o : OutLoad} {lvl : Nat}
    (hw : c.s.wave? c.wid = some c.w) (hpoison : o.poison = false)
    (hfault : ∀ x ∈ known ++ c.badPieces scr .load ps, c.isHelper x.1.lane = true)
    (hheld : (scr && c.tileHeld (keptPieces c scr known ps)) = false) :
    c.issueLoad scr known ps pre o lvl = .done ((issuesFrom c scr (askedLines c scr o.direct (keptPieces c scr known ps) pre) lvl).updWave c.wid
      (takesLoad c (issuedLoad c scr known ps pre o))) := by
  have hnone : (known ++ c.badPieces scr .load ps).filter (fun x => !c.isHelper x.1.lane) = [] :=
    List.filter_eq_nil_iff.2 fun x hx => by simp [hfault x hx]
  have heq : c.issueLoad scr known ps pre o lvl =
      .done (if (issuedLoad c scr known ps pre o).remain.isEmpty && c.w.loads.isEmpty then
        ((issuesFrom c scr (askedLines c scr o.direct (keptPieces c scr known ps) pre) lvl).updWave c.wid
          (fun w => { w with loads := w.loads ++ [issuedLoad c scr known ps pre o] })).returnLine c.wid 0 false
      else (issuesFrom c scr (askedLines c scr o.direct (keptPieces c scr known ps) pre) lvl).updWave c.wid
          (fun w => { w with loads := w.loads ++ [issuedLoad c scr known ps pre o] })) := by
    unfold Cx.issueLoad
    simp only [hnone, Cx.faultOf]
    exact if_neg (Bool.eq_false_iff.1 hheld)
  rw [heq]
  unfold takesLoad
  split
  next hall =>
    obtain ⟨tlb, now, f, hfrom, hf⟩ := issuesFrom_frame c scr (askedLines c scr o.direct (keptPieces c scr known ps) pre) lvl
    have hwid (y : Wave) : (f y).wid = y.wid := by
      obtain ⟨_, _, h⟩ := hf y
      rw [h]
    obtain ⟨_, _, hfw⟩ := hf c.w
    rw [Bool.and_eq_true, List.isEmpty_iff, List.isEmpty_iff] at hall
    obtain ⟨hremain, hloads⟩ := hall
    have hwave : (issuesFrom c scr (askedLines c scr o.direct (keptPieces c scr known ps) pre) lvl).wave? c.wid = some (f c.w) := by
      rw [hfrom]
      exact State.wave?_updWave_self (s := { c.s with now := now, mem := { c.s.mem with tlb := tlb } }) hw hwid
    have hadded := State.wave?_updWave_self hwave (f := fun w => { w with loads := w.loads ++ [issuedLoad c scr known ps pre o] })
    rw [State.returnLine_empty hadded (by simp [hfw, hloads]) hremain hpoison]
    exact congrArg Res.done (State.updWave_updWave _ c.wid _ _)
  next => rfl

/-- A load of which a lane that is no helper faults traps whole. -/
theorem issueLoad_traps {scr : Bool} {known : List (Piece × BitVec 6)} {ps : List Piece} {pre : List (Nat × Byte)} {o : OutLoad} {lvl : Nat} {t : Trap}
    (h : c.faultOf ((known ++ c.badPieces scr .load ps).filter (fun x => !c.isHelper x.1.lane)) = some t) :
    c.issueLoad scr known ps pre o lvl = .trap t := by
  unfold Cx.issueLoad
  simp only [h]

/-- A load that reads a tile of an engine waits. -/
theorem issueLoad_waits {scr : Bool} {known : List (Piece × BitVec 6)} {ps : List Piece} {pre : List (Nat × Byte)} {o : OutLoad} {lvl : Nat}
    (hfault : ∀ x ∈ known ++ c.badPieces scr .load ps, c.isHelper x.1.lane = true)
    (hheld : (scr && c.tileHeld (keptPieces c scr known ps)) = true) : c.issueLoad scr known ps pre o lvl = c.waitOwner := by
  have hnone : (known ++ c.badPieces scr .load ps).filter (fun x => !c.isHelper x.1.lane) = [] :=
    List.filter_eq_nil_iff.2 fun x hx => by simp [hfault x hx]
  unfold Cx.issueLoad
  simp only [hnone, Cx.faultOf]
  exact if_pos hheld

end

/-! ## Translation (R275) -/

theorem State.walk_congr {s t : State} (hhbm : t.mem.hbm = s.mem.hbm) (hhub : t.hub = s.hub) (world : Bool) (lvl table va : Nat) :
    t.walk world lvl table va = s.walk world lvl table va := by
  have hdword (pa : Nat) : t.hbmDword pa = s.hbmDword pa := by simp only [State.hbmDword, hhbm]
  have hsecured (pa : Nat) : t.secured pa = s.secured pa := by simp only [State.secured, hhub]
  induction lvl generalizing table with
  | zero =>
    unfold State.walk
    simp only [hdword, hsecured]
  | succ lvl ih =>
    unfold State.walk
    simp only [hdword, hsecured, ih]

/-- What a lookup in the caches or the tables reads. -/
structure State.SameTables (s t : State) : Prop where
  hbm : t.mem.hbm = s.mem.hbm
  tlb : t.mem.tlb = s.mem.tlb
  parts : t.parts = s.parts
  hub : t.hub = s.hub

theorem State.SameTables.lookupLeaf {s t : State} (h : s.SameTables t) (core p va : Nat) : t.lookupLeaf core p va = s.lookupLeaf core p va := by
  have hpart : t.part p = s.part p := by rw [State.part, h.parts]; rfl
  simp only [State.lookupLeaf, State.tlbFind, h.tlb, State.world, State.root, hpart, State.walk_congr h.hbm h.hub]

theorem State.SameTables.translate {s t : State} (h : s.SameTables t) (core p : Nat) (acc : Access) (va : Nat) :
    t.translate core p acc va = s.translate core p acc va := by
  have hworld : t.world p = s.world p := by rw [State.world, State.part, h.parts]; rfl
  have hlocal (pl : Place) : t.localPeer pl = s.localPeer pl := by rw [State.localPeer, h.hub]; rfl
  have hsecure (pl : Place) : t.securePlace pl = s.securePlace pl := by rw [State.securePlace, State.secured, h.hub]; rfl
  have hcheck (x : Dword × Nat) : t.checkLeaf p acc va x = s.checkLeaf p acc va x := by
    simp only [State.checkLeaf, hworld, hlocal, hsecure]
  unfold State.translate
  rw [h.lookupLeaf]
  split
  · rfl
  · exact hcheck _

theorem State.updWave_sameTables (s : State) (w : Nat) (f : Wave → Wave) : s.SameTables (s.updWave w f) := ⟨rfl, rfl, rfl, rfl⟩

/-- A line translates to a line. -/
theorem State.translate_line {s : State} {core p : Nat} {acc : Access} {va : Nat} {pl : Place} (h : s.translate core p acc va = .ok pl)
    (hva : va % 64 = 0) : pl.pa % 64 = 0 := by
  have hplace (x : Dword × Nat) : (leafPlace va x).pa % 64 = 0 := by
    have hoff : va % 2 ^ x.2 % 64 = 0 := by
      rcases Nat.lt_or_ge x.2 6 with hlt | hge
      · have : 2 ^ x.2 ∣ va := (Nat.pow_dvd_pow 2 hlt.le).trans (Nat.dvd_of_mod_eq_zero hva)
        rw [Nat.mod_eq_zero_of_dvd this]
      · rw [Nat.mod_mod_of_dvd va (Nat.pow_dvd_pow 2 hge : 2 ^ 6 ∣ 2 ^ x.2)]
        exact hva
    simp only [leafPlace, leafPa]
    omega
  have hlocal (q : Place) (hq : q.pa % 64 = 0) : (s.localPeer q).pa % 64 = 0 := by
    unfold State.localPeer
    split
    · show q.pa % 2 ^ 40 % 64 = 0
      omega
    · exact hq
  unfold State.translate State.checkLeaf at h
  split at h
  · cases h
  · split at h
    · cases h
    · dsimp only at h
      split at h
      · cases h
      · split at h
        · cases h
        · cases h
          exact hlocal _ (hplace _)

/-! ## The lines of an access -/

theorem linesOf_spec (ps : List Piece) (ls : List Nat) (h : ls.Nodup) :
    let out := ps.foldl (fun ls q =>
      let a := q.addr / 64
      let b := (q.addr + q.size - 1) / 64
      let ls := if ls.contains a then ls else ls ++ [a]
      if ls.contains b then ls else ls ++ [b]) ls
    out.Nodup ∧ ∀ l, l ∈ out ↔ l ∈ ls ∨ ∃ q ∈ ps, l = q.addr / 64 ∨ l = (q.addr + q.size - 1) / 64 := by
  have hadd (ls : List Nat) (a : Nat) (h : ls.Nodup) : (if ls.contains a then ls else ls ++ [a]).Nodup
      ∧ ∀ l, l ∈ (if ls.contains a then ls else ls ++ [a]) ↔ l ∈ ls ∨ l = a := by
    simp only [List.contains_iff_mem]
    split
    next ha => exact ⟨h, fun l => ⟨.inl, fun hl => hl.elim id fun he => he ▸ ha⟩⟩
    next ha => exact ⟨List.nodup_append'.2 ⟨h, List.nodup_singleton a, by simpa using ha⟩, fun l => by simp⟩
  induction ps generalizing ls with
  | nil => exact ⟨h, fun l => by simp⟩
  | cons q ps ih =>
    obtain ⟨ha, hma⟩ := hadd ls (q.addr / 64) h
    obtain ⟨hb, hmb⟩ := hadd _ ((q.addr + q.size - 1) / 64) ha
    obtain ⟨hout, hmem⟩ := ih _ hb
    refine ⟨hout, fun l => (hmem l).trans ?_⟩
    rw [hmb, hma]
    simp only [List.mem_cons, exists_eq_or_imp, or_assoc]

theorem nodup_linesOf (ps : List Piece) : (linesOf ps).Nodup := (linesOf_spec ps [] .nil).1

theorem mem_linesOf {ps : List Piece} {l : Nat} : l ∈ linesOf ps ↔ ∃ q ∈ ps, l = q.addr / 64 ∨ l = (q.addr + q.size - 1) / 64 :=
  ((linesOf_spec ps [] .nil).2 l).trans (by simp)

/-! ## The block and grid of an instruction that reaches its meaning -/

/-- What reading its operands leaves: the machine as it was, or with the reading of a clock logged (R278). -/
theorem State.operandsNow_cases {s s' : State} {w : Wave} {b : Block} {g : Grid} {sh : Shape} {e : Enc} {iv : AtIssue}
    (h : s.operandsNow w b g sh e = .ok (some (iv, s'))) : s' = s ∨ ∃ p x, s' = s.logEntry p x := by
  unfold State.operandsNow at h
  split at h
  · cases h
    exact .inl rfl
  · unfold State.takeOperands at h
    split at h
    · cases h
    · dsimp only at h
      by_cases hwait : (readsClk sh e && !s.mayStep g.launch.part 6 (agentOf w) 32) = true
      · rw [if_pos hwait] at h
        cases h
      · rw [if_neg hwait] at h
        cases hclk : readsClk sh e <;> rw [hclk] at h <;> cases h
        · exact .inl rfl
        · exact .inr ⟨_, _, rfl⟩

theorem State.operandsNow_sameLevels {s s' : State} {w : Wave} {b : Block} {g : Grid} {sh : Shape} {e : Enc} {iv : AtIssue}
    (h : s.operandsNow w b g sh e = .ok (some (iv, s'))) : s.SameLevels s' := by
  rcases State.operandsNow_cases h with rfl | ⟨p, x, rfl⟩
  · exact .refl _
  · exact s.logEntry_sameLevels p x

theorem block?_of_issued {op : Nat} {e : Enc} {s : State} {c : Cx} (h : Issued op e s c) :
    c.s.block? c.w.blk = some c.b ∧ c.b.uid = c.w.blk := by
  obtain ⟨wid, w, b, g, iv, s', -, -, hb, -, -, -, -, hop, rfl⟩ := h
  refine ⟨?_, by simpa using List.find?_some hb⟩
  rw [State.block?, (State.operandsNow_sameLevels hop).blocks]
  exact hb

theorem grid?_of_issued {op : Nat} {e : Enc} {s : State} {c : Cx} (h : Issued op e s c) : c.s.grid? c.b.grid = some c.g := by
  obtain ⟨wid, w, b, g, iv, s', -, -, -, hg, -, -, -, hop, rfl⟩ := h
  rw [State.grid?, (State.operandsNow_sameLevels hop).grids]
  exact hg

/-- The instruction at a change of its wave: the wave as it then is, the block as it was. -/
theorem Cx.on_updWave {op : Nat} {e : Enc} {s : State} {c : Cx} (h : Issued op e s c) {f : Wave → Wave}
    (hf : ∀ y, (f y).wid = y.wid := by exact fun _ => rfl) :
    c.on (c.s.updWave c.wid f) = { c with s := c.s.updWave c.wid f, w := f c.w } := by
  obtain ⟨hb, huid⟩ := block?_of_issued h
  have hw := State.wave?_updWave_self (seenAt_of_issued h).wave hf
  have hb' : (c.s.updWave c.wid f).block? c.b.uid = some c.b := huid ▸ hb
  simp only [Cx.on, hw, hb']

/-- The wave of an instruction performed that only changes it. -/
theorem Cx.wave?_after_updWave {c : Cx} (hw : c.s.wave? c.wid = some c.w) {f : Wave → Wave} (hf : ∀ y, (f y).wid = y.wid := by exact fun _ => rfl) :
    (c.after (c.s.updWave c.wid f)).wave? c.wid = some ((f c.w).goesOn (nextPc c.w c.e) c.s.clk) := by
  rw [Cx.after_updWave]
  exact State.wave?_updWave_self (State.wave?_updWave_self hw hf)

/-- An instruction that only changes its wave leaves it changed, at the next instruction. -/
theorem exec_updWave {i : Instr} {op : Nat} {e : Enc} {s : State} {c : Cx} {body : Cx → Res} (hx : exec i s = simt op e s body)
    (h : Issued op e s c) {f : Wave → Wave} (hb : body c = .done (c.s.updWave c.wid f)) (hf : ∀ y, (f y).wid = y.wid := by exact fun _ => rfl) :
    ∃ t, exec i s = .next t ∧ t.wave? c.wid = some ((f c.w).goesOn (nextPc c.w e) c.s.clk) ∧ t.mem = c.s.mem := by
  refine ⟨_, hx.trans (simt_done h hb), ?_, rfl⟩
  rw [Cx.wave?_after_updWave (seenAt_of_issued h).wave hf, issued_e h]

/-- What an instruction that reaches its meaning comes to. -/
theorem exec_issued {i : Instr} {op : Nat} {e : Enc} {s : State} {c : Cx} {body : Cx → Res} (hx : exec i s = simt op e s body)
    (h : Issued op e s c) {r : Res} (hb : body c = r) : exec i s = .next (r.finish c) := by
  rw [hx, simt_issued h, hb]

end Sys2Proof.Machine

/-! SUPPORT. Top-k lists (R367-R372): the rank order as a linear order of keys, the list of the K best entries under insertions, the merge of two
lists, and the lines of an image: the lemmas of O52. -/

namespace Sys2Proof.Machine

open Sys2Proof

/-! ## The rank order (R368) -/

/-- The number that a dyadic number stands for. -/
def Dy.rat (x : Dy) : ℚ := x.m * 2 ^ x.e

theorem Dy.rat_add (x y : Dy) : (x.add y).rat = x.rat + y.rat := by
  unfold Dy.add
  split
  next h => simp [Dy.rat, h]
  next =>
    split
    next h => simp [Dy.rat, h]
    next =>
      have hpow (d e : Int) (h : d ≤ e) : (2 : ℚ) ^ e = 2 ^ (e - d).toNat * 2 ^ d := by
        rw [← zpow_natCast, ← zpow_add₀ two_ne_zero, Int.toNat_of_nonneg (by omega), sub_add_cancel]
      split
      next h =>
        simp only [Dy.rat, hpow x.e y.e h]
        push_cast
        ring
      next h =>
        simp only [Dy.rat, hpow y.e x.e (by omega)]
        push_cast
        ring

theorem Dy.lt_iff (x y : Dy) : Dy.lt x y = true ↔ x.rat < y.rat := by
  have hneg : Dy.rat ⟨-y.m, y.e⟩ = -y.rat := by simp [Dy.rat]
  have hsign (z : Dy) : z.m < 0 ↔ z.rat < 0 := by
    have hpos : (0 : ℚ) < 2 ^ z.e := by positivity
    rw [Dy.rat, ← zero_mul ((2 : ℚ) ^ z.e), mul_lt_mul_iff_left₀ hpos, Int.cast_lt_zero]
  rw [Dy.lt, decide_eq_true_eq, hsign, Dy.rat_add, hneg, ← sub_eq_add_neg, sub_neg]

/-- Where a value that is no NaN stands among the numbers with their two infinities. -/
def Fp.place : Fp → WithBot (WithTop ℚ)
  | .inf true => ⊥
  | .inf false => (⊤ : WithTop ℚ)
  | a => ((a.dy.rat : WithTop ℚ) : WithBot (WithTop ℚ))

theorem Fp.lt_iff {a b : Fp} (ha : a ≠ .nan) (hb : b ≠ .nan) : Fp.lt a b = true ↔ a.place < b.place := by
  match a, b with
  | .nan, _ => exact absurd rfl ha
  | _, .nan => exact absurd rfl hb
  | .inf true, .inf true => simp [Fp.lt, Fp.place]
  | .inf true, .inf false => simp [Fp.lt, Fp.place]
  | .inf false, .inf true => simp [Fp.lt, Fp.place]
  | .inf false, .inf false => simp [Fp.lt, Fp.place]
  | .inf true, .fin n m e => simp [Fp.lt, Fp.place]
  | .inf false, .fin n m e => simp [Fp.lt, Fp.place]
  | .fin n m e, .inf true => simp [Fp.lt, Fp.place]
  | .fin n m e, .inf false => exact ⟨fun _ => WithBot.coe_lt_coe.2 (WithTop.coe_lt_top _), fun _ => rfl⟩
  | .fin n m e, .fin k q f => simp [Fp.lt, Fp.place, Dy.lt_iff]

theorem Fp.eq_iff {a b : Fp} (ha : a ≠ .nan) (hb : b ≠ .nan) : Fp.eq a b = true ↔ a.place = b.place := by
  have hab := Fp.lt_iff ha hb
  have hba := Fp.lt_iff hb ha
  rw [Fp.eq_of_ne_nan ha hb, Bool.and_eq_true, Bool.not_eq_true', Bool.not_eq_true', Bool.eq_false_iff, Bool.eq_false_iff, ne_eq, hab, ne_eq, hba,
    not_lt, not_lt, and_comm, le_antisymm_iff]

/-- What the rank order compares: a NaN last, then the greater value first, then the smaller index first. -/
def rankKey (a : Word × Word) : ℕ ×ₗ (WithBot (WithTop ℚ))ᵒᵈ ×ₗ ℕ :=
  let v := Fmt.f32.value a.1.toNat
  if v = .nan then toLex (1, toLex (OrderDual.toDual ⊥, a.2.toNat)) else toLex (0, toLex (OrderDual.toDual v.place, a.2.toNat))

theorem ranksAbove_iff (a b : Word × Word) : ranksAbove a b = true ↔ rankKey a < rankKey b := by
  unfold ranksAbove rankKey
  by_cases ha : Fmt.f32.value a.1.toNat = .nan <;> by_cases hb : Fmt.f32.value b.1.toNat = .nan
  · simp [ha, hb, Prod.Lex.toLex_lt_toLex]
  · simp [ha, hb, Prod.Lex.toLex_lt_toLex]
  · simp [ha, hb, Prod.Lex.toLex_lt_toLex]
  · simp [ha, hb, Prod.Lex.toLex_lt_toLex, Fp.lt_iff, Fp.eq_iff]

theorem not_ranksAbove_iff (a b : Word × Word) : ranksAbove a b = false ↔ rankKey b ≤ rankKey a := by
  rw [← Bool.not_eq_true, ranksAbove_iff, not_lt]

/-- Entries in rank order. -/
def RankOrdered (l : List (Word × Word)) : Prop := l.Pairwise (fun a b => ranksAbove b a = false)

theorem rankOrdered_iff (l : List (Word × Word)) : RankOrdered l ↔ l.Pairwise (fun a b => rankKey a ≤ rankKey b) := by
  simp only [RankOrdered, not_ranksAbove_iff]

/-! ## An entry put at its rank (R369) -/

theorem placeEntry_perm (e : Word × Word) (l : List (Word × Word)) : (placeEntry e l).Perm (e :: l) := by
  induction l with
  | nil => exact .refl _
  | cons x xs ih =>
    rw [placeEntry]
    split
    · exact .refl _
    · exact (ih.cons x).trans (.swap e x xs)

theorem placeEntry_ordered {e : Word × Word} {l : List (Word × Word)} (h : RankOrdered l) : RankOrdered (placeEntry e l) := by
  rw [rankOrdered_iff] at h ⊢
  induction l with
  | nil => exact List.pairwise_singleton _ _
  | cons x xs ih =>
    obtain ⟨hx, hxs⟩ := List.pairwise_cons.1 h
    rw [placeEntry]
    split
    next hab =>
      have hlt := (ranksAbove_iff e x).1 hab
      refine List.pairwise_cons.2 ⟨fun z hz => ?_, h⟩
      rcases List.mem_cons.1 hz with rfl | hz
      · exact hlt.le
      · exact hlt.le.trans (hx z hz)
    next hab =>
      refine List.pairwise_cons.2 ⟨fun z hz => ?_, ih hxs⟩
      rcases List.mem_cons.1 ((placeEntry_perm e xs).mem_iff.1 hz) with rfl | hz
      · exact (not_ranksAbove_iff _ _).1 (Bool.eq_false_iff.2 hab)
      · exact hx z hz

/-- In rank order nothing ranks below the last entry. -/
theorem RankOrdered.rankKey_le_getLast {l : List (Word × Word)} (h : RankOrdered l) {z : Word × Word} (hz : l.getLast? = some z) :
    ∀ x ∈ l, rankKey x ≤ rankKey z := by
  obtain ⟨ys, rfl⟩ := List.getLast?_eq_some_iff.1 hz
  obtain ⟨-, -, hlast⟩ := List.pairwise_append.1 ((rankOrdered_iff _).1 h)
  intro x hx
  rcases List.mem_append.1 hx with hx | hx
  · exact hlast x hx z List.mem_cons_self
  · exact (List.mem_singleton.1 hx) ▸ le_refl _

/-! ## A list of at most K entries (R369) -/

/-- The entries are the K best of a pool: in rank order, as many as the pool has up to K, and none ranks below one left out. -/
structure BestOf (k : Nat) (pool l : List (Word × Word)) : Prop where
  ordered : RankOrdered l
  length : l.length = min k pool.length
  sub : ∀ x ∈ l, x ∈ pool
  out : ∀ x ∈ pool, x ∉ l → l.length = k ∧ ∀ z ∈ l, rankKey z ≤ rankKey x

theorem BestOf.refl {k : Nat} {l : List (Word × Word)} (h : RankOrdered l) (hk : l.length ≤ k) : BestOf k l l :=
  ⟨h, (min_eq_right hk).symm, fun _ hx => hx, fun _ hx hn => absurd hx hn⟩

section
variable {t : TopK} {pool : List (Word × Word)} {v i : Word}

theorem TopK.insert_room (hi : i ≠ 0xFFFFFFFF#32) (h : t.entries.length < t.k) :
    t.insert v i = { t with entries := placeEntry (v, i) t.entries, sel := fAdd t.sel v } := by
  rw [TopK.insert, if_neg hi, if_pos h]

theorem TopK.insert_below {z : Word × Word} (hi : i ≠ 0xFFFFFFFF#32) (h : ¬t.entries.length < t.k) (hz : t.entries.getLast? = some z)
    (hab : ranksAbove (v, i) z = false) : t.insert v i = { t with exc := fAdd t.exc v } := by
  simp only [TopK.insert, if_neg hi, if_neg h, hz, hab, Bool.false_eq_true, if_false]

theorem TopK.insert_above {z : Word × Word} (hi : i ≠ 0xFFFFFFFF#32) (h : ¬t.entries.length < t.k) (hz : t.entries.getLast? = some z)
    (hab : ranksAbove (v, i) z = true) : t.insert v i = { t with
      entries := placeEntry (v, i) t.entries.dropLast, sel := fAdd (fSub t.sel z.1) v, exc := fAdd t.exc z.1 } := by
  simp only [TopK.insert, if_neg hi, if_neg h, hz, hab, if_true]

theorem TopK.insert_k : (t.insert v i).k = t.k := by
  unfold TopK.insert
  split
  · rfl
  · split
    · rfl
    · split
      · split <;> rfl
      · rfl

theorem BestOf.insert (hk : t.k ≠ 0) (h : BestOf t.k pool t.entries) (hi : i ≠ 0xFFFFFFFF#32) :
    BestOf t.k (pool ++ [(v, i)]) (t.insert v i).entries := by
  obtain ⟨hord, hlen, hsub, hout⟩ := h
  have hmem {l : List (Word × Word)} (x : Word × Word) : x ∈ placeEntry (v, i) l ↔ x = (v, i) ∨ x ∈ l :=
    (placeEntry_perm _ _).mem_iff.trans List.mem_cons
  by_cases hroom : t.entries.length < t.k
  · rw [TopK.insert_room hi hroom]
    refine ⟨placeEntry_ordered hord, ?_, fun x hx => ?_, fun x hx hn => ?_⟩
    · simp only [(placeEntry_perm _ _).length_eq, List.length_cons, List.length_append, List.length_nil]
      omega
    · simp only [hmem, List.mem_append, List.mem_singleton] at hx ⊢
      exact hx.symm.imp_left (hsub x)
    · simp only [hmem, List.mem_append, List.mem_singleton, not_or] at hx hn
      exact absurd (hout x (hx.resolve_right hn.1) hn.2).1 hroom.ne
  · have hfull : t.entries.length = t.k := by omega
    obtain ⟨z, hz⟩ : ∃ z, t.entries.getLast? = some z :=
      Option.isSome_iff_exists.1 (by simpa [List.ne_nil_iff_length_pos] using by omega)
    have hlast := hord.rankKey_le_getLast hz
    cases hab : ranksAbove (v, i) z with
    | false =>
      have hle := (not_ranksAbove_iff _ _).1 hab
      rw [TopK.insert_below hi hroom hz hab]
      refine ⟨hord, ?_, fun x hx => List.mem_append_left _ (hsub x hx), fun x hx hn => ⟨hfull, fun y hy => ?_⟩⟩
      · simp only [List.length_append, List.length_singleton]
        omega
      · rcases List.mem_append.1 hx with hx | hx
        · exact (hout x hx hn).2 y hy
        · exact (List.mem_singleton.1 hx) ▸ (hlast y hy).trans hle
    | true =>
      have hlt := (ranksAbove_iff _ _).1 hab
      rw [TopK.insert_above hi hroom hz hab]
      obtain ⟨ys, hys⟩ := List.getLast?_eq_some_iff.1 hz
      have hdrop : t.entries.dropLast = ys := by rw [hys, List.dropLast_concat]
      have hin (x : Word × Word) (hx : x ∈ ys) : x ∈ t.entries := hys ▸ List.mem_append_left _ hx
      have hlen' : ys.length + 1 = t.k := by rw [← hfull, hys, List.length_append, List.length_singleton]
      simp only [hdrop]
      refine ⟨placeEntry_ordered ((hys ▸ hord : RankOrdered (ys ++ [z])).sublist (List.sublist_append_left _ _)), ?_, fun x hx => ?_,
        fun x hx hn => ⟨?_, fun y hy => ?_⟩⟩
      · simp only [(placeEntry_perm _ _).length_eq, List.length_cons, List.length_append, List.length_nil]
        omega
      · simp only [hmem, List.mem_append, List.mem_singleton] at hx ⊢
        exact hx.symm.imp_left fun hx => hsub x (hin x hx)
      · simpa only [(placeEntry_perm _ _).length_eq, List.length_cons] using hlen'
      · simp only [hmem, List.mem_append, List.mem_singleton, not_or] at hx hn hy
        have hx := hx.resolve_right hn.1
        have hzx : rankKey z ≤ rankKey x := by
          by_cases hxl : x ∈ t.entries
          · rw [hys] at hxl
            rw [List.mem_singleton.1 ((List.mem_append.1 hxl).resolve_left hn.2)]
          · exact (hout x hx hxl).2 z (hys ▸ List.mem_append_right _ List.mem_cons_self)
        rcases hy with rfl | hy
        · exact hlt.le.trans hzx
        · exact (hlast y (hin y hy)).trans hzx

end

/-- Insertions leave the K best of what the list held and what was inserted. -/
theorem TopK.bestOf_foldl_insert {k : Nat} (hk : k ≠ 0) (kept : List (Word × Word)) (hkept : ∀ x ∈ kept, x.2 ≠ 0xFFFFFFFF#32) (t : TopK)
    (pool : List (Word × Word)) (htk : t.k = k) (h : BestOf k pool t.entries) :
    BestOf k (pool ++ kept) (kept.foldl (fun t x => t.insert x.1 x.2) t).entries := by
  subst htk
  induction kept generalizing t pool with
  | nil => simpa using h
  | cons x xs ih =>
    have hins := h.insert (v := x.1) (i := x.2) hk (hkept x List.mem_cons_self)
    rw [List.foldl_cons, show pool ++ x :: xs = (pool ++ [x]) ++ xs by simp, ← TopK.insert_k (t := t) (v := x.1) (i := x.2)]
    refine ih (fun y hy => hkept y (List.mem_cons_of_mem _ hy)) _ _ ?_ ?_
    · rwa [TopK.insert_k]
    · rwa [TopK.insert_k]

theorem TopK.foldl_insert_k (kept : List (Word × Word)) (t : TopK) : (kept.foldl (fun t x => t.insert x.1 x.2) t).k = t.k :=
  List.foldlRecOn (motive := fun u : TopK => u.k = t.k) kept _ rfl fun _ hu _ _ => TopK.insert_k.trans hu

/-- An entry without an index is not inserted. -/
theorem TopK.foldl_insert_filter (new : List (Word × Word)) (t : TopK) :
    (new.filter fun x => x.2 ≠ 0xFFFFFFFF#32).foldl (fun t x => t.insert x.1 x.2) t = new.foldl (fun t x => t.insert x.1 x.2) t := by
  rw [List.foldl_filter]
  congr 1
  funext t x
  by_cases h : x.2 = 0xFFFFFFFF#32
  · simp [h, TopK.insert]
  · simp [h]

/-! ## The merge of two lists (R371) -/

theorem rankSort_spec (xs acc : List (Word × Word)) (h : RankOrdered acc) :
    RankOrdered (xs.foldl (fun acc x => placeEntry x acc) acc) ∧ (xs.foldl (fun acc x => placeEntry x acc) acc).Perm (acc ++ xs) := by
  induction xs generalizing acc with
  | nil => exact ⟨h, by simp⟩
  | cons x xs ih =>
    obtain ⟨hord, hperm⟩ := ih (placeEntry x acc) (placeEntry_ordered h)
    refine ⟨hord, hperm.trans ?_⟩
    exact ((placeEntry_perm x acc).append_right xs).trans List.perm_middle.symm

theorem rankSort_ordered (xs : List (Word × Word)) : RankOrdered (rankSort xs) := (rankSort_spec xs [] .nil).1

theorem mem_rankSort {xs : List (Word × Word)} {x : Word × Word} : x ∈ rankSort xs ↔ x ∈ xs := (rankSort_spec xs [] .nil).2.mem_iff

theorem onceEach_sublist (l : List (Word × Word)) : (onceEach l).Sublist l := by
  induction l with
  | nil => exact .slnil
  | cons x xs ih => exact ((List.filter_sublist).trans ih).cons_cons x

theorem onceEach_nodup (l : List (Word × Word)) : ((onceEach l).map Prod.snd).Nodup := by
  induction l with
  | nil => exact .nil
  | cons x xs ih =>
    rw [onceEach, List.map_cons, List.nodup_cons]
    refine ⟨fun h => ?_, ih.sublist (List.filter_sublist.map _)⟩
    obtain ⟨y, hy, hxy⟩ := List.mem_map.1 h
    simpa [hxy] using (List.mem_filter.1 hy).2

/-- Each index of entries in rank order is kept, in its highest entry. -/
theorem RankOrdered.exists_onceEach {l : List (Word × Word)} (h : RankOrdered l) {x : Word × Word} (hx : x ∈ l) :
    ∃ y ∈ onceEach l, y.2 = x.2 ∧ rankKey y ≤ rankKey x := by
  induction l with
  | nil => exact absurd hx List.not_mem_nil
  | cons z zs ih =>
    obtain ⟨hz, hzs⟩ := List.pairwise_cons.1 ((rankOrdered_iff _).1 h)
    by_cases hzx : z.2 = x.2
    · refine ⟨z, List.mem_cons_self, hzx, ?_⟩
      rcases List.mem_cons.1 hx with rfl | hx
      · exact le_refl _
      · exact hz x hx
    · obtain ⟨y, hy, hyx, hle⟩ := ih ((rankOrdered_iff _).2 hzs) ((List.mem_cons.1 hx).resolve_left fun h => hzx (h ▸ rfl))
      exact ⟨y, List.mem_cons_of_mem _ (List.mem_filter.2 ⟨hy, by simpa [hyx] using Ne.symm hzx⟩), hyx, hle⟩

/-- The entries that a merge leaves. -/
theorem TopK.merge_entries (t : TopK) (m : List Byte) : (t.merge m).entries = (onceEach (rankSort (t.entries ++ imageEntries m))).take t.k := rfl

theorem TopK.merge_sel (t : TopK) (m : List Byte) : (t.merge m).sel = (t.merge m).entries.foldl (fun a x => fAdd a x.1) 0#32 := rfl

theorem TopK.merge_k (t : TopK) (m : List Byte) : (t.merge m).k = t.k := rfl

section
variable {t : TopK} {m : List Byte}

theorem TopK.merge_sublist : (t.merge m).entries.Sublist (rankSort (t.entries ++ imageEntries m)) :=
  (List.take_sublist _ _).trans (onceEach_sublist _)

/-- An index that a merge leaves out has only entries below those of a full list. -/
theorem TopK.merge_out {x : Word × Word} (hx : x ∈ t.entries ++ imageEntries m) (hout : ∀ z ∈ (t.merge m).entries, z.2 ≠ x.2) :
    (t.merge m).entries.length = t.k ∧ ∀ z ∈ (t.merge m).entries, rankKey z ≤ rankKey x := by
  rw [TopK.merge_entries] at hout ⊢
  have hord := rankSort_ordered (t.entries ++ imageEntries m)
  have hkept := (rankOrdered_iff _).1 (hord.sublist (onceEach_sublist _))
  obtain ⟨y, hy, hyx, hle⟩ := hord.exists_onceEach (mem_rankSort.2 hx)
  generalize onceEach (rankSort (t.entries ++ imageEntries m)) = l at *
  have hdrop : y ∈ l.drop t.k := by
    rw [← List.take_append_drop t.k l] at hy
    exact (List.mem_append.1 hy).resolve_left fun hy => hout y hy hyx
  refine ⟨List.length_take_of_le ?_, fun z hz => ?_⟩
  · have := List.length_pos_of_mem hdrop
    rw [List.length_drop] at this
    omega
  · rw [← List.take_append_drop t.k l] at hkept
    exact ((List.pairwise_append.1 hkept).2.2 z hz y hdrop).trans hle

end

/-! ## The lines of a list image (R371) -/

/-- The pieces of an image: its nine lines. -/
def imagePieces (base : Nat) : List Piece := (List.range 9).map (fun i => ⟨0, base + 64 * i, 64⟩)

theorem mem_imagePieces {base : Nat} {q : Piece} : q ∈ imagePieces base ↔ ∃ i < 9, q = ⟨0, base + 64 * i, 64⟩ := by
  simp only [imagePieces, List.mem_map, List.mem_range, eq_comm]

/-- A source that takes an s pair, an s register, a constant or the extension word reads no v register (R91). -/
theorem srcVec_of_uniform {nv ns : Nat} {e : Enc} {kind : Src} (hk : kind = .uniBase ∨ kind = .uniOff) {x : BitVec 10}
    (h : srcOk nv ns e kind x = true) : srcVec false kind x = false := by
  rcases hk with rfl | rfl <;> cases hsel : Sel.of x <;> simp [srcOk, hsel] at h <;> simp [srcVec, hsel, Sel.isVec]

/-- topk.mrg is a scalar form. -/
theorem topkMrg_scalar {e : Enc} {s : State} {c : Cx} (h : Issued 0xDA e s c) : c.vec = false := by
  have hseen := seenAt_of_issued h
  have hshape : opShape 0xDA e = { a := .uniBase, b := .uniOff, modOk := zeroMod e } := rfl
  have hword := hseen.word
  have hdst := hseen.dstOk rfl
  rw [hshape] at hdst hword
  have hd : Dst.of e.dst = .discard := by simpa [dstOk] using hdst
  simp only [encodingOk, Bool.and_eq_true] at hword
  obtain ⟨⟨⟨⟨⟨-, ha⟩, hb⟩, -⟩, -⟩, -⟩ := hword
  rw [hseen.form, hshape]
  simp [isVector, hd, srcVec_of_uniform (.inl rfl) ha, srcVec_of_uniform (.inr rfl) hb]
  rfl

section
variable {c : Cx} {base : Nat}

/-- The cause of a line of an image: its address is no line's, or does not translate. -/
theorem Cx.cause_image_iff (i : Nat) (k : BitVec 6) : c.cause false .load ⟨0, base + 64 * i, 64⟩ = some k ↔
    if base % 64 ≠ 0 then k = 4#6 else c.s.translate c.w.core c.part .load (base + 64 * i) = .error k := by
  have hmod : (base + 64 * i) % 64 = base % 64 := by omega
  simp only [Cx.cause, hmod, Bool.false_eq_true, if_false]
  split
  · simp [eq_comm]
  · cases c.s.translate c.w.core c.part .load (base + 64 * i) <;> simp

/-- The trap of an image is that of the first line with the smallest cause. -/
theorem Cx.faultOf_image (hv : c.vec = false) {i : Nat} {k : BitVec 6} (hi : i < 9) (hbad : c.cause false .load ⟨0, base + 64 * i, 64⟩ = some k)
    (hmin : ∀ j < 9, ∀ m, c.cause false .load ⟨0, base + 64 * j, 64⟩ = some m → k.toNat ≤ m.toNat)
    (hfirst : ∀ j < i, c.cause false .load ⟨0, base + 64 * j, 64⟩ ≠ some k) :
    c.faultOf ((c.badPieces false .load (imagePieces base)).filter (fun x => !c.isHelper x.1.lane))
      = some { c.all k with addr := dword (base + 64 * i) } := by
  have hall : (c.badPieces false .load (imagePieces base)).filter (fun x => !c.isHelper x.1.lane) = c.badPieces false .load (imagePieces base) :=
    List.filter_eq_self.2 fun x _ => by simp [Cx.isHelper, hv]
  rw [hall]
  refine c.faultOf_scalar hv (x := (⟨0, base + 64 * i, 64⟩, k)) (fun y hy => ?_) ?_
  · obtain ⟨hq, hk⟩ := Cx.mem_badPieces.1 hy
    obtain ⟨j, hj, hqj⟩ := mem_imagePieces.1 hq
    exact hmin j hj y.2 (hqj ▸ hk)
  · rw [Cx.badPieces, imagePieces, List.filterMap_map, List.find?_filterMap]
    have hrange : (List.range 9).find? (fun j => ((c.cause false .load ⟨0, base + 64 * j, 64⟩).map
        (fun k => ((⟨0, base + 64 * j, 64⟩ : Piece), k))).any (fun y => decide (y.2 = k))) = some i := by
      rw [List.find?_range_eq_some]
      refine ⟨by simp [hbad], List.mem_range.2 hi, fun j hj => ?_⟩
      have := hfirst j hj
      cases hc : c.cause false .load ⟨0, base + 64 * j, 64⟩ with
      | none => rfl
      | some m =>
        rw [hc] at this
        simpa using fun h => this (congrArg some h)
    simp only [Function.comp_def, hrange, Option.bind_some, hbad, Option.map_some]

end

/-- The load of a list image. -/
def imageLoad (c : Cx) (base : Nat) : OutLoad :=
  { kind := .image base, dst := 511#9, vec := false, lanes := c.lanes, zeros := 0#32, size := 576
    addrs := [some base], got := [], remain := [], direct := c.w.hnd, noCopy := false, addr := 0#64, poison := false, issued := c.s.clk }

/-- The instruction once its image is forgotten. -/
def Cx.noImage (c : Cx) : Cx := { c with s := c.s.updWave c.wid (fun w => { w with image := [] }), w := { c.w with image := [] } }

section
variable {c : Cx} {base : Nat}

theorem Cx.cause_noImage_iff (i : Nat) (k : BitVec 6) : c.noImage.cause false .load ⟨0, base + 64 * i, 64⟩ = some k ↔
    if base % 64 ≠ 0 then k = 4#6 else c.s.translate c.w.core c.part .load (base + 64 * i) = .error k := by
  rw [Cx.cause_image_iff]
  have htr : c.noImage.s.translate c.w.core c.part .load (base + 64 * i) = c.s.translate c.w.core c.part .load (base + 64 * i) :=
    (c.s.updWave_sameTables _ _).translate ..
  exact htr ▸ Iff.rfl

/-- The references of an image's load name its lines where they translate. -/
theorem mem_imageRefs (hok : ∀ i < 9, ∀ k, c.noImage.cause false .load ⟨0, base + 64 * i, 64⟩ ≠ some k) {r : LineRef}
    (hr : r ∈ (issuedLoad c.noImage false [] (imagePieces base) [] (imageLoad c base)).remain) :
    r.scr = false ∧ ∃ i < 9, 64 * r.line = base + 64 * i
      ∧ c.s.translate c.w.core c.part .load (base + 64 * i) = .ok ⟨r.space, 64 * r.pline, r.ss⟩ := by
  obtain ⟨l, hl, rfl⟩ := List.mem_map.1 hr
  obtain ⟨q, hq, hl⟩ := mem_linesOf.1 (List.mem_of_mem_filter hl)
  obtain ⟨i, hi, rfl⟩ := mem_imagePieces.1 (List.mem_of_mem_filter hq)
  have hbase : base % 64 = 0 := by
    by_contra hb
    exact hok i hi 4#6 ((Cx.cause_noImage_iff i _).2 (by rw [if_pos hb]))
  have hline : 64 * l = base + 64 * i := by
    simp only at hl
    omega
  have htr : c.noImage.s.translate c.w.core c.part .load (64 * l) = c.s.translate c.w.core c.part .load (base + 64 * i) :=
    hline ▸ (c.s.updWave_sameTables _ _).translate ..
  cases hpl : c.s.translate c.w.core c.part .load (base + 64 * i) with
  | error k => exact absurd ((Cx.cause_noImage_iff i k).2 (by rw [if_neg (by omega), hpl])) (hok i hi k)
  | ok pl =>
    have hpa := State.translate_line hpl (by omega)
    have href : lineRef c.noImage false l = { scr := false, line := l, space := pl.space, pline := pl.pa / 64, ss := pl.ss } := by
      have : c.noImage.s.translate c.noImage.w.core c.noImage.part .load (64 * l) = .ok pl := htr.trans hpl
      simp only [lineRef, this, Bool.false_eq_true, if_false]
    rw [href]
    refine ⟨rfl, i, hi, hline, ?_⟩
    rw [show 64 * (pl.pa / 64) = pl.pa by omega]
    exact hpl

/-- The load of an image of which every line translates. -/
theorem issueLoad_image (hw : c.s.wave? c.wid = some c.w) (hok : ∀ i < 9, ∀ k, c.noImage.cause false .load ⟨0, base + 64 * i, 64⟩ ≠ some k) :
    ∃ u y o, c.noImage.issueLoad false [] (imagePieces base) [] (imageLoad c base) 0 = .done u ∧ u.wave? c.wid = some y ∧ u.mem.hbm = c.s.mem.hbm
      ∧ y.pc = c.w.pc ∧ y.topk = c.w.topk ∧ (y.loads = c.w.loads ++ [o] ∨ (c.w.loads = [] ∧ y.loads = []))
      ∧ o.kind = .image base ∧ o.size = 576 ∧ o.remain = (issuedLoad c.noImage false [] (imagePieces base) [] (imageLoad c base)).remain := by
  have hbad : [] ++ c.noImage.badPieces false .load (imagePieces base) = [] :=
    Cx.badPieces_eq_nil fun q hq => by
      obtain ⟨i, hi, rfl⟩ := mem_imagePieces.1 hq
      exact Option.eq_none_iff_forall_ne_some.2 (hok i hi)
  have hw' : c.noImage.s.wave? c.noImage.wid = some c.noImage.w := State.wave?_updWave_self hw
  have hissue := issueLoad_issues (c := c.noImage) (scr := false) (known := []) (ps := imagePieces base) (pre := []) (o := imageLoad c base) (lvl := 0)
    hw' rfl (by simp [hbad]) rfl
  generalize hlines : askedLines c.noImage false (imageLoad c base).direct (keptPieces c.noImage false [] (imagePieces base)) [] = lines at hissue
  obtain ⟨tlb, now, f, hfrom, hf⟩ := issuesFrom_frame c.noImage false lines 0
  have hwid (y : Wave) : (f y).wid = y.wid := by
    obtain ⟨_, _, h⟩ := hf y
    rw [h]
  obtain ⟨dev, sys, hfw⟩ := hf c.noImage.w
  rw [hfrom] at hissue
  refine ⟨_, _, issuedLoad c.noImage false [] (imagePieces base) [] (imageLoad c base), hissue,
    State.wave?_updWave_self (State.wave?_updWave_self hw' hwid) (takesLoad_wid _), rfl, ?_⟩
  rw [hfw]
  unfold takesLoad
  split
  next h =>
    have hloads : c.w.loads = [] := List.isEmpty_iff.1 (Bool.and_eq_true_iff.1 h).2
    exact ⟨rfl, rfl, .inr ⟨hloads, rfl⟩, rfl, rfl, rfl⟩
  next => exact ⟨rfl, rfl, .inl rfl, rfl, rfl, rfl⟩

end

/-- A lane of a v register after results for it in some lanes. -/
theorem Wave.vget_foldl_write {d : BitVec 9} {n : Nat} (hd : Dst.of d = .v n) {w : Wave} {f : Nat → Nat} {ls : List Nat} (hn : n < w.vregs.length)
    (hlen : w.vregs[n].length = 32) {l : Nat} (hl : l < 32) (hmem : l ∈ ls) :
    (ls.foldl (fun w l => w.write d false l (f l)) w).vget n l = word (f l) := by
  have hreg := Wave.vregs_foldl_write hd false f n ls w
  rw [List.getElem?_eq_getElem hn] at hreg
  simp [Wave.vget, List.getD_eq_getElem?_getD, hreg, hlen, hl, hmem, resultIn]

/-- What topk.rd gives of a place in the list: the value or the index, or its filler. -/
def topkRead (t : TopK) (ty : Ty) (n : Nat) : Word :=
  match t.entries[n]? with
  | some x => if ty = .f32 then x.1 else x.2
  | none => if ty = .f32 then 0xFF800000#32 else 0xFFFFFFFF#32

/-- topk.mrg before its image is read. -/
theorem topkMrg_starts {e : Enc} {s : State} {c : Cx} (h : Issued 0xDA e s c) (hstage : c.w.stage = 0) {base : Nat}
    (hbase : base = (c.addr e.a + c.offset e.b c.lane0) % 2 ^ 64) : exec (.topkMrg e) s
      = .next (Res.finish (match c.noImage.issueLoad false [] (imagePieces base) [] (imageLoad c base) 0 with
        | .done s => if c.w.topk.k = 0 then .trap (c.gk40 9) else .wait s .list 9 9 0
        | r => r) c) := by
  have hon : c.on (c.s.updWave c.wid (fun w => { w with image := [] })) = c.noImage := Cx.on_updWave h
  rw [exec_topkMrg, execTopkMrg, simt_issued h]
  simp only [hstage, if_true, hon, ← hbase]
  rfl


/-- topk.mrg once its image has been read, or was poisoned (R138). -/
theorem topkMrg_returned {e : Enc} {s : State} {c : Cx} (h : Issued 0xDA e s c) (hstage : c.w.stage ≠ 0)
    (hloads : ∀ o ∈ c.w.loads, ∀ b, o.kind ≠ .image b) : exec (.topkMrg e) s
      = .next (Res.finish (if c.w.image.isEmpty then .done c.s else if 64 < (imageWord c.w.image 1).toNat then .trap (c.gk40 9)
        else .done (c.setTopK (c.w.topk.merge c.w.image))) c) := by
  refine exec_issued (exec_topkMrg e s) h ((if_neg hstage).trans (if_neg fun hany => ?_))
  obtain ⟨o, ho, himage⟩ := List.any_eq_true.1 hany
  cases hk : o.kind with
  | image b => exact hloads o ho b hk
  | plain t => simp [hk] at himage
  | tensor _ _ _ _ _ _ => simp [hk] at himage

end Sys2Proof.Machine

namespace Sys2Proof.Proofs

open Sys2Proof Sys2Proof.Machine

/-- Settles O52: insertions keep the K best of a pool in rank order, a merge keeps the highest entry of each index, and the image is read
as nine lines. -/
theorem topKLists : Obligations.TopKLists := by
  unfold Obligations.TopKLists
  intro e s c trap ordered new kept old
  refine ⟨fun hi => ⟨fun hk => exec_issued (exec_topkClr e s) hi (if_pos (by simpa using hk)), fun hk hk' => ?clear⟩,
    fun hi hk => exec_issued (exec_topkIns e s) hi (if_pos hk), fun hi hk hlen hord => ?inserts,
    fun hi => ⟨fun hh => exec_issued (exec_topkRd e s) hi (if_pos hh), fun hh hd hreg hlanes => ?reads⟩, fun hi => ?sums, ?starts,
    fun hi hst hloads => ⟨fun him => ?poisoned, fun him h64 => ?count, fun him h64 => ?merges⟩⟩
  case clear =>
    obtain ⟨t, hexec, hwave, hmem⟩ := exec_updWave (exec_topkClr e s) hi (f := fun w => { w with topk := { k := c.n32 e.a } })
      (if_neg (by simp; omega))
    exact ⟨t, _, hexec, hwave, rfl, rfl, rfl, hmem⟩
  case inserts =>
    have hfold : (lanesOf c.active).foldl (fun t l => t.insert (word (c.src e.a .b32 l)) (word (c.src e.b .b32 l))) old
        = kept.foldl (fun t x => t.insert x.1 x.2) old := by
      rw [TopK.foldl_insert_filter, List.foldl_map]
    obtain ⟨t, hexec, hwave, hmem⟩ := exec_updWave (exec_topkIns e s) hi
      (f := fun w => { w with topk := kept.foldl (fun t x => t.insert x.1 x.2) old }) ((if_neg hk).trans (by rw [← hfold]; rfl))
    have hkept (x : Word × Word) (hx : x ∈ kept) : x.2 ≠ 0xFFFFFFFF#32 := by simpa using (List.mem_filter.1 hx).2
    obtain ⟨hordered, hlength, hsub, hout⟩ := TopK.bestOf_foldl_insert hk kept hkept old old.entries rfl (.refl hord hlen)
    refine ⟨t, _, hexec, hwave, rfl, rfl, hmem, TopK.foldl_insert_k kept old, hlength.trans (by rw [List.length_append]), hordered, hsub,
      fun x hx hn => ?_, fun hnone => ?_, fun x hx hroom => ?_, fun x z hx hfull hz hab => ?_⟩
    · obtain ⟨hfull, hle⟩ := hout x hx hn
      exact ⟨hfull, fun z hz => (not_ranksAbove_iff x z).2 (hle z hz)⟩
    · exact congrArg (List.foldl _ old) hnone
    all_goals
      have hone : kept.foldl (fun t x => t.insert x.1 x.2) old = old.insert x.1 x.2 := by rw [hx]; rfl
      have hindex := hkept x (hx ▸ List.mem_cons_self)
    · rw [TopK.insert_room hindex hroom] at hone
      exact ⟨Eq.trans (congrArg TopK.exc hone) rfl, Eq.trans (congrArg TopK.sel hone) rfl⟩
    · exact hone.trans (TopK.insert_below hindex (by omega) hz hab)
  case reads =>
    have hdst : Dst.of e.dst = .v e.dst.toNat := if_pos hd
    obtain ⟨t, hexec, hwave, hmem⟩ := exec_updWave (exec_topkRd e s) hi
      (f := fun w => (lanesOf c.lanes).foldl (fun w l => w.write e.dst false l (topkRead old (tyOf e) (32 * c.n32 e.a + l)).toNat) w)
      (if_neg (by omega)) (fun y => List.foldlRecOn (motive := fun x : Wave => x.wid = y.wid) _ _ rfl fun x hx l _ => (x.wid_write ..).trans hx)
    refine ⟨t, _, hexec, hwave, rfl, ?_, hmem, fun l hl hon => ?_⟩
    · rw [Wave.foldl_write_eq_vregs hdst]
      rfl
    · refine (Wave.vget_foldl_write hdst hreg (hlanes _ (List.getElem_mem hreg)) hl (mem_lanesOf.2 ⟨hl, hon⟩)).trans ?_
      rw [word, BitVec.ofNat_toNat, BitVec.setWidth_eq]
      rfl
  case sums =>
    have hpair : (old.exc ++ old.sel).toNat = old.sel.toNat + old.exc.toNat * 2 ^ 32 := by
      rw [BitVec.toNat_append, ← Nat.shiftLeft_add_eq_or_of_lt old.sel.isLt, Nat.shiftLeft_eq, Nat.add_comm]
    rw [hpair]
    exact exec_issued (exec_topkSum e s) hi rfl
  case starts =>
    intro base at_ bad hi hst
    have hbad (i : Nat) (k : BitVec 6) : c.noImage.cause false .load ⟨0, base + 64 * i, 64⟩ = some k ↔ bad i k := c.cause_noImage_iff i k
    have hstart := topkMrg_starts hi hst (base := base) rfl
    refine ⟨fun i k hi9 hik hmin hfirst => ?_, fun hok hk => ?_, fun hok hk hw => ?_⟩
    · have hfault := Cx.faultOf_image (c := c.noImage) (topkMrg_scalar hi :) hi9 ((hbad i k).2 hik) (fun j hj m hm => hmin j hj m ((hbad j m).1 hm))
        fun j hj hm => hfirst j hj ((hbad j k).1 hm)
      rw [hstart, issueLoad_traps hfault]
      rfl
    all_goals
      obtain ⟨u, y, o, hissue, hy, hmem, hpc, htopk, hload, hkind, hsize, hremain⟩ := issueLoad_image (seenAt_of_issued hi).wave
        (base := base) fun i hi9 k hik => hok i hi9 k ((hbad i k).1 hik)
      rw [hissue] at hstart
    · exact hstart.trans (congrArg (fun r => Host.Outcome.next (Res.finish r c)) (if_pos hk))
    · refine ⟨_, _, o, hstart.trans (congrArg (fun r => Host.Outcome.next (Res.finish r c)) (if_neg hk)), State.wave?_updWave_self (State.wave?_updWave_self hy), hpc, htopk, rfl, hload, hmem,
        fun _ => ⟨hkind, hsize, fun r hr => ?_⟩⟩
      rw [hremain] at hr
      exact mem_imageRefs (fun i hi9 k hik => hok i hi9 k ((hbad i k).1 hik)) hr
  all_goals
    have hreturned := topkMrg_returned hi (by omega) fun o ho b hb => by
      have := hloads o ho
      rw [hb] at this
      exact Bool.noConfusion this
  case poisoned =>
    rw [hreturned, him]
    rfl
  all_goals rw [if_neg (by simpa using him)] at hreturned
  case count => exact hreturned.trans (by rw [if_pos h64]; rfl)
  case merges =>
    rw [if_neg (by omega)] at hreturned
    have hwave := c.wave?_after_updWave (seenAt_of_issued hi).wave (f := fun w => { w with topk := old.merge c.w.image })
    have hord := rankSort_ordered (old.entries ++ imageEntries c.w.image)
    refine ⟨_, _, hreturned, hwave, by rw [issued_e hi]; rfl, rfl, rfl, rfl, List.length_take_le _ _, (onceEach_nodup _).sublist ((List.take_sublist _ _).map _),
      hord.sublist TopK.merge_sublist, fun x hx => mem_rankSort.1 (TopK.merge_sublist.subset hx), fun x hx hn => ?_, rfl⟩
    obtain ⟨hfull, hle⟩ := TopK.merge_out hx hn
    exact ⟨hfull, fun z hz => (not_ranksAbove_iff x z).2 (hle z hz)⟩

end Sys2Proof.Proofs

/-! SUPPORT. Commits to wave, block and cluster level, aborts and acquires (R148-R152): the clean copies that a core lets go of, what a logged step
leaves alone, and what the move of a commit leaves of its wave and block: the lemmas of O29. -/

namespace Sys2Proof.Machine

open Sys2Proof

/-! ## What a logged step leaves alone (R278) -/

theorem State.logEntry_mem (s : State) (p : Nat) (e : LogEntry) : ∃ hbm, (s.logEntry p e).mem = { s.mem with hbm := hbm }
    ∧ (logging (s.part p) = false → hbm = s.mem.hbm) := by
  simp only [State.logEntry]
  split
  · split <;> exact ⟨s.mem.hbm, rfl, fun _ => rfl⟩
  · split
    · exact ⟨s.mem.hbm, rfl, fun _ => rfl⟩
    next hlog =>
      refine ⟨_, rfl, fun h => ?_⟩
      simp [h] at hlog

/-- The partition of a block is read off its grid. -/
theorem State.partOfWave_eq {s : State} {k : Nat} {w : Wave} {b : Block} {g : Grid} (hw : s.wave? k = some w) (hb : s.block? w.blk = some b)
    (hg : s.grid? b.grid = some g) : s.partOfWave k = g.launch.part := by
  simp only [State.partOfWave, hw, State.partOfBlock, hb, hg]

/-! ## Clean copies that a wave's core lets go of (R165) -/

/-- A machine in which a step began that takes lines off a wave's buffer: the core's clean copies of the lines are gone, and what other
waves' open commits have sent is marked. -/
structure State.Clears (s : State) (w : Wave) (ls : List PLine) (t : State) : Prop where
  eq : ∃ (copies : List Copy) (g : Wave → Wave), t = { s with now := s.now + 1, waves := s.waves.map g, mem := { s.mem with copies := copies } }
    ∧ ∀ y, ∃ st, g y = { y with staged := st }
  sub : ∀ x ∈ t.mem.copies, x ∈ s.mem.copies
  dropped : ∀ p ∈ ls, p.scr = false → ∀ pl, s.translate w.core (s.partOfWave w.wid) .load (64 * p.line) = .ok pl →
    ∀ x ∈ t.mem.copies, ¬(x.l1 = true ∧ x.unit = w.core ∧ x.space = pl.space ∧ x.line = pl.pa / 64)

theorem mem_dropCopies {m : Mem} {f : Bool → Nat → Bool} {sp : Space} {l : Nat} {x : Copy} :
    x ∈ (m.dropCopies f sp l).copies ↔ x ∈ m.copies ∧ ¬(f x.l1 x.unit = true ∧ x.space = sp ∧ x.line = l) := by
  simp only [Mem.dropCopies, List.mem_filter, Bool.not_eq_true', Bool.and_eq_false_iff, decide_eq_false_iff_not, not_and_or]
  simp only [Bool.not_eq_true, or_assoc]

/-- A core lets go of its clean copies of a line. -/
def State.letsGo (w : Wave) (s : State) (p : PLine) : State :=
  match s.translate w.core (s.partOfWave w.wid) .load (64 * p.line) with
  | .ok pl => s.updMem (fun m => m.dropCopies (fun l1 u => l1 && u = w.core) pl.space (pl.pa / 64))
  | .error _ => s

theorem State.dropOwn_eq (s : State) (w : Wave) (ls : List PLine) : s.dropOwn w ls = (ls.filter (fun p => !p.scr)).foldl (State.letsGo w) s := rfl

theorem State.letsGo_spec (s : State) (w : Wave) (p : PLine) : ∃ copies, s.letsGo w p = { s with mem := { s.mem with copies := copies } }
    ∧ (∀ x ∈ copies, x ∈ s.mem.copies)
    ∧ ∀ pl, s.translate w.core (s.partOfWave w.wid) .load (64 * p.line) = .ok pl →
      ∀ x ∈ copies, ¬(x.l1 = true ∧ x.unit = w.core ∧ x.space = pl.space ∧ x.line = pl.pa / 64) := by
  rw [State.letsGo]
  split
  next pl hpl =>
    refine ⟨(s.mem.dropCopies (fun l1 u => l1 && u = w.core) pl.space (pl.pa / 64)).copies, rfl, fun x hx => (mem_dropCopies.1 hx).1, fun pl' hpl' x hx => ?_⟩
    cases hpl.symm.trans hpl'
    intro ⟨hl1, hunit, hplace⟩
    exact (mem_dropCopies.1 hx).2 ⟨by simp [hl1, hunit], hplace⟩
  next k hk => exact ⟨_, rfl, fun _ h => h, fun pl hpl => nomatch hk.symm.trans hpl⟩

theorem State.foldl_letsGo_spec (w : Wave) (gs : List PLine) (s : State) :
    ∃ copies, gs.foldl (State.letsGo w) s = { s with mem := { s.mem with copies := copies } }
    ∧ (∀ x ∈ copies, x ∈ s.mem.copies)
    ∧ ∀ p ∈ gs, ∀ pl, s.translate w.core (s.partOfWave w.wid) .load (64 * p.line) = .ok pl →
      ∀ x ∈ copies, ¬(x.l1 = true ∧ x.unit = w.core ∧ x.space = pl.space ∧ x.line = pl.pa / 64) := by
  induction gs generalizing s with
  | nil => exact ⟨_, rfl, fun _ h => h, fun p hp => absurd hp List.not_mem_nil⟩
  | cons p gs ih =>
    obtain ⟨copies, heq, hsub, hdrop⟩ := s.letsGo_spec w p
    obtain ⟨copies', heq', hsub', hdrop'⟩ := ih (s.letsGo w p)
    rw [heq] at heq' hsub' hdrop'
    refine ⟨copies', by rw [List.foldl_cons, heq, heq'], fun x hx => hsub x (hsub' x hx), fun q hq pl hpl x hx => ?_⟩
    rcases List.mem_cons.1 hq with rfl | hq
    · exact hdrop pl hpl x (hsub' x hx)
    · exact hdrop' q hq pl ((State.SameTables.translate ⟨rfl, rfl, rfl, rfl⟩ ..).trans hpl) x hx

/-- The clean copies that are left, at the next moment and with other waves' open commits marked. -/
theorem State.clears_of {s t : State} {w : Wave} {ls : List PLine} {g : Wave → Wave} (hg : ∀ y, ∃ st, g y = { y with staged := st })
    (ht : t = { s.tickNow.dropOwn w ls with waves := s.waves.map g }) : s.Clears w ls t := by
  obtain ⟨copies, heq, hsub, hdrop⟩ := State.foldl_letsGo_spec w (ls.filter (fun p => !p.scr)) s.tickNow
  rw [State.dropOwn_eq, heq] at ht
  subst ht
  refine ⟨⟨copies, g, rfl, hg⟩, hsub, fun p hp hscr pl hpl => ?_⟩
  exact hdrop p (List.mem_filter.2 ⟨hp, by simp [hscr]⟩) pl ((State.SameTables.translate ⟨rfl, rfl, rfl, rfl⟩ ..).trans hpl)

theorem State.dropOwn_waves (s : State) (w : Wave) (ls : List PLine) : (s.dropOwn w ls).waves = s.waves := by
  obtain ⟨copies, heq, -⟩ := State.foldl_letsGo_spec w (ls.filter (fun p => !p.scr)) s
  rw [State.dropOwn_eq, heq]

theorem State.unstage_clears (s : State) (w : Wave) (ls : List PLine) : s.Clears w ls ((s.tickNow.dropOwn w ls).unstage w ls) := by
  refine State.clears_of (g := fun x => if x.blk = w.blk && !x.staged.isEmpty then
    { x with staged := x.staged.map (fun t => { t with live := t.live &&& ~~~(bytesAt ls t.line) }) } else x) (fun y => ?_) ?_
  · split
    · exact ⟨_, rfl⟩
    · exact ⟨y.staged, rfl⟩
  · rw [State.unstage, State.dropOwn_waves]
    rfl

theorem State.unstageCluster_clears (s : State) (w : Wave) (ls : List PLine) (b : Block) (size : Nat) (buf : List PLine) :
    s.Clears w ls ((s.tickNow.dropOwn w ls).unstageCluster b size buf) := by
  unfold State.unstageCluster
  refine State.clears_of (fun y => ?_) (by rw [State.dropOwn_waves]; rfl)
  split
  · exact ⟨y.staged, rfl⟩
  · exact ⟨_, rfl⟩

/-! ## The blocks of an update -/

theorem State.block?_updBlock_other {s : State} {k j : Nat} (h : k ≠ j) {f : Block → Block} (hf : ∀ x, (f x).uid = x.uid) :
    (s.updBlock j f).block? k = s.block? k := by
  rw [State.block?, State.updBlock_blocks, find?_map_of_keeps (fun x => by split <;> simp [hf]), ← State.block?]
  cases hb : s.block? k with
  | none => rfl
  | some b =>
    have hk : b.uid = k := by simpa using List.find?_some hb
    rw [Option.map_some, if_neg (by rw [hk]; exact h)]

/-! ## What a commit to wave, block or cluster level leaves (R148, R149, R151) -/

/-- The wave and block of a commit at its level, and what it leaves alone. -/
structure Cx.CommitMoves (c : Cx) (lvl : Nat) (t : State) : Prop where
  wave : ∃ buf staged, t.wave? c.wid = some { c.w with buf := buf, staged := staged } ∧ bufLines buf = []
  block : ∃ b, t.block? c.w.blk = some b ∧ b.grid = c.b.grid ∧ b.lin = c.b.lin ∧ b.scr = c.b.scr.writeLines (scrLines c.w)
    ∧ b.members = c.b.members ∧ b.bars = c.b.bars ∧ b.engineOwned = c.b.engineOwned
    ∧ b.lines = (if lvl ≤ 1 then mergeLines c.b.lines (globLines c.w) else [])
    ∧ b.bconf = (if lvl = 0 then (if c.b.conflicts c.wid (bufLines c.w.buf) then bconfConflict c.b.bconf else c.b.bconf) else bconfClear c.b.bconf)
    ∧ (1 ≤ lvl → b.owners = [])
  cluster : lvl = 2 → t.clusterLines c.b = mergeLines (c.s.clusterLines c.b) (c.s.pathLines c.w c.b 2)
  mem : ∃ copies hbm, t.mem = { c.s.mem with copies := copies, hbm := hbm } ∧ (logging (c.s.part c.part) = false → hbm = c.s.mem.hbm)
  sub : ∀ x ∈ t.mem.copies, x ∈ c.s.mem.copies
  dropped : ∀ p ∈ c.s.pathLines c.w c.b lvl, p.scr = false → ∀ pl,
    c.s.translate c.w.core (c.s.partOfWave c.wid) .load (64 * p.line) = .ok pl →
    ∀ x ∈ t.mem.copies, ¬(x.l1 = true ∧ x.unit = c.w.core ∧ x.space = pl.space ∧ x.line = pl.pa / 64)
  others : ∀ k, k ≠ c.wid → (t.wave? k).map (fun v => { v with staged := [] }) = (c.s.wave? k).map (fun v => { v with staged := [] })
  blocks : ∀ k, k ≠ c.w.blk → t.block? k = c.s.block? k
  grids : t.grids = c.s.grids

/-- What the lines of a path to block level are. -/
theorem mem_mergeLines {ls new : List PLine} {p : PLine} (h : p ∈ mergeLines ls new) :
    ∃ q, (q ∈ ls ∨ q ∈ new) ∧ q.scr = p.scr ∧ q.line = p.line := by
  induction new generalizing ls with
  | nil => exact ⟨p, .inl h, rfl, rfl⟩
  | cons x new ih =>
    obtain ⟨q, hq, hscr, hline⟩ := ih (ls := mergeLine ls x) h
    rcases hq with hq | hq
    · rw [mergeLine] at hq
      split at hq
      · obtain ⟨r, hr, rfl⟩ := List.mem_map.1 hq
        refine ⟨r, .inl hr, ?_, ?_⟩
        · rw [← hscr]; split <;> rfl
        · rw [← hline]; split <;> rfl
      · rcases List.mem_append.1 hq with hq | hq
        · exact ⟨q, .inl hq, hscr, hline⟩
        · exact ⟨q, .inr (List.mem_singleton.1 hq ▸ List.mem_cons_self), hscr, hline⟩
    · exact ⟨q, .inr (List.mem_cons_of_mem _ hq), hscr, hline⟩

theorem mergeLine_ne_nil (ls : List PLine) (p : PLine) : mergeLine ls p ≠ [] := by
  rw [mergeLine]
  split
  next h =>
    intro hnil
    rw [List.map_eq_nil_iff.1 hnil] at h
    cases h
  next => simp

theorem mergeLines_eq_nil {ls new : List PLine} (h : mergeLines ls new = []) : ls = [] ∧ new = [] := by
  induction new generalizing ls with
  | nil => exact ⟨h, rfl⟩
  | cons x new ih => exact absurd (ih (ls := mergeLine ls x) h).1 (mergeLine_ne_nil ls x)

theorem bufLines_eq_nil_of {w : Wave} (hglob : globLines w = []) (hscr : scrLines w = []) : bufLines w.buf = [] := by
  refine List.eq_nil_iff_forall_not_mem.2 fun p hp => ?_
  cases h : p.scr with
  | true => exact List.filter_eq_nil_iff.1 hscr p hp h
  | false => exact List.filter_eq_nil_iff.1 hglob p hp (by simp [h])

/-- A machine with a wave's lines about to move: its wave found, with its open commit marked. -/
theorem State.Clears.wave? {s t : State} {w : Wave} {ls : List PLine} (h : s.Clears w ls t) {k : Nat} {x : Wave} (hx : s.wave? k = some x) :
    ∃ st, t.wave? k = some { x with staged := st } := by
  obtain ⟨copies, g, rfl, hg⟩ := h.eq
  obtain ⟨st, hst⟩ := hg x
  refine ⟨st, ?_⟩
  rw [← hst]
  have hwid (y : Wave) : (g y).wid = y.wid := by
    obtain ⟨_, h⟩ := hg y
    rw [h]
  exact (find?_map_of_keeps (fun y => by rw [hwid]) s.waves).trans (congrArg (Option.map g) hx)

theorem State.Clears.others {s t : State} {w : Wave} {ls : List PLine} (h : s.Clears w ls t) (k : Nat) :
    (t.wave? k).map (fun v => { v with staged := [] }) = (s.wave? k).map (fun v => { v with staged := [] }) := by
  obtain ⟨copies, g, rfl, hg⟩ := h.eq
  have hwid (y : Wave) : (g y).wid = y.wid := by
    obtain ⟨_, h⟩ := hg y
    rw [h]
  have hfind : (({ s with now := s.now + 1, waves := s.waves.map g, mem := { s.mem with copies := copies } } : State).wave? k)
      = (s.wave? k).map g := find?_map_of_keeps (fun y => by rw [hwid]) s.waves
  rw [hfind, Option.map_map]
  congr 1
  funext y
  obtain ⟨_, h⟩ := hg y
  simp only [Function.comp_apply, h]

section
variable {c : Cx}

/-- A commit whose step is logged leaves what it left before. -/
theorem Cx.CommitMoves.logEntry (hg : c.s.grid? c.b.grid = some c.g) {lvl : Nat} {t : State} (h : c.CommitMoves lvl t) (hparts : t.parts = c.s.parts) (x : LogEntry) :
    c.CommitMoves lvl (t.logEntry (t.partOfWave c.wid) x) := by
  obtain ⟨⟨buf, staged, hwave, hbuf⟩, ⟨b, hblock, hgrid, hlin, hrest⟩, hcluster, ⟨copies, hbm, hmem, hquiet⟩, hsub, hdropped, hothers, hblocks, hgrids⟩ := h
  have hsame := t.logEntry_sameLevels (t.partOfWave c.wid) x
  obtain ⟨hbm', hmem', hquiet'⟩ := t.logEntry_mem (t.partOfWave c.wid) x
  have hwaves := t.logEntry_waves (t.partOfWave c.wid) x
  have hpart : t.partOfWave c.wid = c.part := by
    refine State.partOfWave_eq hwave hblock ?_
    rw [hgrid, State.grid?, hgrids]
    exact hg
  have hfind (k : Nat) : (t.logEntry (t.partOfWave c.wid) x).wave? k = t.wave? k := by rw [State.wave?, hwaves]; rfl
  have hfindb (k : Nat) : (t.logEntry (t.partOfWave c.wid) x).block? k = t.block? k := by rw [State.block?, hsame.blocks]; rfl
  refine ⟨⟨buf, staged, (hfind _).trans hwave, hbuf⟩, ⟨b, (hfindb _).trans hblock, hgrid, hlin, hrest⟩, fun hlvl => ?_,
    ⟨copies, hbm', ?_, fun hq => ?_⟩, fun y hy => ?_, fun p hp hscr pl hpl y hy => ?_, fun k hk => ?_, fun k hk => ?_, hsame.grids.trans hgrids⟩
  · rw [State.clusterLines_congr hsame.grids hsame.clusters rfl rfl]
    exact hcluster hlvl
  · rw [hmem', hmem]
  · rw [hquiet' (by rw [hpart, State.part, hparts]; exact hq), hmem]
    exact hquiet hq
  · rw [hmem'] at hy
    exact hsub y hy
  · rw [hmem'] at hy
    exact hdropped p hp hscr pl hpl y hy
  · rw [hfind]
    exact hothers k hk
  · rw [hfindb]
    exact hblocks k hk

/-- A commit of an empty buffer to wave level moves nothing. -/
theorem Cx.moves_empty (hw : c.s.wave? c.wid = some c.w) (hb : c.s.block? c.w.blk = some c.b) (hglob : globLines c.w = [])
    (hscr : scrLines c.w = []) : c.CommitMoves 0 c.s := by
  have hbuf := bufLines_eq_nil_of hglob hscr
  have hpath : c.s.pathLines c.w c.b 0 = [] := by rw [State.pathLines, hglob]; rfl
  refine ⟨⟨c.w.buf, c.w.staged, hw, hbuf⟩, ⟨c.b, hb, rfl, rfl, by rw [hscr]; rfl, rfl, rfl, rfl, by rw [hglob]; rfl, by rw [hbuf]; rfl, by omega⟩,
    by omega, ⟨_, _, rfl, fun _ => rfl⟩, fun _ h => h, fun p hp => ?_, fun _ _ => rfl, fun _ _ => rfl, rfl⟩
  rw [hpath] at hp
  exact absurd hp List.not_mem_nil

theorem Block.takes_rest (wid : Nat) (ls : List PLine) (b : Block) : (b.takes wid ls).members = b.members ∧ (b.takes wid ls).bars = b.bars
    ∧ (b.takes wid ls).engineOwned = b.engineOwned
    ∧ (b.takes wid ls).bconf = if b.conflicts wid ls then bconfConflict b.bconf else b.bconf := by
  rw [Block.takes]
  split <;> exact ⟨rfl, rfl, rfl, rfl⟩

/-- A buffer that moves to block level. -/
theorem Cx.moves_toBlockLevel (hw : c.s.wave? c.wid = some c.w) (hb : c.s.block? c.w.blk = some c.b) :
    c.CommitMoves 0 (c.s.toBlockLevel c.w (bufLines c.w.buf)) := by
  have hclears := c.s.unstage_clears c.w (bufLines c.w.buf)
  rw [State.toBlockLevel_eq]
  generalize (c.s.tickNow.dropOwn c.w (bufLines c.w.buf)).unstage c.w (bufLines c.w.buf) = u at hclears
  obtain ⟨staged, hwave⟩ := hclears.wave? hw
  obtain ⟨copies, g, hu, -⟩ := hclears.eq
  have hbu : u.block? c.w.blk = some c.b := by rw [hu]; exact hb
  have hname := Block.takes_name c.w.wid (bufLines c.w.buf)
  obtain ⟨hgrid, hlin⟩ := (hname c.b).2
  obtain ⟨hmembers, hbars, howned, hbconf⟩ := Block.takes_rest c.w.wid (bufLines c.w.buf) c.b
  have hmem : u.mem = { c.s.mem with copies := copies } := by rw [hu]
  refine ⟨⟨_, staged, State.wave?_updWave_self (x := { c.w with staged := staged }) hwave, ?_⟩, ⟨_, State.block?_updBlock_same hbu fun x => (hname x).1, hgrid, hlin, Block.takes_scr ..,
    hmembers, hbars, howned, Block.takes_lines .., hbconf, by omega⟩, by omega, ⟨copies, c.s.mem.hbm, hmem, fun _ => rfl⟩, hclears.sub,
    fun p hp hscr pl hpl => ?_, fun k hk => ?_, fun k hk => ?_, by rw [State.updWave_grids, State.updBlock_grids, hu]⟩
  · refine (Wave.bufLines_dropLines _ _).trans (List.filter_eq_nil_iff.2 fun p hp => ?_)
    simpa using ⟨p, hp, rfl, rfl⟩
  · obtain ⟨q, hq, hqscr, hline⟩ := mem_mergeLines hp
    have hq := hq.resolve_left List.not_mem_nil
    exact hclears.dropped q (List.mem_of_mem_filter hq) (hqscr.trans hscr) pl (by rw [hline]; exact hpl)
  · rw [State.wave?_updWave_ne (w := c.w.wid) hk]
    exact hclears.others k
  · refine (State.block?_updBlock_other (s := u) hk fun x => (hname x).1).trans ?_
    rw [hu]
    rfl

/-- The lines that a commit counts. -/
def Cx.commitCount (c : Cx) (lvl : Nat) : Nat := (c.s.pathLines c.w c.b lvl).length + (scrLines c.w).length

theorem Cx.empty_of_count {lvl : Nat} (h : c.commitCount lvl = 0) : globLines c.w = [] ∧ scrLines c.w = [] := by
  rw [Cx.commitCount, Nat.add_eq_zero_iff, List.length_eq_zero_iff, List.length_eq_zero_iff] at h
  exact ⟨(mergeLines_eq_nil h.1).2, h.2⟩

/-- A commit to wave level, logged. -/
theorem Cx.moves_buffer (hw : c.s.wave? c.wid = some c.w) (hb : c.s.block? c.w.blk = some c.b) (hg : c.s.grid? c.b.grid = some c.g) {lvl : Nat} :
    c.CommitMoves 0 (c.bufferMoved (c.commitCount lvl)) := by
  rw [Cx.bufferMoved]
  split
  next h =>
    obtain ⟨hglob, hscr⟩ := Cx.empty_of_count h
    exact Cx.moves_empty hw hb hglob hscr
  next =>
    have hmoves := Cx.moves_toBlockLevel hw hb
    obtain ⟨copies, g, hu, -⟩ := (c.s.unstage_clears c.w (bufLines c.w.buf)).eq
    rw [State.logBlock]
    split
    · exact hmoves
    · exact hmoves.logEntry hg (by rw [State.toBlockLevel_eq, hu]; rfl) _

/-- A new interval of the block after a commit to wave level is one to block level. -/
theorem Cx.CommitMoves.reopened {t : State} (h : c.CommitMoves 0 t) : c.CommitMoves 1 (t.updBlock c.w.blk (Block.reopened c.b.bconf)) := by
  obtain ⟨hwave, ⟨b, hblock, hgrid, hlin, hscr, hmembers, hbars, howned, hlines, -, -⟩, -, hmem, hsub, hdropped, hothers, hblocks, hgrids⟩ := h
  exact ⟨hwave, ⟨_, State.block?_updBlock_same hblock fun _ => rfl, hgrid, hlin, hscr, hmembers, hbars, howned, hlines, rfl, fun _ => rfl⟩,
    by omega, hmem, hsub, hdropped, hothers, fun k hk => (State.block?_updBlock_other (f := Block.reopened c.b.bconf) hk fun _ => rfl).trans (hblocks k hk),
    hgrids⟩

/-- A commit to cluster level. -/
theorem Cx.moves_path (hw : c.s.wave? c.wid = some c.w) (hb : c.s.block? c.w.blk = some c.b) (hclus : (c.s.cluster? c.b).isSome = true) :
    c.CommitMoves 2 c.pathMoved := by
  have hclears := c.s.unstageCluster_clears c.w (c.s.pathLines c.w c.b 2) c.b (c.lrec.cluster + 1) (globLines c.w)
  rw [Cx.pathMoved]
  generalize (c.s.tickNow.dropOwn c.w (c.s.pathLines c.w c.b 2)).unstageCluster c.b (c.lrec.cluster + 1) (globLines c.w) = u at hclears
  obtain ⟨staged, hwave⟩ := hclears.wave? hw
  obtain ⟨copies, g, hu, -⟩ := hclears.eq
  have hbu : u.block? c.w.blk = some c.b := by rw [hu]; exact hb
  have hcu : u.clusterLines c.b = c.s.clusterLines c.b := by rw [hu]; rfl
  have hcs : ((u.updBlock c.w.blk (Block.emptied (scrLines c.w))).cluster? c.b).isSome = true := by rw [hu]; exact hclus
  obtain ⟨hcwaves, hcblocks, hcgrids⟩ := (u.updBlock c.w.blk (Block.emptied (scrLines c.w))).updCluster_frame c.b (Cluster.takes (c.s.pathLines c.w c.b 2))
  have hcmem : ((u.updBlock c.w.blk (Block.emptied (scrLines c.w))).updCluster c.b (Cluster.takes (c.s.pathLines c.w c.b 2))).mem = u.mem := by
    rw [State.updCluster]
    split <;> rfl
  have hcl := State.clusterLines_updCluster hcs (f := Cluster.takes (c.s.pathLines c.w c.b 2)) (fun _ => ⟨rfl, rfl⟩)
    (g := fun ls => mergeLines ls (c.s.pathLines c.w c.b 2)) (fun _ => rfl)
  generalize hv : (u.updBlock c.w.blk (Block.emptied (scrLines c.w))).updCluster c.b (Cluster.takes (c.s.pathLines c.w c.b 2)) = v at *
  have hvw (k : Nat) : v.wave? k = u.wave? k := by rw [State.wave?, hcwaves]; rfl
  have hvb (k : Nat) : v.block? k = (u.updBlock c.w.blk (Block.emptied (scrLines c.w))).block? k := by rw [State.block?, hcblocks]; rfl
  have hmem : v.mem = { c.s.mem with copies := copies } := by rw [hcmem, hu]
  refine ⟨⟨_, staged, State.wave?_updWave_self ((hvw _).trans hwave), bufLines_replicate_none 64⟩,
    ⟨_, (hvb _).trans (State.block?_updBlock_same hbu fun _ => rfl), rfl, rfl, rfl, rfl, rfl, rfl, rfl, rfl, fun _ => rfl⟩, fun _ => ?_,
    ⟨copies, c.s.mem.hbm, hmem, fun _ => rfl⟩, fun x hx => ?_, fun p hp hscr pl hpl x hx => ?_, fun k hk => ?_, fun k hk => ?_, ?_⟩
  · exact hcl.trans (congrArg (mergeLines · _) hcu)
  · exact hclears.sub x (hcmem ▸ hx)
  · exact hclears.dropped p hp hscr pl hpl x (hcmem ▸ hx)
  · rw [State.wave?_updWave_ne (w := c.w.wid) hk, hvw]
    exact hclears.others k
  · refine (hvb k).trans ((State.block?_updBlock_other (f := Block.emptied (scrLines c.w)) hk fun _ => rfl).trans ?_)
    rw [hu]
    rfl
  · rw [State.updWave_grids, hcgrids, State.updBlock_grids, hu]

end

section
variable {c : Cx}

/-- A wave's scratchpad lines lie in a tile that an engine owns. -/
def Cx.ownedTile (c : Cx) : Bool := (scrLines c.w).any (fun p => c.b.engineOwns (p.line / 64))

theorem Cx.commitStart_owned {lvl : Nat} (h : c.ownedTile = true) : c.commitStart lvl = .error c.waitOwner :=
  if_pos (by rw [tilesOf, List.any_map]; exact h)

theorem Cx.commitStart_noRoom {lvl : Nat} (h : c.ownedTile = false) (hroom : c.noRoom lvl (c.s.pathLines c.w c.b lvl) = true) :
    c.commitStart lvl = .error (.trap (c.all 9#6)) :=
  (if_neg (by rw [tilesOf, List.any_map]; exact Bool.eq_false_iff.1 h)).trans (if_pos hroom)

/-- The move of a commit to wave, block or cluster level. -/
def Cx.moved (c : Cx) (lvl : Nat) : State :=
  if lvl = 0 then c.bufferMoved (c.commitCount lvl)
  else if lvl = 1 then (c.bufferMoved (c.commitCount lvl)).updBlock c.w.blk (Block.reopened c.b.bconf)
  else if c.commitCount lvl = 0 then c.pathMoved else c.pathMoved.logCluster c.w 1 (c.commitCount lvl)

theorem Cx.commitStart_moved {lvl : Nat} (h : c.ownedTile = false) (hroom : c.noRoom lvl (c.s.pathLines c.w c.b lvl) = false)
    (hlog : c.mayLog 1 = true) (hlvl : lvl ≤ 2) : c.commitStart lvl = .ok (c.moved lvl) := by
  refine (if_neg (by rw [tilesOf, List.any_map]; exact Bool.eq_false_iff.1 h)).trans ((if_neg (by rw [hroom]; decide)).trans
    ((if_neg (by rw [hlog]; simp)).trans ?_))
  obtain rfl | rfl | rfl : lvl = 0 ∨ lvl = 1 ∨ lvl = 2 := by omega
  all_goals rfl

theorem Cx.moves (hw : c.s.wave? c.wid = some c.w) (hb : c.s.block? c.w.blk = some c.b) (hg : c.s.grid? c.b.grid = some c.g) {lvl : Nat}
    (hlvl : lvl ≤ 2) (hclus : lvl = 2 → (c.s.cluster? c.b).isSome = true) : c.CommitMoves lvl (c.moved lvl) := by
  obtain rfl | rfl | rfl : lvl = 0 ∨ lvl = 1 ∨ lvl = 2 := by omega
  · exact Cx.moves_buffer hw hb hg
  · exact (Cx.moves_buffer hw hb hg).reopened
  · have hmoves := Cx.moves_path hw hb (hclus rfl)
    rw [Cx.moved, if_neg (by decide), if_neg (by decide)]
    split
    · exact hmoves
    · rw [State.logCluster]
      split
      · exact hmoves
      · split
        · exact hmoves
        · refine hmoves.logEntry hg ?_ _
          obtain ⟨copies, g, hu, -⟩ := (c.s.unstageCluster_clears c.w (c.s.pathLines c.w c.b 2) c.b (c.lrec.cluster + 1) (globLines c.w)).eq
          rw [Cx.pathMoved, hu, State.updWave_parts, State.updCluster]
          split <;> rfl

/-- A commit to wave, block or cluster level that moves its lines goes on at once. -/
theorem Cx.commit_moved {lvl : Nat} {k : State → Res} {t : State} {y : Wave} (hstage : c.w.stage = 0) (ht : c.commitStart lvl = .ok t)
    (hlvl : lvl ≤ 2) (hy : t.wave? c.wid = some y) : c.commit lvl k = k t := by
  rw [Cx.commit, if_neg (by omega), if_pos hstage, ht]
  simp only [Cx.commitRest, hy, if_pos (show lvl < 3 by omega)]

theorem Cx.commit_error {lvl : Nat} {k : State → Res} {r : Res} (hstage : c.w.stage = 0) (ht : c.commitStart lvl = .error r) :
    c.commit lvl k = r := by
  rw [Cx.commit, if_neg (by omega), if_pos hstage, ht]

theorem Cx.after_eq (c : Cx) (t : State) : c.after t = t.updWave c.wid (fun w => w.goesOn (nextPc c.w c.e) t.clk) := rfl

theorem Cx.setK_updWave (c : Cx) (f : Wave → Wave) (x : Word) (hf : ∀ y, (f y).wid = y.wid := by exact fun _ => rfl) :
    c.setK (c.s.updWave c.wid f) x = c.s.updWave c.wid (fun w => (f w).write c.e.dst false 0 x.toNat) :=
  State.updWave_updWave _ _ _ _ hf

/-- What a step logged at one of a wave's levels leaves alone. -/
structure State.LoggedFor (s : State) (wid : Nat) (t : State) : Prop where
  waves : t.waves = s.waves
  blocks : t.blocks = s.blocks
  clusters : t.clusters = s.clusters
  grids : t.grids = s.grids
  clk : t.clk = s.clk
  mem : logging (s.part (s.partOfWave wid)) = false → t.mem = s.mem

theorem State.LoggedFor.refl (s : State) (wid : Nat) : s.LoggedFor wid s := ⟨rfl, rfl, rfl, rfl, rfl, fun _ => rfl⟩

theorem State.logEntry_clk (s : State) (p : Nat) (x : LogEntry) : (s.logEntry p x).clk = s.clk := by
  simp only [State.logEntry]
  split
  · split <;> rfl
  · split <;> rfl

theorem State.logEntry_loggedFor (s : State) (wid : Nat) (x : LogEntry) : s.LoggedFor wid (s.logEntry (s.partOfWave wid) x) := by
  have hsame := s.logEntry_sameLevels (s.partOfWave wid) x
  obtain ⟨hbm, hmem, hquiet⟩ := s.logEntry_mem (s.partOfWave wid) x
  exact ⟨s.logEntry_waves _ _, hsame.blocks, hsame.clusters, hsame.grids, s.logEntry_clk _ _, fun h => by rw [hmem, hquiet h]⟩

theorem State.logBlock_loggedFor (s : State) (w : Wave) (kind count : Nat) : s.LoggedFor w.wid (s.logBlock w kind count) := by
  rw [State.logBlock]
  split
  · exact .refl s _
  · exact s.logEntry_loggedFor _ _

theorem State.logCluster_loggedFor (s : State) (w : Wave) (kind count : Nat) : s.LoggedFor w.wid (s.logCluster w kind count) := by
  rw [State.logCluster]
  split
  · exact .refl s _
  · split
    · exact .refl s _
    · exact s.logEntry_loggedFor _ _

/-- A wave that goes on after a logged step. -/
theorem State.LoggedFor.wave?_after {s t : State} (h : s.LoggedFor c.wid t) (hw : s.wave? c.wid = some c.w) :
    (c.after t).wave? c.wid = some (c.w.goesOn (nextPc c.w c.e) s.clk) := by
  rw [Cx.after_eq, ← h.clk]
  refine State.wave?_updWave_self ?_
  rw [State.wave?, h.waves]
  exact hw

/-- A wave's partition is its grid's, wherever waves, blocks and grids are named as at its instruction. -/
theorem Cx.partOfWave_eq {t : State} (hw : c.s.wave? c.wid = some c.w) (hg : c.s.grid? c.b.grid = some c.g) (hwaves : t.waves = c.s.waves)
    (hgrids : t.grids = c.s.grids) {b : Block} (hb : t.block? c.w.blk = some b) (hgrid : b.grid = c.b.grid) : t.partOfWave c.wid = c.part := by
  refine State.partOfWave_eq (w := c.w) ?_ hb ?_
  · rw [State.wave?, hwaves]
    exact hw
  · rw [hgrid, State.grid?, hgrids]
    exact hg

end

section
variable {e : Enc} {s : State} {c : Cx}

theorem exec_abort_block (hi : Issued 0x72 e s c) (hscope : scopeCode e = 1) (hlog : c.mayLog 2 = true) :
    exec (.abortOp e) s = .next (c.after ((c.s.abortBlock c.w).logBlock c.w 2 c.b.lines.length)) := by
  rw [exec_abortOp, execAbortOp, simt_issued hi]
  simp only [hscope, hlog, if_true]
  rfl

theorem exec_abort_cluster (hi : Issued 0x72 e s c) (hscope : scopeCode e = 2) (hlog : c.mayLog 2 = true) :
    exec (.abortOp e) s = .next (c.after ((c.s.abortCluster c.b).logCluster c.w 2 (c.s.clusterLines c.b).length)) := by
  rw [exec_abortOp, execAbortOp, simt_issued hi]
  simp only [hscope, hlog, if_true]
  rfl

/-- No clean copy from before an acquire is left for a home that it covers. -/
theorem State.cleanCopy_ne_of_acquired {t : State} {y : Wave} {r : LineRef} {x : Copy} {now : Nat}
    (hmark : (if r.space = .hbm then y.acqDev else y.acqSys) = now + 1) (hfill : x.fill ≤ now) : t.cleanCopy y r ≠ some x := by
  intro h
  have := List.find?_some h
  simp only [hmark, Bool.and_eq_true, decide_eq_true_eq] at this
  omega

end

end Sys2Proof.Machine

namespace Sys2Proof.Proofs

open Sys2Proof Sys2Proof.Machine

/-- Settles O29: the move of a commit is followed step by step to what it leaves of its wave and block; an abort and an acquire are one
update each. -/
theorem commitsAbortsAndAcquires : Obligations.CommitsAbortsAndAcquires := by
  unfold Obligations.CommitsAbortsAndAcquires
  refine ⟨?commits, ?others⟩
  case commits =>
    intro e s c hi hstage hb lvl glob scr held tiles clash
    have hw := (seenAt_of_issued hi).wave
    refine ⟨fun hheld => ?_, fun hheld hroom => ?_, fun hheld hroom hlog hle hclus => ?_⟩
    · refine (exec_issued (exec_commit e s) hi (Cx.commit_error hstage (Cx.commitStart_owned hheld))).trans ?_
      simp [Cx.waitOwner, Res.finish, hstage]
    · exact exec_issued (exec_commit e s) hi (Cx.commit_error hstage (Cx.commitStart_noRoom hheld hroom))
    · obtain ⟨⟨buf, staged, hwave, hbuf⟩, ⟨b, hblock, hgrid, hlin, hrest⟩, hcluster, ⟨copies, hbm, hmem, hquiet⟩, hsub, hdropped, hothers, hblocks, hgrids⟩ :=
        Cx.moves hw hb (grid?_of_issued hi) hle hclus
      have hexec := exec_issued (exec_commit e s) hi (Cx.commit_moved hstage (Cx.commitStart_moved hheld hroom hlog hle) hle hwave)
      obtain ⟨hscr, hmembers, hbars, howned, hlines, hbconf, howners⟩ := hrest
      have hafter : (c.after (c.moved lvl)).mem = { c.s.mem with copies := copies, hbm := hbm } := hmem
      refine ⟨c.after (c.moved lvl), _, b, hexec, State.wave?_updWave_self hwave, hblock, by rw [← issued_e hi], hbuf, rfl, rfl, rfl, rfl, rfl, rfl,
        hscr, hmembers, hbars, howned, hlines, hbconf, howners, fun h2 => ?_, by rw [hafter], by rw [hafter], by rw [hafter], fun hq => ?_, hsub,
        hdropped, fun k hk => ?_, hblocks, hgrids⟩
      · rw [← show c.s.pathLines c.w c.b 2 = mergeLines (mergeLines [] c.b.lines) glob from rfl, ← hcluster h2]
        exact State.clusterLines_congr rfl rfl hgrid hlin
      · rw [hafter, hquiet hq]
      · rw [← hothers k hk, Cx.after_eq, State.wave?_updWave_ne hk]
  case others =>
    intro e clash empty
    refine ⟨ends_of rfl (exec_commitX e) ?discards, fun s1 => ends_of rfl (exec_commitX e) ?keeps, ends_of rfl (exec_abortOp e) ?abort, ?abortBlock,
      ?abortCluster, ?acquires⟩
    case discards =>
      rintro c rfl hclash
      exact (if_pos hclash).trans (congrArg Res.done (c.setK_updWave _ _))
    case keeps =>
      rintro c rfl ⟨hclash, hstage, hstart, hsome⟩
      obtain ⟨y, hy⟩ := Option.isSome_iff_exists.1 hsome
      exact (if_neg (Bool.eq_false_iff.1 hclash)).trans (Cx.commit_moved hstage hstart (by decide) hy)
    case abort =>
      rintro c - hscope
      have hscope : scopeCode e = 0 := hscope
      simp only [hscope]
      rfl
    case abortBlock =>
      intro s c hi hscope hlog hb
      have hw := (seenAt_of_issued hi).wave
      have hlogged := (c.s.abortBlock c.w).logBlock_loggedFor c.w 2 c.b.lines.length
      have hb' : (c.s.abortBlock c.w).block? c.w.blk = some _ := State.block?_updBlock_same (s := c.s.tickNow) hb fun _ => rfl
      refine ⟨_, _, exec_abort_block hi hscope hlog, ?_, rfl, ?_, hlogged.clusters, fun hq => hlogged.mem ?_⟩
      · refine Eq.trans ?_ hb'
        simp only [State.block?, Cx.after_eq, State.updWave_blocks, hlogged.blocks]
      · rw [hlogged.wave?_after hw, hw, issued_e hi]
        rfl
      · rw [show (c.s.abortBlock c.w).partOfWave c.w.wid = c.part from
          Cx.partOfWave_eq (t := c.s.abortBlock c.w) hw (grid?_of_issued hi) rfl rfl hb' rfl]
        exact hq
    case abortCluster =>
      intro s c x hi hscope hlog hb hx
      have hw := (seenAt_of_issued hi).wave
      have hlogged := (c.s.abortCluster c.b).logCluster_loggedFor c.w 2 (c.s.clusterLines c.b).length
      obtain ⟨hwaves, hblocks, hgrids⟩ := c.s.tickNow.updCluster_frame c.b (fun c => { c with lines := [], seq := c.seq + 1 })
      have hmem : (c.s.abortCluster c.b).mem = c.s.mem ∧ (c.s.abortCluster c.b).parts = c.s.parts ∧ (c.s.abortCluster c.b).clk = c.s.clk := by
        rw [State.abortCluster, State.updCluster]
        split <;> exact ⟨rfl, rfl, rfl⟩
      obtain ⟨hmem, hparts, hclk⟩ := hmem
      have hw' : (c.s.abortCluster c.b).wave? c.wid = some c.w := by
        rw [State.wave?, State.abortCluster, hwaves]
        exact hw
      have hb' : (c.s.abortCluster c.b).block? c.w.blk = some c.b := by
        rw [State.block?, State.abortCluster, hblocks]
        exact hb
      refine ⟨_, exec_abort_cluster hi hscope hlog, ?_, hlogged.blocks.trans hblocks, ?_, fun hq => (hlogged.mem ?_).trans hmem⟩
      · refine (State.clusterLines_congr hlogged.grids hlogged.clusters rfl rfl).trans ?_
        exact State.clusterLines_updCluster (s := c.s.tickNow) (Option.isSome_iff_exists.2 ⟨x, hx⟩) 
          (f := fun c => { c with lines := [], seq := c.seq + 1 }) (fun _ => ⟨rfl, rfl⟩) (g := fun _ => []) fun _ => rfl
      · rw [hlogged.wave?_after hw', hw, issued_e hi, hclk]
        rfl
      · rw [show (c.s.abortCluster c.b).partOfWave c.w.wid = c.part from
          Cx.partOfWave_eq hw (grid?_of_issued hi) hwaves hgrids hb' rfl, State.part, hparts]
        exact hq
    case acquires =>
      intro s c hi hw
      have hexec : exec (.acq e) s = .next (c.after (c.s.acquire c.wid (scopeCode e))) := exec_issued (exec_acq e s) hi rfl
      rw [State.acquire] at hexec
      split at hexec
      next hle =>
        refine ⟨_, _, hexec, State.wave?_updWave_self hw, by rw [issued_e hi], rfl, rfl, fun r x hr => by omega, fun _ => ⟨rfl, rfl⟩⟩
      next hgt =>
        refine ⟨_, _, hexec, State.wave?_updWave_self (State.wave?_updWave_self (s := c.s.tickNow) hw), by rw [issued_e hi]; rfl, rfl, rfl,
          fun r x hr hx hfill => State.cleanCopy_ne_of_acquired ?_ hfill, fun h => absurd h hgt⟩
        rcases hr with h4 | ⟨-, hspace⟩
        · simp only [h4, if_true, ite_self]
          rfl
        · rw [if_pos hspace]
          rfl

end Sys2Proof.Proofs

/-! SUPPORT. Loads and prefetch (R142-R147): what a load writes back, ld and gat, the words of a constant window, the elements of a tensor load, caches
of translations that agree with the tables, and the clean copies that pf leaves: the lemmas of O26. -/

namespace Sys2Proof.Machine

open Sys2Proof

/-! ## What a load writes back (R139) -/

theorem Wave.write_congr {w x : Wave} (hv : x.vregs = w.vregs) (hs : x.sregs = w.sregs) (d : BitVec 9) (wide : Bool) (l v : Nat) :
    (x.write d wide l v).vregs = (w.write d wide l v).vregs ∧ (x.write d wide l v).sregs = (w.write d wide l v).sregs := by
  unfold Wave.write
  split
  · cases wide <;> simp [Wave.vset, hv, hs]
  · cases wide <;> simp [Wave.setSpair, Wave.sset, hv, hs]
  · unfold Wave.kset
    split <;> exact ⟨hv, hs⟩
  · exact ⟨hv, hs⟩

theorem Wave.write_eq {d : BitVec 9} (hd : ∀ n, Dst.of d ≠ .k n) (w : Wave) (wide : Bool) (l v : Nat) :
    ∃ vs ss, w.write d wide l v = { w with vregs := vs, sregs := ss } := by
  unfold Wave.write
  split
  · cases wide <;> exact ⟨_, _, rfl⟩
  · cases wide <;> exact ⟨_, _, rfl⟩
  next n h => exact absurd h (hd n)
  · exact ⟨_, _, rfl⟩

/-- What a load writes back is told by its wave's registers. -/
theorem OutLoad.writeBack_congr (o : OutLoad) {w x : Wave} (hv : x.vregs = w.vregs) (hs : x.sregs = w.sregs) :
    (o.writeBack x).vregs = (o.writeBack w).vregs ∧ (o.writeBack x).sregs = (o.writeBack w).sregs := by
  have hfold (ls : List Nat) : (ls.foldl (fun w l => w.write o.dst o.wide l (o.laneValue l)) x).vregs
        = (ls.foldl (fun w l => w.write o.dst o.wide l (o.laneValue l)) w).vregs
      ∧ (ls.foldl (fun w l => w.write o.dst o.wide l (o.laneValue l)) x).sregs
        = (ls.foldl (fun w l => w.write o.dst o.wide l (o.laneValue l)) w).sregs := by
    induction ls generalizing w x with
    | nil => exact ⟨hv, hs⟩
    | cons l ls ih =>
      obtain ⟨hv', hs'⟩ := Wave.write_congr hv hs o.dst o.wide l (o.laneValue l)
      exact ih hv' hs'
  unfold OutLoad.writeBack
  split
  · exact ⟨hv, hs⟩
  · split
    · exact hfold _
    · exact Wave.write_congr hv hs ..

/-- What a load writes back changes its registers and the image of a list alone. -/
theorem OutLoad.writeBack_eq {o : OutLoad} (hd : ∀ n, Dst.of o.dst ≠ .k n) (w : Wave) :
    ∃ vs ss im, o.writeBack w = { w with vregs := vs, sregs := ss, image := im } := by
  unfold OutLoad.writeBack
  split
  · exact ⟨_, _, _, rfl⟩
  · split
    · refine List.foldlRecOn (motive := fun y : Wave => ∃ vs ss im, y = { w with vregs := vs, sregs := ss, image := im }) _ _ ⟨_, _, _, rfl⟩ ?_
      rintro _ ⟨vs, ss, im, rfl⟩ l -
      obtain ⟨vs', ss', hwrite⟩ := Wave.write_eq hd { w with vregs := vs, sregs := ss, image := im } o.wide l (o.laneValue l)
      exact ⟨vs', ss', im, hwrite⟩
    · obtain ⟨vs, ss, hwrite⟩ := Wave.write_eq hd w o.wide 0 (o.laneValue 0)
      exact ⟨vs, ss, w.image, hwrite⟩

/-! ## A load that issues (R142-R146) -/

section
variable {op : Nat} {e : Enc} {s : State} {c : Cx}

/-- The destination of a load is no k register. -/
theorem SeenAt.dst_ne_k (h : SeenAt op e c) (hbr : (opShape op e).branch = false) (hkind : (opShape op e).dst = .v ∨ ∃ w, (opShape op e).dst = .vs w)
    (n : Nat) : Dst.of e.dst ≠ .k n := by
  intro hd
  have hok := h.dstOk hbr
  rcases hkind with hk | ⟨w, hk⟩ <;> simp [Machine.dstOk, hk, hd] at hok

/-- A load that takes its place, from a machine of the same waves, memories, blocks and clusters, has issued. -/
theorem loadIssued_of (hw : c.s.wave? c.wid = some c.w) (he : c.e = e) (hd : ∀ n, Dst.of e.dst ≠ .k n) {u : State} (hwaves : u.waves = c.s.waves)
    (hmem : u.mem = c.s.mem) (hblocks : u.blocks = c.s.blocks) (hclusters : u.clusters = c.s.clusters) {o : OutLoad} (hdst : o.dst = e.dst)
    (hvec : o.vec = c.vec) (hlanes : o.lanes = c.lanes) (scr : Bool) (lines : List Nat) (lvl : Nat) :
    LoadIssued c e (c.after ((issuesFrom { c with s := u } scr lines lvl).updWave c.wid (takesLoad { c with s := u } o))) := by
  obtain ⟨tlb, now, f, hfrom, hf⟩ := issuesFrom_frame { c with s := u } scr lines lvl
  have hwid (y : Wave) : (f y).wid = y.wid := by
    obtain ⟨_, _, h⟩ := hf y
    rw [h]
  obtain ⟨dev, sys, hfw⟩ := hf c.w
  have hu (k : Nat) : u.wave? k = c.s.wave? k := by rw [State.wave?, hwaves]; rfl
  have huw := (hu c.wid).trans hw
  rw [hfrom, Cx.after_eq]
  have hwave := State.wave?_updWave_self (s := { u with now := now, mem := { u.mem with tlb := tlb } }) huw hwid
  have htake := State.wave?_updWave_self (f := takesLoad { c with s := u } o) hwave (takesLoad_wid o)
  have hrest (y : Wave) (hy : takesLoad { c with s := u } o (f c.w) = y) : y.buf = c.w.buf ∧ y.kregs = c.w.kregs ∧ y.exec = c.w.exec
      ∧ ((y.loads = c.w.loads ++ [o] ∧ y.vregs = c.w.vregs ∧ y.sregs = c.w.sregs)
        ∨ (y.loads = [] ∧ c.w.loads = [] ∧ o.remain = [] ∧ y.vregs = (o.writeBack c.w).vregs ∧ y.sregs = (o.writeBack c.w).sregs)) := by
    rw [hfw, takesLoad] at hy
    split at hy
    next hall =>
      rw [Bool.and_eq_true, List.isEmpty_iff, List.isEmpty_iff] at hall
      obtain ⟨hv, hs⟩ := o.writeBack_congr (w := c.w) (x := { c.w with acqDev := dev, acqSys := sys, loads := [] }) rfl rfl
      obtain ⟨vs, ss, im, hback⟩ := OutLoad.writeBack_eq (o := o) (hdst ▸ hd) { c.w with acqDev := dev, acqSys := sys, loads := [] }
      rw [hback] at hy hv hs
      subst hy
      exact ⟨rfl, rfl, rfl, .inr ⟨rfl, hall.2, hall.1, hv, hs⟩⟩
    next =>
      subst hy
      exact ⟨rfl, rfl, rfl, .inl ⟨rfl, rfl, rfl⟩⟩
  obtain ⟨hbuf, hkregs, hexec, hload⟩ := hrest _ rfl
  refine ⟨_, State.wave?_updWave_self htake, by rw [← he]; rfl, hbuf, hkregs, hexec, fun k hk => ?_, (congrArg Mem.hbm hmem :), (congrArg Mem.host hmem :),
    (congrArg Mem.tier hmem :), (congrArg Mem.peer hmem :), (congrArg Mem.sysL2 hmem :), hblocks, hclusters, ?_⟩
  · rw [State.wave?_updWave_ne hk, State.wave?_updWave_ne hk (takesLoad_wid o)]
    exact (State.wave?_updWave_ne (w := c.wid) hk hwid).trans (hu k)
  · rcases hload with ⟨hl, hv, hs⟩ | ⟨hl, hl0, hremain, hv, hs⟩
    · exact .inl ⟨o, hl, hdst, hvec, hlanes, hv, hs⟩
    · exact .inr ⟨hl, hl0, o, hdst, hvec, hlanes, hremain, hv, hs⟩

/-- An instruction whose meaning is a load of which no lane but helper lanes faults, and that no engine's tile holds. -/
theorem issueLoad_next (hw : c.s.wave? c.wid = some c.w) (he : c.e = e) (hd : ∀ n, Dst.of e.dst ≠ .k n) {u : State} (hwaves : u.waves = c.s.waves)
    (hmem : u.mem = c.s.mem) (hblocks : u.blocks = c.s.blocks) (hclusters : u.clusters = c.s.clusters) {scr : Bool}
    {known : List (Piece × BitVec 6)} {ps : List Piece} {pre : List (Nat × Byte)} {o : OutLoad} {lvl : Nat} (hdst : o.dst = e.dst)
    (hvec : o.vec = c.vec) (hlanes : o.lanes = c.lanes) (hpoison : o.poison = false)
    (hfault : ∀ x ∈ known ++ ({ c with s := u } : Cx).badPieces scr .load ps, c.isHelper x.1.lane = true)
    (hheld : (scr && c.tileHeld (keptPieces { c with s := u } scr known ps)) = false) :
    ∃ t, Host.Outcome.next ((({ c with s := u } : Cx).issueLoad scr known ps pre o lvl).finish c) = (.next t : Host.Outcome State Fault Refusal)
      ∧ LoadIssued c e t := by
  have hw' : ({ c with s := u } : Cx).s.wave? ({ c with s := u } : Cx).wid = some ({ c with s := u } : Cx).w := by
    show u.wave? c.wid = some c.w
    rw [State.wave?, hwaves]
    exact hw
  rw [issueLoad_issues hw' hpoison hfault hheld]
  exact ⟨_, rfl, loadIssued_of (o := issuedLoad { c with s := u } scr known ps pre o) hw he hd hwaves hmem hblocks hclusters hdst hvec hlanes ..⟩

/-- No lane but helper lanes of a load that may issue faults. -/
theorem isHelper_of_loadable {scr indexed : Bool} (h : Loadable c scr indexed) {x : Piece × BitVec 6}
    (hx : x ∈ [] ++ c.badPieces scr .load (c.pieces scr indexed)) : c.isHelper x.1.lane = true := by
  obtain ⟨hq, hk⟩ := Cx.mem_badPieces.1 hx
  by_contra hn
  exact nomatch (h.1 x.1 hq (Bool.eq_false_iff.2 hn)).symm.trans hk

/-- A tile that holds a wave is one of an engine, and the handler neither saves nor restores. -/
theorem Cx.tileHeld_iff (c : Cx) (ps : List Piece) : c.tileHeld ps = true ↔
    (c.w.mode.getLsbD 8 = false ∨ c.w.phase = .plain) ∧ ∃ q ∈ ps, c.b.engineOwns (q.addr / 4096) = true := by
  have hh : c.w.hnd = c.w.mode.getLsbD 8 := rfl
  rw [Cx.tileHeld, hh, Bool.and_eq_true, List.any_eq_true]
  cases c.w.mode.getLsbD 8 <;> simp

theorem tileHeld_of_loadable {scr indexed : Bool} (h : Loadable c scr indexed) :
    (scr && c.tileHeld (keptPieces c scr [] (c.pieces scr indexed))) = false := by
  refine Bool.eq_false_iff.2 fun hheld => ?_
  obtain ⟨hscr, htile⟩ := Bool.and_eq_true_iff.1 hheld
  obtain ⟨hmode, q, hq, howned⟩ := (c.tileHeld_iff _).1 htile
  exact Bool.noConfusion ((h.2 hscr hmode q (List.mem_of_mem_filter hq)).symm.trans howned)

/-- The load of ld and gat. -/
def Cx.plainOut (c : Cx) (scr indexed : Bool) : OutLoad :=
  c.outLoad (.plain (typeCode c.e)) c.size (c.laneAddr scr indexed c.size)
    (laneMask (fun l => c.accessLanes.contains l && (c.laneAddr scr indexed c.size l).isNone))

theorem plainLoad_issues {scr indexed : Bool} (hw : c.s.wave? c.wid = some c.w) (h : Loadable c scr indexed) : ∃ lvl, c.plainLoad scr indexed
    = .done ((issuesFrom c scr (askedLines c scr c.w.hnd (keptPieces c scr [] (c.pieces scr indexed)) []) lvl).updWave c.wid
      (takesLoad c (issuedLoad c scr [] (c.pieces scr indexed) [] (c.plainOut scr indexed)))) :=
  ⟨_, issueLoad_issues hw rfl (fun _ hx => isHelper_of_loadable h hx) (tileHeld_of_loadable h)⟩

theorem Cx.size_le (c : Cx) : c.size ≤ 64 := by
  unfold Cx.size
  cases tyOf c.e <;> decide

theorem Cx.size_of_mem_pieces {scr indexed : Bool} {q : Piece} (h : q ∈ c.pieces scr indexed) : q.size = c.size := by
  obtain ⟨l, -, hq⟩ := List.mem_filterMap.1 h
  obtain ⟨a, -, rfl⟩ := Option.map_eq_some_iff.1 hq
  rfl

/-- Outside the handler a load asks for the lines with a byte that its wave's buffer does not hold. -/
theorem mem_askedLines {scr indexed : Bool} {l : Nat} : l ∈ askedLines c scr false (c.pieces scr indexed) []
    ↔ ∃ q ∈ c.pieces scr indexed, ∃ i < q.size, (q.addr + i) / 64 = l ∧ bufByte c.w.buf scr (q.addr + i) = none := by
  have hgot (a : Nat) (ha : a ∈ bytesOf (c.pieces scr indexed)) :
      (gotAtIssue c scr false (c.pieces scr indexed) []).any (fun g => g.1 = a) = false ↔ bufByte c.w.buf scr a = none := by
    rw [Bool.eq_false_iff, ne_eq, List.any_eq_true, ← not_iff_not, not_not]
    simp only [gotAtIssue, List.nil_append, Bool.false_eq_true, if_false, List.mem_filterMap, decide_eq_true_eq]
    constructor
    · rintro ⟨_, ⟨b, -, hb⟩, rfl⟩
      obtain ⟨x, hx, rfl⟩ := Option.map_eq_some_iff.1 hb
      simp [hx]
    · intro h
      obtain ⟨x, hx⟩ := Option.ne_none_iff_exists'.1 h
      exact ⟨(a, x), ⟨a, ha, by rw [hx]; rfl⟩, rfl⟩
  have hbytes (a : Nat) : a ∈ bytesOf (c.pieces scr indexed) ↔ ∃ q ∈ c.pieces scr indexed, ∃ i < q.size, q.addr + i = a := by
    simp only [bytesOf, List.mem_flatMap, List.mem_map, List.mem_range]
  rw [askedLines, List.mem_filter, List.any_eq_true, mem_linesOf]
  constructor
  · rintro ⟨-, a, ha, hl⟩
    obtain ⟨ha, hopen⟩ := List.mem_filter.1 ha
    obtain ⟨q, hq, i, hi, rfl⟩ := (hbytes a).1 ha
    exact ⟨q, hq, i, hi, by simpa using hl, (hgot _ ha).1 (by simpa using hopen)⟩
  · rintro ⟨q, hq, i, hi, hl, hnone⟩
    have ha := (hbytes _).2 ⟨q, hq, i, hi, rfl⟩
    refine ⟨⟨q, hq, ?_⟩, q.addr + i, List.mem_filter.2 ⟨ha, by rw [(hgot _ ha).2 hnone]; rfl⟩, by simpa using hl⟩
    have hsize := Cx.size_of_mem_pieces hq
    have := c.size_le
    omega

/-- A load that issued asks once for each of its lines. -/
theorem asksOnce_of (hw : c.s.wave? c.wid = some c.w) (scr indexed : Bool) (lvl : Nat) :
    AsksOnce c scr indexed (c.after ((issuesFrom c scr (askedLines c scr c.w.hnd (keptPieces c scr [] (c.pieces scr indexed)) []) lvl).updWave c.wid
      (takesLoad c (issuedLoad c scr [] (c.pieces scr indexed) [] (c.plainOut scr indexed))))) := by
  intro hok hmode hload
  have hkept : keptPieces c scr [] (c.pieces scr indexed) = (c.pieces scr indexed) := List.filter_eq_self.2 fun q _ => by simp [Cx.badPieces_eq_nil hok]
  have hh : c.w.hnd = false := hmode
  have hremain : (issuedLoad c scr [] (c.pieces scr indexed) [] (c.plainOut scr indexed)).remain = (askedLines c scr false (c.pieces scr indexed) []).map (lineRef c scr) := by
    rw [issuedLoad]
    simp only [hkept]
    rw [show (c.plainOut scr indexed).direct = false from hh]
  have href (l : Nat) : (lineRef c scr l).line = l ∧ (lineRef c scr l).scr = scr := by
    unfold lineRef
    cases scr with
    | true => exact ⟨rfl, rfl⟩
    | false => simp only [Bool.false_eq_true, if_false]; split <;> exact ⟨rfl, rfl⟩
  generalize hlines : askedLines c scr c.w.hnd (keptPieces c scr [] (c.pieces scr indexed)) [] = lines
  obtain ⟨tlb, now, f, hfrom, hf⟩ := issuesFrom_frame c scr lines lvl
  have hwid (y : Wave) : (f y).wid = y.wid := by
    obtain ⟨_, _, h⟩ := hf y
    rw [h]
  obtain ⟨dev, sys, hfw⟩ := hf c.w
  have hwave := State.wave?_updWave_self (s := { c.s with now := now, mem := { c.s.mem with tlb := tlb } }) hw hwid
  have htake := State.wave?_updWave_self (f := takesLoad c (issuedLoad c scr [] (c.pieces scr indexed) [] (c.plainOut scr indexed))) hwave (takesLoad_wid _)
  rw [hfrom, Cx.after_eq]
  refine ⟨_, issuedLoad c scr [] (c.pieces scr indexed) [] (c.plainOut scr indexed), State.wave?_updWave_self htake, ?_, ?_, fun l => ?_⟩
  · have hnot : ((issuedLoad c scr [] (c.pieces scr indexed) [] (c.plainOut scr indexed)).remain.isEmpty && c.w.loads.isEmpty) = false := by
      refine Bool.eq_false_iff.2 fun hall => ?_
      rw [Bool.and_eq_true, List.isEmpty_iff, List.isEmpty_iff, hremain, List.map_eq_nil_iff] at hall
      rcases hload with hl | ⟨l, hl⟩
      · exact hl hall.2
      · exact List.not_mem_nil (hall.1 ▸ mem_askedLines.2 hl)
    rw [takesLoad, hnot, hfw]
    rfl
  · rw [hremain, List.map_map, show LineRef.line ∘ lineRef c scr = id from funext fun l => (href l).1, List.map_id]
    exact (nodup_linesOf (c.pieces scr indexed)).filter _
  · rw [hremain]
    refine Iff.trans ?_ mem_askedLines
    constructor
    · rintro ⟨r, hr, rfl, -⟩
      obtain ⟨l, hl, rfl⟩ := List.mem_map.1 hr
      rwa [(href l).1]
    · exact fun hl => ⟨_, List.mem_map.2 ⟨l, hl, rfl⟩, href l⟩

/-- ld and gat, where they may issue. -/
theorem exec_plainLoad {i : Instr} {scr indexed : Bool} (hx : exec i s = simt op e s (fun c => c.plainLoad scr indexed)) (hi : Issued op e s c)
    (hbr : (opShape op e).branch = false) (hkind : ∃ w, (opShape op e).dst = .vs w) (h : Loadable c scr indexed) :
    ∃ t, exec i s = .next t ∧ LoadIssued c e t ∧ AsksOnce c scr indexed t := by
  have hseen := seenAt_of_issued hi
  have he := issued_e hi
  obtain ⟨lvl, hload⟩ := plainLoad_issues hseen.wave h
  refine ⟨_, exec_issued hx hi hload, ?_, asksOnce_of hseen.wave scr indexed lvl⟩
  exact loadIssued_of hseen.wave he (hseen.dst_ne_k hbr (.inr hkind)) rfl rfl rfl rfl (congrArg Enc.dst he :) rfl rfl scr _ lvl

end

section
variable {op : Nat} {e : Enc} {s : State} {c : Cx}

/-- ld and gat of which a lane that is no helper faults. -/
theorem plainLoad_traps {scr indexed : Bool}
    (h : ∃ q ∈ c.pieces scr indexed, c.isHelper q.lane = false ∧ c.cause scr .load q ≠ none) :
    ∃ t, c.plainLoad scr indexed = .trap t ∧ (∃ q ∈ c.pieces scr indexed, c.isHelper q.lane = false ∧ c.cause scr .load q = some t.code)
      ∧ ∀ q ∈ c.pieces scr indexed, c.isHelper q.lane = false → ∀ k, c.cause scr .load q = some k → t.code.toNat ≤ k.toNat := by
  have hmem (q : Piece) (k : BitVec 6) : (q, k) ∈ ([] ++ c.badPieces scr .load (c.pieces scr indexed)).filter (fun x : Piece × BitVec 6 => !c.isHelper x.1.lane)
      ↔ (q ∈ c.pieces scr indexed ∧ c.cause scr .load q = some k) ∧ c.isHelper q.lane = false := by
    rw [List.nil_append, List.mem_filter, Cx.mem_badPieces, Bool.not_eq_true']
  obtain ⟨q, hq, hreal, hk⟩ := h
  obtain ⟨k, hk⟩ := Option.ne_none_iff_exists'.1 hk
  obtain ⟨t, ht, ⟨⟨p, m⟩, hp, hcode⟩, hmin⟩ := c.faultOf_spec (List.ne_nil_of_mem ((hmem q k).2 ⟨⟨hq, hk⟩, hreal⟩))
  obtain ⟨⟨hp, hm⟩, hhelp⟩ := (hmem p m).1 hp
  exact ⟨t, issueLoad_traps ht, ⟨p, hp, hhelp, hm.trans (congrArg some hcode)⟩, fun r hr hrr n hn => hmin (r, n) ((hmem r n).2 ⟨⟨hr, hn⟩, hrr⟩)⟩

/-- ld.s and gat.s that read a tile of an engine. -/
theorem plainLoad_waits {indexed : Bool} (hok : ∀ q ∈ c.pieces true indexed, c.cause true .load q = none)
    (hmode : c.w.mode.getLsbD 8 = false ∨ c.w.phase = .plain) (howned : ∃ q ∈ c.pieces true indexed, c.b.engineOwns (q.addr / 4096) = true) :
    c.plainLoad true indexed = c.waitOwner := by
  have hkept : keptPieces c true [] (c.pieces true indexed) = c.pieces true indexed :=
    List.filter_eq_self.2 fun q _ => by simp [Cx.badPieces_eq_nil hok]
  refine issueLoad_waits (by simp [Cx.badPieces_eq_nil hok]) ?_
  rw [hkept]
  exact (c.tileHeld_iff _).2 ⟨hmode, howned⟩

/-! ## Constant windows (R94) -/

/-- ld.c of which every lane but helper lanes reads its words. -/
theorem exec_ldC_issues (hi : Issued 0x64 e s c) (hbase : c.window.1 % 4 = 0)
    (h : ∀ l ∈ c.accessLanes, c.isHelper l = false → c.windowOffset l % c.size = 0
      ∧ ∀ i < c.size, c.windowOffset l + i < 4 * c.window.2 →
        ∃ pl, c.s.translate c.w.core c.part .load (c.window.1 + 4 * ((c.windowOffset l + i) / 4)) = .ok pl) :
    ∃ t, exec (.ldC e) s = .next t ∧ LoadIssued c e t := by
  have hseen := seenAt_of_issued hi
  have he := issued_e hi
  rw [exec_ldC, execLdC, simt_issued hi]
  refine issueLoad_next hseen.wave he (hseen.dst_ne_k rfl (.inr ⟨_, rfl⟩)) (u := c.s) rfl rfl rfl rfl (congrArg Enc.dst he :) rfl rfl rfl
    (fun x hx => ?_) rfl
  by_contra hreal
  have hreal : c.isHelper x.1.lane = false := Bool.eq_false_iff.2 hreal
  rcases List.mem_append.1 hx with hx | hx
  · obtain ⟨y, hy, rfl⟩ := List.mem_map.1 hx
    obtain ⟨hy, hodd⟩ := List.mem_filter.1 hy
    obtain ⟨l, hl, rfl⟩ := List.mem_map.1 hy
    exact of_decide_eq_true hodd (h l hl hreal).1
  · obtain ⟨hq, hk⟩ := Cx.mem_badPieces.1 hx
    obtain ⟨x1, k⟩ := x
    obtain ⟨y, hy, rfl⟩ := List.mem_map.1 hq
    obtain ⟨hy, hin⟩ := List.mem_filter.1 hy
    obtain ⟨z, hz, hy⟩ := List.mem_flatMap.1 hy
    obtain ⟨i, hi, rfl⟩ := List.mem_map.1 hy
    obtain ⟨hz, heven⟩ := List.mem_filter.1 hz
    obtain ⟨l, hl, rfl⟩ := List.mem_map.1 hz
    obtain ⟨-, hreads⟩ := h l hl hreal
    have hin : c.windowOffset l / 4 + i < c.window.2 := of_decide_eq_true hin
    have hi := List.mem_range.1 hi
    obtain ⟨pl, hpl⟩ := hreads (4 * i) (by omega) (by omega)
    rw [show (c.windowOffset l + 4 * i) / 4 = c.windowOffset l / 4 + i by omega] at hpl
    have hnone : c.cause false .load ⟨l, c.window.1 + 4 * (c.windowOffset l / 4 + i), 4⟩ = none := by
      have hmod : (c.window.1 + 4 * (c.windowOffset l / 4 + i)) % 4 = 0 := by omega
      simp [Cx.cause, hmod, hpl]
    exact nomatch hnone.symm.trans hk

/-! ## Tensor loads (R146) -/

/-- A tensor entry read changes a die's cache of entries alone. -/
theorem Cx.tensor_frame {id : Nat} {t0 : TEntry} {s1 : State} (h : c.tensor id = .ok (t0, s1)) : ∃ dies, s1 = { c.s with dies := dies } := by
  have hentry : ∃ t, c.s.tensorEntry (dieOf c.w.core) c.part id = .ok (t, s1) := by
    unfold Cx.tensor at h
    split at h
    · cases h
    next t u hu =>
      split at h
      · cases h
      · cases h
        exact ⟨_, hu⟩
  obtain ⟨t, ht⟩ := hentry
  unfold State.tensorEntry at ht
  split at ht
  · cases ht
    exact ⟨c.s.dies, rfl⟩
  · split at ht
    · cases ht
    · cases ht
      exact ⟨_, rfl⟩

/-- The element of a lane of tld, where the lane acts and its index is inside the tensor. -/
def Cx.tldAt (c : Cx) (t : TEntry) (first l : Nat) : Option (List Nat) :=
  ((List.range 32).map (fun l => if c.lanes.getLsbD l then c.tldIndex t first l else none)).getD l none

/-- The addresses of a lane's block scale and band scale. -/
def Cx.tldScale (c : Cx) (t : TEntry) (first l : Nat) : Nat :=
  match c.tldAt t first l with | some x => TEntry.blockAddr t (TEntry.iOf t x) (TEntry.kOf t x) | none => 0
def Cx.tldBand (c : Cx) (t : TEntry) (first l : Nat) : Nat :=
  match c.tldAt t first l with | some x => TEntry.bandAddr t (TEntry.iOf t x) | none => 0

/-- Bytes of a lane from an address. -/
def bytePieces (l a n : Nat) : List Piece := (List.range n).map (fun i => ⟨l, (a + i) % 2 ^ 64, 1⟩)

/-- The pieces of a lane of tld, and of all its lanes. -/
def Cx.tldLanePieces (c : Cx) (t : TEntry) (first l : Nat) : List Piece :=
  match (c.tldAt t first l).map (fun x => (TEntry.elemByte t x).1) with
  | none => []
  | some a => bytePieces l a (max 1 (TEntry.w t / 8))
      ++ (if TEntry.isNf4b t then bytePieces l (c.tldScale t first l) 1 ++ bytePieces l (c.tldBand t first l) 2 else [])
def Cx.tldPieces (c : Cx) (t : TEntry) (first : Nat) : List Piece := (lanesOf c.lanes).flatMap (c.tldLanePieces t first)

/-- The load of tld. -/
def Cx.tldOut (c : Cx) (e : Enc) (t : TEntry) (first : Nat) : OutLoad :=
  c.outLoad (.tensor (BitVec.ofNat 5 (TEntry.f t 3 4 0)) (tyOf e = .f32)
      (laneMask (fun l => match c.tldAt t first l with | some x => (TEntry.elemByte t x).2 | none => false))
      ((List.range 32).map (c.tldScale t first)) ((List.range 32).map (c.tldBand t first)) c.w.flush)
    (max 1 (TEntry.w t / 8)) (fun l => (c.tldAt t first l).map (fun x => (TEntry.elemByte t x).1))
    (laneMask (fun l => (c.tldAt t first l).isNone))

theorem Cx.tldOut_dst (c : Cx) (e : Enc) (t : TEntry) (first : Nat) : (c.tldOut e t first).dst = c.e.dst := rfl

theorem Cx.tldAt_eq {t : TEntry} {first l : Nat} (h : l ∈ lanesOf c.lanes) : c.tldAt t first l = c.tldIndex t first l := by
  obtain ⟨hl, hon⟩ := mem_lanesOf.1 h
  simp [Cx.tldAt, List.getD_eq_getElem?_getD, hl, hon]

/-- A byte that tld reads: one of an element, or of its scales. -/
theorem Cx.mem_tldPieces {t : TEntry} {first : Nat} {q : Piece} (h : q ∈ c.tldPieces t first) :
    ∃ l ix, c.lanes.getLsbD l = true ∧ c.tldIndex t first l = some ix ∧ q.size = 1
      ∧ ((∃ i < max 1 (TEntry.w t / 8), q.addr = ((TEntry.elemByte t ix).1 + i) % 2 ^ 64)
        ∨ (TEntry.isNf4b t = true ∧ (q.addr = TEntry.blockAddr t (TEntry.iOf t ix) (TEntry.kOf t ix) % 2 ^ 64
            ∨ ∃ i < 2, q.addr = (TEntry.bandAddr t (TEntry.iOf t ix) + i) % 2 ^ 64))) := by
  have hbytes {l a n : Nat} (hq : q ∈ bytePieces l a n) : ∃ i < n, q.addr = (a + i) % 2 ^ 64 ∧ q.size = 1 := by
    obtain ⟨i, hi, rfl⟩ := List.mem_map.1 hq
    exact ⟨i, List.mem_range.1 hi, rfl, rfl⟩
  obtain ⟨l, hl, hq⟩ := List.mem_flatMap.1 h
  rw [Cx.tldLanePieces] at hq
  cases hix : c.tldIndex t first l with
  | none =>
    rw [Cx.tldAt_eq hl, hix] at hq
    exact absurd hq List.not_mem_nil
  | some ix =>
    have hscale : c.tldScale t first l = TEntry.blockAddr t (TEntry.iOf t ix) (TEntry.kOf t ix) := by rw [Cx.tldScale, Cx.tldAt_eq hl, hix]
    have hband : c.tldBand t first l = TEntry.bandAddr t (TEntry.iOf t ix) := by rw [Cx.tldBand, Cx.tldAt_eq hl, hix]
    rw [Cx.tldAt_eq hl, hix, hscale, hband] at hq
    rcases List.mem_append.1 hq with hq | hq
    · obtain ⟨i, hi, haddr, hsize⟩ := hbytes hq
      exact ⟨l, ix, (mem_lanesOf.1 hl).2, hix, hsize, .inl ⟨i, hi, haddr⟩⟩
    · split at hq
      next hnf =>
        rcases List.mem_append.1 hq with hq | hq
        · obtain ⟨i, hi, haddr, hsize⟩ := hbytes hq
          obtain rfl : i = 0 := by omega
          exact ⟨l, ix, (mem_lanesOf.1 hl).2, hix, hsize, .inr ⟨hnf, .inl haddr⟩⟩
        · obtain ⟨i, hi, haddr, hsize⟩ := hbytes hq
          exact ⟨l, ix, (mem_lanesOf.1 hl).2, hix, hsize, .inr ⟨hnf, .inr ⟨i, hi, haddr⟩⟩⟩
      next => exact absurd hq List.not_mem_nil

/-- tld reads its entry, and then its elements. -/
theorem exec_tld_loads {t0 : TEntry} {s1 : State} {n : Nat} (hi : Issued 0x65 e s c) (hid : c.n32 e.a ≤ 1023)
    (ht : c.tensor (c.n32 e.a) = .ok (t0, s1)) (hsel : Sel.of e.b = .v n) (hn : n + TEntry.ndim t0 + 1 ≤ c.w.vregs.length) :
    exec (.tld e) s = .next (Res.finish ((c.on s1).issueLoad false [] ((c.on s1).tldPieces t0 n) [] ((c.on s1).tldOut e t0 n) 0) c) := by
  rw [exec_tld, execTld, simt_issued hi]
  simp only [if_neg (show ¬1023 < c.n32 e.a by omega), ht, hsel, if_neg (show ¬c.w.nv < n + TEntry.ndim t0 + 1 by rw [Wave.nv]; omega)]
  rfl

/-- tld of which every element translates. -/
theorem exec_tld_issues {t0 : TEntry} {s1 : State} {n : Nat} (hi : Issued 0x65 e s c) (hid : c.n32 e.a ≤ 1023)
    (ht : c.tensor (c.n32 e.a) = .ok (t0, s1)) (hsel : Sel.of e.b = .v n) (hn : n + TEntry.ndim t0 + 1 ≤ c.w.vregs.length)
    (h : ∀ l ix, c.lanes.getLsbD l = true → c.tldIndex t0 n l = some ix →
      (∀ i < max 1 (TEntry.w t0 / 8), ∃ pl, c.s.translate c.w.core c.part .load (((TEntry.elemByte t0 ix).1 + i) % 2 ^ 64) = .ok pl)
      ∧ (TEntry.isNf4b t0 = true →
        (∃ pl, c.s.translate c.w.core c.part .load (TEntry.blockAddr t0 (TEntry.iOf t0 ix) (TEntry.kOf t0 ix) % 2 ^ 64) = .ok pl)
        ∧ ∀ i < 2, ∃ pl, c.s.translate c.w.core c.part .load ((TEntry.bandAddr t0 (TEntry.iOf t0 ix) + i) % 2 ^ 64) = .ok pl)) :
    ∃ t, exec (.tld e) s = .next t ∧ LoadIssued c e t := by
  have hseen := seenAt_of_issued hi
  have he := issued_e hi
  obtain ⟨dies, rfl⟩ := Cx.tensor_frame ht
  have hon : c.on { c.s with dies := dies } = { c with s := { c.s with dies := dies } } := by
    obtain ⟨hb, huid⟩ := block?_of_issued hi
    have hw' : ({ c.s with dies := dies } : State).wave? c.wid = some c.w := hseen.wave
    have hb' : ({ c.s with dies := dies } : State).block? c.b.uid = some c.b := huid ▸ hb
    simp only [Cx.on, hw', hb']
  have htr (a : Nat) : ({ c.s with dies := dies } : State).translate c.w.core c.part .load a = c.s.translate c.w.core c.part .load a :=
    State.SameTables.translate ⟨rfl, rfl, rfl, rfl⟩ ..
  rw [exec_tld_loads hi hid ht hsel hn, hon]
  refine issueLoad_next hseen.wave he (hseen.dst_ne_k rfl (.inl rfl)) (u := { c.s with dies := dies }) rfl rfl rfl rfl ((Cx.tldOut_dst ..).trans (congrArg Enc.dst he)) rfl rfl rfl
    (fun x hx => ?_) (Bool.false_and _)
  obtain ⟨hq, hk⟩ := Cx.mem_badPieces.1 hx
  obtain ⟨l, ix, hon, hix, hsize, haddr⟩ := Cx.mem_tldPieces hq
  obtain ⟨helem, hscales⟩ := h l ix hon hix
  have hreads : ∃ pl, c.s.translate c.w.core c.part .load x.1.addr = .ok pl := by
    rcases haddr with ⟨i, hi, haddr⟩ | ⟨hnf, haddr | ⟨i, hi, haddr⟩⟩
    · exact haddr ▸ helem i hi
    · exact haddr ▸ (hscales hnf).1
    · exact haddr ▸ (hscales hnf).2 i hi
  obtain ⟨pl, hpl⟩ := hreads
  have hnone : ({ c with s := { c.s with dies := dies } } : Cx).cause false .load x.1 = none := by
    have : ({ c with s := { c.s with dies := dies } } : Cx).s.translate c.w.core c.part .load x.1.addr = .ok pl := (htr _).trans hpl
    rw [Cx.cause, hsize, Nat.mod_one, if_neg (by decide), if_neg (by decide)]
    exact (congrArg (fun r => match r with | .error k => some k | .ok _ => none) this)
  exact nomatch hnone.symm.trans hk

end

/-! ## Caches of translations that agree with the tables (R275) -/

/-- The lowest bit of the part of an address that a level of the tables reads. -/
def levelLow : Nat → Nat
  | 0 => 16
  | 1 => 21
  | 2 => 30
  | 3 => 39
  | _ => 48

theorem levelIndex_congr {lvl va vb sz : Nat} (h : va / 2 ^ sz = vb / 2 ^ sz) (hsz : sz ≤ levelLow lvl) : levelIndex lvl va = levelIndex lvl vb := by
  have hhigh : va / 2 ^ levelLow lvl = vb / 2 ^ levelLow lvl := by
    rw [← Nat.add_sub_of_le hsz, pow_add, ← Nat.div_div_eq_div_mul, h, Nat.div_div_eq_div_mul]
  match lvl with
  | 0 => exact congrArg (· % 2 ^ (20 + 1 - 16)) hhigh
  | 1 => exact congrArg (· % 2 ^ (29 + 1 - 21)) hhigh
  | 2 => exact congrArg (· % 2 ^ (38 + 1 - 30)) hhigh
  | 3 => exact congrArg (· % 2 ^ (47 + 1 - 39)) hhigh
  | n + 4 => exact congrArg (· % 2 ^ (56 + 1 - 48)) hhigh

theorem levelLow_mono (lvl : Nat) : levelLow lvl ≤ levelLow (lvl + 1) := by
  match lvl with
  | 0 => decide
  | 1 => decide
  | 2 => decide
  | 3 => decide
  | n + 4 => exact le_refl _

theorem pageLog_le (lvl : Nat) : pageLog lvl ≤ levelLow lvl := by
  match lvl with
  | 0 => decide
  | 1 => decide
  | 2 => decide
  | 3 => decide
  | n + 4 => exact (show 30 ≤ 48 by decide)

/-- A walk's page is no larger than what its first level selects, and its addresses lead to it. -/
theorem State.walk_page {s : State} {world : Bool} {lvl table va sz : Nat} {leaf : Dword} (h : s.walk world lvl table va = .ok (leaf, sz)) :
    sz ≤ levelLow lvl ∧ ∀ vb, vb / 2 ^ sz = va / 2 ^ sz → s.walk world lvl table vb = .ok (leaf, sz) := by
  induction lvl generalizing table with
  | zero =>
    have hsz : sz ≤ levelLow 0 := by
      unfold State.walk at h
      dsimp only at h
      split_ifs at h
      cases h
      exact pageLog_le 0
    refine ⟨hsz, fun vb hvb => ?_⟩
    unfold State.walk at h ⊢
    rw [levelIndex_congr hvb hsz]
    exact h
  | succ lvl ih =>
    have hsz : sz ≤ levelLow (lvl + 1) := by
      unfold State.walk at h
      dsimp only at h
      split_ifs at h
      · cases h
        exact pageLog_le (lvl + 1)
      · exact (ih h).1.trans (levelLow_mono lvl)
    refine ⟨hsz, fun vb hvb => ?_⟩
    unfold State.walk at h ⊢
    rw [levelIndex_congr hvb hsz]
    dsimp only at h ⊢
    split_ifs at h ⊢
    · exact h
    · exact (ih h).2 vb hvb

section
variable {s : State} {p : Nat}

theorem State.lookupLeaf_of_agrees (h : TlbAgrees s p) (core va : Nat) :
    s.lookupLeaf core p va = if 2 ^ 57 ≤ va then .error 16#6 else s.walk (s.world p) 4 (s.root p) va := by
  have hfind {l1 : Bool} {unit : Nat} {x : Dword × Nat} (hva : va < 2 ^ 57) (hx : s.tlbFind l1 unit p va = some x) :
      s.walk (s.world p) 4 (s.root p) va = .ok x := by
    obtain ⟨t, ht, rfl⟩ := Option.map_eq_some_iff.1 hx
    have hname := List.find?_some ht
    simp only [Bool.and_eq_true, decide_eq_true_eq] at hname
    obtain ⟨⟨-, hpart⟩, hpage⟩ := hname
    exact h t (List.mem_of_find?_eq_some ht) hpart va hva hpage.symm
  unfold State.lookupLeaf
  split
  · rfl
  next hva =>
    split
    next x hx => exact (hfind (by omega) hx).symm
    next =>
      split
      next x hx => exact (hfind (by omega) hx).symm
      next => rfl

/-- Where the caches agree with the tables, what is cached does not change a translation. -/
theorem State.translate_of_agrees {t : State} (hs : TlbAgrees s p) (ht : TlbAgrees t p) (hhbm : t.mem.hbm = s.mem.hbm) (hparts : t.parts = s.parts)
    (hhub : t.hub = s.hub) (core : Nat) (acc : Access) (va : Nat) : t.translate core p acc va = s.translate core p acc va := by
  have hlook : t.lookupLeaf core p va = s.lookupLeaf core p va := by
    have hpart : t.part p = s.part p := by rw [State.part, hparts]; rfl
    rw [State.lookupLeaf_of_agrees hs, State.lookupLeaf_of_agrees ht, State.walk_congr hhbm hhub, State.world, State.root, hpart]
    rfl
  have hsame : ({ s with mem := { s.mem with tlb := t.mem.tlb } } : State).SameTables t := ⟨hhbm, rfl, hparts, hhub⟩
  rw [hsame.translate]
  have hlook' : ({ s with mem := { s.mem with tlb := t.mem.tlb } } : State).lookupLeaf core p va = s.lookupLeaf core p va :=
    (hsame.lookupLeaf core p va).symm.trans hlook
  unfold State.translate
  rw [hlook']
  rfl

/-- An entry put into the cache of a unit. -/
def addTlb (l1 : Bool) (unit cap p va sz : Nat) (leaf : Dword) (t : List TlbEntry) : List TlbEntry :=
  if t.any (fun x => x.l1 = l1 && x.unit = unit && x.part = p && x.vpage = va / 2 ^ x.size) then t
  else capTlb cap l1 unit (t ++ [{ l1 := l1, unit := unit, part := p, vpage := va / 2 ^ sz, size := sz, leaf := leaf }])

theorem mem_addTlb {l1 : Bool} {unit cap p va sz : Nat} {leaf : Dword} {t : List TlbEntry} {x : TlbEntry}
    (h : x ∈ addTlb l1 unit cap p va sz leaf t) : x ∈ t ∨ (x.vpage = va / 2 ^ sz ∧ x.size = sz ∧ x.leaf = leaf) := by
  have hcap (t : List TlbEntry) (hx : x ∈ capTlb cap l1 unit t) : x ∈ t := by
    unfold capTlb at hx
    dsimp only at hx
    split at hx
    · exact hx
    · split at hx
      · exact List.mem_of_mem_erase hx
      · exact hx
  unfold addTlb at h
  split at h
  · exact .inl h
  · rcases List.mem_append.1 (hcap _ h) with h | h
    · exact .inl h
    · rw [List.mem_singleton.1 h]
      exact .inr ⟨rfl, rfl, rfl⟩

theorem State.fillTlb_one {core va sz : Nat} {leaf : Dword} (h : s.lookupLeaf core p va = .ok (leaf, sz)) : s.fillTlb core p [va]
    = { s with mem := { s.mem with tlb := addTlb true core 64 p va sz leaf (addTlb false (dieOf core) 16384 p va sz leaf s.mem.tlb) } } := by
  rw [State.fillTlb, List.foldl_cons, List.foldl_nil, h]
  rfl

/-- A translation cached leaves the caches agreeing with the tables. -/
theorem State.fillTlb_agrees (h : TlbAgrees s p) (core va : Nat) : TlbAgrees (s.fillTlb core p [va]) p := by
  cases hleaf : s.lookupLeaf core p va with
  | error k =>
    rw [State.fillTlb, List.foldl_cons, List.foldl_nil, hleaf]
    exact h
  | ok r =>
    obtain ⟨leaf, sz⟩ := r
    have hwalk : s.walk (s.world p) 4 (s.root p) va = .ok (leaf, sz) := by
      rw [State.lookupLeaf_of_agrees h] at hleaf
      split at hleaf
      · cases hleaf
      · exact hleaf
    rw [State.fillTlb_one hleaf]
    intro x hx hpart vb hvb hpage
    rw [State.walk_congr (s := s) (by rfl) (by rfl)]
    have hx : x ∈ s.mem.tlb ∨ (x.vpage = va / 2 ^ sz ∧ x.size = sz ∧ x.leaf = leaf) := (mem_addTlb hx).elim mem_addTlb .inr
    rcases hx with hx | ⟨hpage', rfl, rfl⟩
    · exact h x hx hpart vb hvb hpage
    · exact (State.walk_page hwalk).2 vb (hpage.trans hpage')

end

/-! ## Prefetch (R147) -/

theorem Memory.read_dropWhile_below (m : Memory) {a b : Nat} (h : b ≤ a) : Memory.read (m.dropWhile (fun x => decide (x.1 < b))) a = m.read a := by
  induction m with
  | nil => rfl
  | cons x m ih =>
    rw [List.dropWhile_cons]
    split
    next hx =>
      have hx : x.1 < b := of_decide_eq_true hx
      rw [ih, Memory.read, if_neg (by omega), if_neg (by omega)]
    next => rfl

theorem State.devBytes_eq (s : State) (sp : Space) (a n : Nat) : s.devBytes sp a n = (List.range n).map (fun i => s.devByte sp (a + i)) := by
  unfold State.devBytes
  split
  · refine List.map_congr_left fun i _ => ?_
    exact Memory.read_dropWhile_below _ (Nat.le_add_right a i)
  · rfl

theorem mem_addCopy {m : Mem} {d x : Copy} : x ∈ (m.addCopy d).copies
    ↔ x = d ∨ (x ∈ m.copies ∧ ¬(x.l1 = d.l1 ∧ x.unit = d.unit ∧ x.space = d.space ∧ x.line = d.line)) := by
  simp only [Mem.addCopy, List.mem_cons, List.mem_filter, Bool.not_eq_true', Bool.and_eq_false_iff, decide_eq_false_iff_not, not_and_or, or_assoc]

/-- ld and gat that an engine's tile holds, or of which a lane that is no helper faults. -/
theorem exec_plainLoad_stops {i : Instr} {op : Nat} {e : Enc} {s : State} {c : Cx} {scr indexed : Bool}
    (hx : exec i s = simt op e s (fun c => c.plainLoad scr indexed)) (hi : Issued op e s c) :
    ((∀ q ∈ c.pieces scr indexed, c.isHelper q.lane = false → c.cause scr .load q = none) → scr = true →
      (c.w.mode.getLsbD 8 && decide (c.w.phase ≠ .plain)) = false →
      (∃ q ∈ c.pieces scr indexed, c.cause scr .load q = none ∧ c.b.engineOwns (q.addr / 4096) = true) →
      (∀ q ∈ c.pieces scr indexed, c.isHelper q.lane = false) → c.w.stage = 0 → exec i s = .next (c.s.stallWave c.wid .owner 7 0 c.w.aux))
    ∧ ((∃ q ∈ c.pieces scr indexed, c.isHelper q.lane = false ∧ c.cause scr .load q ≠ none) →
      ∃ t, (∃ q ∈ c.pieces scr indexed, c.isHelper q.lane = false ∧ c.cause scr .load q = some t.code)
        ∧ (∀ q ∈ c.pieces scr indexed, c.isHelper q.lane = false → ∀ k, c.cause scr .load q = some k → t.code.toNat ≤ k.toNat)
        ∧ exec i s = .next (c.s.raise c.wid c.lanes t)) := by
  refine ⟨fun hok hscr hsave howned hreal hstage => ?_, fun hbad => ?_⟩
  · subst hscr
    have hmode : c.w.mode.getLsbD 8 = false ∨ c.w.phase = .plain := by
      rcases Bool.and_eq_false_iff.1 hsave with hm | hp
      · exact .inl hm
      · exact .inr (by simpa using hp)
    obtain ⟨q, hq, -, hown⟩ := howned
    have hwait := plainLoad_waits (fun q hq => hok q hq (hreal q hq)) hmode ⟨q, hq, hown⟩
    refine (exec_issued hx hi hwait).trans ?_
    simp [Cx.waitOwner, Res.finish, hstage]
  · obtain ⟨t, ht, hcode, hmin⟩ := plainLoad_traps hbad
    exact ⟨t, hcode, hmin, exec_issued hx hi ht⟩

/-- What pf does for a lane. -/
def prefetch (c : Cx) (e : Enc) (s : State) (l : Nat) : State :=
  match s.translate c.w.core c.part .load (c.ea (c.readLane l)) with
  | .error _ => s
  | .ok pl =>
    if s.homeHeld pl.space (pl.pa / 64) || s.poisonedAt pl.space (pl.pa / 64) then s
    else
      let s := s.fillTlb c.w.core c.part [c.ea (c.readLane l)]
      let r : LineRef := { scr := false, line := c.ea (c.readLane l) / 64, space := pl.space, pline := pl.pa / 64, ss := pl.ss }
      if hintCode e ≠ 3 then s.fillCopies c.w r
      else if pl.ss || pl.space ≠ .hbm then
        s.updMem (fun m => m.addCopy { l1 := false, unit := dieOf c.w.core, space := r.space, ss := r.ss, line := r.pline
                                       data := s.devBytes r.space (64 * r.pline) 64, fill := s.now, gone := none })
      else s

theorem exec_pf_eq {e : Enc} {s : State} {c : Cx} (hi : Issued 0x6A e s c) :
    exec (.pf e) s = .next (c.after (c.accessLanes.foldl (prefetch c e) c.s)) := exec_issued (exec_pf e s) hi rfl

section
variable {c : Cx} {e : Enc}

/-- The bytes of a line at device level. -/
def lineData (c : Cx) (sp : Space) (line : Nat) : List Byte := (List.range 64).map (fun i => c.s.devByte sp (64 * line + i))

/-- A copy that pf leaves. -/
def FreshCopy (c : Cx) (e : Enc) (x : Copy) : Prop :=
  x.fill = c.s.now ∧ x.gone = none ∧ (x.l1 = true → x.unit = c.w.core ∧ hintCode e ≠ 3) ∧ x.data = lineData c x.space x.line

/-- The core's L1 holds a line as pf leaves it. -/
def InL1 (c : Cx) (copies : List Copy) (sp : Space) (line : Nat) : Prop :=
  ∃ x ∈ copies, x.l1 = true ∧ x.unit = c.w.core ∧ x.space = sp ∧ x.line = line ∧ x.fill = c.s.now ∧ x.gone = none ∧ x.data = lineData c sp line

/-- A machine in which some lanes' lines were fetched: translations cached, and fresh copies. -/
structure Prefetched (c : Cx) (e : Enc) (s : State) : Prop where
  eq : ∃ tlb copies, s = { c.s with mem := { c.s.mem with tlb := tlb, copies := copies } }
  copies : ∀ x ∈ s.mem.copies, x ∈ c.s.mem.copies ∨ FreshCopy c e x

theorem Prefetched.refl (c : Cx) (e : Enc) : Prefetched c e c.s := ⟨⟨_, _, rfl⟩, fun _ h => .inl h⟩

/-- A fresh copy added leaves what was fetched before. -/
theorem InL1.addCopy {m : Mem} {d : Copy} {sp : Space} {line : Nat} (h : InL1 c m.copies sp line) (hd : FreshCopy c e d) :
    InL1 c (m.addCopy d).copies sp line := by
  obtain ⟨x, hx, hl1, hunit, rfl, rfl, hrest⟩ := h
  by_cases hkey : x.l1 = d.l1 ∧ x.unit = d.unit ∧ x.space = d.space ∧ x.line = d.line
  · obtain ⟨hdl1, hdunit, hspace, hline⟩ := hkey
    obtain ⟨hfill, hgone, -, hdata⟩ := hd
    refine ⟨d, mem_addCopy.2 (.inl rfl), hdl1 ▸ hl1, hdunit ▸ hunit, hspace.symm, hline.symm, hfill, hgone, ?_⟩
    rw [hdata, hspace, hline]
  · exact ⟨x, mem_addCopy.2 (.inr ⟨hx, hkey⟩), hl1, hunit, rfl, rfl, hrest⟩

/-- Fresh copies added one after the other. -/
theorem addCopies_spec {ds : List Copy} (hd : ∀ d ∈ ds, FreshCopy c e d) (m : Mem) :
    (∃ copies, ds.foldl Mem.addCopy m = { m with copies := copies })
    ∧ (∀ x ∈ (ds.foldl Mem.addCopy m).copies, x ∈ m.copies ∨ FreshCopy c e x)
    ∧ ∀ sp line, InL1 c m.copies sp line → InL1 c (ds.foldl Mem.addCopy m).copies sp line := by
  induction ds generalizing m with
  | nil => exact ⟨⟨_, rfl⟩, fun _ h => .inl h, fun _ _ h => h⟩
  | cons d ds ih =>
    have hfresh := hd d List.mem_cons_self
    obtain ⟨⟨copies, heq⟩, hcopies, hkeeps⟩ := ih (fun x hx => hd x (List.mem_cons_of_mem _ hx)) (m.addCopy d)
    refine ⟨⟨copies, heq⟩, fun x hx => ?_, fun sp line h => hkeeps sp line (h.addCopy hfresh)⟩
    rcases hcopies x hx with hx | hx
    · rcases mem_addCopy.1 hx with rfl | hx
      · exact .inr hfresh
      · exact .inl hx.1
    · exact .inr hx

/-- The copy of the line at a place in the core's L1, or in its die's L2. -/
def lineCopy (c : Cx) (pl : Place) (l1 : Bool) : Copy :=
  { l1 := l1, unit := if l1 then c.w.core else dieOf c.w.core, space := pl.space, ss := pl.ss, line := pl.pa / 64
    data := lineData c pl.space (pl.pa / 64), fill := c.s.now, gone := none }

/-- The copies of the line at a place: in the core's L1 unless the hint is 3, and in its die's L2 where the home is not its own HBM. -/
def fetched (c : Cx) (e : Enc) (pl : Place) : List Copy :=
  (if hintCode e ≠ 3 then [lineCopy c pl true] else []) ++ (if pl.ss || pl.space ≠ .hbm then [lineCopy c pl false] else [])

theorem fetched_fresh (pl : Place) : ∀ d ∈ fetched c e pl, FreshCopy c e d := by
  intro d hd
  rcases List.mem_append.1 hd with hd | hd
  · split at hd
    next h =>
      rw [List.mem_singleton.1 hd]
      exact ⟨rfl, rfl, fun _ => ⟨rfl, h⟩, rfl⟩
    next => exact absurd hd List.not_mem_nil
  · split at hd
    next =>
      rw [List.mem_singleton.1 hd]
      exact ⟨rfl, rfl, fun h => Bool.noConfusion h, rfl⟩
    next => exact absurd hd List.not_mem_nil

theorem inL1_fetched (hhint : hintCode e ≠ 3) (pl : Place) (m : Mem) : InL1 c ((fetched c e pl).foldl Mem.addCopy m).copies pl.space (pl.pa / 64) := by
  have hfresh := fetched_fresh (c := c) (e := e) pl
  rw [fetched, if_pos hhint] at hfresh ⊢
  obtain ⟨-, -, hkeeps⟩ := addCopies_spec (fun d hd => hfresh d (List.mem_append_right _ hd)) (m.addCopy _)
  exact hkeeps _ _ ⟨_, mem_addCopy.2 (.inl rfl), rfl, rfl, rfl, rfl, rfl, rfl, rfl⟩

/-- What is fetched for a lane whose line answers and is not poisoned. -/
theorem Prefetched.prefetch_eq {s : State} (h : Prefetched c e s) {l : Nat} {pl : Place}
    (hpl : s.translate c.w.core c.part .load (c.ea (c.readLane l)) = .ok pl) (hheld : c.s.homeHeld pl.space (pl.pa / 64) = false)
    (hpoison : c.s.poisonedAt pl.space (pl.pa / 64) = false) :
    prefetch c e s l = (s.fillTlb c.w.core c.part [c.ea (c.readLane l)]).updMem (fun m => (fetched c e pl).foldl Mem.addCopy m) := by
  obtain ⟨tlb, copies, rfl⟩ := h.eq
  obtain ⟨tlb', hfill⟩ := State.fillTlb_eq { c.s with mem := { c.s.mem with tlb := tlb, copies := copies } } c.w.core c.part [c.ea (c.readLane l)]
  have hskip : ¬(({ c.s with mem := { c.s.mem with tlb := tlb, copies := copies } } : State).homeHeld pl.space (pl.pa / 64)
      || ({ c.s with mem := { c.s.mem with tlb := tlb, copies := copies } } : State).poisonedAt pl.space (pl.pa / 64)) = true :=
    fun hs => by
      rcases Bool.or_eq_true_iff.1 hs with hs | hs
      · exact Bool.noConfusion (hheld.symm.trans hs)
      · exact Bool.noConfusion (hpoison.symm.trans hs)
  have hdata : ({ c.s with mem := { c.s.mem with tlb := tlb', copies := copies } } : State).devBytes pl.space (64 * (pl.pa / 64)) 64
      = lineData c pl.space (pl.pa / 64) := State.devBytes_eq ..
  rw [prefetch]
  simp only [hpl, if_neg hskip, hfill]
  by_cases hhint : hintCode e ≠ 3
  · rw [if_pos hhint, State.fillCopies]
    by_cases hss : (pl.ss || pl.space ≠ .hbm) = true
    · rw [show fetched c e pl = [lineCopy c pl true, lineCopy c pl false] by rw [fetched, if_pos hhint, if_pos hss]; rfl]
      simp only [hss]
      rfl
    · rw [show fetched c e pl = [lineCopy c pl true] by rw [fetched, if_pos hhint, if_neg hss]; rfl]
      simp only [Bool.eq_false_iff.2 hss]
      rfl
  · rw [if_neg hhint]
    by_cases hss : (pl.ss || pl.space ≠ .hbm) = true
    · rw [show fetched c e pl = [lineCopy c pl false] by rw [fetched, if_neg hhint, if_pos hss]; rfl, if_pos hss, hdata]
      rfl
    · rw [show fetched c e pl = [] by rw [fetched, if_neg hhint, if_neg hss]; rfl, if_neg hss]
      rfl

/-- A lane whose line does not translate, waits or is poisoned is dropped. -/
theorem Prefetched.prefetch_dropped {s : State} (h : Prefetched c e s) {l : Nat}
    (hno : ∀ pl, s.translate c.w.core c.part .load (c.ea (c.readLane l)) = .ok pl →
      c.s.homeHeld pl.space (pl.pa / 64) = true ∨ c.s.poisonedAt pl.space (pl.pa / 64) = true) : prefetch c e s l = s := by
  obtain ⟨tlb, copies, rfl⟩ := h.eq
  rw [prefetch]
  split
  · rfl
  next pl hpl => exact if_pos (Bool.or_eq_true_iff.2 (hno pl hpl))

theorem tlbAgrees_congr {s t : State} {p : Nat} (h : s.SameTables t) (hs : TlbAgrees s p) : TlbAgrees t p := by
  intro x hx hpart va hva hpage
  have hp : t.part p = s.part p := by rw [State.part, h.parts]; rfl
  rw [State.walk_congr h.hbm h.hub, State.world, State.root, hp]
  exact hs x (h.tlb ▸ hx) hpart va hva hpage

/-- What is fetched for a lane: nothing, or the copies of its line. -/
theorem Prefetched.lane {s : State} (h : Prefetched c e s) (l : Nat) : Prefetched c e (prefetch c e s l)
    ∧ (∀ sp line, InL1 c s.mem.copies sp line → InL1 c (prefetch c e s l).mem.copies sp line)
    ∧ (TlbAgrees s c.part → TlbAgrees (prefetch c e s l) c.part) := by
  by_cases hno : ∀ pl, s.translate c.w.core c.part .load (c.ea (c.readLane l)) = .ok pl →
      c.s.homeHeld pl.space (pl.pa / 64) = true ∨ c.s.poisonedAt pl.space (pl.pa / 64) = true
  · rw [h.prefetch_dropped hno]
    exact ⟨h, fun _ _ h => h, id⟩
  · simp only [not_forall, not_or] at hno
    obtain ⟨pl, hpl, hheld, hpoison⟩ := hno
    rw [h.prefetch_eq hpl (Bool.eq_false_iff.2 hheld) (Bool.eq_false_iff.2 hpoison)]
    obtain ⟨⟨tlb, copies, hs⟩, hcopies⟩ := h
    obtain ⟨tlb', hfill⟩ := s.fillTlb_eq c.w.core c.part [c.ea (c.readLane l)]
    obtain ⟨⟨copies', heq⟩, hnew, hkeeps⟩ := addCopies_spec (fetched_fresh (c := c) (e := e) pl) { s.mem with tlb := tlb' }
    have hmem : ((s.fillTlb c.w.core c.part [c.ea (c.readLane l)]).updMem (fun m => (fetched c e pl).foldl Mem.addCopy m)).mem
        = (fetched c e pl).foldl Mem.addCopy { s.mem with tlb := tlb' } := by rw [hfill]; rfl
    refine ⟨⟨⟨tlb', copies', ?_⟩, fun x hx => ?_⟩, fun sp line hin => ?_, fun hag => ?_⟩
    · rw [State.updMem, hfill, heq, hs]
    · rw [hmem] at hx
      exact (hnew x hx).elim (hcopies x) .inr
    · rw [hmem]
      exact hkeeps sp line hin
    · exact tlbAgrees_congr (s := s.fillTlb c.w.core c.part [c.ea (c.readLane l)]) ⟨by rw [hmem, heq, hfill], by rw [hmem, heq, hfill], rfl, rfl⟩
        (State.fillTlb_agrees hag c.w.core (c.ea (c.readLane l)))

/-- What pf leaves for all its lanes. -/
theorem Prefetched.lanes {s : State} (h : Prefetched c e s) (ls : List Nat) : Prefetched c e (ls.foldl (prefetch c e) s)
    ∧ (∀ sp line, InL1 c s.mem.copies sp line → InL1 c (ls.foldl (prefetch c e) s).mem.copies sp line) := by
  induction ls generalizing s with
  | nil => exact ⟨h, fun _ _ h => h⟩
  | cons l ls ih =>
    obtain ⟨hl, hkeeps, -⟩ := h.lane l
    obtain ⟨hls, hkeeps'⟩ := ih hl
    exact ⟨hls, fun sp line hin => hkeeps' sp line (hkeeps sp line hin)⟩

/-- A lane whose line is fetched where the caches agree with the tables, whatever was fetched before. -/
theorem Prefetched.inL1_of_agrees {s : State} (h : Prefetched c e s) (hag : TlbAgrees s c.part) (hag0 : TlbAgrees c.s c.part) (hhint : hintCode e ≠ 3)
    {ls : List Nat} {l : Nat} (hl : l ∈ ls) {pl : Place} (hpl : c.s.translate c.w.core c.part .load (c.ea (c.readLane l)) = .ok pl)
    (hheld : c.s.homeHeld pl.space (pl.pa / 64) = false) (hpoison : c.s.poisonedAt pl.space (pl.pa / 64) = false) :
    InL1 c (ls.foldl (prefetch c e) s).mem.copies pl.space (pl.pa / 64) := by
  induction ls generalizing s with
  | nil => exact absurd hl List.not_mem_nil
  | cons k ls ih =>
    obtain ⟨hk, -, hkag⟩ := h.lane k
    rcases List.mem_cons.1 hl with rfl | hl
    · refine (hk.lanes ls).2 _ _ ?_
      obtain ⟨tlb, copies, hs⟩ := h.eq
      have htr : s.translate c.w.core c.part .load (c.ea (c.readLane l)) = .ok pl :=
        (State.translate_of_agrees hag0 hag (by rw [hs]) (by rw [hs]) (by rw [hs]) ..).trans hpl
      rw [h.prefetch_eq htr hheld hpoison]
      exact inL1_fetched hhint pl _
    · exact ih hk (hkag hag) hl

/-- Lanes of which none translates leave the machine as it was. -/
theorem foldl_prefetch_none {ls : List Nat} (h : ∀ l ∈ ls, ∀ pl, c.s.translate c.w.core c.part .load (c.ea (c.readLane l)) ≠ .ok pl) :
    ls.foldl (prefetch c e) c.s = c.s :=
  List.foldlRecOn (motive := fun t => t = c.s) ls _ rfl fun t ht l hl => by
    rw [ht]
    exact (Prefetched.refl c e).prefetch_dropped fun pl hpl => absurd hpl (h l hl pl)

end

end Sys2Proof.Machine

namespace Sys2Proof.Proofs

open Sys2Proof Sys2Proof.Machine

/-- Settles O26: a load of which no lane but helper lanes faults issues in one update of its wave; pf is followed lane by lane. -/
theorem loadsIssue : Obligations.LoadsIssue := by
  unfold Obligations.LoadsIssue
  intro e s c reads saving
  refine ⟨fun hi => exec_plainLoad (exec_ldG e s) hi rfl ⟨_, rfl⟩, fun hi => exec_plainLoad (exec_ldS e s) hi rfl ⟨_, rfl⟩,
    fun hi => exec_plainLoad (exec_gatG e s) hi rfl ⟨_, rfl⟩, fun hi => exec_plainLoad (exec_gatS e s) hi rfl ⟨_, rfl⟩, ?others,
    fun hi => exec_ldC_issues hi, fun t0 s1 n hi hid ht hsel hn h => exec_tld_issues hi hid ht hsel hn h, ?prefetches⟩
  case others =>
    intro x hx scr ps real op hop hi
    simp only [List.mem_cons, List.not_mem_nil, or_false] at hx
    rcases hx with rfl | rfl | rfl | rfl <;> cases hop
    · exact exec_plainLoad_stops (op := 0x60) (scr := false) (indexed := false) (exec_ldG e s) hi
    · exact exec_plainLoad_stops (op := 0x62) (scr := true) (indexed := false) (exec_ldS e s) hi
    · exact exec_plainLoad_stops (op := 0x66) (scr := false) (indexed := true) (exec_gatG e s) hi
    · exact exec_plainLoad_stops (op := 0x68) (scr := true) (indexed := true) (exec_gatS e s) hi
  case prefetches =>
    intro hi
    have hw := (seenAt_of_issued hi).wave
    obtain ⟨⟨⟨tlb, copies, heq⟩, hcopies⟩, -⟩ := (Prefetched.refl c e).lanes c.accessLanes
    have hwave : (c.accessLanes.foldl (prefetch c e) c.s).wave? c.wid = some c.w := by
      rw [heq]
      exact hw
    have hmem : (c.after (c.accessLanes.foldl (prefetch c e) c.s)).mem = { c.s.mem with tlb := tlb, copies := copies } := by
      rw [Cx.after_eq, State.updWave_mem, heq]
    refine ⟨_, _, exec_pf_eq hi, State.wave?_updWave_self hwave, by rw [← issued_e hi], rfl, rfl, rfl, rfl, by rw [hmem], by rw [hmem],
      by rw [Cx.after_eq, State.updWave_blocks, heq], fun hnone => ?_, hcopies, fun hag l hl pl hpl hheld hpoison hhint => ?_⟩
    · rw [Cx.after_eq, State.updWave_mem, foldl_prefetch_none hnone]
    · rcases hag with hag | hone
      · exact (Prefetched.refl c e).inL1_of_agrees hag hag hhint hl hpl hheld hpoison
      · obtain ⟨k, hk⟩ := List.length_eq_one_iff.1 hone
        obtain rfl := List.mem_singleton.1 (hk ▸ hl)
        have hin := inL1_fetched (c := c) hhint pl (c.s.fillTlb c.w.core c.part [c.ea (c.readLane l)]).mem
        have heq := congrArg State.mem ((Prefetched.refl c e).prefetch_eq hpl hheld hpoison)
        rw [hk]
        show InL1 c (prefetch c e c.s l).mem.copies _ _
        rw [heq]
        exact hin

end Sys2Proof.Proofs

/-! SUPPORT. Stores (R137-R144, R263): what the lines of a store hold, what a wave's buffer holds once it took them, writes at device level, and the
forms of a store: the lemmas of O25. -/

namespace Sys2Proof.Machine

open Sys2Proof

/-! ## Lines into the buffer -/

theorem bufByte_eq_byteIn (b : List (Option PLine)) (scr : Bool) (a : Nat) : bufByte b scr a = byteIn (bufLines b) scr a := by
  rw [bufByte, byteIn]
  cases findLine (bufLines b) scr (a / 64) <;> rfl

/-- The buffer has a line of this name. -/
def bufHas (b : List (Option PLine)) (p : PLine) : Bool := (bufLines b).any (fun q => q.scr = p.scr && q.line = p.line)

theorem bufNeed_cons (b : List (Option PLine)) (p : PLine) (ls : List PLine) :
    bufNeed b (p :: ls) = bufNeed b ls + if bufHas b p then 0 else 1 := by
  rw [bufNeed, List.countP_cons, ← bufNeed, ← bufHas]
  cases bufHas b p <;> rfl

theorem bufLines_map (b : List (Option PLine)) (f : PLine → PLine) : bufLines (b.map (Option.map f)) = (bufLines b).map f := by
  induction b with
  | nil => rfl
  | cons x xs ih => cases x with
    | none => exact ih
    | some q => exact congrArg (f q :: ·) ih

theorem bufFree_map (b : List (Option PLine)) (f : PLine → PLine) : bufFree (b.map (Option.map f)) = bufFree b := by
  simp only [bufFree, List.countP_map]
  exact List.countP_congr fun x _ => by cases x <;> rfl

/-- A line whose name the buffer has merges into what is there. -/
theorem bufMerge_of_has {b : List (Option PLine)} {p : PLine} (h : bufHas b p = true) :
    bufLines (bufMerge b p) = mergeLine (bufLines b) p ∧ bufFree (bufMerge b p) = bufFree b := by
  have hb : (bufLines b).any (fun q => q.scr = p.scr && q.line = p.line) = true := h
  have hmap : bufMerge b p = b.map (Option.map (fun q => if q.scr = p.scr && q.line = p.line then q.merge p else q)) := by
    rw [bufMerge, if_pos hb]
    refine List.map_congr_left fun x _ => ?_
    cases x with
    | none => rfl
    | some q => exact (apply_ite some _ _ _).symm
  rw [hmap, mergeLine, if_pos hb]
  exact ⟨bufLines_map .., bufFree_map ..⟩

/-- A line new to a buffer with room takes the place of its first free entry. -/
theorem bufMerge_of_not_has {b : List (Option PLine)} {p : PLine} (h : bufHas b p = false) (hfree : bufFree b ≠ 0) :
    ∃ xs ys, b = xs ++ none :: ys ∧ bufMerge b p = xs ++ some p :: ys := by
  have hb : ¬(bufLines b).any (fun q => q.scr = p.scr && q.line = p.line) = true := Bool.eq_false_iff.1 h
  obtain ⟨x, hx, hnone⟩ : ∃ x ∈ b, x.isNone = true := List.countP_pos_iff.1 (Nat.pos_of_ne_zero hfree)
  rw [bufMerge, if_neg hb]
  cases hi : b.findIdx? Option.isNone with
  | none => exact absurd hnone (by rw [List.findIdx?_eq_none_iff.1 hi x hx]; decide)
  | some i =>
    obtain ⟨hlt, hat, -⟩ := List.findIdx?_eq_some_iff_getElem.1 hi
    refine ⟨b.take i, b.drop (i + 1), ?_, List.set_eq_take_append_cons_drop.trans (if_pos hlt)⟩
    rw [← Option.isNone_iff_eq_none.1 hat, ← List.drop_eq_getElem_cons hlt, List.take_append_drop]

theorem byteIn_bufMerge {b : List (Option PLine)} {p : PLine} (h : bufHas b p = false → bufFree b ≠ 0) (scr : Bool) (a : Nat) :
    byteIn (bufLines (bufMerge b p)) scr a =
      if p.scr = scr ∧ p.line = a / 64 then (p.byte? (a % 64)).or (byteIn (bufLines b) scr a) else byteIn (bufLines b) scr a := by
  cases hh : bufHas b p with
  | true => rw [(bufMerge_of_has hh).1, byteIn_mergeLine]
  | false =>
    obtain ⟨xs, ys, rfl, hm⟩ := bufMerge_of_not_has hh (h hh)
    have hlines : bufLines (xs ++ some p :: ys) = bufLines xs ++ p :: bufLines ys := by simp [bufLines]
    have hold : bufLines (xs ++ none :: ys) = bufLines xs ++ bufLines ys := by simp [bufLines]
    have hnone : ∀ q ∈ bufLines xs ++ bufLines ys, ¬(q.scr = p.scr ∧ q.line = p.line) := by
      rw [← hold]
      simpa [bufHas] using hh
    rw [hm, hlines, hold]
    split
    next hp =>
      obtain ⟨rfl, hline⟩ := hp
      have hx : findLine (bufLines xs) p.scr (a / 64) = none :=
        findLine_eq_none fun q hq hn => hnone q (List.mem_append_left _ hq) ⟨hn.1, hn.2.trans hline.symm⟩
      have hy : findLine (bufLines ys) p.scr (a / 64) = none :=
        findLine_eq_none fun q hq hn => hnone q (List.mem_append_right _ hq) ⟨hn.1, hn.2.trans hline.symm⟩
      have hpx : findLine (p :: bufLines ys) p.scr (a / 64) = some p := by rw [findLine_cons, if_pos ⟨rfl, hline⟩]
      rw [findLine] at hx hy hpx
      rw [byteIn, byteIn, findLine, findLine, List.find?_append, List.find?_append, hx, hy, hpx]
      exact (Option.or_none ..).symm
    next hp =>
      rw [byteIn, byteIn, findLine, findLine, List.find?_append, List.find?_append]
      have hpx : findLine (p :: bufLines ys) scr (a / 64) = findLine (bufLines ys) scr (a / 64) := by rw [findLine_cons, if_neg hp]
      rw [findLine, findLine] at hpx
      rw [hpx]

theorem bufFree_bufMerge {b : List (Option PLine)} {p : PLine} (h : bufHas b p = false → bufFree b ≠ 0) :
    bufFree (bufMerge b p) + (if bufHas b p then 0 else 1) = bufFree b := by
  cases hh : bufHas b p with
  | true => exact (bufMerge_of_has hh).2
  | false =>
    obtain ⟨xs, ys, rfl, hm⟩ := bufMerge_of_not_has hh (h hh)
    rw [hm, bufFree, bufFree]
    simp [Nat.add_assoc]

/-- A line of another name is in the buffer after the merge where it was before. -/
theorem bufHas_bufMerge_other {b : List (Option PLine)} {p q : PLine} (h : bufHas b p = false → bufFree b ≠ 0)
    (hne : ¬(p.scr = q.scr ∧ p.line = q.line)) : bufHas (bufMerge b p) q = bufHas b q := by
  cases hh : bufHas b p with
  | true =>
    rw [bufHas, (bufMerge_of_has hh).1, mergeLine]
    split
    · rw [List.any_map, bufHas]
      refine congrArg (List.any _) (funext fun x => ?_)
      simp only [Function.comp_apply]
      split <;> rfl
    next hb => exact absurd hh hb
  | false =>
    obtain ⟨xs, ys, rfl, hm⟩ := bufMerge_of_not_has hh (h hh)
    have hq : (decide (p.scr = q.scr) && decide (p.line = q.line)) = false := by simpa using hne
    rw [hm]
    simp [bufHas, bufLines, hq]

/-- What a buffer with room holds once it took the lines of a store. -/
theorem bufByte_foldl_bufMerge {ls : List PLine} (hls : LinesOk ls) {b : List (Option PLine)} (hroom : bufNeed b ls ≤ bufFree b)
    (scr : Bool) (a : Nat) : bufByte (ls.foldl bufMerge b) scr a = (byteIn ls scr a).or (bufByte b scr a) := by
  simp only [bufByte_eq_byteIn]
  induction ls generalizing b with
  | nil => rfl
  | cons p ps ih =>
    obtain ⟨hnames, -, hps⟩ := linesOk_cons.1 hls
    rw [bufNeed_cons] at hroom
    have hp : bufHas b p = false → bufFree b ≠ 0 := fun hh => by
      rw [hh] at hroom
      simp only [Bool.false_eq_true, if_false] at hroom
      omega
    have hneed : bufNeed (bufMerge b p) ps = bufNeed b ps :=
      List.countP_congr fun q hq => by
        show (!bufHas (bufMerge b p) q) = true ↔ (!bufHas b q) = true
        rw [bufHas_bufMerge_other hp (hnames q hq)]
    have hfree := bufFree_bufMerge hp
    rw [List.foldl_cons, ih hps (by omega), byteIn_bufMerge hp, byteIn_cons]
    split
    next hn => rw [byteIn_tail_of_linesOk hls hn, Option.none_or]
    next => rfl

/-! ## The lines of a store -/

/-- One byte as a line of its own. -/
def byteLine (scr : Bool) (a : Nat) (x : Byte) : PLine := (PLine.empty scr (a / 64)).put (a % 64) x

theorem length_byteLine (scr : Bool) (a : Nat) (x : Byte) : (byteLine scr a x).data.length = 64 := by
  simp [byteLine, PLine.put, PLine.empty]

theorem byte?_byteLine (scr : Bool) {a : Nat} (x : Byte) {off : Nat} (hoff : off < 64) :
    (byteLine scr a x).byte? off = if off = a % 64 then some x else none := by
  have ha : a % 64 < 64 := Nat.mod_lt a (by decide)
  have hhas : (byteLine scr a x).has off = decide (off = a % 64) := by
    simp only [byteLine, PLine.put, PLine.empty, PLine.has, BitVec.getLsbD_or, BitVec.getLsbD_zero, Bool.false_or,
      BitVec.getLsbD_shiftLeft, BitVec.getLsbD_one]
    by_cases h : off = a % 64
    · simp [h, ha]
    · simp only [hoff, decide_true, Bool.true_and, h, decide_false]
      by_cases hlt : off < a % 64 <;> simp [hlt]
      omega
  rw [PLine.byte?, hhas]
  by_cases h : off = a % 64
  · subst h
    simp [byteLine, PLine.put, PLine.empty, ha]
  · simp [h]

/-- One piece's bytes merged into lines. -/
def pieceLines (scr : Bool) (ls : List PLine) (q : Piece) (x n : Nat) : List PLine :=
  (List.range n).foldl (fun ls i => mergeLine ls (byteLine scr (q.addr + i) (byteOf (x / 2 ^ (8 * i))))) ls

theorem pieceLines_succ (scr : Bool) (ls : List PLine) (q : Piece) (x n : Nat) : pieceLines scr ls q x (n + 1) =
    mergeLine (pieceLines scr ls q x n) (byteLine scr (q.addr + n) (byteOf (x / 2 ^ (8 * n)))) := by
  rw [pieceLines, List.range_succ, List.foldl_append]
  rfl

theorem storeLines_append (scr : Bool) (vals : List (Piece × Nat)) (v : Piece × Nat) :
    storeLines scr (vals ++ [v]) = pieceLines scr (storeLines scr vals) v.1 v.2 v.1.size := by
  rw [storeLines, List.foldl_append]
  rfl

theorem linesOk_pieceLines {scr : Bool} {ls : List PLine} (h : LinesOk ls) (q : Piece) (x n : Nat) : LinesOk (pieceLines scr ls q x n) := by
  induction n with
  | zero => exact h
  | succ n ih => exact pieceLines_succ .. ▸ linesOk_mergeLine ih (length_byteLine ..)

theorem byteIn_pieceLines (scr : Bool) (ls : List PLine) (q : Piece) (x n : Nat) (sp : Bool) (a : Nat) :
    byteIn (pieceLines scr ls q x n) sp a =
      if sp = scr ∧ q.addr ≤ a ∧ a < q.addr + n then some (byteOf (x / 2 ^ (8 * (a - q.addr)))) else byteIn ls sp a := by
  induction n with
  | zero => exact (if_neg (by omega)).symm
  | succ n ih =>
    rw [pieceLines_succ, byteIn_mergeLine, byte?_byteLine _ _ (Nat.mod_lt a (by decide)), ih]
    have hname : (byteLine scr (q.addr + n) (byteOf (x / 2 ^ (8 * n)))).scr = scr := rfl
    have hline : (byteLine scr (q.addr + n) (byteOf (x / 2 ^ (8 * n)))).line = (q.addr + n) / 64 := rfl
    rw [hname, hline]
    by_cases hat : sp = scr ∧ a = q.addr + n
    · obtain ⟨rfl, rfl⟩ := hat
      rw [if_pos ⟨rfl, rfl⟩, if_pos rfl, Option.some_or, if_pos ⟨rfl, Nat.le_add_right _ _, Nat.lt_succ_self _⟩, Nat.add_sub_cancel_left]
    · have hcov : (sp = scr ∧ q.addr ≤ a ∧ a < q.addr + (n + 1)) ↔ (sp = scr ∧ q.addr ≤ a ∧ a < q.addr + n) := by
        constructor <;> rintro ⟨rfl, h1, h2⟩
        · exact ⟨rfl, h1, by have : a ≠ q.addr + n := fun h => hat ⟨rfl, h⟩; omega⟩
        · exact ⟨rfl, h1, by omega⟩
      simp only [hcov]
      split
      next hn =>
        have hoff : a % 64 ≠ (q.addr + n) % 64 := fun hoff => by
          have hdiv : (q.addr + n) / 64 = a / 64 := hn.2
          have ha : a = q.addr + n := by omega
          exact hat ⟨hn.1.symm, ha⟩
        rw [if_neg hoff, Option.none_or]
      next => rfl

theorem linesOk_storeLines (scr : Bool) (vals : List (Piece × Nat)) : LinesOk (storeLines scr vals) := by
  induction vals using List.reverseRecOn with
  | nil => exact linesOk_nil
  | append_singleton vals v ih => exact storeLines_append .. ▸ linesOk_pieceLines ih ..

/-- A piece writes the byte. -/
def Piece.covers (scr sp : Bool) (a : Nat) (q : Piece) : Bool := sp == scr && decide (q.addr ≤ a) && decide (a < q.addr + q.size)

theorem Piece.covers_iff {scr sp : Bool} {a : Nat} {q : Piece} : q.covers scr sp a = true ↔ sp = scr ∧ q.addr ≤ a ∧ a < q.addr + q.size := by
  simp [Piece.covers, and_assoc]

/-- A byte of a store's lines is that of the last piece that writes it. -/
theorem byteIn_storeLines (scr : Bool) (ps : List Piece) (data : Piece → Nat) (sp : Bool) (a : Nat) :
    byteIn (storeLines scr (ps.map (fun q => (q, data q)))) sp a =
      (ps.filter (Piece.covers scr sp a)).getLast?.map (fun q => byteOf (data q / 2 ^ (8 * (a - q.addr)))) := by
  induction ps using List.reverseRecOn with
  | nil => rfl
  | append_singleton ps q ih =>
    rw [List.map_append, List.map_singleton, storeLines_append, byteIn_pieceLines, ih, List.filter_append]
    split
    next h =>
      rw [List.filter_cons_of_pos (Piece.covers_iff.2 h)]
      simp
    next h =>
      rw [List.filter_cons_of_neg (mt Piece.covers_iff.1 h)]
      simp

/-! ## How a store issues (R138-R144) -/

theorem Cx.s_on (c : Cx) (s : State) : (c.on s).s = s := by
  rw [Cx.on]
  split <;> rfl

theorem Cx.e_on (c : Cx) (s : State) : (c.on s).e = c.e := by
  rw [Cx.on]
  split <;> rfl

theorem Cx.wid_on (c : Cx) (s : State) : (c.on s).wid = c.wid := by
  rw [Cx.on]
  split
  next w b hw hb =>
    have hid : w.wid = c.wid := by simpa using List.find?_some hw
    exact hid
  next => rfl

/-- The pieces of a store: those of its lanes but helper lanes (R23). -/
def Cx.storePieces (c : Cx) (scr indexed : Bool) : List Piece := (c.pieces scr indexed).filter (fun q => !c.isHelper q.lane)

/-- The lines of a store. -/
def Cx.linesToStore (c : Cx) (scr indexed : Bool) : List PLine :=
  storeLines scr ((c.storePieces scr indexed).map (fun q => (q, c.src c.e.c (tyOf c.e) (c.readLane q.lane))))

/-- The caches of translations take the lines of a global store. -/
def Cx.filled (c : Cx) (scr : Bool) (ls : List PLine) (s : State) : State :=
  if scr then s else s.fillTlb c.w.core c.part (ls.map (fun l => 64 * l.line))

/-- A store in the buffer of its wave. -/
def Cx.stored (c : Cx) (scr : Bool) (ls : List PLine) (s : State) : Cx := c.on (c.filled scr ls (s.intoBuffer c.wid ls))

/-- What follows the store itself: with ORD 2 a commit (R143). -/
def Cx.releases (c : Cx) : Res := if ordCode c.e = 2 then c.commit (scopeCode c.e) .done else .done c.s

theorem Cx.releases_eq_done {c : Cx} (h : ordCode c.e ≠ 2) : c.releases = .done c.s := if_neg h

section
variable {c : Cx} {scr indexed : Bool}

theorem Cx.issueStore_trap (hstage : c.w.stage = 0) {t : Trap} (ht : c.faultOf (c.badPieces scr .store (c.storePieces scr indexed)) = some t) :
    c.issueStore scr indexed = .trap t := by
  rw [Cx.storePieces] at ht
  rw [Cx.issueStore, if_neg (not_not_intro hstage)]
  simp only [ht]

variable (hstage : c.w.stage = 0) (hclear : ∀ q ∈ c.storePieces scr indexed, c.cause scr .store q = none)
include hstage hclear

theorem Cx.issueStore_held (hheld : (scr && c.tileHeld (c.storePieces scr indexed)) = true) : c.issueStore scr indexed = c.waitOwner := by
  have hbad := c.badPieces_eq_nil hclear
  rw [Cx.storePieces] at hbad hheld
  rw [Cx.issueStore, if_neg (not_not_intro hstage)]
  simp only [hbad, Cx.faultOf, hheld, if_true]

variable (hheld : (scr && c.tileHeld (c.storePieces scr indexed)) = false)
include hheld

theorem Cx.issueStore_user (hhnd : c.w.mode.getLsbD 8 = false) : c.issueStore scr indexed =
    if bufNeed c.w.buf (c.linesToStore scr indexed) ≤ bufFree c.w.buf then (c.stored scr (c.linesToStore scr indexed) c.s).releases
    else if c.w.autoc = false then .trap (c.all 8#6)
    else match c.commitStart 0 with
      | .error r => r
      | .ok s => ((c.on s).on (c.filled scr (c.linesToStore scr indexed) ((c.on s).s.intoBuffer (c.on s).wid (c.linesToStore scr indexed)))).releases := by
  have hbad := c.badPieces_eq_nil hclear
  have hh : c.w.hnd = false := hhnd
  rw [Cx.storePieces] at hbad hheld
  rw [Cx.issueStore, if_neg (not_not_intro hstage)]
  simp only [hbad, Cx.faultOf, hheld, hh, Bool.false_eq_true, if_false, Bool.not_eq_true']
  rfl

theorem Cx.issueStore_handler (hhnd : c.w.mode.getLsbD 8 = true) (hord : ordCode c.e ≠ 2) {t : State}
    (ht : c.handlerStore scr (c.linesToStore scr indexed) = .done t) :
    c.issueStore scr indexed = .done (c.filled scr (c.linesToStore scr indexed) t) := by
  have hbad := c.badPieces_eq_nil hclear
  have hh : c.w.hnd = true := hhnd
  rw [Cx.linesToStore, Cx.storePieces] at ht
  rw [Cx.storePieces] at hbad hheld
  rw [Cx.issueStore, if_neg (not_not_intro hstage)]
  simp only [hbad, Cx.faultOf, hheld, hh, Bool.false_eq_true, if_false, if_true, hord, ht, Cx.e_on, Cx.s_on]
  rfl

theorem Cx.issueStore_fits (hhnd : c.w.mode.getLsbD 8 = false) (hfits : bufNeed c.w.buf (c.linesToStore scr indexed) ≤ bufFree c.w.buf) :
    c.issueStore scr indexed = (c.stored scr (c.linesToStore scr indexed) c.s).releases := by
  rw [Cx.issueStore_user hstage hclear hheld hhnd, if_pos hfits]

theorem Cx.issueStore_full (hhnd : c.w.mode.getLsbD 8 = false) (hfull : ¬bufNeed c.w.buf (c.linesToStore scr indexed) ≤ bufFree c.w.buf)
    (hautoc : c.w.mode.getLsbD 1 = false) : c.issueStore scr indexed = .trap { code := 8#6, lanes := c.w.exec } := by
  rw [Cx.issueStore_user hstage hclear hheld hhnd, if_neg hfull, Cx.all]
  exact if_pos hautoc

/-- A store that commits to its wave's block first. -/
theorem Cx.issueStore_autoc (hhnd : c.w.mode.getLsbD 8 = false) (hfull : ¬bufNeed c.w.buf (c.linesToStore scr indexed) ≤ bufFree c.w.buf)
    (hautoc : c.w.mode.getLsbD 1 = true) (hord : ordCode c.e ≠ 2) : c.issueStore scr indexed =
      match c.commitStart 0 with | .error r => r | .ok s => .done (c.stored scr (c.linesToStore scr indexed) s).s := by
  have hon : ¬c.w.autoc = false := fun h => absurd (h.symm.trans hautoc) (by decide)
  rw [Cx.issueStore_user hstage hclear hheld hhnd, if_neg hfull, if_neg hon]
  cases c.commitStart 0 with
  | error r => rfl
  | ok s =>
    simp only [Cx.stored, Cx.s_on, Cx.wid_on]
    rw [Cx.releases_eq_done (by rwa [Cx.e_on, Cx.e_on]), Cx.s_on]

end

/-- A store without release, from outside the handler, is in its wave's buffer. -/
theorem Cx.after_stored {c : Cx} {scr : Bool} (ls : List PLine) :
    ∃ tlb, c.after (c.stored scr ls c.s).s
        = { c.s with
            waves := (c.s.updWave c.wid (fun w => { w with buf := ls.foldl bufMerge w.buf }.goesOn (nextPc c.w c.e) c.s.clk)).waves
            mem := { c.s.mem with tlb := tlb } } := by
  obtain ⟨tlb, htlb⟩ : ∃ tlb, c.filled scr ls (c.s.intoBuffer c.wid ls) = { c.s.intoBuffer c.wid ls with mem := { c.s.mem with tlb := tlb } } := by
    cases scr with
    | true => exact ⟨c.s.mem.tlb, rfl⟩
    | false => exact State.fillTlb_eq (c.s.intoBuffer c.wid ls) ..
  refine ⟨tlb, ?_⟩
  have htwo := State.updWave_updWave c.s c.wid (fun w => { w with buf := ls.foldl bufMerge w.buf }) (·.goesOn (nextPc c.w c.e) c.s.clk)
  rw [Cx.stored, Cx.s_on, htlb, Cx.after_eq, ← htwo]
  rfl

/-! ## Lines to device level (R162) -/

theorem State.length_placeLines {s : State} {core p : Nat} {ls : List PLine} {ps : List (PLine × Place)} (h : s.placeLines core p ls = .ok ps) :
    ps.length = ls.length := by
  induction ls generalizing ps with
  | nil =>
    cases h
    rfl
  | cons l ls ih =>
    rw [State.placeLines] at h
    split at h
    · cases h
    · split at h
      · cases h
      next r hr =>
        cases h
        exact congrArg (· + 1) (ih hr)

/-- What writes at device level leave alone: the waves and their levels, the homes but HBM, and whether a partition logs. -/
structure State.Below (s t : State) : Prop where
  waves : t.waves = s.waves
  blocks : t.blocks = s.blocks
  clusters : t.clusters = s.clusters
  clk : t.clk = s.clk
  host : t.mem.host = s.mem.host
  tier : t.mem.tier = s.mem.tier
  peer : t.mem.peer = s.mem.peer
  logging : ∀ p, logging (t.part p) = logging (s.part p)

theorem State.Below.refl (s : State) : s.Below s := ⟨rfl, rfl, rfl, rfl, rfl, rfl, rfl, fun _ => rfl⟩

theorem State.Below.trans {s t u : State} (h : s.Below t) (h' : t.Below u) : s.Below u :=
  ⟨h'.waves.trans h.waves, h'.blocks.trans h.blocks, h'.clusters.trans h.clusters, h'.clk.trans h.clk, h'.host.trans h.host,
    h'.tier.trans h.tier, h'.peer.trans h.peer, fun p => (h'.logging p).trans (h.logging p)⟩

theorem State.logging_updPart (s : State) {f : Partition → Partition} (hf : ∀ x, (f x).dbgCtl = x.dbgCtl) (p q : Nat) :
    Machine.logging ((s.updPart p f).part q) = Machine.logging (s.part q) := by
  by_cases h : q = p
  · subst h
    have hfield := s.updPart_field hf q
    simp only [Machine.logging, hfield]
  · rw [s.part_updPart_other h]

theorem State.updPart_below (s : State) (p : Nat) {f : Partition → Partition} (hf : ∀ x, (f x).dbgCtl = x.dbgCtl) : s.Below (s.updPart p f) :=
  ⟨rfl, rfl, rfl, rfl, rfl, rfl, rfl, s.logging_updPart hf p⟩

theorem State.devWrite_below (s : State) (p : Nat) (sp : Space) (l : Nat) (d : List Byte) (m : BitVec 64) : s.Below (s.devWrite p sp l d m) := by
  have hundo : s.Below (s.saveUndo p sp l) := by
    simp only [State.saveUndo]
    split
    · exact s.updPart_below p fun _ => rfl
    · exact .refl s
  refine ⟨?_, ?_, ?_, ?_, State.devWrite_host .., State.devWrite_tier .., State.devWrite_peer .., fun q => ?_⟩
  · simp only [State.devWrite]
    split <;> exact hundo.waves
  · simp only [State.devWrite]
    split <;> exact hundo.blocks
  · simp only [State.devWrite]
    split <;> exact hundo.clusters
  · simp only [State.devWrite]
    split <;> exact hundo.clk
  · simp only [State.devWrite]
    split <;> exact hundo.logging q

/-- Lines of HBM that reach device level are written to their homes one by one. -/
theorem State.publish_hbm {p core : Nat} {held : Nat → Bool} {ls : List (PLine × Place)} (hhome : ∀ x ∈ ls, x.2.space = .hbm) (s : State) :
    s.Below (s.publish p core held ls)
    ∧ (s.publish p core held ls).mem.hbm = ls.foldl (fun m x => m.writeLine (x.2.pa / 64) x.1.data x.1.mask) s.mem.hbm := by
  induction ls generalizing s with
  | nil => exact ⟨.refl s, rfl⟩
  | cons x ls ih =>
    have hx : x.2.space = .hbm := hhome x List.mem_cons_self
    have hone := s.devWrite_below p x.2.space (x.2.pa / 64) x.1.data x.1.mask
    obtain ⟨hbelow, hhbm⟩ := ih (fun y hy => hhome y (List.mem_cons_of_mem x hy)) (s.publish p core held [x])
    have hfirst : s.Below (s.publish p core held [x]) :=
      ⟨hone.waves, hone.blocks, hone.clusters, hone.clk, hone.host, hone.tier, hone.peer, hone.logging⟩
    refine ⟨hfirst.trans hbelow, hhbm.trans ?_⟩
    have hwrite : (s.publish p core held [x]).mem.hbm = s.mem.hbm.writeLine (x.2.pa / 64) x.1.data x.1.mask := by
      show (s.devWrite p x.2.space (x.2.pa / 64) x.1.data x.1.mask).mem.hbm = _
      rw [hx, State.devWrite_hbm]
    rw [List.foldl_cons, hwrite]

/-- A step logged at device level by a partition that does not log. -/
theorem State.logDev_below {s : State} {p : Nat} (h : logging (s.part p) = false) (kind level count agent : Nat) :
    s.Below (s.logDev p kind level count agent) ∧ (s.logDev p kind level count agent).mem = s.mem := by
  have hseq := s.updPart_below p (f := fun x => { x with devSeq := x.devSeq + 1 }) fun _ => rfl
  rw [State.logDev]
  generalize hu : s.updPart p (fun x => { x with devSeq := x.devSeq + 1 }) = u at hseq
  have hlog : logging (u.part p) = false := (hseq.logging p).trans h
  have hmem : u.mem = s.mem := hu ▸ rfl
  suffices hentry : ∀ x, u.Below (u.logEntry p x) ∧ (u.logEntry p x).mem = u.mem from
    ⟨hseq.trans (hentry _).1, (hentry _).2.trans hmem⟩
  intro x
  simp only [State.logEntry, hlog]
  split
  · split
    · exact ⟨u.updPart_below p fun _ => rfl, rfl⟩
    · exact ⟨.refl u, rfl⟩
  · exact ⟨.refl u, rfl⟩

/-- A handler's store waits for the acknowledgement of each of its lines. -/
def Cx.handlerSends (c : Cx) (ps : List (PLine × Place)) : List Sent :=
  ps.map (fun x => { space := x.2.space, pline := x.2.pa / 64, data := x.1.data, mask := x.1.mask, sysWrite := false, issued := c.s.clk
                     ofCommit := false })

/-- A handler's store of lines homed in HBM (R263). -/
theorem Cx.handlerStore_global {c : Cx} {ls : List PLine} {ps : List (PLine × Place)} (hlog : c.mayLog 1 = true)
    (hps : c.s.placeLines c.w.core c.part ls = .ok ps) (hhome : ∀ q ∈ ps, q.2.space = .hbm)
    (hheld : ∀ q ∈ ps, c.s.stackHeld .hbm (q.2.pa / 64) = false) (hquiet : logging (c.s.part c.part) = false) :
    ∃ u t, c.handlerStore false ls = .done t ∧ c.s.Below u ∧ (u.updWave c.wid (·.send (c.handlerSends ps))).Below t
      ∧ t.mem.hbm = ps.foldl (fun m q => m.writeLine (q.2.pa / 64) q.1.data q.1.mask) c.s.mem.hbm := by
  have hany : ps.any (fun x => c.s.stackHeld x.2.space (x.2.pa / 64)) = false :=
    List.any_eq_false.2 fun x hx => by
      rw [hhome x hx, hheld x hx]
      decide
  obtain ⟨hbelow, hhbm⟩ := State.publish_hbm (p := c.part) (core := c.w.core) (held := fun _ => false) hhome c.s
  obtain ⟨hlogged, hmem⟩ := State.logDev_below
    (s := (c.s.publish c.part c.w.core (fun _ => false) ps).updWave c.wid (·.send (c.handlerSends ps))) (p := c.part)
    ((hbelow.logging _).trans hquiet) 1 3 ls.length (agentOf c.w)
  refine ⟨_, _, ?_, hbelow, hlogged, (congrArg Mem.hbm hmem).trans hhbm⟩
  simp only [Cx.handlerStore, hlog, hps, hany]
  rfl

/-! ## The forms of a store -/

section
variable {i : Instr} {op : Nat} {e : Enc} {s : State} {c : Cx} {scr indexed : Bool}

theorem Cx.not_held {ps : List Piece} (h : ¬(scr = true ∧ ∃ q ∈ ps, c.b.engineOwns (q.addr / 4096) = true)) : (scr && c.tileHeld ps) = false := by
  refine Bool.eq_false_iff.2 fun hheld => ?_
  obtain ⟨hscr, htile⟩ := (Bool.and_eq_true _ _).mp hheld
  exact h ⟨hscr, ((c.tileHeld_iff ps).1 htile).2⟩

/-- A store with room, outside the handler and without release, changes its wave's buffer and the caches of translations. -/
theorem exec_store_buffers (hx : exec i s = simt op e s (·.issueStore scr indexed)) (hi : Issued op e s c) (hstage : c.w.stage = 0)
    (hord : ordCode e = 0) (hhnd : c.w.mode.getLsbD 8 = false) (hclear : ∀ q ∈ c.storePieces scr indexed, c.cause scr .store q = none)
    (howned : ¬(scr = true ∧ ∃ q ∈ c.storePieces scr indexed, c.b.engineOwns (q.addr / 4096) = true))
    (hfits : bufNeed c.w.buf (c.linesToStore scr indexed) ≤ bufFree c.w.buf) :
    ∃ (t : State) (y : Wave), exec i s = .next t ∧ t.wave? c.wid = some y
      ∧ t = { c.s with waves := t.waves, mem := { c.s.mem with tlb := t.mem.tlb } }
      ∧ (∀ k, k ≠ c.wid → t.wave? k = c.s.wave? k)
      ∧ y = { c.w with buf := (c.linesToStore scr indexed).foldl bufMerge c.w.buf }.goesOn (nextPc c.w e) c.s.clk := by
  obtain rfl := issued_e hi
  have hord2 : ordCode c.e ≠ 2 := by rw [hord]; decide
  obtain ⟨tlb, ht⟩ := c.after_stored (scr := scr) (c.linesToStore scr indexed)
  have hbody : c.issueStore scr indexed = .done (c.stored scr (c.linesToStore scr indexed) c.s).s := by
    rw [Cx.issueStore_fits hstage hclear (Cx.not_held howned) hhnd hfits, Cx.releases_eq_done]
    rw [Cx.stored, Cx.e_on]
    exact hord2
  refine ⟨_, _, exec_issued hx hi hbody, ?_, ?_, fun k hk => ?_, rfl⟩
  · show (c.after _).wave? c.wid = _
    rw [ht]
    exact State.wave?_updWave_self (seenAt_of_issued hi).wave
      (f := fun w => { w with buf := (c.linesToStore scr indexed).foldl bufMerge w.buf }.goesOn (nextPc c.w c.e) c.s.clk)
  · have hfin : (Res.done (c.stored scr (c.linesToStore scr indexed) c.s).s).finish c = c.after (c.stored scr (c.linesToStore scr indexed) c.s).s := rfl
    rw [hfin, ht]
  · show (c.after _).wave? k = _
    rw [ht]
    exact State.wave?_updWave_ne hk
      (f := fun w => { w with buf := (c.linesToStore scr indexed).foldl bufMerge w.buf }.goesOn (nextPc c.w c.e) c.s.clk)

/-- A byte of a buffer that took the lines of a store. -/
theorem Cx.bufByte_stored (hfits : bufNeed c.w.buf (c.linesToStore scr indexed) ≤ bufFree c.w.buf) (sp : Bool) (a : Nat) :
    bufByte ((c.linesToStore scr indexed).foldl bufMerge c.w.buf) sp a =
      (((c.storePieces scr indexed).filter (Piece.covers scr sp a)).getLast?.map (fun q =>
        byteOf (c.src c.e.c (tyOf c.e) (c.readLane q.lane) / 2 ^ (8 * (a - q.addr))))).or (bufByte c.w.buf sp a) := by
  have hls : LinesOk (c.linesToStore scr indexed) := linesOk_storeLines ..
  rw [bufByte_foldl_bufMerge hls hfits, Cx.linesToStore, byteIn_storeLines]

/-- A faulting lane traps the whole store. -/
theorem exec_store_traps (hx : exec i s = simt op e s (·.issueStore scr indexed)) (hi : Issued op e s c) (hstage : c.w.stage = 0)
    (hbad : ∃ q ∈ c.storePieces scr indexed, c.cause scr .store q ≠ none) :
    ∃ t, c.faultOf (c.badPieces scr .store (c.storePieces scr indexed)) = some t
      ∧ (∃ q ∈ c.storePieces scr indexed, c.cause scr .store q = some t.code)
      ∧ (∀ q ∈ c.storePieces scr indexed, ∀ k, c.cause scr .store q = some k → t.code.toNat ≤ k.toNat)
      ∧ exec i s = .next (c.s.raise c.wid c.lanes t) := by
  obtain ⟨q, hq, hk⟩ := hbad
  obtain ⟨k, hk⟩ := Option.ne_none_iff_exists'.1 hk
  have hmem : (q, k) ∈ c.badPieces scr .store (c.storePieces scr indexed) := Cx.mem_badPieces.2 ⟨hq, hk⟩
  obtain ⟨t, ht, ⟨x, hx', hcode⟩, hleast⟩ := Cx.faultOf_spec (List.ne_nil_of_mem hmem)
  obtain ⟨hxq, hxk⟩ := Cx.mem_badPieces.1 hx'
  exact ⟨t, ht, ⟨x.1, hxq, hxk.trans (congrArg some hcode)⟩, fun q' hq' k' hk' => hleast (q', k') (Cx.mem_badPieces.2 ⟨hq', hk'⟩),
    exec_issued hx hi (Cx.issueStore_trap hstage ht)⟩

/-- A handler's store of lines homed in HBM writes them and counts each in %acks. -/
theorem exec_store_handler_global (hx : exec i s = simt op e s (·.issueStore false indexed)) (hi : Issued op e s c) (hstage : c.w.stage = 0)
    (hclear : ∀ q ∈ c.storePieces false indexed, c.cause false .store q = none) (hhnd : c.w.mode.getLsbD 8 = true) (hord : ordCode e = 0)
    (hlog : c.mayLog 1 = true) {ps : List (PLine × Place)} (hps : c.s.placeLines c.w.core c.part (c.linesToStore false indexed) = .ok ps)
    (hhome : ∀ q ∈ ps, q.2.space = .hbm) (hheld : ∀ q ∈ ps, c.s.stackHeld .hbm (q.2.pa / 64) = false)
    (hquiet : logging (c.s.part c.part) = false) :
    ∃ t y, exec i s = .next t ∧ t.wave? c.wid = some y ∧ y.pc = nextPc c.w e ∧ y.buf = c.w.buf
      ∧ y.acks = c.w.acks + (c.linesToStore false indexed).length
      ∧ y.vregs = c.w.vregs ∧ y.sregs = c.w.sregs ∧ y.kregs = c.w.kregs ∧ t.blocks = c.s.blocks ∧ t.clusters = c.s.clusters
      ∧ t.mem.hbm = ps.foldl (fun m q => m.writeLine (q.2.pa / 64) q.1.data q.1.mask) c.s.mem.hbm
      ∧ t.mem.host = c.s.mem.host ∧ t.mem.tier = c.s.mem.tier ∧ t.mem.peer = c.s.mem.peer := by
  obtain rfl := issued_e hi
  obtain ⟨u, t, hstore, hu, ht, hhbm⟩ := Cx.handlerStore_global hlog hps hhome hheld hquiet
  have hbody := Cx.issueStore_handler hstage hclear (Cx.not_held fun h => nomatch h.1) hhnd (by rw [hord]; decide) hstore
  obtain ⟨tlb, htlb⟩ : ∃ tlb, c.filled false (c.linesToStore false indexed) t = { t with mem := { t.mem with tlb := tlb } } := State.fillTlb_eq ..
  have hw : t.wave? c.wid = some (c.w.send (c.handlerSends ps)) := by
    rw [State.wave?, ht.waves]
    refine State.wave?_updWave_self (s := u) (f := (·.send (c.handlerSends ps))) ?_
    rw [State.wave?, hu.waves]
    exact (seenAt_of_issued hi).wave
  have hlen : (c.handlerSends ps).length = (c.linesToStore false indexed).length := by
    rw [Cx.handlerSends, List.length_map, State.length_placeLines hps]
  rw [htlb] at hbody
  refine ⟨_, _, exec_issued hx hi hbody, State.wave?_updWave_self (s := { t with mem := { t.mem with tlb := tlb } }) hw, rfl, rfl, ?_, rfl, rfl, rfl,
    ht.blocks.trans hu.blocks, ht.clusters.trans hu.clusters, hhbm, ht.host.trans hu.host, ht.tier.trans hu.tier, ht.peer.trans hu.peer⟩
  exact congrArg (c.w.acks + ·) hlen

end

/-- A store instruction, its space, and whether it is indexed. -/
def IsStore (e : Enc) (x : Instr × Bool × Bool) : Prop :=
  ∃ op : BitVec 8, x.1.code = some (op, e) ∧ ∀ s, exec x.1 s = simt op.toNat e s (·.issueStore x.2.1 x.2.2)

theorem isStore_of_mem {e : Enc} {x : Instr × Bool × Bool}
    (hx : x ∈ [(Instr.stG e, false, false), (.stS e, true, false), (.sctG e, false, true), (.sctS e, true, true)]) : IsStore e x := by
  simp only [List.mem_cons, List.not_mem_nil, or_false] at hx
  rcases hx with rfl | rfl | rfl | rfl
  · exact ⟨_, rfl, exec_stG e⟩
  · exact ⟨_, rfl, exec_stS e⟩
  · exact ⟨_, rfl, exec_sctG e⟩
  · exact ⟨_, rfl, exec_sctS e⟩

end Sys2Proof.Machine

namespace Sys2Proof.Proofs

open Sys2Proof Sys2Proof.Machine

/-- Settles O25: each form of a store is one branch of how a store issues, and the buffer is followed byte by byte. -/
theorem storesBufferTrapWaitOrRelease : Obligations.StoresBufferTrapWaitOrRelease := by
  unfold Obligations.StoresBufferTrapWaitOrRelease
  refine ⟨?buffers, ?others⟩
  case buffers =>
    intro e x hx op s c hop hi scr ps data ls hstage hord hhnd hclear howned hfits
    obtain ⟨op', hop', hexec⟩ := isStore_of_mem hx
    cases hop'.symm.trans hop
    obtain rfl := issued_e hi
    obtain ⟨t, y, hnext, hwave, hframe, hother, rfl⟩ := exec_store_buffers (hexec s) hi hstage hord hhnd hclear
      (fun ⟨hscr, q, hq, hown⟩ => absurd ((howned hscr q hq).symm.trans hown) (by decide)) hfits
    refine ⟨t, _, hnext, hwave, hframe, hother, rfl, fun sp a => ?_⟩
    have hbyte := Cx.bufByte_stored hfits sp a
    refine Eq.trans hbyte ?_
    show ((ps.filter (Piece.covers scr sp a)).getLast?.map _).or _ = match (ps.filter (Piece.covers scr sp a)).getLast? with
      | some q => some (BitVec.ofNat 8 (data q / 2 ^ (8 * (a - q.addr)))) | none => bufByte c.w.buf sp a
    cases (ps.filter (Piece.covers scr sp a)).getLast? <;> rfl
  case others =>
    rintro e ⟨i, b, indexed⟩ hx scr ps ls clear owned fits stored
    obtain ⟨op, hop, hexec⟩ := isStore_of_mem hx
    refine ⟨?traps, ?owner, ?full, ?autoc, ?release, ?tile, ?handler⟩
    case traps =>
      intro op' s c hop' hi hstage hbad
      cases hop.symm.trans hop'
      exact exec_store_traps (hexec s) hi hstage hbad
    case owner =>
      refine ends_of hop hexec fun c he ⟨⟨hstage, hclear⟩, hhnd, hscr, hown⟩ => ?_
      have hheld : (scr && c.tileHeld (c.storePieces scr indexed)) = true := by
        rw [hscr]
        exact (c.tileHeld_iff _).2 ⟨Or.inl hhnd, hscr ▸ hown⟩
      exact Cx.issueStore_held hstage hclear hheld
    case full =>
      refine ends_of hop hexec fun c he ⟨⟨hstage, hclear⟩, hhnd, hown, hfull, hautoc⟩ => ?_
      subst he
      exact Cx.issueStore_full hstage hclear (Cx.not_held hown) hhnd hfull hautoc
    case autoc =>
      refine ends_of hop hexec fun c he ⟨⟨hstage, hclear⟩, hhnd, hown, hfull, hautoc, hord⟩ => ?_
      subst he
      exact Cx.issueStore_autoc hstage hclear (Cx.not_held hown) hhnd hfull hautoc (by rw [hord]; decide)
    case release =>
      refine ends_of hop hexec fun c he ⟨⟨hstage, hclear⟩, hhnd, hown, hfits, hord⟩ => ?_
      subst he
      refine (Cx.issueStore_fits hstage hclear (Cx.not_held hown) hhnd hfits).trans ?_
      have hrel : ordCode (c.stored scr (c.linesToStore scr indexed) c.s).e = 2 := by rwa [Cx.stored, Cx.e_on]
      refine (if_pos hrel).trans ?_
      rw [Cx.stored, Cx.e_on]
      rfl
    case tile =>
      refine ends_of hop hexec fun c he ⟨⟨hstage, hclear⟩, hhnd, hscr, hown, _, hord⟩ => ?_
      subst he
      change b = true at hscr
      subst hscr
      exact Cx.issueStore_handler hstage hclear (Cx.not_held hown) hhnd (by rw [hord]; decide) rfl
    case handler =>
      intro op' s c hop' hi ⟨hstage, hclear⟩ hhnd hscr hord hlog ps' hps hhome hheld hw hquiet _
      cases hop.symm.trans hop'
      obtain rfl := issued_e hi
      change b = false at hscr
      subst hscr
      exact exec_store_handler_global (hexec s) hi hstage hclear hhnd hord hlog hps hhome hheld hquiet

end Sys2Proof.Proofs

/-! SUPPORT. A `commit.sys` that nothing keeps waiting, in its second stage (R148): the counterexample of O36. -/

namespace Sys2Proof.Machine

open Sys2Proof

/-- The commit of a wave in its stage 1 or 2 that waits for no publication and no line of its own, and whose system-homed lines are none: it
has sent what the L2 holds for a system home, nothing, in an instant of its own. -/
theorem Cx.commitRest_sys {c : Cx} (hw : c.s.wave? c.wid = some c.w) (hstage : c.w.stage ≠ 3) (hstaged : c.w.staged = [])
    (hsent : c.w.sent.any Sent.ofCommit = false) (hacks : c.w.acks = 0) (hl2 : c.s.mem.sysL2 = []) (k : State → Res) :
    c.commitRest 4 c.s k = k (c.s.sendSystem c.wid) := by
  have hsends : (c.s.sendSystem c.wid).wave? c.wid = some (c.w.send []) := by
    simp only [State.sendSystem, State.tickNow_mem, hl2, List.map_nil]
    exact State.wave?_updWave_self (s := c.s.tickNow) (f := (Wave.send · [])) hw
  rw [Cx.commitRest, hw]
  simp only [hstaged, hsent, hstage, if_false, hsends]
  have hacked : (c.w.send []).acks = 0 := hacks
  rw [if_neg (not_not_intro hacked)]
  simp

/-- A machine whose one wave has begun a `commit.sys` and has nothing to wait for. -/
def sysCommitState : State := { State.reset.withFetchWord 64 0 with cur := some 0 }.updWave 0 (fun w => { w with stage := 1 })

/-- The fields of `commit.sys`. -/
def sysCommit : Enc := ⟨64#12, 0#3, false, 511#9, 0#10, 0#10, 0#10, none⟩

/-- What that instruction sees. -/
def sysCommitCx : Cx :=
  let w := sysCommitState.waves.head (List.cons_ne_nil _ _)
  { s := sysCommitState, w := w, b := sysCommitState.blocks.head (List.cons_ne_nil _ _), g := sysCommitState.grids.head (List.cons_ne_nil _ _)
    op := 0x70, e := sysCommit, sh := opShape 0x70 sysCommit, vec := isVector (opShape 0x70 sysCommit) sysCommit, lanes := laneOn w sysCommit
    iv := { win := 0#64, clk := sysCommitState.clk, preq := w.preq, bconf := 0#32, acks := w.acks, nwaves := 1 } }

theorem sysCommitCx_issued : Issued 0x70 sysCommit sysCommitState sysCommitCx :=
  ⟨0, _, _, _, _, _, rfl, rfl, rfl, rfl, by decide +kernel, by decide +kernel, by decide +kernel, rfl, rfl⟩

end Sys2Proof.Machine

namespace Sys2Proof.Proofs

open Sys2Proof Sys2Proof.Machine

/-- Refutes O36: the statement says that a `commit.sys` past its first stage, with no staged line, no line sent and none that the L2 holds for a
system home, goes on in the machine as it is; the model sends the L2's lines first, and that takes an instant though there are none. -/
theorem not_commitsToDeviceLevel : ¬ Obligations.CommitsToDeviceLevel := by
  unfold Obligations.CommitsToDeviceLevel
  rintro ⟨hcommit, -⟩
  have hi := sysCommitCx_issued
  have hwave := (seenAt_of_issued hi).wave
  obtain ⟨hblock, huid⟩ := block?_of_issued hi
  obtain ⟨-, -, -, -, -, hends, -⟩ := hcommit _ _ _ hi hwave hblock huid (Or.inr (by decide +kernel))
  have hstays := hends (Or.inl (by decide +kernel)) (by decide +kernel) (by decide +kernel) (Or.inr ⟨by decide +kernel, by decide +kernel⟩)
  have hsends : exec (.commit sysCommit) sysCommitState = .next (sysCommitCx.after (sysCommitCx.s.sendSystem sysCommitCx.wid)) :=
    exec_issued (exec_commit _ _) hi (r := .done _)
      (Cx.commitRest_sys hwave (by decide +kernel) (by decide +kernel) (by decide +kernel) (by decide +kernel) (by decide +kernel) .done)
  have hnow : sysCommitCx.s.now + 1 = sysCommitCx.s.now := congrArg State.now (Host.Outcome.next.inj (hsends.symm.trans hstays))
  omega

end Sys2Proof.Proofs

/-! SUPPORT. Pending causes, sleeps, the watchdog, the halt and the fault queue (R158, R258, R276, R277): bytes written at device level and by virtual
address, the posting of a fault record, the order of pending causes, and what an event makes of its wave: the lemmas of O37. -/

namespace Sys2Proof.Machine

open Sys2Proof

/-! ## Bytes written at device level -/

theorem getLsbD_foldl_bits (f : Nat → Bool) {n : Nat} (hn : n ≤ 64) (k : Nat) :
    ((List.range n).foldl (fun (m : BitVec 64) i => if f i then m ||| (1#64 <<< i) else m) 0#64).getLsbD k = (decide (k < n) && f k) := by
  induction n with
  | zero => simp
  | succ n ih =>
    rw [List.range_succ, List.foldl_append, List.foldl_cons, List.foldl_nil]
    have hbit : (1#64 <<< n).getLsbD k = decide (k = n) := by
      rw [BitVec.getLsbD_shiftLeft, BitVec.getLsbD_one]
      by_cases hk : k = n
      · subst hk
        simp
        omega
      · by_cases hlt : k < n
        · simp [hk, hlt]
        · simp [hk]
          omega
    by_cases hk : k = n
    · subst hk
      split
      next hf => rw [BitVec.getLsbD_or, hbit]; simp [hf]
      next hf => rw [ih (by omega)]; simp [hf]
    · have hlt : decide (k < n + 1) = decide (k < n) := by simp; omega
      split
      · rw [BitVec.getLsbD_or, hbit, ih (by omega), hlt]; simp [hk]
      · rw [ih (by omega), hlt]

/-- The bytes at `a` as they lie in a line, and which of the line they are. -/
def lineBytes (a : Nat) (bs : List Byte) (l : Nat) : List Byte :=
  (List.range 64).map (fun i => if a ≤ 64 * l + i then bs.getD (64 * l + i - a) 0#8 else 0#8)
def lineMask (a n l : Nat) : BitVec 64 :=
  (List.range 64).foldl (fun (m : BitVec 64) i => if decide (a ≤ 64 * l + i) && decide (64 * l + i < a + n) then m ||| (1#64 <<< i) else m) 0#64

theorem getLsbD_lineMask (a n l : Nat) {k : Nat} (hk : k < 64) :
    (lineMask a n l).getLsbD k = (decide (a ≤ 64 * l + k) && decide (64 * l + k < a + n)) := by
  rw [lineMask, getLsbD_foldl_bits (fun i => decide (a ≤ 64 * l + i) && decide (64 * l + i < a + n)) (Nat.le_refl 64), decide_eq_true hk, Bool.true_and]

theorem Memory.read_writeLine_bytes {m : Memory} (hm : m.wf) (a : Nat) (bs : List Byte) (l q : Nat) :
    (m.writeLine l (lineBytes a bs l) (lineMask a bs.length l)).read q =
      if q / 64 = l ∧ a ≤ q ∧ q < a + bs.length then bs.getD (q - a) 0#8 else m.read q := by
  have hq : q % 64 < 64 := Nat.mod_lt q (by decide)
  rw [Memory.read_writeLine hm l (by simp [lineBytes]), getLsbD_lineMask a bs.length l hq]
  by_cases hl : q / 64 = l
  · subst hl
    have hsum : 64 * (q / 64) + q % 64 = q := Nat.div_add_mod q 64
    simp only [hsum, true_and, Bool.and_eq_true, decide_eq_true_eq]
    by_cases hin : a ≤ q ∧ q < a + bs.length
    · rw [if_pos hin, if_pos hin, lineBytes, List.getD_eq_getElem?_getD, List.getElem?_map, List.getElem?_range hq, Option.map_some,
        Option.getD_some, hsum, if_pos hin.1]
    · rw [if_neg hin, if_neg hin]
  · rw [if_neg fun h => hl h.1, if_neg fun h => hl h.1]

/-- Bytes written line by line, on `n` lines from `l`. -/
theorem Memory.read_writeLines_bytes {m : Memory} (hm : m.wf) (a : Nat) (bs : List Byte) (l n q : Nat) :
    (((List.range n).map (l + ·)).foldl (fun m l => m.writeLine l (lineBytes a bs l) (lineMask a bs.length l)) m).read q =
      if (l ≤ q / 64 ∧ q / 64 < l + n) ∧ a ≤ q ∧ q < a + bs.length then bs.getD (q - a) 0#8 else m.read q := by
  induction n with
  | zero => exact (if_neg (by omega)).symm
  | succ n ih =>
    have hwf := Memory.foldl_wf (f := fun m l => m.writeLine l (lineBytes a bs l) (lineMask a bs.length l))
      (fun _ _ h => Memory.writeLine_wf h _ _ _) ((List.range n).map (l + ·)) hm
    rw [List.range_succ, List.map_append, List.foldl_append, List.map_singleton, List.foldl_cons, List.foldl_nil,
      Memory.read_writeLine_bytes hwf, ih]
    by_cases hat : q / 64 = l + n
    · simp [hat]
    · have h1 : (l ≤ q / 64 ∧ q / 64 < l + (n + 1)) ↔ (l ≤ q / 64 ∧ q / 64 < l + n) := by omega
      simp only [hat, false_and, if_false, h1]

theorem State.devWriteBytes_eq (s : State) (p : Nat) (sp : Space) (a : Nat) (bs : List Byte) : s.devWriteBytes p sp a bs =
    ((List.range ((a % 64 + bs.length + 63) / 64)).map (a / 64 + ·)).foldl
      (fun s l => s.devWrite p sp l (lineBytes a bs l) (lineMask a bs.length l)) s := rfl

theorem State.foldl_devWrite_hbm (p : Nat) (d : Nat → List Byte) (m : Nat → BitVec 64) (ls : List Nat) (s : State) :
    (ls.foldl (fun s l => s.devWrite p .hbm l (d l) (m l)) s).mem.hbm = ls.foldl (fun h l => h.writeLine l (d l) (m l)) s.mem.hbm := by
  induction ls generalizing s with
  | nil => rfl
  | cons l ls ih => rw [List.foldl_cons, List.foldl_cons, ih, State.devWrite_hbm]

/-- A write of bytes of HBM at device level. -/
theorem State.devWriteBytes_wrote {s : State} (h : s.mem.wf) (p a : Nat) (bs : List Byte) : Wrote s (s.devWriteBytes p .hbm a bs) a bs := by
  intro q
  obtain ⟨hhbm, -⟩ := h
  rw [State.devWriteBytes_eq, State.foldl_devWrite_hbm p (lineBytes a bs) (lineMask a bs.length), Memory.read_writeLines_bytes hhbm]
  by_cases hin : a ≤ q ∧ q < a + bs.length
  · have hline : a / 64 ≤ q / 64 ∧ q / 64 < a / 64 + (a % 64 + bs.length + 63) / 64 := by omega
    rw [if_pos ⟨hline, hin⟩, if_pos hin]
  · rw [if_neg fun hx => hin hx.2, if_neg hin]

/-! ## A write by virtual address -/

theorem State.translateDie_congr {s t : State} (hmem : t.mem = s.mem) (hhub : t.hub = s.hub) {p : Nat}
    (hctx : (t.part p).ctx = (s.part p).ctx) (die : Nat) (acc : Access) (va : Nat) : t.translateDie die p acc va = s.translateDie die p acc va := by
  have hworld : t.world p = s.world p := by rw [State.world, hctx, State.world]
  have hroot : t.root p = s.root p := by rw [State.root, hctx, State.root]
  have hlocal (pl : Place) : t.localPeer pl = s.localPeer pl := by rw [State.localPeer, hhub]; rfl
  have hsecure (pl : Place) : t.securePlace pl = s.securePlace pl := by rw [State.securePlace, State.secured, hhub]; rfl
  have hcheck (x : Dword × Nat) : t.checkLeaf p acc va x = s.checkLeaf p acc va x := by
    simp only [State.checkLeaf, hworld, hlocal, hsecure]
  have hlook : t.lookupDie die p va = s.lookupDie die p va := by
    simp only [State.lookupDie, State.tlbFind, hmem, hworld, hroot, State.walk_congr (congrArg Mem.hbm hmem) hhub]
  unfold State.translateDie
  rw [hlook]
  split
  · rfl
  · exact hcheck _

theorem State.extentHere_hbm (s : State) (pline : Nat) : s.extentHere .hbm pline = true := by
  simp [State.extentHere, portTarget]

/-- A write by virtual address inside one line of HBM. -/
theorem State.vwrite_line {s : State} {die p va : Nat} {bs : List Byte} {pl : Place} (hpos : bs ≠ []) (hline : va % 64 + bs.length ≤ 64)
    (htr : s.translateDie die p .store va = .ok pl) (hhome : pl.space = .hbm) :
    s.vwrite die p va bs = .ok (s.devWriteBytes p .hbm pl.pa bs) := by
  have hlen : 0 < bs.length := List.length_pos_iff.2 hpos
  have hone : (va % 64 + bs.length + 63) / 64 = 1 := by omega
  have hlo : max va (64 * (va / 64)) = va := by omega
  have hhi : min (va + bs.length) (64 * (va / 64) + 64) - va = bs.length := by omega
  simp only [State.vwrite, hone, List.range_one, List.map_cons, List.map_nil, Nat.add_zero, hlo, htr, List.find?_cons, List.find?_nil, hhome,
    State.extentHere_hbm, List.foldl_cons, List.foldl_nil, Nat.sub_self, List.drop_zero, hhi, List.take_length]
  simp

/-! ## Posting a fault record (R276) -/

theorem leBytes_mod (n x : Nat) : leBytes n (x % 256 ^ n) = leBytes n x := by
  have h := leBytes_leNat (leBytes n x)
  rwa [leBytes_length, leNat_leBytes] at h

/-- The bytes of a record. -/
theorem faultRecord_bytes (source : Nat) (cause : BitVec 6) (addr : Dword) (agent : Nat) (clk : Dword) :
    (faultRecord source cause addr agent clk).flatMap (fun w => leBytes 8 w.toNat) =
      leBytes 8 (source * 256 + cause.toNat) ++ leBytes 8 addr.toNat ++ leBytes 8 (agent % 65536) ++ leBytes 8 clk.toNat := by
  have hword (x : Nat) : leBytes 8 (dword x).toNat = leBytes 8 x := by
    rw [dword, BitVec.toNat_ofNat]
    exact leBytes_mod 8 x
  simp only [faultRecord, List.flatMap_cons, List.flatMap_nil, hword, List.append_nil, List.append_assoc]

theorem State.drainFq_of_none {s : State} {p : Nat} (h : (s.part p).fqHeld = []) (n : Nat) : s.drainFq p n = s := by
  cases n with
  | zero => rfl
  | succ n => simp only [State.drainFq, h]

/-- A record that finds the queue full, or the whole-memory copy running, waits. -/
theorem State.drainFq_waits {s : State} {p : Nat} (hex : fqExists (s.part p) = true)
    (hfull : 2 ^ (s.part p).fqSize.toNat ≤ ((s.part p).fqWrite - (s.part p).fqRead).toNat ∨ s.hub.ckptRun = true) (n : Nat) : s.drainFq p n = s := by
  cases n with
  | zero => rfl
  | succ n =>
    have hheld : (s.hub.ckptRun || decide (2 ^ (s.part p).fqSize.toNat ≤ ((s.part p).fqWrite - (s.part p).fqRead).toNat)) = true := by
      simp only [Bool.or_eq_true, decide_eq_true_eq]
      exact hfull.symm
    simp only [State.drainFq, hex, hheld]
    split <;> rfl

/-- What device-level writes leave of a partition's fault queue, and of how many partitions there are. -/
structure FqSame (p : Nat) (s t : State) : Prop where
  length : t.parts.length = s.parts.length
  irq : (t.part p).irq0 = (s.part p).irq0
  write : (t.part p).fqWrite = (s.part p).fqWrite

theorem FqSame.updPart (s : State) (p : Nat) {f : Partition → Partition} (hirq : ∀ x, (f x).irq0 = x.irq0) (hwrite : ∀ x, (f x).fqWrite = x.fqWrite) :
    FqSame p s (s.updPart p f) := ⟨List.length_modify .., s.updPart_field hirq p, s.updPart_field hwrite p⟩

theorem State.devWrite_fqSame (s : State) (p : Nat) (sp : Space) (l : Nat) (d : List Byte) (m : BitVec 64) : FqSame p s (s.devWrite p sp l d m) := by
  have hundo : FqSame p s (s.saveUndo p sp l) := by
    simp only [State.saveUndo]
    split
    · exact FqSame.updPart s p (fun _ => rfl) fun _ => rfl
    · exact ⟨rfl, rfl, rfl⟩
  obtain ⟨hlength, hirq, hwrite⟩ := hundo
  simp only [State.devWrite]
  split <;> exact ⟨hlength, hirq, hwrite⟩

theorem State.devWriteBytes_fqSame (s : State) (p : Nat) (sp : Space) (a : Nat) (bs : List Byte) : FqSame p s (s.devWriteBytes p sp a bs) :=
  List.foldlRecOn (motive := FqSame p s) _ _ ⟨rfl, rfl, rfl⟩ fun t ⟨hlength, hirq, hwrite⟩ l _ => by
    obtain ⟨hlength', hirq', hwrite'⟩ := t.devWrite_fqSame p sp l (lineBytes a bs l) (lineMask a bs.length l)
    exact ⟨hlength'.trans hlength, hirq'.trans hirq, hwrite'.trans hwrite⟩

theorem State.devWriteBytes_waves (s : State) (p : Nat) (sp : Space) (a : Nat) (bs : List Byte) : (s.devWriteBytes p sp a bs).waves = s.waves :=
  (FqFrame.foldl (fun u l => State.devWrite_fqFrame u p sp l (lineBytes a bs l) (lineMask a bs.length l)) _ s).waves

/-- The only record that waits, written at the ring's next place. -/
theorem State.drainFq_writes {s : State} {p va : Nat} {r : HeldFault} {pl : Place} (hp : p < s.parts.length) (hheld : (s.part p).fqHeld = [r])
    (hex : fqExists (s.part p) = true) (hroom : ¬2 ^ (s.part p).fqSize.toNat ≤ ((s.part p).fqWrite - (s.part p).fqRead).toNat)
    (hckpt : s.hub.ckptRun = false) (hlen : (r.words.flatMap (fun w => leBytes 8 w.toNat)).length = 32)
    (hva : va = (s.part p).fqBase.toNat + 32 * ((s.part p).fqWrite.toNat % 2 ^ (s.part p).fqSize.toNat))
    (hline : va % 32 = 0) (htr : s.translateDie 0 p .store va = .ok pl) (hhome : pl.space = .hbm) (n : Nat) :
    s.drainFq p (n + 1) = (s.devWriteBytes p .hbm pl.pa (r.words.flatMap (fun w => leBytes 8 w.toNat))).updPart p
      (fun y => { y with fqHeld := [], fqWrite := y.fqWrite + 1#64, irq0 := y.irq0 + 1 }) := by
  have hwrite := State.vwrite_line (die := 0) (p := p) (va := va) (bs := r.words.flatMap (fun w => leBytes 8 w.toNat))
    (List.ne_nil_of_length_pos (by omega)) (by omega) htr hhome
  have hgo : (s.hub.ckptRun || decide (2 ^ (s.part p).fqSize.toNat ≤ ((s.part p).fqWrite - (s.part p).fqRead).toNat)) = false := by
    rw [hckpt, decide_eq_false hroom]
    rfl
  rw [State.drainFq]
  simp only [hheld, hex, hgo, ← hva, hwrite]
  refine State.drainFq_of_none ?_ n
  rw [State.part_updPart_same _ ((s.devWriteBytes_fqSame ..).length ▸ hp)]

theorem fqExists_iff (x : Partition) : fqExists x = true ↔
    x.fqBase ≠ 0#64 ∧ x.fqBase.toNat % 64 = 0 ∧ 4 ≤ x.fqSize.toNat ∧ x.fqSize.toNat ≤ 16 := by
  simp [fqExists, and_assoc]

/-- A machine in which a record waits for the queue of a partition that held none. -/
def State.holdFault (s : State) (p : Nat) (r : HeldFault) : State := s.updPart p (fun x => { x with fqHeld := [r] })

theorem State.postFault_eq {s : State} {p : Nat} (hp : p < s.parts.length) (hheld : (s.part p).fqHeld = []) (source : Nat) (cause : BitVec 6)
    (addr : Dword) (agent unit : Nat) : s.postFault p source cause addr agent unit =
      (s.holdFault p { source := source, unit := unit, words := faultRecord source cause addr agent s.clk }).drainFq p 2 := by
  have hhold : s.updPart p (fun x => { x with
      fqHeld := x.fqHeld ++ [{ source := source, unit := unit, words := faultRecord source cause addr agent s.clk }] })
      = s.holdFault p { source := source, unit := unit, words := faultRecord source cause addr agent s.clk } :=
    s.updPart_congr (by rw [hheld]; rfl)
  rw [State.postFault, hhold, State.holdFault, State.part_updPart_same _ hp]
  rfl

/-- Without a queue a record is dropped, and signalled. -/
theorem State.drainFq_holdFault_dropped {s : State} {p : Nat} (hp : p < s.parts.length) (hheld : (s.part p).fqHeld = []) {r : HeldFault}
    (hex : fqExists (s.part p) = false) :
    ((s.holdFault p r).drainFq p 2).part p = { s.part p with irq0 := (s.part p).irq0 + 1 } ∧ ((s.holdFault p r).drainFq p 2).mem = s.mem := by
  have hpart : (s.holdFault p r).part p = { s.part p with fqHeld := [r] } := State.part_updPart_same _ hp _
  have hdrops := State.drainFq_drops p 2 (s.holdFault p r) (Or.inr (by rw [hpart]; exact hex)) (by rw [hpart]; exact Nat.lt_succ_self 1)
  rw [hdrops, State.part_updPart_same _ (by simpa [State.holdFault] using hp), hpart]
  refine ⟨?_, rfl⟩
  show ({ s.part p with fqHeld := [], irq0 := (s.part p).irq0 + 1 } : Partition) = _
  rw [← hheld]

section
variable {s : State} {p : Nat} (hp : p < s.parts.length)
include hp

theorem State.part_holdFault (r : HeldFault) : (s.holdFault p r).part p = { s.part p with fqHeld := [r] } := State.part_updPart_same _ hp _

/-- A full queue, or the whole-memory copy, keeps the record and holds the unit that posted it. -/
theorem State.drainFq_holdFault_waits {r : HeldFault} (hex : fqExists (s.part p) = true)
    (hfull : 2 ^ (s.part p).fqSize.toNat ≤ ((s.part p).fqWrite - (s.part p).fqRead).toNat ∨ s.hub.ckptRun = true) :
    (s.holdFault p r).drainFq p 2 = s.holdFault p r ∧ (s.holdFault p r).unitHeld r.source r.unit = true := by
  have hpart := State.part_holdFault hp r
  refine ⟨State.drainFq_waits (by rw [hpart]; exact hex) (by rw [hpart]; exact hfull) 2, ?_⟩
  have hmem : (s.holdFault p r).part p ∈ (s.holdFault p r).parts := by
    have hlen : p < (s.holdFault p r).parts.length := by rwa [State.holdFault, State.updPart_parts, List.length_modify]
    rw [State.part, List.getD_eq_getElem _ _ hlen]
    exact List.getElem_mem hlen
  refine List.any_eq_true.2 ⟨_, hmem, ?_⟩
  rw [hpart]
  simp

/-- A record goes into the ring's next place, and is signalled. -/
theorem State.drainFq_holdFault_writes {va : Nat} {r : HeldFault} {pl : Place} (hex : fqExists (s.part p) = true)
    (hroom : ¬2 ^ (s.part p).fqSize.toNat ≤ ((s.part p).fqWrite - (s.part p).fqRead).toNat) (hckpt : s.hub.ckptRun = false) (hwf : s.mem.wf)
    (hlen : (r.words.flatMap (fun w => leBytes 8 w.toNat)).length = 32)
    (hva : va = (s.part p).fqBase.toNat + 32 * ((s.part p).fqWrite.toNat % 2 ^ (s.part p).fqSize.toNat))
    (htr : s.translateDie 0 p .store va = .ok pl) (hhome : pl.space = .hbm) :
    let t := (s.holdFault p r).drainFq p 2
    (t.part p).fqHeld = [] ∧ (t.part p).irq0 = (s.part p).irq0 + 1 ∧ (t.part p).fqWrite = (s.part p).fqWrite + 1#64 ∧ t.waves = s.waves
      ∧ Wrote s t pl.pa (r.words.flatMap (fun w => leBytes 8 w.toNat)) := by
  have hpart := State.part_holdFault hp r
  have hlength : (s.holdFault p r).parts.length = s.parts.length := List.length_modify ..
  have hline : va % 32 = 0 := by
    obtain ⟨-, halign, -⟩ := (fqExists_iff _).1 hex
    omega
  have htr' : (s.holdFault p r).translateDie 0 p .store va = .ok pl :=
    (State.translateDie_congr (s := s) (t := s.holdFault p r) rfl rfl (by rw [hpart]) ..).trans htr
  have hwrites := State.drainFq_writes (s := s.holdFault p r) (va := va) (r := r) (by rwa [hlength]) (by rw [hpart]) (by rw [hpart]; exact hex)
    (by rw [hpart]; exact hroom) hckpt hlen (by rw [hpart]; exact hva) hline htr' hhome 1
  have hsame := (s.holdFault p r).devWriteBytes_fqSame p .hbm pl.pa (r.words.flatMap (fun w => leBytes 8 w.toNat))
  have hirq := hsame.irq
  have hwrite := hsame.write
  rw [hpart] at hirq hwrite
  intro t
  have ht : t = _ := hwrites
  have htpart : t.part p = _ := (congrArg (State.part · p) ht).trans (State.part_updPart_same _ (by rwa [hsame.length, hlength]) _)
  refine ⟨by rw [htpart], ?_, ?_, ?_, ?_⟩
  · rw [htpart]
    exact congrArg (· + 1) hirq
  · rw [htpart]
    exact congrArg (· + 1#64) hwrite
  · rw [ht]
    exact State.devWriteBytes_waves ..
  · rw [ht]
    exact State.devWriteBytes_wrote (s := s.holdFault p r) hwf p pl.pa _

end

/-! ## Pending causes (R258) -/

/-- The place of a cause in the order in which pending causes are taken. -/
def causeRank (c : BitVec 6) : Nat := if c = 63#6 then 0 else if c = 48#6 then 1 else if c = 51#6 then 2 else if c = 50#6 then 3 else 4 + c.toNat

theorem one_le_causeRank {c : BitVec 6} (h63 : c ≠ 63#6) : 1 ≤ causeRank c := by
  rw [causeRank, if_neg h63]
  split_ifs <;> omega

theorem two_le_causeRank {c : BitVec 6} (h63 : c ≠ 63#6) (h48 : c ≠ 48#6) : 2 ≤ causeRank c := by
  rw [causeRank, if_neg h63, if_neg h48]
  split_ifs <;> omega

theorem three_le_causeRank {c : BitVec 6} (h63 : c ≠ 63#6) (h48 : c ≠ 48#6) (h51 : c ≠ 51#6) : 3 ≤ causeRank c := by
  rw [causeRank, if_neg h63, if_neg h48, if_neg h51]
  split_ifs <;> omega

theorem causeRank_of_others {c : BitVec 6} (h63 : c ≠ 63#6) (h48 : c ≠ 48#6) (h51 : c ≠ 51#6) (h50 : c ≠ 50#6) : causeRank c = 4 + c.toNat := by
  rw [causeRank, if_neg h63, if_neg h48, if_neg h51, if_neg h50]

/-- The earlier of two pending causes by code. -/
def lowerPending (best : Option Pending) (p : Pending) : Option Pending :=
  match best with
  | none => some p
  | some b => if p.code.toNat < b.code.toNat then some p else some b

theorem foldl_lowerPending (ps : List Pending) (b : Pending) : ∃ q, ps.foldl lowerPending (some b) = some q ∧ (q = b ∨ q ∈ ps)
    ∧ q.code.toNat ≤ b.code.toNat ∧ ∀ x ∈ ps, q.code.toNat ≤ x.code.toNat := by
  induction ps generalizing b with
  | nil => exact ⟨b, rfl, Or.inl rfl, Nat.le_refl _, fun x hx => nomatch hx⟩
  | cons p ps ih =>
    rw [List.foldl_cons, lowerPending]
    split
    next hlt =>
      obtain ⟨q, hq, hmem, hle, hall⟩ := ih p
      refine ⟨q, hq, Or.inr ?_, by omega, List.forall_mem_cons.2 ⟨hle, hall⟩⟩
      rcases hmem with rfl | hmem
      · exact List.mem_cons_self
      · exact List.mem_cons_of_mem p hmem
    next hge =>
      obtain ⟨q, hq, hmem, hle, hall⟩ := ih b
      exact ⟨q, hq, hmem.imp_right (List.mem_cons_of_mem p), hle, List.forall_mem_cons.2 ⟨by omega, hall⟩⟩

/-- Whichever pending cause is picked is one of them, and none comes before it. -/
theorem firstPending_spec {ps : List Pending} {p : Pending} (h : firstPending ps = some p) :
    p ∈ ps ∧ ∀ x ∈ ps, causeRank p.code ≤ causeRank x.code := by
  have hpick {c : BitVec 6} {q : Pending} (hq : ps.find? (fun p => p.code = c) = some q) : q ∈ ps ∧ q.code = c :=
    ⟨List.mem_of_find?_eq_some hq, by simpa using List.find?_some hq⟩
  have hnone {c : BitVec 6} (hc : ps.find? (fun p => p.code = c) = none) (x : Pending) (hx : x ∈ ps) : x.code ≠ c := by
    simpa using List.find?_eq_none.1 hc x hx
  simp only [firstPending] at h
  split at h
  next q h63 =>
    cases h
    obtain ⟨hmem, hcode⟩ := hpick h63
    exact ⟨hmem, fun x _ => by rw [hcode]; exact Nat.zero_le _⟩
  next h63 =>
  split at h
  next q h48 =>
    cases h
    obtain ⟨hmem, hcode⟩ := hpick h48
    exact ⟨hmem, fun x hx => by rw [hcode]; exact one_le_causeRank (hnone h63 x hx)⟩
  next h48 =>
  split at h
  next q h51 =>
    cases h
    obtain ⟨hmem, hcode⟩ := hpick h51
    exact ⟨hmem, fun x hx => by rw [hcode]; exact two_le_causeRank (hnone h63 x hx) (hnone h48 x hx)⟩
  next h51 =>
  split at h
  next q h50 =>
    cases h
    obtain ⟨hmem, hcode⟩ := hpick h50
    exact ⟨hmem, fun x hx => by rw [hcode]; exact three_le_causeRank (hnone h63 x hx) (hnone h48 x hx) (hnone h51 x hx)⟩
  next h50 =>
  cases ps with
  | nil => cases h
  | cons b bs =>
    obtain ⟨q, hq, hmem, hle, hall⟩ := foldl_lowerPending bs b
    cases hq.symm.trans h
    have hp : p ∈ b :: bs := List.mem_cons.2 hmem
    refine ⟨hp, fun x hx => ?_⟩
    have hrank (y : Pending) (hy : y ∈ b :: bs) : causeRank y.code = 4 + y.code.toNat :=
      causeRank_of_others (hnone h63 y hy) (hnone h48 y hy) (hnone h51 y hy) (hnone h50 y hy)
    rw [hrank p hp, hrank x hx]
    rcases List.mem_cons.1 hx with rfl | hx
    · exact Nat.add_le_add_left hle 4
    · exact Nat.add_le_add_left (hall x hx) 4

section
variable {s : State} {wid : Nat} {w : Wave} (hw : s.wave? wid = some w)
include hw

/-! ## Taking a cause (R258, R262) -/

theorem State.drainLoads_of_none (hloads : w.loads = []) : s.drainLoads wid = s := by
  rw [State.drainLoads, hw]
  simp [hloads]

theorem State.handler_updWave {f : Wave → Wave} (hf : ∀ y, (f y).wid = y.wid) (hblk : (f w).blk = w.blk) :
    (s.updWave wid f).handler wid = s.handler wid := by
  have hpart : (s.updWave wid f).partOfWave wid = s.partOfWave wid := by
    rw [State.partOfWave, State.partOfWave, State.wave?_updWave_self hw hf, hw]
    show (s.updWave wid f).partOfBlock (f w).blk = s.partOfBlock w.blk
    rw [hblk]
    rfl
  rw [State.handler, hpart]
  rfl

/-- At a boundary with traps not masked the first pending cause is taken. -/
theorem exec_asyncCauseTaken_takes {p : Pending} (hrun : s.canRun w = true) (hbound : w.atBoundary = true) (hmask : w.mode.getLsbD 9 = false)
    (hp : firstPending w.pend = some p) : exec (.asyncCauseTaken wid) s = .next (s.takeAsync wid p) := by
  have htmask : w.tmask = false := hmask
  rw [exec_asyncCauseTaken, execAsyncCauseTaken, hw]
  simp only [hrun, hbound, htmask, hp]
  rfl

/-- A wave without outstanding loads enters its handler for a cause that neither checks nor saves. -/
theorem State.takeAsync_enters {p : Pending} (hloads : w.loads = []) (h63 : p.code ≠ 63#6) (h48 : p.code ≠ 48#6) :
    s.takeAsync wid p = (s.updWave wid (fun y => y.dropPend p.code)).enterHandler wid
      { p.trec with pc := w.pc, exec := w.exec, clk := s.clk, async := true } .plain w.keptStage.1 w.keptStage.2 := by
  have hdrain : s.mayDrain wid = true := by simp [State.mayDrain, State.drainHeld, hw, hloads]
  rw [State.takeAsync, hw]
  simp only [if_neg h63, if_neg h48, hdrain]
  rfl

/-- A cause 63 stops its wave. -/
theorem exec_asyncCauseTaken_checks {p : Pending} (hrun : s.canRun w = true) (hbound : w.atBoundary = true) (hmask : w.mode.getLsbD 9 = false)
    (hp : firstPending w.pend = some p) (h63 : p.code = 63#6) :
    ∃ t y, exec (.asyncCauseTaken wid) s = .next t ∧ t.wave? wid = some y ∧ y.stopped = true ∧ y.mcheck = true ∧ y.stall = 1#4 ∧ y.pc = w.pc := by
  have htaken : s.takeAsync wid p = (s.updWave wid (fun y => y.dropPend 63#6)).machineCheck wid
      { p.trec with pc := w.pc, exec := w.exec, clk := s.clk } p.trec.addr := by
    rw [State.takeAsync, hw]
    exact if_pos h63
  have hchecked := State.machineCheck_wave (State.wave?_updWave_self (f := fun y => y.dropPend 63#6) hw) wid
    { p.trec with pc := w.pc, exec := w.exec, clk := s.clk } p.trec.addr
  rw [if_pos rfl] at hchecked
  rw [← htaken] at hchecked
  exact ⟨_, _, exec_asyncCauseTaken_takes hw hrun hbound hmask hp, hchecked, rfl, rfl, rfl, rfl⟩

/-- What a wave without outstanding loads is in its handler. -/
def Wave.entered (x : Wave) (r : TrapRec) (ph : Phase) (h : Dword) (us ua : Nat) : Wave :=
  { x with
    trec := r.words, epc := lowPc r.pc, emode := x.mode, eexec := x.exec, estack := setAside x.stack, edepth := x.stack.length
    upc := lowPc r.pc, mode := x.mode ||| 0x300#32, exec := BitVec.allOnes 32, stack := [], pc := h, phase := ph
    stage := 0, aux := 0, issued := none, uwait := if r.async && x.wait.kept then x.wait else .no
    ustage := us, uaux := ua, uissued := if us = 0 then none else x.issued
    wait := .no, stall := 0#4 }

theorem State.enterHandler_eq (hloads : w.loads = []) (r : TrapRec) (ph : Phase) (us ua : Nat) :
    s.enterHandler wid r ph us ua = s.updWave wid (fun x => x.entered r ph (s.handler wid) us ua) := by
  rw [State.enterHandler, State.drainLoads_of_none hw hloads]
  rfl

/-- What the return from a handler that restores nothing makes of its wave's wait. -/
theorem State.wait_returnFromHandler (hphase : w.phase ≠ .restore) (hpc : w.epc = w.upc) :
    ((s.returnFromHandler wid).wave? wid).map Wave.wait = some w.uwait := by
  unfold State.returnFromHandler
  simp only [hw, if_neg hphase]
  rw [State.wave?_updWave_self hw, Option.map_some, if_pos hpc]

end

theorem getElem?_setAside {st : List (Dword × LaneMask)} {k : Nat} (hk : k < st.length) : (setAside st)[k]? = st.reverse[k]? := by
  rw [setAside, List.getElem?_append_left (by simpa using hk)]

theorem Wait.kept_eq_false_iff (x : Wait) : x.kept = false ↔ x ∈ [Wait.no, .scoreboard, .fetch, .queue, .sleep] := by
  cases x <;> decide

/-! ## Causes made pending (R258, R261, R277) -/

theorem Wave.pendCause_of_new {w : Wave} {code : BitVec 6} (h : ∀ p ∈ w.pend, p.code ≠ code) (r : TrapRec) :
    w.pendCause code r = { w with pend := w.pend ++ [⟨code, { r with async := true }⟩] } := by
  have hany : w.pend.any (fun p => p.code = code) = false := List.any_eq_false.2 fun p hp => by simpa using h p hp
  rw [Wave.pendCause, hany]
  rfl

theorem Wave.pendCause_of_pending {w : Wave} {code : BitVec 6} (h : ∃ p ∈ w.pend, p.code = code) (r : TrapRec) :
    (w.pendCause code r).pend = w.pend.map (fun p => if p.code = code then { p with trec := { p.trec with ovf := true } } else p) := by
  obtain ⟨p, hp, hcode⟩ := h
  have hany : w.pend.any (fun p => p.code = code) = true := List.any_eq_true.2 ⟨p, hp, by simpa using hcode⟩
  rw [Wave.pendCause, if_pos hany]

theorem Wave.wid_pendCause (w : Wave) (code : BitVec 6) (r : TrapRec) : (w.pendCause code r).wid = w.wid := by
  rw [Wave.pendCause]
  split <;> rfl

theorem State.wave?_pendCause {s : State} {wid : Nat} {w : Wave} (hw : s.wave? wid = some w) (code : BitVec 6) (r : TrapRec) :
    (s.pendCause wid code r).wave? wid = some (w.pendCause code r) :=
  State.wave?_updWave_self hw (f := fun x => x.pendCause code r) fun y => y.wid_pendCause code r

theorem State.wave?_pendCause_ne {s : State} {wid k : Nat} (h : k ≠ wid) (code : BitVec 6) (r : TrapRec) :
    (s.pendCause wid code r).wave? k = s.wave? k :=
  State.wave?_updWave_ne h (f := fun x => x.pendCause code r) fun y => y.wid_pendCause code r

/-- Causes made pending in waves of other names. -/
theorem wave?_foldl_pendCause_other {wid : Nat} {code : BitVec 6} (f : State → Wave → TrapRec) {ws : List Wave} (h : wid ∉ ws.map Wave.wid) (s : State) :
    (ws.foldl (fun s w => s.pendCause w.wid code (f s w)) s).wave? wid = s.wave? wid := by
  refine List.foldlRecOn (motive := fun t : State => t.wave? wid = s.wave? wid) ws _ rfl fun t ht w hw => ?_
  rw [State.wave?_pendCause_ne (fun heq => h (List.mem_map.2 ⟨w, hw, heq.symm⟩)), ht]

/-- A cause made pending in waves of different names, of which one is this. -/
theorem wave?_foldl_pendCause {wid : Nat} {w : Wave} {code : BitVec 6} (f : State → Wave → TrapRec) {ws : List Wave}
    (hnodup : (ws.map Wave.wid).Nodup) (hmem : w ∈ ws) (hwid : w.wid = wid) {s : State} {x : Wave} (hx : s.wave? wid = some x) :
    ∃ t, (ws.foldl (fun s w => s.pendCause w.wid code (f s w)) s).wave? wid = some (x.pendCause code (f t w)) := by
  obtain ⟨pre, post, rfl⟩ := List.append_of_mem hmem
  rw [List.map_append, List.map_cons, hwid] at hnodup
  have hpre : wid ∉ pre.map Wave.wid := fun h => (List.nodup_append.1 hnodup).2.2 _ h _ List.mem_cons_self rfl
  have hpost : wid ∉ post.map Wave.wid := (List.nodup_cons.1 (List.nodup_append.1 hnodup).2.1).1
  rw [List.foldl_append, List.foldl_cons, wave?_foldl_pendCause_other f hpost, hwid]
  exact ⟨_, State.wave?_pendCause ((wave?_foldl_pendCause_other f hpre s).trans hx) code _⟩

theorem State.haltAll_parts (s : State) (p reason : Nat) : (s.haltAll p reason).parts = s.parts :=
  List.foldlRecOn (motive := fun t : State => t.parts = s.parts) _ _ rfl fun _ ht _ _ => ht

/-- The debugger's halt leaves cause 51 pending in each wave of its partition. -/
theorem exec_dbgHalt_pends {s : State} {wid p : Nat} {w : Wave} (hw : s.wave? wid = some w) (v : BitVec 64) (hpart : s.partOfBlock w.blk = p)
    (hp : p < s.parts.length) (hnew : ∀ q ∈ w.pend, q.code ≠ 51#6) (hnodup : (s.waves.map Wave.wid).Nodup) :
    ∃ t y r, exec (.dbgHalt p v) s = .next t ∧ t.wave? wid = some y ∧ y.pend = w.pend ++ [⟨51#6, r⟩] ∧ r.info0 = 1#32
      ∧ (t.part p).dbgCtl = v.extractLsb' 0 4 ||| 2#4 := by
  have hmem : w ∈ (s.updPart p (fun x => x.setDbg (v ||| 2#64))).wavesOf p :=
    List.mem_filter.2 ⟨List.mem_of_find?_eq_some hw, by exact decide_eq_true hpart⟩
  have hwaves : (((s.updPart p (fun x => x.setDbg (v ||| 2#64))).wavesOf p).map Wave.wid).Nodup := hnodup.sublist (List.filter_sublist.map _)
  obtain ⟨u, hu⟩ := wave?_foldl_pendCause (code := 51#6) (fun s w => { asyncRec s w 51#6 0#64 with info0 := word 1 }) hwaves hmem
    (by simpa using List.find?_some hw) (s := s.updPart p (fun x => x.setDbg (v ||| 2#64))) hw
  rw [Wave.pendCause_of_new hnew] at hu
  refine ⟨_, _, _, rfl, hu, rfl, rfl, ?_⟩
  rw [State.part, State.haltAll_parts, ← State.part, State.part_updPart_same _ hp]
  show (v ||| 2#64).extractLsb' 0 4 = _
  rw [BitVec.extractLsb'_or]
  rfl

section
variable {s : State} {wid : Nat} {w : Wave} (hw : s.wave? wid = some w)
include hw

/-- An uncorrectable error leaves cause 63 pending with its source. -/
theorem exec_uncorrectableError_new (src : Nat) (hnew : ∀ p ∈ w.pend, p.code ≠ 63#6) :
    ∃ t y r, exec (.uncorrectableError wid src) s = .next t ∧ t.wave? wid = some y
      ∧ y = { w with pend := w.pend ++ [⟨63#6, r⟩] } ∧ r.cause = 63#6 ∧ r.detail = BitVec.ofNat 16 src ∧ r.async = true := by
  have hpend := State.wave?_pendCause hw 63#6 { asyncRec s w 63#6 0#64 with detail := BitVec.ofNat 16 src }
  rw [Wave.pendCause_of_new hnew] at hpend
  refine ⟨_, _, _, ?_, hpend, rfl, rfl, rfl, rfl⟩
  rw [exec_uncorrectableError, execUncorrectableError, hw]

/-- A second one sets OVF and is lost. -/
theorem exec_uncorrectableError_again (src : Nat) (hpending : ∃ p ∈ w.pend, p.code = 63#6) :
    ∃ t y, exec (.uncorrectableError wid src) s = .next t ∧ t.wave? wid = some y
      ∧ y.pend.map Pending.code = w.pend.map Pending.code ∧ (∀ p ∈ y.pend, p.code = 63#6 → p.trec.ovf = true) := by
  refine ⟨_, _, ?_, State.wave?_pendCause hw 63#6 { asyncRec s w 63#6 0#64 with detail := BitVec.ofNat 16 src }, ?_, fun p hp hcode => ?_⟩
  · rw [exec_uncorrectableError, execUncorrectableError, hw]
  · rw [Wave.pendCause_of_pending hpending, List.map_map]
    refine List.map_congr_left fun p _ => ?_
    simp only [Function.comp_apply]
    split <;> rfl
  · rw [Wave.pendCause_of_pending hpending] at hp
    obtain ⟨q, -, rfl⟩ := List.mem_map.1 hp
    split
    · rfl
    next hne =>
      rw [if_neg hne] at hcode
      exact absurd hcode hne

/-- A wave that enters its handler for a pending cause, whose wait goes on after the return. -/
theorem exec_asyncCauseTaken_handler {p : Pending} (hrun : s.canRun w = true) (hbound : w.atBoundary = true) (hmask : w.mode.getLsbD 9 = false)
    (hloads : w.loads = []) (hp : firstPending w.pend = some p) (h63 : p.code ≠ 63#6) (h48 : p.code ≠ 48#6) :
    ∃ t r y, exec (.asyncCauseTaken wid) s = .next t ∧ t.wave? wid = some y ∧ enters w r (s.handler wid) y
      ∧ r.pc = w.pc ∧ r.async = true ∧ r.cause = p.trec.cause ∧ y.pend = w.pend.filter (fun x => x.code ≠ p.code) ∧ t.mem = s.mem
      ∧ ((t.returnFromHandler wid).wave? wid).map Wave.wait =
          some (if w.wait ∈ [Wait.no, .scoreboard, .fetch, .queue, .sleep] then .no else w.wait) := by
  have hdrop := State.wave?_updWave_self hw (f := fun y => y.dropPend p.code)
  have htaken := (State.takeAsync_enters hw hloads h63 h48).trans (State.enterHandler_eq hdrop hloads _ _ _ _)
  rw [State.handler_updWave hw (f := fun y => y.dropPend p.code) (fun _ => rfl) rfl] at htaken
  have hwave := State.wave?_updWave_self hdrop (f := fun x => x.entered { p.trec with pc := w.pc, exec := w.exec, clk := s.clk, async := true }
    .plain (s.handler wid) w.keptStage.1 w.keptStage.2)
  rw [← htaken] at hwave
  refine ⟨_, { p.trec with pc := w.pc, exec := w.exec, clk := s.clk, async := true }, _, exec_asyncCauseTaken_takes hw hrun hbound hmask hp, hwave, ?_, rfl, rfl, rfl, rfl, by rw [htaken]; rfl, ?_⟩
  · exact ⟨rfl, rfl, rfl, rfl, rfl, fun k hk => getElem?_setAside hk, rfl, rfl, rfl, rfl, rfl, rfl, rfl, rfl, rfl, rfl⟩
  · rw [State.wait_returnFromHandler hwave (fun h => nomatch h) rfl]
    show some (if w.wait.kept = true then w.wait else Wait.no) = _
    have hkept := w.wait.kept_eq_false_iff
    cases hk : w.wait.kept with
    | false => rw [if_pos (hkept.1 hk)]; rfl
    | true => rw [if_neg fun h => absurd ((hkept.2 h).symm.trans hk) (by decide)]; rfl

/-! ## Sleep and the watchdog -/

theorem exec_sleepExpiry_ends (hsleep : w.wait = .sleep) (hend : w.sleepEnd.toNat ≤ s.dieClk w.core ∨ w.preq = true) :
    exec (.sleepExpiry wid) s = .next (s.updWave wid (fun y => { y with wait := .no, stage := 2, aux := 0, stall := 0#4 })) := by
  rw [exec_sleepExpiry, execSleepExpiry, hw]
  exact if_pos (by simpa [hsleep] using hend)

theorem exec_sleepExpiry_early (h : w.wait ≠ .sleep ∨ (s.dieClk w.core < w.sleepEnd.toNat ∧ w.preq = false)) :
    exec (.sleepExpiry wid) s = .next s := by
  rw [exec_sleepExpiry, execSleepExpiry, hw]
  refine if_neg ?_
  rcases h with h | ⟨hlt, hpreq⟩
  · simp [h]
  · simp [hpreq, Nat.not_le.2 hlt]

theorem exec_watchdogExpiry_pends (hlim : (s.part (s.partOfWave wid)).wdog.toNat ≠ 0) (hstop : w.stopped = false) (hbark : w.barked = false)
    (hnew : ∀ p ∈ w.pend, p.code ≠ 50#6) (hlate : (s.part (s.partOfWave wid)).wdog.toNat * 1024 ≤ s.dieSince w.core w.lastIssue) :
    ∃ t y r, exec (.watchdogExpiry wid) s = .next t ∧ t.wave? wid = some y ∧ y = { w with barked := true, pend := w.pend ++ [⟨50#6, r⟩] }
      ∧ r.cause = 50#6 ∧ r.info0 = w.stall.setWidth 32 := by
  have hpend := State.wave?_pendCause (State.wave?_updWave_self hw (f := fun y => { y with barked := true })) 50#6
    { asyncRec s w 50#6 0#64 with info0 := w.stall.zeroExtend 32 }
  rw [Wave.pendCause_of_new (by exact hnew)] at hpend
  refine ⟨_, _, _, ?_, hpend, rfl, rfl, rfl⟩
  rw [exec_watchdogExpiry, execWatchdogExpiry, hw]
  exact if_pos (by simp [hlim, hstop, hbark, hlate])

theorem exec_watchdogExpiry_quiet (h : (s.part (s.partOfWave wid)).wdog.toNat = 0 ∨ w.barked = true
      ∨ s.dieSince w.core w.lastIssue < (s.part (s.partOfWave wid)).wdog.toNat * 1024) : exec (.watchdogExpiry wid) s = .next s := by
  rw [exec_watchdogExpiry, execWatchdogExpiry, hw]
  refine if_neg ?_
  rcases h with h | h | h
  · simp [h]
  · simp [h]
  · simp [Nat.not_le.2 h]

end

end Sys2Proof.Machine

namespace Sys2Proof.Proofs

open Sys2Proof Sys2Proof.Machine

/-- Settles O37: the queue's record is followed into its ring; each event of a wave is one update of it. -/
theorem pendingCausesSleepsAndHalts : Obligations.PendingCausesSleepsAndHalts := by
  unfold Obligations.PendingCausesSleepsAndHalts
  refine ⟨?queue, fun s wid w hw => ⟨fun p => exec_asyncCauseTaken_handler hw, fun p => exec_asyncCauseTaken_checks hw,
    fun ps p => firstPending_spec, exec_uncorrectableError_new hw, exec_uncorrectableError_again hw⟩, ?events⟩
  case queue =>
    intro s p source cause addr agent unit hp hheld x ring full va t y
    have ht : t = _ := State.postFault_eq hp hheld source cause addr agent unit
    refine ⟨fun hring => ?_, fun hring hfull => ?_, fun pl hring hroom hckpt hwf htr hhome => ?_⟩
    · have hex : fqExists (s.part p) = false := Bool.eq_false_iff.2 fun h => hring ((fqExists_iff _).1 h)
      obtain ⟨hpart, hmem⟩ := State.drainFq_holdFault_dropped hp hheld hex
      exact ⟨(congrArg (State.part · p) ht).trans hpart, (congrArg State.mem ht).trans hmem⟩
    · obtain ⟨hwaits, hunit⟩ := State.drainFq_holdFault_waits hp ((fqExists_iff _).2 hring) hfull
      have ht' := ht.trans hwaits
      have hpart : y = _ := (congrArg (State.part · p) ht').trans (State.part_holdFault hp _)
      exact ⟨by rw [hpart], by rw [hpart], by rw [hpart]; rfl, (congrArg State.mem ht').trans rfl, by rw [ht']; exact hunit⟩
    · have hbytes := faultRecord_bytes source cause addr agent s.clk
      have hwrites := State.drainFq_holdFault_writes hp (r := { source := source, unit := unit, words := faultRecord source cause addr agent s.clk })
        ((fqExists_iff _).2 hring) hroom hckpt hwf (by rw [hbytes]; rfl) rfl htr hhome
      rw [← ht, hbytes] at hwrites
      exact hwrites
  case events =>
    intro s wid w hw lim
    exact ⟨exec_sleepExpiry_ends hw, exec_sleepExpiry_early hw, exec_watchdogExpiry_pends hw, exec_watchdogExpiry_quiet hw,
      fun p v => exec_dbgHalt_pends hw v⟩

end Sys2Proof.Proofs
